-- ==== Sys2Proof/Word.lean ====
section
/-! DEFINITION. The word types of the Perdin: bytes, text words and registers (R2, R212). -/

namespace Sys2Proof

/-- A byte of memory. -/
abbrev Byte := BitVec 8
/-- A text word or bank element (R29, R212). -/
abbrev Word32 := BitVec 32
/-- An x register (R212). -/
abbrev Word := BitVec 64
/-- The 128 bits of a capability (R101). -/
abbrev Word128 := BitVec 128

end Sys2Proof
end

