-- ==== Sys2Proof/Syntax.lean ====
section
/-! DEFINITION. The instruction set as syntax: one constructor per row of the spec's opcode table, that is, one
per major form of the opcode map (R50 to R57) and one per event of the table.
Register numbers and immediates are kept as the natural numbers that stand in the encoding's fields; the limits on
them are in `Sys2Proof.WellFormed`.  An event's arguments name the unit, cluster, stack, task or link it concerns and
carry what only the outside world can supply. -/

namespace Sys2Proof

/-- The six engines of a unit (R17). -/
inductive Eng where
  | S | L | V | W | M | C
  deriving DecidableEq, Repr

/-- The engine codes of R17. -/
def Eng.code : Eng → Nat
  | .S => 0 | .L => 1 | .V => 2 | .W => 3 | .M => 4 | .C => 5

/-- The engine of a code 0 to 5; codes above 5 name no engine, and callers check the bound first. -/
def Eng.ofCode : Nat → Eng
  | 0 => .S | 1 => .L | 2 => .V | 3 => .W | 4 => .M | _ => .C

/-- The token action of a word (R30): TK with the partner engine PEER. -/
inductive Tok where
  | none
  | wait (p : Eng)
  | post (p : Eng)
  | both (p : Eng)
  deriving DecidableEq, Repr

/-- The field TK of R30. -/
def Tok.code : Tok → Nat
  | .none => 0 | .wait _ => 1 | .post _ => 2 | .both _ => 3

/-- The field PEER of R30: zero when there is no token action (R31). -/
def Tok.peer : Tok → Nat
  | .none => 0 | .wait p => p.code | .post p => p.code | .both p => p.code

/-- The engine whose token the word waits for, if any. -/
def Tok.waits : Tok → Option Eng
  | .none => Option.none | .wait p => some p | .post _ => Option.none | .both p => some p

/-- The engine to which the word posts, if any. -/
def Tok.posts : Tok → Option Eng
  | .none => Option.none | .wait _ => Option.none | .post p => some p | .both p => some p

/-- A guard: predicate register and sense (R41); sense 0 executes when the predicate is true. -/
structure Grd where
  pr : Nat
  sense : Nat
  deriving DecidableEq, Repr

/-- The optional guard word XP (R39, R41): `none` is the one-word variant, which is unguarded. -/
abbrev XP := Option Grd

/-- The F field of a V word (R37). -/
structure FV where
  vd : Nat
  rnd : Nat
  sat : Nat
  ty : Nat
  deriving DecidableEq, Repr

/-- The XV extension word (R39). -/
structure XV where
  va : Nat
  vb : Nat
  pr : Nat
  sense : Nat
  la : Nat
  lb : Nat
  bx : Nat
  sp : Nat
  deriving DecidableEq, Repr

/-- The XM extension word (R39). -/
structure XM where
  pr : Nat
  sense : Nat
  size : Nat
  sx : Nat
  scope : Nat
  sub : Nat
  off : Nat
  deriving DecidableEq, Repr

/-- The XC extension word (R169). -/
structure XC where
  pr : Nat
  sense : Nat
  rnd : Nat
  sfmt : Nat
  dfmt : Nat
  ks : Nat
  scstr : Nat
  deriving DecidableEq, Repr

/-- The XMM extension word (R261): `mr` and `k` are the encoded values MR − 1 and K − 1. -/
structure XMM where
  pr : Nat
  sense : Nat
  mode : Nat
  shr : Nat
  bset : Nat
  mr : Nat
  k : Nat
  deriving DecidableEq, Repr

/-- The XL extension word (R312): `nst` and `body` are the encoded values NST − 1 and BODY − 1. -/
structure XL where
  nst : Nat
  ci : Nat
  body : Nat
  trip : Nat
  deriving DecidableEq, Repr

/-- The XW extension word (R44). -/
structure XW where
  loads : Nat
  stores : Nat
  copies : Nat
  tiles : Nat
  deriving DecidableEq, Repr

/-- One constructor per row of the opcode table: first the instruction words of the engines S, L, V, W, M, C and the
A-tagged words, then the four CSRW sub-cases and the events. -/
inductive Instr where
  | add (tk : Tok) (d a b : Nat) (g : XP)
  | sub (tk : Tok) (d a b : Nat) (g : XP)
  | and (tk : Tok) (d a b : Nat) (g : XP)
  | or (tk : Tok) (d a b : Nat) (g : XP)
  | xor (tk : Tok) (d a b : Nat) (g : XP)
  | sll (tk : Tok) (d a b : Nat) (g : XP)
  | srl (tk : Tok) (d a b : Nat) (g : XP)
  | sra (tk : Tok) (d a b : Nat) (g : XP)
  | mul (tk : Tok) (d a b : Nat) (g : XP)
  | mulh (tk : Tok) (d a b : Nat) (g : XP)
  | mulhu (tk : Tok) (d a b : Nat) (g : XP)
  | div (tk : Tok) (d a b : Nat) (g : XP)
  | divu (tk : Tok) (d a b : Nat) (g : XP)
  | rem (tk : Tok) (d a b : Nat) (g : XP)
  | remu (tk : Tok) (d a b : Nat) (g : XP)
  | min (tk : Tok) (d a b : Nat) (g : XP)
  | max (tk : Tok) (d a b : Nat) (g : XP)
  | minu (tk : Tok) (d a b : Nat) (g : XP)
  | maxu (tk : Tok) (d a b : Nat) (g : XP)
  | slt (tk : Tok) (d a b : Nat) (g : XP)
  | sltu (tk : Tok) (d a b : Nat) (g : XP)
  | seq (tk : Tok) (d a b : Nat) (g : XP)
  | clz (tk : Tok) (d a : Nat) (g : XP)
  | popc (tk : Tok) (d a : Nat) (g : XP)
  | ext (tk : Tok) (d a sx pos wm1 : Nat)
  | addi (tk : Tok) (d a imm : Nat) (g : XP)
  | liShort (tk : Tok) (d imm : Nat)
  | liLong (tk : Tok) (d imm32 : Nat)
  | andi (tk : Tok) (d a imm : Nat) (g : XP)
  | ori (tk : Tok) (d a imm : Nat) (g : XP)
  | xori (tk : Tok) (d a imm : Nat) (g : XP)
  | shi (tk : Tok) (d a imm kind : Nat)
  | add128 (tk : Tok) (d a b : Nat) (g : XP)
  | pcmp (tk : Tok) (d a b cond : Nat)
  | pset (tk : Tok) (d v : Nat) (g : XP)
  | pand (tk : Tok) (d a b : Nat) (g : XP)
  | por (tk : Tok) (d a b : Nat) (g : XP)
  | pxor (tk : Tok) (d a b : Nat) (g : XP)
  | pnot (tk : Tok) (d a : Nat) (g : XP)
  | ptox (tk : Tok) (d : Nat) (g : XP)
  | xtop (tk : Tok) (a : Nat) (g : XP)
  | kld (tk : Tok) (d a b : Nat) (m : XM)
  | kst (tk : Tok) (d a b : Nat) (m : XM)
  | ksub (tk : Tok) (d a b imm32 : Nat)
  | kperm (tk : Tok) (d a perm : Nat)
  | kmov (tk : Tok) (d a : Nat) (g : XP)
  | kget (tk : Tok) (d a imm : Nat) (g : XP)
  | ktest (tk : Tok) (d a imm : Nat) (g : XP)
  | ld (tk : Tok) (d a b : Nat) (m : XM)
  | st (tk : Tok) (d a b : Nat) (m : XM)
  | ldaq (tk : Tok) (d a b : Nat) (m : XM)
  | strl (tk : Tok) (d a b : Nat) (m : XM)
  | amo (tk : Tok) (d a b : Nat) (m : XM)
  | cas (tk : Tok) (d a b : Nat) (m : XM)
  | fence (tk : Tok) (kind scope : Nat)
  | nmc (tk : Tok) (d a b : Nat) (m : XM)
  | nmfence (tk : Tok)
  | qpush (tk : Tok) (d stage : Nat) (g : XP)
  | qpop (tk : Tok) (d : Nat) (g : XP)
  | bar (tk : Tok) (num scope : Nat)
  | sset (tk : Tok) (d a b : Nat) (m : XM)
  | sget (tk : Tok) (d a imm : Nat) (g : XP)
  | spos (tk : Tok) (d a : Nat) (g : XP)
  | tcont (tk : Tok) (d a b : Nat) (m : XM)
  | tevt (tk : Tok) (d act ev : Nat) (g : XP)
  | targ (tk : Tok) (d a sx size : Nat) (g : XP)
  | jguard (tk : Tok) (a size : Nat)
  | jpatch (tk : Tok) (d a : Nat)
  | jmark (tk : Tok) (imm : Nat)
  | jstat (tk : Tok) (d imm : Nat)
  | opreq (tk : Tok) (d q imm32 : Nat)
  | oprel (tk : Tok)
  | opget (tk : Tok) (d imm : Nat) (g : XP)
  | csrr (tk : Tok) (d csr : Nat)
  | csrw (tk : Tok) (d csr : Nat)
  | trap (tk : Tok) (imm : Nat)
  | reti (tk : Tok)
  | decline (tk : Tok)
  | ctxsave (tk : Tok) (a b : Nat)
  | ctxload (tk : Tok) (a b : Nat)
  | nopS (tk : Tok)
  | waitS (tk : Tok) (w : XW)
  | lsv (tk : Tok) (s sp : Nat) (g : XP)
  | lgath (tk : Tok) (s sp : Nat) (x : XV)
  | lbrd (tk : Tok) (s sp : Nat) (g : XP)
  | sgoL (tk : Tok) (s : Nat) (g : XP)
  | sskipL (tk : Tok) (s imm32 : Nat)
  | srewL (tk : Tok) (s : Nat) (g : XP)
  | sdropL (tk : Tok) (s : Nat) (g : XP)
  | nopL (tk : Tok)
  | waitL (tk : Tok) (w : XW)
  | wsv (tk : Tok) (s sp last : Nat) (g : XP)
  | wscat (tk : Tok) (s sp last : Nat) (x : XV)
  | wacc (tk : Tok) (s sp last : Nat) (g : XP)
  | sgoW (tk : Tok) (s : Nat) (g : XP)
  | sskipW (tk : Tok) (s imm32 : Nat)
  | srewW (tk : Tok) (s : Nat) (g : XP)
  | sdropW (tk : Tok) (s : Nat) (g : XP)
  | wflush (tk : Tok) (scope : Nat)
  | nopW (tk : Tok)
  | waitW (tk : Tok) (w : XW)
  | vadd (tk : Tok) (f : FV) (x : XV)
  | vsub (tk : Tok) (f : FV) (x : XV)
  | vmul (tk : Tok) (f : FV) (x : XV)
  | vfma (tk : Tok) (f : FV) (x : XV)
  | vfms (tk : Tok) (f : FV) (x : XV)
  | vfnma (tk : Tok) (f : FV) (x : XV)
  | vdiv (tk : Tok) (f : FV) (x : XV)
  | vsqrt (tk : Tok) (f : FV) (x : XV)
  | vrcp (tk : Tok) (f : FV) (x : XV)
  | vrsq (tk : Tok) (f : FV) (x : XV)
  | vexp2 (tk : Tok) (f : FV) (x : XV)
  | vlog2 (tk : Tok) (f : FV) (x : XV)
  | vmin (tk : Tok) (f : FV) (x : XV)
  | vmax (tk : Tok) (f : FV) (x : XV)
  | vabs (tk : Tok) (f : FV) (x : XV)
  | vneg (tk : Tok) (f : FV) (x : XV)
  | vand (tk : Tok) (f : FV) (x : XV)
  | vor (tk : Tok) (f : FV) (x : XV)
  | vxor (tk : Tok) (f : FV) (x : XV)
  | vnot (tk : Tok) (f : FV) (x : XV)
  | vshl (tk : Tok) (f : FV) (x : XV)
  | vshr (tk : Tok) (f : FV) (x : XV)
  | vsra (tk : Tok) (f : FV) (x : XV)
  | vmulh (tk : Tok) (f : FV) (x : XV)
  | vcmp (tk : Tok) (f : FV) (x : XV)
  | vsel (tk : Tok) (f : FV) (x : XV)
  | vmov (tk : Tok) (f : FV) (x : XV)
  | vcvt (tk : Tok) (f : FV) (x : XV)
  | vclass (tk : Tok) (f : FV) (x : XV)
  | vidx (tk : Tok) (f : FV) (x : XV)
  | vbcast (tk : Tok) (f : FV) (x : XV)
  | vextr (tk : Tok) (f : FV) (x : XV)
  | vred (tk : Tok) (f : FV) (x : XV)
  | vscan (tk : Tok) (f : FV) (x : XV)
  | vshuf (tk : Tok) (f : FV) (x : XV)
  | vrot (tk : Tok) (f : FV) (x : XV)
  | vcpush (tk : Tok) (f : FV) (x : XV)
  | vcpop (tk : Tok) (f : FV) (x : XV)
  | vccnt (tk : Tok) (f : FV) (x : XV)
  | vrng (tk : Tok) (f : FV) (x : XV)
  | vql6 (tk : Tok) (f : FV) (x : XV)
  | vdl6 (tk : Tok) (f : FV) (x : XV)
  | vpack (tk : Tok) (f : FV) (x : XV)
  | vunpk (tk : Tok) (f : FV) (x : XV)
  | bhint (tk : Tok) (d fall kind : Nat) (g : XP)
  | bwake (tk : Tok) (d kind : Nat) (g : XP)
  | balloc (tk : Tok) (d take : Nat) (g : XP)
  | bstat (tk : Tok) (d imm : Nat) (g : XP)
  | nopV (tk : Tok)
  | waitV (tk : Tok) (w : XW)
  | mmul (tk : Tok) (s bk last : Nat) (m : XMM)
  | mmulb (tk : Tok) (s bk last : Nat) (m : XMM)
  | mscal (tk : Tok) (d imm32 : Nat)
  | mclr (tk : Tok) (d : Nat) (g : XP)
  | mjoin (tk : Tok) (sz src g : Nat)
  | mleave (tk : Tok) (g : Nat)
  | mbset (tk : Tok) (imm imm32 : Nat)
  | nopM (tk : Tok)
  | waitM (tk : Tok) (w : XW)
  | cpy (tk : Tok) (d a b : Nat) (c : XC)
  | ccvt (tk : Tok) (d a b : Nat) (c : XC)
  | cfill (tk : Tok) (d a b : Nat) (c : XC)
  | bload (tk : Tok) (d a b : Nat) (c : XC)
  | wdef (tk : Tok) (d a b : Nat) (c : XC)
  | wadv (tk : Tok) (d a imm : Nat) (g : XP)
  | wrel (tk : Tok) (d : Nat) (g : XP)
  | dload (tk : Tok) (a b ks : Nat)
  | dstart (tk : Tok) (a : Nat)
  | dstop (tk : Tok)
  | dstat (tk : Tok) (d wt sel : Nat) (g : XP)
  | nopC (tk : Tok)
  | waitC (tk : Tok) (w : XW)
  | br (d sense imm32 : Nat)
  | jmp (imm32 : Nat)
  | call (d imm32 : Nat)
  | ret (a : Nat)
  | loop (d : Nat) (l : XL)
  | yield
  | endW
  | blend (d : Nat)
  | bret (d : Nat)
  | sync
  | nopA
  | statusParkd (u : Nat)
  | statusAbort (u : Nat)
  | tapectlNorec (u : Nat)
  | tapectlJdrop (u : Nat)
  | trapEntry (u : Nat)
  | tokenTimeout (u e : Nat)
  | tokenPush (u e : Nat)
  | scalarLoadPerformed (u id : Nat)
  | scalarStorePerformed (u id : Nat)
  | atomicPerformed (u id : Nat)
  | barComplete (t n : Nat)
  | copyMovePerformed (u id : Nat)
  | windowFillPerformed (u w : Nat)
  | spadBankFall (u b : Nat)
  | spadBankWakeDone (u b : Nat)
  | regBankFall (u b : Nat)
  | regBankWakeDone (u b : Nat)
  | dupCopyDone (u b : Nat)
  | streamRequest (u s : Nat)
  | streamDataReturn (u s : Nat)
  | loadWordPerformed (u : Nat)
  | storeWordPerformed (u id : Nat)
  | vWordRetire (u : Nat)
  | mmulPanelComplete (u : Nat)
  | tileOpPerformed (u : Nat)
  | sharedBRound (c g : Nat)
  | nmCommand (k : Nat)
  | nmCommandEnd (k : Nat)
  | tlbWalkDone (die i : Nat)
  | tinv
  | tinvComplete
  | migr
  | migrResume
  | migrCopyDone (ok : Bool)
  | hotPageEpoch
  | subarrayRefresh (k : Nat)
  | timeBeacon
  | timeLockLoss
  | timeLockRegain
  | dovetailLinkDegrade (l : Nat)
  | dovetailLinkDown (l : Nat)
  | peerAccess (id : Nat)
  | peerWriteRefused (u id : Nat)
  | dovetailBeat (u : Nat)
  | dovetailEntryStart (u i : Nat)
  | dovetailReceive (l : Nat)
  | dovetailEntryPerformed (u i : Nat)
  | dovetailTimeout (u i : Nat)
  | unitEnd (u : Nat)
  | taskComplete (t : Nat)
  | submit (r : Nat)
  | hostEndGraph (r : Nat)
  | dispatchTick
  | continuationForward
  | fallbackForward (die : Nat)
  | guaranteedOverrun (t : Nat)
  | curve (sigOk : Bool)
  | curveEffective
  | curvePointStart
  | curveHorizonEnd
  | underdraw
  | relockDone (c : Nat)
  | voltageRampDone (c : Nat)
  | preemptRequest (t : Nat)
  | preemptWithdraw (t : Nat)
  | forcedSave (u : Nat)
  | parkDone (t : Nat)
  | parkResume (t : Nat)
  | unitResume (u : Nat)
  | dieGate (die : Nat)
  | dieUngate (die : Nat)
  | dieUngateReady (die : Nat)
  | leaseExpire (t : Nat)
  | pairThrottle (p : Nat)
  | pairThrottleRestore (p : Nat)
  | pairThrottleLower (p : Nat)
  | boilingLimitUpdate (die lim : Nat)
  | thermalEmergency (die : Nat)
  | slowdownNotice
  | thermalCapBeat (i : Nat)
  | thermalEmergencyEnd (die : Nat)
  | thermalSevere (die : Nat)
  | sensorFail (c : Nat)
  | machineCheck (u src bank synd addr : Nat)
  | telemetryRecord (src : Nat)
  | suspectConnection (p : Nat)
  | connectorMargin
  | sillaneDegrade (l : Nat)
  | sillaneLinkDown (l : Nat)
  | register
  | attest
  | keyset (sigOk : Bool)
  | domain
  | coldReset
  | warmReset
  | sillaneTrained (l : Nat)
  | hbm4PhyTrained (k : Nat) (ok : Bool)
  | dovetailTrained (l : Nat)
  | taskStart (t : Nat)
  | tevtPerformed (u : Nat)
  | dloadContextLoaded (u : Nat)
  | ctxTransferDone (u : Nat)
  | scalarArithRetire (u : Nat)
  | hostMemoryAccess (id : Nat)
  | cxlLinkDown (l : Nat)
  | mailboxBadcmd
  | translationBadcmd
  | curvePointLookahead
  deriving DecidableEq, Repr

end Sys2Proof
end

