-- ==== Sys2Proof/WellFormed.lean ====
section
/-! DEFINITION. Well-formed instructions: the limits that R31, R37, R39, R40, R43 and each instruction's own rule put
on the fields, as named Boolean checks. -/

namespace Sys2Proof

/-- A register number of the x or p file (R37). -/
def okX (n : Nat) : Bool := decide (n < 32)
/-- A register number of the k or s file (R37): bit 4 of the field is zero. -/
def okK (n : Nat) : Bool := decide (n < 16)
/-- A number of cq, w or a bank, or any other 3-bit field (R37). -/
def okW (n : Nat) : Bool := decide (n < 8)
/-- The 6-bit immediate of the FI layout. -/
def okI6 (n : Nat) : Bool := decide (n < 64)
/-- The 11-bit immediate of the short LI (R57). -/
def okI11 (n : Nat) : Bool := decide (n < 2048)
/-- A 32-bit extension word (R39). -/
def okI32 (n : Nat) : Bool := decide (n < 4294967296)
/-- A one-bit field. -/
def okBit (n : Nat) : Bool := decide (n < 2)
/-- A two-bit field. -/
def okSize (n : Nat) : Bool := decide (n < 4)
/-- A two-bit field whose value 3 is no encoding. -/
def okKind3 (n : Nat) : Bool := decide (n < 3)
/-- A scope or size code 0 to 4 (R43). -/
def okScope (n : Nat) : Bool := decide (n < 5)
/-- A barrier's scope, 1 to 3 (R162). -/
def okBarScope (n : Nat) : Bool := decide (1 ≤ n) && decide (n ≤ 3)
/-- A three-bit field that must not be zero (R272). -/
def okNz3 (n : Nat) : Bool := decide (1 ≤ n) && decide (n ≤ 7)
/-- A stream number of the FS layout. -/
def okSt (n : Nat) : Bool := decide (n < 16)
/-- An operand specifier (R46): all 2,048 values are legal. -/
def okSpec (n : Nat) : Bool := decide (n < 2048)
/-- The first of four x registers, a multiple of 4 from 4 to 28 (R180, R381). -/
def okQuad (n : Nat) : Bool := decide (n % 4 = 0) && decide (4 ≤ n)
/-- A bank number of BHINT and BWAKE (R224): sp0 to sp15 with kind 1, b0 to b7 with kind 0. -/
def okBank (d kind : Nat) : Bool := decide (d < 16) && (decide (kind = 1) || decide (d < 8))
/-- The CSR numbers of R58. -/
def okCsr (n : Nat) : Bool :=
  [0x000, 0x001, 0x002, 0x003, 0x004, 0x010, 0x011, 0x012, 0x020, 0x021, 0x030, 0x031, 0x040, 0x041, 0x042,
    0x050, 0x060, 0x070, 0x071, 0x080].contains n

/-- The token rules of R31: the partner differs from the word's own engine. -/
def okTok (eng : Nat) (t : Tok) : Bool :=
  match t with
  | .none => true
  | .wait p => decide (p.code ≠ eng)
  | .post p => decide (p.code ≠ eng)
  | .both p => decide (p.code ≠ eng)

/-- The fields of a guard fit. -/
def okXP (g : XP) : Bool :=
  match g with
  | none => true
  | some g => okX g.pr && okBit g.sense

/-- One word without the guard word, two with it (R41). -/
def XPlen (g : XP) : Nat := if g.isSome then 2 else 1

def FV.bounds (f : FV) : Bool := okSpec f.vd && okSize f.rnd && okBit f.sat && okSize f.ty

def XV.bounds (x : XV) : Bool :=
  okSpec x.va && okSpec x.vb && okX x.pr && okBit x.sense && okBit x.la && okBit x.lb && okBit x.bx && okBit x.sp

def XM.bounds (m : XM) : Bool :=
  okX m.pr && okBit m.sense && okSize m.size && okBit m.sx && okW m.scope && decide (m.sub < 16)
    && decide (m.off < 65536)

def XM.noSize (m : XM) : Bool := decide (m.size = 0) && decide (m.sx = 0)
def XM.noSx (m : XM) : Bool := decide (m.sx = 0)
def XM.noScope (m : XM) : Bool := decide (m.scope = 0)
/-- A scope that an instruction uses is 0 to 4 (R43). -/
def XM.scopeOk (m : XM) : Bool := okScope m.scope
def XM.noSub (m : XM) : Bool := decide (m.sub = 0)
/-- AMO and CAS operate on 4 or 8 bytes (R155, R157). -/
def XM.atomSize (m : XM) : Bool := decide (2 ≤ m.size)

/-- The fields fit; a format code 3 raises UND (R169). -/
def XC.bounds (c : XC) : Bool :=
  okX c.pr && okBit c.sense && okSize c.rnd && okKind3 c.sfmt && okKind3 c.dfmt && okK c.ks
    && decide (c.scstr < 65536)

/-- CPY and CFILL use no XC field but the guard (R172, R173). -/
def XC.guardOnly (c : XC) : Bool :=
  decide (c.rnd = 0) && decide (c.sfmt = 0) && decide (c.dfmt = 0) && decide (c.ks = 0) && decide (c.scstr = 0)

/-- CCVT (R174): formats differ; RND only with a BF16 destination; KS and SCSTR only with an L6 side. -/
def XC.ccvtOk (c : XC) : Bool :=
  decide (c.sfmt ≠ c.dfmt) && (decide (c.rnd = 0) || decide (c.dfmt = 1))
    && (decide (c.sfmt = 2) || decide (c.dfmt = 2) || (decide (c.ks = 0) && decide (c.scstr = 0)))

/-- BLOAD (R175): SFMT 1 or 2; KS and SCSTR only for L6. -/
def XC.bloadOk (c : XC) : Bool :=
  decide (1 ≤ c.sfmt) && decide (c.dfmt = 0) && decide (c.rnd = 0)
    && (decide (c.sfmt = 2) || (decide (c.ks = 0) && decide (c.scstr = 0)))

/-- WDEF (R176) uses only KS and the guard. -/
def XC.wdefOk (c : XC) : Bool :=
  decide (c.rnd = 0) && decide (c.sfmt = 0) && decide (c.dfmt = 0) && decide (c.scstr = 0)

/-- The fields fit; MODE 3 raises UND (R260). -/
def XMM.bounds (m : XMM) : Bool :=
  okX m.pr && okBit m.sense && okKind3 m.mode && okBit m.shr && okSize m.bset && okI6 m.mr && decide (m.k < 4096)

/-- The fields fit; with CI = 0 the field TRIP is `res` (R312). -/
def XL.bounds (l : XL) : Bool :=
  okW l.nst && okBit l.ci && decide (l.body < 4096) && decide (l.trip < 65536)
    && (decide (l.ci = 1) || decide (l.trip = 0))

def XW.bounds (w : XW) : Bool :=
  decide (w.loads < 256) && decide (w.stores < 256) && decide (w.copies < 256) && decide (w.tiles < 256)

/-! ### V words: the subfields each one uses (R40, R227, R234 to R253) -/

/-- vb is used: with BX = 1 it names an x register and LB is zero (R40). -/
def XV.vbUsed (x : XV) : Bool := decide (x.bx = 0) || (okX x.vb && decide (x.lb = 0))
/-- vb, LB and BX are not used. -/
def XV.noVb (x : XV) : Bool := decide (x.vb = 0) && decide (x.lb = 0) && decide (x.bx = 0)
/-- BX must be 1 and vb names an x register. -/
def XV.bxOnly (x : XV) : Bool := decide (x.bx = 1) && okX x.vb && decide (x.lb = 0)
/-- vb optionally names an x register, and is otherwise not used. -/
def XV.bxOr (x : XV) : Bool := x.bxOnly || x.noVb
def XV.noSp (x : XV) : Bool := decide (x.sp = 0)
def XV.noVa (x : XV) : Bool := decide (x.va = 0) && decide (x.la = 0)
/-- va holds a queue number in its low three bits (R247). -/
def XV.cqVa (x : XV) : Bool := okW x.va && decide (x.la = 0)
/-- The XV word of LGATH and WSCAT (R205, R207). -/
def XV.gath (x : XV) : Bool := x.noVb && x.noSp

/-- The types F32 and B16 (R227). -/
def FV.isFp (f : FV) : Bool := decide (f.ty = 0) || decide (f.ty = 3)
/-- Rounding only for floating-point types, saturate only for integer types (R227). -/
def FV.rndSat (f : FV) : Bool := if f.isFp then decide (f.sat = 0) else decide (f.rnd = 0)
def FV.noRnd (f : FV) : Bool := decide (f.rnd = 0)
def FV.noSat (f : FV) : Bool := decide (f.sat = 0)
def FV.noTy (f : FV) : Bool := decide (f.ty = 0)
def FV.none (f : FV) : Bool := f.noRnd && f.noSat && f.noTy
def FV.noVd (f : FV) : Bool := decide (f.vd = 0)

def vArith (f : FV) (x : XV) : Bool := f.rndSat && x.vbUsed && x.noSp
def vDiv (f : FV) (x : XV) : Bool := f.rndSat && f.noSat && x.vbUsed && x.noSp
def vUnaryF (f : FV) (x : XV) : Bool := f.isFp && f.noSat && x.noVb && x.noSp
def vMinMax (f : FV) (x : XV) : Bool := f.noRnd && f.noSat && x.vbUsed && x.noSp
def vAbsNeg (f : FV) (x : XV) : Bool := decide (f.ty ≠ 2) && f.rndSat && x.noVb && x.noSp
def vBits (f : FV) (x : XV) : Bool := f.none && x.vbUsed && x.noSp
def vOne (f : FV) (x : XV) : Bool := f.none && x.noVb && x.noSp
def vMulh (f : FV) (x : XV) : Bool := !f.isFp && f.noRnd && f.noSat && x.vbUsed && x.noSp
/-- The condition of VCMP (R237). -/
def vCmpCode (f : FV) (x : XV) : Nat := f.rnd + 4 * x.sp
def vCmp (f : FV) (x : XV) : Bool :=
  f.noSat && x.vbUsed && (decide (vCmpCode f x < 6) || (decide (vCmpCode f x = 6) && f.isFp))
/-- VCVT's pairs of destination and source (R239). -/
def vCvt (f : FV) (x : XV) : Bool :=
  x.noVb && (!f.isFp || decide (f.sat = 0) || decide (x.sp = 0))
    && (decide (f.ty ≠ 0) || decide (f.sat = 0) || f.noRnd)
def vClass (f : FV) (x : XV) : Bool := f.isFp && f.noRnd && f.noSat && x.noVb && x.noSp
def vIdx (f : FV) (x : XV) : Bool := f.none && x.noVa && x.bxOr && x.noSp
def vBcast (f : FV) (x : XV) : Bool := f.none && x.bxOnly && (decide (x.sp = 0) || x.noVa)
def vExtr (_f : FV) (x : XV) : Bool := x.vbUsed
def vRot (_f : FV) (x : XV) : Bool := x.noVb
def vRed (f : FV) (x : XV) : Bool := x.noVb && f.rndSat && (decide (x.sp = 0) || (f.noRnd && f.noSat))
def vScan (f : FV) (x : XV) : Bool := x.noVb && f.rndSat
def vCpush (f : FV) (x : XV) : Bool := f.none && okW f.vd && decide (x.bx = 0) && x.noSp
def vCpop (f : FV) (x : XV) : Bool := f.none && x.cqVa && x.bxOnly && x.noSp
def vCcnt (f : FV) (x : XV) : Bool := f.none && x.cqVa && x.noVb && x.noSp
def vRng (f : FV) (x : XV) : Bool :=
  f.none && okX x.va && decide (x.va % 2 = 0) && decide (x.la = 0) && x.bxOnly && x.noSp
def vL6 (f : FV) (x : XV) : Bool := f.none && x.bxOr && x.noSp
def vPack (f : FV) (x : XV) : Bool := f.noSat && f.noTy && x.vbUsed && x.noSp
def vUnpk (f : FV) (x : XV) : Bool := f.none && x.noVb

/-- Check 5 of R33 together with the limits of R37 and of each instruction: every field of the
instruction is one that the spec's encoding admits.  Events have no encoding and are always well formed. -/
def Instr.wf : Instr → Bool
  | .add tk d a b g => okTok 0 tk && okX d && okX a && okX b && okXP g
  | .sub tk d a b g => okTok 0 tk && okX d && okX a && okX b && okXP g
  | .and tk d a b g => okTok 0 tk && okX d && okX a && okX b && okXP g
  | .or tk d a b g => okTok 0 tk && okX d && okX a && okX b && okXP g
  | .xor tk d a b g => okTok 0 tk && okX d && okX a && okX b && okXP g
  | .sll tk d a b g => okTok 0 tk && okX d && okX a && okX b && okXP g
  | .srl tk d a b g => okTok 0 tk && okX d && okX a && okX b && okXP g
  | .sra tk d a b g => okTok 0 tk && okX d && okX a && okX b && okXP g
  | .mul tk d a b g => okTok 0 tk && okX d && okX a && okX b && okXP g
  | .mulh tk d a b g => okTok 0 tk && okX d && okX a && okX b && okXP g
  | .mulhu tk d a b g => okTok 0 tk && okX d && okX a && okX b && okXP g
  | .div tk d a b g => okTok 0 tk && okX d && okX a && okX b && okXP g
  | .divu tk d a b g => okTok 0 tk && okX d && okX a && okX b && okXP g
  | .rem tk d a b g => okTok 0 tk && okX d && okX a && okX b && okXP g
  | .remu tk d a b g => okTok 0 tk && okX d && okX a && okX b && okXP g
  | .min tk d a b g => okTok 0 tk && okX d && okX a && okX b && okXP g
  | .max tk d a b g => okTok 0 tk && okX d && okX a && okX b && okXP g
  | .minu tk d a b g => okTok 0 tk && okX d && okX a && okX b && okXP g
  | .maxu tk d a b g => okTok 0 tk && okX d && okX a && okX b && okXP g
  | .slt tk d a b g => okTok 0 tk && okX d && okX a && okX b && okXP g
  | .sltu tk d a b g => okTok 0 tk && okX d && okX a && okX b && okXP g
  | .seq tk d a b g => okTok 0 tk && okX d && okX a && okX b && okXP g
  | .clz tk d a g => okTok 0 tk && okX d && okX a && okXP g
  | .popc tk d a g => okTok 0 tk && okX d && okX a && okXP g
  | .ext tk d a sx pos wm1 => okTok 0 tk && okX d && okX a && decide (sx < 2 ^ 1) && decide (pos < 2 ^ 6) && decide (wm1 < 2 ^ 6) && decide (pos + wm1 < 64)
  | .addi tk d a imm g => okTok 0 tk && okX d && okX a && okI6 imm && okXP g
  | .liShort tk d imm => okTok 0 tk && okX d && okI11 imm
  | .liLong tk d imm32 => okTok 0 tk && okX d && okI32 imm32
  | .andi tk d a imm g => okTok 0 tk && okX d && okX a && okI6 imm && okXP g
  | .ori tk d a imm g => okTok 0 tk && okX d && okX a && okI6 imm && okXP g
  | .xori tk d a imm g => okTok 0 tk && okX d && okX a && okI6 imm && okXP g
  | .shi tk d a imm kind => okTok 0 tk && okX d && okX a && okI6 imm && decide (kind < 2 ^ 2) && decide (kind < 3)
  | .add128 tk d a b g => okTok 0 tk && okX d && okX a && okX b && okXP g && decide (d % 2 = 0) && decide (a % 2 = 0) && decide (b % 2 = 0)
  | .pcmp tk d a b cond => okTok 0 tk && okX d && okX a && okX b && decide (cond < 2 ^ 3) && decide (cond < 6)
  | .pset tk d v g => okTok 0 tk && okX d && okBit v && okXP g
  | .pand tk d a b g => okTok 0 tk && okX d && okX a && okX b && okXP g
  | .por tk d a b g => okTok 0 tk && okX d && okX a && okX b && okXP g
  | .pxor tk d a b g => okTok 0 tk && okX d && okX a && okX b && okXP g
  | .pnot tk d a g => okTok 0 tk && okX d && okX a && okXP g
  | .ptox tk d g => okTok 0 tk && okX d && okXP g
  | .xtop tk a g => okTok 0 tk && okX a && okXP g
  | .kld tk d a b m => okTok 0 tk && okK d && okK a && okX b && m.bounds && m.noSize && m.noScope && m.noSub
  | .kst tk d a b m => okTok 0 tk && okK d && okK a && okX b && m.bounds && m.noSize && m.noScope && m.noSub
  | .ksub tk d a b imm32 => okTok 0 tk && okK d && okK a && okX b && okI32 imm32
  | .kperm tk d a perm => okTok 0 tk && okK d && okK a && decide (perm < 2 ^ 8)
  | .kmov tk d a g => okTok 0 tk && okK d && okK a && okXP g
  | .kget tk d a imm g => okTok 0 tk && okX d && okK a && okI6 imm && okXP g && decide (imm < 7)
  | .ktest tk d a imm g => okTok 0 tk && okX d && okK a && okI6 imm && okXP g
  | .ld tk d a b m => okTok 0 tk && okX d && okK a && okX b && m.bounds && m.noScope && m.noSub
  | .st tk d a b m => okTok 0 tk && okX d && okK a && okX b && m.bounds && m.noSx && m.noScope && m.noSub
  | .ldaq tk d a b m => okTok 0 tk && okX d && okK a && okX b && m.bounds && m.scopeOk && m.noSub
  | .strl tk d a b m => okTok 0 tk && okX d && okK a && okX b && m.bounds && m.noSx && m.scopeOk && m.noSub
  | .amo tk d a b m => okTok 0 tk && okX d && okK a && okX b && m.bounds && m.atomSize && m.scopeOk && decide (1 ≤ m.sub) && decide (m.sub ≤ 9)
  | .cas tk d a b m => okTok 0 tk && okX d && okK a && okX b && m.bounds && m.atomSize && m.scopeOk && m.noSub && decide (d % 2 = 0)
  | .fence tk kind scope => okTok 0 tk && okKind3 kind && okScope scope
  | .nmc tk d a b m => okTok 0 tk && okX d && okK a && okX b && m.bounds && m.noSize && m.noScope && decide (1 ≤ m.sub) && decide (m.sub ≤ 4) && okQuad d
  | .nmfence tk => okTok 0 tk
  | .qpush tk d stage g => okTok 0 tk && okX d && okW stage && okXP g
  | .qpop tk d g => okTok 0 tk && okX d && okXP g
  | .bar tk num scope => okTok 0 tk && okW num && okBarScope scope
  | .sset tk d a b m => okTok 0 tk && okK d && okK a && okX b && m.bounds && m.noSize && m.noScope && m.noSub
  | .sget tk d a imm g => okTok 0 tk && okX d && okK a && okI6 imm && okXP g && decide (imm < 5)
  | .spos tk d a g => okTok 0 tk && okX d && okK a && okXP g
  | .tcont tk d a b m => okTok 0 tk && okX d && okK a && okX b && m.bounds && m.noSize && m.noScope && m.noSub && okQuad d
  | .tevt tk d act ev g => okTok 0 tk && okX d && okKind3 act && okI6 ev && okXP g
  | .targ tk d a sx size g => okTok 0 tk && okX d && okX a && okBit sx && okSize size && okXP g
  | .jguard tk a size => okTok 0 tk && okX a && okScope size
  | .jpatch tk d a => okTok 0 tk && okK d && okX a
  | .jmark tk imm => okTok 0 tk && okI6 imm
  | .jstat tk d imm => okTok 0 tk && okX d && okI6 imm && decide (imm < 4)
  | .opreq tk d q imm32 => okTok 0 tk && okX d && okW q && okI32 imm32 && decide (1 ≤ imm32) && decide (imm32 ≤ 10000)
  | .oprel tk => okTok 0 tk
  | .opget tk d imm g => okTok 0 tk && okX d && okI6 imm && okXP g && decide (imm < 6)
  | .csrr tk d csr => okTok 0 tk && okX d && okCsr csr
  | .csrw tk d csr => okTok 0 tk && okX d && okCsr csr
  | .trap tk imm => okTok 0 tk && okI6 imm
  | .reti tk => okTok 0 tk
  | .decline tk => okTok 0 tk
  | .ctxsave tk a b => okTok 0 tk && okK a && okX b
  | .ctxload tk a b => okTok 0 tk && okK a && okX b
  | .nopS tk => okTok 0 tk
  | .waitS tk w => okTok 0 tk && w.bounds
  | .lsv tk s sp g => okTok 1 tk && okSt s && okSpec sp && okXP g
  | .lgath tk s sp x => okTok 1 tk && okSt s && okSpec sp && x.bounds && x.gath
  | .lbrd tk s sp g => okTok 1 tk && okSt s && okSpec sp && okXP g
  | .sgoL tk s g => okTok 1 tk && okSt s && okXP g
  | .sskipL tk s imm32 => okTok 1 tk && okSt s && okI32 imm32
  | .srewL tk s g => okTok 1 tk && okSt s && okXP g
  | .sdropL tk s g => okTok 1 tk && okSt s && okXP g
  | .nopL tk => okTok 1 tk
  | .waitL tk w => okTok 1 tk && w.bounds
  | .wsv tk s sp last g => okTok 3 tk && okSt s && okSpec sp && okBit last && okXP g
  | .wscat tk s sp last x => okTok 3 tk && okSt s && okSpec sp && okBit last && x.bounds && x.gath
  | .wacc tk s sp last g => okTok 3 tk && okSt s && okSpec sp && okBit last && okXP g
  | .sgoW tk s g => okTok 3 tk && okSt s && okXP g
  | .sskipW tk s imm32 => okTok 3 tk && okSt s && okI32 imm32
  | .srewW tk s g => okTok 3 tk && okSt s && okXP g
  | .sdropW tk s g => okTok 3 tk && okSt s && okXP g
  | .wflush tk scope => okTok 3 tk && okScope scope
  | .nopW tk => okTok 3 tk
  | .waitW tk w => okTok 3 tk && w.bounds
  | .vadd tk f x => okTok 2 tk && f.bounds && x.bounds && vArith f x
  | .vsub tk f x => okTok 2 tk && f.bounds && x.bounds && vArith f x
  | .vmul tk f x => okTok 2 tk && f.bounds && x.bounds && vArith f x
  | .vfma tk f x => okTok 2 tk && f.bounds && x.bounds && vArith f x
  | .vfms tk f x => okTok 2 tk && f.bounds && x.bounds && vArith f x
  | .vfnma tk f x => okTok 2 tk && f.bounds && x.bounds && vArith f x
  | .vdiv tk f x => okTok 2 tk && f.bounds && x.bounds && vDiv f x
  | .vsqrt tk f x => okTok 2 tk && f.bounds && x.bounds && vUnaryF f x
  | .vrcp tk f x => okTok 2 tk && f.bounds && x.bounds && vUnaryF f x
  | .vrsq tk f x => okTok 2 tk && f.bounds && x.bounds && vUnaryF f x
  | .vexp2 tk f x => okTok 2 tk && f.bounds && x.bounds && vUnaryF f x
  | .vlog2 tk f x => okTok 2 tk && f.bounds && x.bounds && vUnaryF f x
  | .vmin tk f x => okTok 2 tk && f.bounds && x.bounds && vMinMax f x
  | .vmax tk f x => okTok 2 tk && f.bounds && x.bounds && vMinMax f x
  | .vabs tk f x => okTok 2 tk && f.bounds && x.bounds && vAbsNeg f x
  | .vneg tk f x => okTok 2 tk && f.bounds && x.bounds && vAbsNeg f x
  | .vand tk f x => okTok 2 tk && f.bounds && x.bounds && vBits f x
  | .vor tk f x => okTok 2 tk && f.bounds && x.bounds && vBits f x
  | .vxor tk f x => okTok 2 tk && f.bounds && x.bounds && vBits f x
  | .vnot tk f x => okTok 2 tk && f.bounds && x.bounds && vOne f x
  | .vshl tk f x => okTok 2 tk && f.bounds && x.bounds && vBits f x
  | .vshr tk f x => okTok 2 tk && f.bounds && x.bounds && vBits f x
  | .vsra tk f x => okTok 2 tk && f.bounds && x.bounds && vBits f x
  | .vmulh tk f x => okTok 2 tk && f.bounds && x.bounds && vMulh f x
  | .vcmp tk f x => okTok 2 tk && f.bounds && x.bounds && vCmp f x
  | .vsel tk f x => okTok 2 tk && f.bounds && x.bounds && vBits f x
  | .vmov tk f x => okTok 2 tk && f.bounds && x.bounds && vOne f x
  | .vcvt tk f x => okTok 2 tk && f.bounds && x.bounds && vCvt f x
  | .vclass tk f x => okTok 2 tk && f.bounds && x.bounds && vClass f x
  | .vidx tk f x => okTok 2 tk && f.bounds && x.bounds && vIdx f x
  | .vbcast tk f x => okTok 2 tk && f.bounds && x.bounds && vBcast f x
  | .vextr tk f x => okTok 2 tk && f.bounds && x.bounds && vExtr f x
  | .vred tk f x => okTok 2 tk && f.bounds && x.bounds && vRed f x
  | .vscan tk f x => okTok 2 tk && f.bounds && x.bounds && vScan f x
  | .vshuf tk f x => okTok 2 tk && f.bounds && x.bounds && vBits f x
  | .vrot tk f x => okTok 2 tk && f.bounds && x.bounds && vRot f x
  | .vcpush tk f x => okTok 2 tk && f.bounds && x.bounds && vCpush f x
  | .vcpop tk f x => okTok 2 tk && f.bounds && x.bounds && vCpop f x
  | .vccnt tk f x => okTok 2 tk && f.bounds && x.bounds && vCcnt f x
  | .vrng tk f x => okTok 2 tk && f.bounds && x.bounds && vRng f x
  | .vql6 tk f x => okTok 2 tk && f.bounds && x.bounds && vL6 f x
  | .vdl6 tk f x => okTok 2 tk && f.bounds && x.bounds && vL6 f x
  | .vpack tk f x => okTok 2 tk && f.bounds && x.bounds && vPack f x
  | .vunpk tk f x => okTok 2 tk && f.bounds && x.bounds && vUnpk f x
  | .bhint tk d fall kind g => okTok 2 tk && okX d && okKind3 fall && okBit kind && okXP g && okBank d kind
  | .bwake tk d kind g => okTok 2 tk && okX d && okBit kind && okXP g && okBank d kind
  | .balloc tk d take g => okTok 2 tk && okW d && okBit take && okXP g
  | .bstat tk d imm g => okTok 2 tk && okW d && okI6 imm && okXP g
  | .nopV tk => okTok 2 tk
  | .waitV tk w => okTok 2 tk && w.bounds
  | .mmul tk s bk last m => okTok 4 tk && okSt s && okW bk && okBit last && m.bounds
  | .mmulb tk s bk last m => okTok 4 tk && okSt s && okW bk && okBit last && m.bounds
  | .mscal tk d imm32 => okTok 4 tk && okW d && okI32 imm32
  | .mclr tk d g => okTok 4 tk && okW d && okXP g
  | .mjoin tk sz src g => okTok 4 tk && okNz3 sz && okBit src && okSize g
  | .mleave tk g => okTok 4 tk && okSize g
  | .mbset tk imm imm32 => okTok 4 tk && okI6 imm && okI32 imm32 && decide (imm < 5) && (decide (imm = 4) || decide (imm32 < 2 ^ 19))
  | .nopM tk => okTok 4 tk
  | .waitM tk w => okTok 4 tk && w.bounds
  | .cpy tk d a b c => okTok 5 tk && okK d && okK a && okX b && c.bounds && c.guardOnly && decide (b % 4 = 0)
  | .ccvt tk d a b c => okTok 5 tk && okK d && okK a && okX b && c.bounds && c.ccvtOk && decide (b % 4 = 0)
  | .cfill tk d a b c => okTok 5 tk && okK d && okX a && okX b && c.bounds && c.guardOnly && decide (b % 4 = 0)
  | .bload tk d a b c => okTok 5 tk && okK d && okK a && okX b && c.bounds && c.bloadOk && decide (b % 4 = 0)
  | .wdef tk d a b c => okTok 5 tk && okW d && okK a && okX b && c.bounds && c.wdefOk && decide (b % 4 = 0)
  | .wadv tk d a imm g => okTok 5 tk && okW d && okX a && okI6 imm && okXP g
  | .wrel tk d g => okTok 5 tk && okW d && okXP g
  | .dload tk a b ks => okTok 5 tk && okK a && okX b && decide (ks < 2 ^ 16)
  | .dstart tk a => okTok 5 tk && okX a
  | .dstop tk => okTok 5 tk
  | .dstat tk d wt sel g => okTok 5 tk && okX d && okBit wt && okKind3 sel && okXP g
  | .nopC tk => okTok 5 tk
  | .waitC tk w => okTok 5 tk && w.bounds
  | .br d sense imm32 => okX d && okBit sense && okI32 imm32
  | .jmp imm32 => okI32 imm32
  | .call d imm32 => okX d && okI32 imm32
  | .ret a => okX a
  | .loop d l => okX d && l.bounds && decide (l.ci = 1 → d = 0)
  | .yield => true
  | .endW => true
  | .blend d => okW d
  | .bret d => okW d
  | .sync => true
  | .nopA => true
  | .statusParkd _ => true
  | .statusAbort _ => true
  | .tapectlNorec _ => true
  | .tapectlJdrop _ => true
  | .trapEntry _ => true
  | .tokenTimeout _ _ => true
  | .tokenPush _ _ => true
  | .scalarLoadPerformed _ _ => true
  | .scalarStorePerformed _ _ => true
  | .atomicPerformed _ _ => true
  | .barComplete _ _ => true
  | .copyMovePerformed _ _ => true
  | .windowFillPerformed _ _ => true
  | .spadBankFall _ _ => true
  | .spadBankWakeDone _ _ => true
  | .regBankFall _ _ => true
  | .regBankWakeDone _ _ => true
  | .dupCopyDone _ _ => true
  | .streamRequest _ _ => true
  | .streamDataReturn _ _ => true
  | .loadWordPerformed _ => true
  | .storeWordPerformed _ _ => true
  | .vWordRetire _ => true
  | .mmulPanelComplete _ => true
  | .tileOpPerformed _ => true
  | .sharedBRound _ _ => true
  | .nmCommand _ => true
  | .nmCommandEnd _ => true
  | .tlbWalkDone _ _ => true
  | .tinv => true
  | .tinvComplete => true
  | .migr => true
  | .migrResume => true
  | .migrCopyDone _ => true
  | .hotPageEpoch => true
  | .subarrayRefresh _ => true
  | .timeBeacon => true
  | .timeLockLoss => true
  | .timeLockRegain => true
  | .dovetailLinkDegrade _ => true
  | .dovetailLinkDown _ => true
  | .peerAccess _ => true
  | .peerWriteRefused _ _ => true
  | .dovetailBeat _ => true
  | .dovetailEntryStart _ _ => true
  | .dovetailReceive _ => true
  | .dovetailEntryPerformed _ _ => true
  | .dovetailTimeout _ _ => true
  | .unitEnd _ => true
  | .taskComplete _ => true
  | .submit _ => true
  | .hostEndGraph _ => true
  | .dispatchTick => true
  | .continuationForward => true
  | .fallbackForward _ => true
  | .guaranteedOverrun _ => true
  | .curve _ => true
  | .curveEffective => true
  | .curvePointStart => true
  | .curveHorizonEnd => true
  | .underdraw => true
  | .relockDone _ => true
  | .voltageRampDone _ => true
  | .preemptRequest _ => true
  | .preemptWithdraw _ => true
  | .forcedSave _ => true
  | .parkDone _ => true
  | .parkResume _ => true
  | .unitResume _ => true
  | .dieGate _ => true
  | .dieUngate _ => true
  | .dieUngateReady _ => true
  | .leaseExpire _ => true
  | .pairThrottle _ => true
  | .pairThrottleRestore _ => true
  | .pairThrottleLower _ => true
  | .boilingLimitUpdate _ _ => true
  | .thermalEmergency _ => true
  | .slowdownNotice => true
  | .thermalCapBeat _ => true
  | .thermalEmergencyEnd _ => true
  | .thermalSevere _ => true
  | .sensorFail _ => true
  | .machineCheck _ _ _ _ _ => true
  | .telemetryRecord _ => true
  | .suspectConnection _ => true
  | .connectorMargin => true
  | .sillaneDegrade _ => true
  | .sillaneLinkDown _ => true
  | .register => true
  | .attest => true
  | .keyset _ => true
  | .domain => true
  | .coldReset => true
  | .warmReset => true
  | .sillaneTrained _ => true
  | .hbm4PhyTrained _ _ => true
  | .dovetailTrained _ => true
  | .taskStart _ => true
  | .tevtPerformed _ => true
  | .dloadContextLoaded _ => true
  | .ctxTransferDone _ => true
  | .scalarArithRetire _ => true
  | .hostMemoryAccess _ => true
  | .cxlLinkDown _ => true
  | .mailboxBadcmd => true
  | .translationBadcmd => true
  | .curvePointLookahead => true

/-- The engine code (R17, R30) of an instruction word; `none` for an event. -/
def Instr.eng : Instr → Option Nat
  | .add _ _ _ _ _ => some 0
  | .sub _ _ _ _ _ => some 0
  | .and _ _ _ _ _ => some 0
  | .or _ _ _ _ _ => some 0
  | .xor _ _ _ _ _ => some 0
  | .sll _ _ _ _ _ => some 0
  | .srl _ _ _ _ _ => some 0
  | .sra _ _ _ _ _ => some 0
  | .mul _ _ _ _ _ => some 0
  | .mulh _ _ _ _ _ => some 0
  | .mulhu _ _ _ _ _ => some 0
  | .div _ _ _ _ _ => some 0
  | .divu _ _ _ _ _ => some 0
  | .rem _ _ _ _ _ => some 0
  | .remu _ _ _ _ _ => some 0
  | .min _ _ _ _ _ => some 0
  | .max _ _ _ _ _ => some 0
  | .minu _ _ _ _ _ => some 0
  | .maxu _ _ _ _ _ => some 0
  | .slt _ _ _ _ _ => some 0
  | .sltu _ _ _ _ _ => some 0
  | .seq _ _ _ _ _ => some 0
  | .clz _ _ _ _ => some 0
  | .popc _ _ _ _ => some 0
  | .ext _ _ _ _ _ _ => some 0
  | .addi _ _ _ _ _ => some 0
  | .liShort _ _ _ => some 0
  | .liLong _ _ _ => some 0
  | .andi _ _ _ _ _ => some 0
  | .ori _ _ _ _ _ => some 0
  | .xori _ _ _ _ _ => some 0
  | .shi _ _ _ _ _ => some 0
  | .add128 _ _ _ _ _ => some 0
  | .pcmp _ _ _ _ _ => some 0
  | .pset _ _ _ _ => some 0
  | .pand _ _ _ _ _ => some 0
  | .por _ _ _ _ _ => some 0
  | .pxor _ _ _ _ _ => some 0
  | .pnot _ _ _ _ => some 0
  | .ptox _ _ _ => some 0
  | .xtop _ _ _ => some 0
  | .kld _ _ _ _ _ => some 0
  | .kst _ _ _ _ _ => some 0
  | .ksub _ _ _ _ _ => some 0
  | .kperm _ _ _ _ => some 0
  | .kmov _ _ _ _ => some 0
  | .kget _ _ _ _ _ => some 0
  | .ktest _ _ _ _ _ => some 0
  | .ld _ _ _ _ _ => some 0
  | .st _ _ _ _ _ => some 0
  | .ldaq _ _ _ _ _ => some 0
  | .strl _ _ _ _ _ => some 0
  | .amo _ _ _ _ _ => some 0
  | .cas _ _ _ _ _ => some 0
  | .fence _ _ _ => some 0
  | .nmc _ _ _ _ _ => some 0
  | .nmfence _ => some 0
  | .qpush _ _ _ _ => some 0
  | .qpop _ _ _ => some 0
  | .bar _ _ _ => some 0
  | .sset _ _ _ _ _ => some 0
  | .sget _ _ _ _ _ => some 0
  | .spos _ _ _ _ => some 0
  | .tcont _ _ _ _ _ => some 0
  | .tevt _ _ _ _ _ => some 0
  | .targ _ _ _ _ _ _ => some 0
  | .jguard _ _ _ => some 0
  | .jpatch _ _ _ => some 0
  | .jmark _ _ => some 0
  | .jstat _ _ _ => some 0
  | .opreq _ _ _ _ => some 0
  | .oprel _ => some 0
  | .opget _ _ _ _ => some 0
  | .csrr _ _ _ => some 0
  | .csrw _ _ _ => some 0
  | .trap _ _ => some 0
  | .reti _ => some 0
  | .decline _ => some 0
  | .ctxsave _ _ _ => some 0
  | .ctxload _ _ _ => some 0
  | .nopS _ => some 0
  | .waitS _ _ => some 0
  | .lsv _ _ _ _ => some 1
  | .lgath _ _ _ _ => some 1
  | .lbrd _ _ _ _ => some 1
  | .sgoL _ _ _ => some 1
  | .sskipL _ _ _ => some 1
  | .srewL _ _ _ => some 1
  | .sdropL _ _ _ => some 1
  | .nopL _ => some 1
  | .waitL _ _ => some 1
  | .wsv _ _ _ _ _ => some 3
  | .wscat _ _ _ _ _ => some 3
  | .wacc _ _ _ _ _ => some 3
  | .sgoW _ _ _ => some 3
  | .sskipW _ _ _ => some 3
  | .srewW _ _ _ => some 3
  | .sdropW _ _ _ => some 3
  | .wflush _ _ => some 3
  | .nopW _ => some 3
  | .waitW _ _ => some 3
  | .vadd _ _ _ => some 2
  | .vsub _ _ _ => some 2
  | .vmul _ _ _ => some 2
  | .vfma _ _ _ => some 2
  | .vfms _ _ _ => some 2
  | .vfnma _ _ _ => some 2
  | .vdiv _ _ _ => some 2
  | .vsqrt _ _ _ => some 2
  | .vrcp _ _ _ => some 2
  | .vrsq _ _ _ => some 2
  | .vexp2 _ _ _ => some 2
  | .vlog2 _ _ _ => some 2
  | .vmin _ _ _ => some 2
  | .vmax _ _ _ => some 2
  | .vabs _ _ _ => some 2
  | .vneg _ _ _ => some 2
  | .vand _ _ _ => some 2
  | .vor _ _ _ => some 2
  | .vxor _ _ _ => some 2
  | .vnot _ _ _ => some 2
  | .vshl _ _ _ => some 2
  | .vshr _ _ _ => some 2
  | .vsra _ _ _ => some 2
  | .vmulh _ _ _ => some 2
  | .vcmp _ _ _ => some 2
  | .vsel _ _ _ => some 2
  | .vmov _ _ _ => some 2
  | .vcvt _ _ _ => some 2
  | .vclass _ _ _ => some 2
  | .vidx _ _ _ => some 2
  | .vbcast _ _ _ => some 2
  | .vextr _ _ _ => some 2
  | .vred _ _ _ => some 2
  | .vscan _ _ _ => some 2
  | .vshuf _ _ _ => some 2
  | .vrot _ _ _ => some 2
  | .vcpush _ _ _ => some 2
  | .vcpop _ _ _ => some 2
  | .vccnt _ _ _ => some 2
  | .vrng _ _ _ => some 2
  | .vql6 _ _ _ => some 2
  | .vdl6 _ _ _ => some 2
  | .vpack _ _ _ => some 2
  | .vunpk _ _ _ => some 2
  | .bhint _ _ _ _ _ => some 2
  | .bwake _ _ _ _ => some 2
  | .balloc _ _ _ _ => some 2
  | .bstat _ _ _ _ => some 2
  | .nopV _ => some 2
  | .waitV _ _ => some 2
  | .mmul _ _ _ _ _ => some 4
  | .mmulb _ _ _ _ _ => some 4
  | .mscal _ _ _ => some 4
  | .mclr _ _ _ => some 4
  | .mjoin _ _ _ _ => some 4
  | .mleave _ _ => some 4
  | .mbset _ _ _ => some 4
  | .nopM _ => some 4
  | .waitM _ _ => some 4
  | .cpy _ _ _ _ _ => some 5
  | .ccvt _ _ _ _ _ => some 5
  | .cfill _ _ _ _ _ => some 5
  | .bload _ _ _ _ _ => some 5
  | .wdef _ _ _ _ _ => some 5
  | .wadv _ _ _ _ _ => some 5
  | .wrel _ _ _ => some 5
  | .dload _ _ _ _ => some 5
  | .dstart _ _ => some 5
  | .dstop _ => some 5
  | .dstat _ _ _ _ _ => some 5
  | .nopC _ => some 5
  | .waitC _ _ => some 5
  | .br _ _ _ => some 6
  | .jmp _ => some 6
  | .call _ _ => some 6
  | .ret _ => some 6
  | .loop _ _ => some 6
  | .yield => some 6
  | .endW => some 6
  | .blend _ => some 6
  | .bret _ => some 6
  | .sync => some 6
  | .nopA => some 6
  | .statusParkd _ => none
  | .statusAbort _ => none
  | .tapectlNorec _ => none
  | .tapectlJdrop _ => none
  | .trapEntry _ => none
  | .tokenTimeout _ _ => none
  | .tokenPush _ _ => none
  | .scalarLoadPerformed _ _ => none
  | .scalarStorePerformed _ _ => none
  | .atomicPerformed _ _ => none
  | .barComplete _ _ => none
  | .copyMovePerformed _ _ => none
  | .windowFillPerformed _ _ => none
  | .spadBankFall _ _ => none
  | .spadBankWakeDone _ _ => none
  | .regBankFall _ _ => none
  | .regBankWakeDone _ _ => none
  | .dupCopyDone _ _ => none
  | .streamRequest _ _ => none
  | .streamDataReturn _ _ => none
  | .loadWordPerformed _ => none
  | .storeWordPerformed _ _ => none
  | .vWordRetire _ => none
  | .mmulPanelComplete _ => none
  | .tileOpPerformed _ => none
  | .sharedBRound _ _ => none
  | .nmCommand _ => none
  | .nmCommandEnd _ => none
  | .tlbWalkDone _ _ => none
  | .tinv => none
  | .tinvComplete => none
  | .migr => none
  | .migrResume => none
  | .migrCopyDone _ => none
  | .hotPageEpoch => none
  | .subarrayRefresh _ => none
  | .timeBeacon => none
  | .timeLockLoss => none
  | .timeLockRegain => none
  | .dovetailLinkDegrade _ => none
  | .dovetailLinkDown _ => none
  | .peerAccess _ => none
  | .peerWriteRefused _ _ => none
  | .dovetailBeat _ => none
  | .dovetailEntryStart _ _ => none
  | .dovetailReceive _ => none
  | .dovetailEntryPerformed _ _ => none
  | .dovetailTimeout _ _ => none
  | .unitEnd _ => none
  | .taskComplete _ => none
  | .submit _ => none
  | .hostEndGraph _ => none
  | .dispatchTick => none
  | .continuationForward => none
  | .fallbackForward _ => none
  | .guaranteedOverrun _ => none
  | .curve _ => none
  | .curveEffective => none
  | .curvePointStart => none
  | .curveHorizonEnd => none
  | .underdraw => none
  | .relockDone _ => none
  | .voltageRampDone _ => none
  | .preemptRequest _ => none
  | .preemptWithdraw _ => none
  | .forcedSave _ => none
  | .parkDone _ => none
  | .parkResume _ => none
  | .unitResume _ => none
  | .dieGate _ => none
  | .dieUngate _ => none
  | .dieUngateReady _ => none
  | .leaseExpire _ => none
  | .pairThrottle _ => none
  | .pairThrottleRestore _ => none
  | .pairThrottleLower _ => none
  | .boilingLimitUpdate _ _ => none
  | .thermalEmergency _ => none
  | .slowdownNotice => none
  | .thermalCapBeat _ => none
  | .thermalEmergencyEnd _ => none
  | .thermalSevere _ => none
  | .sensorFail _ => none
  | .machineCheck _ _ _ _ _ => none
  | .telemetryRecord _ => none
  | .suspectConnection _ => none
  | .connectorMargin => none
  | .sillaneDegrade _ => none
  | .sillaneLinkDown _ => none
  | .register => none
  | .attest => none
  | .keyset _ => none
  | .domain => none
  | .coldReset => none
  | .warmReset => none
  | .sillaneTrained _ => none
  | .hbm4PhyTrained _ _ => none
  | .dovetailTrained _ => none
  | .taskStart _ => none
  | .tevtPerformed _ => none
  | .dloadContextLoaded _ => none
  | .ctxTransferDone _ => none
  | .scalarArithRetire _ => none
  | .hostMemoryAccess _ => none
  | .cxlLinkDown _ => none
  | .mailboxBadcmd => none
  | .translationBadcmd => none
  | .curvePointLookahead => none

/-- The length in words (R29): two when the extension word is present.  Events have length 0. -/
def Instr.len : Instr → Nat
  | .add _ _ _ _ g => XPlen g
  | .sub _ _ _ _ g => XPlen g
  | .and _ _ _ _ g => XPlen g
  | .or _ _ _ _ g => XPlen g
  | .xor _ _ _ _ g => XPlen g
  | .sll _ _ _ _ g => XPlen g
  | .srl _ _ _ _ g => XPlen g
  | .sra _ _ _ _ g => XPlen g
  | .mul _ _ _ _ g => XPlen g
  | .mulh _ _ _ _ g => XPlen g
  | .mulhu _ _ _ _ g => XPlen g
  | .div _ _ _ _ g => XPlen g
  | .divu _ _ _ _ g => XPlen g
  | .rem _ _ _ _ g => XPlen g
  | .remu _ _ _ _ g => XPlen g
  | .min _ _ _ _ g => XPlen g
  | .max _ _ _ _ g => XPlen g
  | .minu _ _ _ _ g => XPlen g
  | .maxu _ _ _ _ g => XPlen g
  | .slt _ _ _ _ g => XPlen g
  | .sltu _ _ _ _ g => XPlen g
  | .seq _ _ _ _ g => XPlen g
  | .clz _ _ _ g => XPlen g
  | .popc _ _ _ g => XPlen g
  | .ext _ _ _ _ _ _ => 2
  | .addi _ _ _ _ g => XPlen g
  | .liShort _ _ _ => 1
  | .liLong _ _ _ => 2
  | .andi _ _ _ _ g => XPlen g
  | .ori _ _ _ _ g => XPlen g
  | .xori _ _ _ _ g => XPlen g
  | .shi _ _ _ _ _ => 2
  | .add128 _ _ _ _ g => XPlen g
  | .pcmp _ _ _ _ _ => 2
  | .pset _ _ _ g => XPlen g
  | .pand _ _ _ _ g => XPlen g
  | .por _ _ _ _ g => XPlen g
  | .pxor _ _ _ _ g => XPlen g
  | .pnot _ _ _ g => XPlen g
  | .ptox _ _ g => XPlen g
  | .xtop _ _ g => XPlen g
  | .kld _ _ _ _ _ => 2
  | .kst _ _ _ _ _ => 2
  | .ksub _ _ _ _ _ => 2
  | .kperm _ _ _ _ => 2
  | .kmov _ _ _ g => XPlen g
  | .kget _ _ _ _ g => XPlen g
  | .ktest _ _ _ _ g => XPlen g
  | .ld _ _ _ _ _ => 2
  | .st _ _ _ _ _ => 2
  | .ldaq _ _ _ _ _ => 2
  | .strl _ _ _ _ _ => 2
  | .amo _ _ _ _ _ => 2
  | .cas _ _ _ _ _ => 2
  | .fence _ _ _ => 1
  | .nmc _ _ _ _ _ => 2
  | .nmfence _ => 1
  | .qpush _ _ _ g => XPlen g
  | .qpop _ _ g => XPlen g
  | .bar _ _ _ => 1
  | .sset _ _ _ _ _ => 2
  | .sget _ _ _ _ g => XPlen g
  | .spos _ _ _ g => XPlen g
  | .tcont _ _ _ _ _ => 2
  | .tevt _ _ _ _ g => XPlen g
  | .targ _ _ _ _ _ g => XPlen g
  | .jguard _ _ _ => 1
  | .jpatch _ _ _ => 1
  | .jmark _ _ => 1
  | .jstat _ _ _ => 1
  | .opreq _ _ _ _ => 2
  | .oprel _ => 1
  | .opget _ _ _ g => XPlen g
  | .csrr _ _ _ => 1
  | .csrw _ _ _ => 1
  | .trap _ _ => 1
  | .reti _ => 1
  | .decline _ => 1
  | .ctxsave _ _ _ => 1
  | .ctxload _ _ _ => 1
  | .nopS _ => 1
  | .waitS _ _ => 2
  | .lsv _ _ _ g => XPlen g
  | .lgath _ _ _ _ => 2
  | .lbrd _ _ _ g => XPlen g
  | .sgoL _ _ g => XPlen g
  | .sskipL _ _ _ => 2
  | .srewL _ _ g => XPlen g
  | .sdropL _ _ g => XPlen g
  | .nopL _ => 1
  | .waitL _ _ => 2
  | .wsv _ _ _ _ g => XPlen g
  | .wscat _ _ _ _ _ => 2
  | .wacc _ _ _ _ g => XPlen g
  | .sgoW _ _ g => XPlen g
  | .sskipW _ _ _ => 2
  | .srewW _ _ g => XPlen g
  | .sdropW _ _ g => XPlen g
  | .wflush _ _ => 1
  | .nopW _ => 1
  | .waitW _ _ => 2
  | .vadd _ _ _ => 2
  | .vsub _ _ _ => 2
  | .vmul _ _ _ => 2
  | .vfma _ _ _ => 2
  | .vfms _ _ _ => 2
  | .vfnma _ _ _ => 2
  | .vdiv _ _ _ => 2
  | .vsqrt _ _ _ => 2
  | .vrcp _ _ _ => 2
  | .vrsq _ _ _ => 2
  | .vexp2 _ _ _ => 2
  | .vlog2 _ _ _ => 2
  | .vmin _ _ _ => 2
  | .vmax _ _ _ => 2
  | .vabs _ _ _ => 2
  | .vneg _ _ _ => 2
  | .vand _ _ _ => 2
  | .vor _ _ _ => 2
  | .vxor _ _ _ => 2
  | .vnot _ _ _ => 2
  | .vshl _ _ _ => 2
  | .vshr _ _ _ => 2
  | .vsra _ _ _ => 2
  | .vmulh _ _ _ => 2
  | .vcmp _ _ _ => 2
  | .vsel _ _ _ => 2
  | .vmov _ _ _ => 2
  | .vcvt _ _ _ => 2
  | .vclass _ _ _ => 2
  | .vidx _ _ _ => 2
  | .vbcast _ _ _ => 2
  | .vextr _ _ _ => 2
  | .vred _ _ _ => 2
  | .vscan _ _ _ => 2
  | .vshuf _ _ _ => 2
  | .vrot _ _ _ => 2
  | .vcpush _ _ _ => 2
  | .vcpop _ _ _ => 2
  | .vccnt _ _ _ => 2
  | .vrng _ _ _ => 2
  | .vql6 _ _ _ => 2
  | .vdl6 _ _ _ => 2
  | .vpack _ _ _ => 2
  | .vunpk _ _ _ => 2
  | .bhint _ _ _ _ g => XPlen g
  | .bwake _ _ _ g => XPlen g
  | .balloc _ _ _ g => XPlen g
  | .bstat _ _ _ g => XPlen g
  | .nopV _ => 1
  | .waitV _ _ => 2
  | .mmul _ _ _ _ _ => 2
  | .mmulb _ _ _ _ _ => 2
  | .mscal _ _ _ => 2
  | .mclr _ _ g => XPlen g
  | .mjoin _ _ _ _ => 1
  | .mleave _ _ => 1
  | .mbset _ _ _ => 2
  | .nopM _ => 1
  | .waitM _ _ => 2
  | .cpy _ _ _ _ _ => 2
  | .ccvt _ _ _ _ _ => 2
  | .cfill _ _ _ _ _ => 2
  | .bload _ _ _ _ _ => 2
  | .wdef _ _ _ _ _ => 2
  | .wadv _ _ _ _ g => XPlen g
  | .wrel _ _ g => XPlen g
  | .dload _ _ _ _ => 2
  | .dstart _ _ => 1
  | .dstop _ => 1
  | .dstat _ _ _ _ g => XPlen g
  | .nopC _ => 1
  | .waitC _ _ => 2
  | .br _ _ _ => 2
  | .jmp _ => 2
  | .call _ _ => 2
  | .ret _ => 1
  | .loop _ _ => 2
  | .yield => 1
  | .endW => 1
  | .blend _ => 1
  | .bret _ => 1
  | .sync => 1
  | .nopA => 1
  | .statusParkd _ => 0
  | .statusAbort _ => 0
  | .tapectlNorec _ => 0
  | .tapectlJdrop _ => 0
  | .trapEntry _ => 0
  | .tokenTimeout _ _ => 0
  | .tokenPush _ _ => 0
  | .scalarLoadPerformed _ _ => 0
  | .scalarStorePerformed _ _ => 0
  | .atomicPerformed _ _ => 0
  | .barComplete _ _ => 0
  | .copyMovePerformed _ _ => 0
  | .windowFillPerformed _ _ => 0
  | .spadBankFall _ _ => 0
  | .spadBankWakeDone _ _ => 0
  | .regBankFall _ _ => 0
  | .regBankWakeDone _ _ => 0
  | .dupCopyDone _ _ => 0
  | .streamRequest _ _ => 0
  | .streamDataReturn _ _ => 0
  | .loadWordPerformed _ => 0
  | .storeWordPerformed _ _ => 0
  | .vWordRetire _ => 0
  | .mmulPanelComplete _ => 0
  | .tileOpPerformed _ => 0
  | .sharedBRound _ _ => 0
  | .nmCommand _ => 0
  | .nmCommandEnd _ => 0
  | .tlbWalkDone _ _ => 0
  | .tinv => 0
  | .tinvComplete => 0
  | .migr => 0
  | .migrResume => 0
  | .migrCopyDone _ => 0
  | .hotPageEpoch => 0
  | .subarrayRefresh _ => 0
  | .timeBeacon => 0
  | .timeLockLoss => 0
  | .timeLockRegain => 0
  | .dovetailLinkDegrade _ => 0
  | .dovetailLinkDown _ => 0
  | .peerAccess _ => 0
  | .peerWriteRefused _ _ => 0
  | .dovetailBeat _ => 0
  | .dovetailEntryStart _ _ => 0
  | .dovetailReceive _ => 0
  | .dovetailEntryPerformed _ _ => 0
  | .dovetailTimeout _ _ => 0
  | .unitEnd _ => 0
  | .taskComplete _ => 0
  | .submit _ => 0
  | .hostEndGraph _ => 0
  | .dispatchTick => 0
  | .continuationForward => 0
  | .fallbackForward _ => 0
  | .guaranteedOverrun _ => 0
  | .curve _ => 0
  | .curveEffective => 0
  | .curvePointStart => 0
  | .curveHorizonEnd => 0
  | .underdraw => 0
  | .relockDone _ => 0
  | .voltageRampDone _ => 0
  | .preemptRequest _ => 0
  | .preemptWithdraw _ => 0
  | .forcedSave _ => 0
  | .parkDone _ => 0
  | .parkResume _ => 0
  | .unitResume _ => 0
  | .dieGate _ => 0
  | .dieUngate _ => 0
  | .dieUngateReady _ => 0
  | .leaseExpire _ => 0
  | .pairThrottle _ => 0
  | .pairThrottleRestore _ => 0
  | .pairThrottleLower _ => 0
  | .boilingLimitUpdate _ _ => 0
  | .thermalEmergency _ => 0
  | .slowdownNotice => 0
  | .thermalCapBeat _ => 0
  | .thermalEmergencyEnd _ => 0
  | .thermalSevere _ => 0
  | .sensorFail _ => 0
  | .machineCheck _ _ _ _ _ => 0
  | .telemetryRecord _ => 0
  | .suspectConnection _ => 0
  | .connectorMargin => 0
  | .sillaneDegrade _ => 0
  | .sillaneLinkDown _ => 0
  | .register => 0
  | .attest => 0
  | .keyset _ => 0
  | .domain => 0
  | .coldReset => 0
  | .warmReset => 0
  | .sillaneTrained _ => 0
  | .hbm4PhyTrained _ _ => 0
  | .dovetailTrained _ => 0
  | .taskStart _ => 0
  | .tevtPerformed _ => 0
  | .dloadContextLoaded _ => 0
  | .ctxTransferDone _ => 0
  | .scalarArithRetire _ => 0
  | .hostMemoryAccess _ => 0
  | .cxlLinkDown _ => 0
  | .mailboxBadcmd => 0
  | .translationBadcmd => 0
  | .curvePointLookahead => 0

end Sys2Proof
end

