-- ==== Sys2Proof/Decode.lean ====
section
/-! DEFINITION. Decoding (R29 to R58) and, after it, the encoder.  A header word is split into ENG, X, TK, PEER, OP
and F (R29); the checks of R33 run in their order; what fails is rejected by name. -/

namespace Sys2Proof

/-- Bits [lo+n−1:lo] of a word. -/
def fld (w lo n : Nat) : Nat := w / 2 ^ lo % 2 ^ n

/-- Whether a form of the opcode map has an extension word never, always, or optionally (R41, R50). -/
inductive Form where
  | bare | ext | opt
  deriving DecidableEq, Repr

/-- Why bytes are no instruction: the checks 1 to 5 of R33 by number, and the two ways in which they run out (R34). -/
inductive Reject where
  /-- Fewer than four bytes are left for a header word. -/
  | noHeader
  /-- Check 1: ENG = 7 is no engine. -/
  | badEng
  /-- Check 2: the token rules of R31 are broken. -/
  | badToken
  /-- Check 3: the opcode is not assigned in the engine's map. -/
  | badOp
  /-- Check 4: the X bit does not agree with the form. -/
  | badX
  /-- The extension word lies beyond the text (TEXT, R34). -/
  | noExt
  /-- Check 5: a reserved bit is set, or a field is outside its limits. -/
  | badField
  deriving DecidableEq, Repr

/-- TK and PEER as a token action; used after the token rules of R31 have been checked. -/
def tokOf (tk peer : Nat) : Tok :=
  match tk with
  | 0 => .none
  | 1 => .wait (.ofCode peer)
  | 2 => .post (.ofCode peer)
  | _ => .both (.ofCode peer)

/-- The token rules of R31. -/
def tokOk (eng tk peer : Nat) : Bool :=
  if tk = 0 then decide (peer = 0) else decide (peer < 6) && decide (peer ≠ eng) && decide (eng ≠ 6)

/-- The guard word XP, when there is one. -/
def xpOf (x e : Nat) : XP := if x = 0 then none else some ⟨fld e 5 5, fld e 4 1⟩

/-- The `res` bits of XP (R39). -/
abbrev xpRes (x e : Nat) : Prop := x = 0 ∨ (fld e 0 4 = 0 ∧ fld e 10 22 = 0)

def fvOf (F : Nat) : FV := ⟨fld F 5 11, fld F 3 2, fld F 2 1, fld F 0 2⟩
def xvOf (e : Nat) : XV :=
  ⟨fld e 21 11, fld e 10 11, fld e 5 5, fld e 4 1, fld e 3 1, fld e 2 1, fld e 1 1, fld e 0 1⟩
def xmOf (e : Nat) : XM := ⟨fld e 27 5, fld e 26 1, fld e 24 2, fld e 23 1, fld e 20 3, fld e 16 4, fld e 0 16⟩
def xcOf (e : Nat) : XC := ⟨fld e 27 5, fld e 26 1, fld e 24 2, fld e 22 2, fld e 20 2, fld e 16 4, fld e 0 16⟩
def xmmOf (e : Nat) : XMM := ⟨fld e 27 5, fld e 26 1, fld e 24 2, fld e 23 1, fld e 21 2, fld e 15 6, fld e 0 12⟩
def xlOf (e : Nat) : XL := ⟨fld e 29 3, fld e 28 1, fld e 16 12, fld e 0 16⟩
def xwOf (e : Nat) : XW := ⟨fld e 24 8, fld e 16 8, fld e 8 8, fld e 0 8⟩

/-- The forms of engine S's opcodes (R51 to R56): which OP values are assigned, and whether the form has an
extension word always, never, or optionally. -/
def opFormS : Nat → Option Form
  | 0x00 => some .opt
  | 0x01 => some .opt
  | 0x02 => some .opt
  | 0x03 => some .opt
  | 0x04 => some .opt
  | 0x05 => some .opt
  | 0x06 => some .opt
  | 0x07 => some .opt
  | 0x08 => some .opt
  | 0x09 => some .opt
  | 0x0a => some .opt
  | 0x0b => some .opt
  | 0x0c => some .opt
  | 0x0d => some .opt
  | 0x0e => some .opt
  | 0x0f => some .opt
  | 0x10 => some .opt
  | 0x11 => some .opt
  | 0x12 => some .opt
  | 0x13 => some .opt
  | 0x14 => some .opt
  | 0x15 => some .opt
  | 0x16 => some .opt
  | 0x17 => some .opt
  | 0x18 => some .ext
  | 0x19 => some .opt
  | 0x1a => some .opt
  | 0x1b => some .opt
  | 0x1c => some .opt
  | 0x1d => some .opt
  | 0x1e => some .ext
  | 0x1f => some .opt
  | 0x20 => some .ext
  | 0x21 => some .opt
  | 0x22 => some .opt
  | 0x23 => some .opt
  | 0x24 => some .opt
  | 0x25 => some .opt
  | 0x26 => some .opt
  | 0x27 => some .opt
  | 0x28 => some .ext
  | 0x29 => some .ext
  | 0x2a => some .ext
  | 0x2b => some .ext
  | 0x2c => some .opt
  | 0x2d => some .opt
  | 0x2e => some .opt
  | 0x30 => some .ext
  | 0x31 => some .ext
  | 0x32 => some .ext
  | 0x33 => some .ext
  | 0x34 => some .ext
  | 0x35 => some .ext
  | 0x36 => some .bare
  | 0x37 => some .ext
  | 0x38 => some .bare
  | 0x39 => some .opt
  | 0x3a => some .opt
  | 0x3b => some .bare
  | 0x40 => some .ext
  | 0x41 => some .opt
  | 0x42 => some .opt
  | 0x48 => some .ext
  | 0x49 => some .opt
  | 0x4a => some .opt
  | 0x4c => some .bare
  | 0x4d => some .bare
  | 0x4e => some .bare
  | 0x4f => some .bare
  | 0x50 => some .ext
  | 0x51 => some .bare
  | 0x52 => some .opt
  | 0x60 => some .bare
  | 0x61 => some .bare
  | 0x62 => some .bare
  | 0x63 => some .bare
  | 0x64 => some .bare
  | 0x65 => some .bare
  | 0x66 => some .bare
  | 0x7c => some .bare
  | 0x7e => some .ext
  | _ => none

/-- The forms of engine L's opcodes (R51 to R56): which OP values are assigned, and whether the form has an
extension word always, never, or optionally. -/
def opFormL : Nat → Option Form
  | 0x00 => some .opt
  | 0x01 => some .ext
  | 0x02 => some .opt
  | 0x03 => some .opt
  | 0x04 => some .ext
  | 0x05 => some .opt
  | 0x06 => some .opt
  | 0x7c => some .bare
  | 0x7e => some .ext
  | _ => none

/-- The forms of engine V's opcodes (R51 to R56): which OP values are assigned, and whether the form has an
extension word always, never, or optionally. -/
def opFormV : Nat → Option Form
  | 0x00 => some .ext
  | 0x01 => some .ext
  | 0x02 => some .ext
  | 0x03 => some .ext
  | 0x04 => some .ext
  | 0x05 => some .ext
  | 0x06 => some .ext
  | 0x07 => some .ext
  | 0x08 => some .ext
  | 0x09 => some .ext
  | 0x0a => some .ext
  | 0x0b => some .ext
  | 0x0c => some .ext
  | 0x0d => some .ext
  | 0x0e => some .ext
  | 0x0f => some .ext
  | 0x10 => some .ext
  | 0x11 => some .ext
  | 0x12 => some .ext
  | 0x13 => some .ext
  | 0x14 => some .ext
  | 0x15 => some .ext
  | 0x16 => some .ext
  | 0x17 => some .ext
  | 0x18 => some .ext
  | 0x19 => some .ext
  | 0x1a => some .ext
  | 0x1b => some .ext
  | 0x1c => some .ext
  | 0x1d => some .ext
  | 0x1e => some .ext
  | 0x1f => some .ext
  | 0x20 => some .ext
  | 0x21 => some .ext
  | 0x22 => some .ext
  | 0x23 => some .ext
  | 0x24 => some .ext
  | 0x25 => some .ext
  | 0x26 => some .ext
  | 0x27 => some .ext
  | 0x28 => some .ext
  | 0x29 => some .ext
  | 0x2a => some .ext
  | 0x2b => some .ext
  | 0x30 => some .opt
  | 0x31 => some .opt
  | 0x32 => some .opt
  | 0x33 => some .opt
  | 0x7c => some .bare
  | 0x7e => some .ext
  | _ => none

/-- The forms of engine W's opcodes (R51 to R56): which OP values are assigned, and whether the form has an
extension word always, never, or optionally. -/
def opFormW : Nat → Option Form
  | 0x00 => some .opt
  | 0x01 => some .ext
  | 0x02 => some .opt
  | 0x03 => some .opt
  | 0x04 => some .ext
  | 0x05 => some .opt
  | 0x06 => some .opt
  | 0x07 => some .bare
  | 0x7c => some .bare
  | 0x7e => some .ext
  | _ => none

/-- The forms of engine M's opcodes (R51 to R56): which OP values are assigned, and whether the form has an
extension word always, never, or optionally. -/
def opFormM : Nat → Option Form
  | 0x00 => some .ext
  | 0x01 => some .ext
  | 0x02 => some .ext
  | 0x03 => some .opt
  | 0x04 => some .bare
  | 0x05 => some .bare
  | 0x06 => some .ext
  | 0x7c => some .bare
  | 0x7e => some .ext
  | _ => none

/-- The forms of engine C's opcodes (R51 to R56): which OP values are assigned, and whether the form has an
extension word always, never, or optionally. -/
def opFormC : Nat → Option Form
  | 0x00 => some .ext
  | 0x01 => some .ext
  | 0x02 => some .ext
  | 0x03 => some .ext
  | 0x04 => some .ext
  | 0x05 => some .opt
  | 0x06 => some .opt
  | 0x08 => some .ext
  | 0x09 => some .bare
  | 0x0a => some .bare
  | 0x0b => some .opt
  | 0x7c => some .bare
  | 0x7e => some .ext
  | _ => none

/-- The forms of engine A's opcodes (R51 to R56): which OP values are assigned, and whether the form has an
extension word always, never, or optionally. -/
def opFormA : Nat → Option Form
  | 0x00 => some .ext
  | 0x01 => some .ext
  | 0x02 => some .ext
  | 0x03 => some .bare
  | 0x04 => some .ext
  | 0x05 => some .bare
  | 0x06 => some .bare
  | 0x07 => some .bare
  | 0x08 => some .bare
  | 0x09 => some .bare
  | 0x7c => some .bare
  | _ => none

/-- The opcode map of R50: the form of opcode `op` in engine `eng`. -/
def opForm (eng op : Nat) : Option Form :=
  match eng with
  | 0 => opFormS op
  | 1 => opFormL op
  | 2 => opFormV op
  | 3 => opFormW op
  | 4 => opFormM op
  | 5 => opFormC op
  | 6 => opFormA op
  | _ => none

/-- The operand fields of engine S's instructions, one line per opcode: `F` and the extension word `e` are read
by the layouts of R37 and R39, and every bit that the instruction does not use must be zero (R10). -/
def parseS (op x tk peer F e : Nat) : Option Instr :=
  match op with
  | 0x00 => if fld F 0 1 = 0 ∧ xpRes x e then some (.add (tokOf tk peer) (fld F 11 5) (fld F 6 5) (fld F 1 5) (xpOf x e)) else none
  | 0x01 => if fld F 0 1 = 0 ∧ xpRes x e then some (.sub (tokOf tk peer) (fld F 11 5) (fld F 6 5) (fld F 1 5) (xpOf x e)) else none
  | 0x02 => if fld F 0 1 = 0 ∧ xpRes x e then some (.and (tokOf tk peer) (fld F 11 5) (fld F 6 5) (fld F 1 5) (xpOf x e)) else none
  | 0x03 => if fld F 0 1 = 0 ∧ xpRes x e then some (.or (tokOf tk peer) (fld F 11 5) (fld F 6 5) (fld F 1 5) (xpOf x e)) else none
  | 0x04 => if fld F 0 1 = 0 ∧ xpRes x e then some (.xor (tokOf tk peer) (fld F 11 5) (fld F 6 5) (fld F 1 5) (xpOf x e)) else none
  | 0x05 => if fld F 0 1 = 0 ∧ xpRes x e then some (.sll (tokOf tk peer) (fld F 11 5) (fld F 6 5) (fld F 1 5) (xpOf x e)) else none
  | 0x06 => if fld F 0 1 = 0 ∧ xpRes x e then some (.srl (tokOf tk peer) (fld F 11 5) (fld F 6 5) (fld F 1 5) (xpOf x e)) else none
  | 0x07 => if fld F 0 1 = 0 ∧ xpRes x e then some (.sra (tokOf tk peer) (fld F 11 5) (fld F 6 5) (fld F 1 5) (xpOf x e)) else none
  | 0x08 => if fld F 0 1 = 0 ∧ xpRes x e then some (.mul (tokOf tk peer) (fld F 11 5) (fld F 6 5) (fld F 1 5) (xpOf x e)) else none
  | 0x09 => if fld F 0 1 = 0 ∧ xpRes x e then some (.mulh (tokOf tk peer) (fld F 11 5) (fld F 6 5) (fld F 1 5) (xpOf x e)) else none
  | 0x0a => if fld F 0 1 = 0 ∧ xpRes x e then some (.mulhu (tokOf tk peer) (fld F 11 5) (fld F 6 5) (fld F 1 5) (xpOf x e)) else none
  | 0x0b => if fld F 0 1 = 0 ∧ xpRes x e then some (.div (tokOf tk peer) (fld F 11 5) (fld F 6 5) (fld F 1 5) (xpOf x e)) else none
  | 0x0c => if fld F 0 1 = 0 ∧ xpRes x e then some (.divu (tokOf tk peer) (fld F 11 5) (fld F 6 5) (fld F 1 5) (xpOf x e)) else none
  | 0x0d => if fld F 0 1 = 0 ∧ xpRes x e then some (.rem (tokOf tk peer) (fld F 11 5) (fld F 6 5) (fld F 1 5) (xpOf x e)) else none
  | 0x0e => if fld F 0 1 = 0 ∧ xpRes x e then some (.remu (tokOf tk peer) (fld F 11 5) (fld F 6 5) (fld F 1 5) (xpOf x e)) else none
  | 0x0f => if fld F 0 1 = 0 ∧ xpRes x e then some (.min (tokOf tk peer) (fld F 11 5) (fld F 6 5) (fld F 1 5) (xpOf x e)) else none
  | 0x10 => if fld F 0 1 = 0 ∧ xpRes x e then some (.max (tokOf tk peer) (fld F 11 5) (fld F 6 5) (fld F 1 5) (xpOf x e)) else none
  | 0x11 => if fld F 0 1 = 0 ∧ xpRes x e then some (.minu (tokOf tk peer) (fld F 11 5) (fld F 6 5) (fld F 1 5) (xpOf x e)) else none
  | 0x12 => if fld F 0 1 = 0 ∧ xpRes x e then some (.maxu (tokOf tk peer) (fld F 11 5) (fld F 6 5) (fld F 1 5) (xpOf x e)) else none
  | 0x13 => if fld F 0 1 = 0 ∧ xpRes x e then some (.slt (tokOf tk peer) (fld F 11 5) (fld F 6 5) (fld F 1 5) (xpOf x e)) else none
  | 0x14 => if fld F 0 1 = 0 ∧ xpRes x e then some (.sltu (tokOf tk peer) (fld F 11 5) (fld F 6 5) (fld F 1 5) (xpOf x e)) else none
  | 0x15 => if fld F 0 1 = 0 ∧ xpRes x e then some (.seq (tokOf tk peer) (fld F 11 5) (fld F 6 5) (fld F 1 5) (xpOf x e)) else none
  | 0x16 => if fld F 0 6 = 0 ∧ xpRes x e then some (.clz (tokOf tk peer) (fld F 11 5) (fld F 6 5) (xpOf x e)) else none
  | 0x17 => if fld F 0 6 = 0 ∧ xpRes x e then some (.popc (tokOf tk peer) (fld F 11 5) (fld F 6 5) (xpOf x e)) else none
  | 0x18 => if fld F 0 6 = 0 ∧ fld e 13 19 = 0 then some (.ext (tokOf tk peer) (fld F 11 5) (fld F 6 5) (fld e 12 1) (fld e 6 6) (fld e 0 6)) else none
  | 0x19 => if xpRes x e then some (.addi (tokOf tk peer) (fld F 11 5) (fld F 6 5) (fld F 0 6) (xpOf x e)) else none
  | 0x1a => if x = 0 then (some (.liShort (tokOf tk peer) (fld F 11 5) (fld F 0 11))) else (if fld F 0 11 = 0 then some (.liLong (tokOf tk peer) (fld F 11 5) e) else none)
  | 0x1b => if xpRes x e then some (.andi (tokOf tk peer) (fld F 11 5) (fld F 6 5) (fld F 0 6) (xpOf x e)) else none
  | 0x1c => if xpRes x e then some (.ori (tokOf tk peer) (fld F 11 5) (fld F 6 5) (fld F 0 6) (xpOf x e)) else none
  | 0x1d => if xpRes x e then some (.xori (tokOf tk peer) (fld F 11 5) (fld F 6 5) (fld F 0 6) (xpOf x e)) else none
  | 0x1e => if fld e 2 30 = 0 then some (.shi (tokOf tk peer) (fld F 11 5) (fld F 6 5) (fld F 0 6) (fld e 0 2)) else none
  | 0x1f => if fld F 0 1 = 0 ∧ xpRes x e then some (.add128 (tokOf tk peer) (fld F 11 5) (fld F 6 5) (fld F 1 5) (xpOf x e)) else none
  | 0x20 => if fld F 0 1 = 0 ∧ fld e 3 29 = 0 then some (.pcmp (tokOf tk peer) (fld F 11 5) (fld F 6 5) (fld F 1 5) (fld e 0 3)) else none
  | 0x21 => if fld F 1 10 = 0 ∧ xpRes x e then some (.pset (tokOf tk peer) (fld F 11 5) (fld F 0 1) (xpOf x e)) else none
  | 0x22 => if fld F 0 1 = 0 ∧ xpRes x e then some (.pand (tokOf tk peer) (fld F 11 5) (fld F 6 5) (fld F 1 5) (xpOf x e)) else none
  | 0x23 => if fld F 0 1 = 0 ∧ xpRes x e then some (.por (tokOf tk peer) (fld F 11 5) (fld F 6 5) (fld F 1 5) (xpOf x e)) else none
  | 0x24 => if fld F 0 1 = 0 ∧ xpRes x e then some (.pxor (tokOf tk peer) (fld F 11 5) (fld F 6 5) (fld F 1 5) (xpOf x e)) else none
  | 0x25 => if fld F 0 6 = 0 ∧ xpRes x e then some (.pnot (tokOf tk peer) (fld F 11 5) (fld F 6 5) (xpOf x e)) else none
  | 0x26 => if fld F 0 11 = 0 ∧ xpRes x e then some (.ptox (tokOf tk peer) (fld F 11 5) (xpOf x e)) else none
  | 0x27 => if fld F 0 6 = 0 ∧ fld F 11 5 = 0 ∧ xpRes x e then some (.xtop (tokOf tk peer) (fld F 6 5) (xpOf x e)) else none
  | 0x28 => if fld F 0 1 = 0 then some (.kld (tokOf tk peer) (fld F 11 5) (fld F 6 5) (fld F 1 5) (xmOf e)) else none
  | 0x29 => if fld F 0 1 = 0 then some (.kst (tokOf tk peer) (fld F 11 5) (fld F 6 5) (fld F 1 5) (xmOf e)) else none
  | 0x2a => if fld F 0 1 = 0 then some (.ksub (tokOf tk peer) (fld F 11 5) (fld F 6 5) (fld F 1 5) e) else none
  | 0x2b => if fld F 0 6 = 0 ∧ fld e 8 24 = 0 then some (.kperm (tokOf tk peer) (fld F 11 5) (fld F 6 5) (fld e 0 8)) else none
  | 0x2c => if fld F 0 6 = 0 ∧ xpRes x e then some (.kmov (tokOf tk peer) (fld F 11 5) (fld F 6 5) (xpOf x e)) else none
  | 0x2d => if xpRes x e then some (.kget (tokOf tk peer) (fld F 11 5) (fld F 6 5) (fld F 0 6) (xpOf x e)) else none
  | 0x2e => if xpRes x e then some (.ktest (tokOf tk peer) (fld F 11 5) (fld F 6 5) (fld F 0 6) (xpOf x e)) else none
  | 0x30 => if fld F 0 1 = 0 then some (.ld (tokOf tk peer) (fld F 11 5) (fld F 6 5) (fld F 1 5) (xmOf e)) else none
  | 0x31 => if fld F 0 1 = 0 then some (.st (tokOf tk peer) (fld F 11 5) (fld F 6 5) (fld F 1 5) (xmOf e)) else none
  | 0x32 => if fld F 0 1 = 0 then some (.ldaq (tokOf tk peer) (fld F 11 5) (fld F 6 5) (fld F 1 5) (xmOf e)) else none
  | 0x33 => if fld F 0 1 = 0 then some (.strl (tokOf tk peer) (fld F 11 5) (fld F 6 5) (fld F 1 5) (xmOf e)) else none
  | 0x34 => if fld F 0 1 = 0 then some (.amo (tokOf tk peer) (fld F 11 5) (fld F 6 5) (fld F 1 5) (xmOf e)) else none
  | 0x35 => if fld F 0 1 = 0 then some (.cas (tokOf tk peer) (fld F 11 5) (fld F 6 5) (fld F 1 5) (xmOf e)) else none
  | 0x36 => if fld F 5 11 = 0 then some (.fence (tokOf tk peer) (fld F 3 2) (fld F 0 3)) else none
  | 0x37 => if fld F 0 1 = 0 then some (.nmc (tokOf tk peer) (fld F 11 5) (fld F 6 5) (fld F 1 5) (xmOf e)) else none
  | 0x38 => if fld F 0 16 = 0 then some (.nmfence (tokOf tk peer)) else none
  | 0x39 => if fld F 3 8 = 0 ∧ xpRes x e then some (.qpush (tokOf tk peer) (fld F 11 5) (fld F 0 3) (xpOf x e)) else none
  | 0x3a => if fld F 0 11 = 0 ∧ xpRes x e then some (.qpop (tokOf tk peer) (fld F 11 5) (xpOf x e)) else none
  | 0x3b => if fld F 6 10 = 0 then some (.bar (tokOf tk peer) (fld F 3 3) (fld F 0 3)) else none
  | 0x40 => if fld F 0 1 = 0 then some (.sset (tokOf tk peer) (fld F 11 5) (fld F 6 5) (fld F 1 5) (xmOf e)) else none
  | 0x41 => if xpRes x e then some (.sget (tokOf tk peer) (fld F 11 5) (fld F 6 5) (fld F 0 6) (xpOf x e)) else none
  | 0x42 => if fld F 0 6 = 0 ∧ xpRes x e then some (.spos (tokOf tk peer) (fld F 11 5) (fld F 6 5) (xpOf x e)) else none
  | 0x48 => if fld F 0 1 = 0 then some (.tcont (tokOf tk peer) (fld F 11 5) (fld F 6 5) (fld F 1 5) (xmOf e)) else none
  | 0x49 => if fld F 8 3 = 0 ∧ xpRes x e then some (.tevt (tokOf tk peer) (fld F 11 5) (fld F 6 2) (fld F 0 6) (xpOf x e)) else none
  | 0x4a => if fld F 3 3 = 0 ∧ xpRes x e then some (.targ (tokOf tk peer) (fld F 11 5) (fld F 6 5) (fld F 2 1) (fld F 0 2) (xpOf x e)) else none
  | 0x4c => if fld F 3 3 = 0 ∧ fld F 11 5 = 0 then some (.jguard (tokOf tk peer) (fld F 6 5) (fld F 0 3)) else none
  | 0x4d => if fld F 0 6 = 0 then some (.jpatch (tokOf tk peer) (fld F 11 5) (fld F 6 5)) else none
  | 0x4e => if fld F 6 10 = 0 then some (.jmark (tokOf tk peer) (fld F 0 6)) else none
  | 0x4f => if fld F 6 5 = 0 then some (.jstat (tokOf tk peer) (fld F 11 5) (fld F 0 6)) else none
  | 0x50 => if fld F 3 8 = 0 then some (.opreq (tokOf tk peer) (fld F 11 5) (fld F 0 3) e) else none
  | 0x51 => if fld F 0 16 = 0 then some (.oprel (tokOf tk peer)) else none
  | 0x52 => if fld F 6 5 = 0 ∧ xpRes x e then some (.opget (tokOf tk peer) (fld F 11 5) (fld F 0 6) (xpOf x e)) else none
  | 0x60 => some (.csrr (tokOf tk peer) (fld F 11 5) (fld F 0 11))
  | 0x61 => some (.csrw (tokOf tk peer) (fld F 11 5) (fld F 0 11))
  | 0x62 => if fld F 6 10 = 0 then some (.trap (tokOf tk peer) (fld F 0 6)) else none
  | 0x63 => if fld F 0 16 = 0 then some (.reti (tokOf tk peer)) else none
  | 0x64 => if fld F 0 16 = 0 then some (.decline (tokOf tk peer)) else none
  | 0x65 => if fld F 0 1 = 0 ∧ fld F 11 5 = 0 then some (.ctxsave (tokOf tk peer) (fld F 6 5) (fld F 1 5)) else none
  | 0x66 => if fld F 0 1 = 0 ∧ fld F 11 5 = 0 then some (.ctxload (tokOf tk peer) (fld F 6 5) (fld F 1 5)) else none
  | 0x7c => if fld F 0 16 = 0 then some (.nopS (tokOf tk peer)) else none
  | 0x7e => if fld F 0 16 = 0 then some (.waitS (tokOf tk peer) (xwOf e)) else none
  | _ => none

/-- The operand fields of engine L's instructions, one line per opcode: `F` and the extension word `e` are read
by the layouts of R37 and R39, and every bit that the instruction does not use must be zero (R10). -/
def parseL (op x tk peer F e : Nat) : Option Instr :=
  match op with
  | 0x00 => if fld F 0 1 = 0 ∧ xpRes x e then some (.lsv (tokOf tk peer) (fld F 12 4) (fld F 1 11) (xpOf x e)) else none
  | 0x01 => if fld F 0 1 = 0 then some (.lgath (tokOf tk peer) (fld F 12 4) (fld F 1 11) (xvOf e)) else none
  | 0x02 => if fld F 0 1 = 0 ∧ xpRes x e then some (.lbrd (tokOf tk peer) (fld F 12 4) (fld F 1 11) (xpOf x e)) else none
  | 0x03 => if fld F 0 12 = 0 ∧ xpRes x e then some (.sgoL (tokOf tk peer) (fld F 12 4) (xpOf x e)) else none
  | 0x04 => if fld F 0 12 = 0 then some (.sskipL (tokOf tk peer) (fld F 12 4) e) else none
  | 0x05 => if fld F 0 12 = 0 ∧ xpRes x e then some (.srewL (tokOf tk peer) (fld F 12 4) (xpOf x e)) else none
  | 0x06 => if fld F 0 12 = 0 ∧ xpRes x e then some (.sdropL (tokOf tk peer) (fld F 12 4) (xpOf x e)) else none
  | 0x7c => if fld F 0 16 = 0 then some (.nopL (tokOf tk peer)) else none
  | 0x7e => if fld F 0 16 = 0 then some (.waitL (tokOf tk peer) (xwOf e)) else none
  | _ => none

/-- The operand fields of engine V's instructions, one line per opcode: `F` and the extension word `e` are read
by the layouts of R37 and R39, and every bit that the instruction does not use must be zero (R10). -/
def parseV (op x tk peer F e : Nat) : Option Instr :=
  match op with
  | 0x00 => some (.vadd (tokOf tk peer) (fvOf F) (xvOf e))
  | 0x01 => some (.vsub (tokOf tk peer) (fvOf F) (xvOf e))
  | 0x02 => some (.vmul (tokOf tk peer) (fvOf F) (xvOf e))
  | 0x03 => some (.vfma (tokOf tk peer) (fvOf F) (xvOf e))
  | 0x04 => some (.vfms (tokOf tk peer) (fvOf F) (xvOf e))
  | 0x05 => some (.vfnma (tokOf tk peer) (fvOf F) (xvOf e))
  | 0x06 => some (.vdiv (tokOf tk peer) (fvOf F) (xvOf e))
  | 0x07 => some (.vsqrt (tokOf tk peer) (fvOf F) (xvOf e))
  | 0x08 => some (.vrcp (tokOf tk peer) (fvOf F) (xvOf e))
  | 0x09 => some (.vrsq (tokOf tk peer) (fvOf F) (xvOf e))
  | 0x0a => some (.vexp2 (tokOf tk peer) (fvOf F) (xvOf e))
  | 0x0b => some (.vlog2 (tokOf tk peer) (fvOf F) (xvOf e))
  | 0x0c => some (.vmin (tokOf tk peer) (fvOf F) (xvOf e))
  | 0x0d => some (.vmax (tokOf tk peer) (fvOf F) (xvOf e))
  | 0x0e => some (.vabs (tokOf tk peer) (fvOf F) (xvOf e))
  | 0x0f => some (.vneg (tokOf tk peer) (fvOf F) (xvOf e))
  | 0x10 => some (.vand (tokOf tk peer) (fvOf F) (xvOf e))
  | 0x11 => some (.vor (tokOf tk peer) (fvOf F) (xvOf e))
  | 0x12 => some (.vxor (tokOf tk peer) (fvOf F) (xvOf e))
  | 0x13 => some (.vnot (tokOf tk peer) (fvOf F) (xvOf e))
  | 0x14 => some (.vshl (tokOf tk peer) (fvOf F) (xvOf e))
  | 0x15 => some (.vshr (tokOf tk peer) (fvOf F) (xvOf e))
  | 0x16 => some (.vsra (tokOf tk peer) (fvOf F) (xvOf e))
  | 0x17 => some (.vmulh (tokOf tk peer) (fvOf F) (xvOf e))
  | 0x18 => some (.vcmp (tokOf tk peer) (fvOf F) (xvOf e))
  | 0x19 => some (.vsel (tokOf tk peer) (fvOf F) (xvOf e))
  | 0x1a => some (.vmov (tokOf tk peer) (fvOf F) (xvOf e))
  | 0x1b => some (.vcvt (tokOf tk peer) (fvOf F) (xvOf e))
  | 0x1c => some (.vclass (tokOf tk peer) (fvOf F) (xvOf e))
  | 0x1d => some (.vidx (tokOf tk peer) (fvOf F) (xvOf e))
  | 0x1e => some (.vbcast (tokOf tk peer) (fvOf F) (xvOf e))
  | 0x1f => some (.vextr (tokOf tk peer) (fvOf F) (xvOf e))
  | 0x20 => some (.vred (tokOf tk peer) (fvOf F) (xvOf e))
  | 0x21 => some (.vscan (tokOf tk peer) (fvOf F) (xvOf e))
  | 0x22 => some (.vshuf (tokOf tk peer) (fvOf F) (xvOf e))
  | 0x23 => some (.vrot (tokOf tk peer) (fvOf F) (xvOf e))
  | 0x24 => some (.vcpush (tokOf tk peer) (fvOf F) (xvOf e))
  | 0x25 => some (.vcpop (tokOf tk peer) (fvOf F) (xvOf e))
  | 0x26 => some (.vccnt (tokOf tk peer) (fvOf F) (xvOf e))
  | 0x27 => some (.vrng (tokOf tk peer) (fvOf F) (xvOf e))
  | 0x28 => some (.vql6 (tokOf tk peer) (fvOf F) (xvOf e))
  | 0x29 => some (.vdl6 (tokOf tk peer) (fvOf F) (xvOf e))
  | 0x2a => some (.vpack (tokOf tk peer) (fvOf F) (xvOf e))
  | 0x2b => some (.vunpk (tokOf tk peer) (fvOf F) (xvOf e))
  | 0x30 => if fld F 0 3 = 0 ∧ fld F 6 5 = 0 ∧ xpRes x e then some (.bhint (tokOf tk peer) (fld F 11 5) (fld F 4 2) (fld F 3 1) (xpOf x e)) else none
  | 0x31 => if fld F 0 3 = 0 ∧ fld F 4 7 = 0 ∧ xpRes x e then some (.bwake (tokOf tk peer) (fld F 11 5) (fld F 3 1) (xpOf x e)) else none
  | 0x32 => if fld F 1 10 = 0 ∧ xpRes x e then some (.balloc (tokOf tk peer) (fld F 11 5) (fld F 0 1) (xpOf x e)) else none
  | 0x33 => if fld F 6 5 = 0 ∧ xpRes x e then some (.bstat (tokOf tk peer) (fld F 11 5) (fld F 0 6) (xpOf x e)) else none
  | 0x7c => if fld F 0 16 = 0 then some (.nopV (tokOf tk peer)) else none
  | 0x7e => if fld F 0 16 = 0 then some (.waitV (tokOf tk peer) (xwOf e)) else none
  | _ => none

/-- The operand fields of engine W's instructions, one line per opcode: `F` and the extension word `e` are read
by the layouts of R37 and R39, and every bit that the instruction does not use must be zero (R10). -/
def parseW (op x tk peer F e : Nat) : Option Instr :=
  match op with
  | 0x00 => if xpRes x e then some (.wsv (tokOf tk peer) (fld F 12 4) (fld F 1 11) (fld F 0 1) (xpOf x e)) else none
  | 0x01 => some (.wscat (tokOf tk peer) (fld F 12 4) (fld F 1 11) (fld F 0 1) (xvOf e))
  | 0x02 => if xpRes x e then some (.wacc (tokOf tk peer) (fld F 12 4) (fld F 1 11) (fld F 0 1) (xpOf x e)) else none
  | 0x03 => if fld F 0 12 = 0 ∧ xpRes x e then some (.sgoW (tokOf tk peer) (fld F 12 4) (xpOf x e)) else none
  | 0x04 => if fld F 0 12 = 0 then some (.sskipW (tokOf tk peer) (fld F 12 4) e) else none
  | 0x05 => if fld F 0 12 = 0 ∧ xpRes x e then some (.srewW (tokOf tk peer) (fld F 12 4) (xpOf x e)) else none
  | 0x06 => if fld F 0 12 = 0 ∧ xpRes x e then some (.sdropW (tokOf tk peer) (fld F 12 4) (xpOf x e)) else none
  | 0x07 => if fld F 3 13 = 0 then some (.wflush (tokOf tk peer) (fld F 0 3)) else none
  | 0x7c => if fld F 0 16 = 0 then some (.nopW (tokOf tk peer)) else none
  | 0x7e => if fld F 0 16 = 0 then some (.waitW (tokOf tk peer) (xwOf e)) else none
  | _ => none

/-- The operand fields of engine M's instructions, one line per opcode: `F` and the extension word `e` are read
by the layouts of R37 and R39, and every bit that the instruction does not use must be zero (R10). -/
def parseM (op x tk peer F e : Nat) : Option Instr :=
  match op with
  | 0x00 => if fld F 1 8 = 0 ∧ fld e 12 3 = 0 then some (.mmul (tokOf tk peer) (fld F 12 4) (fld F 9 3) (fld F 0 1) (xmmOf e)) else none
  | 0x01 => if fld F 1 8 = 0 ∧ fld e 12 3 = 0 then some (.mmulb (tokOf tk peer) (fld F 12 4) (fld F 9 3) (fld F 0 1) (xmmOf e)) else none
  | 0x02 => if fld F 0 11 = 0 then some (.mscal (tokOf tk peer) (fld F 11 5) e) else none
  | 0x03 => if fld F 0 11 = 0 ∧ xpRes x e then some (.mclr (tokOf tk peer) (fld F 11 5) (xpOf x e)) else none
  | 0x04 => if fld F 6 10 = 0 then some (.mjoin (tokOf tk peer) (fld F 3 3) (fld F 2 1) (fld F 0 2)) else none
  | 0x05 => if fld F 2 14 = 0 then some (.mleave (tokOf tk peer) (fld F 0 2)) else none
  | 0x06 => if fld F 6 10 = 0 then some (.mbset (tokOf tk peer) (fld F 0 6) e) else none
  | 0x7c => if fld F 0 16 = 0 then some (.nopM (tokOf tk peer)) else none
  | 0x7e => if fld F 0 16 = 0 then some (.waitM (tokOf tk peer) (xwOf e)) else none
  | _ => none

/-- The operand fields of engine C's instructions, one line per opcode: `F` and the extension word `e` are read
by the layouts of R37 and R39, and every bit that the instruction does not use must be zero (R10). -/
def parseC (op x tk peer F e : Nat) : Option Instr :=
  match op with
  | 0x00 => if fld F 0 1 = 0 then some (.cpy (tokOf tk peer) (fld F 11 5) (fld F 6 5) (fld F 1 5) (xcOf e)) else none
  | 0x01 => if fld F 0 1 = 0 then some (.ccvt (tokOf tk peer) (fld F 11 5) (fld F 6 5) (fld F 1 5) (xcOf e)) else none
  | 0x02 => if fld F 0 1 = 0 then some (.cfill (tokOf tk peer) (fld F 11 5) (fld F 6 5) (fld F 1 5) (xcOf e)) else none
  | 0x03 => if fld F 0 1 = 0 then some (.bload (tokOf tk peer) (fld F 11 5) (fld F 6 5) (fld F 1 5) (xcOf e)) else none
  | 0x04 => if fld F 0 1 = 0 then some (.wdef (tokOf tk peer) (fld F 11 5) (fld F 6 5) (fld F 1 5) (xcOf e)) else none
  | 0x05 => if xpRes x e then some (.wadv (tokOf tk peer) (fld F 11 5) (fld F 6 5) (fld F 0 6) (xpOf x e)) else none
  | 0x06 => if fld F 0 11 = 0 ∧ xpRes x e then some (.wrel (tokOf tk peer) (fld F 11 5) (xpOf x e)) else none
  | 0x08 => if fld F 0 1 = 0 ∧ fld F 11 5 = 0 ∧ fld e 16 16 = 0 then some (.dload (tokOf tk peer) (fld F 6 5) (fld F 1 5) (fld e 0 16)) else none
  | 0x09 => if fld F 0 6 = 0 ∧ fld F 11 5 = 0 then some (.dstart (tokOf tk peer) (fld F 6 5)) else none
  | 0x0a => if fld F 0 16 = 0 then some (.dstop (tokOf tk peer)) else none
  | 0x0b => if fld F 3 8 = 0 ∧ xpRes x e then some (.dstat (tokOf tk peer) (fld F 11 5) (fld F 2 1) (fld F 0 2) (xpOf x e)) else none
  | 0x7c => if fld F 0 16 = 0 then some (.nopC (tokOf tk peer)) else none
  | 0x7e => if fld F 0 16 = 0 then some (.waitC (tokOf tk peer) (xwOf e)) else none
  | _ => none

/-- The operand fields of engine A's instructions, one line per opcode: `F` and the extension word `e` are read
by the layouts of R37 and R39, and every bit that the instruction does not use must be zero (R10). -/
def parseA (op _x _tk _peer F e : Nat) : Option Instr :=
  match op with
  | 0x00 => if fld F 0 6 = 0 ∧ fld F 7 4 = 0 then some (.br (fld F 11 5) (fld F 6 1) e) else none
  | 0x01 => if fld F 0 16 = 0 then some (.jmp e) else none
  | 0x02 => if fld F 0 11 = 0 then some (.call (fld F 11 5) e) else none
  | 0x03 => if fld F 0 6 = 0 ∧ fld F 11 5 = 0 then some (.ret (fld F 6 5)) else none
  | 0x04 => if fld F 0 11 = 0 then some (.loop (fld F 11 5) (xlOf e)) else none
  | 0x05 => if fld F 0 16 = 0 then some (.yield) else none
  | 0x06 => if fld F 0 16 = 0 then some (.endW) else none
  | 0x07 => if fld F 0 11 = 0 then some (.blend (fld F 11 5)) else none
  | 0x08 => if fld F 0 11 = 0 then some (.bret (fld F 11 5)) else none
  | 0x09 => if fld F 0 16 = 0 then some (.sync) else none
  | 0x7c => if fld F 0 16 = 0 then some (.nopA) else none
  | _ => none

/-- The instruction whose fields are in a header of engine `eng`. -/
def parseEng (eng op x tk peer F e : Nat) : Option Instr :=
  match eng with
  | 0 => parseS op x tk peer F e
  | 1 => parseL op x tk peer F e
  | 2 => parseV op x tk peer F e
  | 3 => parseW op x tk peer F e
  | 4 => parseM op x tk peer F e
  | 5 => parseC op x tk peer F e
  | 6 => parseA op x tk peer F e
  | _ => none

/-- Checks 1 to 4 of R33, in order; they read the header word alone. -/
def headerCheck (h : Nat) : Except Reject Form :=
  let eng := fld h 29 3
  let x := fld h 28 1
  if eng = 7 then .error .badEng
  else if tokOk eng (fld h 26 2) (fld h 23 3) = false then .error .badToken
  else match opForm eng (fld h 16 7) with
    | none => .error .badOp
    | some .bare => if x = 0 then .ok .bare else .error .badX
    | some .ext => if x = 1 then .ok .ext else .error .badX
    | some .opt => .ok .opt

/-- Check 5 of R33 on the whole instruction: header `h` and extension word `e` (read only when X = 1). -/
def fieldCheck (h e : Nat) : Except Reject Instr :=
  match parseEng (fld h 29 3) (fld h 16 7) (fld h 28 1) (fld h 26 2) (fld h 23 3) (fld h 0 16) e with
  | none => .error .badField
  | some i => if i.wf then .ok i else .error .badField

/-- Decoding an instruction whose extension word, if it has one, is `e`; `e?` is none where the text ends before it. -/
def decodeWords (h : Nat) (e? : Option Nat) : Except Reject Instr :=
  match headerCheck h with
  | .error r => .error r
  | .ok _ =>
    if fld h 28 1 = 0 then fieldCheck h 0
    else match e? with
      | none => .error .noExt
      | some e => fieldCheck h e

/-- A little-endian 32-bit word at the head of a byte list (R2). -/
def takeWord : List Byte → Option (Nat × List Byte)
  | b0 :: b1 :: b2 :: b3 :: rest =>
      some (b0.toNat + b1.toNat * 2 ^ 8 + b2.toNat * 2 ^ 16 + b3.toNat * 2 ^ 24, rest)
  | _ => none

/-- Decoding total on any bytes: the instruction at the head of the list with the bytes after it, or the name of what
is wrong. -/
def decode (bs : List Byte) : Except Reject (Instr × List Byte) :=
  match takeWord bs with
  | none => .error .noHeader
  | some (h, rest) =>
    match decodeWords h ((takeWord rest).map Prod.fst) with
    | .error r => .error r
    | .ok i => .ok (i, if fld h 28 1 = 0 then rest else rest.drop 4)

/-- The four bytes of a word in the order in which they are stored (R2). -/
def wordBytes (w : Nat) : List Byte :=
  [BitVec.ofNat 8 w, BitVec.ofNat 8 (w / 2 ^ 8), BitVec.ofNat 8 (w / 2 ^ 16), BitVec.ofNat 8 (w / 2 ^ 24)]

/-- The instruction that the decoder reads from an instruction whose bits are `w`, numbered as the opcode table numbers
them: bit 0 is the least significant bit of the header word, and the extension word's bits count on from bit 32. -/
def decodeTableWord (nbits w : Nat) : Option Instr :=
  let v := w % 2 ^ nbits
  match decode (wordBytes (v % 2 ^ 32) ++ wordBytes (v / 2 ^ 32)) with
  | .ok (i, _) => some i
  | .error _ => none

/-! ### The encoder -/

/-- A field value at its place in a word. -/
def sh (v lo : Nat) : Nat := v * 2 ^ lo

/-- A header word of R29. -/
def hdr (eng x : Nat) (tk : Tok) (op F : Nat) : Nat :=
  eng * 2 ^ 29 + x * 2 ^ 28 + tk.code * 2 ^ 26 + tk.peer * 2 ^ 23 + op * 2 ^ 16 + F

def XP.bit (g : XP) : Nat := if g.isSome then 1 else 0

def XP.words : XP → List Nat
  | none => []
  | some g => [g.pr * 2 ^ 5 + g.sense * 2 ^ 4]

def FV.word (f : FV) : Nat := f.vd * 2 ^ 5 + f.rnd * 2 ^ 3 + f.sat * 2 ^ 2 + f.ty
def XV.word (x : XV) : Nat :=
  x.va * 2 ^ 21 + x.vb * 2 ^ 10 + x.pr * 2 ^ 5 + x.sense * 2 ^ 4 + x.la * 2 ^ 3 + x.lb * 2 ^ 2 + x.bx * 2 + x.sp
def XM.word (m : XM) : Nat :=
  m.pr * 2 ^ 27 + m.sense * 2 ^ 26 + m.size * 2 ^ 24 + m.sx * 2 ^ 23 + m.scope * 2 ^ 20 + m.sub * 2 ^ 16 + m.off
def XC.word (c : XC) : Nat :=
  c.pr * 2 ^ 27 + c.sense * 2 ^ 26 + c.rnd * 2 ^ 24 + c.sfmt * 2 ^ 22 + c.dfmt * 2 ^ 20 + c.ks * 2 ^ 16 + c.scstr
def XMM.word (m : XMM) : Nat :=
  m.pr * 2 ^ 27 + m.sense * 2 ^ 26 + m.mode * 2 ^ 24 + m.shr * 2 ^ 23 + m.bset * 2 ^ 21 + m.mr * 2 ^ 15 + m.k
def XL.word (l : XL) : Nat := l.nst * 2 ^ 29 + l.ci * 2 ^ 28 + l.body * 2 ^ 16 + l.trip
def XW.word (w : XW) : Nat := w.loads * 2 ^ 24 + w.stores * 2 ^ 16 + w.copies * 2 ^ 8 + w.tiles

/-- The words of an instruction, written from the layouts of R29, R37, R39, R51 to R57, R169, R261 and R312.  An event
has no encoding and therefore no words. -/
def encode : Instr → List Nat
  | .add tk d a b g => hdr 0 (XP.bit g) tk 0x00 (sh d 11 + sh a 6 + sh b 1) :: XP.words g
  | .sub tk d a b g => hdr 0 (XP.bit g) tk 0x01 (sh d 11 + sh a 6 + sh b 1) :: XP.words g
  | .and tk d a b g => hdr 0 (XP.bit g) tk 0x02 (sh d 11 + sh a 6 + sh b 1) :: XP.words g
  | .or tk d a b g => hdr 0 (XP.bit g) tk 0x03 (sh d 11 + sh a 6 + sh b 1) :: XP.words g
  | .xor tk d a b g => hdr 0 (XP.bit g) tk 0x04 (sh d 11 + sh a 6 + sh b 1) :: XP.words g
  | .sll tk d a b g => hdr 0 (XP.bit g) tk 0x05 (sh d 11 + sh a 6 + sh b 1) :: XP.words g
  | .srl tk d a b g => hdr 0 (XP.bit g) tk 0x06 (sh d 11 + sh a 6 + sh b 1) :: XP.words g
  | .sra tk d a b g => hdr 0 (XP.bit g) tk 0x07 (sh d 11 + sh a 6 + sh b 1) :: XP.words g
  | .mul tk d a b g => hdr 0 (XP.bit g) tk 0x08 (sh d 11 + sh a 6 + sh b 1) :: XP.words g
  | .mulh tk d a b g => hdr 0 (XP.bit g) tk 0x09 (sh d 11 + sh a 6 + sh b 1) :: XP.words g
  | .mulhu tk d a b g => hdr 0 (XP.bit g) tk 0x0a (sh d 11 + sh a 6 + sh b 1) :: XP.words g
  | .div tk d a b g => hdr 0 (XP.bit g) tk 0x0b (sh d 11 + sh a 6 + sh b 1) :: XP.words g
  | .divu tk d a b g => hdr 0 (XP.bit g) tk 0x0c (sh d 11 + sh a 6 + sh b 1) :: XP.words g
  | .rem tk d a b g => hdr 0 (XP.bit g) tk 0x0d (sh d 11 + sh a 6 + sh b 1) :: XP.words g
  | .remu tk d a b g => hdr 0 (XP.bit g) tk 0x0e (sh d 11 + sh a 6 + sh b 1) :: XP.words g
  | .min tk d a b g => hdr 0 (XP.bit g) tk 0x0f (sh d 11 + sh a 6 + sh b 1) :: XP.words g
  | .max tk d a b g => hdr 0 (XP.bit g) tk 0x10 (sh d 11 + sh a 6 + sh b 1) :: XP.words g
  | .minu tk d a b g => hdr 0 (XP.bit g) tk 0x11 (sh d 11 + sh a 6 + sh b 1) :: XP.words g
  | .maxu tk d a b g => hdr 0 (XP.bit g) tk 0x12 (sh d 11 + sh a 6 + sh b 1) :: XP.words g
  | .slt tk d a b g => hdr 0 (XP.bit g) tk 0x13 (sh d 11 + sh a 6 + sh b 1) :: XP.words g
  | .sltu tk d a b g => hdr 0 (XP.bit g) tk 0x14 (sh d 11 + sh a 6 + sh b 1) :: XP.words g
  | .seq tk d a b g => hdr 0 (XP.bit g) tk 0x15 (sh d 11 + sh a 6 + sh b 1) :: XP.words g
  | .clz tk d a g => hdr 0 (XP.bit g) tk 0x16 (sh d 11 + sh a 6) :: XP.words g
  | .popc tk d a g => hdr 0 (XP.bit g) tk 0x17 (sh d 11 + sh a 6) :: XP.words g
  | .ext tk d a sx pos wm1 => [hdr 0 1 tk 0x18 (sh d 11 + sh a 6), sh sx 12 + sh pos 6 + wm1]
  | .addi tk d a imm g => hdr 0 (XP.bit g) tk 0x19 (sh d 11 + sh a 6 + imm) :: XP.words g
  | .liShort tk d imm => [hdr 0 0 tk 0x1a (sh d 11 + imm)]
  | .liLong tk d imm32 => [hdr 0 1 tk 0x1a (sh d 11), imm32]
  | .andi tk d a imm g => hdr 0 (XP.bit g) tk 0x1b (sh d 11 + sh a 6 + imm) :: XP.words g
  | .ori tk d a imm g => hdr 0 (XP.bit g) tk 0x1c (sh d 11 + sh a 6 + imm) :: XP.words g
  | .xori tk d a imm g => hdr 0 (XP.bit g) tk 0x1d (sh d 11 + sh a 6 + imm) :: XP.words g
  | .shi tk d a imm kind => [hdr 0 1 tk 0x1e (sh d 11 + sh a 6 + imm), kind]
  | .add128 tk d a b g => hdr 0 (XP.bit g) tk 0x1f (sh d 11 + sh a 6 + sh b 1) :: XP.words g
  | .pcmp tk d a b cond => [hdr 0 1 tk 0x20 (sh d 11 + sh a 6 + sh b 1), cond]
  | .pset tk d v g => hdr 0 (XP.bit g) tk 0x21 (sh d 11 + v) :: XP.words g
  | .pand tk d a b g => hdr 0 (XP.bit g) tk 0x22 (sh d 11 + sh a 6 + sh b 1) :: XP.words g
  | .por tk d a b g => hdr 0 (XP.bit g) tk 0x23 (sh d 11 + sh a 6 + sh b 1) :: XP.words g
  | .pxor tk d a b g => hdr 0 (XP.bit g) tk 0x24 (sh d 11 + sh a 6 + sh b 1) :: XP.words g
  | .pnot tk d a g => hdr 0 (XP.bit g) tk 0x25 (sh d 11 + sh a 6) :: XP.words g
  | .ptox tk d g => hdr 0 (XP.bit g) tk 0x26 (sh d 11) :: XP.words g
  | .xtop tk a g => hdr 0 (XP.bit g) tk 0x27 (sh a 6) :: XP.words g
  | .kld tk d a b m => [hdr 0 1 tk 0x28 (sh d 11 + sh a 6 + sh b 1), m.word]
  | .kst tk d a b m => [hdr 0 1 tk 0x29 (sh d 11 + sh a 6 + sh b 1), m.word]
  | .ksub tk d a b imm32 => [hdr 0 1 tk 0x2a (sh d 11 + sh a 6 + sh b 1), imm32]
  | .kperm tk d a perm => [hdr 0 1 tk 0x2b (sh d 11 + sh a 6), perm]
  | .kmov tk d a g => hdr 0 (XP.bit g) tk 0x2c (sh d 11 + sh a 6) :: XP.words g
  | .kget tk d a imm g => hdr 0 (XP.bit g) tk 0x2d (sh d 11 + sh a 6 + imm) :: XP.words g
  | .ktest tk d a imm g => hdr 0 (XP.bit g) tk 0x2e (sh d 11 + sh a 6 + imm) :: XP.words g
  | .ld tk d a b m => [hdr 0 1 tk 0x30 (sh d 11 + sh a 6 + sh b 1), m.word]
  | .st tk d a b m => [hdr 0 1 tk 0x31 (sh d 11 + sh a 6 + sh b 1), m.word]
  | .ldaq tk d a b m => [hdr 0 1 tk 0x32 (sh d 11 + sh a 6 + sh b 1), m.word]
  | .strl tk d a b m => [hdr 0 1 tk 0x33 (sh d 11 + sh a 6 + sh b 1), m.word]
  | .amo tk d a b m => [hdr 0 1 tk 0x34 (sh d 11 + sh a 6 + sh b 1), m.word]
  | .cas tk d a b m => [hdr 0 1 tk 0x35 (sh d 11 + sh a 6 + sh b 1), m.word]
  | .fence tk kind scope => [hdr 0 0 tk 0x36 (sh kind 3 + scope)]
  | .nmc tk d a b m => [hdr 0 1 tk 0x37 (sh d 11 + sh a 6 + sh b 1), m.word]
  | .nmfence tk => [hdr 0 0 tk 0x38 (0)]
  | .qpush tk d stage g => hdr 0 (XP.bit g) tk 0x39 (sh d 11 + stage) :: XP.words g
  | .qpop tk d g => hdr 0 (XP.bit g) tk 0x3a (sh d 11) :: XP.words g
  | .bar tk num scope => [hdr 0 0 tk 0x3b (sh num 3 + scope)]
  | .sset tk d a b m => [hdr 0 1 tk 0x40 (sh d 11 + sh a 6 + sh b 1), m.word]
  | .sget tk d a imm g => hdr 0 (XP.bit g) tk 0x41 (sh d 11 + sh a 6 + imm) :: XP.words g
  | .spos tk d a g => hdr 0 (XP.bit g) tk 0x42 (sh d 11 + sh a 6) :: XP.words g
  | .tcont tk d a b m => [hdr 0 1 tk 0x48 (sh d 11 + sh a 6 + sh b 1), m.word]
  | .tevt tk d act ev g => hdr 0 (XP.bit g) tk 0x49 (sh d 11 + sh act 6 + ev) :: XP.words g
  | .targ tk d a sx size g => hdr 0 (XP.bit g) tk 0x4a (sh d 11 + sh a 6 + sh sx 2 + size) :: XP.words g
  | .jguard tk a size => [hdr 0 0 tk 0x4c (sh a 6 + size)]
  | .jpatch tk d a => [hdr 0 0 tk 0x4d (sh d 11 + sh a 6)]
  | .jmark tk imm => [hdr 0 0 tk 0x4e (imm)]
  | .jstat tk d imm => [hdr 0 0 tk 0x4f (sh d 11 + imm)]
  | .opreq tk d q imm32 => [hdr 0 1 tk 0x50 (sh d 11 + q), imm32]
  | .oprel tk => [hdr 0 0 tk 0x51 (0)]
  | .opget tk d imm g => hdr 0 (XP.bit g) tk 0x52 (sh d 11 + imm) :: XP.words g
  | .csrr tk d csr => [hdr 0 0 tk 0x60 (sh d 11 + csr)]
  | .csrw tk d csr => [hdr 0 0 tk 0x61 (sh d 11 + csr)]
  | .trap tk imm => [hdr 0 0 tk 0x62 (imm)]
  | .reti tk => [hdr 0 0 tk 0x63 (0)]
  | .decline tk => [hdr 0 0 tk 0x64 (0)]
  | .ctxsave tk a b => [hdr 0 0 tk 0x65 (sh a 6 + sh b 1)]
  | .ctxload tk a b => [hdr 0 0 tk 0x66 (sh a 6 + sh b 1)]
  | .nopS tk => [hdr 0 0 tk 0x7c (0)]
  | .waitS tk w => [hdr 0 1 tk 0x7e (0), w.word]
  | .lsv tk s sp g => hdr 1 (XP.bit g) tk 0x00 (sh s 12 + sh sp 1) :: XP.words g
  | .lgath tk s sp x => [hdr 1 1 tk 0x01 (sh s 12 + sh sp 1), x.word]
  | .lbrd tk s sp g => hdr 1 (XP.bit g) tk 0x02 (sh s 12 + sh sp 1) :: XP.words g
  | .sgoL tk s g => hdr 1 (XP.bit g) tk 0x03 (sh s 12) :: XP.words g
  | .sskipL tk s imm32 => [hdr 1 1 tk 0x04 (sh s 12), imm32]
  | .srewL tk s g => hdr 1 (XP.bit g) tk 0x05 (sh s 12) :: XP.words g
  | .sdropL tk s g => hdr 1 (XP.bit g) tk 0x06 (sh s 12) :: XP.words g
  | .nopL tk => [hdr 1 0 tk 0x7c (0)]
  | .waitL tk w => [hdr 1 1 tk 0x7e (0), w.word]
  | .wsv tk s sp last g => hdr 3 (XP.bit g) tk 0x00 (sh s 12 + sh sp 1 + last) :: XP.words g
  | .wscat tk s sp last x => [hdr 3 1 tk 0x01 (sh s 12 + sh sp 1 + last), x.word]
  | .wacc tk s sp last g => hdr 3 (XP.bit g) tk 0x02 (sh s 12 + sh sp 1 + last) :: XP.words g
  | .sgoW tk s g => hdr 3 (XP.bit g) tk 0x03 (sh s 12) :: XP.words g
  | .sskipW tk s imm32 => [hdr 3 1 tk 0x04 (sh s 12), imm32]
  | .srewW tk s g => hdr 3 (XP.bit g) tk 0x05 (sh s 12) :: XP.words g
  | .sdropW tk s g => hdr 3 (XP.bit g) tk 0x06 (sh s 12) :: XP.words g
  | .wflush tk scope => [hdr 3 0 tk 0x07 (scope)]
  | .nopW tk => [hdr 3 0 tk 0x7c (0)]
  | .waitW tk w => [hdr 3 1 tk 0x7e (0), w.word]
  | .vadd tk f x => [hdr 2 1 tk 0x00 (f.word), x.word]
  | .vsub tk f x => [hdr 2 1 tk 0x01 (f.word), x.word]
  | .vmul tk f x => [hdr 2 1 tk 0x02 (f.word), x.word]
  | .vfma tk f x => [hdr 2 1 tk 0x03 (f.word), x.word]
  | .vfms tk f x => [hdr 2 1 tk 0x04 (f.word), x.word]
  | .vfnma tk f x => [hdr 2 1 tk 0x05 (f.word), x.word]
  | .vdiv tk f x => [hdr 2 1 tk 0x06 (f.word), x.word]
  | .vsqrt tk f x => [hdr 2 1 tk 0x07 (f.word), x.word]
  | .vrcp tk f x => [hdr 2 1 tk 0x08 (f.word), x.word]
  | .vrsq tk f x => [hdr 2 1 tk 0x09 (f.word), x.word]
  | .vexp2 tk f x => [hdr 2 1 tk 0x0a (f.word), x.word]
  | .vlog2 tk f x => [hdr 2 1 tk 0x0b (f.word), x.word]
  | .vmin tk f x => [hdr 2 1 tk 0x0c (f.word), x.word]
  | .vmax tk f x => [hdr 2 1 tk 0x0d (f.word), x.word]
  | .vabs tk f x => [hdr 2 1 tk 0x0e (f.word), x.word]
  | .vneg tk f x => [hdr 2 1 tk 0x0f (f.word), x.word]
  | .vand tk f x => [hdr 2 1 tk 0x10 (f.word), x.word]
  | .vor tk f x => [hdr 2 1 tk 0x11 (f.word), x.word]
  | .vxor tk f x => [hdr 2 1 tk 0x12 (f.word), x.word]
  | .vnot tk f x => [hdr 2 1 tk 0x13 (f.word), x.word]
  | .vshl tk f x => [hdr 2 1 tk 0x14 (f.word), x.word]
  | .vshr tk f x => [hdr 2 1 tk 0x15 (f.word), x.word]
  | .vsra tk f x => [hdr 2 1 tk 0x16 (f.word), x.word]
  | .vmulh tk f x => [hdr 2 1 tk 0x17 (f.word), x.word]
  | .vcmp tk f x => [hdr 2 1 tk 0x18 (f.word), x.word]
  | .vsel tk f x => [hdr 2 1 tk 0x19 (f.word), x.word]
  | .vmov tk f x => [hdr 2 1 tk 0x1a (f.word), x.word]
  | .vcvt tk f x => [hdr 2 1 tk 0x1b (f.word), x.word]
  | .vclass tk f x => [hdr 2 1 tk 0x1c (f.word), x.word]
  | .vidx tk f x => [hdr 2 1 tk 0x1d (f.word), x.word]
  | .vbcast tk f x => [hdr 2 1 tk 0x1e (f.word), x.word]
  | .vextr tk f x => [hdr 2 1 tk 0x1f (f.word), x.word]
  | .vred tk f x => [hdr 2 1 tk 0x20 (f.word), x.word]
  | .vscan tk f x => [hdr 2 1 tk 0x21 (f.word), x.word]
  | .vshuf tk f x => [hdr 2 1 tk 0x22 (f.word), x.word]
  | .vrot tk f x => [hdr 2 1 tk 0x23 (f.word), x.word]
  | .vcpush tk f x => [hdr 2 1 tk 0x24 (f.word), x.word]
  | .vcpop tk f x => [hdr 2 1 tk 0x25 (f.word), x.word]
  | .vccnt tk f x => [hdr 2 1 tk 0x26 (f.word), x.word]
  | .vrng tk f x => [hdr 2 1 tk 0x27 (f.word), x.word]
  | .vql6 tk f x => [hdr 2 1 tk 0x28 (f.word), x.word]
  | .vdl6 tk f x => [hdr 2 1 tk 0x29 (f.word), x.word]
  | .vpack tk f x => [hdr 2 1 tk 0x2a (f.word), x.word]
  | .vunpk tk f x => [hdr 2 1 tk 0x2b (f.word), x.word]
  | .bhint tk d fall kind g => hdr 2 (XP.bit g) tk 0x30 (sh d 11 + sh fall 4 + sh kind 3) :: XP.words g
  | .bwake tk d kind g => hdr 2 (XP.bit g) tk 0x31 (sh d 11 + sh kind 3) :: XP.words g
  | .balloc tk d take g => hdr 2 (XP.bit g) tk 0x32 (sh d 11 + take) :: XP.words g
  | .bstat tk d imm g => hdr 2 (XP.bit g) tk 0x33 (sh d 11 + imm) :: XP.words g
  | .nopV tk => [hdr 2 0 tk 0x7c (0)]
  | .waitV tk w => [hdr 2 1 tk 0x7e (0), w.word]
  | .mmul tk s bk last m => [hdr 4 1 tk 0x00 (sh s 12 + sh bk 9 + last), m.word]
  | .mmulb tk s bk last m => [hdr 4 1 tk 0x01 (sh s 12 + sh bk 9 + last), m.word]
  | .mscal tk d imm32 => [hdr 4 1 tk 0x02 (sh d 11), imm32]
  | .mclr tk d g => hdr 4 (XP.bit g) tk 0x03 (sh d 11) :: XP.words g
  | .mjoin tk sz src g => [hdr 4 0 tk 0x04 (sh sz 3 + sh src 2 + g)]
  | .mleave tk g => [hdr 4 0 tk 0x05 (g)]
  | .mbset tk imm imm32 => [hdr 4 1 tk 0x06 (imm), imm32]
  | .nopM tk => [hdr 4 0 tk 0x7c (0)]
  | .waitM tk w => [hdr 4 1 tk 0x7e (0), w.word]
  | .cpy tk d a b c => [hdr 5 1 tk 0x00 (sh d 11 + sh a 6 + sh b 1), c.word]
  | .ccvt tk d a b c => [hdr 5 1 tk 0x01 (sh d 11 + sh a 6 + sh b 1), c.word]
  | .cfill tk d a b c => [hdr 5 1 tk 0x02 (sh d 11 + sh a 6 + sh b 1), c.word]
  | .bload tk d a b c => [hdr 5 1 tk 0x03 (sh d 11 + sh a 6 + sh b 1), c.word]
  | .wdef tk d a b c => [hdr 5 1 tk 0x04 (sh d 11 + sh a 6 + sh b 1), c.word]
  | .wadv tk d a imm g => hdr 5 (XP.bit g) tk 0x05 (sh d 11 + sh a 6 + imm) :: XP.words g
  | .wrel tk d g => hdr 5 (XP.bit g) tk 0x06 (sh d 11) :: XP.words g
  | .dload tk a b ks => [hdr 5 1 tk 0x08 (sh a 6 + sh b 1), ks]
  | .dstart tk a => [hdr 5 0 tk 0x09 (sh a 6)]
  | .dstop tk => [hdr 5 0 tk 0x0a (0)]
  | .dstat tk d wt sel g => hdr 5 (XP.bit g) tk 0x0b (sh d 11 + sh wt 2 + sel) :: XP.words g
  | .nopC tk => [hdr 5 0 tk 0x7c (0)]
  | .waitC tk w => [hdr 5 1 tk 0x7e (0), w.word]
  | .br d sense imm32 => [hdr 6 1 Tok.none 0x00 (sh d 11 + sh sense 6), imm32]
  | .jmp imm32 => [hdr 6 1 Tok.none 0x01 (0), imm32]
  | .call d imm32 => [hdr 6 1 Tok.none 0x02 (sh d 11), imm32]
  | .ret a => [hdr 6 0 Tok.none 0x03 (sh a 6)]
  | .loop d l => [hdr 6 1 Tok.none 0x04 (sh d 11), l.word]
  | .yield => [hdr 6 0 Tok.none 0x05 (0)]
  | .endW => [hdr 6 0 Tok.none 0x06 (0)]
  | .blend d => [hdr 6 0 Tok.none 0x07 (sh d 11)]
  | .bret d => [hdr 6 0 Tok.none 0x08 (sh d 11)]
  | .sync => [hdr 6 0 Tok.none 0x09 (0)]
  | .nopA => [hdr 6 0 Tok.none 0x7c (0)]
  | .statusParkd _ => []
  | .statusAbort _ => []
  | .tapectlNorec _ => []
  | .tapectlJdrop _ => []
  | .trapEntry _ => []
  | .tokenTimeout _ _ => []
  | .tokenPush _ _ => []
  | .scalarLoadPerformed _ _ => []
  | .scalarStorePerformed _ _ => []
  | .atomicPerformed _ _ => []
  | .barComplete _ _ => []
  | .copyMovePerformed _ _ => []
  | .windowFillPerformed _ _ => []
  | .spadBankFall _ _ => []
  | .spadBankWakeDone _ _ => []
  | .regBankFall _ _ => []
  | .regBankWakeDone _ _ => []
  | .dupCopyDone _ _ => []
  | .streamRequest _ _ => []
  | .streamDataReturn _ _ => []
  | .loadWordPerformed _ => []
  | .storeWordPerformed _ _ => []
  | .vWordRetire _ => []
  | .mmulPanelComplete _ => []
  | .tileOpPerformed _ => []
  | .sharedBRound _ _ => []
  | .nmCommand _ => []
  | .nmCommandEnd _ => []
  | .tlbWalkDone _ _ => []
  | .tinv => []
  | .tinvComplete => []
  | .migr => []
  | .migrResume => []
  | .migrCopyDone _ => []
  | .hotPageEpoch => []
  | .subarrayRefresh _ => []
  | .timeBeacon => []
  | .timeLockLoss => []
  | .timeLockRegain => []
  | .dovetailLinkDegrade _ => []
  | .dovetailLinkDown _ => []
  | .peerAccess _ => []
  | .peerWriteRefused _ _ => []
  | .dovetailBeat _ => []
  | .dovetailEntryStart _ _ => []
  | .dovetailReceive _ => []
  | .dovetailEntryPerformed _ _ => []
  | .dovetailTimeout _ _ => []
  | .unitEnd _ => []
  | .taskComplete _ => []
  | .submit _ => []
  | .hostEndGraph _ => []
  | .dispatchTick => []
  | .continuationForward => []
  | .fallbackForward _ => []
  | .guaranteedOverrun _ => []
  | .curve _ => []
  | .curveEffective => []
  | .curvePointStart => []
  | .curveHorizonEnd => []
  | .underdraw => []
  | .relockDone _ => []
  | .voltageRampDone _ => []
  | .preemptRequest _ => []
  | .preemptWithdraw _ => []
  | .forcedSave _ => []
  | .parkDone _ => []
  | .parkResume _ => []
  | .unitResume _ => []
  | .dieGate _ => []
  | .dieUngate _ => []
  | .dieUngateReady _ => []
  | .leaseExpire _ => []
  | .pairThrottle _ => []
  | .pairThrottleRestore _ => []
  | .pairThrottleLower _ => []
  | .boilingLimitUpdate _ _ => []
  | .thermalEmergency _ => []
  | .slowdownNotice => []
  | .thermalCapBeat _ => []
  | .thermalEmergencyEnd _ => []
  | .thermalSevere _ => []
  | .sensorFail _ => []
  | .machineCheck _ _ _ _ _ => []
  | .telemetryRecord _ => []
  | .suspectConnection _ => []
  | .connectorMargin => []
  | .sillaneDegrade _ => []
  | .sillaneLinkDown _ => []
  | .register => []
  | .attest => []
  | .keyset _ => []
  | .domain => []
  | .coldReset => []
  | .warmReset => []
  | .sillaneTrained _ => []
  | .hbm4PhyTrained _ _ => []
  | .dovetailTrained _ => []
  | .taskStart _ => []
  | .tevtPerformed _ => []
  | .dloadContextLoaded _ => []
  | .ctxTransferDone _ => []
  | .scalarArithRetire _ => []
  | .hostMemoryAccess _ => []
  | .cxlLinkDown _ => []
  | .mailboxBadcmd => []
  | .translationBadcmd => []
  | .curvePointLookahead => []

/-- The bytes of an instruction as text holds them (R2). -/
def encodeBytes (i : Instr) : List Byte := ((encode i).map wordBytes).flatten

end Sys2Proof
end

