-- ==== Sys2Proof/Config.lean ====
section
/-! DEFINITION. What one implementation fixes and the spec leaves open.  Every constant here is opaque: no proof can
evaluate it, so a statement that holds in the model holds whatever the hardware chooses.  A free value is such a
constant applied to the counter `State.tick`, which advances by one at every step, or to the operands it depends on.
The assumption log says for each why it is open (notes/assumptions). -/

namespace Sys2Proof.Config

/-- A choice of the hardware or of the outside world that the spec leaves open (R302, R372, R395, R424 and others), as
a Boolean: the counter of the step, and which question is asked. -/
opaque freeBool (tick q : Nat) : Bool
/-- A number the spec leaves open or that comes from outside (a sensor reading, a projected draw, a victim). -/
opaque freeNat (tick q : Nat) : Nat
/-- Capacity in bytes of the CXL expanders that are present (R111); at most 32 TiB of it counts (R25). -/
opaque cxlBytes : Nat
/-- The module of a number is in the load-store domain (R112, R279). -/
opaque inDomain (module : Nat) : Bool
/-- The bytes of the replay operand area, whose layout the spec does not give (R441). -/
opaque operandByte (tick i : Nat) : BitVec 8
/-- The module's serial number (R389). -/
opaque serial : Word
/-- The firmware image's supervisor text of 1,024 words (R434, R464). -/
opaque firmware (a : Nat) : Word32
/-- The signature made by the identity key over an attestation report (R465). -/
opaque attestSig (nonce digest seq : Nat) : Nat
/-- The digest of the firmware image (R465). -/
opaque firmwareDigest : Nat
/-- The victim entry that a full TLB set evicts: R113 does not fix the replacement rule. -/
opaque tlbVictim (tick set : Nat) : Nat
/-- The count from which a region stands in the hot-page report: the host sets it (R120), by a means the spec does not
give. -/
opaque hotThreshold : Nat
/-- Campion's projected draw in W (R395) before the measures number `stage` of a curtailment. -/
opaque projectedDraw (tick stage : Nat) : Nat
end Sys2Proof.Config
end

