-- ==== Sys2Proof/Machine/SMap.lean ====
section
/-! DEFINITION. Sparse maps as plain data: lists of key and value pairs with strictly rising keys, in which no entry
equals the default.  Equal maps are therefore equal lists.  Registers, banks, units, clusters, tags and memory bytes are
all held in this form. -/

namespace Sys2Proof

/-- A sparse map from numbers to values. -/
abbrev SMap (α : Type) := List (Nat × α)

namespace SMap

/-- The value at a key: the default `d` where the map lists nothing. -/
def get {α : Type} (d : α) : SMap α → Nat → α
  | [], _ => d
  | (k, v) :: r, n => if n = k then v else SMap.get d r n

/-- The map without the key. -/
def erase {α : Type} (m : SMap α) (n : Nat) : SMap α := m.filter fun e => decide (e.1 ≠ n)

/-- Sorted insertion of a key that the map does not list, or in place of its entry. -/
def insert {α : Type} : SMap α → Nat → α → SMap α
  | [], n, a => [(n, a)]
  | (k, v) :: r, n, a =>
      if n = k then (n, a) :: r else if n < k then (n, a) :: (k, v) :: r else (k, v) :: SMap.insert r n a

/-- A write: storing the default removes the entry. -/
def set {α : Type} [DecidableEq α] (d : α) (m : SMap α) (n : Nat) (a : α) : SMap α :=
  if a = d then SMap.erase m n else SMap.insert m n a

/-- An update of the value at a key. -/
def modify {α : Type} [DecidableEq α] (d : α) (m : SMap α) (n : Nat) (f : α → α) : SMap α :=
  SMap.set d m n (f (SMap.get d m n))

/-- Keys strictly rising, from a lower bound. -/
def risingFrom {α : Type} : Nat → SMap α → Bool
  | _, [] => true
  | lo, (k, _) :: r => decide (lo ≤ k) && SMap.risingFrom (k + 1) r

/-- The canonical form: strictly rising keys, and no entry equal to the default. -/
def wf {α : Type} [DecidableEq α] (d : α) (m : SMap α) : Bool :=
  SMap.risingFrom 0 m && m.all (fun e => decide (e.2 ≠ d))

end SMap

end Sys2Proof
end

