-- ==== Sys2Proof/Machine/State.lean ====
section
/-! DEFINITION. The state of the module as plain data, everything the spec gives it: the units with their register
files, system registers, banks, streams, windows, walking state and work in flight; the clusters, dies and pairs; the
memories; the hub with its graphs, tasks, queues, REMAP, tapes, rings, links; Campion and Yarrow.  Each field's docstring
names the rule that gives it.  INVENTORY.md lists all of them with their reset values. -/

namespace Sys2Proof.Machine

/-- The stops of the model that the hardware does not have. -/
inductive Fault where
  /-- Raised by every word and unit event whose unit number is not 0 to 767 (R14, R21): the spec has no such unit, so
  nothing can happen there.  Safe. -/
  | noSuchUnit (u : Nat)
  deriving DecidableEq, Repr

/-- Refusals: instructions that the model does not give a meaning. -/
inductive Refusal where
  /-- Raised by a dispatch arm whose instruction has no meaning in the model.  Safe. -/
  | notModelled (mnemonic : String)
  deriving DecidableEq, Repr

/-- Trap causes (R430); TAPEGONE and TAPESHAPE share code 0x0E. -/
inductive Cause where
  | und | slot | kbound | kperm | ktag | xlat | align | bankdrop | spaddrop | bankown | token | race
  | tapeguard | tapegone | nmerr | preempt | swtrap | text
  deriving DecidableEq, Repr

/-- The cause codes of R430. -/
def Cause.code : Cause → Nat
  | .und => 0x01 | .slot => 0x02 | .kbound => 0x03 | .kperm => 0x04 | .ktag => 0x05 | .xlat => 0x06
  | .align => 0x07 | .bankdrop => 0x08 | .spaddrop => 0x09 | .bankown => 0x0A | .token => 0x0B | .race => 0x0C
  | .tapeguard => 0x0D | .tapegone => 0x0E | .nmerr => 0x0F | .preempt => 0x10 | .swtrap => 0x11 | .text => 0x12

/-- A trap to be taken: cause, faulting engine (R431, 7 for a word with ENG = 7) and the INFO words of R440. -/
structure Trap where
  cause : Cause
  eng : Nat
  info0 : Nat
  info1 : Nat
  deriving DecidableEq, Repr

/-- A capability: 128 bits and the hidden tag (R101). -/
structure Cap where
  bits : Word128
  tag : Bool
  deriving DecidableEq, Repr

/-- The supply states of R132; a fall state uses the first three (R133). -/
inductive Supply where
  | full | retain | off | waking
  deriving DecidableEq, Repr

/-- Supply state, fall state, whether a bank that is waking was Off, a hint that waits to take effect, and the wake
cycles still to run (R132 to R138, R222, R223). -/
structure Bank where
  st : Supply
  fall : Supply
  hint : Bool
  wake : Nat
  deriving DecidableEq, Repr

/-- One entry of a loop stack (R313). -/
structure LoopEnt where
  b0 : Nat
  b1 : Nat
  n : Nat
  t : Nat
  i : Nat
  deriving DecidableEq, Repr

/-- A redirect in progress (R308, R309): target, taken flag, slot words left, and the predicate that a BR reads
(R309's rule on its slots). -/
structure Redirect where
  tgt : Nat
  taken : Bool
  slots : Nat
  brp : Option Nat
  deriving DecidableEq, Repr

/-- An outcome of R307. -/
inductive Outcome where
  | jump (taken : Bool) (tgt : Nat)
  | trip (t : Nat)
  | yields (y : Bool)
  deriving DecidableEq, Repr

/-- A pass record (R301): the word, the engines still to pass it, the guard that S evaluated, the captured values.
For a tape replay the entry's capability items stand in `caps` (R343); `live` holds capability registers as they stood when a trap
found the word waiting for C: no write of a handler reaches it (R436). -/
structure PassRec where
  addr : Nat
  hdr : Nat
  ext : Nat
  len : Nat
  mask : List Eng
  guard : Bool
  vals : List Word
  caps : List Cap
  desc : List Nat
  relay : List Nat
  live : List (Nat × Cap)
  deriving DecidableEq, Repr

/-- An effect that a word makes when it retires (R12, R325); `csract` is what a CSRW does beyond its register (R452), `tcont` the
sending of a TCONT's record (R381). -/
inductive Eff where
  | x (d : Nat) (v : Word)
  | k (d : Nat) (c : Cap)
  | p (d : Nat) (b : Bool)
  | ps (v : Word)
  | bank (b : Nat) (e : List (Nat × Word32))
  | vstat (v : Word)
  | bhint (kind b : Nat) (st : Supply)
  | bwake (kind b : Nat)
  | balloc (b : Nat) (t : Bool)
  | mset (sel : Nat) (v : Nat)
  | sdrop (banks : List Nat)
  | sidle (i : Nat)
  | csrw (csr v : Nat)
  | csract (csr v : Nat)
  | tcont (g n va : Nat) (payload : List Word) (know : List Nat)
  deriving DecidableEq, Repr

/-- What an issued word still waits for before it may retire: nothing; the event that performs it; or, for a multi-cycle
scalar word, its result (R327). -/
inductive Wait where
  | done | op | arith
  deriving DecidableEq, Repr

/-- An issued word that has not retired (R441): its header, extension word and address, its POST still owed, its guard,
its effects, the banks it reads and writes, its last-use hints and its captured operands (R232, R276).  `know` lists the checked
accesses that its retirement shows performed (R414) with those ordered before them, `acts` those that are merely its own. -/
structure Flight where
  id : Nat
  eng : Eng
  hdr : Nat
  ext : Nat
  addr : Nat
  wait : Wait
  post : Option Eng
  guard : Bool
  eff : List Eff
  rd : List Nat
  wr : List Nat
  hints : List Nat
  vals : List Word
  caps : List Cap
  progress : Nat
  know : List Nat
  acts : List Nat
  deriving DecidableEq, Repr

/-- The kinds of S operation in progress (R153 to R163, R192, R382, R383, R403, R404, R450). -/
inductive SKind where
  | ld | ldaq | st | strl | amo (op : Nat) | cas | kld | kst | sset | qpush | qpop | targ | tevt (act : Nat) | ctxsave | ctxload
  | opreq | oprel
  deriving DecidableEq, Repr

/-- Where an access goes: a space of R98 with the offset or address, before translation; `key` is the place in memory
once translated (R111); none while a migration holds the access (R117). -/
structure Place where
  space : Nat
  addr : Nat
  key : Option Nat
  deriving DecidableEq, Repr

/-- What a recording knows of a value (R334): clean, argument fields, or volatile. -/
inductive Origin where
  | clean
  | args (f : List (Nat × Nat))
  | volatile
  deriving DecidableEq, Repr

/-- A capability's origin in a recording (R335). -/
inductive KOrigin where
  | slot (s : Nat) (delta : Nat)
  | field (off : Nat)
  | clean
  | volatile
  deriving DecidableEq, Repr

/-- A stream descriptor (R189) with its start position and its two captured capabilities (R192) and, for a recording,
their origins (R335). -/
structure Desc where
  fmt : Nat
  widen : Bool
  rnd : Nat
  vlen : Nat
  kd : Nat
  ks : Nat
  scstr : Nat
  off : Nat
  scoff : Nat
  cnt : List Nat
  str : List Int
  p0 : Nat
  capD : Cap
  capS : Cap
  orgD : KOrigin
  orgS : KOrigin
  deriving DecidableEq, Repr

/-- An S memory operation that has issued and not been performed, with the number of the flight that
holds its word; `desc` is the descriptor that an SSET has read (R192), `rc` says that its access was race-checked (R425). -/
structure SOp where
  id : Nat
  kind : SKind
  place : Place
  n : Nat
  sx : Bool
  scope : Nat
  d : Nat
  v : Word
  v2 : Word
  cap : Cap
  desc : Option Desc
  rc : Bool
  deriving DecidableEq, Repr

/-- A W word's writes (R207 to R209): place and bytes, in element order; `add` holds what a WACC adds:
element format, rounding, lanes.  `chk` says that its writes were race-checked. -/
structure WOp where
  id : Nat
  stores : List (Place × List Byte)
  add : Option (Nat × Nat × List Nat)
  chk : Bool
  deriving DecidableEq, Repr

/-- What the source of a move held before the move wrote anything (R141): its bytes by place, and the poisoned granules among them. -/
structure Snap where
  bytes : List (Nat × List Byte)
  bad : List Nat
  deriving DecidableEq, Repr

/-- A tile move in flight (R139 to R143): kind 0 CPY, 1 CCVT, 2 CFILL, 3 BLOAD; `rowb` is the bytes of a row, or its
elements for CCVT and BLOAD; `done` counts the destination requests performed from the first on, and `ahead` lists those
performed before an earlier one (R140); `issued` counts those that have issued, where they are checked (R426); `rcS`, `rcD` and `rcK`
say that source, destination and scales are race-checked; `overlap` marks a move of R141, and `snap` holds, from its first request on,
what its source held. -/
structure Move where
  id : Nat
  kind : Nat
  src : Place
  dst : Place
  scale : Place
  rows : Nat
  rowb : Nat
  sstr : Nat
  dstr : Nat
  scstr : Nat
  rnd : Nat
  sfmt : Nat
  dfmt : Nat
  pat : Nat
  done : Nat
  ahead : List Nat
  issued : Nat
  snap : Option Snap
  rcS : Bool
  rcD : Bool
  rcK : Bool
  overlap : Bool
  flags : Nat
  deriving DecidableEq, Repr

/-- A matrix word in flight (R263 to R277): the captured B set and FADEF, the panels written and the steps taken of the
panel in progress; `round` names the round of a shared-B word once it has started (R274); `seen` holds the B words of the
panel that the array has read already (R278), `bus` those that the bus of its round has brought for panels that other members have
completed (R274); `rest` is the descriptor and the position from which it takes its further steps
once an SDROP has ended its stream (R211). -/
structure MOp where
  id : Nat
  bf16 : Bool
  bank : Nat
  s : Nat
  mode : Nat
  shr : Bool
  mr : Nat
  k : Nat
  c0 : Nat
  bword : Nat
  nc : Nat
  fade : Word32
  panel : Nat
  steps : List (List Nat)
  flags : Nat
  scal : Option Word32
  src : Nat
  round : Nat
  seen : List (Nat × Byte)
  bus : List (Nat × Byte)
  rest : Option (Desc × Nat)
  deriving DecidableEq, Repr

/-- A fault mark of the read-ahead buffer (R201). -/
inductive Mark where
  | spaddrop | xlat (va info : Nat) | poison (key : Nat)
  deriving DecidableEq, Repr

/-- A run of elements of the read-ahead buffer, those of one row whose bytes the same requests carry (R200, R483): its first
element, its length, the element codes and scales once the data has returned, and its fault mark. -/
structure BufStep where
  pos : Nat
  n : Nat
  data : Option (List Nat × List Nat)
  mark : Option Mark
  deriving DecidableEq, Repr

/-- The modes of a stream (R187). -/
inductive SMode where
  | idle | read | write
  deriving DecidableEq, Repr

/-- A stream register (R187): shadow queue, active descriptor, MODE, CONS (0 none, 1 L, 2 M, 3 W), positions and the
read-ahead buffer with the lines that its requests have brought, as row, line and bytes (R483); `popped` says that a
trapped SGO has already taken its descriptor (R195). -/
structure Stream where
  shadow : List Desc
  active : Option Desc
  popped : Bool
  mode : SMode
  cons : Nat
  p0 : Nat
  pc : Nat
  ps : Nat
  buf : List BufStep
  lines : List (Nat × Nat × List Byte)
  deriving DecidableEq, Repr

/-- A window (R144); `filled` counts the fills that are performed, in row order, and `parts` lists the requests of later
fills that are performed already, as row × 1024 + request (R146). -/
structure Win where
  act : Bool
  src : Cap
  soff : Nat
  rowb : Nat
  sstr : Nat
  nrows : Nat
  ring : Cap
  roff : Nat
  depth : Nat
  head : Nat
  next : Nat
  filled : Nat
  parts : List Nat
  deriving DecidableEq, Repr

/-- A B set of the matrix control state (R255). -/
structure BSet where
  bword : Nat
  nc : Nat
  bf16 : Bool
  deriving DecidableEq, Repr

/-- An entry of a Dovetail schedule (R285), with its capability-checked ranges; `st` is 0 not started, 1 in progress,
2 performed. -/
structure DEnt where
  beat : Nat
  kind : Nat
  link : Nat
  ka : Nat
  nblk : Nat
  addr : Nat
  addr2 : Nat
  st : Nat
  deriving DecidableEq, Repr

/-- A schedule context (R283) with its status word's fields (R295); `know` is what happens before the end of its run (R416). -/
structure Dctx where
  ents : List DEnt
  caps : List Cap
  beatns : Nat
  tout : Nat
  status : Nat
  t0 : Nat
  beat : Nat
  donen : Nat
  late : Nat
  flags : Nat
  elink : Nat
  pref : Bool
  endTime : Nat
  loading : Option (List DEnt × List Cap × Nat × Nat)
  know : List Nat
  deriving DecidableEq, Repr

/-- A near-memory command (R181): issuing unit, order, operation, ranges, record offset; `st` is 0 sent, 1 processed, 2 sent and waiting for a migration (R117). -/
structure Nmc where
  id : Nat
  seq : Nat
  u : Nat
  op : Nat
  ngran : Nat
  crec : Nat
  alpha : Word32
  beta : Word32
  sva : Nat
  dva : Nat
  skey : Nat
  dkey : Nat
  res : Nat
  leaf : Nat × Nat
  st : Nat
  status : Nat
  flags : Nat
  first : Nat
  deriving DecidableEq, Repr

/-- The state of a unit's recording or replay (R331 to R356): the run kind (TAPESTAT.RUN), its reason, the marks, the
segments written so far or still to be read, and the counts of the relay rule (R332): the POST-to-S words each engine
has retired (replay), the POST-to-S tokens S has popped, and these counts for the tokens S has posted (recording).  `restored` says that a
resumed replay has its unread entries in the store of its cluster (R346). -/
structure TapeSt where
  run : Nat
  reason : Nat
  mark : Nat
  markPend : List (Nat × List Eng)
  segs : SMap (List Word128)
  pos : SMap Nat
  xo : SMap Origin
  po : SMap Origin
  ko : SMap KOrigin
  relay : SMap Nat
  popped : SMap Nat
  relayq : SMap (List (List Nat))
  entries : Nat
  restored : Bool
  deriving DecidableEq, Repr

/-- How a unit stands with the dispatcher. -/
inductive Run where
  | free | loading | running | ended | halted | parked
  deriving DecidableEq, Repr

/-- The register files of a unit (R212): x, k and p1 to p22. -/
structure Regs where
  x : SMap Word
  k : SMap Cap
  p : BitVec 32
  deriving DecidableEq, Repr

/-- The system registers of a unit that software reads and writes (R58), but for those that are views of other state. -/
structure Csrs where
  cause : Word
  mode : Bool
  uh : Bool
  preq : Bool
  tframe : Nat
  vecEn : Bool
  vecU : Nat
  vecS : Nat
  slipw : Nat
  pdLimit : Nat
  pdRemain : Nat
  tokwd : Nat
  vstat : Word
  rcstat : Word
  cycles : Word
  norec : Bool
  tapeid : Nat
  deriving DecidableEq, Repr

/-- The identity of the task on a unit (R23, R379), its argument block, the capabilities dispatched from its CAP fields by
offset (R106), a continuation's payload (R378) and the supervisor capability (R433). -/
structure Ident where
  task : Nat
  rank : Nat
  tiles : Nat
  stage : Nat
  nstage : Nat
  graph : Nat
  card : Nat
  g : Bool
  c : Bool
  ope : Nat
  asid : Nat
  root : Nat
  args : Nat
  argsize : Nat
  argcaps : List (Nat × Cap)
  payload : List Word
  superCap : Cap
  dove : Bool
  deriving DecidableEq, Repr

/-- The walking state of a unit (R298 to R323); `met` is the outcome of a replayed YIELD at which the five engines have met,
decided once (R343); `fresh` lists engines whose read-ahead has been emptied for the word
before them, which is about to pop a token (R204). -/
structure Walk where
  pc : SMap Nat
  redir : SMap (Option Redirect)
  loops : SMap (List LoopEnt)
  tokens : SMap Nat
  outq : SMap (List Outcome)
  passes : List PassRec
  arrived : List Eng
  fresh : List Eng
  waits : SMap Nat
  met : Option Bool
  text : SMap Word32
  textLen : Nat
  deriving DecidableEq, Repr

/-- A unit's work in flight (R147, R441): `late` holds the effects of words that have retired which another part of the module makes,
or which wait for the cluster's clock (R385), `gone` the retired S words whose accesses wait for a migration (R117). -/
structure Work where
  fl : List Flight
  nextId : Nat
  sops : List SOp
  wops : List WOp
  moves : List Move
  mops : List MOp
  loads : Nat
  stores : Nat
  copies : Nat
  tiles : Nat
  nmcs : List Nat
  nmFail : List Nat
  late : List Eff
  gone : List Flight
  deriving DecidableEq, Repr

/-- A trap that is being handled: the handler depth (R435), the frame's hidden part that the model keeps beside the
frame's bytes, a trap found and not yet entered, the earlier accesses that a RACE has reported, each with the number of the word that it stopped
(R427), whether PREEMPT has been taken for the request that is pending, a redirect of the interrupted handler, and by pass record the
capabilities that its word is to use (R436). -/
structure TrapSt where
  depth : Nat
  pend : Option Trap
  saved : Work
  raceSkip : List (Nat × Nat)
  took : Bool
  hredir : Option Redirect
  caps : List (List (Nat × Cap))
  deriving DecidableEq, Repr

/-- A release (R416) as the write or record that makes it carries it: its unit, its scope, and the checked accesses that it covers
with those that happen before them, by number. -/
structure Rel where
  u : Nat
  scope : Nat
  ids : List Nat
  deriving DecidableEq, Repr

/-- Bytes whose last write is a release, or an atomic that took its value from one (R417). -/
structure RelAt where
  key : Nat
  n : Nat
  rels : List Rel
  deriving DecidableEq, Repr

/-- What the engines of a unit know of happens-before (R415 to R418), as lists of numbers of checked accesses; each list holds
with an access those that happen before it.  By engine: `know` what happens before the words that it issues from now on, `told`
what a POST of its carries (R414), `cur` the accesses of the word that it is about to issue.  `toks` is what the tokens in each
FIFO carry (the newest last; missing ones carry nothing), `relay` what the POSTs to S carried at a replay, with their count.  Of S:
`deps` the reads on which registers depend, `loads`, `stores` and `sync` its earlier accesses, `rel` what a releasing FENCE puts
before later writes, `relScope` its scope and `relFrom` the number of the first write since, `atoms` the atomics whose results are not
written yet with their accesses (R414), `seen` the releases that its loads have read, `hist` its accesses by place, `rels`
the releases of operations in progress, `nm` what its near-memory commands follow.  `cls` lists the accesses that each counter of
R147 has counted, `done` those of the words that have retired. -/
structure Hb where
  know : SMap (List Nat)
  told : SMap (List Nat)
  cur : SMap (List Nat)
  toks : SMap (List (List Nat))
  relay : SMap (List (Nat × List Nat))
  deps : SMap (List Nat)
  loads : List Nat
  stores : List Nat
  sync : List Nat
  rel : List Nat
  relScope : Option Nat
  relFrom : Nat
  atoms : List (Nat × List Nat)
  seen : List Rel
  hist : List (Nat × Nat × List Nat)
  rels : List (Nat × Rel)
  nm : List Nat
  cls : SMap (List Nat)
  done : List Nat
  deriving DecidableEq, Repr

/-- A unit (R17, R18).  `parity` lists the bank elements whose parity bit disagrees with their data (R219); `dupRows`
counts the rows of a bank that have been copied into the partner that is to duplicate it (R220); `stopped` says that the
clock of its cluster stands still in a relock (R385). -/
structure UnitSt where
  run : Run
  regs : Regs
  csr : Csrs
  id : Ident
  walk : Walk
  work : Work
  trap : TrapSt
  rb : SMap Bank
  sb : SMap Bank
  elems : SMap Word32
  parity : SMap Bool
  bind : BitVec 8
  alloc : BitVec 8
  dup : Bool
  dcur : BitVec 8
  dupRows : SMap Nat
  streams : SMap Stream
  wins : SMap Win
  bsets : SMap BSet
  fade : Word32
  group : Option (Nat × Bool)
  dove : Dctx
  tape : TapeSt
  bar : Option (Nat × Nat × Bool)
  mchecks : List Nat
  mcCount : Nat
  retiredMark : Bool
  hb : Hb
  stopped : Bool
  deriving DecidableEq, Repr

/-- A TLB entry (R113): ASID, virtual page and level, the leaf entry. -/
structure TlbEnt where
  asid : Nat
  vpage : Nat
  level : Nat
  pte : Nat
  deriving DecidableEq, Repr

/-- A shared-B group (R271 to R275): its size, members with their roles, whether it is formed, the
members that have issued MLEAVE, and those whose MJOIN goes on with the group that has formed. -/
structure Group where
  size : Nat
  members : List (Nat × Bool)
  formed : Bool
  leaving : List Nat
  joining : List Nat
  deriving DecidableEq, Repr

/-- The clock of a cluster (R384 to R386, R402 to R410); `sensors` lists its junction sensors that have failed, `temps` their
readings in °C (R410). -/
structure Clock where
  op : Nat
  target : Nat
  relock : Bool
  ramp : Bool
  phase : Nat
  throttle : Nat
  therm : Option Nat
  opmax : Nat
  scap : Bool
  sensors : List Nat
  temps : SMap Int
  deriving DecidableEq, Repr

/-- A cluster (R18): TLB, conditional streams, stage queues per task, shared-B groups, the four priority queues (R367)
with their on-chip part and ring part (`spillAt` is the place of the next entry of each ring, R484), the regions granted (R130), the clock; `cqRel` and `stageRel` are what the records of the
conditional streams and stage queues carry (R416), the newest last. -/
structure Cluster where
  tlb : List TlbEnt
  cq : SMap (List Word32)
  stageq : SMap (List Word)
  groups : SMap Group
  queues : SMap (List Nat)
  spill : SMap (List Nat)
  spillAt : SMap Nat
  owner : SMap Nat
  clk : Clock
  cqRel : SMap (List (List Nat))
  stageRel : SMap (List (List Nat))
  deriving DecidableEq, Repr

/-- A walk in progress or queued at a die's walker, with the clusters whose misses it serves (R113). -/
structure WalkReq where
  asid : Nat
  root : Nat
  vpage : Nat
  clusters : List Nat
  deriving DecidableEq, Repr

/-- A die (R16, R18): walks in flight and queued, the page-walk cache, the migration replay queue with each access's unit,
number and address, the fallback continuation queue, the regions of the die scratchpad, gating and thermal state.  `wfaults` holds the walks that ended in
a fault until the access that missed is issued again: ASID, 64 KiB page, level, reason (R112); `ungating` the time at
which an ungate began (R479); `severe` that the die is to be gated for heat, `notified` the graphs of a thermal emergency
(R409); `rewrote` the REMAP entries rewritten because the die's clusters were lost to a gate (R380, R479); `dryAt` the time since
which two of its dry-out sensors have agreed, `coolAt` that since which all have cleared with every junction cool (R409); 0 for neither. -/
structure Die where
  walks : List WalkReq
  wfaults : List (Nat × Nat × Nat × Nat)
  missq : List WalkReq
  pwc : List (Nat × Nat × Nat × Nat)
  replay : List (Nat × Nat × Nat)
  fallback : List Nat
  owner : SMap Nat
  gated : Bool
  gating : Bool
  ungating : Option Nat
  boil : Nat
  emerg : Bool
  severe : Bool
  notified : List Nat
  rewrote : List Nat
  dryAt : Nat
  coolAt : Nat
  trained : Bool
  nm : List Nmc
  deriving DecidableEq, Repr

/-- A write that has been performed at some scope and not yet at every scope (R413): the writer's unit, the level it has
reached (0 unit to 4 system), the bytes it wrote with the tag they leave, what made it (1 a W word, R210; 2 a store of S, 3 an atomic of S, R159; 0 anything else),
and its releases (R416). -/
structure Staged where
  id : Nat
  u : Nat
  lvl : Nat
  key : Nat
  bytes : List Byte
  tag : Bool
  maker : Nat
  src : List RelAt
  deriving DecidableEq, Repr

/-- All memory (R98, R111, R125): bytes, a tag per 16-byte granule (R104), poison per 64-byte granule (R122), and the
writes still on their way outward (R413); `dead` lists the HBM4 stacks that are held out of service (R467), `src` the releases
whose bytes stand in memory (R417). -/
structure Mem where
  bytes : List Host.Cell
  tags : SMap Bool
  poison : SMap Bool
  staged : List Staged
  nextId : Nat
  dead : List Nat
  src : List RelAt
  deriving DecidableEq, Repr

/-- A footprint entry (R359). -/
structure Foot where
  base : Nat
  len : Nat
  r : Bool
  w : Bool
  deriving DecidableEq, Repr

/-- The life of a task. -/
inductive TState where
  | held | queued | dispatching | running | parked | done
  deriving DecidableEq, Repr

/-- An operating-point entry (R387). -/
structure OpEnt where
  op : Nat
  fmt : Nat
  tiles : Nat
  energy : Nat
  time : Nat
  deriving DecidableEq, Repr

/-- What the hub knows of an image that has passed the loader (R67 to R72). -/
structure Image where
  base : Nat
  len : Nat
  textOff : Nat
  textLen : Nat
  argsize : Nat
  crc : Nat
  dove : Bool
  layout : List (Nat × Nat × Bool)
  hints : List (Nat × Nat × Nat)
  opts : List OpEnt
  foots : List (Nat × Nat × Nat × Nat)
  usesCq : Bool
  usesGroups : Bool
  deriving DecidableEq, Repr

/-- A task: a card of TYPE 0 or a continuation (R357 to R383).  `parkedUnits` holds, by rank, the state of its units as
they reported themselves saved, for what the hub keeps of them (R399, R447).  `after` lists the checked accesses that happen before
its start, `fin` those that its completion covers, `barKnow` those that the arrivals at its barriers cover (R416); `roomAt` is the
time since which the headroom has covered its entry, 0 while it does not (R399). -/
structure Task where
  graph : Nat
  card : Nat
  cont : Bool
  payload : List Word
  hdr : Nat
  entry : Nat
  args : Nat
  shape : List Nat
  deadline : Nat
  waitm : BitVec 64
  sigm : BitVec 64
  foots : List Foot
  opts : List OpEnt
  ope : Nat
  image : Image
  st : TState
  status : Nat
  units : List Nat
  ranks : List Nat
  ended : List Nat
  edges : List Nat
  va : Nat
  home : Nat
  dispatched : Nat
  admitted : Nat
  lease : Option (Nat × Nat)
  frozen : Bool
  preempt : Bool
  took : Bool
  reqAt : Nat
  bars : SMap (List Nat)
  dur : Nat
  slot : Nat
  started : Nat
  ranFor : Nat
  doneCycles : Nat
  overrun : Bool
  parkedUnits : List (Nat × UnitSt)
  parkedOn : List (Nat × Nat)
  parkStageq : SMap (List Word)
  parkCq : SMap (List Word32)
  parkGroups : SMap Group
  parkStageRel : SMap (List (List Nat))
  parkCqRel : SMap (List (List Nat))
  roomAt : Nat
  after : List Nat
  fin : List Nat
  barKnow : SMap (List Nat)
  deriving DecidableEq, Repr

/-- A live graph (R362 to R366); `saved` lists the clusters, and as 96 + die the dies, whose granted regions stand in the
park area, each with its place there (R400); `evKnow` is what the setting of its events covers (R416), `since` the number of the first checked access that
the host's submission does not follow. -/
structure Graph where
  tag : Word
  crec : Nat
  asid : Nat
  root : Nat
  peerMask : Word
  grants : List Cap
  cards : List Task
  events : BitVec 64
  unfinished : Nat
  ndone : Nat
  nlate : Nat
  failed : Option Nat
  ending : Bool
  contract : Bool
  saved : List (Nat × Nat)
  evKnow : SMap (List Nat)
  since : Nat
  deriving DecidableEq, Repr

/-- A record of the global continuation queue (R380, R381) with the task that it became when its TCONT retired. -/
structure ContRec where
  graph : Nat
  card : Nat
  va : Nat
  payload : List Word
  u : Nat
  t : Nat
  deriving DecidableEq, Repr

/-- A tape of the directory (R336, R339): its name, the root of its address space, the text's identity with the program capability's range, shapes, slots (offset, SPACE, MAXEND,
PUSED), guards (offset, size, value), the argument block as the dispatcher read it (R339), tracks by rank. -/
structure Tape where
  id : Nat
  asid : Nat
  root : Nat
  base : Nat
  plen : Nat
  textLen : Nat
  crc : Nat
  tiles : Nat
  nstage : Nat
  fmt : Nat
  op : Nat
  groups : List Nat
  slots : List (Nat × Nat × Nat × Nat)
  guards : List (Nat × Nat × List Byte)
  block : List Byte
  dur : Nat
  tracks : SMap (List (List Word128))
  where_ : SMap Nat
  valid : Bool
  heldBy : List Nat
  used : Nat
  deriving DecidableEq, Repr

/-- A region that the host registered (R484): kind, memory, address, entries, length, and for rings the indices and the
count of records dropped. -/
structure Reg where
  kind : Nat
  mem : Nat
  addr : Nat
  nent : Nat
  len : Nat
  prod : Nat
  cons : Nat
  drop : Nat
  told : Bool
  deriving DecidableEq, Repr

/-- A translation command taken by the hub (R114 to R118): opcode, size, ASID, page address, new leaf, record address, the bits
that the opcode does not use, and its progress: 0 taken, 1 set aside, 2 copying, 3 ended with the status. -/
structure TCmd where
  opc : Nat
  size : Nat
  asid : Nat
  va : Nat
  newpte : Nat
  caddr : Nat
  res : Nat
  ptekey : Nat
  oldpte : Nat
  st : Nat
  status : Nat
  time : Nat
  deriving DecidableEq, Repr

/-- A Dovetail link (R281, R289): lanes (0 when down), the data of SENDs that the hub holds for entries of this module in
order of arrival, each with its place among the SENDs of its run on the link, data on its way to this module, and what this
module has sent: (kind, place, bytes), kind 0 the data of a SEND, 1 a time beacon, 2 a slow-down notice. -/
structure Link where
  lanes : Nat
  held : List (Nat × List Byte)
  inbox : List (Nat × List Byte)
  out : List (Nat × Nat × List Byte)
  deriving DecidableEq, Repr

/-- A point of a curve (R389): start time, CAP, BAND in 0.01 %. -/
structure CurvePt where
  start : Nat
  cap : Nat
  band : Nat
  deriving DecidableEq, Repr

/-- A budget curve (R389). -/
structure Curve where
  seq : Nat
  valid : Nat
  horizon : Nat
  floor : Nat
  pts : List CurvePt
  eff : Nat
  deriving DecidableEq, Repr

/-- Campion (R389 to R410): the curve in force, the curves accepted and not yet in force, the highest SEQ accepted, the
point in force, grade and its start, the FLOOR flag, the UNDERDRAW memory, gated dies in order with the time of the last
gate or ungate, `past` that the curve's horizon has ended, suspect pairs, slow-down notices that wait for their beat; `lowAt` is the
time since which the draw has been below the lower edge (R394), `roomAt` that since which the headroom has covered a die (R400); 0
for neither. -/
structure Campion where
  curve : Option Curve
  pending : List Curve
  maxSeq : Option Nat
  cap : Nat
  band : Nat
  grade : Nat
  gradeAt : Nat
  floorFlag : Bool
  under : Bool
  gates : List Nat
  inputCap : Nat
  suspects : List Nat
  past : Bool
  gateAt : Nat
  lowAt : Nat
  roomAt : Nat
  notices : List (Nat × Nat × Nat × Bool)
  deriving DecidableEq, Repr

/-- An event that the module sends to its host, a service request or a line of the hub's log: a code that the model numbers,
with three arguments.  To the host: 1 a ring is full, 2 a machine check has ended a contract, 3 a CXL link is down, 4 and 5 a
Dovetail link has degraded or is down, 6 a peer is refused, 7 a graph has ended or is refused, 8 an entry is refused,
9 overrun, 10 a thermal emergency lifts contracts, 11 CONTRACT, 12 a curve is refused, 13 a horizon has ended, 14 UNDERDRAW,
15 connector margin, 16 and 17 a SilLane has degraded or is down, 18 warm reset, 19 a stack is out of service, 20 a grade and
its cap, 21 FLOOR parks.  Service requests: 1 a unit is retired, 2 the time lock, 3 a severe die, 4 a suspect pair, 5 margin,
6 sensors.  Log: 1 a second trap, 2 a peer refused, 3 overrun, 4 a curve refused. -/
structure HostEv where
  code : Nat
  a : Nat
  b : Nat
  c : Nat
  deriving DecidableEq, Repr

/-- What the outside world has presented to the module and the module has not taken yet: mailbox commands in doorbell
order, doorbell values, host and peer accesses, slow-down notices; `early` counts the mailbox commands that came during a
retraining and are to be answered with status 5 (R467). -/
structure Inbox where
  mail : List (Nat × List Byte)
  doorbell : SMap Nat
  host : SMap (Bool × Nat × Nat × List Byte)
  peer : SMap (Nat × Nat × Nat × List Byte)
  notices : List (Nat × Nat × Nat × Bool)
  early : Nat
  deriving DecidableEq, Repr

/-- What the outside world does to the module: a mailbox command with its input (R463), a doorbell value of a submission
ring (R461), a host access of module memory (write, key, length, data), a peer access (operation, key, length, data),
the data of a peer's SEND on a link with its place among those of its run (R289), a slow-down notice, a write that the host or a peer makes in its own
memory, and the errors that R122 and R219 name: an uncorrectable and a corrected error of a memory, and a bit that changes in
an element of a register bank; what a junction sensor of a cluster reads, and whether two dry-out sensors of a die agree (R409,
R410); a flit that a link retried (R122); the recovery of the boot-ROM loader (R464). -/
inductive Input where
  | mail (cmd : Nat) (bs : List Byte)
  | doorbell (r v : Nat)
  | host (id : Nat) (w : Bool) (key n : Nat) (bs : List Byte)
  | peer (id op key n : Nat) (bs : List Byte)
  | data (l n : Nat) (bs : List Byte)
  | notice (a b c : Nat) (on : Bool)
  | memory (key : Nat) (bs : List Byte)
  | upset (key : Nat)
  | corrected (key : Nat)
  | flip (u b row col bit : Nat)
  | reading (c i : Nat) (t : Int)
  | dryout (d : Nat) (on : Bool)
  | retry (l : Nat)
  | recover
  deriving DecidableEq, Repr

/-- What a context image's parts without a given layout hold (R451): streams, windows, matrix control state (R255), with the
bytes that stand for them in the image. -/
structure CtxPart where
  bytes : List Byte
  streams : SMap Stream
  wins : SMap Win
  bsets : SMap BSet
  fade : Word32
  group : Option (Nat × Bool)
  deriving DecidableEq, Repr

/-- The hub (R15): graphs, tasks, REMAP, the global continuation queue, tapes, registrations, translation commands, the
hot-page counters with the end of their last epoch, links, retraining, the host's events and answers, the counts of corrected
errors by memory (R122) and, as 4096, of register banks (R221); `ctxs` holds, beside their bytes, the parts of context
images whose layout the spec does not give (R451), `held` the writes of the hub that wait for HBM4 to be trained (R466). -/
structure Hub where
  graphs : SMap (Option Graph)
  tasks : SMap (Option Task)
  nextTask : Nat
  remap : SMap Nat
  conts : List ContRec
  tapes : List Tape
  recording : List (Nat × Tape)
  regs : List Reg
  tcmds : List TCmd
  hot : SMap Nat
  links : SMap Link
  silLanes : SMap Nat
  cxlDown : List Nat
  lock : Bool
  module_ : Nat
  timePath : Nat
  retrain : Nat
  booted : Bool
  facKey : Option (List Byte)
  answers : List (Nat × Nat × List Byte)
  events : List HostEv
  service : List HostEv
  log : List HostEv
  ctxs : List CtxPart
  errs : SMap Nat
  hotAt : Nat
  held : List (Nat × List Byte)
  deriving DecidableEq, Repr

/-- What happens next.  `engine` lets an engine of a unit act on the word at its PC; `elapse` lets device time pass;
`propagate` carries a write one scope further out (R413); `request` performs the request `k` places after the first unperformed one of a copy move or a window's fills (R140, R146), or
lets the array read B word `k` of a matrix word (R278); `outside` is an
input from outside; `ev`
is an event of the opcode table. -/
inductive Act where
  | engine (u : Nat) (e : Eng)
  | elapse (ns : Nat)
  | propagate (id : Nat)
  | request (u id k : Nat)
  | outside (x : Input)
  | ev (i : Instr)
  deriving DecidableEq, Repr, Inhabited

/-- The race history of checked accesses (R425, R426): key, length, writer?, unit, rank, task,
engine, and the scope of a scoped access (R422). -/
structure Access where
  id : Nat
  key : Nat
  n : Nat
  write : Bool
  u : Nat
  eng : Eng
  rank : Nat
  task : Nat
  scope : Option Nat
  deriving DecidableEq, Repr

/-- The state of the module.  `who` is the engine whose word `exec` runs; `agenda` holds the acts to come, oldest first;
`tick` counts steps and selects free values: the last three are the model's own fields, not the spec's.  `raceNext` numbers the
checked accesses. -/
structure State where
  units : SMap UnitSt
  clusters : SMap Cluster
  dies : SMap Die
  mem : Mem
  hub : Hub
  camp : Campion
  inbox : Inbox
  supText : SMap Word32
  time : Word
  races : List Access
  raceNext : Nat
  who : Nat × Eng
  agenda : List Act
  tick : Nat
  deriving DecidableEq, Repr

/-! ### Reset (R9, R464 and the reset columns of each register) -/

def Cap.null : Cap := ⟨0, false⟩
/-- A bank after a cold reset: Off, fall state Full (R132, R212). -/
def Bank.reset : Bank := ⟨.off, .full, false, 0⟩
def Regs.reset : Regs := ⟨[], [], 0⟩
/-- The reset columns of R302, R305, R431, R432, R434, R437, R449, R82, R427, R453 and R352. -/
def Csrs.reset : Csrs :=
  { cause := 0, mode := false, uh := false, preq := false, tframe := 0xC0, vecEn := false, vecU := 0, vecS := 0,
    slipw := 1024, pdLimit := 65536, pdRemain := 0, tokwd := 0x100000, vstat := 0, rcstat := 0, cycles := 0,
    norec := false, tapeid := 0 }
def Ident.reset : Ident :=
  { task := 0, rank := 0, tiles := 0, stage := 0, nstage := 0, graph := 0, card := 0, g := false, c := false,
    ope := 0, asid := 0, root := 0, args := 0, argsize := 0, argcaps := [], payload := [], superCap := Cap.null, dove := false }
def Walk.reset : Walk :=
  { pc := [], redir := [], loops := [], tokens := [], outq := [], passes := [], arrived := [], fresh := [], waits := [], met := none,
    text := [], textLen := 0 }
def Work.reset : Work :=
  { fl := [], nextId := 0, sops := [], wops := [], moves := [], mops := [], loads := 0, stores := 0, copies := 0,
    tiles := 0, nmcs := [], nmFail := [], late := [], gone := [] }
def TrapSt.reset : TrapSt :=
  { depth := 0, pend := none, saved := Work.reset, raceSkip := [], took := false, hredir := none, caps := [] }
/-- Idle with an empty shadow queue (R187). -/
def Stream.reset : Stream := ⟨[], none, false, .idle, 0, 0, 0, 0, [], []⟩
def Win.reset : Win := ⟨false, Cap.null, 0, 0, 0, 0, Cap.null, 0, 0, 0, 0, 0, []⟩
/-- BWORD 0, NC 64, L6 (R255). -/
def BSet.reset : BSet := ⟨0, 64, false⟩
def Dctx.reset : Dctx := ⟨[], [], 0, 0, 0, 0, 0, 0, 0, 0, 0, false, 0, none, []⟩
def TapeSt.reset : TapeSt := ⟨0, 0, 0, [], [], [], [], [], [], [], [], [], 0, false⟩
def Hb.reset : Hb :=
  { know := [], told := [], cur := [], toks := [], relay := [], deps := [], loads := [], stores := [], sync := [], rel := [],
    relScope := none, relFrom := 0, atoms := [], seen := [], hist := [], rels := [], nm := [], cls := [], done := [] }
/-- A unit after a cold reset: no task, registers zero, banks Off, BANKALLOC 0, FADEF 1.0 (R132, R212, R219, R255). -/
def UnitSt.reset : UnitSt :=
  { run := .free, regs := Regs.reset, csr := Csrs.reset, id := Ident.reset, walk := Walk.reset,
    work := Work.reset, trap := TrapSt.reset, rb := [], sb := [], elems := [], parity := [], bind := 0, alloc := 0, dup := false,
    dcur := 0, dupRows := [], streams := [], wins := [], bsets := [], fade := 0x3F800000, group := none,
    dove := Dctx.reset, tape := TapeSt.reset, bar := none, mchecks := [], mcCount := 0,
    retiredMark := false, hb := Hb.reset, stopped := false }
def Group.reset : Group := ⟨0, [], false, [], []⟩
/-- OP0 with OPMAX 6 and no sensor failed (R384, R406). -/
def Clock.reset : Clock := ⟨0, 0, false, false, 0, 0, none, 6, false, [], []⟩
def Cluster.reset : Cluster := ⟨[], [], [], [], [], [], [], [], Clock.reset, [], []⟩
def Die.reset : Die :=
  { walks := [], wfaults := [], missq := [], pwc := [], replay := [], fallback := [], owner := [], gated := false,
    gating := false, ungating := none, boil := 440, emerg := false, severe := false, notified := [], rewrote := [],
    dryAt := 0, coolAt := 0, trained := true, nm := [] }
def Mem.reset : Mem := ⟨[], [], [], [], 0, [], []⟩
/-- All 8 lanes up (R281). -/
def Link.reset : Link := ⟨8, [], [], []⟩
/-- No curve has been accepted (R389, R391). -/
def Campion.reset : Campion := ⟨none, [], none, 0, 0, 0, 0, false, false, [], 4600, [], false, 0, 0, 0, []⟩
def Inbox.reset : Inbox := ⟨[], [], [], [], [], 0⟩
/-- No live graph, no registration, links up, the lock held (R280, R464). -/
def Hub.reset : Hub :=
  { graphs := [], tasks := [], nextTask := 1, remap := [], conts := [], tapes := [],
    recording := [], regs := [], tcmds := [], hot := [], links := [],
    silLanes := [], cxlDown := [], lock := true, module_ := 0, timePath := 0, retrain := 0, booted := true,
    facKey := none, answers := [], events := [], service := [], log := [], ctxs := [], errs := [], hotAt := 0, held := [] }

/-- The module right after a cold reset. -/
def State.reset : State :=
  { units := [], clusters := [], dies := [], mem := Mem.reset, hub := Hub.reset, camp := Campion.reset,
    inbox := Inbox.reset, supText := [], time := 0, races := [], raceNext := 1, who := (0, .S), agenda := [], tick := 0 }

end Sys2Proof.Machine
end

