-- ==== Sys2Proof/Machine/Memory.lean ====
section
/-! DEFINITION. The memories (R98, R111, R125): one map of bytes keyed by region and offset, with the tags of R104, the
poison of R122 and the staged visibility of R413.  Every access of the model goes through the operations of this file. -/

namespace Sys2Proof.Machine

/-- The bytes of a little-endian number (R2). -/
def toBytes : Nat → Nat → List Byte
  | 0, _ => []
  | n + 1, v => BitVec.ofNat 8 v :: toBytes n (v / 256)

/-- The number that bytes hold, little-endian (R2). -/
def ofBytes : List Byte → Nat
  | [] => 0
  | b :: r => b.toNat + 256 * ofBytes r

/-- SignExt(v, n) of R47, as the two's-complement number modulo 2^64. -/
def signExt (v n : Nat) : Nat :=
  let w := v % 2 ^ n
  if n = 0 then 0 else if 2 ^ (n - 1) ≤ w then (w + 2 ^ 64 - 2 ^ n) % 2 ^ 64 else w

/-! ### Regions: each byte's one home -/

/-- The regions by number: 0 HBM4, 1 LPDDR-6, 2 CXL, 3 peer modules, 4 host; then the unit scratchpads, the B-stores, the
cluster scratchpads and the die scratchpads. -/
def regUsp (u : Nat) : Nat := 16 + u
def regBst (u : Nat) : Nat := 1024 + u
def regCsp (c : Nat) : Nat := 2048 + c
def regDsp (d : Nat) : Nat := 2304 + d

/-- The key of a byte: its region and its address there. -/
def keyOf (region off : Nat) : Nat := region * 2 ^ 64 + off
def keyRegion (k : Nat) : Nat := k / 2 ^ 64
def keyOff (k : Nat) : Nat := k % 2 ^ 64

/-- The key of a scratchpad or B-store byte for the unit that addresses it (R19). -/
def localKey (u space off : Nat) : Nat :=
  match space with
  | 1 => keyOf (regUsp u) off
  | 2 => keyOf (regCsp (u / 8)) off
  | 3 => keyOf (regDsp (u / 96)) off
  | _ => keyOf (regBst u) off

/-- The widest scope that can reach a memory (R413): unit for a unit scratchpad and a B-store, cluster and die for
those scratchpads, system for the rest. -/
def maxLevel (region : Nat) : Nat :=
  if region < 16 then 4 else if region < 2048 then 0 else if region < 2304 then 1 else 2

/-! ### Who sees a write (R412, R413) -/

/-- A party that reads: an engine of a unit, a party of the device instance (hub, near-memory unit, Dovetail run,
walker), a party of the system instance only (host, peer), or the memory's bank itself, at which every write has its
place in the coherence order (R128). -/
inductive Viewer where
  | unit (u : Nat)
  | device
  | system
  | bank
  deriving DecidableEq, Repr

/-- Whether a write of unit `w` that has reached level `lvl` is visible to a viewer (R412). -/
def visible (v : Viewer) (w lvl : Nat) : Bool :=
  match v with
  | .unit u =>
      decide (3 ≤ lvl) || (decide (lvl = 0) && decide (u = w)) || (decide (lvl = 1) && decide (u / 8 = w / 8))
        || (decide (lvl = 2) && decide (u / 96 = w / 96))
  | .device => decide (3 ≤ lvl)
  | .system => decide (4 ≤ lvl)
  | .bank => true

/-- A staged write is visible to a viewer: by its level, or because it has reached its memory's widest scope. -/
def Staged.seenBy (w : Staged) (v : Viewer) : Bool := visible v w.u w.lvl || decide (maxLevel (keyRegion w.key) ≤ w.lvl)

/-- The staged writes, later in the coherence order last, that a viewer sees at a byte. -/
def stagedByte (v : Viewer) (k : Nat) (b : Byte) : List Staged → Byte
  | [] => b
  | w :: r =>
      stagedByte v k
        (if w.seenBy v && decide (w.key ≤ k) && decide (k < w.key + w.bytes.length)
          then w.bytes.getD (k - w.key) 0 else b) r

/-- One byte as a viewer reads it; a byte that nothing has written reads zero. -/
def Mem.byte (m : Mem) (v : Viewer) (k : Nat) : Byte := stagedByte v k (SMap.get 0 m.bytes k) m.staged

/-- `n` bytes from key `k`. -/
def Mem.read (m : Mem) (v : Viewer) (k n : Nat) : List Byte := (List.range n).map fun i => m.byte v (k + i)

/-- A little-endian number of `n` bytes. -/
def Mem.num (m : Mem) (v : Viewer) (k n : Nat) : Nat := ofBytes (m.read v k n)

/-- Whether a staged write touches the 16-byte granule of `k`. -/
def touchesGranule (w : Staged) (g : Nat) : Bool :=
  decide (w.key / 16 ≤ g) && decide (g ≤ (w.key + w.bytes.length - 1) / 16) && decide (w.bytes ≠ [])

def stagedTag (v : Viewer) (g : Nat) (t : Bool) : List Staged → Bool
  | [] => t
  | w :: r => stagedTag v g (if w.seenBy v && touchesGranule w g then w.tag else t) r

/-- The tag of the granule that holds `k` (R104). -/
def Mem.tagAt (m : Mem) (v : Viewer) (k : Nat) : Bool := stagedTag v (k / 16) (SMap.get false m.tags (k / 16)) m.staged

/-- Whether the 64-byte granule that holds `k` is poisoned (R122). -/
def Mem.poisoned (m : Mem) (k : Nat) : Bool := SMap.get false m.poison (k / 64)

/-- The range lies in an HBM4 stack that is held out of service: a read of it is a read of poison (R467). -/
def Mem.deadAt (m : Mem) (k n : Nat) : Bool :=
  decide (keyRegion k = 0) && m.dead.any fun d => decide (d * 2 ^ 36 < keyOff k + n) && decide (keyOff k < (d + 1) * 2 ^ 36)

/-- A write of all 64 bytes of granule `g` has reached a viewer: to it the poison beneath is cleared (R123, R413). -/
def Mem.renewed (m : Mem) (v : Viewer) (g : Nat) : Bool :=
  m.staged.any fun w => w.seenBy v && decide (w.key ≤ g * 64) && decide (g * 64 + 64 ≤ w.key + w.bytes.length)

/-- Whether a read of a range by a viewer meets poison (R123). -/
def Mem.poisonFor (m : Mem) (v : Viewer) (k n : Nat) : Bool :=
  decide (0 < n) && (m.deadAt k n
    || m.poison.any fun e => e.2 && decide (k / 64 ≤ e.1) && decide (e.1 ≤ (k + n - 1) / 64) && !m.renewed v e.1)

/-! ### Writes -/

/-- Bytes stored at their home. -/
def writeBytes : SMap Byte → Nat → List Byte → SMap Byte
  | m, _, [] => m
  | m, k, b :: r => writeBytes (SMap.set 0 m k b) (k + 1) r

/-- The tags of `n` granules from `g` set to one value. -/
def setTags : SMap Bool → Nat → Nat → Bool → SMap Bool
  | m, _, 0, _ => m
  | m, g, n + 1, t => setTags (SMap.set false m g t) (g + 1) n t

/-- How many granules of `size` bytes the range meets. -/
def granules (size k n : Nat) : Nat := if n = 0 then 0 else (k + n - 1) / size - k / size + 1

/-- Poison cleared on every 64-byte granule that the range covers whole (R123). -/
def clearPoison (p : SMap Bool) (k n : Nat) : SMap Bool :=
  p.filter fun e => !(decide (k ≤ e.1 * 64) && decide (e.1 * 64 + 64 ≤ k + n))

/-- A write taken into its home: bytes, the tag it leaves on every granule it touches, poison. -/
def Mem.commit (m : Mem) (k : Nat) (bs : List Byte) (tag : Bool) : Mem :=
  { m with
    bytes := writeBytes m.bytes k bs
    tags := setTags m.tags (k / 16) (granules 16 k bs.length) tag
    poison := clearPoison m.poison k bs.length }

/-- What is left of the release at some bytes when the bytes from `k` are written anew, and its part within them. -/
def RelAt.without (a : RelAt) (k n : Nat) : List RelAt :=
  if a.key + a.n ≤ k ∨ k + n ≤ a.key then [a]
  else (if a.key < k then [{ a with n := k - a.key }] else [])
    ++ (if k + n < a.key + a.n then [{ a with key := k + n, n := a.key + a.n - (k + n) }] else [])
def RelAt.within (a : RelAt) (k n : Nat) : List RelAt :=
  if a.key + a.n ≤ k ∨ k + n ≤ a.key then []
  else [{ a with key := max a.key k, n := min (a.key + a.n) (k + n) - max a.key k }]

/-- The releases at bytes once a staged write is over them. -/
def Staged.overRels (w : Staged) (l : List RelAt) : List RelAt :=
  (if l = [] then [] else (l.map fun a => a.without w.key w.bytes.length).flatten)
    ++ (w.src.map fun a => a.within w.key w.bytes.length).flatten

/-- A staged write has gone to its home: its releases stand there now. -/
def Mem.settleRels (m : Mem) (w : Staged) : Mem := { m with src := w.overRels m.src }

/-- The releases that a viewer's read of `n` bytes from `k` takes a byte from (R417). -/
def Mem.relsAt (m : Mem) (v : Viewer) (k n : Nat) : List Rel :=
  let l := m.staged.foldl (fun l w => if w.seenBy v then w.overRels l else l) m.src
  ((l.map fun a => a.within k n).flatten.map (·.rels)).flatten

/-- The write `id` of bytes from `k`, staged or already at home, is a release. -/
def Mem.noteRels (m : Mem) (id k n : Nat) (rels : List Rel) : Mem :=
  if rels = [] then m
  else if m.staged.any fun w => w.id = id then
    { m with staged := m.staged.map fun w => if w.id = id then { w with src := ⟨k, n, rels⟩ :: w.src } else w }
  else { m with src := ⟨k, n, rels⟩ :: m.src }

/-- The oldest staged writes that have reached their memory's widest scope go to their home, in coherence order. -/
def flushFront : List Staged → Mem → Mem
  | [], m => { m with staged := [] }
  | w :: r, m =>
      if maxLevel (keyRegion w.key) ≤ w.lvl then flushFront r ((m.commit w.key w.bytes w.tag).settleRels w)
      else { m with staged := w :: r }

/-- A write performed by a party of unit `u` at level `lvl`: it is last in the coherence order of its bytes. -/
def Mem.writeTag (m : Mem) (u lvl k : Nat) (bs : List Byte) (tag : Bool) : Mem :=
  flushFront (m.staged ++ [⟨m.nextId, u, lvl, k, bs, tag, 0, []⟩]) { m with nextId := m.nextId + 1 }

/-- What made the write `id`. -/
def Mem.noteBy (m : Mem) (id maker : Nat) : Mem :=
  { m with staged := m.staged.map fun w => if w.id = id then { w with maker := maker } else w }

/-- A write that clears the tags it touches (R104). -/
def Mem.write (m : Mem) (u lvl k : Nat) (bs : List Byte) : Mem := m.writeTag u lvl k bs false

/-- One staged write reaches the next wider scope (R413). -/
def Mem.propagate (m : Mem) (id : Nat) : Mem :=
  flushFront (m.staged.map fun w => if w.id = id then { w with lvl := w.lvl + 1 } else w) m

/-- Every staged write that unit `u` has made is performed at scope `sc` (R413). -/
def Mem.performedBy (m : Mem) (u sc : Nat) : Bool :=
  m.staged.all fun w => decide (w.u ≠ u) || decide (min sc (maxLevel (keyRegion w.key)) ≤ w.lvl)

/-- Every staged write that unit `u` has made by W words (`maker` 1, R210) or by atomics of S (3, R159) is performed at scope `sc`. -/
def Mem.madePerformed (m : Mem) (u maker sc : Nat) : Bool :=
  m.staged.all fun w => decide (w.u ≠ u) || decide (w.maker ≠ maker) || decide (min sc (maxLevel (keyRegion w.key)) ≤ w.lvl)

/-- Every staged write that unit `u` sees is performed at scope `sc`: what a release at `sc` waits for (R420). -/
def Mem.releasedAt (m : Mem) (u sc : Nat) : Bool :=
  m.staged.all fun w =>
    !(w.seenBy (.unit u)) || decide (min sc (maxLevel (keyRegion w.key)) ≤ w.lvl)

/-- Every staged write that unit `u` sees is performed at scope `sc`, but for the stores that its S has made since write `from_`: what a
store of S that is a release after a FENCE waits for (R416, R420). -/
def Mem.releasedSince (m : Mem) (u sc from_ : Nat) : Bool :=
  m.staged.all fun w =>
    !(w.seenBy (.unit u)) || decide (min sc (maxLevel (keyRegion w.key)) ≤ w.lvl)
      || (decide (w.u = u) && decide (w.maker = 2) && decide (from_ ≤ w.id))

/-- What is left of a staged write when the bytes from `k` are lost. -/
def Staged.without (w : Staged) (k n : Nat) : List Staged :=
  if w.key + w.bytes.length ≤ k ∨ k + n ≤ w.key then [w]
  else (if w.key < k then [{ w with bytes := w.bytes.take (k - w.key) }] else [])
    ++ (if k + n < w.key + w.bytes.length then [{ w with key := k + n, bytes := w.bytes.drop (k + n - w.key) }] else [])

/-- A range loses its contents: bytes read zero, tags clear, no poison (R129, R134). -/
def Mem.wipe (m : Mem) (k n : Nat) : Mem :=
  { m with
    bytes := m.bytes.filter fun e => !(decide (k ≤ e.1) && decide (e.1 < k + n))
    tags := m.tags.filter fun e => !(decide (k ≤ e.1 * 16) && decide (e.1 * 16 < k + n))
    poison := m.poison.filter fun e => !(decide (k ≤ e.1 * 64) && decide (e.1 * 64 < k + n))
    staged := (m.staged.map fun w => w.without k n).flatten
    src := if m.src = [] then [] else (m.src.map fun a => a.without k n).flatten }

/-- The bytes and tags of a range written elsewhere. -/
def Mem.copyBytes (m : Mem) (src dst n : Nat) : Mem :=
  (List.range (granules 16 src n)).foldl
    (fun t i => if m.tagAt .bank (src + 16 * i) then t.writeTag 0 4 (dst + 16 * i) (m.read .bank (src + 16 * i) 16) true else t)
    (m.write 0 4 dst (m.read .bank src n))

/-- A range moves with its tags: migration, PARK and die gating (R105).  The moved bytes and tags of a granule are those of
one write (R104), the last in its coherence order, and they follow every write of the destination made before.  The releases at
the bytes move with them. -/
def Mem.copyTagged (m : Mem) (src dst n : Nat) : Mem :=
  let t := m.copyBytes src dst n
  let l := ((m.staged.foldl (fun l w => w.overRels l) m.src).map fun a => a.within src n).flatten.map fun a =>
    { a with key := dst + (a.key - src) }
  if l = [] then t
  else { t with
    staged := t.staged.map fun w => if m.nextId ≤ w.id then { w with src := l } else w
    src := if t.staged.any fun w => m.nextId ≤ w.id then t.src else l ++ t.src }

/-- The memory with some bytes as they were when they were read earlier. -/
def Mem.overlay (m : Mem) (l : List (Nat × Byte)) : Mem := l.foldl (fun m c => m.write 0 4 c.1 [c.2]) m

/-- A granule becomes poisoned (R122). -/
def Mem.setPoison (m : Mem) (k : Nat) : Mem := { m with poison := SMap.set false m.poison (k / 64) true }

/-- The canonical form of all three maps. -/
def Mem.wf (m : Mem) : Bool := SMap.wf (0 : Byte) m.bytes && SMap.wf false m.tags && SMap.wf false m.poison

/-! ### Capabilities (R101, R48) -/

/-- Bits [hi:lo] of a capability as a number. -/
def Cap.f (c : Cap) (lo n : Nat) : Nat := c.bits.toNat / 2 ^ lo % 2 ^ n
def Cap.space (c : Cap) : Nat := c.f 124 4
/-- PERM: from bit 7 down to 0, RC, N, G, C, X, A, W and R. -/
def Cap.perm (c : Cap) : Nat := c.f 116 8
def Cap.len (c : Cap) : Nat := c.f 64 48
def Cap.base (c : Cap) : Nat := c.f 0 64
def Cap.g (c : Cap) : Bool := decide (c.f 121 1 = 1)
def Cap.rc (c : Cap) : Bool := decide (c.f 123 1 = 1)

/-- A capability of the given fields. -/
def Cap.mk' (space perm len base : Nat) (tag : Bool) : Cap :=
  ⟨BitVec.ofNat 128 (space * 2 ^ 124 + perm % 256 * 2 ^ 116 + len % 2 ^ 48 * 2 ^ 64 + base % 2 ^ 64), tag⟩

def permR : Nat := 1
def permW : Nat := 2
def permA : Nat := 4
def permX : Nat := 8
def permC : Nat := 16
def permG : Nat := 32
def permN : Nat := 64

/-- Every permission bit of `perm` is granted. -/
def Cap.grants (c : Cap) (perm : Nat) : Bool := decide (c.perm &&& perm = perm)

/-- Cap.Check of R48: the address, or the cause of the first check that fails. -/
def Cap.check (c : Cap) (o n perm : Nat) : Except Cause Nat :=
  if !c.tag then .error .ktag
  else if !c.grants perm then .error .kperm
  else if c.len < o + n then .error .kbound
  else .ok (c.base + o)

end Sys2Proof.Machine
end

