-- ==== Sys2Proof/Machine/Walk.lean ====
section
/-! DEFINITION. Operations on one unit: its place in the module, registers and predicates, the scoreboard, banks, token
FIFOs, the walk through the text. -/

namespace Sys2Proof.Machine

/-! ### Places of the module (R21, R22) -/

def State.unit (s : State) (u : Nat) : UnitSt := SMap.get UnitSt.reset s.units u
def State.setUnit (s : State) (u : Nat) (U : UnitSt) : State :=
  { s with units := SMap.set UnitSt.reset s.units u U }
def State.cluster (s : State) (c : Nat) : Cluster := SMap.get Cluster.reset s.clusters c
def State.setCluster (s : State) (c : Nat) (C : Cluster) : State :=
  { s with clusters := SMap.set Cluster.reset s.clusters c C }
def State.die (s : State) (d : Nat) : Die := SMap.get Die.reset s.dies d
def State.setDie (s : State) (d : Nat) (D : Die) : State := { s with dies := SMap.set Die.reset s.dies d D }
/-- The cluster, by linear index DIE × 12 + CLUSTER, of a unit. -/
def clusterOf (u : Nat) : Nat := u / 8
def dieOf (u : Nat) : Nat := u / 96
def State.task (s : State) (t : Nat) : Option Task := SMap.get none s.hub.tasks t
def State.setTask (s : State) (t : Nat) (T : Task) : State :=
  { s with hub := { s.hub with tasks := SMap.set none s.hub.tasks t (some T) } }
def State.graph (s : State) (g : Nat) : Option Graph := SMap.get none s.hub.graphs g
def State.setGraph (s : State) (g : Nat) (G : Graph) : State :=
  { s with hub := { s.hub with graphs := SMap.set none s.hub.graphs g (some G) } }
/-- An event sent to the host. -/
def State.tellHost (s : State) (code a b c : Nat) : State :=
  { s with hub := { s.hub with events := s.hub.events ++ [⟨code, a, b, c⟩] } }
/-- A service request raised by Yarrow. -/
def State.service (s : State) (code a : Nat) : State :=
  { s with hub := { s.hub with service := s.hub.service ++ [⟨code, a, 0, 0⟩] } }

/-! ### Registers (R212) -/

/-- x[n]; x0 reads zero. -/
def Regs.getX (r : Regs) (n : Nat) : Word := if n = 0 then 0 else SMap.get 0 r.x n
/-- A write of x[n]; a write to x0 is discarded. -/
def Regs.setX (r : Regs) (n : Nat) (v : Word) : Regs := if n = 0 then r else { r with x := SMap.set 0 r.x n v }
def Regs.getK (r : Regs) (n : Nat) : Cap := SMap.get Cap.null r.k n
def Regs.setK (r : Regs) (n : Nat) (c : Cap) : Regs := { r with k := SMap.set Cap.null r.k n c }
/-- p[n] of the general predicates p1 to p22. -/
def Regs.getP (r : Regs) (n : Nat) : Bool := r.p.getLsbD n
/-- A write of a predicate: those to p0 and to p23 to p31 are discarded (R213). -/
def Regs.setP (r : Regs) (n : Nat) (b : Bool) : Regs :=
  if 1 ≤ n ∧ n ≤ 22 then
    { r with p := if b then r.p ||| BitVec.ofNat 32 (2 ^ n) else r.p &&& ~~~(BitVec.ofNat 32 (2 ^ n)) }
  else r
/-- XTOP's write of p1 to p22 (R328). -/
def Regs.setPs (r : Regs) (v : Word) : Regs := { r with p := (v.truncate 32) &&& 0x007FFFFE }

/-- What flights in order leave in a register: the last effect on it, or what it holds. -/
def fwdX (n : Nat) : List Flight → Word → Word
  | [], v => v
  | f :: r, v => fwdX n r (f.eff.foldl (fun a e => match e with | .x d w => if d = n then w else a | _ => a) v)
def fwdK (n : Nat) : List Flight → Cap → Cap
  | [], v => v
  | f :: r, v => fwdK n r (f.eff.foldl (fun a e => match e with | .k d w => if d = n then w else a | _ => a) v)
def fwdP : List Flight → Regs → Regs
  | [], v => v
  | f :: r, v =>
      fwdP r (f.eff.foldl (fun a e => match e with | .p d b => a.setP d b | .ps w => a.setPs w | _ => a) v)

/-- x[n] as S reads it: the value of the latest earlier S word, retired or not (R325). -/
def UnitSt.xS (U : UnitSt) (n : Nat) : Word := if n = 0 then 0 else fwdX n U.work.fl (U.regs.getX n)
def UnitSt.kS (U : UnitSt) (n : Nat) : Cap := fwdK n U.work.fl (U.regs.getK n)

/-- The registers that a flight will write, by one number: x n as n, k n as 32 + n. -/
def pendReg (r : Nat) (fl : List Flight) : Bool :=
  match (fl.filter fun f => f.eng == .S && f.wr.contains r).getLast? with
  | some f => f.wait != .done
  | none => false
/-- The word is a DSTAT that will write x[d] (R295). -/
def isDstatOf (h d : Nat) : Bool :=
  decide (fld h 29 3 = 5) && decide (fld h 16 7 = 0x0B) && decide (fld h 11 5 = d)
/-- x[n] is pending: S holds a word that reads it (R151, R295, R327).  An atomic retires before its result comes. -/
def UnitSt.xPend (U : UnitSt) (n : Nat) : Bool :=
  decide (n ≠ 0) && (pendReg n U.work.fl || (U.walk.passes.any fun r => r.mask.contains .C && isDstatOf r.hdr n)
    || (U.work.fl.any fun f => f.eng == .C && isDstatOf f.hdr n)
    || (U.work.sops.any fun o => o.d == n && (match o.kind with | .amo _ => true | .cas => true | _ => false)))
def UnitSt.kPend (U : UnitSt) (n : Nat) : Bool := pendReg (32 + n) U.work.fl

/-! ### The text and the program counters (R298) -/

def UnitSt.pcOf (U : UnitSt) (e : Eng) : Nat := SMap.get 0 U.walk.pc e.code
def UnitSt.setPc (U : UnitSt) (e : Eng) (a : Nat) : UnitSt :=
  { U with walk := { U.walk with pc := SMap.set 0 U.walk.pc e.code a } }
def UnitSt.redirOf (U : UnitSt) (e : Eng) : Option Redirect := SMap.get none U.walk.redir e.code
def UnitSt.setRedir (U : UnitSt) (e : Eng) (r : Option Redirect) : UnitSt :=
  { U with walk := { U.walk with redir := SMap.set none U.walk.redir e.code r } }
def UnitSt.loopsOf (U : UnitSt) (e : Eng) : List LoopEnt := SMap.get [] U.walk.loops e.code
def UnitSt.setLoops (U : UnitSt) (e : Eng) (l : List LoopEnt) : UnitSt :=
  { U with walk := { U.walk with loops := SMap.set [] U.walk.loops e.code l } }
/-- A handler runs (R432). -/
def UnitSt.inHandler (U : UnitSt) : Bool := U.csr.mode || U.csr.uh
/-- The unit records: not in the handler of a replay fault, after which a recording begins (R342, R351). -/
def UnitSt.recording (U : UnitSt) : Bool := decide (U.tape.run = 1) && !U.inHandler
/-- The text word at an address: the supervisor text in supervisor mode (R434), the unit's text buffer otherwise. -/
def State.textAt (s : State) (U : UnitSt) (a : Nat) : Nat :=
  if U.csr.mode then
    (match s.supText.find? fun e => e.1 = a with
      | some e => e.2.toNat
      | none => (Config.firmware a).toNat)
  else (SMap.get 0 U.walk.text a).toNat
/-- The text length that R34 applies. -/
def UnitSt.tlen (U : UnitSt) : Nat := if U.csr.mode then 1024 else U.walk.textLen

/-- Moving on in sequence to `n`: the loop step of R313 for every body that ends just before `n` (R314).  The innermost
entry is the head. -/
def loopStep : List LoopEnt → Nat → Nat × List LoopEnt
  | [], n => (n, [])
  | l :: r, n =>
      if l.b1 + 1 = n then
        if l.i + 1 < l.t + l.n - 1 then (l.b0, { l with i := l.i + 1 } :: r) else loopStep r n
      else (n, l :: r)

/-- Engine `e` moves on in sequence to `n`; a handler has no loops (R436). -/
def UnitSt.seqTo (U : UnitSt) (e : Eng) (n : Nat) : UnitSt :=
  if U.inHandler then U.setPc e n
  else
    let r := loopStep (U.loopsOf e) n
    (U.setLoops e r.2).setPc e r.1

/-- Engine `e` goes past the word of `len` words at `addr`: the delay slots and redirect of R308, or in sequence. -/
def UnitSt.advance (U : UnitSt) (e : Eng) (addr len : Nat) : UnitSt :=
  match U.redirOf e with
  | none => U.seqTo e (addr + len)
  | some r =>
    if r.slots ≤ len then
      let V := U.setRedir e none
      if r.taken then V.setPc e r.tgt else V.seqTo e (addr + len)
    else (U.setRedir e (some { r with slots := r.slots - len })).setPc e (addr + len)

/-- The stage predicate p(24 + sg) of an engine's innermost loop (R313, R316). -/
def stagePred (ls : List LoopEnt) (sg : Nat) : Bool :=
  match ls with
  | [] => false
  | l :: _ => decide (sg < l.n) && decide (sg ≤ l.i) && decide (l.i < l.t + sg)

/-- A predicate as engine `e` reads it; p1 to p22 as S's earlier words leave them (R213, R214). -/
def UnitSt.predAt (U : UnitSt) (e : Eng) (n : Nat) : Bool :=
  if n = 0 then true
  else if n ≤ 22 then (fwdP U.work.fl U.regs).getP n
  else if n = 23 then U.csr.preq
  else if U.inHandler then false
  else stagePred (U.loopsOf e) (n - 24)

/-- A guard's value at S's place in the text, or at issue for p24 to p31 (R214). -/
def UnitSt.guardAt (U : UnitSt) (e : Eng) (pr sense : Nat) : Bool := xor (U.predAt e pr) (decide (sense = 1))

/-! ### Pass records and slip (R301, R302) -/

/-- The slip. -/
def slipOf (ps : List PassRec) : Nat := (ps.map (·.len)).sum

/-- The engine's next pass record: the oldest it has still to pass. -/
def UnitSt.recOf (U : UnitSt) (e : Eng) : Option PassRec := U.walk.passes.find? fun r => r.mask.contains e

/-- Engine `e` has passed its oldest record; a record that every engine has passed is dropped. -/
def passOne (e : Eng) : List PassRec → List PassRec
  | [] => []
  | r :: rs =>
      if r.mask.contains e then
        if r.mask.erase e = [] then rs else { r with mask := r.mask.erase e } :: rs
      else r :: passOne e rs

def UnitSt.passRec (U : UnitSt) (e : Eng) : UnitSt :=
  { U with walk := { U.walk with passes := passOne e U.walk.passes } }

/-- Whether engine `e` issues a word with this header: its own tag or the A tag (R32). -/
def issues (e : Eng) (h : Nat) : Bool := decide (fld h 29 3 = e.code) || decide (fld h 29 3 = 6)

/-- The other five engines. -/
def others : List Eng := [.L, .V, .W, .M, .C]

/-- Engine `e` passes a mark (R356): TAPESTAT.MARK takes it once all five engines have passed it. -/
def UnitSt.passMark (U : UnitSt) (e : Eng) (m : Nat) : UnitSt :=
  let l := U.tape.markPend
  let upd : List (Nat × List Eng) :=
    match l.findIdx? fun x => decide (x.1 = m) && x.2.contains e with
    | some i => l.modify i fun x => (x.1, x.2.erase e)
    | none => if U.tape.run = 2 then l ++ [(m, others.erase e)] else l
  let done := upd.any fun x => decide (x.2 = [])
  { U with tape := { U.tape with
      mark := if done then m else U.tape.mark
      markPend := upd.filter fun x => x.2 ≠ [] } }

/-! ### Token FIFOs (R303, R304) -/

def fifo (p c : Eng) : Nat := p.code * 6 + c.code
def UnitSt.tokens (U : UnitSt) (p c : Eng) : Nat := SMap.get 0 U.walk.tokens (fifo p c)
def UnitSt.setTokens (U : UnitSt) (p c : Eng) (n : Nat) : UnitSt :=
  { U with walk := { U.walk with tokens := SMap.set 0 U.walk.tokens (fifo p c) n } }
/-- The count of a watched wait of an engine at issue, in cycles (R305); it starts when the wait begins. -/
def UnitSt.waitOf (U : UnitSt) (e : Eng) : Nat := SMap.get 0 U.walk.waits e.code
/-- The count of a wait at retire, for room in a token FIFO. -/
def UnitSt.pushWaitOf (U : UnitSt) (e : Eng) : Nat := SMap.get 0 U.walk.waits (6 + e.code)
def UnitSt.setPushWait (U : UnitSt) (e : Eng) (n : Nat) : UnitSt :=
  { U with walk := { U.walk with waits := SMap.set 0 U.walk.waits (6 + e.code) n } }
def UnitSt.setWait (U : UnitSt) (e : Eng) (n : Nat) : UnitSt :=
  { U with walk := { U.walk with waits := SMap.set 0 U.walk.waits e.code n } }
/-- The count of a wait at issue for a queue, a stream or a group. -/
def UnitSt.ownWaitOf (U : UnitSt) (e : Eng) : Nat := SMap.get 0 U.walk.waits (12 + e.code)
def UnitSt.setOwnWait (U : UnitSt) (e : Eng) (n : Nat) : UnitSt :=
  { U with walk := { U.walk with waits := SMap.set 0 U.walk.waits (12 + e.code) n } }

/-! ### Banks (R132 to R138, R215 to R224) -/

/-- Bank `b` of kind 0 (register bank) or 1 (unit scratchpad bank). -/
def UnitSt.bank (U : UnitSt) (kind b : Nat) : Bank := SMap.get Bank.reset (if kind = 0 then U.rb else U.sb) b
def UnitSt.setBank (U : UnitSt) (kind b : Nat) (B : Bank) : UnitSt :=
  if kind = 0 then { U with rb := SMap.set Bank.reset U.rb b B } else { U with sb := SMap.set Bank.reset U.sb b B }
def UnitSt.allocated (U : UnitSt) (b : Nat) : Bool := U.alloc.getLsbD b
def UnitSt.inMatrix (U : UnitSt) (b : Nat) : Bool := U.bind.getLsbD b
/-- An element of a register bank (R46). -/
def elemKey (b row col : Nat) : Nat := b * 4096 + row * 64 + col
def UnitSt.elem (U : UnitSt) (b row col : Nat) : Word32 := SMap.get 0 U.elems (elemKey b row col)
/-- The bank of an operand specifier. -/
def specBank (sp : Nat) : Nat := fld sp 8 3
/-- Row and column of element `i` of a specifier (R46). -/
def specElem (sp i : Nat) : Nat × Nat :=
  let k := fld sp 0 6
  match fld sp 6 2 with
  | 0 => (k, i)
  | 1 => (i, k)
  | 2 => (i, (i + k) % 64)
  | _ => (i, (k + 64 - i) % 64)
def specKey (sp i : Nat) : Nat := elemKey (specBank sp) (specElem sp i).1 (specElem sp i).2
/-- The 64 lanes of an operand. -/
def UnitSt.lanes (U : UnitSt) (sp : Nat) : List Word32 := (List.range 64).map fun i => SMap.get 0 U.elems (specKey sp i)
/-- The effect of writing 64 lanes into an operand. -/
def laneWrites (sp : Nat) (v : List Word32) : Eff := .bank (specBank sp) ((List.range 64).map fun i => (specKey sp i, v.getD i 0))
/-- Bank writes, with the duplicate of a bank that has a current one kept equal (R220). -/
def writeElems (dup : Option Nat) : List (Nat × Word32) → SMap Word32 → SMap Word32
  | [], m => m
  | (k, v) :: r, m =>
      let m1 := SMap.set 0 m k v
      writeElems dup r (match dup with | some b => SMap.set 0 m1 (b * 4096 + k % 4096) v | none => m1)
/-- Elements written, in the duplicate too: each gets its parity bit anew (R219, R220). -/
def UnitSt.writeBank (U : UnitSt) (b : Nat) (e : List (Nat × Word32)) : UnitSt :=
  { U with
    elems := writeElems (if U.dcur.getLsbD b then some (b ^^^ 4) else none) e U.elems
    parity := if U.parity = [] then [] else U.parity.filter fun q => !(e.any fun p =>
      decide (p.1 = q.1) || (U.dcur.getLsbD b && decide ((b ^^^ 4) * 4096 + p.1 % 4096 = q.1))) }
/-- Bank bm may serve as the duplicate of bank bn (R220). -/
def UnitSt.dupHolds (U : UnitSt) (n : Nat) : Bool :=
  U.dup && U.allocated n && !(U.allocated (n ^^^ 4)) && decide ((U.bank 0 (n ^^^ 4)).st = .full)
    && decide ((U.bank 0 n).st ≠ .off)
/-- Duplication, and a copy that leads to it, stops as soon as a condition of R220 fails. -/
def UnitSt.fixDup (U : UnitSt) : UnitSt :=
  { U with
    dcur := BitVec.ofNat 8 (((List.range 8).map fun n => if U.dcur.getLsbD n && U.dupHolds n then 2 ^ n else 0).sum)
    dupRows := U.dupRows.filter fun q => U.dupHolds q.1 }

/-- Starting the wake of a bank (R135, R137, R222): 24 cycles from Retain, 40 from Off; nothing on Full or Waking. -/
def Bank.startWake (B : Bank) : Bank :=
  match B.st with
  | .retain => { B with st := .waking, wake := 24 }
  | .off => { B with st := .waking, wake := 40 }
  | _ => B

/-- Outcome of a bank check at issue (R215, R222). -/
inductive BankChk where
  | ok
  | wait (U : UnitSt)
  | trap (c : Cause) (b : Nat)
  deriving DecidableEq, Repr

/-- The binding check of R215 for banks that V, L or W words name. -/
def UnitSt.ownChk (U : UnitSt) (matrix : Bool) : List Nat → Option Nat
  | [] => none
  | b :: r => if U.allocated b && (U.inMatrix b == matrix) then U.ownChk matrix r else some b

/-- The supply check of R222 over (bank, is-read) pairs, in order: a read of an Off bank traps, any other bank that is
not Full starts its wake and holds the word. -/
def UnitSt.supplyChk (kind : Nat) : List (Nat × Bool) → UnitSt → Bool → BankChk
  | [], U, waits => if waits then .wait U else .ok
  | (b, rd) :: r, U, waits =>
      let B := U.bank kind b
      match B.st with
      | .full => supplyChk kind r U waits
      | .off => if rd then .trap (if kind = 0 then .bankdrop else .spaddrop) b
          else supplyChk kind r (U.setBank kind b B.startWake) true
      | _ => supplyChk kind r (U.setBank kind b B.startWake) true

/-- A fall (R134, R223): to Retain, Off (contents lost) or Full (nothing changes).  DESIGN CHOICE, a fall to Retain of a bank that is Off
already leaves it in Retain, its contents zero: the spec gives no state for it (log entry 153). -/
def Bank.fallNow (B : Bank) : Bank :=
  match B.fall with
  | .full => { B with hint := false }
  | .retain => { B with st := .retain, hint := false }
  | _ => { B with st := .off, hint := false }

/-- An access that waits in the migration replay queue or has been saved by a trap counts as issued and not performed. -/
def UnitSt.flights (U : UnitSt) : List Flight := U.work.fl ++ U.trap.saved.fl

/-- An issued word has still to access register bank `b`: to write it, or, for an M word, to read it.  V and W words have read their
operands by the cycle after they issue (R209, R226). -/
def UnitSt.regBusy (U : UnitSt) (b : Nat) : Bool :=
  U.flights.any fun f => f.eng != .S && (f.wr.contains b || (f.eng == .M && f.rd.contains b))

/-- A hinted fall of a register bank is due: the hinting word has retired, and every access issued before is performed. -/
def UnitSt.regDue (U : UnitSt) (b : Nat) : Bool := (U.bank 0 b).hint && !U.regBusy b

/-- A register bank falls: to Off, its contents are lost. -/
def UnitSt.fallReg (U : UnitSt) (b : Nat) : UnitSt :=
  let B := U.bank 0 b
  let V := U.setBank 0 b B.fallNow
  (if B.fall = .off then
    { V with
      elems := V.elems.filter fun e => decide (e.1 / 4096 ≠ b), parity := V.parity.filter fun e => decide (e.1 / 4096 ≠ b) }
   else V).fixDup

/-- A fall that is due takes effect before anything later touches the bank (R137, R223, R224). -/
def UnitSt.fallRegIfDue (U : UnitSt) (b : Nat) : UnitSt := if U.regDue b then U.fallReg b else U

/-- Both passes of R230 over the register banks a word names; a fall that is due comes before the supply state is read. -/
def UnitSt.bankChk (U : UnitSt) (matrix : Bool) (bs : List (Nat × Bool)) : BankChk :=
  match U.ownChk matrix (bs.map (·.1)) with
  | some b => .trap .bankown b
  | none =>
    if bs.any fun q => U.regDue q.1 then .wait (bs.foldl (fun V q => V.fallRegIfDue q.1) U)
    else UnitSt.supplyChk 0 bs U false

/-- The unit scratchpad banks that a range of offsets meets (R125). -/
def spadBanks (off n : Nat) : List Nat :=
  if n = 0 then [] else (List.range 16).filter fun j => decide (off / 65536 ≤ j) && decide (j ≤ (off + n - 1) / 65536)

end Sys2Proof.Machine
end

