-- ==== Sys2Proof/Machine/Banks.lean ====
section
/-! DEFINITION. Where a unit's streams and moves go, and from that the falls of its banks (R134, R223) and the completion
of wakes (R138, R446). -/

namespace Sys2Proof.Machine

/-! ### Geometry (R190, R191) -/

def Desc.c (d : Desc) (i : Nat) : Nat := d.cnt.getD i 1
def Desc.t (d : Desc) (i : Nat) : Int := d.str.getD i 0
/-- The level-0 index and the row index of an element. -/
def Desc.i0 (d : Desc) (e : Nat) : Nat := e % d.c 0
def Desc.row (d : Desc) (e : Nat) : Nat := e / d.c 0
/-- The rows of the nest. -/
def Desc.rows (d : Desc) : Nat := d.c 1 * d.c 2 * d.c 3 * d.c 4 * d.c 5
/-- RowBase(r): the row index split into i1 to i5. -/
def rowBaseFrom (d : Desc) : Nat → Nat → Nat → Int
  | 0, _, _ => 0
  | n + 1, i, r => (r % d.c i : Nat) * d.t i + rowBaseFrom d n (i + 1) (r / d.c i)
def Desc.rowBase (d : Desc) (r : Nat) : Int := (d.off : Int) + rowBaseFrom d 5 1 r
/-- The element size in bytes of FP32, I32 and BF16. -/
def Desc.size (d : Desc) : Nat := if d.fmt = 1 then 2 else 4
/-- The first byte of an element, as an offset in the data capability: for L6 the byte in which its code starts. -/
def Desc.addr (d : Desc) (e : Nat) : Int :=
  if d.fmt = 2 then d.rowBase (d.row e) + (6 * (d.i0 e / 8) + 6 * (d.i0 e % 8) / 8 : Nat)
  else d.rowBase (d.row e) + (d.i0 e : Int) * d.t 0
/-- The bytes that an element touches from there. -/
def Desc.width (d : Desc) (e : Nat) : Nat :=
  if d.fmt = 2 then (6 * (d.i0 e % 8) + 5) / 8 - 6 * (d.i0 e % 8) / 8 + 1 else d.size
def Desc.scaleAddr (d : Desc) (e : Nat) : Nat := d.scoff + d.row e * d.scstr + d.i0 e / 32
/-- The length of the step at a position. -/
def Desc.step (d : Desc) (p : Nat) : Nat := min d.vlen (d.c 0 - d.i0 p)
/-- The lowest and highest byte that any element touches (R195): each level at its extreme. -/
def Desc.lo (d : Desc) : Int :=
  (d.off : Int) + ((List.range 5).map fun i => min 0 (((d.c (i + 1) : Int) - 1) * d.t (i + 1))).sum
    + (if d.fmt = 2 then 0 else min 0 (((d.c 0 : Int) - 1) * d.t 0))
def Desc.hi (d : Desc) : Int :=
  (d.off : Int) + ((List.range 5).map fun i => max 0 (((d.c (i + 1) : Int) - 1) * d.t (i + 1))).sum
    + (if d.fmt = 2 then ((6 * ((d.c 0 - 1) / 8) + (6 * ((d.c 0 - 1) % 8) + 5) / 8 : Nat) : Int)
       else max 0 (((d.c 0 : Int) - 1) * d.t 0) + ((d.size - 1 : Nat) : Int))
/-- Bytes of scales from SCOFF. -/
def Desc.scaleSpan (d : Desc) : Nat := (d.rows - 1) * d.scstr + (d.c 0 - 1) / 32 + 1

/-- Unit scratchpad banks that the stream's data or scale range meets (R198). -/
def Desc.banks (d : Desc) : List Nat :=
  (if d.capD.space = 1 then spadBanks (((d.capD.base : Int) + d.lo).toNat) (d.hi - d.lo + 1).toNat else [])
    ++ (if d.fmt = 2 ∧ d.capS.space = 1 then spadBanks (d.capS.base + d.scoff) d.scaleSpan else [])

/-! ### Moves -/

/-- Bytes of a row of `ne` elements in a format: 0 FP32, 1 BF16, 2 L6 (R174). -/
def fmtBytes (fmt ne : Nat) : Nat := match fmt with | 0 => 4 * ne | 1 => 2 * ne | _ => (ne + 7) / 8 * 6
/-- Bytes of a destination row. -/
def Move.dstRow (m : Move) : Nat := if m.kind = 1 then fmtBytes m.dfmt m.rowb else m.rowb
/-- Bytes from the first to the last of `rows` rows. -/
def span (rows str n : Nat) : Nat := (rows - 1) * str + n

/-- Bytes from the first to the last of a move's source, destination and scale ranges. -/
def Move.srcSpan (m : Move) : Nat := if m.kind = 0 then span m.rows m.sstr m.rowb else span m.rows m.sstr (fmtBytes m.sfmt m.rowb)
def Move.dstSpan (m : Move) : Nat := span m.rows m.dstr m.dstRow
def Move.scaleSpan (m : Move) : Nat := span m.rows m.scstr ((m.rowb + 31) / 32)

/-! ### Accesses in progress -/

/-- A place's bytes meet unit scratchpad bank `j`. -/
def Place.inBank (p : Place) (n j : Nat) : Bool := decide (p.space = 1) && (spadBanks p.addr n).contains j

/-- An access of the work to unit scratchpad bank `j` is still to be performed. -/
def Work.inBank (w : Work) (j : Nat) : Bool :=
  (w.sops.any fun o => o.place.inBank o.n j)
    || (w.wops.any fun o => o.stores.any fun p => p.1.inBank (max 1 p.2.length) j)
    || (w.moves.any fun m => m.src.inBank m.srcSpan j || m.dst.inBank m.dstSpan j || m.scale.inBank m.scaleSpan j)

/-- An issued access to unit scratchpad bank `j` is still to be performed, those saved by a trap among them. -/
def UnitSt.spadBusy (U : UnitSt) (j : Nat) : Bool :=
  U.work.inBank j || U.trap.saved.inBank j
    || (U.streams.any fun q => (q.2.buf.any fun b => b.data.isNone && b.mark.isNone)
        && (match q.2.active with | some d => d.banks.contains j | none => false))

/-- A hinted fall may take effect now. -/
def UnitSt.fallDue (U : UnitSt) (kind b : Nat) : Bool :=
  if kind = 0 then U.regDue b else (U.bank 1 b).hint && !U.spadBusy b

/-- Every bank of a unit: register banks, then scratchpad banks. -/
def allBanks : List (Nat × Nat) := ((List.range 8).map fun b => (0, b)) ++ (List.range 16).map fun b => (1, b)

/-- The supply states and duplicates as they stand once the falls that are due have taken effect: what a word that issues
now reads of them (R134, R223). -/
def UnitSt.afterFalls (U : UnitSt) : UnitSt :=
  (allBanks.foldl (fun V q => if U.fallDue q.1 q.2 then V.setBank q.1 q.2 (V.bank q.1 q.2).fallNow else V) U).fixDup

/-- A wake in progress completes. -/
def UnitSt.wakeNow (U : UnitSt) (kind b : Nat) : UnitSt :=
  let B := U.bank kind b
  if B.st = .waking then U.setBank kind b { B with st := .full, wake := 0 } else U

end Sys2Proof.Machine
end

