-- ==== Sys2Proof/Machine/Order.lean ====
section
/-! DEFINITION. Happens-before (R415 to R418) as the engines of a unit come to know it: lists of the numbers of checked accesses,
which tokens, WAIT, SYNC, FENCE, releases and acquires carry from one engine to another. -/

namespace Sys2Proof.Machine

/-- Union of lists of numbers, each kept once. -/
def uni (a b : List Nat) : List Nat := if b = [] then a else a ++ b.eraseDups.filter fun x => !a.contains x

/-- The instance of a scope from unit `u` includes unit `v` (R412). -/
def includes (sc u v : Nat) : Bool :=
  match sc with
  | 0 => decide (u = v) | 1 => decide (u / 8 = v / 8) | 2 => decide (u / 96 = v / 96) | _ => true

/-- Release `r` synchronises with an acquire of unit `u` at scope `sc` that reads it: each one's instance includes the other's
party (R417). -/
def Rel.meets (r : Rel) (u sc : Nat) : Bool := includes r.scope r.u u && includes sc u r.u
/-- What the acquire learns of such releases. -/
def learnOf (l : List Rel) (u sc : Nat) : List Nat := ((l.filter fun r => r.meets u sc).map (·.ids)).foldl uni []

/-! ### Queues whose records carry what their release covers -/

/-- `n` records that carry `ids` enter behind the `len` records of a queue.  The list names the newest records; older ones that it
does not name carry nothing. -/
def pushRel (l : List (List Nat)) (len n : Nat) (ids : List Nat) : List (List Nat) :=
  if l = [] ∧ ids = [] then [] else List.replicate (len - l.length) [] ++ l ++ List.replicate n ids
/-- What the oldest `n` of `len` records carry, and what remains. -/
def popRel (l : List (List Nat)) (len n : Nat) : List Nat × List (List Nat) :=
  let k := l.length - (len - n)
  ((l.take k).foldl uni [], l.drop k)

/-! ### What an engine knows -/

def UnitSt.knows (U : UnitSt) (e : Eng) : List Nat := SMap.get [] U.hb.know e.code
/-- The words that engine `e` issues from now on come after these accesses. -/
def UnitSt.learn (U : UnitSt) (e : Eng) (ids : List Nat) : UnitSt :=
  if ids = [] then U else { U with hb := { U.hb with know := SMap.set [] U.hb.know e.code (uni (U.knows e) ids) } }
/-- So do those of every engine. -/
def UnitSt.learnAll (U : UnitSt) (ids : List Nat) : UnitSt :=
  if ids = [] then U else [Eng.S, .L, .V, .W, .M, .C].foldl (fun V e => V.learn e ids) U

/-- The word pops a token: it carries WAIT (R31). -/
def popsToken (h : Nat) : Bool := decide (fld h 26 2 % 2 = 1)

/-- What the token carries that a word is about to pop (R415): the oldest of its FIFO, or at a replay, where S posts none, what
the POSTs to S carried for which the word waits (R332). -/
def UnitSt.tokenKnow (U : UnitSt) (e : Eng) (r : PassRec) : List Nat :=
  let p := Eng.ofCode (fld r.hdr 23 3)
  if !popsToken r.hdr then []
  else if U.tape.run = 2 ∧ p = .S then
    (r.relay.zip (others.map Eng.code)).foldl (fun l q =>
      (((SMap.get [] U.hb.relay q.2).filter fun x => decide (x.1 ≤ q.1)).map (·.2)).foldl uni l) []
  else (popRel (SMap.get [] U.hb.toks (fifo p e)) (U.tokens p e) 1).1

/-- The token is popped. -/
def UnitSt.popKnow (U : UnitSt) (e : Eng) (r : PassRec) : UnitSt :=
  let p := Eng.ofCode (fld r.hdr 23 3)
  let V := U.learn e (U.tokenKnow e r)
  if U.hb.toks = [] ∨ !popsToken r.hdr ∨ (U.tape.run = 2 ∧ p = .S) then V
  else
    { V with hb := { V.hb with
      toks := SMap.set [] V.hb.toks (fifo p e) (popRel (SMap.get [] V.hb.toks (fifo p e)) (U.tokens p e) 1).2 } }

/-- A word retires: its engine's POSTs carry from now on what it shows performed (R414), and a handler comes after it (R429). -/
def UnitSt.tell (U : UnitSt) (f : Flight) : UnitSt :=
  if f.know = [] ∧ f.acts = [] then U
  else { U with hb := { U.hb with
    told := SMap.set [] U.hb.told f.eng.code (uni (SMap.get [] U.hb.told f.eng.code) f.know)
    done := uni (uni U.hb.done f.know) f.acts } }

/-- The token that engine `e` posts to engine `p` carries what `e` can tell; at a replay the POST to S is counted (R332). -/
def UnitSt.postKnow (U : UnitSt) (e p : Eng) : UnitSt :=
  let ids := SMap.get [] U.hb.told e.code
  if ids = [] ∧ U.hb.toks = [] then U
  else if U.tape.run = 2 ∧ p = .S then
    { U with hb := { U.hb with relay := SMap.modify [] U.hb.relay e.code fun l =>
        if (l.any fun x => decide (x.2 = ids)) then l else l ++ [(SMap.get 0 U.tape.relay e.code + 1, ids)] } }
  else
    { U with hb := { U.hb with toks := SMap.modify [] U.hb.toks (fifo e p) fun l => pushRel l (U.tokens e p) 1 ids } }

/-! ### S's own order (R152, R154, R159, R415) -/

/-- The registers that an S word reads, for condition 2 of R415: x n as n, k n as 32 + n, p n as 64 + n. -/
def srcRegs (h : Nat) : List Nat :=
  let op := fld h 16 7
  let d := fld h 11 5
  let a := fld h 6 5
  let b := fld h 1 5
  if op ≤ 0x15 ∨ op = 0x20 then [a, b]
  else if op = 0x1A ∨ op = 0x21 then []
  else if op ≤ 0x1E ∨ op = 0x27 ∨ op = 0x4A then [a]
  else if op = 0x1F then [a, a + 1, b, b + 1]
  else if op ≤ 0x24 then [64 + a, 64 + b]
  else if op = 0x25 then [64 + a]
  else if op = 0x26 then (List.range 22).map fun i => 65 + i
  else if op = 0x28 ∨ op = 0x2A ∨ op = 0x30 ∨ op = 0x32 ∨ op = 0x40 then [32 + a, b]
  else if op = 0x29 then [32 + a, b, 32 + d]
  else if op ≤ 0x2E then [32 + a]
  else if op = 0x31 ∨ op = 0x33 ∨ op = 0x34 then [32 + a, b, d]
  else if op = 0x35 then [32 + a, b, d, d + 1]
  else if op = 0x37 then [32 + a, b, d, d + 1, d + 2, d + 3]
  else if op = 0x39 then [d]
  else []

/-- The reads on which registers depend. -/
def UnitSt.depsOf (U : UnitSt) (regs : List Nat) : List Nat :=
  if U.hb.deps = [] then [] else (regs.map fun r => SMap.get [] U.hb.deps r).foldl uni []

/-- The memory words of S by what they do (R153, R155, R163): they read, they write, they are at scope (R415). -/
def readsS (h : Nat) : Bool := [0x28, 0x30, 0x32, 0x34, 0x35].contains (fld h 16 7)
def writesS (h : Nat) : Bool := [0x29, 0x31, 0x33, 0x34, 0x35].contains (fld h 16 7)
def atScopeS (h : Nat) : Bool := [0x32, 0x33, 0x34, 0x35].contains (fld h 16 7)

/-- The accesses locally ordered before an S memory word with header `h` that accesses `n` bytes from `key` (R415): what S knows,
what its registers depend on, its accesses to common bytes, those that a releasing FENCE puts before a write, the accesses at scope
before one of its own, and before a STRL all. -/
def UnitSt.before (U : UnitSt) (h key n : Nat) : List Nat :=
  let B := U.hb
  let same := (B.hist.filter fun a => decide (a.1 < key + n) && decide (key < a.1 + a.2.1)).foldl (fun l a => uni l a.2.2) []
  let l := uni (uni (U.knows .S) (U.depsOf (srcRegs h))) same
  let l1 := if writesS h then uni l B.rel else l
  let l2 := if atScopeS h then uni l1 B.sync else l1
  if fld h 16 7 = 0x33 then uni (uni l2 B.loads) B.stores else l2

/-- Everything that S has accessed, with what it knows: what a release of S at this point covers (R416). -/
def UnitSt.coveredS (U : UnitSt) : List Nat := uni (uni (U.knows .S) U.hb.loads) U.hb.stores

/-- Everything that the unit's engines have accessed or know. -/
def UnitSt.allKnown (U : UnitSt) : List Nat :=
  let B := U.hb
  uni (uni (uni ((B.know.map (·.2)).foldl uni []) ((B.told.map (·.2)).foldl uni [])) (uni B.loads B.stores))
    (uni ((B.cls.map (·.2)).foldl uni []) B.done)

/-- What a WAIT's limits cover (R148): with limit 0, every operation that the counter has counted. -/
def UnitSt.waitCovers (U : UnitSt) (x : Nat) : List Nat :=
  (List.range 4).foldl (fun l i => if fld x (24 - 8 * i) 8 = 0 then uni l (SMap.get [] U.hb.cls i) else l) []

/-- The counter of R147 that counts the memory word of an engine. -/
def classOf (e : Eng) (write : Bool) : Nat := match e with | .S => if write then 1 else 0 | .L => 0 | .W => 1 | .M => 3 | _ => 2

/-- Accesses join the list of a counter. -/
def UnitSt.count (U : UnitSt) (i : Nat) (ids : List Nat) : UnitSt :=
  if ids = [] then U else { U with hb := { U.hb with cls := SMap.set [] U.hb.cls i (uni (SMap.get [] U.hb.cls i) ids) } }

/-- The registers that a flight writes depend on `ids`. -/
def UnitSt.setDeps (U : UnitSt) (f : Flight) (ids : List Nat) : UnitSt :=
  if ids = [] ∧ U.hb.deps = [] then U
  else
    let regs := f.wr ++ (f.eff.map fun e => match e with
      | .x d _ => [d] | .k d _ => [32 + d] | .p d _ => [64 + d] | .ps _ => (List.range 22).map fun i => 65 + i | _ => []).flatten
    { U with hb := { U.hb with deps := (regs.filter (· ≠ 0)).foldl (fun m r => SMap.set [] m r ids) U.hb.deps } }

/-- A memory word of S that issues: its access takes its place in S's order; LDAQ comes before every later word (R154), a STRL is
a release, and so is a write after a releasing FENCE (R416).  `key` is the place of the access. -/
def UnitSt.orderMem (U : UnitSt) (u : Nat) (f : Flight) (o : SOp) (key : Nat) : UnitSt × Flight :=
  let h := f.hdr
  let me := uni (U.before h key o.n) (SMap.get [] U.hb.cur 0)
  let B := U.hb
  let add := fun (b : Bool) (l : List Nat) => if b then uni l me else l
  let rel : List (Nat × Rel) :=
    if fld h 16 7 = 0x33 then [(f.id, ⟨u, o.scope, me⟩)]
    else match writesS h, B.relScope with
      | true, some sc => [(f.id, ⟨u, sc, me⟩)]
      | _, _ => []
  let W : UnitSt := if SMap.get [] B.cur 0 = [] then U
    else { U with work := { U.work with sops := U.work.sops.map fun p => if p.id = f.id then { p with rc := true } else p } }
  let V : UnitSt := if me = [] then W else { W with hb := { B with
    atoms := if readsS h ∧ writesS h then (f.id, me) :: B.atoms else B.atoms
    loads := add (readsS h) B.loads, stores := add (writesS h) B.stores, sync := add (atScopeS h) B.sync
    hist := (key, o.n, me) :: B.hist, rels := rel ++ B.rels } }
  let V1 := if fld h 16 7 = 0x32 then V.learn .S me else V
  let V2 := (V1.count (classOf .S (!readsS h)) me).setDeps f (if readsS h then uni me (U.depsOf (srcRegs h)) else U.depsOf (srcRegs h))
  (V2, if readsS h ∧ !writesS h then { f with know := uni f.know me } else { f with acts := me })

/-- What the order of memory makes of a word of S that issues (R159, R186, R414, R416): a FENCE puts what it has waited for before
the words that wait for it, and an acquiring one learns of the releases that earlier loads have read. -/
def UnitSt.orderS (U : UnitSt) (u : Nat) (f : Flight) (at_ : Place → Nat) : UnitSt × Flight :=
  let B := U.hb
  let op := fld f.hdr 16 7
  if !f.guard then (U, f)
  else if op = 0x36 then
    let kind := fld f.hdr 3 2
    let sc := fld f.hdr 0 3
    let acq := if kind = 2 then [] else uni B.loads (learnOf B.seen u sc)
    let all := uni B.loads B.stores
    let V := U.learn .S (if kind = 0 then uni acq B.stores else acq)
    let V1 : UnitSt := if kind = 1 then V else { V with hb := { V.hb with
      rel := uni V.hb.rel (uni all (U.knows .S)), relScope := some (max sc (V.hb.relScope.getD 0)) } }
    (V1, { f with know := uni f.know (if kind = 1 then acq else uni acq all) })
  else if op = 0x37 then
    ({ U with hb := { B with nm := uni (uni B.nm B.stores) (uni (U.knows .S) B.rel) } }, f)
  else if op = 0x38 then (U.learn .S B.nm, { f with know := uni f.know B.nm })
  else match U.work.sops.find? fun o => decide (o.id = f.id) && (readsS f.hdr || writesS f.hdr) with
    | some o => U.orderMem u f o (at_ o.place)
    | none => (U.setDeps f (U.depsOf (srcRegs f.hdr)), f)

/-- What the order of memory makes of a word that issues: it pops its token, and it retires with what its engine knows and with its
own accesses; a WAIT brings what its limits cover (R148, R179, R414). -/
def UnitSt.order (U0 : UnitSt) (u : Nat) (e : Eng) (r : PassRec) (f0 : Flight) (at_ : Place → Nat) : UnitSt × Flight :=
  let U := U0.popKnow e r
  let mine := SMap.get [] U.hb.cur e.code
  let V := if fld r.hdr 16 7 = 0x7E ∧ fld r.hdr 29 3 ≠ 6 then U.learn e (U.waitCovers r.ext) else U
  let f := { f0 with know := V.knows e }
  let q := if e = .S ∧ fld r.hdr 29 3 = 0 then V.orderS u f at_
    else (V.count (classOf e false) (if mine = [] then [] else uni (V.knows e) mine), { f with know := uni f.know mine })
  (if mine = [] then q.1 else { q.1 with hb := { q.1.hb with cur := SMap.erase q.1.hb.cur e.code } }, q.2)

/-- SYNC: every word of any engine after it sees every effect of every word before it (R318, R414). -/
def UnitSt.syncAll (U : UnitSt) : UnitSt := U.learnAll U.allKnown

/-- A handler comes after every word that retired before the trap (R429). -/
def UnitSt.enterKnow (U : UnitSt) : UnitSt :=
  let V := U.learn .S U.hb.done
  if V.hb.cur = [] then V else { V with hb := { V.hb with cur := [] } }

/-- What the order of memory makes of a release or an acquire of S that is no memory access: QPOP takes a record that carries `ids`,
which the words that depend on it come after; QPUSH and TEVT.SET are releases (R161, R382, R416). -/
def UnitSt.orderEvent (U : UnitSt) (u : Nat) (f : Flight) (ids : List Nat) : UnitSt × Flight :=
  let op := fld f.hdr 16 7
  if op = 0x3A then
    let V : UnitSt := if ids = [] then U else { U with hb := { U.hb with loads := uni U.hb.loads ids } }
    (V.setDeps f ids, { f with know := uni f.know ids })
  else
    let sc := if op = 0x39 then 1 else 3
    (if U.coveredS = [] then U else { U with hb := { U.hb with rels := (f.id, ⟨u, sc, U.coveredS⟩) :: U.hb.rels } }, f)

/-- The number of a word in the list of races that have been reported: its engine and its text address. -/
def raceWord (e : Eng) (addr : Nat) : Nat := e.code * 2 ^ 32 + addr
/-- The word issues: a later one at its address is checked anew. -/
def UnitSt.forgetRaces (U : UnitSt) (e : Eng) (addr : Nat) : UnitSt :=
  if U.trap.raceSkip = [] then U
  else { U with trap := { U.trap with raceSkip := U.trap.raceSkip.filter fun q => q.1 ≠ raceWord e addr } }

/-- A word in flight has made checked accesses. -/
def UnitSt.addActs (U : UnitSt) (id : Nat) (ids : List Nat) : UnitSt :=
  if ids = [] then U
  else { U with work := { U.work with fl := U.work.fl.map fun f => if f.id = id then { f with know := uni f.know ids } else f } }

/-- The result of an atomic of S is written: its write is performed at its scope, and what S posts from now on carries that (R414). -/
def UnitSt.atomDone (U : UnitSt) (id : Nat) : UnitSt :=
  if U.hb.atoms = [] then U
  else
    let ids := ((U.hb.atoms.filter fun q => q.1 = id).map (·.2)).foldl uni []
    { U with hb := { U.hb with
      atoms := U.hb.atoms.filter fun q => q.1 ≠ id
      told := SMap.set [] U.hb.told 0 (uni (SMap.get [] U.hb.told 0) ids), done := uni U.hb.done ids } }

/-- What a release in progress covers. -/
def UnitSt.relOf (U : UnitSt) (id : Nat) : List Rel := (U.hb.rels.filter fun q => q.1 = id).map (·.2)
def UnitSt.relIds (U : UnitSt) (id : Nat) : List Nat := (U.relOf id).foldl (fun l r => uni l r.ids) []
def UnitSt.dropRel (U : UnitSt) (id : Nat) : UnitSt :=
  if U.hb.rels = [] then U else { U with hb := { U.hb with rels := U.hb.rels.filter fun q => q.1 ≠ id } }

/-- The setting of an event covers `ids` too (R416). -/
def Graph.tellEvent (G : Graph) (ev : Nat) (ids : List Nat) : SMap (List Nat) :=
  if ids = [] then G.evKnow else SMap.modify [] G.evKnow ev fun l => uni l ids

/-- The BAR of a unit is an acquire of what the arrivals cover (R416). -/
def UnitSt.barLearn (U : UnitSt) (ids : List Nat) : UnitSt :=
  if ids = [] then U
  else
    let V := U.learn .S ids
    let tell := fun f : Flight => if f.eng = .S ∧ fld f.hdr 16 7 = 0x3B then { f with know := uni f.know ids } else f
    { V with
      work := { V.work with fl := V.work.fl.map tell }
      trap := { V.trap with saved := { V.trap.saved with fl := V.trap.saved.fl.map tell } } }

/-- A TEVT is performed: its release is made, and a .RD that returns 1 is an acquire of `ids` (R382, R416). -/
def UnitSt.eventDone (U : UnitSt) (id : Nat) (ids : List Nat) : UnitSt := ((U.dropRel id).learn .S ids).addActs id ids

end Sys2Proof.Machine
end

