-- ==== Sys2Proof/Machine/Ops.lean ====
section
/-! DEFINITION. The shared operations of the model: translation (R108 to R113), system registers as words, retirement
(R300, R303), taking a trap (R49, R433, R435) and returning from it (R442, R323), issuing a word (R298 to R310). -/

namespace Sys2Proof.Machine

/-- The result of a step. -/
abbrev Out := Host.Outcome State Fault Refusal

/-! ### Translation (R108 to R113) -/

/-- Address bits below a page of the leaf's level: 1 GiB, 2 MiB, 64 KiB (R108). -/
def pageBits (level : Nat) : Nat := match level with | 2 => 30 | 3 => 21 | _ => 16
/-- The index of a level in a device virtual address (R108). -/
def levelIndex (va level : Nat) : Nat :=
  match level with
  | 0 => va / 2 ^ 48 % 512 | 1 => va / 2 ^ 39 % 512 | 2 => va / 2 ^ 30 % 512 | 3 => va / 2 ^ 21 % 512
  | _ => va / 2 ^ 16 % 32

/-- Fields of a page-table entry (R110). -/
def pteV (p : Nat) : Bool := decide (fld p 0 1 = 1)
def pteLeaf (p : Nat) : Bool := decide (fld p 1 1 = 1)
def pteR (p : Nat) : Bool := decide (fld p 2 1 = 1)
def pteW (p : Nat) : Bool := decide (fld p 3 1 = 1)
def pteA (p : Nat) : Bool := decide (fld p 4 1 = 1)
def ptePin (p : Nat) : Bool := decide (fld p 5 1 = 1)
def pteTier (p : Nat) : Nat := fld p 6 2
def pteMig (p : Nat) : Bool := decide (fld p 8 1 = 1)
def pteFrame (p : Nat) : Nat := fld p 12 40 * 4096

/-- BADENTRY of R112 for an entry read at a level. -/
def pteBad (p level : Nat) : Bool :=
  decide (fld p 9 3 ≠ 0) || decide (fld p 52 12 ≠ 0)
    || (pteLeaf p && decide (level < 2)) || (!pteLeaf p && decide (level = 4))
    || (!pteLeaf p && decide (2 ≤ pteTier p))
    || (pteLeaf p && decide (pteFrame p % 2 ^ pageBits level ≠ 0))

/-- The result of a page walk: the level and the leaf entry with the key it was read from, or the level and reason. -/
inductive WalkRes where
  | leaf (level pte key : Nat)
  | bad (level reason : Nat)
  deriving DecidableEq, Repr

/-- The walk of R108 to R112 from a table of the given tier and address, `fuel` levels from `level`.  DESIGN CHOICE, a table is read
where its address names it, also outside its tier's capacity, where every byte is zero (so NOTVALID), and its bytes are used as if
sound where they are poisoned or their stack is out of service: the spec gives a walk no fault for either (log entry 152). -/
def walkFrom (m : Mem) (va : Nat) : Nat → Nat → Nat → Nat → WalkRes
  | 0, level, _, _ => .bad level 2
  | fuel + 1, level, tier, table =>
    let key := keyOf tier (table + 8 * levelIndex va level)
    let p := m.num .device key 8
    if !pteV p then .bad level 1
    else if pteBad p level then .bad level 2
    else if pteLeaf p then .leaf level p key
    else walkFrom m va fuel (level + 1) (pteTier p) (pteFrame p)

/-- The walk from a root, which is written as a non-leaf entry (R461). -/
def walkVA (m : Mem) (root va : Nat) : WalkRes := walkFrom m va 5 0 (pteTier root) (pteFrame root)

/-- The walk of a request through the die's page-walk cache: a non-leaf entry that the cache holds is used in place of
memory's.  It gives the result and the non-leaf entries met. -/
def walkCached (m : Mem) (pwc : List (Nat × Nat × Nat × Nat)) (asid va : Nat) :
    Nat → Nat → Nat → Nat → List (Nat × Nat × Nat × Nat) → WalkRes × List (Nat × Nat × Nat × Nat)
  | 0, level, _, _, met => (.bad level 2, met)
  | fuel + 1, level, tier, table, met =>
    let key := keyOf tier (table + 8 * levelIndex va level)
    let held := pwc.find? fun e => decide (e.1 = asid) && decide (e.2.1 = level) && decide (e.2.2.1 = key)
    let p := match held with | some e => e.2.2.2 | none => m.num .device key 8
    if !pteV p then (.bad level 1, met)
    else if pteBad p level then (.bad level 2, met)
    else if pteLeaf p then (.leaf level p key, met)
    else walkCached m pwc asid va fuel (level + 1) (pteTier p) (pteFrame p) (met ++ [(asid, level, key, p)])

/-- The kinds of access that translation tells apart (R112). -/
inductive AccKind where
  | read | write | atomic
  deriving DecidableEq, Repr

/-- What a translation gives: the key of the byte; a miss that starts a walk; XLAT with level and reason; a page that
is migrating (R117). -/
inductive Tr where
  | ok (key : Nat)
  | miss
  | mig
  | xlat (level reason : Nat)
  deriving DecidableEq, Repr

/-- An address of HBM4 (tier 0) or LPDDR-6 (tier 1) is inside its capacity (R111): stacks of 64 GB, 2 TB of LPDDR-6, in the
decimal units of R5. -/
def localOk (tier pa : Nat) : Bool :=
  if tier = 0 then decide (pa < 2 ^ 39) && decide (pa % 2 ^ 36 < 64000000000) else decide (pa < 2000000000000)

/-- A TIER 0 to 3 physical address is inside its tier's capacity, and a peer in the domain (R111, R112). -/
def physOk (tier pa : Nat) : Bool :=
  match tier with
  | 2 => decide (pa < min Config.cxlBytes (32 * 2 ^ 40))
  | 3 => decide (pa < 2 ^ 52) && decide (fld pa 45 1 = 0) && localOk (fld pa 44 1) (fld pa 0 44) && Config.inDomain (fld pa 46 6)
  | _ => localOk tier pa

/-- Checks 3 to 7 of R112 on a leaf, for an access through a capability of `space`. -/
def leafTr (level pte va space : Nat) (k : AccKind) : Tr :=
  let pa := pteFrame pte + va % 2 ^ pageBits level
  let tier := pteTier pte
  if k ≠ .write ∧ !pteR pte then .xlat level 3
  else if k ≠ .read ∧ !pteW pte then .xlat level 4
  else if k = .atomic ∧ !pteA pte then .xlat level 5
  else if (space = 0 ∧ tier = 3) ∨ (space = 5 ∧ tier ≠ 3) ∨ (space = 7 ∧ tier ≠ 0) then .xlat level 6
  else if !physOk tier pa then .xlat level 7
  else if pteMig pte then .mig
  else .ok (keyOf tier pa)

/-- A TLB entry maps an address under an ASID (R113). -/
def TlbEnt.hits (e : TlbEnt) (asid va : Nat) : Bool :=
  decide (e.asid = asid) && decide (va / 2 ^ pageBits e.level = e.vpage)

/-- A new entry in a TLB of 4,096 entries, eight ways to a set (R113). -/
def tlbInsert (tick : Nat) (t : List TlbEnt) (e : TlbEnt) : List TlbEnt :=
  let set := t.filter fun x => x.vpage % 512 = e.vpage % 512
  if set.length < 8 then e :: t
  else
    let victim := set.getD (Config.tlbVictim tick (e.vpage % 512) % 8) e
    e :: t.erase victim

/-- Two addresses of an address space lie in one page, as the tables show it (R108). -/
def State.samePage (s : State) (root a b : Nat) : Bool :=
  decide (a / 65536 = b / 65536)
    || (match walkVA s.mem root a with
        | .leaf l _ _ => decide (a / 2 ^ pageBits l = b / 2 ^ pageBits l)
        | .bad _ _ => false)

/-- The translation of an access of unit `u` at issue: scratchpads, B-store and host are not translated (R98).  Where a walk
has ended without an entry for the TLB, the access meets what the tables hold now, through the walk cache: an entry that software has
made valid since is seen (R113). -/
def State.translate (s : State) (u : Nat) (space addr : Nat) (k : AccKind) : Tr :=
  if space = 6 then .ok (keyOf 4 addr)
  else if 1 ≤ space ∧ space ≤ 4 then .ok (localKey u space addr)
  else
    let U := s.unit u
    match (s.cluster (clusterOf u)).tlb.find? fun e => e.hits U.id.asid addr with
    | some e => leafTr e.level e.pte addr space k
    | none =>
      if (s.die (dieOf u)).wfaults.any fun w => decide (w.1 = U.id.asid) && decide (w.2.1 = addr / 65536) then
        match (walkCached s.mem (s.die (dieOf u)).pwc U.id.asid addr 5 0 (pteTier U.id.root) (pteFrame U.id.root) []).1 with
        | .bad l r => .xlat l r
        | .leaf l pte _ => (match leafTr l pte addr space k with | .ok _ => .miss | other => other)
      else .miss

/-- A miss starts a walk, joins one that runs, or waits in the FIFO of 512; with the FIFO full nothing is accepted
(R113). -/
def State.startWalk (s : State) (u addr : Nat) : State :=
  let U := s.unit u
  let D := s.die (dieOf u)
  let c := clusterOf u
  let same := fun (w : WalkReq) => decide (w.asid = U.id.asid) && s.samePage w.root addr (w.vpage * 65536)
  let join := fun (w : WalkReq) =>
    if same w ∧ !w.clusters.contains c then { w with clusters := w.clusters ++ [c] } else w
  let w : WalkReq := ⟨U.id.asid, U.id.root, addr / 65536, [c]⟩
  let D1 : Die := { D with
    wfaults := D.wfaults.filter fun x => !(decide (x.1 = U.id.asid) && decide (x.2.1 = addr / 65536)) }
  if (D.walks ++ D.missq).any same then
    s.setDie (dieOf u) { D1 with walks := D.walks.map join, missq := D.missq.map join }
  else if D.walks.length < 32 then s.setDie (dieOf u) { D1 with walks := D.walks ++ [w] }
  else if D.missq.length < 512 then s.setDie (dieOf u) { D1 with missq := D.missq ++ [w] }
  else s

/-- A fault that a walk found is given to the access that missed, and forgotten (R113: nothing that raised XLAT is
cached). -/
def State.dropFault (s : State) (u addr : Nat) : State :=
  let D := s.die (dieOf u)
  let asid := (s.unit u).id.asid
  let C := s.cluster (clusterOf u)
  (s.setDie (dieOf u) { D with wfaults := D.wfaults.filter fun w => !(w.1 = asid ∧ w.2.1 = addr / 65536) }).setCluster
    (clusterOf u) { C with tlb := C.tlb.filter fun e => !(e.hits asid addr) }

/-! ### System registers as words (R58) -/

/-- BANKSTATE (R132). -/
def UnitSt.bankstate (U : UnitSt) : Nat :=
  let code : Supply → Nat := fun st => match st with | .full => 0 | .retain => 1 | .off => 2 | .waking => 3
  ((List.range 8).map fun n => code (U.bank 0 n).st * 2 ^ (2 * n)).sum
    + ((List.range 16).map fun j => code (U.bank 1 j).st * 2 ^ (2 * j + 16)).sum
/-- The fall states, 2 bits per bank in BANKSTATE order (R439). -/
def UnitSt.fallstate (U : UnitSt) : Nat :=
  let code : Supply → Nat := fun st => match st with | .full => 0 | .retain => 1 | .off => 2 | .waking => 3
  ((List.range 8).map fun n => code (U.bank 0 n).fall * 2 ^ (2 * n)).sum
    + ((List.range 16).map fun j => code (U.bank 1 j).fall * 2 ^ (2 * j + 16)).sum
/-- BANKALLOC (R219). -/
def UnitSt.bankalloc (U : UnitSt) : Nat := U.alloc.toNat + U.dcur.toNat * 256 + (if U.dup then 65536 else 0)
/-- STATUS (R432); PARKD and ABORT read zero. -/
def UnitSt.status (U : UnitSt) : Nat :=
  (if U.csr.mode then 1 else 0) + (if U.csr.uh then 2 else 0) + (if U.csr.preq then 4 else 0)
    + (if U.tape.run = 2 then 8 else 0)
/-- UNITID (R23). -/
def UnitSt.unitid (U : UnitSt) (u : Nat) : Nat :=
  u % 8 + (u / 8 % 12) * 2 ^ 3 + (u / 96) * 2 ^ 7 + u * 2 ^ 10 + U.id.nstage * 2 ^ 24 + U.id.stage * 2 ^ 27
/-- TASKID (R379). -/
def UnitSt.taskid (U : UnitSt) : Nat :=
  if U.id.task = 0 then 0
  else U.id.ope * 2 ^ 5 + (if U.id.c then 2 ^ 8 else 0) + (if U.id.g then 2 ^ 9 else 0) + U.id.tiles * 2 ^ 10
    + U.id.rank * 2 ^ 20 + U.id.card * 2 ^ 30 + U.id.graph * 2 ^ 42
/-- TAPECTL (R352); JDROP reads zero. -/
def UnitSt.tapectl (U : UnitSt) : Nat := U.csr.tapeid + (if U.csr.norec then 2 ^ 17 else 0)
/-- TAPESTAT (R353). -/
def UnitSt.tapestat (U : UnitSt) : Nat :=
  U.tape.run * 2 ^ 12 + U.tape.reason * 2 ^ 16 + U.tape.mark * 2 ^ 24 + U.tape.entries % 65536 * 2 ^ 32
/-- PDEADLINE (R449). -/
def UnitSt.pdeadline (U : UnitSt) : Nat := U.csr.pdLimit + U.csr.pdRemain * 2 ^ 32
/-- The lease of the unit's task as OPSTATE.LEASE shows it (R406). -/
def State.leaseOf (s : State) (U : UnitSt) : Nat :=
  match s.task U.id.task with
  | some T => if U.id.task = 0 then 0 else (match T.lease with | some _ => if T.frozen then 2 else 1 | none => 0)
  | none => 0
/-- OPSTATE (R406). -/
def State.opstate (s : State) (u : Nat) : Nat :=
  let k := (s.cluster (clusterOf u)).clk
  k.op + k.opmax * 2 ^ 16 + s.leaseOf (s.unit u) * 2 ^ 24 + (if k.scap then 2 ^ 26 else 0)
    + (if k.throttle ≠ 0 then 2 ^ 27 else 0) + (if k.therm.isSome then 2 ^ 28 else 0)
    + (if s.camp.floorFlag then 2 ^ 29 else 0) + s.camp.grade * 2 ^ 30
/-- The Dovetail status word (R295). -/
def Dctx.word (D : Dctx) : Nat :=
  D.status * 2 ^ 4 + (if D.pref then 2 ^ 8 else 0) + D.elink * 2 ^ 12 + D.flags * 2 ^ 16 + D.late * 2 ^ 24
    + D.donen * 2 ^ 32
/-- A stream's state word (R194). -/
def Desc.total (d : Desc) : Nat := d.cnt.foldl (· * ·) 1
def Stream.stateWord (t : Stream) : Nat :=
  (match t.mode with | .idle => 0 | .read => 1 | .write => 2) + t.cons * 4
    + (if t.buf.any fun b => b.mark.isSome then 16 else 0)
    + (match t.active with
       | some d => if t.mode ≠ .idle ∧ t.pc = d.total then 32 else 0
       | none => 0)
    + t.shadow.length * 64

/-- The value of a system register (R58) as CSRR reads it. -/
def State.csr (s : State) (u n : Nat) : Nat :=
  let U := s.unit u
  match n with
  | 0x000 => U.status
  | 0x001 => U.csr.cause.toNat
  | 0x002 => U.csr.tframe * 4096
  | 0x003 => U.csr.vecU + (if U.csr.vecEn then 2 ^ 31 else 0)
  | 0x004 => U.csr.vecS
  | 0x010 => U.csr.slipw
  | 0x011 => U.pdeadline
  | 0x012 => U.csr.tokwd
  | 0x020 => s.time.toNat
  | 0x021 => U.csr.cycles.toNat
  | 0x030 => U.unitid u
  | 0x031 => U.taskid
  | 0x040 => U.afterFalls.bankstate
  | 0x041 => U.afterFalls.bankalloc
  | 0x042 => U.bind.toNat
  | 0x050 => U.csr.vstat.toNat
  | 0x060 => s.opstate u
  | 0x070 => U.tapectl
  | 0x071 => U.tapestat
  | 0x080 => U.csr.rcstat.toNat
  | _ => 0

/-- The frame's length, FLEN (R438), for a slip limit. -/
def flen (limit : Nat) : Nat := 0x10000 + 48 * limit

/-! ### Writes of system registers (R9, R452) -/

/-- SLIPW's clamp (R302) and PDEADLINE's (R449). -/
def clampSlip (v : Nat) : Nat := min 4096 (max 16 v)
def clampDeadline (v : Nat) : Nat := min 65536 (max 256 v)

/-- VSTAT's W1C flags (R82). -/
def vstatFlags : Word := 0x1CDF

/-- What a CSRW makes of its register's writable fields (R9, R452). -/
def UnitSt.csrSet (U : UnitSt) (csr v : Nat) : UnitSt :=
  match csr with
  | 0x002 => { U with csr := { U.csr with tframe := fld v 12 8 } }
  | 0x003 => { U with csr := { U.csr with vecEn := decide (fld v 31 1 = 1), vecU := fld v 0 14 } }
  | 0x004 => { U with csr := { U.csr with vecS := fld v 0 10 } }
  | 0x010 => { U with csr := { U.csr with slipw := clampSlip (fld v 0 13) } }
  | 0x011 =>
    let lim := clampDeadline (fld v 0 17)
    let count := U.csr.pdLimit - U.csr.pdRemain
    { U with csr := { U.csr with pdLimit := lim, pdRemain := if U.csr.preq then lim - count else 0 } }
  | 0x012 => { U with csr := { U.csr with tokwd := max 256 (fld v 0 32) } }
  | 0x041 => { U with dup := decide (fld v 16 1 = 1) }.fixDup
  | 0x050 =>
    let w := BitVec.ofNat 64 v
    { U with csr := { U.csr with vstat := (U.csr.vstat &&& ~~~(w &&& vstatFlags) &&& ~~~(0x8000 : Word)) ||| (w &&& 0x8000) } }
  | 0x070 => { U with csr := { U.csr with tapeid := fld v 0 16 } }
  | _ => U

/-! ### Retirement (R12, R300, R303) -/

/-- VSTAT bits set at retire (R83). -/
def UnitSt.setFlags (U : UnitSt) (v : Word) : UnitSt := { U with csr := { U.csr with vstat := U.csr.vstat ||| v } }

/-- The number of panels of depth `k` with K-slices of `c0` (R256). -/
def panels (k c0 : Nat) : Nat := (k + c0 - 1) / c0
/-- An MMUL, not an MSCAL or MCLR. -/
def MOp.isMul (o : MOp) : Bool := decide (o.mr ≠ 0)
/-- All its panels are written. -/
def MOp.panelsDone (o : MOp) : Bool := decide (panels o.k o.c0 ≤ o.panel)
/-- It has taken its last step (R277). -/
def MOp.stepsDone (o : MOp) : Bool :=
  !o.isMul || o.panelsDone || (decide (o.panel + 1 = panels o.k o.c0) && decide (o.steps.length = o.mr))

/-- One effect of a retiring word. -/
def UnitSt.applyEff (U : UnitSt) (e : Eff) : UnitSt :=
  match e with
  | .x d v => { U with regs := U.regs.setX d v }
  | .k d c => { U with regs := U.regs.setK d c }
  | .p d b => { U with regs := U.regs.setP d b }
  | .ps v => { U with regs := U.regs.setPs v }
  | .bank b e => U.writeBank b e
  | .vstat v => U.setFlags v
  | .bhint k b st =>
      let V := if k = 0 then U.fallRegIfDue b else U
      V.setBank k b { V.bank k b with fall := st }
  | .bwake k b =>
      let V := if k = 0 then U.fallRegIfDue b else U
      V.setBank k b (V.bank k b).startWake
  | .balloc b t =>
      { U with alloc := if t then U.alloc ||| BitVec.ofNat 8 (2 ^ b) else U.alloc &&& ~~~(BitVec.ofNat 8 (2 ^ b)) }.fixDup
  | .mset sel v =>
      if sel = 4 then { U with fade := BitVec.ofNat 32 v }
      else { U with bsets := SMap.set BSet.reset U.bsets sel ⟨fld v 0 12, fld v 12 6 + 1, decide (fld v 18 1 = 1)⟩ }
  | .sdrop bs => bs.foldl (fun V b => V.setBank 1 b { V.bank 1 b with hint := true }) U
  | .sidle i =>
      let t := SMap.get Stream.reset U.streams i
      let t1 : Stream := { t with mode := .idle, cons := 0, buf := [], lines := [], ps := t.pc, active := none }
      let hand := fun (o : MOp) => if o.isMul ∧ o.s = i ∧ !o.stepsDone ∧ o.rest = none then
          { o with rest := t.active.map fun d => (d, t.pc) } else o
      { U with
        streams := SMap.set Stream.reset U.streams i t1
        work := if t.cons = 2 then { U.work with mops := U.work.mops.map hand } else U.work }
  | .csrw n v => U.csrSet n v
  | .csract .. => { U with work := { U.work with late := U.work.late ++ [e] } }
  | .tcont .. => { U with work := { U.work with late := U.work.late ++ [e] } }

/-- The last-use hint of a register bank, set when its word retires; the fall itself is an event (R223). -/
def UnitSt.applyHint (U : UnitSt) (b : Nat) : UnitSt := U.setBank 0 b { U.bank 0 b with hint := true }

/-- The oldest flight of an engine. -/
def UnitSt.headOf (U : UnitSt) (e : Eng) : Option Flight := U.work.fl.find? fun f => f.eng == e

/-- Whether the post of a word can be pushed: its FIFO holds fewer than 8 tokens (R303).  At a tape replay a token for S
is not pushed but counted (R332, R343). -/
def UnitSt.postRoom (U : UnitSt) (f : Flight) : Bool :=
  match f.post with
  | none => true
  | some p => if U.tape.run = 2 ∧ p = .S then true else decide (U.tokens f.eng p < 8)

/-- The POST of a retiring word. -/
def UnitSt.pushPost (U : UnitSt) (f : Flight) : UnitSt :=
  match f.post with
  | none => U
  | some p =>
    let U := U.postKnow f.eng p
    if U.tape.run = 2 ∧ p = .S then
      { U with tape := { U.tape with relay := SMap.modify 0 U.tape.relay f.eng.code (· + 1) } }
    else (U.setTokens f.eng p (U.tokens f.eng p + 1)).setPushWait f.eng 0

/-- An access of S waits for a migration (R117). -/
def SOp.waits (o : SOp) : Bool := o.place.key.isNone && (decide (o.place.space = 0) || decide (o.place.space = 5))

/-- A word leaves its engine: effects, hints, POST.  A store or atomic whose access waits for a migration is remembered. -/
def UnitSt.retireFlight (U : UnitSt) (f : Flight) : UnitSt :=
  let wait := f.eng = .S ∧ U.work.sops.any fun o => decide (o.id = f.id) && o.waits
  let V := f.eff.foldl UnitSt.applyEff { U with work := { U.work with
    fl := U.work.fl.filter fun g => g.id ≠ f.id
    gone := if wait then U.work.gone ++ [{ f with post := none, eff := [], hints := [], know := [], acts := [] }] else U.work.gone } }
  ((f.hints.foldl UnitSt.applyHint V).tell f).pushPost f

/-- A fall of a unit scratchpad bank that is due comes before the BHINT or BWAKE of that bank (R137, R224). -/
def UnitSt.fallFirst (U : UnitSt) (f : Flight) : Bool :=
  f.eff.any fun e => match e with | .bhint 1 b _ => U.fallDue 1 b | .bwake 1 b => U.fallDue 1 b | _ => false

/-- A flight has nothing left to wait for, and the cluster's clock runs (R385). -/
def UnitSt.mayRetire (U : UnitSt) (f : Flight) : Bool :=
  decide (f.wait = .done) && U.postRoom f && !U.fallFirst f && !U.stopped

/-- In-order retirement of an engine's words that have nothing left to wait for, at most `fuel` of them. -/
def UnitSt.drain (U : UnitSt) (e : Eng) : Nat → UnitSt
  | 0 => U
  | n + 1 =>
    match U.headOf e with
    | none => U
    | some f => if U.mayRetire f then (U.retireFlight f).drain e n else U

/-- Retirement of everything an engine can retire. -/
def UnitSt.retire (U : UnitSt) (e : Eng) : UnitSt := U.drain e U.work.fl.length

/-- A flight's operation is performed: it waits for nothing more, and makes these effects when it retires. -/
def UnitSt.finish (U : UnitSt) (id : Nat) (effs : List Eff) : UnitSt :=
  { U with work := { U.work with
      fl := U.work.fl.map fun f => if f.id = id then { f with wait := .done, eff := f.eff ++ effs } else f } }

/-! ### Falls -/

/-- A fall: to Retain, to Off with the contents lost, to Full without effect; a BHINT or BWAKE that waited for it retires. -/
def State.fall (s : State) (u kind b : Nat) : State :=
  let U := s.unit u
  if kind = 0 then s.setUnit u (U.fallReg b)
  else
    let B := U.bank 1 b
    let s1 := s.setUnit u ((U.setBank 1 b B.fallNow).retire .V)
    if B.fall = .off then { s1 with mem := s1.mem.wipe (localKey u 1 (b * 65536)) 65536 } else s1

/-- A fall that is due takes effect. -/
def State.fallIfDue (s : State) (u kind b : Nat) : State := if (s.unit u).fallDue kind b then s.fall u kind b else s

/-- Every fall that is due takes effect. -/
def State.fallsDue (s : State) (u : Nat) : State := allBanks.foldl (fun s q => s.fallIfDue u q.1 q.2) s

/-- What a trap does to the banks: falls that are due come first, wakes in progress complete (R138, R446). -/
def State.settleBanks (s : State) (u : Nat) : State :=
  let s1 := s.fallsDue u
  s1.setUnit u (allBanks.foldl (fun V q => V.wakeNow q.1 q.2) (s1.unit u))

/-! ### Ending a task -/

/-- The statuses with which a task ends, as the model numbers them: 1 DONE, then FAULT, MCHECK, SHED, DEPFAIL. -/
def stDone : Nat := 1
def stFault : Nat := 2
def stMcheck : Nat := 3
def stShed : Nat := 4
def stDepfail : Nat := 5

/-- A unit stops where it is. -/
def UnitSt.halt (U : UnitSt) : UnitSt := { U with run := .halted }

/-- A unit that has halted does nothing more until it is freed (R454). -/
def State.halted (s : State) (u : Nat) : Bool := decide ((s.unit u).run = .halted)

/-- A task is stopped with a status other than DONE: every unit of it stops; TASK_COMPLETE then completes it. -/
def State.failTask (s : State) (t status : Nat) : State :=
  match s.task t with
  | none => s
  | some T =>
    let s1 := T.units.foldl (fun s u => s.setUnit u (s.unit u).halt) s
    s1.setTask t { T with status := if T.status = 0 then status else T.status }

/-- A recording task loses its tape: the reason stands in every unit's TAPESTAT, and the run goes on live (R347). -/
def State.abandon (s : State) (t reason : Nat) : State :=
  match s.task t with
  | none => s
  | some T =>
    let s1 := T.units.foldl (fun s u =>
      let U := s.unit u
      if U.tape.run = 1 then s.setUnit u { U with tape := { U.tape with run := 0, reason := reason, segs := [] } } else s) s
    { s1 with hub := { s1.hub with recording := s1.hub.recording.filter fun r => r.1 ≠ t } }

/-! ### The trap frame (R437 to R441) -/

def u8 (v : Nat) : List Byte := toBytes 1 v
def u16 (v : Nat) : List Byte := toBytes 2 v
def u32 (v : Nat) : List Byte := toBytes 4 v
def u64 (v : Nat) : List Byte := toBytes 8 v
def pad (n : Nat) (l : List Byte) : List Byte := l ++ List.replicate (n - l.length) 0

def engs : List Eng := [.S, .L, .V, .W, .M, .C]
/-- The 30 ordered pairs of different engines, producer-major (R439). -/
def fifos : List (Eng × Eng) := (engs.map fun p => (engs.filter fun c => c ≠ p).map fun c => (p, c)).flatten

/-- An outcome in eight bytes: value, flag, kind. -/
def Outcome.bytes (o : Outcome) : List Byte :=
  match o with
  | .jump t g => u32 g ++ u8 (if t then 1 else 0) ++ u8 0 ++ u16 0
  | .trip t => u32 t ++ u8 0 ++ u8 1 ++ u16 0
  | .yields y => u32 0 ++ u8 (if y then 1 else 0) ++ u8 2 ++ u16 0
def Outcome.ofBytes (b : List Byte) : Outcome :=
  let v := Machine.ofBytes (b.take 4)
  let f := (b.getD 4 0) == 1
  match (b.getD 5 0).toNat with
  | 0 => .jump f v
  | 1 => .trip v
  | _ => .yields f

/-- A loop stack entry in sixteen bytes (R439). -/
def LoopEnt.bytes (l : LoopEnt) : List Byte := u16 l.b0 ++ u16 l.b1 ++ u8 l.n ++ pad 3 [] ++ u32 l.t ++ u32 l.i
def LoopEnt.ofBytes (b : List Byte) : LoopEnt :=
  let f := fun o n => Machine.ofBytes ((b.drop o).take n)
  ⟨f 0 2, f 2 2, f 4 1, f 8 4, f 12 4⟩

def redirWord (r : Option Redirect) : Nat :=
  match r with
  | none => 0
  | some r => r.tgt % 2 ^ 32 + (if r.taken then 2 ^ 32 else 0) + r.slots * 2 ^ 33

/-- The mask of engines still to pass a word: bit 0 for S to bit 5 for C. -/
def maskBits (l : List Eng) : Nat := (l.map fun e => 2 ^ e.code).sum

/-- The word is a CFILL, whose pattern is captured with a block of which SOFF is ignored (R173). -/
def isCfill (h : Nat) : Bool := decide (fld h 29 3 = 5) && decide (fld h 16 7 = 2)

/-- The up to four captured values that the frame holds of a word (R439, R441), and a word's values from them. -/
def frameVals (h : Nat) (vals : List Word) : List Word := if isCfill h then vals.drop 1 else vals
def valsFromFrame (h : Nat) (vals : List Word) : List Word := if isCfill h then 0 :: vals else vals

def PassRec.bytes (r : PassRec) : List Byte :=
  u16 r.addr ++ u8 (maskBits r.mask) ++ u8 (if r.guard then 1 else 0) ++ u8 (frameVals r.hdr r.vals).length ++ pad 11 []
    ++ pad 32 (((frameVals r.hdr r.vals).take 4).map fun v => u64 v.toNat).flatten

/-- Bytes of the steps that an M word has taken: BF16 elements; or L6 codes, six bits each, with the scales after them. -/
def MOp.stepBytes (o : MOp) : Nat :=
  (o.steps.map fun a => if o.bf16 then 2 * a.length else (6 * min o.c0 a.length + 7) / 8 + (a.length - o.c0)).sum

/-- The captured capabilities of a copy move: one for each range that it has. -/
def Move.capCount (m : Move) : Nat :=
  1 + (if m.kind = 2 then 0 else 1) + (if (m.sfmt = 2 ∨ m.dfmt = 2) ∧ m.kind ≠ 0 then 1 else 0)

/-- Bytes of the operand area that a word takes: the step of an L word, the captured lanes of a V word's operands and the records of
a VCPOP (R232), what a W word writes or adds, the steps of an M word with its B set and FADEF, captured capabilities (R441). -/
def Work.operandLen (w : Work) (f : Flight) : Nat :=
  (if f.eng = .L ∧ f.wait ≠ .done then 256 else 0)
    + (if f.eng = .V then 256 * (f.rd.length + if fld f.hdr 16 7 = 0x25 then 1 else 0) else 0)
    + ((w.wops.filter fun o => o.id = f.id).map fun o =>
        (o.stores.map fun p => p.2.length).sum + (match o.add with | some q => 4 * q.2.2.length | none => 0)).sum
    + ((w.mops.filter fun o => o.id = f.id).map fun o => o.stepBytes + 8).sum
    + ((w.moves.filter fun m => m.id = f.id).map fun m => 16 * m.capCount).sum + 16 * f.caps.length

/-- Words with their offsets and lengths in the operand area, one after another. -/
def Work.operandPlaces (w : Work) : Nat → List Flight → List (Flight × Nat × Nat)
  | _, [] => []
  | o, f :: r => (f, o, w.operandLen f) :: w.operandPlaces (o + w.operandLen f) r

/-- A replay entry (R441). -/
def Flight.bytes (f : Flight) (off len : Nat) : List Byte :=
  u32 f.hdr ++ u32 f.ext ++ u16 f.addr
    ++ u16 ((if f.post.isSome then 1 else 0) + (if popsToken f.hdr then 2 else 0) + (if f.guard then 4 else 0))
    ++ u32 len ++ u32 off ++ u32 f.progress ++ u64 0 ++ pad 32 (((frameVals f.hdr f.vals).take 4).map fun v => u64 v.toNat).flatten

def Cap.bytes (c : Cap) : List Byte := toBytes 16 c.bits.toNat

/-- The frame's parts: offset and bytes (R439, R440). -/
def frameParts (s : State) (u : Nat) (t : Trap) : List (Nat × List Byte) :=
  let U := s.unit u
  let W := U.walk
  let per := fun (e : Eng) => (U.work.gone ++ U.work.fl).filter fun f => f.eng == e
  let ops := U.work.operandPlaces 0 (engs.map per).flatten
  [ (0x0000, u64 (t.cause.code + t.eng * 2 ^ 11) ++ u64 t.info0 ++ u64 t.info1 ++ u64 s.time.toNat
      ++ u32 (flen U.csr.slipw) ++ u16 W.passes.length ++ u16 (if U.tape.run = 2 then 2 else 0)
      ++ (engs.map fun e => u8 (per e).length).flatten ++ u16 0 ++ u64 U.status ++ u64 0),
    (0x0040, pad 64 (engs.map fun e => u32 (U.pcOf e)).flatten),
    (0x0080, pad 64 ((fifos.map fun f => u8 (U.tokens f.1 f.2)).flatten
      ++ (others.map fun e => u8 (SMap.get [] W.outq e.code).length).flatten)),
    (0x00C0, pad 64 (u64 U.dove.word
      ++ u64 (match U.bar with | some (n, _, c) => n + 8 + (if c then 16 else 0) | none => 0)
      ++ (others.map fun e => u32 (SMap.get 0 U.tape.pos e.code)).flatten)),
    (0x0100, (others.map fun e => pad 128 ((SMap.get [] W.outq e.code).map Outcome.bytes).flatten).flatten),
    (0x0400, pad 0x200 (engs.map fun e => pad 64 ((U.loopsOf e).reverse.map LoopEnt.bytes).flatten).flatten),
    (0x0600, ((List.range 16).map fun i =>
      let st := SMap.get Stream.reset U.streams i
      u64 st.pc ++ u64 st.ps ++ u64 st.stateWord ++ u64 0).flatten),
    (0x0800, ((List.range 8).map fun i =>
      let w := SMap.get Win.reset U.wins i
      pad 32 (u32 w.head ++ u32 w.next ++ u32 ((w.filled + 2 ^ 32 - 1) % 2 ^ 32) ++ u8 (if w.act then 1 else 0))).flatten),
    (0x0900, ((List.range 8).map fun i => u64 (U.regs.getX (24 + i)).toNat).flatten),
    (0x0A00, u64 U.bankstate ++ u64 U.bind.toNat ++ u64 U.bankalloc ++ u64 U.fallstate),
    (0x0A20, (engs.map fun e => u64 (redirWord (U.redirOf e))).flatten),
    (0x1000, (engs.map fun e =>
      pad 0x800 ((ops.filter fun q => q.1.eng == e).map fun q => q.1.bytes q.2.1 q.2.2).flatten).flatten),
    (0x4000, (List.range (ops.map fun q => q.2.2).sum).map (Config.operandByte s.tick)),
    (0x10000, (W.passes.map PassRec.bytes).flatten) ]

/-- The frame's place: the unit scratchpad at TFRAME. -/
def frameKey (u : Nat) (U : UnitSt) : Nat := localKey u 1 (U.csr.tframe * 4096)

/-- What is left of a checked access once the bytes from `k` have a new history (R428). -/
def Access.without (a : Access) (k n : Nat) : List Access :=
  if a.key + a.n ≤ k ∨ k + n ≤ a.key then [a]
  else (if a.key < k then [{ a with n := k - a.key }] else [])
    ++ (if k + n < a.key + a.n then [{ a with key := k + n, n := a.key + a.n - (k + n) }] else [])

/-- Bytes that the hardware or the hub has set start a new history (R428). -/
def State.dropHistory (s : State) (k n : Nat) : State :=
  if s.races = [] then s else { s with races := (s.races.map fun a => a.without k n).flatten }

/-- Bytes of a unit scratchpad, each range from the frame's place, start a new history. -/
def State.dropFrame (s : State) (u : Nat) (U : UnitSt) (l : List (Nat × Nat)) : State :=
  l.foldl (fun s q => s.dropHistory (frameKey u U + q.1) q.2) s

/-- A write of the unit scratchpad wakes a bank that is Off or in Retain (R135): the shared port waits the wake out, so
the bank is Full once the write is made. -/
def UnitSt.wakeSpad (U : UnitSt) (off n : Nat) : UnitSt :=
  (spadBanks off n).foldl (fun V j =>
    let B := V.bank 1 j
    if B.st = .full then V else V.setBank 1 j { B with st := .full, wake := 0 }) U

/-- A record that S has made at a rendezvous word it has not passed; the mark tells it from the record of a YIELD passed
earlier. -/
def PassRec.isMeeting (r : PassRec) : Bool := decide (r.relay = [1])

/-- A trap discards the arrivals at a rendezvous (R321): S has not passed the word, so its record goes, and with a YIELD
the outcomes that S pushed. -/
def UnitSt.unarrive (U : UnitSt) : UnitSt :=
  let W := U.walk
  match W.passes.getLast? with
  | some r =>
    if r.isMeeting then
      { U with walk := { W with
        passes := W.passes.dropLast, arrived := []
        outq := if fld r.hdr 16 7 = 5 then
            others.foldl (fun m e => SMap.set [] m e.code (SMap.get [] W.outq e.code).dropLast) W.outq
          else W.outq } }
    else { U with walk := { W with arrived := [] } }
  | none => { U with walk := { W with arrived := [] } }

/-- The place of an access that is issued again: it meets the translation that holds then (R117). -/
def Place.again (p : Place) : Place := if p.space = 0 ∨ p.space = 5 ∨ p.space = 7 then { p with key := none } else p

/-- What is left of the work when only the flights `fl` remain, with the counters of R147. -/
def Work.only (w : Work) (fl : List Flight) : Work :=
  let ids := fl.map (·.id)
  let isLoad := fun (o : SOp) => match o.kind with
    | .ld | .ldaq | .kld | .sset | .qpop | .amo _ | .cas => true | _ => false
  let isStore := fun (o : SOp) => match o.kind with
    | .st | .strl | .kst | .qpush => true | _ => false
  let so := w.sops.filter fun o => ids.contains o.id
  let wo := w.wops.filter fun o => ids.contains o.id
  let mo := w.mops.filter fun o => ids.contains o.id
  { w with
    fl := fl, sops := so, wops := wo, mops := mo, moves := w.moves.filter fun m => ids.contains m.id
    loads := (so.filter isLoad).length + (fl.filter fun f => f.eng == .L && f.wait != .done).length
    stores := wo.length + (so.filter isStore).length
    copies := (fl.filter fun f => f.eng == .C && decide (f.wait = .op) && decide (fld f.hdr 16 7 ≤ 5)).length
    tiles := mo.length }

/-- The words of an engine that have issued and not retired, and their operations, leave for the replay queue, and with them the
accesses of retired stores and atomics that wait for a migration (R117); other stores that have retired and window fills stay in
flight (R146, R151, R433). -/
def Work.split (w : Work) : Work × Work :=
  let fl := w.gone ++ w.fl
  let ids := fl.map (·.id)
  let q := w.only fl
  let saved : Work :=
    { q with
      late := [], gone := []
      sops := q.sops.map fun o => { o with place := o.place.again }
      wops := q.wops.map fun o => { o with stores := o.stores.map fun p => (p.1.again, p.2) }
      mops := q.mops.map fun o => { o with seen := [] } }
  let live : Work :=
    { w with
      fl := [], gone := [], mops := [], moves := [], sops := w.sops.filter fun o => !(ids.contains o.id)
      wops := w.wops.filter fun o => !(ids.contains o.id)
      loads := w.loads - saved.loads, stores := w.stores - saved.stores
      copies := w.copies - saved.copies, tiles := w.tiles - saved.tiles }
  (saved, live)

/-- The replay queue joins the live work again, its words before those of the live work (R323). -/
def Work.join (saved live : Work) : Work :=
  { live with
    fl := saved.fl ++ live.fl, sops := saved.sops ++ live.sops, wops := saved.wops ++ live.wops
    moves := saved.moves ++ live.moves, mops := saved.mops ++ live.mops
    loads := saved.loads + live.loads, stores := saved.stores + live.stores
    copies := saved.copies + live.copies, tiles := saved.tiles + live.tiles }

/-- NRACE saturates at 65,535 (R427); the trap's pair is recorded by the race check. -/
def bumpRace (w : Word) : Word :=
  let n := fld w.toNat 32 16
  if n < 65535 then w + BitVec.ofNat 64 (2 ^ 32) else w

/-- The supervisor is entered: MODE, k14, TRAPVEC_S (R433). -/
def UnitSt.enterSuper (U : UnitSt) : UnitSt :=
  ({ U with csr := { U.csr with mode := true, uh := false }, regs := U.regs.setK 14 U.id.superCap }).setPc .S U.csr.vecS

/-- Frame bytes written, tags cleared (R438). -/
def writeParts (m : Mem) (u base : Nat) (ps : List (Nat × List Byte)) : Mem :=
  ps.foldl (fun m p => m.write u 4 (base + p.1) p.2) m

/-- The accesses of a unit's words that wait for a migration leave the die's replay queue for the frame's (R117). -/
def State.leaveReplay (s : State) (u : Nat) (ids : List Nat) : State :=
  let D := s.die (dieOf u)
  if D.replay = [] then s
  else s.setDie (dieOf u) { D with
    replay := D.replay.filter fun x => !(decide (x.1 = u) && (decide (2 ^ 32 ≤ x.2.1) || ids.contains x.2.1)) }

/-- A trap of one unit of a group stops the round: every member restarts its panel from the first cycle, with its steps (R275). -/
def State.roundStops (s : State) (u : Nat) : State :=
  match (s.unit u).group with
  | none => s
  | some (g, _) => (SMap.get Group.reset (s.cluster (clusterOf u)).groups g).members.foldl (fun s m =>
      let U := s.unit m.1
      s.setUnit m.1 { U with work := { U.work with mops := U.work.mops.map fun o => if o.shr then { o with seen := [] } else o } }) s

/-- The capabilities that the words of a unit's pass records are to use: those that an earlier trap has kept, else the registers that no
S word is still to write (R301, R436).  A record without C uses none. -/
def UnitSt.keptCaps (U : UnitSt) : List (List (Nat × Cap)) :=
  let now := ((List.range 16).filter fun k => !U.kPend k).map fun k => (k, U.kS k)
  U.walk.passes.map fun r => if !r.mask.contains .C then [] else if r.live ≠ [] then r.live else now

/-- A trap taken in task code (R433). -/
def State.trapTask (s0 : State) (u : Nat) (t : Trap) : State :=
  let s := ((s0.settleBanks u).roundStops u).leaveReplay u (((s0.unit u).work.gone ++ (s0.unit u).work.fl).map (·.id))
  let U0 := (s.unit u).unarrive
  let s0 := s.setUnit u U0
  let base := U0.csr.tframe * 4096
  let ps := frameParts s0 u t
  let m1 := s.mem.wipe (localKey u 1 (base + 0xA50)) 0x5B0
  let m2 := writeParts m1 u (localKey u 1 base) ps
  let m3 := m2.writeTag u 4 (localKey u 1 (base + 0x940)) (U0.regs.getK 14).bytes (U0.regs.getK 14).tag
  let m4 := m3.writeTag u 4 (localKey u 1 (base + 0x950)) (U0.regs.getK 15).bytes (U0.regs.getK 15).tag
  let (saved, live) := U0.work.split
  let kf := Cap.mk' 1 (permR + permW + permC) (flen U0.csr.slipw) base true
  let U1 : UnitSt :=
    { U0 with
      work := { live with nmFail := if t.cause = .nmerr then [] else live.nmFail }
      regs := U0.regs.setK 15 kf
      walk := { U0.walk with arrived := [], fresh := [], waits := [], met := none }
      streams := U0.streams.map fun e => (e.1, { e.2 with buf := [], lines := [] })
      csr := { U0.csr with
        cause := BitVec.ofNat 64 (t.cause.code + t.eng * 2 ^ 11)
        rcstat := if t.cause = .race then bumpRace U0.csr.rcstat else U0.csr.rcstat }
      trap := { U0.trap with
        depth := 1, pend := none, saved := saved, took := U0.trap.took || decide (t.cause = .preempt), caps := U0.keptCaps } }
  let U2 := (U1.setRedir .S none).wakeSpad base (flen U0.csr.slipw)
  let U3 :=
    if t.cause = .xlat ∨ t.cause = .preempt ∨ !U0.csr.vecEn then U2.enterSuper
    else ({ U2 with csr := { U2.csr with uh := true } }).setPc .S U0.csr.vecU
  let s1 := ({ s with mem := m4 }.setUnit u U3.enterKnow).dropFrame u U0
    ((0xA50, 0x5B0) :: (0x940, 32) :: ps.map fun (p : Nat × List Byte) => (p.1, p.2.length))
  let s2 := if t.cause = .preempt ∧ (t.info0 = 0 ∨ t.info0 = 1) then
      (match s1.task U0.id.task with | some T => s1.setTask U0.id.task { T with took := true } | none => s1)
    else s1
  if U0.tape.run = 1 ∧ t.cause ≠ .tapeguard ∧ t.cause ≠ .tapegone then s2.abandon U0.id.task 6 else s2

/-- A trap raised inside a handler at depth 1 (R435): the handler area is written, the supervisor runs at depth 2. -/
def State.trapNested (s0 : State) (u : Nat) (t : Trap) : State :=
  let s := s0.settleBanks u
  let U := s.unit u
  let base := localKey u 1 (U.csr.tframe * 4096)
  let x := ((List.range 8).map fun i => u64 (U.regs.getX (24 + i)).toNat).flatten
  let area := u64 U.csr.cause.toNat ++ u32 (U.pcOf .S) ++ u8 (if U.csr.mode then 1 else 0) ++ pad 3 []
    ++ u64 t.info0 ++ u64 t.info1 ++ x
  let m1 := s.mem.write u 4 (base + 0x980) area
  let m2 := m1.writeTag u 4 (base + 0x9E0) (U.regs.getK 14).bytes (U.regs.getK 14).tag
  let flags := m2.num (.unit u) (base + 0x26) 2
  let m3 := m2.write u 4 (base + 0x26) (u16 (if flags % 2 = 0 then flags + 1 else flags))
  let U1 : UnitSt :=
    { U with
      work := { U.work with nmFail := if t.cause = .nmerr then [] else U.work.nmFail }
      csr := { U.csr with
        cause := BitVec.ofNat 64 (t.cause.code + t.eng * 2 ^ 11 + 2 ^ 15)
        rcstat := if t.cause = .race then bumpRace U.csr.rcstat else U.csr.rcstat }
      trap := { U.trap with
        depth := 2, pend := none, hredir := U.redirOf .S, took := U.trap.took || decide (t.cause = .preempt) } }
  let U2 := ((U1.setRedir .S none).wakeSpad (U.csr.tframe * 4096) (flen U.csr.slipw)).enterSuper
  let s1 := ({ s with mem := m3 }.setUnit u U2.enterKnow).dropFrame u U [(0x26, 2), (0x980, 0x70)]
  if t.cause = .preempt then
    (match s1.task U.id.task with | some T => s1.setTask U.id.task { T with took := true } | none => s1)
  else s1

/-- Taking a trap: R49 with R433 and R435.  At depth 2 the unit stops and its task ends with FAULT. -/
def State.takeTrap (s : State) (u : Nat) (t : Trap) : State :=
  match (s.unit u).trap.depth with
  | 0 => s.trapTask u t
  | 1 => s.trapNested u t
  | _ =>
    let U := s.unit u
    let s1 := { s with hub := { s.hub with log := s.hub.log ++ [(⟨1, u, U.csr.cause.toNat, t.cause.code⟩ : HostEv)] } }
    (s1.setUnit u U.halt).failTask U.id.task stFault

/-! ### Returning from a trap (R442, R323) -/

/-- Whether a text address is the address of a header word: the walk by X lengths from 0 (R298). -/
def isHeader (text : SMap Word32) (len target : Nat) : Nat → Nat → Bool
  | 0, _ => false
  | n + 1, a =>
    if len ≤ a then false
    else if a = target then true
    else if target < a then false
    else isHeader text len target n (a + 1 + fld (SMap.get 0 text a).toNat 28 1)

/-- A task's text holds a header word at an address. -/
def UnitSt.headerAt (U : UnitSt) (a : Nat) : Bool := isHeader U.walk.text U.walk.textLen a (a + 1) 0

/-- A frame field. -/
def State.frameNum (s : State) (u off n : Nat) : Nat :=
  s.mem.num (.unit u) (frameKey u (s.unit u) + off) n
def State.frameBytes (s : State) (u off n : Nat) : List Byte :=
  s.mem.read (.unit u) (frameKey u (s.unit u) + off) n
def State.frameCap (s : State) (u off : Nat) : Cap :=
  ⟨BitVec.ofNat 128 (s.frameNum u off 16), s.mem.tagAt (.unit u) (frameKey u (s.unit u) + off)⟩

/-- The redirect that a frame's word holds. -/
def redirOfWord (w : Nat) : Option Redirect :=
  if fld w 33 2 = 0 then none else some ⟨fld w 0 32, decide (fld w 32 1 = 1), fld w 33 2, none⟩

/-- The predicate that a redirect of S reads, from its BR in the text: `slots` slot words are left before `pc` (R309). -/
def UnitSt.brRead (U : UnitSt) (pc slots : Nat) : Option Nat :=
  let a := pc + slots - 4
  let h := (SMap.get 0 U.walk.text a).toNat
  if 4 ≤ pc + slots ∧ U.headerAt a ∧ fld h 29 3 = 6 ∧ fld h 16 7 = 0 then some (fld h 11 5) else none

/-- The checks that RETI makes on the frame (R442). -/
def State.frameOk (s : State) (u : Nat) : Bool :=
  let U := s.unit u
  decide (s.frameNum u 0x20 4 = flen U.csr.slipw)
    && ((List.range 6).all fun i => decide (s.frameNum u (0x28 + i) 1 ≤ 32))
    && decide (s.frameNum u 0x24 2 ≤ U.csr.slipw)
    && ((List.range 6).all fun i => U.headerAt (s.frameNum u (0x40 + 4 * i) 4))
    && ((List.range 6).all fun i =>
      match redirOfWord (s.frameNum u (0xA20 + 8 * i) 8) with
      | some r => U.headerAt r.tgt
      | none => true)

/-- The pass record that a frame's 48 bytes hold; the word itself stands in the text. -/
def State.framePass (s : State) (u i : Nat) : PassRec :=
  let o := 0x10000 + 48 * i
  let U := s.unit u
  let a := s.frameNum u o 2
  let h := (SMap.get 0 U.walk.text a).toNat
  let l := 1 + fld h 28 1
  let mask := engs.filter fun e => decide (fld (s.frameNum u (o + 2) 1) e.code 1 = 1)
  { addr := a, hdr := h, ext := if l = 2 then (SMap.get 0 U.walk.text (a + 1)).toNat else 0, len := l, mask := mask,
    guard := decide (s.frameNum u (o + 3) 1 % 2 = 1)
    vals := valsFromFrame h ((List.range (min 4 (s.frameNum u (o + 4) 1))).map fun j =>
      BitVec.ofNat 64 (s.frameNum u (o + 16 + 8 * j) 8))
    caps := [], desc := [], relay := [], live := U.trap.caps.getD i [] }

/-- The pass records after a handler has set the saved PC of engine `e` to `pc`: `e` has no more to pass before the first
word at `pc` that it still has to pass. -/
def repass (e : Eng) (pc : Nat) : List PassRec → List PassRec
  | [] => []
  | r :: rs =>
      if r.mask.contains e ∧ r.addr = pc then r :: rs
      else if r.mask.erase e = [] then repass e pc rs
      else { r with mask := r.mask.erase e } :: repass e pc rs

/-- Each engine resumes from its saved PC (R323).  A PC that a handler has changed takes the engine past the words before
it, when S has passed the word at that PC or stands at it. -/
def resumeAt (old new : Eng → Nat) (ps : List PassRec) : List PassRec :=
  others.foldl (fun l e =>
    if new e ≠ old e ∧ (new e = new .S ∨ l.any fun r => r.mask.contains e && decide (r.addr = new e)) then repass e (new e) l
    else l) ps

/-- The walking state that a frame holds (R322). -/
def State.frameWalk (s : State) (u : Nat) : Walk :=
  let W := (s.unit u).walk
  let num := s.frameNum u
  { W with
    pc := (engs.foldl (fun m e => SMap.set 0 m e.code (num (0x40 + 4 * e.code) 4)) [])
    redir := (engs.foldl (fun m e => SMap.set none m e.code ((redirOfWord (num (0xA20 + 8 * e.code) 8)).map fun q =>
      if e = .S then { q with brp := (s.unit u).brRead (num 0x40 4) q.slots } else q)) [])
    tokens := ((fifos.zip (List.range 30)).foldl (fun m p => SMap.set 0 m (fifo p.1.1 p.1.2) (num (0x80 + p.2) 1)) [])
    outq := (others.foldl (fun m e =>
      SMap.set [] m e.code ((List.range (min 16 (num (0x80 + 29 + e.code) 1))).map fun i =>
        Outcome.ofBytes (s.frameBytes u (0x100 + (e.code - 1) * 128 + 8 * i) 8))) [])
    loops := (engs.foldl (fun m e =>
      SMap.set [] m e.code (((List.range 4).map fun i =>
        LoopEnt.ofBytes (s.frameBytes u (0x400 + e.code * 64 + 16 * i) 16)).filter fun l => l.n ≠ 0).reverse) [])
    passes := resumeAt (SMap.get 0 W.pc ·.code) (fun e => num (0x40 + 4 * e.code) 4)
      ((List.range (min 4096 (num 0x24 2))).map (s.framePass u))
    arrived := [], fresh := [], waits := [], met := none }

/-- An access that a migration held, or that is issued again, is translated when it is performed (R117): the key, or what stands
against it. -/
def State.late (s : State) (u : Nat) (p : Place) (kind : AccKind) : Tr :=
  match p.key with
  | some k => .ok k
  | none =>
    if 1 ≤ p.space ∧ p.space ≤ 4 then .ok (localKey u p.space p.addr)
    else match walkVA s.mem (s.unit u).id.root p.addr with
    | .bad l r => .xlat l r
    | .leaf l pte _ => leafTr l pte p.addr p.space kind

/-- The word of a replay entry as the frame's 64 bytes at `o` have it (R441): a handler may have changed them (R442). -/
def State.frameEntry (s : State) (u o : Nat) (f : Flight) : Flight :=
  let num := fun i n => s.frameNum u (o + i) n
  let h := num 0 4
  let fl := num 0x0A 2
  { f with
    hdr := h, ext := num 4 4, addr := num 8 2
    post := if fl % 2 = 0 then none else (match f.post with | some p => some p | none => some (Eng.ofCode (fld h 23 3)))
    guard := decide (fld fl 2 1 = 1), progress := num 0x14 4
    vals := valsFromFrame h ((List.range (min 4 (frameVals f.hdr f.vals).length)).map fun j => BitVec.ofNat 64 (num (0x20 + 8 * j) 8)) }

/-- The replay queue that RETI re-injects (R442): of each engine as many of its saved words as NREPL says, as the frame has
them; what their operations hold beside the entries stands in the operand area, whose layout the spec does not give. -/
def State.frameReplay (s : State) (u : Nat) : Work :=
  let w := (s.unit u).trap.saved
  let fl := (engs.map fun e =>
    let mine := w.fl.filter fun f => f.eng == e
    let n := s.frameNum u (0x28 + e.code) 1
    ((mine.take n).zip (List.range n)).map fun q => s.frameEntry u (0x1000 + e.code * 0x800 + 64 * q.2) q.1).flatten
  let q := if fl.length = w.fl.length then { w with fl := fl } else w.only fl
  let prog := fun (id old : Nat) => ((fl.find? fun f => f.id = id).map (·.progress)).getD old
  { q with
    moves := q.moves.map fun m => if prog m.id m.done = m.done then { m with issued := m.done }
      else { m with done := prog m.id m.done, issued := prog m.id m.done, ahead := [] }
    mops := q.mops.map fun o => if prog o.id o.panel = o.panel then o else { o with panel := prog o.id o.panel, steps := [] } }

/-- Re-injected accesses whose pages are migrating wait at the die again (R117). -/
def State.waitAgain (s : State) (u : Nat) (w : Work) : State :=
  let kind := fun (o : SOp) => match o.kind with
    | .st | .strl | .kst => AccKind.write | .amo _ | .cas => .atomic | _ => .read
  let held := (w.sops.filterMap fun o => match s.late u o.place (kind o) with
      | .mig => some (u, o.id, o.place.addr) | _ => none)
    ++ w.wops.filterMap fun o => (o.stores.find? fun p => match s.late u p.1 .write with | .mig => true | _ => false).map fun p =>
        (u, o.id, p.1.addr)
  let D := s.die (dieOf u)
  if held = [] then s else s.setDie (dieOf u) { D with replay := D.replay ++ held }

/-- DEDUCED, a handler orders the words of every engine that issue after its RETI: what it has learned, they know (R427; log entry
144). -/
def UnitSt.afterHandler (U : UnitSt) : UnitSt := U.learnAll (U.knows .S)

/-- The place of the bytes at an address whose page is migrating: its frame before the move (R116). -/
def State.oldKey (s : State) (u : Nat) (p : Place) : Nat :=
  match p.key with
  | some k => k
  | none => match walkVA s.mem (s.unit u).id.root p.addr with
    | .leaf l pte _ => keyOf (pteTier pte) (pteFrame pte + p.addr % 2 ^ pageBits l)
    | .bad _ _ => 0

/-- An address of a space as a place: those of the scratchpads, the B-store and the host need no translation (R98). -/
def placeAt (u space addr : Nat) : Place :=
  ⟨space, addr, if space = 6 then some (keyOf 4 addr) else if 1 ≤ space ∧ space ≤ 4 then some (localKey u space addr) else none⟩

/-- The bytes of a range in parts of 64 KiB pages (key, bytes, address), as the tables place them, those of a migrating page in its old
frame; a part with no leaf that lets it be accessed has none. -/
def State.tableParts (s : State) (u space a n : Nat) (kind : AccKind) : List (Nat × Nat × Nat) :=
  (List.range ((a + n + 65535) / 65536 - a / 65536)).filterMap fun i =>
    let lo := max a ((a / 65536 + i) * 65536)
    let hi := min (a + n) ((a / 65536 + i + 1) * 65536)
    let p := placeAt u space lo
    match s.late u p kind with
    | .xlat _ _ => none
    | _ => some (s.oldKey u p, hi - lo, lo)

/-- RETI at depth 1 (R442): saved registers, the walking state in the order of R323, the replay queue, the streams. -/
def State.retiTask (s : State) (u : Nat) : State :=
  let U := s.unit u
  let num := s.frameNum u
  let regs0 := ((List.range 8).foldl (fun r i => Regs.setX r (24 + i) (BitVec.ofNat 64 (num (0x900 + 8 * i) 8))) U.regs)
  let regs := (regs0.setK 14 (s.frameCap u 0x940)).setK 15 (s.frameCap u 0x950)
  let streams := (List.range 16).foldl (fun m i =>
    let t := SMap.get Stream.reset m i
    if t.mode = .idle then m
    else
      let pc := num (0x600 + 32 * i) 8
      SMap.set Stream.reset m i { t with pc := pc, ps := pc, buf := [], lines := [] }) U.streams
  let tape := { U.tape with pos := others.foldl (fun m e => SMap.set 0 m e.code (num (0xD0 + 4 * (e.code - 1)) 4)) [] }
  let queue := s.frameReplay u
  (s.waitAgain u queue).setUnit u
    { U with
      regs := regs
      csr := { U.csr with uh := false, mode := false }
      walk := s.frameWalk u
      work := Work.join queue U.work
      streams := streams
      tape := if U.tape.run = 2 then tape else U.tape
      trap := { U.trap with depth := 0, saved := Work.reset, caps := [] } }.afterHandler

/-- RETI at depth 2 (R435, R442): back into the interrupted handler. -/
def State.retiNested (s : State) (u : Nat) : State :=
  let U := s.unit u
  let num := s.frameNum u
  let super := num 0x98C 1 = 1
  let regs0 := ((List.range 8).foldl (fun r i => Regs.setX r (24 + i) (BitVec.ofNat 64 (num (0x9A0 + 8 * i) 8))) U.regs)
  let regs := regs0.setK 14 (s.frameCap u 0x9E0)
  let flags := num 0x26 2
  let m := s.mem.write u 4 (frameKey u U + 0x26) (u16 (flags / 2 * 2))
  let U1 : UnitSt :=
    { U with
      regs := regs
      csr := { U.csr with cause := BitVec.ofNat 64 (num 0x980 8) &&& 0xF8FF, mode := super, uh := !super }
      trap := { U.trap with depth := 1 } }
  ({ s with mem := m }.setUnit u ((U1.setRedir .S U.trap.hredir).setPc .S (num 0x988 4))).dropFrame u U [(0x26, 2)]

end Sys2Proof.Machine
end

