-- ==== Sys2Proof/Machine/TapeStore.lean ====
section
/-! DEFINITION. The jig tape's entries and the recorder (R331 to R347): what S captures for a word (R301), the marks of
registers and the origins of capabilities (R334, R335), entries as 128-bit words (R337, R338), the tape store (R336). -/

namespace Sys2Proof.Machine

/-! ### Captured values (R228, R170, R173, R177, R249, R293, R294, R301) -/

/-- The x registers that S captures for a word, in the order in which its engine uses them. -/
def capturedX (h e : Nat) : List Nat :=
  let op := fld h 16 7
  if fld h 29 3 = 5 then
    let b := fld h 1 5
    let a := fld h 6 5
    if op = 2 then [b, b + 1, b + 2, b + 3, a]
    else if op ≤ 4 then [b, b + 1, b + 2, b + 3]
    else if op = 5 ∨ op = 9 then [a]
    else if op = 8 then [b]
    else []
  else if fld h 29 3 = 2 ∧ fld h 28 1 = 1 ∧ op < 0x30 then
    if op = 0x27 then [fld e 21 5, fld e 21 5 + 1, fld e 10 5]
    else if fld e 1 1 = 1 then [fld e 10 5] else []
  else []

/-- Where a word's guard stands: predicate and sense; p0 with sense 0 for a word without one (R39, R41). -/
def guardField (h e : Nat) : Nat × Nat :=
  let op := fld h 16 7
  let eng := fld h 29 3
  if fld h 28 1 = 0 ∨ eng = 6 then (0, 0)
  else if eng = 0 then
    if op = 0x18 ∨ op = 0x1A ∨ op = 0x1E ∨ op = 0x20 ∨ op = 0x2A ∨ op = 0x2B ∨ op = 0x50 ∨ op = 0x7E then (0, 0)
    else if op = 0x28 ∨ op = 0x29 ∨ (0x30 ≤ op ∧ op ≤ 0x37) ∨ op = 0x40 ∨ op = 0x48 then (fld e 27 5, fld e 26 1)
    else (fld e 5 5, fld e 4 1)
  else if op = 0x7E then (0, 0)
  else if eng = 1 ∨ eng = 3 then if op = 4 then (0, 0) else (fld e 5 5, fld e 4 1)
  else if eng = 2 then (fld e 5 5, fld e 4 1)
  else if eng = 4 then
    if op ≤ 1 then (fld e 27 5, fld e 26 1) else if op = 3 then (fld e 5 5, fld e 4 1) else (0, 0)
  else if op ≤ 4 then (fld e 27 5, fld e 26 1)
  else if op = 8 then (0, 0)
  else (fld e 5 5, fld e 4 1)

/-- Insertion of a register and its value by register number (R338: x values stand in register order). -/
def insReg (p : Nat × Word) : List (Nat × Word) → List (Nat × Word)
  | [] => [p]
  | q :: r => if p.1 < q.1 then p :: q :: r else q :: insReg p r
def sortRegs (l : List (Nat × Word)) : List (Nat × Word) := l.foldl (fun m p => insReg p m) []

/-! ### Marks (R334, R335) -/

def Origin.join (a b : Origin) : Origin :=
  match a, b with
  | .volatile, _ => .volatile
  | _, .volatile => .volatile
  | .clean, o => o
  | o, .clean => o
  | .args f, .args g => .args (f ++ g.filter fun x => !(f.contains x))

def UnitSt.xMark (U : UnitSt) (n : Nat) : Origin := if n = 0 then .clean else SMap.get .clean U.tape.xo n
/-- The mark of a predicate: p0 and the stage predicates are clean, p23 is volatile (R334). -/
def UnitSt.pMark (U : UnitSt) (n : Nat) : Origin :=
  if n = 23 then .volatile else if 1 ≤ n ∧ n ≤ 22 then SMap.get .clean U.tape.po n else .clean
def UnitSt.kMark (U : UnitSt) (n : Nat) : KOrigin := SMap.get .clean U.tape.ko n
def UnitSt.markX (U : UnitSt) (n : Nat) (o : Origin) : UnitSt :=
  if n = 0 then U else { U with tape := { U.tape with xo := SMap.set .clean U.tape.xo n o } }
def UnitSt.markP (U : UnitSt) (n : Nat) (o : Origin) : UnitSt :=
  { U with tape := { U.tape with po := SMap.set .clean U.tape.po n o } }
def UnitSt.markK (U : UnitSt) (n : Nat) (o : KOrigin) : UnitSt :=
  { U with tape := { U.tape with ko := SMap.set .clean U.tape.ko n o } }

/-- The fields of the argument-block layout that a range of the block meets. -/
def fieldsIn (l : List (Nat × Nat × Bool)) (o n : Nat) : List (Nat × Nat) :=
  (l.filter fun f => decide (f.1 < o + n) && decide (o < f.1 + f.2.1)).map fun f => (f.1, f.2.1)

/-- The tape being recorded for a task. -/
def State.recTape (s : State) (t : Nat) : Option Tape := (s.hub.recording.find? fun r => r.1 = t).map (·.2)
def State.setRecTape (s : State) (t : Nat) (T : Tape) : State :=
  { s with hub := { s.hub with recording := s.hub.recording.map fun r => if r.1 = t then (t, T) else r } }

/-- The guards that cover a field (R339): one of its own size, or, for a field above 16 bytes, one for each 16 bytes of it. -/
def guardParts (off n : Nat) : List (Nat × Nat) :=
  if n ≤ 16 then [(off, n)] else (List.range (n / 16)).map fun i => (off + 16 * i, 16)

/-- Guards on a field (R339): each once, at most 32. -/
def State.addGuard (s : State) (t off n : Nat) : State :=
  (guardParts off n).foldl (fun s q =>
    match s.recTape t with
    | none => s
    | some T =>
      if T.guards.any fun g => g.1 = q.1 ∧ g.2.1 = q.2 then s
      else if 32 ≤ T.guards.length then s.abandon t 2
      else s.setRecTape t { T with guards := T.guards ++ [(q.1, q.2, (T.block.drop q.1).take q.2)] }) s

/-- The slot of an argument offset, a new one if it has none (R339); none when there are already 16. -/
def slotOf (T : Tape) (off : Nat) : Option (Nat × Tape) :=
  match T.slots.findIdx? fun x => x.1 = off with
  | some i => some (i, T)
  | none => if 16 ≤ T.slots.length then none else some (T.slots.length, { T with slots := T.slots ++ [(off, 0, 0, 0)] })

/-- A recorded value is used (R334): a volatile mark abandons the tape, an argument mark guards its fields. -/
def State.useMark (s : State) (u : Nat) (o : Origin) : State :=
  let t := (s.unit u).id.task
  if !(s.unit u).recording then s
  else match o with
    | .clean => s
    | .volatile => s.abandon t 5
    | .args f => f.foldl (fun s p => s.addGuard t p.1 p.2) s

/-- What KTEST and KGET learn of a capability. -/
def markOfK (T : Option Tape) (o : KOrigin) : Origin :=
  match o with
  | .clean => .clean
  | .volatile => .volatile
  | .field off => .args [(off, 16)]
  | .slot i _ => .args [(((T.map fun T => T.slots.getD i (0, 0, 0, 0)).getD (0, 0, 0, 0)).1, 16)]

/-- S words that may issue during a recording (R333). -/
def recordable (h : Nat) : Bool :=
  let op := fld h 16 7
  decide (op ≤ 0x28) || (decide (0x2A ≤ op) && decide (op ≤ 0x2E)) || decide (op = 0x30) || decide (op = 0x40)
    || decide (op = 0x41) || decide (op = 0x42) || decide (op = 0x4A) || (decide (0x4C ≤ op) && decide (op ≤ 0x4F))
    || decide (op = 0x60) || (decide (op = 0x61) && decide (fld h 0 11 = 0x070)) || decide (op = 0x7C)
    || decide (op = 0x7E)

/-- The marks that an S word with a true guard leaves (R334, R335).  KSUB with an offset of argument fields guards them.  Of the
A-tagged words that S issues only CALL writes a register, an address of the text. -/
def State.markWord (s : State) (u h e : Nat) : State :=
  let U := s.unit u
  let op := fld h 16 7
  let d := fld h 11 5
  let a := fld h 6 5
  let b := fld h 1 5
  let t := U.id.task
  let X := U.xMark
  let put := fun (V : UnitSt) => s.setUnit u V
  if fld h 29 3 ≠ 0 then (if fld h 29 3 = 6 ∧ op = 2 then put (U.markX d .clean) else s)
  else if op ≤ 0x15 then put (U.markX d ((X a).join (X b)))
  else if op ≤ 0x19 ∨ op = 0x1B ∨ op = 0x1C ∨ op = 0x1D ∨ op = 0x1E then put (U.markX d (X a))
  else if op = 0x1A then put (U.markX d .clean)
  else if op = 0x1F then
    let o := ((X a).join (X (a + 1))).join ((X b).join (X (b + 1)))
    put ((U.markX d o).markX (d + 1) o)
  else if op = 0x20 then put (U.markP d ((X a).join (X b)))
  else if op = 0x21 then put (U.markP d .clean)
  else if op ≤ 0x24 then put (U.markP d ((U.pMark a).join (U.pMark b)))
  else if op = 0x25 then put (U.markP d (U.pMark a))
  else if op = 0x26 then put (U.markX d .volatile)
  else if op = 0x27 then put ((List.range 22).foldl (fun V i => V.markP (i + 1) (X a)) U)
  else if op = 0x28 then put (U.markK d .volatile)
  else if op = 0x2A then
    (match U.kMark a, X b with
     | .volatile, _ => put (U.markK d .volatile)
     | _, .volatile => put (U.markK d .volatile)
     | .slot i dl, _ => (s.useMark u (X b)).setUnit u (((s.useMark u (X b)).unit u).markK d (.slot i (dl + (U.xS b).toNat)))
     | o, _ => (s.useMark u (X b)).setUnit u (((s.useMark u (X b)).unit u).markK d o))
  else if op = 0x2B ∨ op = 0x2C then put (U.markK d (U.kMark a))
  else if op = 0x2D then put (U.markX d .volatile)
  else if op = 0x2E then put (U.markP d (markOfK (s.recTape t) (U.kMark a)))
  else if op = 0x30 then
    let c := U.kS a
    let ad := c.base + ((U.xS b).toNat + signExt (fld e 0 16) 16) % 2 ^ 64
    let n := 2 ^ fld e 24 2
    if c.space = 0 ∧ U.id.args ≤ ad ∧ ad + n ≤ U.id.args + U.id.argsize then
      let lay := ((s.task t).map fun T => T.image.layout).getD []
      put (U.markX d ((X b).join (.args (fieldsIn lay (ad - U.id.args) n))))
    else put (U.markX d .volatile)
  else if op = 0x41 then put (U.markX d .volatile)
  else if op = 0x4A then
    let lay := ((s.task t).map fun T => T.image.layout).getD []
    put (U.markX d ((X a).join (.args (fieldsIn lay (U.xS a).toNat (2 ^ fld h 1 2)))))
  else if op = 0x4F then put (U.markX d .volatile)
  else if op = 0x60 then put (U.markX d (if fld h 0 11 = 0x030 then .clean else .volatile))
  else s

/-- The marks that act when S passes a recorded word or a control word (R334): its captured values, its guard, the
predicate of a BR, the count of a LOOP, the address of a RET.  The T0 of a DSTART whose mark is one 8-byte field is the
exception: the field's offset is recorded in place of a guard.  The register of a DSTAT becomes volatile. -/
def State.passMarks (s : State) (u h e : Nat) : State :=
  let U := s.unit u
  let op := fld h 16 7
  let eng := fld h 29 3
  let isDstart := decide (eng = 5 ∧ op = 9)
  let val : Origin := (capturedX h e).foldl (fun o n => Origin.join o (U.xMark n)) Origin.clean
  let own : Origin :=
    if eng = 6 then
      if op = 0 then U.pMark (fld h 11 5)
      else if op = 4 ∧ fld e 28 1 = 0 then U.xMark (fld h 11 5)
      else if op = 3 then U.xMark (fld h 6 5)
      else .clean
    else U.pMark (guardField h e).1
  let s1 := match isDstart, val with
    | true, .args [(_, 8)] => s.useMark u own
    | _, _ => s.useMark u (val.join own)
  if eng = 5 ∧ op = 0x0B ∧ (s1.unit u).recording then s1.setUnit u ((s1.unit u).markX (fld h 11 5) .volatile) else s1

/-- The argument field that stands for the T0 of a DSTART, by the mark that its register has when S passes it (R334), as one
number: 0 for none, else the field's offset and one. -/
def UnitSt.t0Field (U : UnitSt) (h : Nat) : List Nat :=
  if U.recording ∧ fld h 29 3 = 5 ∧ fld h 16 7 = 9 then
    match U.xMark (fld h 6 5) with
    | .args [(off, 8)] => [off]
    | _ => []
  else []

/-! ### Entries (R337, R338) -/

def e128 (n : Nat) : Word128 := BitVec.ofNat 128 n

def headEntry (h e addr : Nat) (g : Bool) (nopd : Nat) (rly : Bool) : Word128 :=
  e128 (h + e * 2 ^ 32 + addr % 65536 * 2 ^ 64 + ((if g then 1 else 0) + nopd % 8 * 2 + (if rly then 16 else 0)) * 2 ^ 88)
def outcomeEntry (v addr : Nat) (taken yld : Bool) : Word128 :=
  e128 (v % 2 ^ 32 + addr % 65536 * 2 ^ 64 + 2 ^ 80 + ((if taken then 1 else 0) + (if yld then 2 else 0)) * 2 ^ 88)
def markEntry (m addr : Nat) : Word128 := e128 (m + addr % 65536 * 2 ^ 64 + 2 * 2 ^ 80)

/-- x values two to an entry, the last odd one followed by zero. -/
def pairUp : List Word → List Word128
  | [] => []
  | [a] => [e128 a.toNat]
  | a :: b :: r => e128 (a.toNat + b.toNat * 2 ^ 64) :: pairUp r
def unpair : List Word128 → List Word
  | [] => []
  | a :: r => BitVec.ofNat 64 a.toNat :: BitVec.ofNat 64 (a.toNat / 2 ^ 64) :: unpair r

/-- A capability item (R338). -/
def capItem (c : Cap) (slot : Option (Nat × Nat)) : Word128 :=
  let hi := c.bits.toNat / 2 ^ 64 * 2 ^ 64
  let t := if c.tag then 2 ^ 62 else 0
  match slot with
  | some (i, dl) => e128 (hi + 2 ^ 63 + t + i * 2 ^ 58 + dl % 2 ^ 57)
  | none => e128 (hi + t + c.bits.toNat % 2 ^ 57)
/-- The capability of an unpatched item. -/
def itemCap (w : Word128) : Cap :=
  ⟨e128 (w.toNat / 2 ^ 64 * 2 ^ 64 + w.toNat % 2 ^ 57), decide (fld w.toNat 62 1 = 1)⟩
def itemPatched (w : Word128) : Bool := decide (fld w.toNat 63 1 = 1)
def itemSlot (w : Word128) : Nat := fld w.toNat 58 4
def itemDelta (w : Word128) : Nat := fld w.toNat 0 57

/-- An item as replay uses it, given the new capability of each slot (R343). -/
def rebind (slots : List Cap) (w : Word128) : Word128 :=
  if itemPatched w then
    let n := slots.getD (itemSlot w) Cap.null
    capItem ⟨e128 (w.toNat / 2 ^ 64 * 2 ^ 64 + (n.base + itemDelta w) % 2 ^ 64), true⟩ none
  else w

/-- How many operand entries of a head entry hold x values and a descriptor; the others are capability items. -/
def isSgo (h : Nat) : Bool := (decide (fld h 29 3 = 1) || decide (fld h 29 3 = 3)) && decide (fld h 16 7 = 3)
def xEntries (h e : Nat) : Nat := ((capturedX h e).length + 1) / 2

/-- The 64 descriptor bytes and the start position, as numbers of 128 bits. -/
def Desc.bytes (d : Desc) : List Byte :=
  toBytes 1 d.fmt ++ toBytes 1 ((if d.widen then 1 else 0) + d.rnd * 2) ++ toBytes 1 d.vlen ++ toBytes 1 d.kd
    ++ toBytes 1 d.ks ++ toBytes 1 0 ++ toBytes 2 d.scstr ++ toBytes 8 d.off ++ toBytes 4 d.scoff ++ toBytes 4 0
    ++ (d.cnt.map fun c => toBytes 2 (c - 1)).flatten ++ toBytes 4 0
    ++ (d.str.map fun t => toBytes 4 (t % 4294967296).toNat).flatten
def Desc.ofBytes (l : List Byte) (p0 : Nat) (kD kS : Cap) : Desc :=
  let f := fun o n => Machine.ofBytes ((l.drop o).take n)
  { fmt := f 0 1, widen := decide (f 1 1 % 2 = 1), rnd := f 1 1 / 2 % 4, vlen := f 2 1, kd := f 3 1, ks := f 4 1,
    scstr := f 6 2, off := f 8 8, scoff := f 16 4
    cnt := (List.range 6).map fun i => f (24 + 2 * i) 2 + 1
    str := (List.range 6).map fun i => (BitVec.ofNat 32 (f (40 + 4 * i) 4)).toInt
    p0 := p0, capD := kD, capS := kS, orgD := .clean, orgS := .clean }

/-- The entries of a replay's segment at an engine's position, as the record that the engine acts on (R343).  An
outcome entry stands as a record with an empty mask: a YIELD's for the engine, any other as a foreign word. -/
def segRec (e : Eng) : List Word128 → Option (PassRec × Nat)
  | [] => none
  | w :: r =>
    let n := w.toNat
    let a := fld n 64 16
    match fld n 80 8 with
    | 0 =>
      let h := fld n 0 32
      let x := fld n 32 32
      let nop := fld n 89 3
      let ops := r.take nop
      let nx := xEntries h x
      let regs := capturedX h x
      let sorted := sortRegs (regs.map fun k => (k, (0 : Word)))
      let vals := (sorted.zip (unpair (ops.take nx))).map fun p => (p.1.1, p.2)
      let rest := ops.drop nx
      let isD := isSgo h && decide (4 < rest.length)
      let desc := if isD then (rest.take 5).map (·.toNat) else []
      let caps := (if isD then rest.drop 5 else rest).map itemCap
      let rly := fld n 92 1 = 1
      let counts := if rly then (List.range 5).map fun i => fld ((r.drop nop).headD 0).toNat (16 * i) 16 else []
      some ({ addr := a, hdr := h, ext := x, len := 1 + fld h 28 1, mask := [e], guard := decide (fld n 88 1 = 1),
              vals := regs.map fun k => ((vals.find? fun p => p.1 = k).map (·.2)).getD 0, caps := caps, desc := desc,
              relay := counts, live := [] }, 1 + nop + (if rly then 1 else 0))
    | 1 => some ({ addr := a, hdr := if fld n 89 1 = 1 then 0xC0050000 else 0, ext := 0, len := 1, mask := [],
                   guard := true, vals := [], caps := [], desc := [], relay := [], live := [] }, 1)
    | _ => some ({ addr := a, hdr := 0x004E0000 + fld n 0 6, ext := 0, len := 1, mask := [e], guard := true,
                   vals := [], caps := [], desc := [], relay := [], live := [] }, 1)

/-- The replay position of an engine, in entries, and what stands there. -/
def UnitSt.segAt (U : UnitSt) (e : Eng) : Option (PassRec × Nat) :=
  segRec e ((SMap.get [] U.tape.segs e.code).drop (SMap.get 0 U.tape.pos e.code))

/-- The record that engine `e` acts on next: the oldest pass record it has still to pass, or the tape's next entry. -/
def UnitSt.nextRec (U : UnitSt) (e : Eng) : Option PassRec :=
  if U.tape.run = 2 then (U.segAt e).map (·.1) else U.recOf e

/-- Engine `e` goes past that record. -/
def UnitSt.passNext (U : UnitSt) (e : Eng) : UnitSt :=
  if U.tape.run = 2 then
    match U.segAt e with
    | none => U
    | some (_, n) => { U with tape := { U.tape with pos := SMap.modify 0 U.tape.pos e.code (· + n) } }
  else U.passRec e

/-! ### The store (R336) -/

def segBlocks (segs : List (List Word128)) : Nat := (segs.map fun g => (g.length + 255) / 256).sum

/-- Blocks that a tape holds in a cluster's store. -/
def Tape.blocks (T : Tape) (c : Nat) : Nat :=
  ((List.range T.tiles).map fun r =>
    if SMap.get 1000 T.where_ r = c then segBlocks (SMap.get [] T.tracks r) else 0).sum

/-- What engine `e` of a replay has still to read of its segment. -/
def TapeSt.unread (T : TapeSt) : List (List Word128) := T.segs.map fun q => q.2.drop (SMap.get 0 T.pos q.1)

/-- Blocks in use in a cluster's store: of tapes, of the segments that its units are recording, and of the unread entries that a
resumed replay has brought with it (R346). -/
def State.blocksUsed (s : State) (c : Nat) : Nat :=
  (s.hub.tapes.map fun T => T.blocks c).sum
    + ((List.range 8).map fun i =>
        let U := s.unit (c * 8 + i)
        if U.tape.run = 1 then segBlocks (U.tape.segs.map (·.2))
        else if U.tape.run = 2 ∧ U.tape.restored ∧ U.run ≠ .free then segBlocks U.tape.unread else 0).sum

/-! ### What the tape rules read of a task (R358) -/

def Task.guaranteed (T : Task) : Bool := decide (fld T.hdr 11 1 = 1)
def Task.fallback (T : Task) : Bool := decide (fld T.hdr 10 1 = 1)
def Task.replays (T : Task) : Bool := decide (fld T.hdr 9 1 = 1)
def Task.records (T : Task) : Bool := decide (fld T.hdr 8 1 = 1)
def Task.prio (T : Task) : Nat := fld T.hdr 16 2
def Task.tapeid (T : Task) : Nat := fld T.hdr 32 16
def Task.unfinished (T : Task) : Bool := decide (T.st ≠ .done)

/-! ### Holds (R346) -/

/-- Changes to one tape of the directory. -/
def State.mapTape (s : State) (P : Tape) (f : Tape → Tape) : State :=
  { s with hub := { s.hub with tapes := s.hub.tapes.map fun x => if x = P then f x else x } }

/-- A task holds a tape (R346), last replayed at `used`, and lets go of every tape it holds; invalid tapes that nobody holds go. -/
def State.holdTape (s : State) (t used : Nat) (P : Tape) : State :=
  s.mapTape P fun x => { x with heldBy := t :: x.heldBy.erase t, used := used }
def State.releaseTapes (s : State) (t : Nat) : State :=
  { s with hub := { s.hub with
    tapes := (s.hub.tapes.map fun x => { x with heldBy := x.heldBy.erase t }).filter fun x => x.valid || x.heldBy ≠ [] } }

/-- A tape is held: a replay of it has begun and its task has not ended, or an admitted guaranteed task with REPLAY and
FALLBACK = 0 names it. -/
def State.tapeHeld (s : State) (P : Tape) : Bool :=
  decide (P.heldBy ≠ []) || s.hub.tasks.any fun q => match q.2 with
    | some T => T.unfinished && decide (T.admitted ≠ 0) && T.replays && !T.fallback && decide (T.tapeid = P.id)
        && (match SMap.get none s.hub.graphs T.graph with | some G => decide (G.asid = P.asid) | none => false)
    | none => false

/-! ### Room -/

/-- The tape to evict in a cluster: the least recently replayed one that is not held. -/
def State.evictable (s : State) (c : Nat) : Option Tape :=
  (s.hub.tapes.filter fun T => !s.tapeHeld T && decide (0 < T.blocks c)).foldl
    (fun b T => match b with | none => some T | some B => if T.used < B.used then some T else some B) none

/-- Eviction until `need` blocks are free, if it can be done. -/
def State.makeRoom (s : State) (c need : Nat) : Nat → Option State
  | 0 => if s.blocksUsed c + need ≤ 128 then some s else none
  | n + 1 =>
    if s.blocksUsed c + need ≤ 128 then some s
    else match s.evictable c with
      | none => none
      | some T => State.makeRoom { s with hub := { s.hub with tapes := s.hub.tapes.filter fun x => x ≠ T } } c need n

/-- Entries appended to the segment of an engine; with no block free the recording ends with FULL (R336, R347). -/
def State.tapeAppend (s : State) (u : Nat) (e : Eng) (es : List Word128) : State :=
  let U := s.unit u
  if U.tape.run ≠ 1 then s
  else
    let seg := SMap.get [] U.tape.segs e.code
    let need := segBlocks [seg ++ es] - segBlocks [seg]
    match s.makeRoom (clusterOf u) need 256 with
    | none => s.abandon U.id.task 1
    | some s1 =>
      let V := s1.unit u
      s1.setUnit u { V with tape := { V.tape with
        segs := SMap.set [] V.tape.segs e.code (seg ++ es), entries := V.tape.entries + es.length } }

/-- The capability items of a word, with the patch slots and guards they need (R335, R339). -/
def State.recordCaps (s : State) (u : Nat) : List (Cap × KOrigin) → State × List Word128
  | [] => (s, [])
  | (c, o) :: r =>
    let t := (s.unit u).id.task
    match o with
    | .clean => let q := s.recordCaps u r; (q.1, capItem c none :: q.2)
    | .volatile => let q := (s.abandon t 5).recordCaps u r; (q.1, capItem c none :: q.2)
    | .field off => let q := (s.addGuard t off 16).recordCaps u r; (q.1, capItem c none :: q.2)
    | .slot i dl =>
      let s1 := match s.recTape t with
        | none => s
        | some T => s.setRecTape t { T with slots := T.slots.modify i fun x =>
            (x.1, c.space, max x.2.2.1 (dl + c.len), x.2.2.2 ||| c.perm) }
      let q := s1.recordCaps u r
      (q.1, capItem c (some (i, dl)) :: q.2)

/-- The first issue of a recording, from which its duration counts (R351); one is added so that 0 says none yet. -/
def State.firstIssue (s : State) (u : Nat) : State :=
  let t := (s.unit u).id.task
  if (s.unit u).inHandler then s else
  match s.recTape t with
  | some T => if T.dur = 0 then s.setRecTape t { T with dur := s.time.toNat + 1 } else s
  | none => s

/-- The recorder's entry for a word that an engine issues (R331, R332, R338). -/
def State.recordIssue (s : State) (u : Nat) (e : Eng) (r : PassRec) (g : Bool) (desc : Option Desc)
    (caps : List (Cap × KOrigin)) : State :=
  let U := s.unit u
  if U.tape.run ≠ 1 then s
  else
    let s := s.firstIssue u
    let regs := capturedX r.hdr r.ext
    let t0 := r.desc.head?
    let xs := match t0 with
      | some off => [e128 (off + 2 ^ 64)]
      | none => pairUp ((sortRegs (regs.zip r.vals)).map (·.2))
    let ds := match desc with
      | none => []
      | some d => ((List.range 4).map fun i => e128 (ofBytes ((d.bytes.drop (16 * i)).take 16))) ++ [e128 d.p0]
    let (s1, items) := s.recordCaps u (if g then caps else [])
    let fromS := (fld r.hdr 26 2) % 2 = 1 ∧ fld r.hdr 23 3 = 0 ∧ fld r.hdr 29 3 ≠ 6
    let q := SMap.get [] U.tape.relayq e.code
    let rel := if fromS then [e128 (((q.headD []).zip (List.range 5)).map fun p => p.1 % 65536 * 2 ^ (16 * p.2)).sum] else []
    let V := s1.unit u
    let s2 := s1.setUnit u (if fromS then { V with tape := { V.tape with
      relayq := SMap.set [] V.tape.relayq e.code q.tail } } else V)
    let ops := xs ++ ds ++ items
    s2.tapeAppend u e (headEntry r.hdr r.ext r.addr g ops.length fromS :: (ops ++ rel))

end Sys2Proof.Machine
end

