-- ==== Sys2Proof/Machine/Issue.lean ====
section
/-! DEFINITION. Issuing a word (R298 to R306, R325, R331): what the S engine does at its PC, what the other engines do at
their next pass record, and the two ways in which every instruction word goes through them. -/

namespace Sys2Proof.Machine

/-- What a word's own part gives: the word does not issue, a trap with its INFO words
(and the state in which it is taken), it issues as this flight (and, for a LOOP
without trips, its engine moves on to the address given), or it has
set the whole state itself. -/
inductive Res where
  | stall (s : State)
  | trap (c : Cause) (i0 i1 : Nat)
  | trapAt (s : State) (c : Cause) (i0 i1 : Nat)
  | go (s : State) (f : Flight)
  | goTo (s : State) (f : Flight) (n : Nat)
  | jump (s : State)

/-- The engines of a unit run: its cluster has a clock (R385, R410), it holds a task, and no trap waits to be taken. -/
def State.runs (s : State) (u : Nat) : Bool :=
  let C := s.cluster (clusterOf u)
  decide ((s.unit u).run = .running) && decide ((s.unit u).trap.pend = none) && !C.clk.relock
    && !(s.die (dieOf u)).gated

/-! ### The word at an engine's place -/

/-- The word at S's PC as a record: header, extension, guard (R214) and the values that S captures (R301). -/
def State.hereS (s : State) (u : Nat) : PassRec :=
  let U := s.unit u
  let a := U.pcOf .S
  let h := s.textAt U a
  let l := 1 + fld h 28 1
  let x := if l = 2 then s.textAt U (a + 1) else 0
  let g := guardField h x
  { addr := a, hdr := h, ext := x, len := l, mask := others, guard := U.guardAt .S g.1 g.2
    vals := (capturedX h x).map U.xS, caps := [], desc := [], relay := [], live := [] }

/-- The record of the word that an engine has before it. -/
def State.here (s : State) (u : Nat) (e : Eng) : Option PassRec :=
  if e = .S then some (s.hereS u) else (s.unit u).nextRec e

/-- The effective guard: of p0 to p23 the value S gave it, of p24 to p31 the engine's own stage predicate; at a replay
the recorded result (R214, R331). -/
def State.guardOf (s : State) (u : Nat) (e : Eng) (r : PassRec) (g : XP) : Bool :=
  let U := s.unit u
  match g with
  | none => true
  | some q =>
    if e = .S then U.guardAt .S q.pr q.sense
    else if q.pr < 24 ∨ U.tape.run = 2 then r.guard else U.guardAt e q.pr q.sense

/-- The register banks that a word's last-use hints name (R222): XV LA and LB on V and L words, the FS v bit on W and M
words.  They are static, so a word whose guard is false has them too (R42). -/
def hintsOf (h e : Nat) : List Nat :=
  let op := fld h 16 7
  let eng := fld h 29 3
  if fld h 28 1 = 1 ∧ ((eng = 2 ∧ op < 0x30) ∨ ((eng = 1 ∨ eng = 3) ∧ op = 1)) then
    (if fld e 3 1 = 1 then [fld e 29 3] else []) ++ (if fld e 2 1 = 1 ∧ fld e 1 1 = 0 then [fld e 18 3] else [])
      ++ (if eng = 3 ∧ fld h 0 1 = 1 then [fld h 9 3] else [])
  else if ((eng = 3 ∧ op ≤ 2) ∨ (eng = 4 ∧ op ≤ 1)) ∧ fld h 0 1 = 1 then [fld h 9 3]
  else []

/-- The flight of a word before its own part has filled it in. -/
def UnitSt.flightOf (U : UnitSt) (e : Eng) (r : PassRec) (tk : Tok) (g : Bool) : Flight :=
  { id := U.work.nextId, eng := e, hdr := r.hdr, ext := r.ext, addr := r.addr, wait := .done, post := tk.posts,
    guard := g, eff := [], rd := [], wr := [], hints := hintsOf r.hdr r.ext, vals := r.vals, caps := [], progress := 0,
    know := [], acts := [] }

/-! ### Conditions before issue -/

/-- What stands before a word's own part. -/
inductive Gate where
  | pass
  | hold (s : State)
  deriving DecidableEq, Repr

/-- A watched wait is counted from its first cycle (R305, R306). -/
def State.beginWait (s : State) (u : Nat) (e : Eng) : State :=
  let U := s.unit u
  if U.waitOf e = 0 then s.setUnit u (U.setWait e 1) else s

/-- A watched wait of a word for its queue, stream or group begins (R306). -/
def State.beginOwn (s : State) (u : Nat) (e : Eng) : State :=
  let U := s.unit u
  if U.ownWaitOf e = 0 then s.setUnit u (U.setOwnWait e 1) else s

/-- The token that a word waits for is there (R303); a replay takes relay counts in place of S's tokens (R332). -/
def UnitSt.tokenThere (U : UnitSt) (e : Eng) (r : PassRec) (tk : Tok) : Bool :=
  match tk.waits with
  | none => true
  | some p =>
    if U.tape.run = 2 ∧ p = .S then
      (r.relay.zip (others.map Eng.code)).all fun q => decide (q.1 ≤ SMap.get 0 U.tape.relay q.2)
    else decide (0 < U.tokens p e)

/-- An engine holds at most 32 words that have issued and not retired (R441).  DESIGN CHOICE, a retired S word whose access waits for a
migration counts among them, since a trap gives it one of the 32 replay entries (R117; log entry 154). -/
def UnitSt.full (U : UnitSt) (e : Eng) : Bool := decide (32 ≤ ((U.work.gone ++ U.work.fl).filter fun f => f.eng == e).length)

/-- S may pass a word of `len` words without going above the slip limit (R302); a handler has no slip (R436). -/
def UnitSt.slipOk (U : UnitSt) (len : Nat) : Bool :=
  U.inHandler || decide (slipOf U.walk.passes + len ≤ U.csr.slipw)

/-- A register of the scoreboard is pending: x n as n, k n as 32 + n. -/
def UnitSt.pending (U : UnitSt) (regs : List Nat) : Bool :=
  regs.any fun r => if r < 32 then U.xPend r else U.kPend (r - 32)

/-- A WAIT that has issued and not retired: its engine issues nothing until it retires (R179). -/
def UnitSt.waitHeld (U : UnitSt) (e : Eng) : Bool :=
  U.work.fl.any fun f => f.eng == e && decide (fld f.hdr 16 7 = 0x7E) && decide (fld f.hdr 29 3 ≠ 6)

/-- A rendezvous word, or a YIELD, at which an engine arrives once its earlier words have issued (R317). -/
def isMeet (h : Nat) : Bool := decide (fld h 29 3 = 6) && decide (5 ≤ fld h 16 7) && decide (fld h 16 7 ≤ 9)

/-- The gate of a word that engine `e` has before it: token first, then an unretired WAIT, the flight limit, and for S the
slip and, with a true guard, the scoreboard (R42, R179, R302, R303, R327, R441). -/
def State.gate (s : State) (u : Nat) (e : Eng) (r : PassRec) (tk : Tok) (g : Bool) (regs : List Nat) : Gate :=
  let U := s.unit u
  if !U.tokenThere e r tk then .hold (s.beginWait u e)
  else if U.waitHeld e ∨ (U.full e ∧ !isMeet r.hdr) then .hold s
  else if e = .S ∧ !U.slipOk r.len then .hold s
  else if e = .S ∧ g ∧ U.pending regs then .hold s
  else .pass

/-- S stalls while a context transfer, or the relocks of an OPREQ or OPREL, last (R403, R404, R450). -/
def UnitSt.sHeld (U : UnitSt) : Bool :=
  U.work.sops.any fun o => o.kind == .ctxsave || o.kind == .ctxload || o.kind == .opreq || o.kind == .oprel

/-! ### Going past a word -/

/-- A pass record for the other five engines (R301), none in a handler (R436). -/
def UnitSt.addRec (U : UnitSt) (r : PassRec) : UnitSt :=
  if U.inHandler then U else { U with walk := { U.walk with passes := U.walk.passes ++ [r] } }

/-- S goes past a word: its pass record, and its PC moves on. -/
def UnitSt.sPast (U : UnitSt) (r : PassRec) : UnitSt := (U.addRec r).advance .S r.addr r.len

/-- Engine `e` goes past its record; at a replay its PC stays (R343). -/
def UnitSt.ePast (U : UnitSt) (e : Eng) (r : PassRec) : UnitSt :=
  let V := U.passNext e
  if U.tape.run = 2 then V else V.advance e r.addr r.len

/-- Engine `e` goes past the word of record `r`: to the next word, by a redirect, or to the address given. -/
def UnitSt.past (U : UnitSt) (e : Eng) (r : PassRec) (dst : Option Nat) : UnitSt :=
  match dst with
  | none => if e = .S then U.sPast r else U.ePast e r
  | some n =>
    let V := if e = .S then U.addRec r else U.passNext e
    if U.tape.run = 2 then V else V.seqTo e n

/-- The pop of a WAIT (R303): the FIFO loses a token, and its producer may retire a word that waited to push. -/
def UnitSt.popToken (U : UnitSt) (e : Eng) (tk : Tok) : UnitSt :=
  match tk.waits with
  | none => U
  | some p =>
    if U.tape.run = 2 ∧ p = .S then U
    else
      let V := U.setTokens p e (U.tokens p e - 1)
      let W := if e = .S ∧ U.tape.run = 1 then
          { V with tape := { V.tape with popped := SMap.modify 0 V.tape.popped p.code (· + 1) } } else V
      W.retire p

/-- A recording keeps, with each token that S posts, how many POST-to-S tokens S has popped (R332). -/
def UnitSt.relayPost (U : UnitSt) (e : Eng) (tk : Tok) : UnitSt :=
  match tk.posts with
  | none => U
  | some p =>
    if e = .S ∧ U.tape.run = 1 then
      let counts := others.map fun q => SMap.get 0 U.tape.popped q.code
      { U with tape := { U.tape with relayq := SMap.modify [] U.tape.relayq p.code (fun l => l ++ [counts]) } }
    else U

/-- A later S word writes the register that an atomic in progress would return its old value to: the value that program
order leaves is the later word's. -/
def SOp.overwritten (o : SOp) (f : Flight) : SOp :=
  match o.kind with
  | .amo _ => if o.id ≠ f.id ∧ f.wr.contains o.d then { o with d := 0 } else o
  | .cas => if o.id ≠ f.id ∧ f.wr.contains o.d then { o with d := 0 } else o
  | _ => o

/-- The header of a DSTAT whose register a later S word has written: it names x0 instead. -/
def dropDstat (wr : List Nat) (h : Nat) : Nat := if wr.any fun d => isDstatOf h d then h - fld h 11 5 * 2 ^ 11 else h

/-- An S word writes its registers: a DSTAT that S has passed and that is not performed no longer writes them. -/
def UnitSt.cancelDstat (U : UnitSt) (wr : List Nat) : UnitSt :=
  { U with
    walk := { U.walk with
      passes := U.walk.passes.map fun r => if r.mask.contains .C then { r with hdr := dropDstat wr r.hdr } else r }
    work := { U.work with
      fl := U.work.fl.map fun g =>
        if g.eng = .C ∧ wr.any (fun d => isDstatOf g.hdr d) then { g with hdr := dropDstat wr g.hdr, eff := [] } else g } }

/-- What a recorder keeps of a word: its descriptor and its capabilities. -/
structure Rec where
  desc : Option Desc
  caps : List (Cap × KOrigin)
  deriving DecidableEq, Repr

/-- A unit's arrival at a barrier of its task is a release of what S has accessed and knows (R162, R416). -/
def State.barTell (s : State) (u n : Nat) : State :=
  let U := s.unit u
  match s.task U.id.task with
  | some T =>
    if U.coveredS = [] then s
    else s.setTask U.id.task { T with barKnow := SMap.modify [] T.barKnow n fun l => uni l U.coveredS }
  | none => s

/-- What the order of memory makes of a word that issues (R415, R416): its unit's part, the record that a QPOP takes, the arrival
of a BAR, the start of a Dovetail run and the DSTAT that reads its end. -/
def State.orderWord (s : State) (u : Nat) (e : Eng) (r : PassRec) (f0 : Flight) : State × Flight :=
  let q := (s.unit u).order u e r f0 (s.oldKey u)
  let U := q.1.forgetRaces e r.addr
  let f := q.2
  let op := fld r.hdr 16 7
  let s1 := s.setUnit u U
  if !f.guard then (s1, f)
  else if fld r.hdr 29 3 = 0 then
    if op = 0x3A then
      let c := clusterOf u
      let C := s1.cluster c
      let k := U.id.task * 8 + U.id.stage
      let p := popRel (SMap.get [] C.stageRel k) ((SMap.get [] C.stageq k).length + 1) 1
      let w := U.orderEvent u f p.1
      ((if C.stageRel = [] then s1 else s1.setCluster c { C with stageRel := SMap.set [] C.stageRel k p.2 }).setUnit u w.1, w.2)
    else if op = 0x39 ∨ (op = 0x49 ∧ fld r.hdr 6 5 = 1) then
      let w := U.orderEvent u f []
      (s1.setUnit u w.1, w.2)
    else if op = 0x3B then (s1.barTell u (fld r.hdr 3 3), f)
    else (s1, f)
  else if fld r.hdr 29 3 = 5 then
    if op = 0x09 then
      (s1.setUnit u { U with dove := { U.dove with know := uni (U.knows .C) (SMap.get [] U.hb.told Eng.C.code) } }, f)
    else if op = 0x0B ∧ 3 ≤ U.dove.status then (s1.setUnit u (U.learn .C U.dove.know), { f with know := uni f.know U.dove.know })
    else (s1, f)
  else (s1, f)

/-- A word issues as flight `f`: pop, pass, recording, retirement of what may retire.  `s` already holds what the word's
own part has done. -/
def State.issue (s : State) (u : Nat) (e : Eng) (r : PassRec) (tk : Tok) (f : Flight) (rc : Rec)
    (dst : Option Nat) : State :=
  let sr := if e = .S then
      (if !(s.unit u).recording then s else if f.guard then (s.firstIssue u).markWord u r.hdr r.ext else s.firstIssue u)
    else s.recordIssue u e r f.guard rc.desc rc.caps
  let so := sr.orderWord u e r f
  let s0 := so.1
  let f := so.2
  let V := s0.unit u
  let U := if e = .S ∧ f.wr ≠ [] then V.cancelDstat f.wr else V
  let U1 := { U with work := { U.work with
    fl := U.work.fl ++ [f], nextId := f.id + 1
    sops := if e = Eng.S then U.work.sops.map (fun o => SOp.overwritten o f) else U.work.sops } }
  let U2 := (((U1.popToken e tk).relayPost e tk).setWait e 0).setOwnWait e 0
  let U2 := { U2 with walk := { U2.walk with fresh := U2.walk.fresh.erase e } }
  s0.setUnit u ((U2.past e r dst).retire e)

/-- INFO words of UND, SLOT and TEXT (R440): address and header. -/
def PassRec.trapHere (r : PassRec) (c : Cause) : Res := .trap c r.addr r.hdr

/-- The end of every word's issue. -/
def State.settle (s : State) (u : Nat) (e : Eng) (r : PassRec) (tk : Tok) (rc : Rec) (x : Res) : Out :=
  match x with
  | .stall s1 => .next s1
  | .trap c i0 i1 => .next (s.takeTrap u ⟨c, e.code, i0, i1⟩)
  | .trapAt s1 c i0 i1 => .next (s1.takeTrap u ⟨c, e.code, i0, i1⟩)
  | .go s1 f => .next (s1.issue u e r tk f rc none)
  | .goTo s1 f n => .next (s1.issue u e r tk f rc (some n))
  | .jump s1 => .next s1

/-- A Read stream empties its read-ahead (R204). -/
def Stream.rewindAhead (t : Stream) : Stream := { t with ps := t.pc, buf := [], lines := [] }

/-- The read-ahead that the words of engine `e` would take is emptied: streams whose CONS is that engine or none (R204). -/
def UnitSt.dropAhead (U : UnitSt) (e : Eng) : UnitSt :=
  let mine : Nat := if e = .L then 1 else 2
  { U with streams := U.streams.map fun q =>
      (q.1, if q.2.mode = .read ∧ (q.2.cons = 0 ∨ q.2.cons = mine) then q.2.rewindAhead else q.2) }

/-- Before an L or M word pops its token, its engine's read-ahead is emptied, once for the word (R204). -/
def State.freshen (s : State) (u : Nat) (e : Eng) (tk : Tok) : State :=
  let U := s.unit u
  if (e = .L ∨ e = .M) ∧ tk.waits ≠ none ∧ !U.walk.fresh.contains e then
    let V := U.dropAhead e
    s.setUnit u { V with walk := { V.walk with fresh := e :: V.walk.fresh } }
  else s

/-- A word whose guard is false gives its last-use hints (R42): those of the register banks stand in the flight, and an SDROP's
are the scratchpad banks of its stream (R133, R198). -/
def Flight.hintOnly (f : Flight) (U : UnitSt) : Flight :=
  if (f.eng = .L ∨ f.eng = .W) ∧ fld f.hdr 16 7 = 6 then
    let t := SMap.get Stream.reset U.streams (fld f.hdr 12 4)
    match t.mode, t.active with
    | .idle, _ => f
    | _, some d => { f with eff := [.sdrop d.banks] }
    | _, none => f
  else f

/-- A word of an engine: token, flight limit, slip and scoreboard, guard, then its own part (R42).  `regs` are the
registers of S's scoreboard. -/
def State.word (s : State) (tk : Tok) (g : XP) (regs : List Nat) (rc : State → PassRec → Rec)
    (body : State → UnitSt → PassRec → Flight → Res) : Out :=
  let u := s.who.1
  let e := s.who.2
  if 768 ≤ u then .fault (.noSuchUnit u)
  else if !s.runs u then .next s
  else
    match s.here u e with
    | none => .next s
    | some r =>
      let U := s.unit u
      let gv := s.guardOf u e r g
      if U.inHandler ∧ tk ≠ .none then .next (s.takeTrap u ⟨.und, e.code, r.addr, r.hdr⟩)
      else if (U.inHandler ∧ e ≠ .S) ∨ (e = .S ∧ U.sHeld) then .next s
      else
        match s.gate u e r tk gv regs with
        | .hold s1 => .next s1
        | .pass =>
          let f := U.flightOf e r tk gv
          let s2 := s.freshen u e tk
          if gv then s2.settle u e r tk (rc s r) (body s2 (s2.unit u) r f)
          else .next (s2.issue u e r tk (f.hintOnly U) ⟨none, []⟩ none)

/-- A recording is abandoned by an S word that may not issue during one (R333). -/
def State.swordCheck (s : State) : State :=
  let u := s.who.1
  let U := s.unit u
  if U.tape.run = 1 ∧ !U.inHandler ∧ !recordable (s.hereS u).hdr ∧ s.runs u then s.abandon U.id.task 4 else s

/-- An S word. -/
def State.sWord (s : State) (tk : Tok) (g : XP) (regs : List Nat)
    (body : State → UnitSt → PassRec → Flight → Res) : Out :=
  State.word s.swordCheck tk g regs (fun _ _ => ⟨none, []⟩) body

/-- An S word that acts when every earlier S word has retired. -/
def State.sSerial (s : State) (tk : Tok) (g : XP) (regs : List Nat)
    (body : State → UnitSt → PassRec → Flight → Res) : Out :=
  s.sWord tk g regs fun s U r f =>
    if U.work.fl.any fun f => f.eng == .S then .stall s else body s U r f

/-- A word of L, V, W or M, which uses no capability of its own. -/
def State.eWord (s : State) (tk : Tok) (g : XP) (body : State → UnitSt → PassRec → Flight → Res) : Out :=
  State.word s tk g [] (fun _ _ => ⟨none, []⟩) body

/-! ### S passes a word of another engine (R298, R301) -/

/-- The limits on captured values that S checks as part of check 5 (R228, R247, R251, R252). -/
def captureOk (h : Nat) (vals : List Word) : Bool :=
  let op := fld h 16 7
  let v := (vals.headD 0).toNat
  if fld h 29 3 ≠ 2 then true
  else if op = 0x25 then decide (v ≤ 64)
  else if op = 0x28 ∨ op = 0x29 then vals = [] || (decide (1 ≤ v) && decide (v ≤ 64))
  else true

/-- S waits on its scoreboard for a value that it is to capture (R228); a word that S knows to be guarded off uses none. -/
def PassRec.waitsX (r : PassRec) (U : UnitSt) : Bool :=
  (r.guard || decide (24 ≤ (guardField r.hdr r.ext).1)) && U.pending (capturedX r.hdr r.ext)

/-- S passes a word that another engine will issue. -/
def State.sPass (s : State) (u : Nat) : State :=
  let U := s.unit u
  let r := s.hereS u
  if U.inHandler then s.setUnit u (U.sPast r)
  else if r.waitsX U ∨ !U.slipOk r.len then s
  else if r.guard ∧ !captureOk r.hdr r.vals then s.takeTrap u ⟨.und, fld r.hdr 29 3, r.addr, r.hdr⟩
  else
    let s1 := s.passMarks u r.hdr r.ext
    s1.setUnit u ((s1.unit u).sPast { r with desc := U.t0Field r.hdr })

/-- Engine `e` passes over the foreign words before it, at most `n` of them (R299); a JMARK among them leaves its mark
entry and counts toward TAPESTAT.MARK (R331, R356). -/
def State.passOver (s : State) (u : Nat) (e : Eng) : Nat → State
  | 0 => s
  | n + 1 =>
    match (s.unit u).nextRec e with
    | none => s
    | some r =>
      if issues e r.hdr then s
      else
        let V := (s.unit u).ePast e r
        let s1 := s.setUnit u V
        if fld r.hdr 29 3 = 0 ∧ fld r.hdr 16 7 = 0x4E then
          ((s1.setUnit u (V.passMark e (fld r.hdr 0 6))).tapeAppend u e [markEntry (fld r.hdr 0 6) r.addr]).passOver u e n
        else s1.passOver u e n

/-! ### Fetching -/

/-- What an engine's next act is: a word to run, a trap of the S checks, a word that S passes, or nothing. -/
inductive Fetch where
  | word (i : Instr)
  | trap (t : Trap)
  | pass
  | idle
  deriving DecidableEq, Repr

/-- Predicates that an S word writes, for the slot rule (R309). -/
def writesPred (h p : Nat) : Bool :=
  let op := fld h 16 7
  decide (fld h 29 3 = 0) &&
    (((decide (op ≥ 0x20) && decide (op ≤ 0x25) || decide (op = 0x2E)) && decide (fld h 11 5 = p))
      || (decide (op = 0x27) && decide (1 ≤ p) && decide (p ≤ 22)))

/-- Check 6 of R33: the word may stand in the delay slot it stands in (R308, R309). -/
def slotOk (r : Option Redirect) (h len : Nat) : Bool :=
  match r with
  | none => true
  | some r =>
    decide (len ≤ r.slots)
      && !(decide (fld h 29 3 = 6) && decide (fld h 16 7 ≤ 9))
      && !(decide (fld h 29 3 = 0) && (decide (fld h 16 7 = 0x62) || decide (fld h 16 7 = 0x63)))
      && (match r.brp with | some p => !writesPred h p | none => true)

/-- S at its PC (R33, R34): the checks in their order, and what the word is to S.  The limits on captured values belong to
check 5 (R228), which S makes once the values are there.  DESIGN CHOICE, where the PC has reached the text length no word stands
there: TEXT names engine 0 and its INFO1 is 0 (log entry 115). -/
def State.fetchS (s : State) (u : Nat) : Fetch :=
  let U := s.unit u
  let a := U.pcOf .S
  let h := s.textAt U a
  let eng := fld h 29 3
  if U.tlen ≤ a then .trap ⟨.text, 0, a, 0⟩
  else
    match decodeWords h (if a + 1 < U.tlen then some (s.textAt U (a + 1)) else none) with
    | .error .noExt => .trap ⟨.text, eng, a, h⟩
    | .error .noHeader => .trap ⟨.text, eng, a, h⟩
    | .error _ => .trap ⟨.und, eng, a, h⟩
    | .ok i =>
      let r := s.hereS u
      let other := decide (eng ≠ 0) && decide (eng ≠ 6) && !U.inHandler
      if other ∧ r.waitsX U then .pass
      else if other ∧ r.guard ∧ !captureOk h r.vals then .trap ⟨.und, eng, a, h⟩
      else if !slotOk (U.redirOf .S) h (1 + fld h 28 1) then .trap ⟨.slot, eng, a, h⟩
      else if eng = 0 ∨ eng = 6 then .word i
      else if U.inHandler ∧ eng = 2 ∧ 0x30 ≤ fld h 16 7 ∧ fld h 16 7 ≤ 0x33 then .word i
      else .pass

/-- Another engine at its next word. -/
def State.fetchE (s : State) (u : Nat) (e : Eng) : Fetch :=
  match (s.unit u).nextRec e with
  | none => .idle
  | some r =>
    match decodeWords r.hdr (if r.len = 2 then some r.ext else none) with
    | .ok i => .word i
    | .error _ => .idle

/-- What engine `e` of unit `u` does next, in a state where it has passed over foreign words. -/
def State.fetch (s : State) (u : Nat) (e : Eng) : Fetch := if e = .S then s.fetchS u else s.fetchE u e

/-- The state in which engine `e` of unit `u` acts: foreign words passed over, and `who` set. -/
def State.approach (s : State) (u : Nat) (e : Eng) : State :=
  let s1 := if e ≠ .S ∧ s.runs u ∧ !(s.unit u).inHandler then s.passOver u e 4096 else s
  { s1 with who := (u, e) }

end Sys2Proof.Machine
end

