-- ==== Sys2Proof/Machine/Operands.lean ====
section
/-! DEFINITION. Operand forms of S words: immediates, register pairs, memory operands (R43, R150, R326). -/

namespace Sys2Proof

/-- The guard of an XM word. -/
def XM.grd (m : XM) : XP := some ⟨m.pr, m.sense⟩
/-- The guard of an XV word. -/
def XV.grd (x : XV) : XP := some ⟨x.pr, x.sense⟩
/-- The guard of an XC word. -/
def XC.grd (c : XC) : XP := some ⟨c.pr, c.sense⟩
/-- The guard of an XMM word. -/
def XMM.grd (m : XMM) : XP := some ⟨m.pr, m.sense⟩

end Sys2Proof

namespace Sys2Proof.Machine

/-- SignExt(v, n) of R47 as a 64-bit word. -/
def sxWord (v n : Nat) : Word := BitVec.ofNat 64 (signExt v n)

/-- A Boolean as an x value. -/
def boolWord (b : Bool) : Word := if b then 1 else 0

/-- The pair (x[n + 1], x[n]) as S reads it (R326). -/
def UnitSt.pairS (U : UnitSt) (n : Nat) : Word128 :=
  BitVec.ofNat 128 ((U.xS n).toNat + (U.xS (n + 1)).toNat * 2 ^ 64)

/-- An S word that writes one x register. -/
def State.xWord (s : State) (tk : Tok) (g : XP) (d : Nat) (rd : List Nat) (v : UnitSt → Word) : Out :=
  s.sWord tk g rd fun s U _ f => .go s { f with eff := [.x d (v U)], wr := [d] }

/-- An S word whose x result takes several cycles (R327); `alone` says that no second word of its kind runs beside it. -/
def State.xLong (s : State) (tk : Tok) (g : XP) (d : Nat) (rd : List Nat) (alone : Bool) (v : UnitSt → Word) : Out :=
  s.sWord tk g rd fun s U _ f =>
    if alone && U.work.fl.any fun q =>
        q.eng == .S && decide (q.wait = .arith) && decide (0x0B ≤ fld q.hdr 16 7) then .stall s
    else .go s { f with eff := [.x d (v U)], wr := [d], wait := .arith }

/-- An S word that writes one predicate (R328). -/
def State.pWord (s : State) (tk : Tok) (g : XP) (d : Nat) (rd : List Nat) (v : UnitSt → Bool) : Out :=
  s.sWord tk g rd fun s U _ f => .go s { f with eff := [.p d (v U)] }

/-- The predicate as S reads it at its place. -/
def UnitSt.pS (U : UnitSt) (n : Nat) : Bool := U.predAt .S n

/-- The offset o of an XM word (R43): x[b] + SignExt(XM[15:0], 16), modulo 2^64. -/
def UnitSt.memOff (U : UnitSt) (b : Nat) (m : XM) : Nat := ((U.xS b).toNat + signExt m.off 16) % 2 ^ 64

/-- INFO0 and INFO1 of KBOUND, KPERM, KTAG and ALIGN (R440). -/
def capInfo (k size addr : Nat) : Nat := k % 16 + Nat.log2 size * 2 ^ 8 + addr % 65536 * 2 ^ 32

end Sys2Proof.Machine
end

