-- ==== Sys2Proof/Machine/Control.lean ====
section
/-! DEFINITION. The A-tagged words (R307 to R321, R217): control words and outcome queues, staged loops, rendezvous
words, NOP.  S resolves, the other engines follow. -/

namespace Sys2Proof.Machine

/-! ### Outcome queues (R307) -/

def UnitSt.outOf (U : UnitSt) (e : Eng) : List Outcome := SMap.get [] U.walk.outq e.code
def UnitSt.setOut (U : UnitSt) (e : Eng) (l : List Outcome) : UnitSt :=
  { U with walk := { U.walk with outq := SMap.set [] U.walk.outq e.code l } }
/-- Every queue has room for one more of its 16 outcomes. -/
def UnitSt.outRoom (U : UnitSt) : Bool := others.all fun e => decide ((U.outOf e).length < 16)
def UnitSt.pushOut (U : UnitSt) (o : Outcome) : UnitSt := others.foldl (fun V e => V.setOut e (V.outOf e ++ [o])) U

/-- An A-tagged word: S's part, and the part of an engine that follows; at a replay it has no action of its own (R343). -/
def State.aWord (s : State) (sPart : State → UnitSt → PassRec → Flight → Res)
    (ePart : State → UnitSt → Eng → PassRec → Flight → Res) : Out :=
  State.word s .none none [] (fun _ _ => ⟨none, []⟩) fun s U r f =>
    if s.who.2 = .S then sPart s U r f
    else if U.tape.run = 2 then .go s f
    else ePart s U s.who.2 r f

/-- The redirect of a control word of `len` words: it takes effect after the word and its two slots (R308). -/
def redirectFrom (len tgt : Nat) (taken : Bool) (brp : Option Nat) : Redirect := ⟨tgt, taken, len + 2, brp⟩

/-- An engine pops its outcome (R307); a recording keeps it (R331). -/
def State.popOut (s : State) (u : Nat) (e : Eng) (r : PassRec) (o : Outcome) : State :=
  let U := s.unit u
  let s1 := s.setUnit u (U.setOut e (U.outOf e).tail)
  match o with
  | .jump t g => s1.tapeAppend u e [outcomeEntry g r.addr t false]
  | .trip t => s1.tapeAppend u e [outcomeEntry t r.addr false false]
  | .yields y => s1.tapeAppend u e [outcomeEntry 0 r.addr y true]

/-- A control word at S (R311): TEXT and the loop rules of R315, then the outcome and the redirect.  `tgt` is the target as
an integer; `inLoop` says whether the word may stand in a loop body. -/
def State.jumpS (s : State) (U : UnitSt) (r : PassRec) (f : Flight) (taken : Bool) (tgt : Int) (inLoop : Bool)
    (brp : Option Nat) : Res :=
  let u := s.who.1
  let body := if U.inHandler then none else (U.loopsOf .S).head?
  let badPlace : Bool := match body with
    | some l => !inLoop || decide (l.b1 < r.addr + r.len + 1)
    | none => false
  let leaves : Bool := match body with
    | some l => decide (tgt < l.b0) || decide ((l.b1 : Int) < tgt)
    | none => false
  if badPlace then .trap .und r.addr r.hdr
  else if taken ∧ (tgt < 0 ∨ (U.tlen : Int) ≤ tgt) then .trap .text r.addr r.hdr
  else if taken ∧ leaves then .trap .und r.addr r.hdr
  else if U.inHandler then .go (s.setUnit u (U.setRedir .S (some (redirectFrom r.len tgt.toNat taken brp)))) f
  else if !U.outRoom then .stall s
  else
    let s1 := s.passMarks u r.hdr r.ext
    let V := (s1.unit u).pushOut (.jump taken (tgt.toNat % 2 ^ 64))
    .go (s1.setUnit u (V.setRedir .S (some (redirectFrom r.len tgt.toNat taken brp)))) f

/-- A control word at another engine: its outcome, then the slots and the target (R307, R308). -/
def State.jumpE (s : State) (U : UnitSt) (e : Eng) (r : PassRec) (f : Flight) : Res :=
  match (U.outOf e).head? with
  | some (.jump t g) =>
    let s1 := s.popOut s.who.1 e r (.jump t g)
    .go (s1.setUnit s.who.1 ((s1.unit s.who.1).setRedir e (some (redirectFrom r.len g t none)))) f
  | _ => .stall s

/-- A branch target: the word's address plus SignExt(XB, 32) (R39). -/
def branchTo (addr imm32 : Nat) : Int := (addr : Int) + (BitVec.ofNat 32 imm32).toInt

def execBr (d sense imm32 : Nat) (s : State) : Out :=
  s.aWord (fun s U r f => s.jumpS U r f (U.guardAt .S d sense) (branchTo r.addr imm32) true (some d)) State.jumpE

def execJmp (imm32 : Nat) (s : State) : Out :=
  s.aWord (fun s U r f => s.jumpS U r f true (branchTo r.addr imm32) true none) State.jumpE

/-- The link of a CALL is written now (R311), and again as the word retires, after the S words before it. -/
def Res.link (x : Res) (u d : Nat) (v : Word) : Res :=
  match x with
  | .go s f => .go (s.setUnit u { s.unit u with regs := (s.unit u).regs.setX d v }) f
  | other => other

/-- CALL writes its link at once: the slot words see it (R311). -/
def execCall (d imm32 : Nat) (s : State) : Out :=
  s.aWord
    (fun s U r f =>
      let v : Word := BitVec.ofNat 64 (r.addr + 4)
      (s.jumpS U r { f with eff := [.x d v], wr := [d] } true (branchTo r.addr imm32) false none).link s.who.1 d v)
    State.jumpE

/-- RET reads the whole 64-bit value; a pending load into x[a] holds S (R310). -/
def execRet (a : Nat) (s : State) : Out :=
  s.aWord
    (fun s U r f => if U.xPend a then .stall s else s.jumpS U r f true ((U.xS a).toNat : Int) false none) State.jumpE

/-- Whether the last word of a body is the header of a two-word instruction (R315): the text is walked from B0. -/
def bodyEndsInHeader (U : UnitSt) (b1 : Nat) : Nat → Nat → Bool
  | 0, _ => false
  | n + 1, a =>
    let l := 1 + fld (SMap.get 0 U.walk.text a).toNat 28 1
    if a = b1 then decide (l = 2) else if b1 < a then false else bodyEndsInHeader U b1 n (a + l)

/-- What every engine does at a LOOP (R313): the body, or on past it. -/
def State.enterLoop (s : State) (u : Nat) (e : Eng) (f : Flight) (addr bodyLen n t : Nat) : Res :=
  let b0 := addr + 2
  let b1 := addr + 1 + bodyLen
  if t = 0 then .goTo s f (b1 + 1)
  else
    let U := s.unit u
    .go (s.setUnit u (U.setLoops e (⟨b0, b1, n, t, 0⟩ :: U.loopsOf e))) f

/-- LOOP at S (R312 to R315). -/
def State.loopS (s : State) (U : UnitSt) (r : PassRec) (f : Flight) (d : Nat) (l : XL) : Res :=
  let u := s.who.1
  let bodyLen := l.body + 1
  let b1 := r.addr + 1 + bodyLen
  let t := if l.ci = 1 then l.trip else (U.xS d).toNat
  let nestBad : Bool := match (U.loopsOf .S).head? with
    | some q => decide (q.b1 < b1)
    | none => false
  if U.inHandler then .trap .und r.addr r.hdr
  else if l.ci = 0 ∧ U.xPend d then .stall s
  else if nestBad ∨ bodyEndsInHeader U b1 4097 (r.addr + 2) then .trap .und r.addr r.hdr
  else if 2 ^ 32 ≤ t then .trap .und r.addr r.hdr
  else if U.tlen ≤ b1 then .trap .text r.addr r.hdr
  else if 4 ≤ (U.loopsOf .S).length ∧ t ≠ 0 then .trap .und r.addr r.hdr
  else if !U.outRoom then .stall s
  else
    let s1 := s.passMarks u r.hdr r.ext
    (s1.setUnit u ((s1.unit u).pushOut (.trip t))).enterLoop u .S f r.addr bodyLen (l.nst + 1) t

def execLoop (d : Nat) (l : XL) (s : State) : Out :=
  s.aWord (fun s U r f => s.loopS U r f d l) fun s U e r f =>
    match (U.outOf e).head? with
    | some (.trip t) => (s.popOut s.who.1 e r (.trip t)).enterLoop s.who.1 e f r.addr (l.body + 1) (l.nst + 1) t
    | _ => .stall s

/-- NOP with no engine: one issue cycle in every engine; it works in a handler too (R436). -/
def execNopA (s : State) : Out := s.aWord (fun s _ _ f => .go s f) fun s _ _ _ f => .go s f

/-! ### Rendezvous words (R317 to R321) -/

/-- The engine arrives.  S, which has not passed the word, gives the others their record of it. -/
def State.arrive (s : State) (u : Nat) (e : Eng) (r : PassRec) : State :=
  let U := s.unit u
  if U.walk.arrived.contains e then s
  else
    let V := if e = .S then U.addRec { r with relay := [1] } else U
    s.setUnit u { V with walk := { V.walk with arrived := V.walk.arrived ++ [e] } }

/-- All engines have arrived; at a replay S counts as arrived (R343). -/
def UnitSt.allArrived (U : UnitSt) : Bool :=
  (others.all fun e => U.walk.arrived.contains e) && (decide (U.tape.run = 2) || U.walk.arrived.contains .S)

/-- Every word that the unit has issued has been performed (R318): none is in flight, since a word makes its effects as it
retires, and no operation of one is left. -/
def UnitSt.quiet (U : UnitSt) : Bool :=
  decide (U.work.fl = []) && decide (U.work.sops = []) && decide (U.work.wops = [])
    && decide (U.work.moves = []) && decide (U.work.mops = [])

/-- The head entry that a recording keeps of a rendezvous word. -/
def State.meetEntry (s : State) (u : Nat) (e : Eng) (r : PassRec) : State :=
  s.tapeAppend u e [headEntry r.hdr r.ext r.addr true 0 false]

/-- The rendezvous acts: every engine goes past the word (R317); the first issue of a recording may be this one (R351). -/
def State.meetPast (s : State) (u : Nat) (r : PassRec) (isYield : Bool) : State :=
  let s1 := others.foldl (fun s e =>
    let s0 := if isYield ∧ (s.unit u).tape.run ≠ 2 then s.popOut u e r (.yields true) else s
    (if isYield then s0 else s0.meetEntry u e r).setUnit u
      (((if isYield then s0 else s0.meetEntry u e r).unit u).ePast e r)) (s.firstIssue u)
  let U := s1.unit u
  let V := if U.tape.run = 2 then U else U.advance .S r.addr r.len
  s1.setUnit u { V with walk := { V.walk with arrived := [], met := none } }

/-- A rendezvous word: arrive, and with the last arrival act, if the word's own condition lets it. -/
def State.meet (s : State) (r : PassRec) (isYield : Bool) (ready : UnitSt → Bool) (act : State → State ⊕ Trap) : Res :=
  let u := s.who.1
  let s1 := s.arrive u s.who.2 r
  let U := s1.unit u
  if U.allArrived ∧ ready U then
    match act s1 with
    | .inl s2 => .jump (s2.meetPast u r isYield)
    | .inr t => .jump (s1.takeTrap u t)
  else .jump s1

/-- A rendezvous word in a handler raises UND (R436). -/
def State.rendezvous (s : State) (ready : UnitSt → Bool) (act : State → PassRec → State ⊕ Trap) : Out :=
  State.word s .none none [] (fun _ _ => ⟨none, []⟩) fun s U r _ =>
    if U.inHandler then .trap .und r.addr r.hdr else s.meet r false ready fun t => act t r

/-- BLEND and BRET raise BANKOWN at the word (R217, R440). -/
def bankTrap (b : Nat) (r : PassRec) : Trap := ⟨.bankown, 6, b, r.addr⟩

/-- A word that writes the bank has issued and has not written it: a V word writes as it retires, an L or M word as it is
performed. -/
def UnitSt.writesPending (U : UnitSt) (b : Nat) : Bool :=
  U.work.fl.any fun f => f.eng != .S && (f.eng == .V || decide (f.wait ≠ .done)) && f.wr.contains b
/-- An M word that reads or writes the bank has issued and is not performed. -/
def UnitSt.matrixPending (U : UnitSt) (b : Nat) : Bool :=
  U.work.fl.any fun f => f.eng == .M && decide (f.wait ≠ .done) && (f.wr.contains b || f.rd.contains b)

def execBlend (d : Nat) (s : State) : Out :=
  s.rendezvous (fun _ => true) fun s r =>
    let U := s.unit s.who.1
    if !U.allocated d ∨ U.inMatrix d ∨ U.writesPending d then .inr (bankTrap d r)
    else .inl (s.setUnit s.who.1 { U with bind := U.bind ||| BitVec.ofNat 8 (2 ^ d) })

def execBret (d : Nat) (s : State) : Out :=
  s.rendezvous (fun _ => true) fun s r =>
    let U := s.unit s.who.1
    if !U.allocated d ∨ !U.inMatrix d ∨ U.matrixPending d then .inr (bankTrap d r)
    else .inl (s.setUnit s.who.1 { U with bind := U.bind &&& ~~~(BitVec.ofNat 8 (2 ^ d)) })

/-- SYNC (R318). -/
def execSync (s : State) : Out := s.rendezvous UnitSt.quiet fun s _ => .inl (s.setUnit s.who.1 (s.unit s.who.1).syncAll)

/-- END: each engine stops when it arrives; UNIT_END does the rest (R320). -/
def execEndW (s : State) : Out := s.rendezvous (fun _ => false) fun s _ => .inl s

/-- A YIELD whose outcome is yield, once every engine has arrived and all is performed: the cooperative save (R319,
R447), with every PC at the word after it. -/
def State.yieldMeet (s : State) (r : PassRec) : Res :=
  let u := s.who.1
  let s1 := s.arrive u s.who.2 r
  let U := s1.unit u
  if U.allArrived ∧ U.quiet then .jump ((s1.meetPast u r true).takeTrap u ⟨.preempt, 0, 1, 0⟩) else .jump s1

/-- YIELD (R319): S reads p23; at a replay the five engines meet at the outcome entry and p23 is read once (R343). -/
def execYield (s : State) : Out :=
  State.word s .none none [] (fun _ _ => ⟨none, []⟩) fun s U r f =>
    let u := s.who.1
    let e := s.who.2
    if U.inHandler then .trap .und r.addr r.hdr
    else if U.tape.run = 2 then
      if r.mask ≠ [] then .go s f
      else
        let s1 := s.arrive u e r
        let V := s1.unit u
        if !V.allArrived then .jump s1
        else if V.walk.met = none ∧ !V.csr.preq then .jump (s1.meetPast u r true)
        else (s1.setUnit u { V with walk := { V.walk with met := some true } }).yieldMeet r
    else if e = .S then
      if U.walk.arrived.contains .S then s.yieldMeet r
      else if !U.outRoom then .stall s
      else
        let s1 := s.setUnit u (U.pushOut (.yields U.csr.preq))
        if U.csr.preq then s1.yieldMeet r else if U.full .S then .stall s else .go s1 f
    else
      match (U.outOf e).head? with
      | some (.yields false) => if U.full e then .stall s else .go (s.popOut u e r (.yields false)) f
      | some (.yields true) => s.yieldMeet r
      | _ => .stall s

end Sys2Proof.Machine
end

