-- ==== Sys2Proof/Machine/Flags.lean ====
section
/-! DEFINITION. The arithmetic flags of VSTAT (R82, R83) as numbers that are combined by bitwise or. -/

namespace Sys2Proof.Machine

def fNX : Nat := 1
def fUF : Nat := 2
def fOF : Nat := 4
def fDZ : Nat := 8
def fNV : Nat := 16
def fQSAT : Nat := 64
def fQZ : Nat := 128
def fMNX : Nat := 1024
def fMOF : Nat := 2048
def fMNAN : Nat := 4096

/-- Flags of several lanes, ORed (R83). -/
def orFlags (l : List Nat) : Nat := l.foldl (fun a b => a ||| b) 0

/-- The effect that sets flags at retire. -/
def flagEff (fl : Nat) : List Eff := if fl = 0 then [] else [.vstat (BitVec.ofNat 64 fl)]

/-- VSTAT.FTZ (R80). -/
def UnitSt.ftz (U : UnitSt) : Bool := U.csr.vstat.getLsbD 15

/-- NX and OF of a rounding in the matrix engine as MNX and MOF (R90, R92). -/
def matrixFlags (fl : Nat) : Nat :=
  (if fl % 2 = 1 then fMNX else 0) + (if fl / 4 % 2 = 1 then fMOF else 0)

end Sys2Proof.Machine
end

