-- ==== Sys2Proof/Machine/Float.lean ====
section
/-! DEFINITION. Exact arithmetic and rounding (R77 to R81, R84), L6 (R85 to R91, R94, R95), Philox (R96).  A value is kept
exactly as a sign, a natural number and a power of two; `sticky` says that the value lies strictly between the number and
its successor, which is how quotients, roots, exponentials and logarithms are carried to their one rounding. -/

namespace Sys2Proof.Machine

/-- An exact value. -/
inductive Ex where
  | nan
  | inf (neg : Bool)
  | fin (neg : Bool) (num : Nat) (exp : Int) (sticky : Bool)
  deriving DecidableEq, Repr

/-- The rounding modes of R37: 0 RNE, 1 RZ, 2 RU, 3 RD. -/
def roundsUp (mode : Nat) (neg : Bool) : Bool := (decide (mode = 2) && !neg) || (decide (mode = 3) && neg)

/-- num × 2^k as an integer, for k of either sign: floor, and whether a part is lost. -/
def scaleNat (num : Nat) (k : Int) : Nat × Bool :=
  if 0 ≤ k then (num * 2 ^ k.toNat, false) else (num / 2 ^ (-k).toNat, decide (num % 2 ^ (-k).toNat ≠ 0))

/-- The integer that a rounding mode takes, and whether it is inexact: `k` is the power of two of the quantum relative to
the number's own. -/
def roundInt (mode : Nat) (neg : Bool) (num : Nat) (k : Int) (sticky : Bool) : Nat × Bool :=
  if k ≤ 0 then
    let m := num * 2 ^ (-k).toNat
    (if sticky && roundsUp mode neg then m + 1 else m, sticky)
  else
    let q := 2 ^ k.toNat
    let m := num / q
    let r := num % q
    let inexact := sticky || decide (r ≠ 0)
    let up :=
      if mode = 0 then
        decide (q < 2 * r) || (decide (2 * r = q) && (sticky || decide (m % 2 = 1)))
      else inexact && roundsUp mode neg
    (if up then m + 1 else m, inexact)

/-- A format by its precision: 24 for FP32, 8 for BF16; both have FP32's exponents (R77, R84). -/
def signBit (p : Nat) (neg : Bool) : Nat := if neg then 2 ^ (p + 7) else 0
def infBits (p : Nat) : Nat := 255 * 2 ^ (p - 1)
def canonNan (p : Nat) : Nat := infBits p + 2 ^ (p - 2)

/-- RoundF32 of R78 and its BF16 counterpart (R84), with the flags; `ftz` is the flush of R80. -/
def roundEx (p : Nat) (ftz : Bool) (mode : Nat) (x : Ex) : Nat × Nat :=
  match x with
  | .nan => (canonNan p, 0)
  | .inf neg => (signBit p neg + infBits p, 0)
  | .fin neg num exp sticky =>
    if num = 0 ∧ !sticky then (signBit p neg, 0)
    else
      let top : Int := (Nat.log2 num : Int) + exp
      let e := max top (-126)
      let k := e - (p - 1) - exp
      let (m0, inexact) := roundInt mode neg num k sticky
      let (m, e) := if m0 = 2 ^ p then (2 ^ (p - 1), e + 1) else (m0, e)
      if 127 < e then
        (if mode = 0 ∨ roundsUp mode neg then signBit p neg + infBits p else signBit p neg + infBits p - 1, fNX + fOF)
      else
        let tiny := decide (top < -126)
        let fl := if inexact then (if tiny then fNX + fUF else fNX) else 0
        if ftz ∧ m ≠ 0 ∧ m < 2 ^ (p - 1) then (signBit p neg, fNX + fUF)
        else (signBit p neg + (e + 126).toNat * 2 ^ (p - 1) + m, fl)

/-- What a lane's bits stand for: the exact value, and whether it is a signalling NaN; `ftz` reads a subnormal as zero
(R80). -/
def readF (p : Nat) (ftz : Bool) (bits : Nat) : Ex × Bool :=
  let neg := decide (bits / 2 ^ (p + 7) % 2 = 1)
  let e := bits / 2 ^ (p - 1) % 256
  let f := bits % 2 ^ (p - 1)
  if e = 255 then
    if f = 0 then (.inf neg, false) else (.nan, decide (f / 2 ^ (p - 2) % 2 = 0))
  else if e = 0 then (if ftz then (.fin neg 0 0 false, false) else (.fin neg f (-126 - (p - 1)) false, false))
  else (.fin neg (f + 2 ^ (p - 1)) ((e : Int) - 127 - (p - 1)) false, false)

/-- NV for a signalling NaN among the inputs. -/
def sigNV (b : Bool) : Nat := if b then fNV else 0

/-- A signed integer times a power of two; an exact zero takes the sign given. -/
def exOfInt (v : Int) (exp : Int) (zneg : Bool) : Ex :=
  if v = 0 then .fin zneg 0 0 false else .fin (decide (v < 0)) v.natAbs exp false

def Ex.neg (x : Ex) : Ex :=
  match x with
  | .nan => .nan | .inf n => .inf (!n) | .fin n a e s => .fin (!n) a e s

/-- The exact sum (R79 for a zero result), and NV for opposite infinities. -/
def exAdd (mode : Nat) (a b : Ex) : Ex × Nat :=
  match a, b with
  | .nan, _ => (.nan, 0)
  | _, .nan => (.nan, 0)
  | .inf x, .inf y => if x = y then (.inf x, 0) else (.nan, fNV)
  | .inf x, _ => (.inf x, 0)
  | _, .inf y => (.inf y, 0)
  | .fin n1 a1 e1 _, .fin n2 a2 e2 _ =>
    let e := min e1 e2
    let v1 : Int := (a1 * 2 ^ (e1 - e).toNat : Nat)
    let v2 : Int := (a2 * 2 ^ (e2 - e).toNat : Nat)
    let v := (if n1 then -v1 else v1) + (if n2 then -v2 else v2)
    (exOfInt v e (if n1 = n2 then n1 else decide (mode = 3)), 0)

/-- The exact product, and NV for infinity times zero. -/
def exMul (a b : Ex) : Ex × Nat :=
  match a, b with
  | .nan, .nan => (.nan, 0)
  | .nan, _ => (.nan, 0)
  | _, .nan => (.nan, 0)
  | .inf x, .inf y => (.inf (x != y), 0)
  | .inf x, .fin y n _ _ => if n = 0 then (.nan, fNV) else (.inf (x != y), 0)
  | .fin x n _ _, .inf y => if n = 0 then (.nan, fNV) else (.inf (x != y), 0)
  | .fin x n e _, .fin y m f _ => (.fin (x != y) (n * m) (e + f) false, 0)

/-- The quotient with enough bits for one rounding (R235 for its special cases). -/
def exDiv (a b : Ex) : Ex × Nat :=
  match a, b with
  | .nan, _ => (.nan, 0)
  | _, .nan => (.nan, 0)
  | .inf _, .inf _ => (.nan, fNV)
  | .inf x, .fin y _ _ _ => (.inf (x != y), 0)
  | .fin x _ _ _, .inf y => (.fin (x != y) 0 0 false, 0)
  | .fin x n e _, .fin y m f _ =>
    if m = 0 then (if n = 0 then (.nan, fNV) else (.inf (x != y), fDZ))
    else if n = 0 then (.fin (x != y) 0 0 false, 0)
    else
      let k := 40 + Nat.log2 m
      (.fin (x != y) (n * 2 ^ k / m) (e - f - k) (decide (n * 2 ^ k % m ≠ 0)), 0)

/-- Integer square root from bit `b` down. -/
def isqrtFrom (n : Nat) : Nat → Nat → Nat
  | 0, r => r
  | b + 1, r => if (r + 2 ^ b) * (r + 2 ^ b) ≤ n then isqrtFrom n b (r + 2 ^ b) else isqrtFrom n b r
def isqrt (n : Nat) : Nat := isqrtFrom n (Nat.log2 n / 2 + 1) 0

/-- √a (R235). -/
def exSqrt (a : Ex) : Ex × Nat :=
  match a with
  | .nan => (.nan, 0)
  | .inf neg => if neg then (.nan, fNV) else (.inf false, 0)
  | .fin neg n e _ =>
    if n = 0 then (.fin neg 0 0 false, 0)
    else if neg then (.nan, fNV)
    else
      let k : Nat := 80 + (e % 2).toNat
      let m := n * 2 ^ k
      let r := isqrt m
      (.fin false r ((e - k) / 2) (decide (r * r ≠ m)), 0)

/-- 1 / √a (R235). -/
def exRsq (a : Ex) : Ex × Nat :=
  match a with
  | .nan => (.nan, 0)
  | .inf neg => if neg then (.nan, fNV) else (.fin false 0 0 false, 0)
  | .fin neg n e _ =>
    if n = 0 then (.inf neg, fDZ)
    else if neg then (.nan, fNV)
    else
      let m := if e % 2 = 0 then n else 2 * n
      let e2 := (if e % 2 = 0 then e else e - 1) / 2
      let t := 50 + Nat.log2 m
      let r := isqrt (2 ^ (2 * t) / m)
      (.fin false r (-(t : Int) - e2) (decide (r * r * m ≠ 2 ^ (2 * t))), 0)

/-- ln 2 in units of 2^-240. -/
def ln2 : Nat := 1224685061431752149387114016819916847747660333428801675508466606222838698
/-- The bits of the fixed point in which exponentials and logarithms are carried. -/
def fp : Nat := 220

/-- The exponential series from a term, in fixed point. -/
def expSeries (y : Nat) : Nat → Nat → Nat → Nat → Nat
  | 0, _, _, acc => acc
  | n + 1, k, t, acc =>
    let t1 := t * y / (k * 2 ^ fp)
    if t1 = 0 then acc else expSeries y n (k + 1) t1 (acc + t1)

/-- 2^f for a fraction f in fixed point, between 2^fp and 2^(fp + 1). -/
def exp2Frac (f : Nat) : Nat := expSeries (f * ln2 / 2 ^ 240) 90 1 (2 ^ fp) (2 ^ fp)

/-- 2^a (R234, R235): exact at integers, elsewhere irrational and carried with sticky. -/
def exExp2 (a : Ex) : Ex × Nat :=
  match a with
  | .nan => (.nan, 0)
  | .inf neg => (if neg then .fin false 0 0 false else .inf false, 0)
  | .fin neg n e _ =>
    if n = 0 then (.fin false 1 0 false, 0)
    else if 12 < (Nat.log2 n : Int) + e then (.fin false (2 ^ 40) (if neg then -5000 else 5000) true, 0)
    else
      let v := (scaleNat n (e + fp)).1
      let i := v / 2 ^ fp
      let f := v % 2 ^ fp
      if f = 0 ∧ (scaleNat n (e + fp)).2 = false then (.fin false 1 (if neg then -(i : Int) else i) false, 0)
      else if neg then (.fin false (exp2Frac (2 ^ fp - f)) (-(i : Int) - 1 - fp) true, 0)
      else (.fin false (exp2Frac f) ((i : Int) - fp) true, 0)

/-- The series of artanh(z) from a power of z, in fixed point. -/
def atanhSeries (z2 : Nat) : Nat → Nat → Nat → Nat → Nat
  | 0, _, _, acc => acc
  | n + 1, k, t, acc => if t = 0 then acc else atanhSeries z2 n (k + 2) (t * z2 / 2 ^ fp) (acc + t / k)

/-- log2 of m / 2^b for 2^b < m < 2^(b + 1), in fixed point. -/
def log2Frac (m b : Nat) : Nat :=
  let z := (m - 2 ^ b) * 2 ^ fp / (m + 2 ^ b)
  2 * atanhSeries (z * z / 2 ^ fp) 200 1 z 0 * 2 ^ 240 / (ln2 * 2 ^ 0)

/-- log2 a (R234, R235): exact at powers of two, elsewhere irrational and carried with sticky. -/
def exLog2 (a : Ex) : Ex × Nat :=
  match a with
  | .nan => (.nan, 0)
  | .inf neg => if neg then (.nan, fNV) else (.inf false, 0)
  | .fin neg n e _ =>
    if n = 0 then (.inf true, fDZ)
    else if neg then (.nan, fNV)
    else
      let b := Nat.log2 n
      let i : Int := (b : Int) + e
      if n = 2 ^ b then (exOfInt i 0 false, 0)
      else
        let l := log2Frac n b
        if 0 ≤ i then (.fin false (i.toNat * 2 ^ fp + l) (-(fp : Int)) true, 0)
        else (.fin true ((-i).toNat * 2 ^ fp - l - 1) (-(fp : Int)) true, 0)

/-- The value of a finite exact value compared with another: by signed numbers at a common power of two. -/
def exLt (a b : Ex) : Bool :=
  match a, b with
  | .nan, _ => false
  | _, .nan => false
  | .inf x, .inf y => x && !y
  | .inf x, _ => x
  | _, .inf y => !y
  | .fin n1 a1 e1 _, .fin n2 a2 e2 _ =>
    let e := min e1 e2
    let v1 : Int := (a1 * 2 ^ (e1 - e).toNat : Nat)
    let v2 : Int := (a2 * 2 ^ (e2 - e).toNat : Nat)
    decide ((if n1 then -v1 else v1) < (if n2 then -v2 else v2))
def exEq (a b : Ex) : Bool := a ≠ .nan && b ≠ .nan && !exLt a b && !exLt b a

def Ex.isNan (x : Ex) : Bool := decide (x = .nan)

/-- CvtF32Int of R81: `signed` for I32. -/
def cvtInt (mode : Nat) (signed sat : Bool) (x : Ex) : Nat × Nat :=
  let hi : Int := if signed then 2 ^ 31 - 1 else 2 ^ 32 - 1
  let lo : Int := if signed then -(2 ^ 31) else 0
  let bad := if signed then 0x80000000 else 0xFFFFFFFF
  let enc := fun (v : Int) => (v % 2 ^ 32).toNat
  match x with
  | .nan => (if sat then 0 else bad, fNV)
  | .inf neg => (if sat then enc (if neg then lo else hi) else bad, fNV)
  | .fin neg n e _ =>
    let (m, ix) := roundInt mode neg n (-e) false
    let v : Int := if neg then -(m : Int) else m
    if hi < v then (if sat then enc hi else bad, fNV)
    else if v < lo then (if sat then enc lo else bad, fNV)
    else (enc v, if ix then fNX else 0)

/-! ### L6 (R85 to R91) -/

/-- The linearisation table T of R86. -/
def tabT (f : Nat) : Nat := match f with | 0 => 0x8000 | 1 => 0x9838 | 2 => 0xB505 | _ => 0xD745

/-- q of a code: its log field as a signed number (R85). -/
def codeQ (c : Nat) : Int := if 16 ≤ c % 32 then (c % 32 : Nat) - 32 else (c % 32 : Nat)
def codeNeg (c : Nat) : Bool := decide (c / 32 % 2 = 1)

/-- DecodeL6 of R88. -/
def decodeL6 (code E : Nat) : Ex :=
  if E = 0xFF then .nan
  else
    let q := codeQ code
    if q = -16 then .fin false 0 0 false
    else .fin (codeNeg code) (tabT (q % 4).toNat) (q / 4 - 15 + (E : Int) - 127) false

/-- L6Product of R89, in units of 2^-23. -/
def l6Product (a b : Nat) : Int :=
  let qa := codeQ a
  let qb := codeQ b
  if qa = -16 ∨ qb = -16 then 0
  else
    let l := qa + qb
    let p : Int := (tabT (l % 4).toNat * 2 ^ (l / 4 + 8).toNat : Nat)
    if codeNeg a != codeNeg b then -p else p

/-- L6BlockSum of R90: the value before its rounding. -/
def l6BlockSum (a b : List Nat) (Ea Eb : Nat) : Ex :=
  if Ea = 0xFF ∨ Eb = 0xFF then .nan
  else exOfInt (((a.zip b).map fun p => l6Product p.1 p.2).foldl (· + ·) 0) ((Ea : Int) + Eb - 254 - 23) false

/-- The threshold mantissas of R95. -/
def threshM (q : Int) : Nat := match (q % 4).toNat with | 0 => 0x8B95C2 | 1 => 0xA5FED7 | 2 => 0xC5672A | _ => 0xEAC0C7
/-- t(q) as an exact value (R95). -/
def thresh (q : Int) : Ex := .fin false (threshM q) (q / 4 - 23) false

/-- The q of R94 for a scaled magnitude, searched upward from −16; 16 or more saturates. -/
def quantQ (m : Ex) : Nat → Int → Int
  | 0, q => q
  | n + 1, q =>
    if exLt m (thresh q) then q
    else if exEq m (thresh q) then (if q % 2 = 0 then q else q + 1)
    else quantQ m n (q + 1)

/-- QuantL6 of R94 on FP32 bits: the scale, the codes, the flags. DESIGN CHOICE, a block with a NaN or an infinity sets NV only,
as the rule's pseudocode returns there, and not the NX of its text (log entry 120). -/
def quantL6 (xs : List Nat) : Nat × List Nat × Nat :=
  let vs := xs.map fun x => (readF 24 false x).1
  let isFin := fun (v : Ex) => match v with | .fin _ _ _ _ => true | _ => false
  if vs.any fun v => !isFin v then (0xFF, xs.map fun _ => 0x10, fNV)
  else
    let tops := vs.map fun v => match v with
      | .fin _ n e _ => if n = 0 then none else some ((Nat.log2 n : Int) + e)
      | _ => none
    let big := tops.foldl (fun a b => match a, b with
      | none, b => b | a, none => a | some x, some y => some (max x y)) none
    match big with
    | none => (0, xs.map fun _ => 0x10, 0)
    | some t =>
      let E := (min (max (127 + t - 3) 0) 254).toNat
      let one := fun (v : Ex) => match v with
        | .fin neg n e _ =>
          if n = 0 then (0x10, 0)
          else
            let q := quantQ (.fin false n (e + 127 - E) false) 33 (-16)
            let (code, fl) :=
              if q ≤ -16 then (0x10, fQZ)
              else if 16 ≤ q then ((if neg then 32 else 0) + 15, fQSAT)
              else ((if neg then 32 else 0) + (q % 32).toNat, 0)
            (code, fl ||| (if exEq (decodeL6 code E) v then 0 else fNX))
        | _ => (0x10, 0)
      let r := vs.map one
      (E, r.map (·.1), orFlags (r.map (·.2)))

/-- The 6 bytes of a group of 8 codes as one number (R87). -/
def packGroup (cs : List Nat) : Nat := ((List.range 8).map fun j => cs.getD j 0x10 * 2 ^ (6 * j)).sum
def groupCode (w j : Nat) : Nat := fld w (6 * j) 6

/-! ### Philox (R96) -/

/-- The Philox rounds left to run. -/
def philoxFrom : Nat → Nat → Nat → Nat → Nat → Nat → Nat → Nat
  | 0, c0, _, _, _, _, _ => c0
  | n + 1, c0, c1, c2, c3, k0, k1 =>
    let p0 := 0xD2511F53 * c0
    let p1 := 0xCD9E8D57 * c2
    philoxFrom n (p1 / 2 ^ 32 ^^^ c1 ^^^ k0) (p1 % 2 ^ 32) (p0 / 2 ^ 32 ^^^ c3 ^^^ k1) (p0 % 2 ^ 32)
      ((k0 + 0x9E3779B9) % 2 ^ 32) ((k1 + 0xBB67AE85) % 2 ^ 32)

/-- Word c0 of Philox4x32(ctr, key). -/
def philox (ctr key : Nat) : Nat :=
  philoxFrom 10 (fld ctr 0 32) (fld ctr 32 32) (fld ctr 64 32) (fld ctr 96 32) (fld key 0 32) (fld key 32 32)

end Sys2Proof.Machine
end

