-- ==== Sys2Proof/Machine/Lanes.lean ====
section
/-! DEFINITION. Lane computations of the vector words (R227, R234 to R244, R250 to R253), on the 32 bits of a lane. -/

namespace Sys2Proof.Machine

/-- How a V word computes: type, rounding, saturate, and FTZ as sampled at issue (R83, R227). -/
structure LMode where
  ty : Nat
  rnd : Nat
  sat : Bool
  ftz : Bool
  deriving DecidableEq, Repr

def LMode.isFp (m : LMode) : Bool := decide (m.ty = 0) || decide (m.ty = 3)
/-- The precision of the lane's floating-point format. -/
def LMode.p (m : LMode) : Nat := if m.ty = 3 then 8 else 24
/-- A lane as floating point: BF16 ignores [31:16]. -/
def LMode.read (m : LMode) (b : Nat) : Ex × Bool := readF m.p m.ftz (b % 2 ^ (m.p + 8))
/-- A lane as an integer: signed for I32. -/
def LMode.int (m : LMode) (b : Nat) : Int := if m.ty = 1 then (if 2 ^ 31 ≤ b then (b : Int) - 2 ^ 32 else b) else b
/-- The range of the integer type. -/
def LMode.hi (m : LMode) : Int := if m.ty = 1 then 2 ^ 31 - 1 else 2 ^ 32 - 1
def LMode.lo (m : LMode) : Int := if m.ty = 1 then -(2 ^ 31) else 0
/-- An integer result: clamped with saturate, wrapped without (R75). -/
def LMode.clamp (m : LMode) (v : Int) : Int := if m.sat then max m.lo (min m.hi v) else v
def LMode.wrap (m : LMode) (v : Int) : Nat := (m.clamp v % 2 ^ 32).toNat
/-- The rounded result with the flags of the operation and of signalling inputs. -/
def LMode.out (m : LMode) (x : Ex) (fl : Nat) : Nat × Nat :=
  ((roundEx m.p m.ftz m.rnd x).1, (roundEx m.p m.ftz m.rnd x).2 ||| fl)

/-- A floating-point lane of one, two or three operands. -/
def LMode.f1 (m : LMode) (g : Ex → Ex × Nat) (a : Nat) : Nat × Nat :=
  let x := m.read a
  m.out (g x.1).1 ((g x.1).2 ||| sigNV x.2)
def LMode.f2 (m : LMode) (g : Ex → Ex → Ex × Nat) (a b : Nat) : Nat × Nat :=
  let x := m.read a
  let y := m.read b
  m.out (g x.1 y.1).1 ((g x.1 y.1).2 ||| sigNV (x.2 || y.2))
def LMode.f3 (m : LMode) (g : Ex → Ex → Ex → Ex × Nat) (a b d : Nat) : Nat × Nat :=
  let x := m.read a
  let y := m.read b
  let z := m.read d
  m.out (g x.1 y.1 z.1).1 ((g x.1 y.1 z.1).2 ||| sigNV (x.2 || y.2 || z.2))

/-- VADD, VSUB, VMUL (R234). -/
def laneAdd (m : LMode) (a b _d : Nat) : Nat × Nat :=
  if m.isFp then m.f2 (exAdd m.rnd) a b else (m.wrap (m.int a + m.int b), 0)
def laneSub (m : LMode) (a b _d : Nat) : Nat × Nat :=
  if m.isFp then m.f2 (fun x y => exAdd m.rnd x y.neg) a b else (m.wrap (m.int a - m.int b), 0)
def laneMul (m : LMode) (a b _d : Nat) : Nat × Nat :=
  if m.isFp then m.f2 exMul a b else (m.wrap (m.int a * m.int b), 0)

/-- ± a × b ± d, rounded once. -/
def exFma (mode : Nat) (negP negD : Bool) (a b d : Ex) : Ex × Nat :=
  let p := exMul a b
  let q := exAdd mode (if negP then p.1.neg else p.1) (if negD then d.neg else d)
  (q.1, p.2 ||| q.2)
def laneFma (m : LMode) (a b d : Nat) : Nat × Nat :=
  if m.isFp then m.f3 (exFma m.rnd false false) a b d else (m.wrap (m.int a * m.int b + m.int d), 0)
def laneFms (m : LMode) (a b d : Nat) : Nat × Nat :=
  if m.isFp then m.f3 (exFma m.rnd false true) a b d else (m.wrap (m.int a * m.int b - m.int d), 0)
def laneFnma (m : LMode) (a b d : Nat) : Nat × Nat :=
  if m.isFp then m.f3 (exFma m.rnd true false) a b d else (m.wrap (m.int d - m.int a * m.int b), 0)

/-- VDIV: R76 for integers. -/
def laneDiv (m : LMode) (a b _d : Nat) : Nat × Nat :=
  if m.isFp then m.f2 exDiv a b
  else if b = 0 then (0xFFFFFFFF, 0)
  else (((Int.tdiv (m.int a) (m.int b)) % 2 ^ 32).toNat, 0)
def laneSqrt (m : LMode) (a _b _d : Nat) : Nat × Nat := m.f1 exSqrt a
def laneRcp (m : LMode) (a _b _d : Nat) : Nat × Nat := m.f1 (exDiv (.fin false 1 0 false)) a
def laneRsq (m : LMode) (a _b _d : Nat) : Nat × Nat := m.f1 exRsq a
def laneExp2 (m : LMode) (a _b _d : Nat) : Nat × Nat := m.f1 exExp2 a
def laneLog2 (m : LMode) (a _b _d : Nat) : Nat × Nat := m.f1 exLog2 a

/-- Less in the order of VMIN and VMAX, where −0 is the smaller zero (R235). -/
def exLess (a b : Ex) : Bool :=
  match a, b with
  | .fin n1 0 _ _, .fin n2 0 _ _ => n1 && !n2
  | _, _ => exLt a b

/-- The smaller or the larger; with one NaN the other operand (R235). -/
def exPick (larger : Bool) (a b : Ex) : Ex × Nat :=
  if a = .nan then (b, 0) else if b = .nan then (a, 0)
  else if larger then (if exLess a b then b else a, 0) else (if exLess b a then b else a, 0)
def laneMin (m : LMode) (a b _d : Nat) : Nat × Nat :=
  if m.isFp then m.f2 (exPick false) a b else ((min (m.int a) (m.int b) % 2 ^ 32).toNat, 0)
def laneMax (m : LMode) (a b _d : Nat) : Nat × Nat :=
  if m.isFp then m.f2 (exPick true) a b else ((max (m.int a) (m.int b) % 2 ^ 32).toNat, 0)

def exAbs (x : Ex) : Ex := match x with | .nan => .nan | .inf _ => .inf false | .fin _ a e s => .fin false a e s
def laneAbs (m : LMode) (a _b _d : Nat) : Nat × Nat :=
  if m.isFp then m.f1 (fun x => (exAbs x, 0)) a else (m.wrap |m.int a|, 0)
def laneNeg (m : LMode) (a _b _d : Nat) : Nat × Nat :=
  if m.isFp then m.f1 (fun x => (x.neg, 0)) a else (m.wrap (-m.int a), 0)

/-! ### Bitwise words (R236) -/

def laneAnd (_m : LMode) (a b _d : Nat) : Nat × Nat := (a &&& b, 0)
def laneOr (_m : LMode) (a b _d : Nat) : Nat × Nat := (a ||| b, 0)
def laneXor (_m : LMode) (a b _d : Nat) : Nat × Nat := (a ^^^ b, 0)
def laneNot (_m : LMode) (a _b _d : Nat) : Nat × Nat := (2 ^ 32 - 1 - a, 0)
def laneShl (_m : LMode) (a b _d : Nat) : Nat × Nat := (a * 2 ^ (b % 32) % 2 ^ 32, 0)
def laneShr (_m : LMode) (a b _d : Nat) : Nat × Nat := (a / 2 ^ (b % 32), 0)
def laneSra (_m : LMode) (a b _d : Nat) : Nat × Nat :=
  let v : Int := if 2 ^ 31 ≤ a then (a : Int) - 2 ^ 32 else a
  ((v / 2 ^ (b % 32) % 2 ^ 32).toNat, 0)
def laneMulh (m : LMode) (a b _d : Nat) : Nat × Nat := ((m.int a * m.int b / 2 ^ 32 % 2 ^ 32).toNat, 0)

/-! ### Compare, convert, classify (R237, R239, R240) -/

/-- The condition of VCMP: its code is FV[4:3] + 4 × XV[0]. -/
def laneCmp (cond : Nat) (m : LMode) (a b _d : Nat) : Nat × Nat :=
  let ans := fun (t : Bool) => if t then 0xFFFFFFFF else 0
  if m.isFp then
    let x := m.read a
    let y := m.read b
    let un := x.1.isNan || y.1.isNan
    let lt := exLt x.1 y.1
    let gt := exLt y.1 x.1
    let t := match cond with
      | 0 => !un && !lt && !gt | 1 => un || lt || gt | 2 => lt | 3 => !un && !gt | 4 => gt | 5 => !un && !lt | _ => un
    (ans t, sigNV (x.2 || y.2))
  else
    let x := m.int a
    let y := m.int b
    (ans (match cond with
      | 0 => decide (x = y) | 1 => decide (x ≠ y) | 2 => decide (x < y) | 3 => decide (x ≤ y) | 4 => decide (y < x)
      | _ => decide (y ≤ x)), 0)

/-- VSEL: a where vd is not zero, else b (R238). -/
def laneSel (_m : LMode) (a b d : Nat) : Nat × Nat := (if d ≠ 0 then a else b, 0)
def laneMov (_m : LMode) (a _b _d : Nat) : Nat × Nat := (a, 0)

def intOf (signed : Bool) (a : Nat) : Int := if signed ∧ 2 ^ 31 ≤ a then (a : Int) - 2 ^ 32 else a

/-- VCVT (R239): `sp` is XV[0]. -/
def laneCvt (sp : Nat) (m : LMode) (a _b _d : Nat) : Nat × Nat :=
  let ofInt := fun (p : Nat) (signed : Bool) => roundEx p m.ftz m.rnd (exOfInt (intOf signed a) 0 false)
  let ofF := fun (p q mode : Nat) =>
    let x := readF q m.ftz (a % 2 ^ (q + 8))
    let r := roundEx p m.ftz mode x.1
    (r.1, r.2 ||| sigNV x.2)
  match m.ty with
  | 0 => if m.sat then ofF 24 8 0 else ofInt 24 (decide (sp = 0))
  | 3 => if m.sat then ofInt 8 false else if sp = 0 then ofF 8 24 m.rnd else ofInt 8 true
  | ty =>
    let q := if sp = 0 then 24 else 8
    cvtInt m.rnd (decide (ty = 1)) m.sat (readF q m.ftz (a % 2 ^ (q + 8))).1

/-- VCLASS (R240): FTZ is ignored. -/
def laneClass (m : LMode) (a _b _d : Nat) : Nat × Nat :=
  let p := m.p
  let neg := a / 2 ^ (p + 7) % 2 = 1
  let e := a / 2 ^ (p - 1) % 256
  let f := a % 2 ^ (p - 1)
  (2 ^ (if e = 255 then (if f = 0 then (if neg then 0 else 7) else if f / 2 ^ (p - 2) % 2 = 0 then 8 else 9)
    else if e = 0 then (if f = 0 then (if neg then 3 else 4) else if neg then 2 else 5)
    else if neg then 1 else 6), 0)

/-! ### Reductions (R243, R244) -/

/-- One level of the tree. -/
def treeLevel (g : Nat × Nat → Nat × Nat → Nat × Nat) : List (Nat × Nat) → List (Nat × Nat)
  | a :: b :: r => g a b :: treeLevel g r
  | l => l
/-- `n` levels. -/
def treeFold (g : Nat × Nat → Nat × Nat → Nat × Nat) : Nat → List (Nat × Nat) → List (Nat × Nat)
  | 0, l => l
  | n + 1, l => treeFold g n (treeLevel g l)

/-- VRED: SUM and MAX; an integer sum is exact until its end. -/
def vredLanes (m : LMode) (isMax : Bool) (a : List Nat) : List Nat × Nat :=
  let r : Nat × Nat :=
    if m.isFp ∨ isMax then
      let g := fun (x y : Nat × Nat) =>
        let z := if isMax then laneMax m x.1 y.1 0 else laneAdd m x.1 y.1 0
        (z.1, z.2 ||| x.2 ||| y.2)
      (treeFold g 6 (a.map fun v => (v, 0))).headD (0, 0)
    else (m.wrap ((a.map m.int).foldl (· + ·) 0), 0)
  (r.1 :: List.replicate 63 0, r.2)

/-- The running sums of VSCAN from an accumulator. -/
def scanFrom (m : LMode) (exc : Bool) : List Nat → Nat → Nat → List Nat × Nat
  | [], _, fl => ([], fl)
  | a :: r, acc, fl =>
    let z := laneAdd m acc a 0
    let q := scanFrom m exc r z.1 (fl ||| z.2)
    ((if exc then acc else z.1) :: q.1, q.2)

/-! ### Packed formats (R250 to R253) -/

/-- The packed L6 form of 13 lanes from two scales and 64 codes (R250). -/
def packL6 (e0 e1 : Nat) (codes : List Nat) : List Nat :=
  let whole := ((List.range 8).map fun g => packGroup ((codes.drop (8 * g)).take 8) * 2 ^ (48 * g)).sum
  ((List.range 12).map fun j => fld whole (32 * j) 32) ++ [e0 + e1 * 256] ++ List.replicate 51 0

/-- The codes and scales of the packed form. -/
def unpackL6 (l : List Nat) : List Nat × Nat × Nat :=
  let whole := ((List.range 12).map fun j => l.getD j 0 * 2 ^ (32 * j)).sum
  ((List.range 64).map fun i => fld whole (6 * i) 6, fld (l.getD 12 0) 0 8, fld (l.getD 12 0) 8 8)

/-- VQL6 (R251): absent blocks and positions get scale 0 and code 0x10. -/
def vql6Lanes (n : Nat) (a : List Nat) : List Nat × Nat :=
  let b0 := quantL6 (a.take (min n 32))
  let b1 : Nat × List Nat × Nat := if 32 < n then quantL6 ((a.drop 32).take (n - 32)) else (0, [], 0)
  let fill := fun (l : List Nat) => l ++ List.replicate (32 - l.length) 0x10
  (packL6 b0.1 b1.1 (fill b0.2.1 ++ fill b1.2.1), b0.2.2 ||| b1.2.2)

/-- VDL6 (R252). -/
def vdl6Lanes (n : Nat) (ftz : Bool) (a : List Nat) : List Nat × Nat :=
  let (codes, e0, e1) := unpackL6 a
  let r := (List.range 64).map fun j =>
    if j < n then roundEx 24 ftz 0 (decodeL6 (codes.getD j 0x10) (if j < 32 then e0 else e1)) else (0, 0)
  (r.map (·.1), orFlags (r.map (·.2)))

/-- VPACK (R253). -/
def vpackLanes (mode : Nat) (ftz : Bool) (a b : List Nat) : List Nat × Nat :=
  let src := a ++ b
  let r := src.map fun v =>
    let x := readF 24 ftz v
    let z := roundEx 8 ftz mode x.1
    (z.1, z.2 ||| sigNV x.2)
  ((List.range 64).map fun j => (r.getD (2 * j + 1) (0, 0)).1 * 2 ^ 16 + (r.getD (2 * j) (0, 0)).1,
    orFlags (r.map (·.2)))

/-- VUNPK (R253). -/
def vunpkLanes (hi : Bool) (ftz : Bool) (a : List Nat) : List Nat × Nat :=
  let r := (List.range 64).map fun j =>
    let e := (if hi then 64 else 0) + j
    let x := readF 8 ftz (fld (a.getD (e / 2) 0) (16 * (e % 2)) 16)
    ((roundEx 24 ftz 0 x.1).1, sigNV x.2)
  (r.map (·.1), orFlags (r.map (·.2)))

/-- VRNG (R97, R249). -/
def vrngLanes (c key : Nat) : List Nat := (List.range 64).map fun l => philox ((c + l) % 2 ^ 128) key

end Sys2Proof.Machine
end

