-- ==== Sys2Proof/Machine/Checks.lean ====
section
/-! DEFINITION. What every memory access goes through: the checks of R107 in their order with the supply state of
R135, translation, race detection (R425 to R427), poison and machine checks (R123, R454 to R456), rings (R484). -/

namespace Sys2Proof.Machine

/-! ### Writes, and the race history (R425 to R428) -/

/-- The 2 MiB region of a physical address, with its tier (R120). -/
def hotRegion (tier pa : Nat) : Nat := tier * 2 ^ 40 + pa / 2 ^ 21

/-- The hub counts an access to LPDDR-6 or CXL memory, in 16 saturating bits (R120). -/
def State.touch (s : State) (k : Nat) : State :=
  if keyRegion k = 1 ∨ keyRegion k = 2 then
    { s with hub := { s.hub with
      hot := SMap.modify 0 s.hub.hot (hotRegion (keyRegion k) (keyOff k)) (fun n => min 65535 (n + 1)) } }
  else s

/-- The root of an address space, from a live graph that names it (R109). -/
def State.rootOf (s : State) (asid : Nat) : Option Nat :=
  s.hub.graphs.findSome? fun g => match g.2 with | some G => if G.asid = asid then some G.root else none | none => none

/-- Tapes for which `p` holds become invalid: they go once no task holds them; recordings for which `q` holds are
abandoned with INVAL. -/
def State.invalidTapes (s : State) (p : Tape → Bool) : State :=
  let s1 : State := { s with hub := { s.hub with
    tapes := (s.hub.tapes.map fun T => if p T then { T with valid := false } else T).filter fun T => T.valid || T.heldBy ≠ [] } }
  (s1.hub.recording.filter fun r => p r.2).foldl (fun s r => s.abandon r.1 9) s1

/-- The `n` bytes from place `k` meet the `len` bytes from a device virtual address of an address space. -/
def State.rangeMeets (s : State) (root base len k n : Nat) : Bool :=
  (List.range ((base + len + 65535) / 65536 - base / 65536)).any fun i =>
    let lo := max base ((base / 65536 + i) * 65536)
    let hi := min (base + len) ((base / 65536 + i + 1) * 65536)
    match walkVA s.mem root lo with
    | .leaf l p _ =>
      let key := keyOf (pteTier p) (pteFrame p + lo % 2 ^ pageBits l)
      decide (key < k + n) && decide (k < key + (hi - lo))
    | .bad _ _ => false

/-- A range of places meets the range of a tape's program capability. -/
def State.meetsProgram (s : State) (T : Tape) (k n : Nat) : Bool := s.rangeMeets T.root T.base T.plen k n

/-- A write of device memory is performed at device scope: the tapes of the programs it touches are invalid (R348). -/
def State.tapeWrite (s : State) (k n : Nat) : State :=
  if (s.hub.tapes = [] ∧ s.hub.recording = []) ∨ 16 ≤ keyRegion k then s
  else s.invalidTapes fun T => s.meetsProgram T k n

/-- A staged write reaches the next wider scope (R413). -/
def State.propagate (s : State) (id : Nat) : State :=
  let s1 : State := { s with mem := s.mem.propagate id }
  match s.mem.staged.find? fun w => w.id = id with
  | some w => if w.lvl = 2 then s1.tapeWrite w.key w.bytes.length else s1
  | none => s1

/-- The accesses of the requests, of up to 64 bytes each, that carry `n` bytes from `k` are counted (R120, R140). -/
def State.touchRange (s : State) (k n : Nat) : State :=
  if keyRegion k ≠ 1 ∧ keyRegion k ≠ 2 then s
  else (List.range (granules 64 k n)).foldl (fun s i => s.touch (k / 64 * 64 + 64 * i)) s

/-- A write that is performed at device scope as it is made. -/
def State.noteWrite (s : State) (lvl k n : Nat) : State :=
  if 3 ≤ lvl then (s.touchRange k n).tapeWrite k n else s.touchRange k n

/-- A write that is not checked: it starts a new history of its bytes. -/
def State.writeMem (s : State) (u lvl k : Nat) (bs : List Byte) (tag : Bool) : State :=
  { s.noteWrite lvl k bs.length with
    mem := s.mem.writeTag u lvl k bs tag
    races := if s.races = [] then [] else (s.races.map fun a => a.without k bs.length).flatten }

/-- Bytes are wiped. -/
def State.wipeAt (s : State) (k n : Nat) : State := ({ s with mem := s.mem.wipe k n } : State).dropHistory k n

/-- The race history of bytes follows them to another place (R428). -/
def State.moveHistory (s : State) (src dst n : Nat) : State :=
  let move := fun (k : Nat) => if src ≤ k ∧ k < src + n then dst + (k - src) else k
  let known := fun (U : UnitSt) => { U with hb := { U.hb with hist := U.hb.hist.map fun h => (move h.1, h.2) } }
  if s.races = [] then s
  else { s with
    races := s.races.map fun a => { a with key := move a.key }
    units := s.units.map fun q => (q.1, if q.2.hb.hist = [] then q.2 else known q.2) }

/-- The write of an access, checked or not, with the tag it leaves. -/
def State.store (s : State) (checked : Bool) (u lvl k : Nat) (bs : List Byte) (tag : Bool) : State :=
  if checked then { s.noteWrite lvl k bs.length with mem := s.mem.writeTag u lvl k bs tag } else s.writeMem u lvl k bs tag

/-- Two accesses conflict (R424): a common byte, a write, different parties. -/
def Access.conflicts (a b : Access) : Bool :=
  decide (a.key < b.key + b.n) && decide (b.key < a.key + a.n) && (a.write || b.write)
    && !(decide (a.u = b.u) && decide (a.eng = b.eng))

/-- Both are scoped accesses and each one's instance includes the other's party (R424). -/
def Access.scopedPair (a b : Access) : Bool :=
  match a.scope, b.scope with
  | some x, some y => includes x a.u b.u && includes y b.u a.u
  | _, _ => false

/-- The lowest byte that an access from `key` on has in common with an earlier one (R427). -/
def Access.meetsAt (a : Access) (key : Nat) : Nat := max key a.key

/-- Of earlier accesses the one that an access from `key` on meets at the lowest byte; DESIGN CHOICE, of several there the oldest (log
entry 28). -/
def lowestRace (key : Nat) : List Access → Option Access
  | [] => none
  | a :: r =>
    match lowestRace key r with
    | some b => if b.meetsAt key < a.meetsAt key then some b else some a
    | none => some a

/-- The earlier checked access with which `b` forms a race, if there is one (R424): it is not in `pre`, the accesses that happen
before `b`; of several that of the lowest conflicting byte (R427).  Whether the host, between two submissions, has ordered `b` after an
access that is older than its graph is a free value (log entry 27). -/
def State.raceOf (s : State) (pre skip : List Nat) (b : Access) : Option Access :=
  let since := match (s.task b.task).bind fun T => s.graph T.graph with | some G => G.since | none => 0
  lowestRace b.key (s.races.filter fun a =>
    a.conflicts b && !a.scopedPair b && !skip.contains a.id && !pre.contains a.id
      && (decide (since ≤ a.id) || Config.freeBool s.tick (1000 + a.id)))

/-- The checked accesses that happen before an access of `n` bytes at `key` by the word that engine `e` has before it, or by the
word in flight `fid` (R415 to R418). -/
def State.happened (s : State) (u : Nat) (e : Eng) (key n : Nat) (fid : Option Nat) : List Nat :=
  let U := s.unit u
  match fid with
  | some i => ((U.work.fl.find? fun f => f.id = i).map (·.know)).getD []
  | none =>
    if e = .S then let r := s.hereS u; uni (U.before r.hdr key n) (U.tokenKnow .S r)
    else match U.nextRec e with
      | some r => uni (U.knows e) (U.tokenKnow e r)
      | none => U.knows e

/-- The text address of the word that engine `e` has before it, or of the word in flight `fid`. -/
def UnitSt.raceAddr (U : UnitSt) (e : Eng) (fid : Option Nat) : Nat :=
  match fid with
  | some i => ((U.work.fl.find? fun f => f.id = i).map (·.addr)).getD 0
  | none => if e = .S then U.pcOf .S else ((U.nextRec e).map (·.addr)).getD 0

/-- The earlier accesses whose race with the word that engine `e` has before it, or with the word in flight `fid`, has been reported:
they count against it no longer (R427). -/
def UnitSt.reported (U : UnitSt) (e : Eng) (fid : Option Nat) : List Nat :=
  if U.trap.raceSkip = [] then [] else (U.trap.raceSkip.filter fun q => q.1 = raceWord e (U.raceAddr e fid)).map (·.2)
/-- The access `id` is the word's own, after `pre`. -/
def UnitSt.own (U : UnitSt) (e : Eng) (write : Bool) (fid : Option Nat) (pre : List Nat) (id : Nat) : UnitSt :=
  match fid with
  | some i => (U.addActs i [id]).count (classOf e write) (uni pre [id])
  | none => { U with hb := { U.hb with cur := SMap.modify [] U.hb.cur e.code fun l => uni l [id] } }

/-- An access of unit `u` is checked (R425). -/
def checkedCap (c : Cap) : Bool := c.rc && decide (c.space ≤ 3)

/-- The access of `n` bytes at `key` that engine `e` of unit `u` is about to make. -/
def State.accessBy (s : State) (u : Nat) (e : Eng) (key n : Nat) (write : Bool) (scope : Option Nat) : Access :=
  ⟨s.raceNext, key, n, write, u, e, (s.unit u).id.rank, (s.unit u).id.task, scope⟩

/-- The earlier access with which the access of `n` bytes at `key` races. -/
def State.raceAt (s : State) (u : Nat) (e : Eng) (key n : Nat) (write : Bool) (scope : Option Nat) (fid : Option Nat) : Option Access :=
  s.raceOf (s.happened u e key n fid) ((s.unit u).reported e fid) (s.accessBy u e key n write scope)

/-- The access joins the history. -/
def State.raceNote (s : State) (u : Nat) (e : Eng) (key n : Nat) (write : Bool) (scope : Option Nat) (fid : Option Nat) : State :=
  { s with races := s.races ++ [s.accessBy u e key n write scope], raceNext := s.raceNext + 1 }.setUnit u
    ((s.unit u).own e write fid (s.happened u e key n fid) s.raceNext)

/-- The race with the earlier access `a` is reported: RCSTAT describes it, and the pair counts no longer (R427). -/
def State.raceReport (s : State) (u : Nat) (e : Eng) (write : Bool) (fid : Option Nat) (a : Access) : State :=
  let U := s.unit u
  let other := decide (a.task ≠ U.id.task)
  let w := (if write then 2 ^ 16 else 0) + (if a.write then 2 ^ 17 else 0) + (if other then 2 ^ 18 else 0)
    + (if other then a.u else a.rank) % 1024 * 2 ^ 19 + a.eng.code * 2 ^ 29
    + fld U.csr.rcstat.toNat 32 16 * 2 ^ 32
  s.setUnit u { U with
    csr := { U.csr with rcstat := BitVec.ofNat 64 w }
    trap := { U.trap with raceSkip := (raceWord e (U.raceAddr e fid), a.id) :: U.trap.raceSkip } }

/-- The check point of an access of `n` bytes at `key` (R426): the state with the access in the history, or the earlier
access of the race, with RCSTAT describing it.  `fid` is the word in flight that makes it, or none where its word is about to
issue. -/
def State.raceCheck (s : State) (u : Nat) (e : Eng) (key n : Nat) (write : Bool) (scope : Option Nat)
    (fid : Option Nat := none) : State ⊕ (State × Access) :=
  match s.raceAt u e key n write scope fid with
  | none => .inl (s.raceNote u e key n write scope fid)
  | some a => .inr (s.raceReport u e write fid a, a)

/-- Of races found the one at the lowest address. -/
def lowestFound : List (Access × Nat × Nat) → Option (Access × Nat × Nat)
  | [] => none
  | a :: r =>
    match lowestFound r with
    | some b => if b.2.1 < a.2.1 then some b else some a
    | none => some a

/-- The check point of an access in pieces (key, bytes, address): the pieces join the history when none races; else the race of the
lowest conflicting byte is reported, with its address and the bytes of its piece, and the access, which is not performed, leaves nothing
in the history (R426, R427). -/
def State.raceAll (s : State) (u : Nat) (e : Eng) (write : Bool) (fid : Option Nat) (l : List (Nat × Nat × Nat)) :
    State ⊕ (State × Access × Nat × Nat) :=
  match lowestFound (l.filterMap fun p =>
      (s.raceAt u e p.1 p.2.1 write none fid).map fun a => (a, p.2.2 + (a.meetsAt p.1 - p.1), p.2.1)) with
  | some q => .inr (s.raceReport u e write fid q.1, q)
  | none => .inl (l.foldl (fun s p => s.raceNote u e p.1 p.2.1 write none fid) s)

/-! ### The checks of an access (R107, R135, R112) -/

/-- What the checks of an access give: the key of its first byte and its address; a page that is migrating, so that the
access waits at its die (R117); nothing yet; a trap. -/
inductive Acc where
  | ok (key addr : Nat)
  | mig (addr : Nat)
  | hold (s : State)
  | trap (s : State) (c : Cause) (i0 i1 : Nat)

/-- What the check of unit scratchpad banks gives; while the word waits, the state has falls applied or wakes started. -/
inductive SpadChk where
  | ok
  | wait (s : State)
  | trap (c : Cause) (b : Nat)

/-- The supply state of the unit scratchpad banks that a range meets (R135); a fall that is due comes first (R134). -/
def State.spadChk (s : State) (u off n : Nat) (read : Bool) : SpadChk :=
  let js := spadBanks off n
  if js.any fun j => (s.unit u).fallDue 1 j then .wait (js.foldl (fun s j => s.fallIfDue u 1 j) s)
  else match UnitSt.supplyChk 1 (js.map fun j => (j, read)) (s.unit u) false with
    | .ok => .ok
    | .wait U => .wait (s.setUnit u U)
    | .trap c b => .trap c b

/-! ### The migration replay queue (R117, R202) -/

/-- The number under which the request of stream `i` from element `p` stands in a replay queue, beside those of words. -/
def streamId (i p : Nat) : Nat := 2 ^ 32 + 16 * p + i
/-- The number under which a word that reads stream `i` as it issues stands there: its engine waits at the word. -/
def readId (i : Nat) : Nat := 2 ^ 64 + i

/-- The access of an entry still waits: a word's operation, a request of a stream, or a word that reads a stream as it issues. -/
def State.replayLive (s : State) (x : Nat × Nat × Nat) : Bool :=
  let U := s.unit x.1
  if 2 ^ 64 ≤ x.2.1 then decide (U.run = .running)
  else if 2 ^ 32 ≤ x.2.1 then
    (SMap.get Stream.reset U.streams (x.2.1 % 16)).buf.any fun b =>
      b.data.isNone && b.mark.isNone && decide (b.pos = (x.2.1 - 2 ^ 32) / 16)
  else (U.work.sops.any fun o => o.id = x.2.1) || (U.work.wops.any fun o => o.id = x.2.1)
    || (U.work.fl.any fun f => decide (f.id = x.2.1) && decide (f.wait = .op))

/-- The die's queue of 4,096 entries has room. -/
def State.replayRoom (s : State) (u : Nat) : Bool :=
  decide (((s.die (dieOf u)).replay.filter s.replayLive).length < 4096)

/-- An access of the unit's word waits in the queue. -/
def State.inReplay (s : State) (u id : Nat) : Bool := (s.die (dieOf u)).replay.any fun x => decide (x.1 = u) && decide (x.2.1 = id)

/-- An access joins the queue, unless it stands there already. -/
def State.joinReplay (s : State) (u id addr : Nat) : State :=
  let D := s.die (dieOf u)
  if D.replay.any fun x => decide (x.1 = u) && decide (x.2.1 = id) then s
  else s.setDie (dieOf u) { D with replay := D.replay.filter s.replayLive ++ [(u, id, addr)] }

/-- An access has left the queue. -/
def State.quitReplay (s : State) (u id : Nat) : State :=
  let D := s.die (dieOf u)
  if D.replay.any fun x => decide (x.1 = u) && decide (x.2.1 = id) then
    s.setDie (dieOf u) { D with replay := D.replay.filter fun x => !(decide (x.1 = u) && decide (x.2.1 = id)) }
  else s

/-- The queue lets an access be performed now: the accesses to one page leave it in arrival order (R117). -/
def State.replayHead (s : State) (u id : Nat) : Bool :=
  let mine := fun (x : Nat × Nat × Nat) => decide (x.1 = u) && decide (x.2.1 = id)
  let D := s.die (dieOf u)
  match D.replay.find? mine with
  | none => true
  | some y => (D.replay.takeWhile fun x => !mine x).all fun x =>
      !(s.replayLive x) || decide ((s.unit x.1).id.asid ≠ (s.unit u).id.asid) || !s.samePage (s.unit u).id.root y.2.2 x.2.2

/-- The first offset of a range that lies in unit scratchpad bank `j`. -/
def firstIn (j off : Nat) : Nat := max off (j * 65536)

/-- Checks of an access through capability register `k` holding `c`, at offset `o` for `n` bytes. -/
def State.access (s : State) (u : Nat) (c : Cap) (k o n perm align text : Nat) (kind : AccKind) : Acc :=
  let bad := fun cause => Acc.trap s cause o (capInfo k n text)
  if c.tag ∧ c.space = 7 then bad .kperm
  else match c.check o n perm with
  | .error e => bad e
  | .ok a =>
    if a % align ≠ 0 then bad .align
    else
      match if c.space = 1 then s.spadChk u a n (kind ≠ .write) else SpadChk.ok with
      | .trap cause j => .trap s cause (firstIn j a) (15 + text % 65536 * 2 ^ 32)
      | .wait s1 => .hold s1
      | .ok =>
        match s.translate u c.space a kind with
        | .ok key => .ok key a
        | .mig => if s.replayRoom u then .mig a else .hold s
        | .miss => .hold (s.startWalk u a)
        | .xlat l r => .trap (s.dropFault u a) .xlat a (l + r * 16 + (if kind = .read then 0 else 256))

/-! ### Rings (R484) -/

/-- The memory region of a registration. -/
def Reg.region (r : Reg) : Nat := if r.mem = 0 then 4 else r.mem - 1

/-- The size of an entry by kind. -/
def entrySize (kind : Nat) : Nat := match kind with | 1 => 64 | 2 => 32 | 3 => 16 | 4 => 32 | 5 => 16 | _ => 32

/-- The hub may access the memory of a place: an HBM4 stack only once its PHY is trained (R466, R467). -/
def State.memReady (s : State) (key : Nat) : Bool := decide (keyRegion key ≠ 0) || (decide (s.hub.retrain ≠ 1) && decide (s.hub.retrain ≠ 2))

/-- A record written into an output ring of kind 3 to 5: entry, then PROD; on a full ring DROP and one event.  A record for HBM4
that is not trained waits (R466). -/
def State.ringPut (s : State) (kind : Nat) (rec : List Byte) : State :=
  match s.hub.regs.find? fun r => r.kind = kind with
  | none => s
  | some r =>
    let base := keyOf r.region r.addr
    let cons := s.mem.num .system (base + 4) 4
    if !s.memReady base then { s with hub := { s.hub with held := s.hub.held ++ [(kind, rec)] } } else
    let upd := fun (r' : Reg) (s : State) =>
      { s with hub := { s.hub with regs := s.hub.regs.map fun x => if x = r then r' else x } }
    if (r.prod + 2 ^ 32 - cons) % 2 ^ 32 = r.nent then
      let s1 := upd { r with drop := (r.drop + 1) % 2 ^ 32, told := true }
        (s.writeMem 0 4 (base + 8) (toBytes 4 (r.drop + 1)) false)
      if r.told then s1 else s1.tellHost 1 kind 0 0
    else
      let s1 := s.writeMem 0 4 (base + 64 + r.prod % r.nent * entrySize kind) rec false
      upd { r with prod := (r.prod + 1) % 2 ^ 32, told := false }
        (s1.writeMem 0 4 base (toBytes 4 ((r.prod + 1) % 2 ^ 32)) false)

/-! ### Machine checks (R123, R454 to R456) -/

/-- A machine check of unit `u`: it halts, its task ends with MCHECK, the record goes into the ring; a second within an
hour, or a third since cold reset, of any source but 6 retires the unit from placement. -/
def State.mcheck (s : State) (u src bank synd addr : Nat) : State :=
  let U := s.unit u
  let hour := 3600000000000
  let now := s.time.toNat
  let counted := decide (src ≠ 6)
  let n := if counted then U.mcCount + 1 else U.mcCount
  let retire := counted && (decide (3 ≤ n) || U.mchecks.any fun t => decide (now - t ≤ hour))
  let U1 := { U with
    run := .halted, mcCount := n, mchecks := if counted then now :: U.mchecks else U.mchecks
    trap := { U.trap with pend := none } }
  let s1 := s.setUnit u U1
  let rec_ := u16 u ++ u8 src ++ u8 bank ++ u32 synd ++ u64 addr ++ u64 now ++ u16 U.id.graph ++ u16 U.id.card
    ++ u16 n ++ u16 0
  let s2 := (s1.ringPut 4 rec_).failTask U.id.task stMcheck
  let s3 := match s2.task U.id.task with
    | some T => if T.admitted ≠ 0 then s2.tellHost 2 U.id.graph U.id.card 0 else s2
    | none => s2
  if retire then (s3.setUnit u { s3.unit u with retiredMark := true }).service 1 u else s3

/-- The poison source of a memory region (R455). -/
def poisonSrc (region : Nat) : Nat :=
  if region < 16 then 6 else if region < 1024 then 2 else if region < 2048 then 3 else if region < 2304 then 4 else 5

/-- The bank or slice of an offset in the memory of a source (R125, R455); device memory has none. -/
def bankOf (src off : Nat) : Nat :=
  match src with | 2 => fld off 16 4 | 3 => fld off 3 6 | 4 => fld off 18 5 | 5 => fld off 20 6 | _ => 0

/-- The machine check of a read that met the poisoned granule of `k`; the spec gives no syndrome for it. -/
def State.poisonTrap (s : State) (u k : Nat) : State :=
  let src := poisonSrc (keyRegion k)
  s.mcheck u src (bankOf src (keyOff k)) (Config.freeNat s.tick 831 % 2 ^ 32) (keyOff k)

/-- Where a read of unit `u` meets poison: the first poisoned granule of the range. -/
def State.poisonAt (s : State) (u key n : Nat) : Option Nat :=
  if s.mem.poisonFor (.unit u) key n then
    let g := (s.mem.poison.find? fun e => e.2 && decide (key / 64 ≤ e.1) && decide (e.1 ≤ (key + n - 1) / 64)
      && !s.mem.renewed (.unit u) e.1).map (·.1)
    some (if s.mem.deadAt key n then key else max key ((g.getD 0) * 64))
  else none

/-- A read of unit `u` meets poison: the first poisoned granule of the range gives the record's ADDR. -/
def State.poisonCheck (s : State) (u key n : Nat) : Option State := (s.poisonAt u key n).map (s.poisonTrap u)

/-! ### Parity of the register banks (R219, R221), and reads beside unordered writes (R218) -/

/-- The hub counts an error that has been corrected (R122, R221). -/
def State.countErr (s : State) (region : Nat) : State :=
  { s with hub := { s.hub with errs := SMap.modify 0 s.hub.errs region (· + 1) } }

/-- A read of the bank elements `keys` checks their parity: an error in a bank with a current duplicate is repaired from it and
counted, unless the duplicate's own parity is wrong; any other is a machine check. -/
def State.parityChk (s : State) (u : Nat) (keys : List Nat) : Option State :=
  let U := s.unit u
  if U.parity = [] then none
  else match keys.find? fun k => SMap.get false U.parity k with
    | none => none
    | some k =>
      let b := k / 4096
      let k' := (b ^^^ 4) * 4096 + k % 4096
      if U.dcur.getLsbD b ∧ !SMap.get false U.parity k' then
        let V : UnitSt := { U with elems := SMap.set 0 U.elems k (SMap.get 0 U.elems k'), parity := SMap.erase U.parity k }
        some ((s.setUnit u V).countErr 4096)
      else some (s.mcheck u 1 b (Config.freeNat s.tick 832 % 2 ^ 32) 0)

/-- What engine `e` may read in the banks: each element that a word of another engine has issued and not yet written reads as
old or as new (R218). -/
def State.mixed (s : State) (e : Eng) (U : UnitSt) : UnitSt :=
  let w := ((U.work.fl.filter fun f => f.eng != e).map fun f =>
    (f.eff.map fun x => match x with | .bank _ l => l | _ => []).flatten).flatten
  if w = [] then U
  else { U with elems := w.foldl (fun m p => if Config.freeBool s.tick (3000000 + p.1) then SMap.set 0 m p.1 p.2 else m) U.elems }

end Sys2Proof.Machine
end

