-- ==== Sys2Proof/Machine/ScalarMem.lean ====
section
/-! DEFINITION. The scalar memory words of S (R150 to R159, R163) and the events that perform them (R151, R155). -/

namespace Sys2Proof.Machine

/-- What a memory word of S asks for: the register and its capability, offset, bytes, permissions, the kind of access,
the scope of a scoped access (R422), whether it is counted as a load (R147), and the operation that it leaves. -/
structure MemReq where
  k : Nat
  o : Nat
  n : Nat
  perm : Nat
  kind : AccKind
  scope : Option Nat
  isLoad : Bool
  op : SKind
  sx : Bool
  lvl : Nat
  d : Nat
  v : Word
  v2 : Word
  cap : Cap
  deriving DecidableEq, Repr

/-- An access through SPACE 5 or 6 is at system scope, whatever its field says (R154). -/
def effScope (space sc : Nat) : Nat := if space = 5 ∨ space = 6 then 4 else sc

/-- No later memory word of S issues while an LDAQ, a TEVT.RD, or the acquire of a BAR, is still to be performed (R154, R162,
R382). -/
def UnitSt.acquiring (U : UnitSt) : Bool :=
  (U.work.sops.any fun o => o.kind == .ldaq || o.kind == .tevt 0) || (match U.bar with | some (_, _, done) => !done | none => false)

/-- The counter of loads or stores may take one more (R147). -/
def UnitSt.room (U : UnitSt) (isLoad : Bool) : Bool :=
  if isLoad then decide (U.work.loads < 1023) else decide (U.work.stores < 1023)

/-- The operation joins the unit's work and its counter. -/
def UnitSt.addSop (U : UnitSt) (isLoad : Bool) (o : SOp) : UnitSt :=
  { U with work := { U.work with
    sops := U.work.sops ++ [o]
    loads := if isLoad then U.work.loads + 1 else U.work.loads
    stores := if isLoad then U.work.stores else U.work.stores + 1 } }

/-- The operation that a request leaves behind. -/
def MemReq.sop (q : MemReq) (id : Nat) (p : Place) : SOp :=
  ⟨id, q.op, p, q.n, q.sx, q.lvl, q.d, q.v, q.v2, q.cap, none, false⟩

/-- RACE's INFO1 (R440): both sizes. -/
def raceSizes (n : Nat) (a : Access) : Nat := n % 256 + a.n % 256 * 256
/-- RACE's INFO words (R440): the lowest conflicting address and both sizes. -/
def raceInfo (key addr n : Nat) (a : Access) : Nat × Nat := (addr + (a.meetsAt key - key), raceSizes n a)

/-- A stream descriptor is within its limits (R189). -/
def descOk (b : List Byte) : Bool :=
  let f := fun o n => ofBytes ((b.drop o).take n)
  let d := Desc.ofBytes b 0 Cap.null Cap.null
  decide (d.fmt ≤ 3) && decide (f 1 1 < 8) && (!d.widen || decide (d.fmt = 1)) && (decide (d.fmt ≠ 2) || decide (d.rnd = 0))
    && decide (1 ≤ d.vlen) && decide (d.vlen ≤ 64) && decide (d.kd ≤ 15)
    && (if d.fmt = 2 then decide (d.ks ≤ 15) else decide (d.ks = 0) && decide (d.scstr = 0) && decide (d.scoff = 0))
    && decide (f 5 1 = 0) && decide (f 20 4 = 0) && decide (f 36 4 = 0) && decide (d.rows ≤ 2 ^ 32)
    && (decide (d.fmt ≠ 2) || decide (d.t 0 = 0))

/-- A memory word of S at issue: LDAQ order, counter, the checks of R107, the race check, then the operation. -/
def State.memIssue (s : State) (u : Nat) (r : PassRec) (f : Flight) (q : MemReq) : Res :=
  let U := s.unit u
  let c := U.kS q.k
  if U.acquiring ∨ !U.room q.isLoad then .stall s
  else match s.access u c q.k q.o q.n q.perm q.n r.addr q.kind with
  | .hold s1 => .stall s1
  | .trap s1 cause i0 i1 => .trapAt s1 cause i0 i1
  | .mig a =>
    let p : Place := ⟨c.space, a, none⟩
    let add := fun (s : State) => (s.setUnit u ((s.unit u).addSop q.isLoad (q.sop f.id p))).joinReplay u f.id a
    let key := s.oldKey u p
    if checkedCap c then
      match s.raceCheck u .S key q.n (q.kind ≠ .read) q.scope with
      | .inl s1 => .go (add s1) f
      | .inr (s1, b) => .trapAt s1 .race (raceInfo key a q.n b).1 (raceInfo key a q.n b).2
    else .go (add s) f
  | .ok key a =>
    let add := fun (s : State) => s.setUnit u ((s.unit u).addSop q.isLoad (q.sop f.id ⟨c.space, a, some key⟩))
    if checkedCap c then
      match s.raceCheck u .S key q.n (q.kind ≠ .read) q.scope with
      | .inl s1 => .go (add s1) f
      | .inr (s1, b) => .trapAt s1 .race (raceInfo key a q.n b).1 (raceInfo key a q.n b).2
    else .go (add s) f

/-- A memory word whose flight waits until it is performed: a load. -/
def Flight.loading (f : Flight) (wr : List Nat) : Flight := { f with wait := .op, wr := wr }

/-- The request of LD and LDAQ. -/
def ldReq (U : UnitSt) (d a b : Nat) (m : XM) (op : SKind) (scope : Option Nat) : MemReq :=
  ⟨a, U.memOff b m, 2 ^ m.size, permR, .read, scope, true, op, m.sx = 1, scope.getD 0, d, 0, 0, Cap.null⟩

/-- The request of ST and STRL. -/
def stReq (U : UnitSt) (d a b : Nat) (m : XM) (op : SKind) (scope : Option Nat) : MemReq :=
  ⟨a, U.memOff b m, 2 ^ m.size, permW, .write, scope, false, op, false, effScope (U.kS a).space (scope.getD 0), d,
    U.xS d, 0, Cap.null⟩

def execLd (tk : Tok) (d a b : Nat) (m : XM) (s : State) : Out :=
  s.sWord tk m.grd [32 + a, b] fun s U r f => s.memIssue s.who.1 r (f.loading [d]) (ldReq U d a b m .ld none)

def execLdaq (tk : Tok) (d a b : Nat) (m : XM) (s : State) : Out :=
  s.sWord tk m.grd [32 + a, b] fun s U r f =>
    s.memIssue s.who.1 r (f.loading [d]) (ldReq U d a b m .ldaq (some (effScope (U.kS a).space m.scope)))

def execSt (tk : Tok) (d a b : Nat) (m : XM) (s : State) : Out :=
  s.sWord tk m.grd [32 + a, b, d] fun s U r f => s.memIssue s.who.1 r f (stReq U d a b m .st none)

def execStrl (tk : Tok) (d a b : Nat) (m : XM) (s : State) : Out :=
  s.sWord tk m.grd [32 + a, b, d] fun s U r f =>
    s.memIssue s.who.1 r f (stReq U d a b m .strl (some (effScope (U.kS a).space m.scope)))

/-- The request of AMO and CAS: R, W and A (R102), a load of R147. -/
def atomReq (U : UnitSt) (d a b : Nat) (m : XM) (op : SKind) (v2 : Word) : MemReq :=
  let sc := effScope (U.kS a).space m.scope
  ⟨a, U.memOff b m, 2 ^ m.size, permR + permW + permA, .atomic, some sc, true, op, m.sx = 1, sc, d, U.xS d, v2, Cap.null⟩

def execAmo (tk : Tok) (d a b : Nat) (m : XM) (s : State) : Out :=
  s.sWord tk m.grd [32 + a, b, d] fun s U r f =>
    s.memIssue s.who.1 r { f with wr := [d] } (atomReq U d a b m (.amo m.sub) 0)

def execCas (tk : Tok) (d a b : Nat) (m : XM) (s : State) : Out :=
  s.sWord tk m.grd [32 + a, b, d, d + 1] fun s U r f =>
    s.memIssue s.who.1 r { f with wr := [d] } (atomReq U d a b m .cas (U.xS (d + 1)))

/-- KLD (R163): 16 bytes and the tag, R and C. -/
def execKld (tk : Tok) (d a b : Nat) (m : XM) (s : State) : Out :=
  s.sWord tk m.grd [32 + a, b] fun s U r f =>
    s.memIssue s.who.1 r (f.loading [32 + d])
      ⟨a, U.memOff b m, 16, permR + permC, .read, none, true, .kld, false, 0, d, 0, 0, Cap.null⟩

/-- KST (R163, R103): a tagged capability without G stays in the unit scratchpad; none leaves the module. -/
def execKst (tk : Tok) (d a b : Nat) (m : XM) (s : State) : Out :=
  s.sWord tk m.grd [32 + a, b, 32 + d] fun s U r f =>
    let c := U.kS a
    let v := U.kS d
    let o := U.memOff b m
    let keep := v.tag && !v.g && decide (c.space ≠ 1)
    match c.check o 16 (permW + permC) with
    | .ok addr =>
      if c.space ≠ 7 ∧ addr % 16 = 0 ∧ (keep ∨ c.space = 5 ∨ c.space = 6) then .trap .kperm o (capInfo a 16 r.addr)
      else s.memIssue s.who.1 r f ⟨a, o, 16, permW + permC, .write, none, false, .kst, false, 0, d, 0, 0, v⟩
    | .error _ => s.memIssue s.who.1 r f ⟨a, o, 16, permW + permC, .write, none, false, .kst, false, 0, d, 0, 0, v⟩

/-- FENCE (R159) of kind 0 full, 1 acquire, 2 release: S stalls until its first column is performed at the scope. -/
def execFence (tk : Tok) (kind scope : Nat) (s : State) : Out :=
  s.sSerial tk none [] fun s U _ f =>
    let loads := U.work.sops.any fun o => match o.kind with
      | .ld | .ldaq | .kld | .qpop | .amo _ | .cas => true | _ => false
    if kind = 1 then if loads ∨ !s.mem.madePerformed s.who.1 3 scope then .stall s else .go s f
    else if U.work.sops ≠ [] ∨ !(s.mem.releasedAt s.who.1 scope) then .stall s
    else .go (s.setUnit s.who.1 { U with hb := { U.hb with relFrom := s.mem.nextId } }) f

/-! ### Performing -/

/-- The operations of AMO (R156) on n-byte values. -/
def amoOp (op n old v : Nat) : Nat :=
  let m : Nat := 2 ^ (8 * n)
  let sg := fun (x : Nat) => if m / 2 ≤ x then (x : Int) - (m : Int) else (x : Int)
  match op with
  | 1 => v
  | 2 => (old + v) % m
  | 3 => old &&& v
  | 4 => old ||| v
  | 5 => old ^^^ v
  | 6 => if sg v < sg old then v else old
  | 7 => if sg old < sg v then v else old
  | 8 => min old v
  | _ => max old v

/-- The value that a load of n bytes leaves in x (R153). -/
def loaded (v n : Nat) (sx : Bool) : Word := if sx then sxWord v (8 * n) else BitVec.ofNat 64 v

def SOp.isScoped (o : SOp) : Bool := match o.kind with | .ldaq | .strl | .amo _ | .cas => true | _ => false
def SOp.writes (o : SOp) : Bool := match o.kind with | .st | .strl | .amo _ | .cas | .kst => true | _ => false
def SOp.isAtomic (o : SOp) : Bool := match o.kind with | .amo _ | .cas => true | _ => false
def SOp.reads (o : SOp) : Bool := match o.kind with | .ld | .ldaq | .amo _ | .cas | .kld => true | _ => false

/-- Two operations touch common bytes; one that a migration holds is compared by its address. -/
def SOp.overlaps (a b : SOp) : Bool :=
  match a.place.key, b.place.key with
  | some x, some y => decide (x < y + b.n) && decide (y < x + a.n)
  | _, _ => decide (a.place.addr < b.place.addr + b.n) && decide (b.place.addr < a.place.addr + a.n)

/-- The operation and those before it. -/
def findSop (id : Nat) : List SOp → List SOp → Option (SOp × List SOp)
  | _, [] => none
  | before, o :: r => if o.id = id then some (o, before) else findSop id (before ++ [o]) r

/-- The operation accesses memory. -/
def SOp.accesses (o : SOp) : Bool := o.reads || o.writes

/-- A write of S after a releasing FENCE is a release at its scope: what happens before it is performed there (R416, R420). -/
def State.fenced (s : State) (u : Nat) : Bool :=
  match (s.unit u).hb.relScope with
  | some sc => s.mem.releasedSince u sc (s.unit u).hb.relFrom
  | none => true

/-- S's own order lets the operation be performed now: R152 for common bytes, two reads of them included, R415 for scoped
accesses, R154 and R161 for releases. -/
def State.sopReady (s : State) (u : Nat) (o : SOp) (before : List SOp) : Bool :=
  (before.all fun p => !(p.overlaps o && p.accesses && o.accesses))
    && (!o.isScoped || before.all fun p => !p.isScoped)
    && (match o.kind with
        | .strl => before = [] && s.mem.releasedAt u o.scope
        | .qpush => before = [] && s.mem.releasedAt u 1
        | _ => !o.writes || s.fenced u)

/-- An operation has been performed: it leaves the work, the replay queue of its die and its counter. -/
def State.dropSop (s : State) (u id : Nat) (isLoad : Bool) : State :=
  let U := s.unit u
  (s.quitReplay u id).setUnit u { U with work := { U.work with
    sops := U.work.sops.filter fun o => o.id ≠ id, gone := U.work.gone.filter fun f => f.id ≠ id
    loads := if isLoad then U.work.loads - 1 else U.work.loads
    stores := if isLoad then U.work.stores else U.work.stores - 1 } }

/-- An operation that no counter counts has been performed. -/
def State.forgetSop (s : State) (u id : Nat) : State :=
  let U := s.unit u
  s.setUnit u { U with work := { U.work with sops := U.work.sops.filter fun o => o.id ≠ id } }

/-- The word of an operation makes these effects: at its retirement, or at once when it has retired (R151), with the cluster's clock
(R385). -/
def UnitSt.give (U : UnitSt) (id : Nat) (effs : List Eff) : UnitSt :=
  if U.work.fl.any fun f => f.id = id then (U.finish id effs).retire .S
  else if U.stopped then { U with work := { U.work with late := U.work.late ++ effs } }
  else effs.foldl UnitSt.applyEff U

/-- A trap that an operation's late translation raises (R117). -/
def State.lateTrap (s : State) (u : Nat) (addr : Nat) (write : Bool) (l r : Nat) : State :=
  s.takeTrap u ⟨.xlat, 0, addr, l + r * 16 + (if write then 256 else 0)⟩

/-- The argument view's bytes [o, o + n), read at `key`: a continuation's first 24 bytes are its payload (R378). -/
def State.argView (s : State) (U : UnitSt) (key o n : Nat) : List Byte :=
  let pay := (U.id.payload.map fun w => u64 w.toNat).flatten
  (List.range n).map fun i => if U.id.c ∧ o + i < 24 then pay.getD (o + i) 0 else s.mem.byte .device (key + i)

/-- A TARG is performed: it has its value, or a migration held it and it reads the argument view now (R117, R383). -/
def State.performTarg (s : State) (u id : Nat) (o : SOp) : State :=
  let end_ := fun (s : State) (v : Word) =>
    let s1 := (s.forgetSop u id).quitReplay u id
    s1.setUnit u ((s1.unit u).give id [.x o.d v])
  if o.place.key.isSome then end_ s o.v
  else if !s.replayHead u id then s
  else match s.late u o.place .read with
    | .ok key =>
      (match s.poisonCheck u key o.n with
       | some s1 => s1
       | none =>
         let U := s.unit u
         let off := (o.place.addr + 2 ^ 64 - U.id.args) % 2 ^ 64
         end_ (s.touch key) (loaded (ofBytes (s.argView U key off o.n)) o.n o.sx))
    | .xlat l r => s.lateTrap u o.place.addr false l r
    | _ => s

/-- A read of S takes its bytes from releases: a later acquiring FENCE learns of them, and an LDAQ does so at once (R416, R417). -/
def State.acquire (s : State) (u : Nat) (o : SOp) (key : Nat) : State :=
  let rels := s.mem.relsAt (.unit u) key o.n
  if rels = [] then s
  else
    let U := s.unit u
    let V := { U with hb := { U.hb with seen := U.hb.seen ++ rels.filter fun r => !U.hb.seen.contains r } }
    if o.kind = .ldaq then
      let ids := learnOf rels u o.scope
      s.setUnit u ((V.learn .S ids).addActs o.id ids)
    else s.setUnit u V

/-- A write of S that is a release, or an atomic that took its value from releases `old`, carries them (R416, R417). -/
def State.release (s : State) (u id wid key n : Nat) (old : List Rel) : State :=
  let rels := (s.unit u).relOf id ++ old
  if rels = [] then s
  else { s with mem := s.mem.noteRels wid key n rels }.setUnit u ((s.unit u).dropRel id)

/-- An SSET's descriptor enters its shadow queue, and its word retires (R192). -/
def State.enterDesc (s : State) (u id d : Nat) (D : Desc) : State :=
  let t := SMap.get Stream.reset (s.unit u).streams d
  let s1 := s.dropSop u id true
  let V := s1.unit u
  s1.setUnit u ({ V with streams := SMap.set Stream.reset V.streams d { t with shadow := t.shadow ++ [D] } }.give id [])

/-- The capability that an SSET captured as it issued, and its origin where the register still holds it. -/
def UnitSt.captured (U : UnitSt) (caps : List Cap) (k : Nat) : Cap × KOrigin :=
  let c := caps.getD k Cap.null
  (c, if U.kS k = c then U.kMark k else .volatile)

/-- An SSET that a migration held reads its descriptor, checks it and fills its entry (R117, R192); the capabilities are those that it
captured as it issued. -/
def State.lateSset (s : State) (u id : Nat) (o : SOp) (before : List SOp) : State :=
  let U := s.unit u
  if !s.sopReady u { o with kind := .ld } before ∨ !s.replayHead u id then s
  else match s.late u o.place .read with
  | .ok key =>
    (match s.poisonCheck u key 64 with
     | some s1 => s1
     | none =>
      let bs := s.mem.read (.unit u) key 64
      let f := U.work.fl.find? fun f => f.id = id
      if !descOk bs then s.takeTrap u ⟨.und, 0, (f.map (·.addr)).getD 0, (f.map (·.hdr)).getD 0⟩
      else
        let D := Desc.ofBytes bs 0 Cap.null Cap.null
        let caps := (f.map (·.caps)).getD []
        let a := U.captured caps D.kd
        let b := U.captured caps D.ks
        (s.touchRange key 64).enterDesc u id o.d { D with capD := a.1, capS := b.1, orgD := a.2, orgS := b.2 })
  | .xlat l r => s.lateTrap u o.place.addr false l r
  | _ => s

/-- A load of S is performed: LD, LDAQ, KLD, SSET, QPOP, TARG (R147, R151). -/
def State.performLoad (s : State) (u id : Nat) : State :=
  let U := s.unit u
  match findSop id [] U.work.sops with
  | none => s
  | some (o, before) =>
    match o.kind with
    | .sset =>
      if before.any fun p => p.kind == .sset && p.d == o.d then s
      else match o.desc with
      | some D => s.enterDesc u id o.d D
      | none => s.lateSset u id o before
    | .qpop => let s1 := s.dropSop u id true; s1.setUnit u ((s1.unit u).give id [.x o.d o.v])
    | .targ => s.performTarg u id o
    | .ld | .ldaq | .kld =>
      if !s.sopReady u o before ∨ !s.replayHead u id then s
      else match s.late u o.place .read with
      | .ok key =>
        (match s.poisonCheck u key o.n with
         | some s1 => s1
         | none =>
          let bs := s.mem.read (.unit u) key o.n
          let s1 := ((s.acquire u o key).touch key).dropSop u id true
          let eff := match o.kind with
            | .kld =>
              let tagged := s.mem.tagAt (.unit u) key && decide (o.place.space ≠ 5) && decide (o.place.space ≠ 6)
              Eff.k o.d ⟨BitVec.ofNat 128 (ofBytes bs), tagged⟩
            | _ => Eff.x o.d (loaded (ofBytes bs) o.n o.sx)
          s1.setUnit u ((s1.unit u).give id [eff]))
      | .xlat l r => s.lateTrap u o.place.addr false l r
      | _ => s
    | _ => s

/-- A store of S is performed: ST, STRL, KST, QPUSH (R151, R154, R161). -/
def State.performStore (s : State) (u id : Nat) : State :=
  let U := s.unit u
  match findSop id [] U.work.sops with
  | none => s
  | some (o, before) =>
    if !s.sopReady u o before then s
    else match o.kind with
    | .qpush =>
      let C := s.cluster (clusterOf u)
      let qi := U.id.task * 8 + o.d
      let rel := pushRel (SMap.get [] C.stageRel qi) (SMap.get [] C.stageq qi).length 1 (U.relIds id)
      let s1 := s.setCluster (clusterOf u) { C with
        stageq := SMap.modify [] C.stageq qi (fun q => q ++ [o.v])
        stageRel := if rel = [] then C.stageRel else SMap.set [] C.stageRel qi rel }
      (s1.setUnit u (U.dropRel id)).dropSop u id false
    | .st | .strl | .kst =>
      if !s.replayHead u id then s
      else match s.late u o.place .write with
      | .ok key =>
          let lvl := effScope o.place.space o.scope
          let s1 := if o.kind = .kst then s.store o.rc u lvl key (toBytes 16 o.cap.bits.toNat) o.cap.tag
            else s.store o.rc u lvl key (toBytes o.n o.v.toNat) false
          let s2 : State := { s1 with mem := s1.mem.noteBy s.mem.nextId 2 }
          (s2.release u id s.mem.nextId key o.n []).dropSop u id false
      | .xlat l r => s.lateTrap u o.place.addr true l r
      | _ => s
    | _ => s

/-- An AMO or CAS makes its one atomic step and returns the old value (R155 to R158). -/
def State.performAtomic (s : State) (u id : Nat) : State :=
  let U := s.unit u
  match findSop id [] U.work.sops with
  | none => s
  | some (o, before) =>
    if !o.isAtomic ∨ !s.sopReady u o before ∨ !s.replayHead u id then s
    else match s.late u o.place .atomic with
    | .ok key =>
      (match s.poisonCheck u key o.n with
       | some s1 => s1
       | none =>
        let old := s.mem.num (.unit u) key o.n
        let v := o.v.toNat % 2 ^ (8 * o.n)
        let new : Option Nat := match o.kind with
          | .amo op => some (amoOp op o.n old v)
          | .cas => if old = v then some (o.v2.toNat % 2 ^ (8 * o.n)) else none
          | _ => none
        let s0 := s.acquire u o key
        let s1 := match new with
          | some w =>
            let s1 := s0.store o.rc u o.scope key (toBytes o.n w) false
            ({ s1 with mem := s1.mem.noteBy s.mem.nextId 3 } : State).release u id s.mem.nextId key o.n (s.mem.relsAt (.unit u) key o.n)
          | none => (s0.touch key).setUnit u ((s0.unit u).dropRel id)
        let s2 := s1.dropSop u id true
        s2.setUnit u (((s2.unit u).give id [.x o.d (loaded old o.n o.sx)]).atomDone id))
    | .xlat l r => s.lateTrap u o.place.addr true l r
    | _ => s

/-- The unit events: a unit that the module does not have stops the model; any other state is a next state. -/
def unitEvent (u : Nat) (s : State) (t : State) : Out := if 768 ≤ u then .fault (.noSuchUnit u) else .next (if s.halted u then s else t)

/-- The cluster's clock stands still in a relock (R385). -/
def State.stands (s : State) (u : Nat) : Bool := (s.cluster (clusterOf u)).clk.relock

/-- An event of what runs on the cluster's clock: none happens in a relock (R385). -/
def clockEvent (u : Nat) (s t : State) : Out := unitEvent u s (if s.stands u then s else t)

/-- The operation lies within the cluster: an access outside it goes on in a relock (R385). -/
def SOp.inside (o : SOp) : Bool :=
  decide (o.place.space = 1) || decide (o.place.space = 2) || decide (o.place.space = 4)
    || (match o.kind with | .sset | .qpush | .qpop => true | _ => false)

/-- The operation waits for its cluster's clock. -/
def State.sopStands (s : State) (u id : Nat) : Bool :=
  s.stands u && (s.unit u).work.sops.any fun o => decide (o.id = id) && o.inside

def execScalarLoadPerformed (u id : Nat) (s : State) : Out := unitEvent u s (if s.sopStands u id then s else s.performLoad u id)
def execScalarStorePerformed (u id : Nat) (s : State) : Out := unitEvent u s (if s.sopStands u id then s else s.performStore u id)
def execAtomicPerformed (u id : Nat) (s : State) : Out := unitEvent u s (if s.sopStands u id then s else s.performAtomic u id)

/-- A multi-cycle scalar word makes its result available and retires in order (R327). -/
def execScalarArithRetire (u : Nat) (s : State) : Out :=
  let U := s.unit u
  clockEvent u s (match U.work.fl.find? fun f => f.eng == .S && decide (f.wait = .arith) with
    | some f => s.setUnit u ((U.finish f.id []).retire .S)
    | none => s)

end Sys2Proof.Machine
end

