-- ==== Sys2Proof/Machine/StreamCtl.lean ====
section
/-! DEFINITION. Streams (R187 to R204): descriptors and their walk, SSET, SPOS, SGET, SGO, SSKIP, SREW, SDROP, read-ahead
requests and returns, and the taking of a step by a consuming word. -/

namespace Sys2Proof.Machine

def UnitSt.stream (U : UnitSt) (i : Nat) : Stream := SMap.get Stream.reset U.streams i
def UnitSt.setStream (U : UnitSt) (i : Nat) (t : Stream) : UnitSt :=
  { U with streams := SMap.set Stream.reset U.streams i t }

/-! ### SSET, SPOS, SGET (R192 to R194) -/

/-- The shadow queue of a stream has room, those that are still on their way counted (R188). -/
def UnitSt.shadowRoom (U : UnitSt) (i : Nat) : Bool :=
  decide ((U.stream i).shadow.length + (U.work.sops.filter fun o => o.kind == .sset && o.d == i).length < 2)

/-- SSET: the descriptor is read and checked first, then the word waits for room in the shadow queue (R192); the descriptor
enters the queue when the load is performed.  Where its page is migrating the word takes its entry and the capabilities that its
descriptor may name, and the rest follows when the access is released (R117). -/
def execSset (tk : Tok) (d a b : Nat) (m : XM) (s : State) : Out :=
  s.sWord tk m.grd [32 + a, b] fun s U r f =>
    let u := s.who.1
    let c := U.kS a
    let o := U.memOff b m
    if U.acquiring ∨ !U.room true then .stall s
    else match s.access u c a o 64 permR 64 r.addr .read with
    | .hold s1 => .stall s1
    | .trap s1 cause i0 i1 => .trapAt s1 cause i0 i1
    | .mig addr =>
      if (List.range 16).any U.kPend then .stall s
      else if !U.shadowRoom d then .stall (s.beginOwn u .S)
      else
        let op : SOp := ⟨f.id, .sset, ⟨c.space, addr, none⟩, 64, false, 0, d, 0, 0, Cap.null, none, false⟩
        .go ((s.setUnit u (U.addSop true op)).joinReplay u f.id addr) { f.loading [] with caps := (List.range 16).map U.kS }
    | .ok key addr =>
      let op : SOp := ⟨f.id, .sset, ⟨c.space, addr, some key⟩, 64, false, 0, d, 0, 0, Cap.null, none, false⟩
      if !s.sopReady u { op with kind := .ld } U.work.sops then .stall s
      else match s.poisonCheck u key 64 with
      | some s1 => .jump s1
      | none =>
        let bs := s.mem.read (.unit u) key 64
        if !descOk bs then r.trapHere .und
        else
          let D0 := Desc.ofBytes bs 0 Cap.null Cap.null
          let D := { D0 with capD := U.kS D0.kd, capS := U.kS D0.ks, orgD := U.kMark D0.kd, orgS := U.kMark D0.ks }
          if U.kPend D0.kd ∨ U.kPend D0.ks then .stall s
          else if !U.shadowRoom d then .stall (s.beginOwn u .S)
          else .go ((s.touchRange key 64).setUnit u (U.addSop true { op with desc := some D })) (f.loading [])

/-- SPOS: the start position of the newest entry; it waits for the SSET that fills the entry (R193). -/
def execSpos (tk : Tok) (d a : Nat) (g : XP) (s : State) : Out :=
  s.sWord tk g [d] fun s U r f =>
    if U.work.sops.any fun o => o.kind == .sset && o.d == a then .stall s
    else
      let t := U.stream a
      match t.shadow.getLast? with
      | none => r.trapHere .und
      | some D =>
        if (U.xS d).toNat < D.total then
          .go (s.setUnit s.who.1 (U.setStream a { t with shadow := t.shadow.dropLast ++ [{ D with p0 := (U.xS d).toNat }] })) f
        else r.trapHere .und

/-- SGET (R194): the values held as it issues. -/
def execSget (tk : Tok) (d a imm : Nat) (g : XP) (s : State) : Out :=
  s.xWord tk g d [] fun U =>
    let t := U.stream a
    BitVec.ofNat 64 (match imm with
      | 0 => t.pc
      | 1 => t.ps
      | 2 => (match t.mode, t.active with | .idle, _ => 0 | _, some D => D.total | _, none => 0)
      | 3 => t.stateWord
      | _ => t.p0)

/-! ### SGO, SSKIP, SREW, SDROP (R195 to R199) -/

/-- The descriptor that an SGO takes: at a replay the recorded one; after a trapped SGO the active one (R195, R338). -/
def sgoDesc (U : UnitSt) (r : PassRec) (i : Nat) : Option Desc :=
  if U.tape.run = 2 then
    let b := ((r.desc.take 4).map fun n => toBytes 16 n).flatten
    some (Desc.ofBytes b (fld (r.desc.getD 4 0) 0 64) (r.caps.getD 0 Cap.null) (r.caps.getD 1 Cap.null))
  else if (U.stream i).popped then (U.stream i).active
  else (U.stream i).shadow.head?

/-- The checks of SGO in their order: cause and INFO words. -/
def sgoCheck (d : Desc) (w : Bool) (r : PassRec) : Option (Cause × Nat × Nat) :=
  let lo := (d.lo % 2 ^ 64).toNat
  let span := (d.hi - d.lo + 1).toNat
  let perm := if w then permW else permR
  if 3 < d.capD.space ∨ (d.fmt = 2 ∧ 3 < d.capS.space) then
    some (.kperm, lo, capInfo (if 3 < d.capD.space then d.kd else d.ks) 1 r.addr)
  else match d.capD.check lo span perm with
  | .error c => some (c, lo, capInfo d.kd span r.addr)
  | .ok _ =>
    match if d.fmt = 2 then d.capS.check d.scoff d.scaleSpan perm else .ok 0 with
    | .error c => some (c, d.scoff, capInfo d.ks d.scaleSpan r.addr)
    | .ok _ =>
      if d.fmt ≠ 2 ∧ (d.off % d.size ≠ 0 ∨ (List.range 6).any fun i => d.t i % d.size ≠ 0) then
        some (.align, lo, capInfo d.kd d.size r.addr)
      else if w ∧ d.fmt = 2 then some (.und, r.addr, r.hdr)
      else none

/-- The start of a stream (R195). -/
def startStream (t : Stream) (d : Desc) (w : Bool) : Stream :=
  { t with active := some d, popped := false, mode := if w then .write else .read, cons := if w then 3 else 0,
           p0 := d.p0, pc := d.p0, ps := d.p0, buf := [], lines := [] }

/-- What a recording keeps of an SGO: its descriptor and the capabilities it captured. -/
def sgoRec (i : Nat) (s : State) (_ : PassRec) : Rec :=
  match ((s.unit s.who.1).stream i).shadow.head? with
  | some d => ⟨some d, (d.capD, d.orgD) :: (if d.fmt = 2 then [(d.capS, d.orgS)] else [])⟩
  | none => ⟨none, []⟩

/-- An SDROP of the stream has issued and not retired: the later words of its engine wait for the Idle stream that it leaves
(R198, R211). -/
def UnitSt.dropping (U : UnitSt) (i : Nat) : Bool := U.work.fl.any fun f => f.eff.contains (.sidle i)

/-- SGO in the engine that starts the stream: it waits for an entry before its checks (R195). -/
def State.sgo (s : State) (tk : Tok) (i : Nat) (g : XP) (w : Bool) : Out :=
  State.word s tk g [] (sgoRec i) fun s U r f =>
    let u := s.who.1
    let e := s.who.2
    let t := U.stream i
    match sgoDesc U r i with
    | none => .stall (s.beginOwn u e)
    | some d =>
      if U.dropping i then .stall s
      else if t.mode ≠ .idle then r.trapHere .und
      else
      let t1 := { t with shadow := if U.tape.run = 2 ∨ t.popped then t.shadow else t.shadow.tail,
                         active := some d, popped := true }
      match sgoCheck d w r with
      | some (c, i0, i1) => .trapAt (s.setUnit u (U.setStream i t1)) c i0 i1
      | none => .go (s.setUnit u (U.setStream i (startStream t1 d w))) f

/-- The position `k` steps after `p` (R191, R196): the rest of the row, whole rows, then steps of the last row. -/
def Desc.skip (d : Desc) (p k : Nat) : Nat :=
  let per := (d.c 0 + d.vlen - 1) / d.vlen
  let left := (d.c 0 - d.i0 p + d.vlen - 1) / d.vlen
  if k < left then min d.total (p + k * d.vlen)
  else
    let k1 := k - left
    min d.total ((d.row p + 1 + k1 / per) * d.c 0 + k1 % per * d.vlen)

/-- The words of SSKIP, SREW and SDROP: an Idle stream and the wrong engine raise UND (R196 to R199). -/
def State.sctl (s : State) (tk : Tok) (i : Nat) (g : XP) (w : Bool) (act : Stream → Desc → Stream) : Out :=
  s.eWord tk g fun s U r f =>
    let t := U.stream i
    if U.dropping i then .stall s
    else match t.mode, t.active with
    | .idle, _ => r.trapHere .und
    | m, some d =>
      if (m = .write) ≠ (w = true) then r.trapHere .und
      else .go (s.setUnit s.who.1 (U.setStream i (act t d))) f
    | _, none => r.trapHere .und

/-- The lines of the rows before a position's are of no more use. -/
def Stream.pastRows (t : Stream) (d : Desc) (pc : Nat) : List (Nat × Nat × List Byte) :=
  t.lines.filter fun l => decide (d.row pc ≤ l.1)

/-- SSKIP: buffered steps that are skipped are dropped, and the marks that stand in them. -/
def skipStream (n : Nat) (t : Stream) (d : Desc) : Stream :=
  let pc := if t.pc = d.total then t.pc else d.skip t.pc n
  let buf := (t.buf.filter fun b => decide (pc < b.pos + b.n)).map fun b =>
    if b.pos < pc then
      { b with pos := pc, n := b.pos + b.n - pc, mark := none
               data := b.data.map fun q => (q.1.drop (pc - b.pos), q.2.drop (pc - b.pos)) }
    else b
  { t with pc := pc, ps := max t.ps pc, buf := buf, lines := t.pastRows d pc }

def rewindStream (t : Stream) (_ : Desc) : Stream := { t with pc := t.p0, ps := t.p0, buf := [], lines := [] }

/-- SDROP acts as it retires, after the earlier words of its engine: the stream is Idle then, and its banks have their last-use
hint (R133, R198, R211). -/
def State.sdrop (s : State) (tk : Tok) (i : Nat) (g : XP) (w : Bool) : Out :=
  s.eWord tk g fun s U r f =>
    let t := U.stream i
    if U.dropping i then .stall s
    else match t.mode, t.active with
    | .idle, _ => .go s f
    | m, some d =>
      if (m = .write) ≠ (w = true) then r.trapHere .und
      else .go s { f with eff := [.sidle i, .sdrop d.banks] }
    | _, none => .go s f

def execSgoL (tk : Tok) (i : Nat) (g : XP) (s : State) : Out := s.sgo tk i g false
def execSgoW (tk : Tok) (i : Nat) (g : XP) (s : State) : Out := s.sgo tk i g true
def execSskipL (tk : Tok) (i imm32 : Nat) (s : State) : Out := s.sctl tk i none false (skipStream imm32)
def execSskipW (tk : Tok) (i imm32 : Nat) (s : State) : Out := s.sctl tk i none true (skipStream imm32)
def execSrewL (tk : Tok) (i : Nat) (g : XP) (s : State) : Out := s.sctl tk i g false rewindStream
def execSrewW (tk : Tok) (i : Nat) (g : XP) (s : State) : Out := s.sctl tk i g true rewindStream
def execSdropL (tk : Tok) (i : Nat) (g : XP) (s : State) : Out := s.sdrop tk i g false
def execSdropW (tk : Tok) (i : Nat) (g : XP) (s : State) : Out := s.sdrop tk i g true

/-! ### Reading elements (R200 to R204, R483) -/

/-- `n` bytes at an address, at most 64 of them, cut where a 64-byte line ends. -/
def linePieces (a n : Nat) : List (Nat × Nat) :=
  if n ≤ 64 - a % 64 then [(a, n)] else [(a, 64 - a % 64), (a + (64 - a % 64), n - (64 - a % 64))]

/-- The address of the first byte of an element. -/
def Desc.first (d : Desc) (p : Nat) : Nat := d.capD.base + (d.addr p % 2 ^ 64).toNat

/-- The bytes of an element as pieces of lines, its scale last: capability, address, bytes. -/
def Desc.pieces (d : Desc) (p : Nat) : List (Cap × Nat × Nat) :=
  (linePieces (d.first p) (d.width p)).map (fun q => (d.capD, q))
    ++ (if d.fmt = 2 then [(d.capS, d.capS.base + d.scaleAddr p, 1)] else [])

/-- The code and the scale of an element from the bytes of its pieces. -/
def Desc.elem (d : Desc) (p : Nat) (bs : List (List Byte)) : Nat × Nat :=
  if d.fmt = 2 then (fld (Machine.ofBytes bs.dropLast.flatten) (6 * (d.i0 p % 8) % 8) 6, Machine.ofBytes (bs.getLastD []))
  else (Machine.ofBytes bs.flatten, 0)

/-- What the checks of a piece give; a mark comes with the address that it stands against. -/
inductive SAcc where
  | ok (key : Nat)
  | wait (s : State)
  | mig (addr : Nat)
  | mark (m : Mark) (addr : Nat)

/-- Unit scratchpad banks, then translation, for `n` bytes at an address of a capability that SGO has checked. -/
def State.streamAcc (s : State) (u : Nat) (c : Cap) (a n : Nat) : SAcc :=
  match if c.space = 1 then s.spadChk u a n true else .ok with
  | .trap _ _ => .mark .spaddrop a
  | .wait s1 => .wait s1
  | .ok =>
    match s.translate u c.space a .read with
    | .ok key => .ok key
    | .miss => .wait (s.startWalk u a)
    | .mig => .mig a
    | .xlat l r => .mark (.xlat a (l + r * 16)) a

/-- The keys of pieces with their lengths, or the first thing that stands against one. -/
def State.pieceKeys (s : State) (u : Nat) : List (Cap × Nat × Nat) → SAcc ⊕ List (Nat × Nat)
  | [] => .inr []
  | (c, a, n) :: r =>
    match s.streamAcc u c a n with
    | .ok key =>
      (match s.pieceKeys u r with
       | .inl x => .inl x
       | .inr l => .inr ((key, n) :: l))
    | other => .inl other

/-- The keys of elements, or the first element with what stands against it. -/
def State.elemKeys (s : State) (u : Nat) (d : Desc) : List Nat → (Nat × SAcc) ⊕ List (Nat × List (Nat × Nat))
  | [] => .inr []
  | p :: r =>
    match s.pieceKeys u (d.pieces p) with
    | .inl x => .inl (p, x)
    | .inr k =>
      match s.elemKeys u d r with
      | .inl x => .inl x
      | .inr l => .inr ((p, k) :: l)

/-- The elements of a run. -/
def runFrom (p n : Nat) : List Nat := (List.range n).map (p + ·)

/-- Codes and scales of elements whose pieces have the bytes that `val` gives. -/
def Desc.codes (d : Desc) (keys : List (Nat × List (Nat × Nat))) (val : Nat × Nat → List Byte) : List Nat × List Nat :=
  let v := keys.map fun q => d.elem q.1 (q.2.map val)
  (v.map (·.1), if d.fmt = 2 then v.map (·.2) else [])

/-- The bytes of a piece in the lines that a row has brought, where its line is among them. -/
def Stream.lineBytes (t : Stream) (row : Nat) (k : Nat × Nat) : Option (List Byte) :=
  (t.lines.find? fun l => decide (l.1 = row) && decide (l.2.1 = k.1 / 64)).map fun l => (l.2.2.drop (k.1 % 64)).take k.2

/-- RC on a stream's capabilities: no request is sent ahead (R426). -/
def Desc.checked (d : Desc) : Bool := checkedCap d.capD || (decide (d.fmt = 2) && checkedCap d.capS)

/-- The elements of the row from `p` whose first bytes lie in one line with that of `p`, before `lim`. -/
def Desc.chunk (d : Desc) (p lim : Nat) : Nat :=
  ((List.range (min (d.c 0 - d.i0 p) (lim - p))).takeWhile fun i => decide (d.first (p + i) / 64 = d.first p / 64)).length

/-- A Read stream sends its next request, from Ps on: while Ps − Pc spans fewer than 32 steps, no mark stops it and its unit
is in no handler (R200 to R203). -/
def State.streamRequest (s : State) (u i : Nat) : State :=
  let U := s.unit u
  let t := U.stream i
  match t.mode, t.active with
  | .read, some d =>
    let lim := d.skip t.pc 32
    if U.inHandler ∨ d.checked ∨ lim ≤ t.ps ∨ (t.buf.any fun b => b.mark.isSome) then s
    else
      let n := d.chunk t.ps lim
      let put := fun (n : Nat) (m : Option Mark) => s.setUnit u (U.setStream i { t with
        ps := if m.isSome then t.ps else t.ps + n, buf := t.buf ++ [⟨t.ps, n, none, m⟩] })
      match s.elemKeys u d (runFrom t.ps n) with
      | .inr _ => put n none
      | .inl (p, x) =>
        if t.ps < p then put (p - t.ps) none
        else match x with
        | .mark m _ => put 1 (some m)
        | .wait s1 => s1
        | .mig a => if s.replayRoom u then (put n none).joinReplay u (streamId i t.ps) a else s
        | .ok _ => s
  | _, _ => s

/-- A mark at element `p` of a run: the elements before it stay as they are. -/
def BufStep.markAt (b : BufStep) (p : Nat) (m : Mark) : List BufStep :=
  (if b.pos < p then [{ b with n := p - b.pos }] else []) ++ [{ b with pos := p, n := b.pos + b.n - p, mark := some m }]

/-- A request of a stream brings a line for the run `b`, or finds a mark (R201, R483); once every line of the run is there, the
run has its data.  A request that waits for a migration leaves its queue in turn (R117). -/
def State.bringLine (s : State) (u i : Nat) (d : Desc) (t : Stream) (b : BufStep) : State :=
  let put := fun (l : List BufStep) (lines : List (Nat × Nat × List Byte)) (s : State) =>
    s.setUnit u ((s.unit u).setStream i { t with
      lines := lines, buf := (t.buf.map fun x => if x.pos = b.pos then l else [x]).flatten })
  match s.elemKeys u d (runFrom b.pos b.n) with
  | .inl (p, .mark m _) => put (b.markAt p m) t.lines s
  | .inl (_, .wait s1) => s1
  | .inl (_, .mig a) => if s.replayRoom u then s.joinReplay u (streamId i b.pos) a else s
  | .inl (_, .ok _) => s
  | .inr keys =>
    let row := d.row b.pos
    let fill := fun (t : Stream) (s : State) =>
      if keys.all fun q => q.2.all fun k => (t.lineBytes row k).isSome then
        put [{ b with data := some (d.codes keys fun k => (t.lineBytes row k).getD []) }] t.lines (s.quitReplay u (streamId i b.pos))
      else put [b] t.lines s
    if !s.replayHead u (streamId i b.pos) then s
    else match keys.findSome? fun q => (q.2.find? fun k => (t.lineBytes row k).isNone).map fun k => (q.1, k.1 / 64) with
      | none => fill t s
      | some (p, l) =>
        if s.mem.poisonFor (.unit u) (l * 64) 64 then put (b.markAt p (.poison (l * 64))) t.lines s
        else fill { t with lines := t.lines ++ [(row, l, s.mem.read (.unit u) (l * 64) 64)] } (s.touch (l * 64))

/-- A request that is on its way brings its line: of several, a free value says which. -/
def State.streamReturn (s : State) (u i : Nat) : State :=
  let t := (s.unit u).stream i
  match t.mode, t.active with
  | .read, some d =>
    match t.buf.filter fun b => b.data.isNone && b.mark.isNone with
    | [] => s
    | [b] => s.bringLine u i d t b
    | b :: r => s.bringLine u i d t ((b :: r).getD (Config.freeNat s.tick 840 % (r.length + 1)) b)
  | _, _ => s

def execStreamRequest (u i : Nat) (s : State) : Out := clockEvent u s (s.streamRequest u i)
def execStreamDataReturn (u i : Nat) (s : State) : Out := clockEvent u s (s.streamReturn u i)

/-- The first `n` elements of the buffer, if they have all returned; or the run among them at which a mark stands. -/
def takeBuf : Nat → List BufStep → Option (List Nat × List Nat × List BufStep) ⊕ BufStep
  | 0, bs => .inl (some ([], [], bs))
  | _ + 1, [] => .inl none
  | n + 1, b :: bs =>
    match b.mark, b.data with
    | some _, _ => .inr b
    | none, none => .inl none
    | none, some (x, y) =>
      if b.n ≤ n + 1 then
        match takeBuf (n + 1 - b.n) bs with
        | .inl (some (xs, ys, r)) => .inl (some (x ++ xs, y ++ ys, r))
        | other => other
      else
        .inl (some (x.take (n + 1), y.take (n + 1),
          { b with pos := b.pos + (n + 1), n := b.n - (n + 1), data := some (x.drop (n + 1), y.drop (n + 1)) } :: bs))

/-- What a consuming word gets. -/
inductive Took where
  | got (s : State) (codes scales : List Nat)
  | stall (s : State)
  | trap (s : State) (c : Cause) (i0 i1 : Nat)
  | mcheck (s : State)

/-- What a fault that stands against a consuming word raises (R201); no element is taken. -/
def State.streamFault (s : State) (u i : Nat) (r : PassRec) (x : SAcc) : Option Took :=
  match x with
  | .mark .spaddrop a => some (.trap s .spaddrop a (i + r.addr % 65536 * 2 ^ 32))
  | .mark (.xlat a inf) _ => some (.trap (s.dropFault u a) .xlat a inf)
  | _ => none

/-- The pieces of elements that are race-checked, with their places and addresses: those on a page with no leaf have no bytes, and are
not (log entry 155). -/
def State.raceParts (s : State) (u : Nat) (d : Desc) (es : List Nat) : List (Nat × Nat × Nat) :=
  (((es.map d.pieces).flatten.filter fun q => checkedCap q.1).map fun q => s.tableParts u q.1.space q.2.1 q.2.2 .read).flatten

/-- The check point of the elements that a consuming word takes, as it issues (R426). -/
def State.stepRaces (s : State) (u : Nat) (e : Eng) (d : Desc) (es : List Nat) : State ⊕ Took :=
  if !d.checked then .inl s
  else match s.raceAll u e false none (s.raceParts u d es) with
  | .inl s1 => .inl s1
  | .inr (s1, a, addr, n) => .inr (.trap s1 .race addr (raceSizes n a))

/-- Elements read at the word's issue, from the lines that their row has brought or from memory: for a stream whose capability
has RC (R426), and for those elements of LGATH's row that its buffer cannot hold.  An M word has been checked for all its steps as it
issued.  Where a page is migrating the word waits in the die's queue (R117). -/
def State.readNow (s : State) (u : Nat) (e : Eng) (i : Nat) (r : PassRec) (t : Stream) (d : Desc) (es : List Nat) : Took :=
  match s.elemKeys u d es with
  | .inl (_, .wait s1) => .stall s1
  | .inl (_, .mig a) => .stall (if s.replayRoom u then s.joinReplay u (readId i) a else s)
  | .inl (_, x) => (s.streamFault u i r x).getD (.stall s)
  | .inr keys =>
    let far := fun (q : Nat × List (Nat × Nat)) => q.2.filter fun k => (t.lineBytes (d.row q.1) k).isNone
    if !s.replayHead u (readId i) then .stall s
    else match (keys.map far).flatten.findSome? fun k => s.poisonCheck u k.1 k.2 with
    | some s1 => .mcheck s1
    | none =>
      match if e = .M then .inl s else s.stepRaces u e d es with
      | .inr x => x
      | .inl s1 =>
        let q := (keys.map fun q => d.codes [q] fun k => (t.lineBytes (d.row q.1) k).getD (s1.mem.read (.unit u) k.1 k.2))
        let s2 := (keys.map far).flatten.foldl (fun s k => s.touch k.1) s1
        .got (s2.quitReplay u (readId i)) (q.map (·.1)).flatten (q.map (·.2)).flatten

/-- A consuming word takes `n` elements at Pc (R199 to R201); CONS is set; `mine` is 1 for L and 2 for M. -/
def State.takeStep (s : State) (u : Nat) (e : Eng) (i mine n : Nat) (r : PassRec) : Took :=
  let U := s.unit u
  let t := U.stream i
  if mine = 1 ∧ U.dropping i then .stall s
  else match t.mode, t.active with
  | .read, some d =>
    if t.cons ≠ 0 ∧ t.cons ≠ mine then .trap s .und r.addr r.hdr
    else
      let fin := fun (s : State) (buf : List BufStep) (ps : Nat) (x y : List Nat) =>
        .got (s.setUnit u ((s.unit u).setStream i { t with
          cons := mine, pc := t.pc + n, ps := ps, buf := buf, lines := t.pastRows d (t.pc + n) })) x y
      if n = 0 then fin s t.buf t.ps [] []
      else if d.checked then
        match s.readNow u e i r t d (runFrom t.pc n) with
        | .got s1 x y => fin s1 [] (t.pc + n) x y
        | other => other
      else
        match takeBuf n t.buf with
        | .inl (some (x, y, rest)) => fin s rest (max t.ps (t.pc + n)) x y
        | .inl none => .stall s
        | .inr b =>
          let again := fun (s : State) => .stall (s.setUnit u ((s.unit u).setStream i { t with
            ps := max t.ps (b.pos + b.n), buf := t.buf.map fun x => if x.pos = b.pos then { x with mark := none } else x }))
          match b.mark with
          | some (.poison k) => .mcheck (s.poisonTrap u k)
          | _ =>
            match s.pieceKeys u (d.pieces b.pos) with
            | .inl (.wait s1) => again s1
            | .inl x => (s.streamFault u i r x).getD (again s)
            | .inr _ => again s
  | _, _ => .trap s .und r.addr r.hdr

end Sys2Proof.Machine
end

