-- ==== Sys2Proof/Machine/Vector.lean ====
section
/-! DEFINITION. The vector words (R225 to R253), the bank control words (R224) and the retirement of V words (R233). -/

namespace Sys2Proof.Machine

/-- The INFO words of a bank trap (R440). -/
def bankInfo (c : Cause) (b : Nat) (r : PassRec) : Res := .trap c b r.addr

/-- The lanes of an operand as numbers. -/
def UnitSt.laneNats (U : UnitSt) (sp : Nat) : List Nat := (U.lanes sp).map BitVec.toNat

/-- What a V word asks of the banks: the specifiers it reads and writes, in the order va, vb, vd (R230). -/
structure VUse where
  va : Option Nat
  vb : Option Nat
  vd : Option Nat
  rdD : Bool
  deriving DecidableEq, Repr

/-- (bank, is-read) in the order of R230. -/
def VUse.banks (v : VUse) : List (Nat × Bool) :=
  (v.va.toList.map fun s => (specBank s, true)) ++ (v.vb.toList.map fun s => (specBank s, true))
    ++ (v.vd.toList.map fun s => (specBank s, v.rdD))
def VUse.reads (v : VUse) : List Nat := (v.banks.filter (·.2)).map (·.1)
def VUse.writes (v : VUse) : List Nat := v.vd.toList.map specBank

/-- The bank elements that the word reads. -/
def VUse.readKeys (v : VUse) : List Nat :=
  ((v.va.toList ++ v.vb.toList ++ (if v.rdD then v.vd.toList else [])).map fun sp => (List.range 64).map (specKey sp)).flatten

/-- An earlier V word has still to write a bank that the word reads, which it does as it retires (R229). -/
def UnitSt.vHazard (U : UnitSt) (reads : List Nat) : Bool :=
  U.work.fl.any fun f => f.eng == .V && f.wr.any fun b => reads.contains b

/-- A V word at issue: hazards and banks (R229, R230), the parity of what it reads (R219), then its lanes; it writes them when
it retires (R226). -/
def State.vIssue (s : State) (U : UnitSt) (r : PassRec) (f : Flight) (v : VUse)
    (lanes : UnitSt → List Nat × Nat) : Res :=
  if U.vHazard v.reads then .stall s
  else match U.bankChk false v.banks with
  | .trap c b => bankInfo c b r
  | .wait V => .stall (s.setUnit s.who.1 V)
  | .ok =>
    match s.parityChk s.who.1 v.readKeys with
    | some s1 => .jump s1
    | none =>
    let q := lanes (s.mixed .V U)
    .go s { f with
      wait := .op, rd := v.reads, wr := v.writes
      eff := (match v.vd with
        | some sp => [laneWrites sp (q.1.map (BitVec.ofNat 32))]
        | none => []) ++ flagEff q.2 }

/-- A V word with the guard of its XV word. -/
def State.vWord (s : State) (tk : Tok) (x : XV) (v : VUse) (lanes : UnitSt → PassRec → List Nat × Nat) : Out :=
  s.eWord tk x.grd fun s U r f => s.vIssue U r f v fun V => lanes V r

/-- The word's mode. -/
def fvMode (f : FV) (ftz : Bool) : LMode := ⟨f.ty, f.rnd, decide (f.sat = 1), ftz⟩

/-- The b operand: a bank operand, or the low 32 bits of the captured x register in every lane (R40). -/
def bLanes (U : UnitSt) (x : XV) (r : PassRec) : List Nat :=
  if x.bx = 1 then List.replicate 64 ((r.vals.headD 0).toNat % 2 ^ 32) else U.laneNats x.vb

/-- vb as a bank operand. -/
def xvB (x : XV) : Option Nat := if x.bx = 1 then none else some x.vb

/-- Lane by lane over three operand lists. -/
def lanes3 (g : Nat → Nat → Nat → Nat × Nat) (a b d : List Nat) : List Nat × Nat :=
  let r := (List.range 64).map fun i => g (a.getD i 0) (b.getD i 0) (d.getD i 0)
  (r.map (·.1), orFlags (r.map (·.2)))

/-- A lane word that reads va (and vb, and vd). -/
def State.laneWord (s : State) (tk : Tok) (f : FV) (x : XV) (useB useD : Bool)
    (g : LMode → Nat → Nat → Nat → Nat × Nat) : Out :=
  s.vWord tk x ⟨some x.va, if useB then (xvB x) else none, some f.vd, useD⟩ fun U r =>
    lanes3 (g (fvMode f U.ftz)) (U.laneNats x.va) (if useB then bLanes U x r else [])
      (if useD then U.laneNats f.vd else [])

def execVadd (tk : Tok) (f : FV) (x : XV) (s : State) : Out := s.laneWord tk f x true false laneAdd
def execVsub (tk : Tok) (f : FV) (x : XV) (s : State) : Out := s.laneWord tk f x true false laneSub
def execVmul (tk : Tok) (f : FV) (x : XV) (s : State) : Out := s.laneWord tk f x true false laneMul
def execVfma (tk : Tok) (f : FV) (x : XV) (s : State) : Out := s.laneWord tk f x true true laneFma
def execVfms (tk : Tok) (f : FV) (x : XV) (s : State) : Out := s.laneWord tk f x true true laneFms
def execVfnma (tk : Tok) (f : FV) (x : XV) (s : State) : Out := s.laneWord tk f x true true laneFnma
def execVdiv (tk : Tok) (f : FV) (x : XV) (s : State) : Out := s.laneWord tk f x true false laneDiv
def execVsqrt (tk : Tok) (f : FV) (x : XV) (s : State) : Out := s.laneWord tk f x false false laneSqrt
def execVrcp (tk : Tok) (f : FV) (x : XV) (s : State) : Out := s.laneWord tk f x false false laneRcp
def execVrsq (tk : Tok) (f : FV) (x : XV) (s : State) : Out := s.laneWord tk f x false false laneRsq
def execVexp2 (tk : Tok) (f : FV) (x : XV) (s : State) : Out := s.laneWord tk f x false false laneExp2
def execVlog2 (tk : Tok) (f : FV) (x : XV) (s : State) : Out := s.laneWord tk f x false false laneLog2
def execVmin (tk : Tok) (f : FV) (x : XV) (s : State) : Out := s.laneWord tk f x true false laneMin
def execVmax (tk : Tok) (f : FV) (x : XV) (s : State) : Out := s.laneWord tk f x true false laneMax
def execVabs (tk : Tok) (f : FV) (x : XV) (s : State) : Out := s.laneWord tk f x false false laneAbs
def execVneg (tk : Tok) (f : FV) (x : XV) (s : State) : Out := s.laneWord tk f x false false laneNeg
def execVand (tk : Tok) (f : FV) (x : XV) (s : State) : Out := s.laneWord tk f x true false laneAnd
def execVor (tk : Tok) (f : FV) (x : XV) (s : State) : Out := s.laneWord tk f x true false laneOr
def execVxor (tk : Tok) (f : FV) (x : XV) (s : State) : Out := s.laneWord tk f x true false laneXor
def execVnot (tk : Tok) (f : FV) (x : XV) (s : State) : Out := s.laneWord tk f x false false laneNot
def execVshl (tk : Tok) (f : FV) (x : XV) (s : State) : Out := s.laneWord tk f x true false laneShl
def execVshr (tk : Tok) (f : FV) (x : XV) (s : State) : Out := s.laneWord tk f x true false laneShr
def execVsra (tk : Tok) (f : FV) (x : XV) (s : State) : Out := s.laneWord tk f x true false laneSra
def execVmulh (tk : Tok) (f : FV) (x : XV) (s : State) : Out := s.laneWord tk f x true false laneMulh

/-- VCMP: the rounding subfield and XV[0] hold the condition (R237). -/
def execVcmp (tk : Tok) (f : FV) (x : XV) (s : State) : Out := s.laneWord tk f x true false (laneCmp (f.rnd + 4 * x.sp))
def execVsel (tk : Tok) (f : FV) (x : XV) (s : State) : Out := s.laneWord tk f x true true laneSel
def execVmov (tk : Tok) (f : FV) (x : XV) (s : State) : Out := s.laneWord tk f x false false laneMov
def execVcvt (tk : Tok) (f : FV) (x : XV) (s : State) : Out := s.laneWord tk f x false false (laneCvt x.sp)
def execVclass (tk : Tok) (f : FV) (x : XV) (s : State) : Out := s.laneWord tk f x false false laneClass

/-- VIDX (R241). -/
def execVidx (tk : Tok) (f : FV) (x : XV) (s : State) : Out :=
  s.vWord tk x ⟨none, none, some f.vd, false⟩ fun _ r =>
    ((List.range 64).map fun j => ((if x.bx = 1 then (r.vals.headD 0).toNat else 0) + j) % 2 ^ 32, 0)

/-- VBCAST (R241): one lane of va, or the x register. -/
def execVbcast (tk : Tok) (f : FV) (x : XV) (s : State) : Out :=
  s.vWord tk x ⟨if x.sp = 0 then some x.va else none, none, some f.vd, false⟩ fun U r =>
    let v := (r.vals.headD 0).toNat
    (List.replicate 64 (if x.sp = 0 then (U.laneNats x.va).getD (v % 64) 0 else v % 2 ^ 32), 0)

/-- The shift count of VEXTR and VROT: 32 × XV[0] + FV[4:0] (R242). -/
def laneShift (f : FV) (x : XV) : Nat := 32 * x.sp + f.rnd * 8 + f.sat * 4 + f.ty

def execVextr (tk : Tok) (f : FV) (x : XV) (s : State) : Out :=
  s.vWord tk x ⟨some x.va, (xvB x), some f.vd, false⟩ fun U r =>
    (((U.laneNats x.va ++ bLanes U x r).drop (laneShift f x)).take 64, 0)

def execVred (tk : Tok) (f : FV) (x : XV) (s : State) : Out :=
  s.vWord tk x ⟨some x.va, none, some f.vd, false⟩ fun U _ => vredLanes (fvMode f U.ftz) (decide (x.sp = 1)) (U.laneNats x.va)

def execVscan (tk : Tok) (f : FV) (x : XV) (s : State) : Out :=
  s.vWord tk x ⟨some x.va, none, some f.vd, false⟩ fun U _ =>
    scanFrom (fvMode f U.ftz) (decide (x.sp = 1)) (U.laneNats x.va) 0 0

def execVshuf (tk : Tok) (f : FV) (x : XV) (s : State) : Out :=
  s.vWord tk x ⟨some x.va, (xvB x), some f.vd, false⟩ fun U r =>
    ((bLanes U x r).map fun t => if t < 64 then (U.laneNats x.va).getD t 0 else 0, 0)

def execVrot (tk : Tok) (f : FV) (x : XV) (s : State) : Out :=
  s.vWord tk x ⟨some x.va, none, some f.vd, false⟩ fun U _ =>
    ((List.range 64).map fun j => (U.laneNats x.va).getD ((j + laneShift f x) % 64) 0, 0)

/-! ### Conditional streams (R245 to R248) -/

/-- The unit's task lies in one cluster (R245). -/
def State.oneCluster (s : State) (u : Nat) : Bool :=
  match s.task (s.unit u).id.task with
  | some T => T.units.all fun v => clusterOf v = clusterOf u
  | none => true

/-- The queue of a conditional stream in the unit's cluster. -/
def State.cqOf (s : State) (u n : Nat) : List Word32 := SMap.get [] (s.cluster (clusterOf u)).cq n
def State.setCq (s : State) (u n : Nat) (q : List Word32) : State :=
  let C := s.cluster (clusterOf u)
  s.setCluster (clusterOf u) { C with cq := SMap.set [] C.cq n q }

/-- A VCPUSH of `k` records releases to the VCPOPs that take them, and a VCPOP of `k` records is an acquire (R248, R416). -/
def State.releaseCq (s : State) (u n k : Nat) : State :=
  let C := s.cluster (clusterOf u)
  let U := s.unit u
  let ids := uni (U.knows .V) ((U.nextRec .V).elim [] (U.tokenKnow .V))
  if ids = [] ∧ C.cqRel = [] then s
  else s.setCluster (clusterOf u) { C with cqRel := SMap.modify [] C.cqRel n fun l => pushRel l (s.cqOf u n).length k ids }
def State.acquireCq (s : State) (u n k : Nat) : State :=
  let C := s.cluster (clusterOf u)
  let p := popRel (SMap.get [] C.cqRel n) (s.cqOf u n).length k
  if C.cqRel = [] then s
  else (s.setCluster (clusterOf u) { C with cqRel := SMap.set [] C.cqRel n p.2 }).setUnit u ((s.unit u).learn .V p.1)

/-- The lanes that a VCPUSH selects (R246). -/
def State.vcPicked (s : State) (U : UnitSt) (x : XV) : List Word32 :=
  let W := s.mixed .V U
  ((W.lanes x.va).zip (W.lanes x.vb)).filterMap fun p => if p.2 ≠ 0 then some p.1 else none

/-- VCPUSH: the selected lanes enter the queue at issue; a release at cluster scope (R246, R248). -/
def execVcpush (tk : Tok) (f : FV) (x : XV) (s : State) : Out :=
  s.eWord tk x.grd fun s U r fl =>
    let u := s.who.1
    let n := f.vd % 8
    if !s.oneCluster u then r.trapHere .und
    else match s.vIssue U r fl ⟨some x.va, some x.vb, none, false⟩ fun _ => ([], 0) with
    | .go s1 fl1 =>
      let picked := s.vcPicked U x
      let q := s.cqOf u n
      if picked = [] then .go s1 fl1
      else if 2048 < q.length + picked.length then .stall (s.beginOwn u .V)
      else if !s.mem.releasedAt u 1 then .stall s
      else .go ((s1.releaseCq u n picked.length).setCq u n (q ++ picked)) fl1
    | other => other

/-- VCPOP: k records taken at issue (R247). -/
def execVcpop (tk : Tok) (f : FV) (x : XV) (s : State) : Out :=
  s.eWord tk x.grd fun s U r fl =>
    let u := s.who.1
    let n := x.va % 8
    let k := (r.vals.headD 0).toNat
    let q := s.cqOf u n
    if !s.oneCluster u then r.trapHere .und
    else
      match s.vIssue U r fl ⟨none, none, some f.vd, false⟩ fun _ =>
        ((q.take k).map BitVec.toNat ++ List.replicate (64 - k) 0, 0) with
      | .go s1 fl1 => if q.length < k then .stall (s.beginOwn u .V) else .go ((s1.acquireCq u n k).setCq u n (q.drop k)) fl1
      | other => other

/-- VCCNT: the records that the queue holds as the word issues (R247). -/
def execVccnt (tk : Tok) (f : FV) (x : XV) (s : State) : Out :=
  s.eWord tk x.grd fun s U r fl =>
    if !s.oneCluster s.who.1 then r.trapHere .und
    else s.vIssue U r fl ⟨none, none, some f.vd, false⟩ fun _ =>
      (List.replicate 64 (s.cqOf s.who.1 (x.va % 8)).length, 0)

/-- VRNG: the counter pair and the key as S captured them (R249). -/
def execVrng (tk : Tok) (f : FV) (x : XV) (s : State) : Out :=
  s.vWord tk x ⟨none, none, some f.vd, false⟩ fun _ r =>
    (vrngLanes ((r.vals.getD 0 0).toNat + (r.vals.getD 1 0).toNat * 2 ^ 64) (r.vals.getD 2 0).toNat, 0)

/-- The element count of VQL6 and VDL6 (R251, R252). -/
def l6Count (x : XV) (r : PassRec) : Nat := if x.bx = 1 then (r.vals.headD 0).toNat else 64

def execVql6 (tk : Tok) (f : FV) (x : XV) (s : State) : Out :=
  s.vWord tk x ⟨some x.va, none, some f.vd, false⟩ fun U r => vql6Lanes (l6Count x r) (U.laneNats x.va)
def execVdl6 (tk : Tok) (f : FV) (x : XV) (s : State) : Out :=
  s.vWord tk x ⟨some x.va, none, some f.vd, false⟩ fun U r => vdl6Lanes (l6Count x r) U.ftz (U.laneNats x.va)
def execVpack (tk : Tok) (f : FV) (x : XV) (s : State) : Out :=
  s.vWord tk x ⟨some x.va, (xvB x), some f.vd, false⟩ fun U r =>
    vpackLanes f.rnd U.ftz (U.laneNats x.va) (bLanes U x r)
def execVunpk (tk : Tok) (f : FV) (x : XV) (s : State) : Out :=
  s.vWord tk x ⟨some x.va, none, some f.vd, false⟩ fun U _ => vunpkLanes (decide (x.sp = 1)) U.ftz (U.laneNats x.va)

/-! ### Bank control words (R224) -/

/-- The supply state of a code. -/
def supplyOf (n : Nat) : Supply := match n with | 0 => .full | 1 => .retain | _ => .off

/-- The register bank that a BHINT or BWAKE names raises BANKOWN where it is not allocated or in the matrix slot, as with any V word
(R215). -/
def UnitSt.hintOwn (U : UnitSt) (kind d : Nat) : Option Nat := if kind = 0 then U.ownChk false [d] else none

def execBhint (tk : Tok) (d fall kind : Nat) (g : XP) (s : State) : Out :=
  s.eWord tk g fun s U r f => match U.hintOwn kind d with
    | some b => bankInfo .bankown b r
    | none => .go s { f with eff := [.bhint kind d (supplyOf fall)] }
def execBwake (tk : Tok) (d kind : Nat) (g : XP) (s : State) : Out :=
  s.eWord tk g fun s U r f => match U.hintOwn kind d with
    | some b => bankInfo .bankown b r
    | none => .go s { f with eff := [.bwake kind d] }
def execBalloc (tk : Tok) (d take : Nat) (g : XP) (s : State) : Out :=
  s.eWord tk g fun s U r f =>
    if take = 0 ∧ U.inMatrix d then bankInfo .bankown d r else .go s { f with eff := [.balloc d (decide (take = 1))] }

/-- BSTAT writes row imm6 of the bank: the state words as they stand at issue, then zeros. -/
def execBstat (tk : Tok) (d imm : Nat) (g : XP) (s : State) : Out :=
  s.eWord tk g fun s U r f =>
    match U.bankChk false [(d, false)] with
    | .trap c b => bankInfo c b r
    | .wait V => .stall (s.setUnit s.who.1 V)
    | .ok =>
      let W := U.afterFalls
      let v := [W.bankstate % 2 ^ 32, W.bankstate / 2 ^ 32, U.bind.toNat, W.bankalloc % 2 ^ 32]
      .go s { f with
        wr := if s.who.2 = .S then [] else [d]
        eff := [.bank d ((List.range 64).map fun j => (elemKey d imm j, BitVec.ofNat 32 (v.getD j 0)))] }

/-! ### Retirement (R233) -/

/-- The oldest V word that is not retired writes vd, sets its flags, retires in order and posts. -/
def execVWordRetire (u : Nat) (s : State) : Out :=
  if 768 ≤ u then .fault (.noSuchUnit u)
  else
    let U := s.unit u
    .next (match U.work.fl.find? fun f => f.eng == .V && decide (f.wait = .op) with
      | some f => if s.halted u then s else s.setUnit u ((U.finish f.id []).retire .V)
      | none => s)

end Sys2Proof.Machine
end

