-- ==== Sys2Proof/Machine/LoadStore.lean ====
section
/-! DEFINITION. The load words LSV, LGATH and LBRD (R205, R206), the store words WSV, WSCAT and WACC (R207 to R209),
WFLUSH (R210), and the events that perform them. -/

namespace Sys2Proof.Machine

/-! ### Load words -/

/-- A decoded element and its flags (R205). -/
def Desc.decode (d : Desc) (code scale : Nat) : Nat × Nat :=
  match d.fmt with
  | 1 => if d.widen then
      ((roundEx 24 false 0 (readF 8 false code).1).1, sigNV (readF 8 false code).2) else (code, 0)
  | 2 => roundEx 24 false 0 (decodeL6 code scale)
  | _ => (code, 0)

/-- Decoded elements of a step. -/
def Desc.decodeAll (d : Desc) (codes scales : List Nat) : List (Nat × Nat) :=
  (List.range codes.length).map fun i => d.decode (codes.getD i 0) (scales.getD i 0)

/-- The lanes of a list, zero where it has no element. -/
def padLanes (l : List Nat) : List Word32 := (List.range 64).map fun j => BitVec.ofNat 32 (l.getD j 0)

/-- The flight of an L word that writes lanes: a load that waits until its bank is written (R206). -/
def Flight.lanesTo (f : Flight) (sp : Nat) (lanes : List Word32) (fl : Nat) : Flight :=
  { f with wait := .op, wr := [specBank sp], eff := laneWrites sp lanes :: flagEff fl }

/-- One more load is outstanding (R147). -/
def UnitSt.moreLoads (U : UnitSt) : UnitSt := { U with work := { U.work with loads := U.work.loads + 1 } }

/-- What `takeStep` or `readNow` gave, made the result of an L word. -/
def Took.toRes (t : Took) (u : Nat) (k : State → List Nat → List Nat → Res) : Res :=
  match t with
  | .got s x y => k (s.setUnit u (s.unit u).moreLoads) x y
  | .stall s => .stall s
  | .trap s c i0 i1 => .trapAt s c i0 i1
  | .mcheck s => .jump s

/-- Banks, then the load counter, stand before the stream. -/
def State.loadGate (s : State) (U : UnitSt) (bs : List (Nat × Bool)) (r : PassRec) (k : Res) : Res :=
  match U.bankChk false bs with
  | .trap c b => bankInfo c b r
  | .wait V => .stall (s.setUnit s.who.1 V)
  | .ok => if !U.room true then .stall s else k

/-- The descriptor of a stream, and how many elements its next step takes: 0 when Pc = N. -/
def Stream.nextStep (t : Stream) : Option (Desc × Nat) :=
  t.active.map fun d => (d, if d.total ≤ t.pc then 0 else d.step t.pc)

def execLsv (tk : Tok) (i sp : Nat) (g : XP) (s : State) : Out :=
  s.eWord tk g fun s U r f =>
    s.loadGate U [(specBank sp, false)] r
      (match (U.stream i).nextStep with
       | none => r.trapHere .und
       | some (d, n) =>
         (s.takeStep s.who.1 .L i 1 n r).toRes s.who.1 fun s1 x y =>
           let v := d.decodeAll x y
           .go s1 (f.lanesTo sp (padLanes (v.map (·.1))) (orFlags (v.map (·.2)))))

def execLbrd (tk : Tok) (i sp : Nat) (g : XP) (s : State) : Out :=
  s.eWord tk g fun s U r f =>
    s.loadGate U [(specBank sp, false)] r
      (match (U.stream i).nextStep with
       | none => r.trapHere .und
       | some (d, n) =>
         (s.takeStep s.who.1 .L i 1 (min n 1) r).toRes s.who.1 fun s1 x y =>
           let v := d.decodeAll x y
           .go s1 (f.lanesTo sp (List.replicate 64 (BitVec.ofNat 32 (v.headD (0, 0)).1)) (orFlags (v.map (·.2)))))

/-- The elements of LGATH's row, the row that holds Pc (R205): those from Pc on are taken from the read-ahead buffer, as many as
the 32 steps it may hold reach; those before Pc, which earlier words have taken, and those beyond that bound come from the lines
that the row has brought or from memory. -/
def State.takeRow (s : State) (u i : Nat) (d : Desc) (t : Stream) (r : PassRec) : Took :=
  let p := d.row t.pc * d.c 0
  let e := p + d.c 0
  let next := fun (s : State) (x y : List Nat) =>
    let V := s.unit u
    let t1 := V.stream i
    .got (s.setUnit u (V.setStream i { t1 with
      cons := 1, pc := e, ps := max t1.ps e, lines := t1.pastRows d e, buf := t1.buf.filter fun b => decide (e ≤ b.pos) })) x y
  if d.checked then
    match s.readNow u .L i r t d (runFrom p (d.c 0)) with
    | .got s1 x y => next s1 x y
    | other => other
  else
    let m := min e (d.skip t.pc 32)
    match s.takeStep u .L i 1 (m - t.pc) r with
    | .got s1 x y =>
      let n := t.pc - p
      (match s.readNow u .L i r t d (runFrom p n ++ runFrom m (e - m)) with
       | .got s2 a b => next (s2.setUnit u ((s2.unit u).setStream i ((s1.unit u).stream i)))
           (a.take n ++ x ++ a.drop n) (b.take n ++ y ++ b.drop n)
       | other => other)
    | other => other

/-- LGATH (R205): a gather from the row that holds Pc; it waits for earlier L words that write its index bank (R218). -/
def execLgath (tk : Tok) (i sp : Nat) (x : XV) (s : State) : Out :=
  s.eWord tk x.grd fun s U r f =>
    let u := s.who.1
    let t := U.stream i
    if U.work.fl.any fun q => q.eng == .L && decide (q.wait ≠ .done) && q.wr.contains (specBank x.va) then .stall s
    else s.loadGate U [(specBank x.va, true), (specBank sp, false)] r
      (if U.dropping i then .stall s
       else match t.mode, t.active with
       | .read, some d =>
         if (t.cons ≠ 0 ∧ t.cons ≠ 1) ∨ 512 < d.c 0 then r.trapHere .und
         else match s.parityChk u ((List.range 64).map (specKey x.va)) with
         | some s1 => .jump s1
         | none =>
           let idx := (s.mixed .L U).laneNats x.va
           let done := fun (s : State) (v : List (Nat × Nat)) =>
             let picked := idx.map fun j => if j < d.c 0 then v.getD j (0, 0) else (0, 0)
             Res.go s { f.lanesTo sp (padLanes (picked.map (·.1))) (orFlags (picked.map (·.2))) with rd := [specBank x.va] }
           if d.total ≤ t.pc then (s.takeStep u .L i 1 0 r).toRes u fun s1 _ _ => done s1 []
           else (s.takeRow u i d t r).toRes u fun s1 c e => done s1 (d.decodeAll c e)
       | _, _ => r.trapHere .und)

/-- The effect writes a register bank. -/
def Eff.isBank (e : Eff) : Bool := match e with | .bank _ _ => true | _ => false

/-- A flight's bank is written now; what else the word does, it does as it retires. -/
def UnitSt.writeNow (U : UnitSt) (f : Flight) : UnitSt :=
  let V := (f.eff.filter Eff.isBank).foldl UnitSt.applyEff U
  { V with work := { V.work with
      fl := V.work.fl.map fun g => if g.id = f.id then { g with eff := g.eff.filter fun e => !e.isBank } else g } }

/-- The oldest L word in flight writes its bank: it is performed, and retires in order with its flags (R83, R206). -/
def State.loadWordDone (s : State) (u : Nat) : State :=
  let U := s.unit u
  match U.work.fl.find? fun f => f.eng == .L && decide (f.wait = .op) with
  | some f =>
    let V := { U with work := { U.work with loads := U.work.loads - 1 } }
    s.setUnit u (((V.writeNow f).finish f.id []).retire .L)
  | none => s

def execLoadWordPerformed (u : Nat) (s : State) : Out := clockEvent u s (s.loadWordDone u)

/-! ### Store words -/

/-- An element encoded for memory, and its flags (R207). -/
def Desc.encode (d : Desc) (v : Nat) : Nat × Nat :=
  match d.fmt with
  | 1 => if d.widen then
      let x := readF 24 false v
      ((roundEx 8 false d.rnd x.1).1, (roundEx 8 false d.rnd x.1).2 ||| sigNV x.2)
    else (v % 65536, 0)
  | _ => (v, 0)

/-- What stands in the way of a W word's writes, or their places with the bytes written there. -/
inductive WAcc where
  | ok (l : List (Place × List Byte))
  | wait (s : State)
  | trap (s : State) (c : Cause) (i0 i1 : Nat)

/-- The bytes to be written at offsets of a capability, cut where a 64 KiB page of device memory ends (R209). -/
def cutStores (c : Cap) : List (Nat × List Byte) → List (Nat × List Byte)
  | [] => []
  | (o, bs) :: r =>
    let n := 65536 - (c.base + o) % 65536
    (if c.space = 0 ∧ n < bs.length then [(o, bs.take n), (o + n, bs.drop n)] else [(o, bs)]) ++ cutStores c r

/-- The places of a W word's bytes at the offsets given: banks wake, pages are translated (R209). -/
def State.storePlaces (s : State) (u : Nat) (c : Cap) : List (Nat × List Byte) → WAcc
  | [] => .ok []
  | (o, bs) :: r =>
    let a := (c.base + o) % 2 ^ 64
    match if c.space = 1 then s.spadChk u a bs.length false else .ok with
    | .trap cause j => .trap s cause (firstIn j a) 15
    | .wait s1 => .wait s1
    | .ok =>
      let put := fun key =>
        match s.storePlaces u c r with
        | .ok l => .ok ((⟨c.space, a, key⟩, bs) :: l)
        | other => other
      match s.translate u c.space a .write with
      | .ok key => put (some key)
      | .mig => if s.replayRoom u then put none else .wait s
      | .miss => .wait (s.startWalk u a)
      | .xlat l r => .trap (s.dropFault u a) .xlat a (l + r * 16 + 256)

/-- The race check of every byte that a W word will write (R426); bytes on a migrating page stand in its old frame. -/
def State.storeRaces (s : State) (u : Nat) (l : List (Place × List Byte)) : State ⊕ (State × Access × Nat × Nat) :=
  s.raceAll u .W true none (l.map fun p => (s.oldKey u p.1, p.2.length, p.1.addr))

/-- The issue of a W word that writes `vals` at the elements `es`, and moves the stream to `pc`; `add` is what a WACC
adds (format code, rounding). -/
def State.storeIssue (s : State) (U : UnitSt) (i : Nat) (r : PassRec) (f : Flight) (d : Desc) (t : Stream)
    (es vals : List Nat) (pc : Nat) (add : Option (Nat × Nat)) (reads : List Nat) : Res :=
  let u := s.who.1
  if add.isSome ∧ d.capD.space = 0 then
    .trap .kperm (d.addr t.pc % 2 ^ 64).toNat (capInfo d.kd d.size r.addr)
  else if !U.room false then .stall s
  else
    let enc := vals.map d.encode
    let bytes := if add.isSome then vals.map (toBytes d.size) else enc.map fun q => toBytes d.size q.1
    match s.storePlaces u d.capD (cutStores d.capD ((es.map fun e => (d.addr e % 2 ^ 64).toNat).zip bytes)) with
    | .wait s1 => .stall s1
    | .trap s1 c i0 i1 => .trapAt s1 c i0 i1
    | .ok ps =>
      let checked := checkedCap d.capD
      match if checked then s.storeRaces u ps else .inl s with
      | .inr (s1, a, addr, n) => .trapAt s1 .race addr (raceSizes n a)
      | .inl s1 =>
        let op : WOp := ⟨f.id, ps, add.map fun q => (q.1, q.2, vals), checked⟩
        let V := s1.unit u
        let V1 := { V with work := { V.work with wops := V.work.wops ++ [op], stores := V.work.stores + 1 } }
        let s2 := s1.setUnit u (V1.setStream i { t with pc := pc, ps := pc })
        let s3 := match ps.find? fun p => p.1.key.isNone with
          | some p => s2.joinReplay u f.id p.1.addr
          | none => s2
        .go s3 { f with
          wait := .op, rd := reads
          eff := flagEff (if add.isSome then 0 else orFlags (enc.map (·.2))) }

/-- The bank checks of a W word that reads the operands `sps`, its stream, and the parity of what it reads (R209, R219). -/
def State.storeWord (s : State) (tk : Tok) (g : XP) (i : Nat) (sps : List Nat)
    (k : State → UnitSt → PassRec → Flight → Desc → Stream → Res) : Out :=
  s.eWord tk g fun s U r f =>
    match U.bankChk false (sps.map fun sp => (specBank sp, true)) with
    | .trap c b => bankInfo c b r
    | .wait V => .stall (s.setUnit s.who.1 V)
    | .ok =>
      let t := U.stream i
      if U.dropping i then .stall s
      else match t.mode, t.active with
      | .write, some d =>
        (match s.parityChk s.who.1 ((sps.map fun sp => (List.range 64).map (specKey sp)).flatten) with
         | some s1 => .jump s1
         | none => k s (s.mixed .W U) r f d t)
      | _, _ => r.trapHere .und

/-- The elements of the step at Pc: none when Pc = N. -/
def stepElems (d : Desc) (pc : Nat) : List Nat :=
  if d.total ≤ pc then [] else (List.range (d.step pc)).map fun j => pc + j

def execWsv (tk : Tok) (i sp last : Nat) (g : XP) (s : State) : Out :=
  let _ := last
  s.storeWord tk g i [sp] fun s U r f d t =>
    let es := stepElems d t.pc
    s.storeIssue U i r f d t es ((U.laneNats sp).take es.length) (t.pc + es.length) none [specBank sp]

/-- WSCAT: lanes in order, so that the highest lane of a repeated index remains. -/
def execWscat (tk : Tok) (i sp last : Nat) (x : XV) (s : State) : Out :=
  let _ := last
  s.storeWord tk x.grd i [x.va, sp] fun s U r f d t =>
    if d.total ≤ t.pc then s.storeIssue U i r f d t [] [] t.pc none [specBank x.va, specBank sp]
    else
      let ps := ((U.laneNats x.va).zip (U.laneNats sp)).filter fun q => decide (q.1 < d.c 0)
      s.storeIssue U i r f d t (ps.map fun q => d.row t.pc * d.c 0 + q.1) (ps.map (·.2))
        ((d.row t.pc + 1) * d.c 0) none [specBank x.va, specBank sp]

/-- The element type of a WACC: 0 FP32, 1 BF16, 2 BF16 widened, 3 I32. -/
def Desc.addFmt (d : Desc) : Nat := if d.fmt = 1 ∧ d.widen then 2 else d.fmt

def execWacc (tk : Tok) (i sp last : Nat) (g : XP) (s : State) : Out :=
  let _ := last
  s.storeWord tk g i [sp] fun s U r f d t =>
    let es := stepElems d t.pc
    s.storeIssue U i r f d t es ((U.laneNats sp).take es.length) (t.pc + es.length) (some (d.addFmt, d.rnd)) [specBank sp]

/-- WACC's Add (R207): the new element and its flags. -/
def accAdd (fmt rnd old v : Nat) : Nat × Nat :=
  let sum := fun (p : Nat) (x y : Ex × Bool) =>
    let z := exAdd rnd x.1 y.1
    let q := roundEx p false rnd z.1
    (q.1, q.2 ||| z.2 ||| sigNV (x.2 || y.2))
  match fmt with
  | 0 => sum 24 (readF 24 false old) (readF 24 false v)
  | 1 => sum 8 (readF 8 false old) (readF 8 false (v % 65536))
  | 2 => sum 8 (readF 8 false old) (readF 24 false v)
  | _ => ((old + v) % 2 ^ 32, 0)

def addSize (fmt : Nat) : Nat := if fmt = 1 ∨ fmt = 2 then 2 else 4

/-- The bytes that two W operations have in common keep their order: an older one goes first (R208). -/
def WOp.overlaps (a b : WOp) : Bool :=
  a.stores.any fun x => b.stores.any fun y =>
    match x.1.key, y.1.key with
    | some k, some m => decide (k < m + 4) && decide (m < k + 4)
    | _, _ => decide (x.1.addr < y.1.addr + 4) && decide (y.1.addr < x.1.addr + 4)

/-- The places of a W operation as they translate when it is performed, or the first address against which something stands. -/
def State.lateAll (s : State) (u : Nat) : List (Place × List Byte) → (List Nat) ⊕ (Nat × Tr)
  | [] => .inl []
  | (p, _) :: r =>
    match s.late u p .write with
    | .ok k => (match s.lateAll u r with | .inl l => .inl (k :: l) | other => other)
    | other => .inr (p.addr, other)

/-- The elements of a W word written one after another (R208); WACC's are read-modify-writes at their banks.  DESIGN CHOICE, each
element is a write of its own, so a W word never clears poison, not even where its elements cover a granule (log entry 119). -/
def State.storeElems (s : State) (u : Nat) (o : WOp) : List (Nat × List Byte) → Nat → Nat → State × Nat
  | [], _, fl => (s, fl)
  | (k, bs) :: r, j, fl =>
    match o.add with
    | none =>
      let s1 := s.store o.chk u 0 k bs false
      { s1 with mem := s1.mem.noteBy s.mem.nextId 1 }.storeElems u o r (j + 1) fl
    | some (fmt, rnd, vals) =>
      let n := addSize fmt
      let q := accAdd fmt rnd (s.mem.num .bank k n) (vals.getD j 0)
      (s.store o.chk u (maxLevel (keyRegion k)) k (toBytes n q.1) false).storeElems u o r (j + 1) (fl ||| q.2)

/-- A W word's writes are performed at unit scope, and it retires (R209). -/
def State.performW (s : State) (u id : Nat) : State :=
  let U := s.unit u
  match U.work.wops.find? fun o => o.id = id with
  | none => s
  | some o =>
    let before := U.work.wops.takeWhile fun x => x.id ≠ id
    if (before.any fun x => x.overlaps o) ∨ !s.replayHead u id then s
    else match s.lateAll u o.stores with
    | .inr (a, .xlat l r) => s.takeTrap u ⟨.xlat, 3, a, l + r * 16 + 256⟩
    | .inr _ => s
    | .inl keys =>
      let bad := match o.add with
        | some (fmt, _, _) => keys.findSome? fun k => s.poisonCheck u k (addSize fmt)
        | none => none
      match bad with
      | some s1 => s1
      | none =>
        let q := s.storeElems u o (keys.zip (o.stores.map (·.2))) 0 0
        let s2 := q.1.quitReplay u id
        let V := s2.unit u
        let V1 := { V with work := { V.work with
          wops := V.work.wops.filter fun x => x.id ≠ id, stores := V.work.stores - 1 } }
        s2.setUnit u ((V1.finish id (flagEff q.2)).retire .W)

/-- A W word that writes within the cluster waits for its clock (R385). -/
def State.wopStands (s : State) (u id : Nat) : Bool :=
  s.stands u && (s.unit u).work.wops.any fun o => decide (o.id = id) && o.stores.any fun p =>
    decide (p.1.space = 1) || decide (p.1.space = 2) || decide (p.1.space = 4)

def execStoreWordPerformed (u id : Nat) (s : State) : Out := unitEvent u s (if s.wopStands u id then s else s.performW u id)

/-- WFLUSH: W stalls until its earlier words, and no other writes of the unit, are performed at the scope (R210). -/
def execWflush (tk : Tok) (scope : Nat) (s : State) : Out :=
  s.eWord tk none fun s U _ f =>
    if U.work.wops ≠ [] ∨ !s.mem.madePerformed s.who.1 1 scope then .stall s else .go s f

end Sys2Proof.Machine
end

