-- ==== Sys2Proof/Machine/Queues.lean ====
section
/-! DEFINITION. Stage queues (R160, R161), the barrier (R162), WAIT (R178, R179) and the NOP of each engine (R59). -/

namespace Sys2Proof.Machine

/-! ### Stage queues -/

/-- The key of the input queue of a stage of a task in its cluster. -/
def stageKey (task stage : Nat) : Nat := task * 8 + stage

/-- Records in a stage queue and on their way to it. -/
def State.stageLoad (s : State) (u stage : Nat) : Nat :=
  let t := (s.unit u).id.task
  (SMap.get [] (s.cluster (clusterOf u)).stageq (stageKey t stage)).length
    + ((List.range 8).map fun i =>
        let V := s.unit (u / 8 * 8 + i)
        if V.id.task = t then
          (V.work.sops.filter fun o => decide (o.kind = .qpush) && decide (o.d = stage)).length else 0).sum

/-- An operation of a queue or event word: it touches no memory place. -/
def queueOp (id : Nat) (k : SKind) (d : Nat) (v : Word) : SOp :=
  ⟨id, k, ⟨8, 0, some 0⟩, 0, false, 0, d, v, 0, Cap.null, none, false⟩

def execQpush (tk : Tok) (d stage : Nat) (g : XP) (s : State) : Out :=
  s.sWord tk g [d] fun s U r f =>
    let u := s.who.1
    if U.id.nstage = 0 ∨ U.id.nstage < stage then r.trapHere .und
    else if U.acquiring ∨ !U.room false then .stall s
    else if 512 ≤ s.stageLoad u stage then .stall (s.beginOwn u .S)
    else .go (s.setUnit u (U.addSop false (queueOp f.id .qpush stage (U.xS d)))) f

/-- QPOP takes the oldest record as it issues (R161). -/
def execQpop (tk : Tok) (d : Nat) (g : XP) (s : State) : Out :=
  s.sWord tk g [] fun s U r f =>
    let u := s.who.1
    let C := s.cluster (clusterOf u)
    let k := stageKey U.id.task U.id.stage
    if U.id.nstage = 0 then r.trapHere .und
    else if U.acquiring ∨ !U.room true then .stall s
    else match SMap.get [] C.stageq k with
      | [] => .stall (s.beginOwn u .S)
      | v :: q =>
        let s1 := s.setCluster (clusterOf u) { C with stageq := SMap.set [] C.stageq k q }
        .go (s1.setUnit u (U.addSop true (queueOp f.id .qpop d v))) (f.loading [d])

/-! ### BAR (R162) -/

/-- The scope contains every unit of the task. -/
def State.scopeHolds (s : State) (u scope : Nat) : Bool :=
  match s.task (s.unit u).id.task with
  | some T => T.units.all fun v => includes scope u v
  | none => true

/-- A unit's arrival at a barrier of its task. -/
def State.barArrive (s : State) (u n : Nat) : State :=
  let t := (s.unit u).id.task
  match s.task t with
  | some T => s.setTask t { T with bars := SMap.modify [] T.bars n fun l => if l.contains u then l else l ++ [u] }
  | none => s

/-- BAR: the arrival is a release, so everything before it is performed at the scope first. -/
def execBar (tk : Tok) (num scope : Nat) (s : State) : Out :=
  s.sWord tk none [] fun s U r f =>
    let u := s.who.1
    if !s.scopeHolds u scope then r.trapHere .und
    else if U.work.sops ≠ [] ∨ U.bar.isSome ∨ !(s.mem.releasedAt u scope) then .stall s
    else
      let s1 := s.setUnit u { U with bar := some (num, scope, false) }
      .go (s1.barArrive u num) { f with wait := .op }

/-- The word is a BAR. -/
def isBar (h : Nat) : Bool := decide (fld h 29 3 = 0) && decide (fld h 16 7 = 0x3B)

/-- The completion reaches a unit: its BAR retires, or, in the replay queue of a trap, will retire after RETI. -/
def UnitSt.barDone (U : UnitSt) (n : Nat) : UnitSt :=
  match U.bar with
  | some (m, _, false) =>
    if m ≠ n then U
    else
      let fin := fun (l : List Flight) => l.map fun f => if isBar f.hdr then { f with wait := .done } else f
      let saved := U.trap.saved.fl.any fun f => isBar f.hdr
      let V := { U with
        bar := if saved then some (m, 0, true) else none
        work := { U.work with fl := fin U.work.fl }
        trap := { U.trap with saved := { U.trap.saved with fl := fin U.trap.saved.fl } } }
      V.retire .S
  | _ => U

/-- A unit whose BAR was issued again after RETI arrives once its release is made (R162). -/
def State.barAgain (s : State) (u n : Nat) : State :=
  match (s.unit u).bar with
  | some (m, scope, false) => if m = n ∧ s.mem.releasedAt u scope ∧ (s.unit u).trap.depth = 0 then (s.barTell u n).barArrive u n else s
  | _ => s

/-- The barrier completes when every unit of the task has arrived: one event for all.  Each BAR is an acquire of what the arrivals
cover (R416). -/
def State.barComplete (s0 : State) (t n : Nat) : State :=
  let s := match s0.task t with
    | some T => T.units.foldl (fun (s : State) u => s.barAgain u n) s0
    | none => s0
  match s.task t with
  | none => s
  | some T =>
    let l := SMap.get [] T.bars n
    if T.units ≠ [] ∧ T.units.all fun u => l.contains u then
      T.units.foldl (fun s u => s.setUnit u (((s.unit u).barLearn (SMap.get [] T.barKnow n)).barDone n))
        (s.setTask t { T with bars := SMap.erase T.bars n, barKnow := SMap.erase T.barKnow n })
    else s

def execBarComplete (t n : Nat) (s : State) : Out := .next (s.barComplete t n)

/-! ### WAIT and NOP -/

/-- The counters are at or below the limits (R44, R148). -/
def Work.under (w : Work) (x : XW) : Bool :=
  let ok := fun (n lim : Nat) => decide (lim = 255) || decide (n ≤ lim)
  ok w.loads x.loads && ok w.stores x.stores && ok w.copies x.copies && ok w.tiles x.tiles

/-- Requests of a unit's streams that wait for a migration: they count as outstanding loads (R117, R202). -/
def State.heldRequests (s : State) (u : Nat) : Nat :=
  ((s.die (dieOf u)).replay.filter fun x => decide (x.1 = u) && decide (2 ^ 32 ≤ x.2.1) && s.replayLive x).length

/-- WAIT: before the word issues, L's and M's read-ahead is emptied (R179, R204). -/
def waitBody (x : XW) (s : State) (U : UnitSt) (_ : PassRec) (f : Flight) : Res :=
  if !{ U.work with loads := U.work.loads + s.heldRequests s.who.1 }.under x then .stall s
  else if s.who.2 = .L ∨ s.who.2 = .M then .go (s.setUnit s.who.1 (U.dropAhead s.who.2)) f
  else .go s f

def execWaitS (tk : Tok) (w : XW) (s : State) : Out := s.sWord tk none [] (waitBody w)
def execWaitL (tk : Tok) (w : XW) (s : State) : Out := s.eWord tk none (waitBody w)
def execWaitV (tk : Tok) (w : XW) (s : State) : Out := s.eWord tk none (waitBody w)
def execWaitW (tk : Tok) (w : XW) (s : State) : Out := s.eWord tk none (waitBody w)
def execWaitM (tk : Tok) (w : XW) (s : State) : Out := s.eWord tk none (waitBody w)
def execWaitC (tk : Tok) (w : XW) (s : State) : Out := s.eWord tk none (waitBody w)

/-- NOP: one issue cycle and its token action. -/
def nopBody (s : State) (_ : UnitSt) (_ : PassRec) (f : Flight) : Res := .go s f

def execNopS (tk : Tok) (s : State) : Out := s.sWord tk none [] nopBody
def execNopL (tk : Tok) (s : State) : Out := s.eWord tk none nopBody
def execNopV (tk : Tok) (s : State) : Out := s.eWord tk none nopBody
def execNopW (tk : Tok) (s : State) : Out := s.eWord tk none nopBody
def execNopM (tk : Tok) (s : State) : Out := s.eWord tk none nopBody
def execNopC (tk : Tok) (s : State) : Out := s.eWord tk none nopBody

end Sys2Proof.Machine
end

