-- ==== Sys2Proof/Machine/NearMem.lean ====
section
/-! DEFINITION. Near-memory commands (R180 to R186): NMC, NMFENCE, the unit's work on a command and its end. -/

namespace Sys2Proof.Machine

/-- A range of a command at issue: its key, the address bits below its first leaf page, and whether that page is migrating. -/
inductive NmAcc where
  | ok (key bits : Nat) (mig : Bool)
  | wait (s : State)
  | trap (s : State) (c : Cause) (i0 i1 : Nat)

/-- The leaf that the TLB, or else the tables, hold for an address: its page's bits and the key of the byte. -/
def State.leafOf (s : State) (u addr : Nat) : Nat × Nat :=
  let at' := fun (l p : Nat) => (pageBits l, keyOf (pteTier p) (pteFrame p + addr % 2 ^ pageBits l))
  match (s.cluster (clusterOf u)).tlb.find? fun e => e.hits (s.unit u).id.asid addr with
  | some e => at' e.level e.pte
  | none =>
    match walkVA s.mem (s.unit u).id.root addr with
    | .leaf l p _ => at' l p
    | .bad _ _ => (16, 0)

/-- Translation of a command's range (R182, check 5) for each kind of access it makes. -/
def State.nmTranslate (s : State) (u a : Nat) : List AccKind → NmAcc
  | [] => .wait s
  | k :: r =>
    match s.translate u 7 a k with
    | .ok key => if r = [] then .ok key (s.leafOf u a).1 false else s.nmTranslate u a r
    | .mig => if r = [] then .ok (s.leafOf u a).2 (s.leafOf u a).1 true else s.nmTranslate u a r
    | .miss => .wait (s.startWalk u a)
    | .xlat l q => .trap (s.dropFault u a) .xlat a (l + q * 16 + (if k = .read then 0 else 256))

/-- A store of S to device memory waits still, or is not performed at device scope. -/
def State.nmBlocked (s : State) (u : Nat) : Bool :=
  let U := s.unit u
  (U.work.sops.any fun o => o.writes && (decide (o.place.space = 0) || decide (o.place.space = 5) || decide (o.place.space = 7)))
    || !s.mem.performedBy u 3

/-- NMC (R180 to R182).  A command with a page that is migrating is sent and waits there (R117). -/
def execNmc (tk : Tok) (d a b : Nat) (m : XM) (s : State) : Out :=
  s.sWord tk m.grd [32 + a, b, d, d + 1, d + 2, d + 3] fun s U r f =>
    let u := s.who.1
    let w0 := (U.xS d).toNat
    let w1 := (U.xS (d + 1)).toNat
    let soff := (U.xS (d + 2)).toNat
    let ngran := fld w0 0 32
    let crec := fld w0 32 32
    let op := m.sub
    let two := op = 1 ∨ op = 2
    let c := U.kS a
    let o := U.memOff b m
    let n := 64 * ngran
    let bad := fun (cause : Cause) (off : Nat) => Res.trap cause off (capInfo a 64 r.addr)
    if ngran < 1 ∨ 16384 < ngran ∨ crec % 16 ≠ 0 ∨ 0x100000 ≤ crec then r.trapHere .und
    else if U.acquiring then .stall s
    else match c.check o n permN with
    | .error e => bad e o
    | .ok da =>
      match if two then c.check soff n permN else .ok 0 with
      | .error e => bad e soff
      | .ok sa =>
        if c.space ≠ 7 then bad .kperm o
        else if da % 64 ≠ 0 then bad .align o
        else if two ∧ sa % 64 ≠ 0 then bad .align soff
        else match s.nmTranslate u da (if op = 4 then [.write] else [.read, .write]) with
        | .wait s1 => .stall s1
        | .trap s1 e i0 i1 => .trapAt s1 e i0 i1
        | .ok dkey dbits dmig =>
          match if two then s.nmTranslate u sa [.read] else .ok dkey 64 false with
          | .wait s1 => .stall s1
          | .trap s1 e i0 i1 => .trapAt s1 e i0 i1
          | .ok skey sbits smig =>
            if s.nmBlocked u ∨ 16 ≤ U.work.nmcs.length then .stall s
            else
              let k := fld (keyOff dkey) 36 3
              let D := s.die k
              let id := (D.nm.map (·.id)).foldl max 0 + 1
              let cmd : Nmc :=
                { id := id, seq := f.id, u := u, op := op, ngran := ngran, crec := crec
                  alpha := BitVec.ofNat 32 (fld w1 0 32), beta := BitVec.ofNat 32 (fld w1 32 32)
                  sva := sa, dva := da, skey := skey, dkey := dkey, res := (U.xS (d + 3)).toNat
                  leaf := (dbits, sbits), st := if dmig || smig then 2 else 0, status := 0, flags := 0, first := da }
              let s1 := s.setDie k { D with nm := D.nm ++ [cmd] }
              .go (s1.setUnit u { U with work := { U.work with nmcs := U.work.nmcs ++ [k * 2 ^ 32 + id] } }) f

/-- NMFENCE (R186). -/
def execNmfence (tk : Tok) (s : State) : Out :=
  s.sSerial tk none [] fun s U _ f =>
    if U.work.nmcs ≠ [] then .stall s
    else match U.work.nmFail with
      | [] => .go s f
      | c :: r => .trap .nmerr (fld (r.foldl min c) 0 32) 0

/-! ### The near-memory unit -/

/-- One element of a command: its new value and flags (R182). -/
def nmElem (op : Nat) (alpha beta old src : Nat) : Nat × Nat :=
  let rd := fun (v : Nat) => readF 24 false v
  let out := fun (x : Ex × Nat) (sn : Bool) =>
    let q := roundEx 24 false 0 x.1
    (q.1, q.2 ||| x.2 ||| sigNV sn)
  let a := rd alpha
  let b := rd beta
  let d := rd old
  let e := rd src
  match op with
  | 1 =>
    let p := exMul a.1 d.1
    let q := exMul b.1 e.1
    let z := exAdd 0 p.1 q.1
    out (z.1, z.2 ||| p.2 ||| q.2) (a.2 || b.2 || d.2 || e.2)
  | 2 => out (exAdd 0 d.1 e.1) (d.2 || e.2)
  | 3 => out (exMul a.1 d.1) (a.2 || d.2)
  | _ => (alpha, 0)

/-- The 16 elements of granule `i`: bytes and flags. -/
def Nmc.granule (c : Nmc) (m : Mem) (i : Nat) : List Byte × Nat :=
  let r := (List.range 16).map fun j =>
    nmElem c.op c.alpha.toNat c.beta.toNat (m.num .device (c.dkey + 64 * i + 4 * j) 4)
      (m.num .device (c.skey + 64 * i + 4 * j) 4)
  ((r.map fun q => toBytes 4 q.1).flatten, orFlags (r.map (·.2)))

/-- A granule that the command would read is poisoned (R185). -/
def Nmc.meetsPoison (c : Nmc) (m : Mem) (i : Nat) : Bool :=
  (decide (c.op ≤ 3) && m.poisonFor .device (c.dkey + 64 * i) 64) || (decide (c.op ≤ 2) && m.poisonFor .device (c.skey + 64 * i) 64)

/-- The granules from `i` on, at most `n`, in ascending order (R182). -/
def Nmc.run (c : Nmc) (s : State) (i : Nat) : Nat → State × Nmc
  | 0 => (s, { c with st := 1, first := c.dva + 64 * c.ngran })
  | n + 1 =>
    if c.meetsPoison s.mem i then
      ({ s with mem := s.mem.setPoison (c.dkey + 64 * i) }, { c with st := 1, status := 1, first := c.dva + 64 * i })
    else
      let q := c.granule s.mem i
      Nmc.run { c with flags := c.flags ||| q.2 } (s.writeMem c.u 3 (c.dkey + 64 * i) q.1 false) (i + 1) n

/-- A range crosses the boundary of the leaf page of its first byte. -/
def crossesPage (addr bits n : Nat) : Bool := decide (addr / 2 ^ bits ≠ (addr + n - 1) / 2 ^ bits)

/-- What the unit does with a command: BADCMD, BADRANGE, or its granules. -/
def Nmc.judge (c : Nmc) (s : State) : State × Nmc :=
  let two := c.op ≤ 2
  let n := 64 * c.ngran
  if c.res ≠ 0 then (s, { c with st := 1, status := 3 })
  else if crossesPage c.dva c.leaf.1 n || (two && (crossesPage c.sva c.leaf.2 n
      || decide (fld (keyOff c.dkey) 36 3 ≠ fld (keyOff c.skey) 36 3))) then (s, { c with st := 1, status := 2 })
  else c.run s 0 c.ngran

/-- What the tables hold for a range of a command that waits for a migration (R117). -/
def State.nmLate (s : State) (u a : Nat) : List AccKind → NmAcc
  | [] => .wait s
  | k :: r =>
    match walkVA s.mem (s.unit u).id.root a with
    | .bad l q => .trap s .xlat a (l + q * 16 + (if k = .read then 0 else 256))
    | .leaf l p _ =>
      match leafTr l p a 7 k with
      | .ok key => if r = [] then .ok key (pageBits l) false else s.nmLate u a r
      | .xlat l q => .trap s .xlat a (l + q * 16 + (if k = .read then 0 else 256))
      | _ => .wait s

/-- A command that waited for a migration goes on: to the stack that now holds its destination; a fault that it meets is a trap of
its unit. -/
def State.nmRelease (s : State) (k : Nat) (c : Nmc) : State :=
  let D := s.die k
  match s.nmLate c.u c.dva (if c.op = 4 then [.write] else [.read, .write]),
      (if c.op ≤ 2 then s.nmLate c.u c.sva [.read] else .ok c.skey 64 false) with
  | .ok dkey db _, .ok skey sb _ =>
    let j := fld (keyOff dkey) 36 3
    let c1 := { c with dkey := dkey, skey := if c.op ≤ 2 then skey else dkey, leaf := (db, sb), st := 0 }
    if j = k then s.setDie k { D with nm := D.nm.map fun x => if x.id = c.id then c1 else x }
    else
      let s1 := s.setDie k { D with nm := D.nm.filter fun x => x.id ≠ c.id }
      let E := s1.die j
      let id := (E.nm.map (·.id)).foldl max 0 + 1
      let U := s1.unit c.u
      (s1.setDie j { E with nm := E.nm ++ [{ c1 with id := id }] }).setUnit c.u { U with work := { U.work with
        nmcs := U.work.nmcs.map fun x => if x = k * 2 ^ 32 + c.id then j * 2 ^ 32 + id else x } }
  | .trap _ e i0 i1, _ | _, .trap _ e i0 i1 =>
    let U := s.unit c.u
    let s1 := (s.setDie k { D with nm := D.nm.filter fun x => x.id ≠ c.id }).setUnit c.u
      { U with work := { U.work with nmcs := U.work.nmcs.erase (k * 2 ^ 32 + c.id) } }
    if s.halted c.u then s1 else s1.takeTrap c.u ⟨e, 0, i0, i1⟩
  | _, _ => s

/-- The command may be taken: none of its unit's stands before it in the stack's queue and is not processed (R184). -/
def nmFirst (l : List Nmc) (c : Nmc) : Bool := (l.takeWhile fun x => x.id ≠ c.id).all fun x => decide (x.st = 1) || decide (x.u ≠ c.u)

/-- A stack takes up its oldest command that is not processed and waits for no other: first one that waits for a migration. -/
def State.nmCommand (s0 : State) (k : Nat) : State :=
  let s := match (s0.die k).nm.find? fun c => c.st = 2 && nmFirst (s0.die k).nm c with
    | some c => s0.nmRelease k c
    | none => s0
  match (s.die k).nm.find? fun c => c.st = 0 && nmFirst (s.die k).nm c with
  | none => s
  | some c =>
    let q := c.judge s
    let D := q.1.die k
    q.1.setDie k { D with nm := D.nm.map fun x => if x.id = c.id then q.2 else x }

/-- The completion record of R183. -/
def Nmc.record (c : Nmc) : List Byte := u16 c.status ++ u16 (c.flags &&& 0x17) ++ u32 0 ++ u64 c.first

/-- The oldest processed command ends whose unit has its clock (R385).  Its record is no access of an engine: a fall of its bank that
is due comes first, and the write wakes the bank (R134, R135). -/
def State.nmCommandEnd (s0 : State) (k : Nat) : State :=
  match (s0.die k).nm.find? fun c => decide (c.st = 1) && !s0.stands c.u with
  | none => s0
  | some c =>
    let s := (spadBanks c.crec 16).foldl (fun s j => s.fallIfDue c.u 1 j) s0
    let D := s.die k
    let s1 := s.setDie k { D with nm := D.nm.filter fun x => x.id ≠ c.id }
    let U := s1.unit c.u
    if !U.work.nmcs.contains (k * 2 ^ 32 + c.id) then s1
    else
      let V := (U.wakeSpad c.crec 16)
      let W := { V with work := { V.work with
        nmcs := V.work.nmcs.erase (k * 2 ^ 32 + c.id)
        nmFail := if c.status = 0 then V.work.nmFail else V.work.nmFail ++ [c.seq * 2 ^ 32 + c.crec] } }
      (s1.setUnit c.u W).writeMem c.u 0 (localKey c.u 1 c.crec) c.record false

def execNmCommand (k : Nat) (s : State) : Out := .next (s.nmCommand k)
def execNmCommandEnd (k : Nat) (s : State) : Out := .next (s.nmCommandEnd k)

end Sys2Proof.Machine
end

