-- ==== Sys2Proof/Machine/Matrix.lean ====
section
/-! DEFINITION. The matrix engine (R254 to R278): MMUL, MMULB, MSCAL, MCLR, MBSET, the shared-B groups with MJOIN and
MLEAVE, and the events that complete panels, tile operations and rounds. -/

namespace Sys2Proof.Machine

/-! ### Geometry of the operands (R256, R258) -/

/-- Code words of an L6 column of depth `k`. -/
def codeWords (k : Nat) : Nat := (6 * ((k + 7) / 8) + 7) / 8
/-- Words of a column slice that a B operand takes. -/
def bWords (bf16 : Bool) (k : Nat) : Nat :=
  if bf16 then (k + 3) / 4 else codeWords k + ((k + 31) / 32 + 7) / 8
/-- Words of a column slice that K-slices `lo` up to `hi` of a B operand take: its elements or codes, and the scales. -/
def bSlice (bf16 : Bool) (depth lo hi : Nat) : List Nat :=
  let words := fun (a b : Nat) => (List.range (b + 1 - a)).map (a + ·)
  let z := hi - 1
  if hi ≤ lo then []
  else if bf16 then words (lo / 4) (z / 4)
  else words ((6 * (lo / 8) + 6 * (lo % 8) / 8) / 8) ((6 * (z / 8) + (6 * (z % 8) + 5) / 8) / 8)
    ++ (words (lo / 256) (z / 256)).map (codeWords depth + ·)
/-- The key of byte `i` of column `n`, counted from the operand's start word, in a unit's B-store (R127, R258). -/
def bKey (u bword n i : Nat) : Nat := keyOf (regBst u) ((bword + i / 8) * 512 + n * 8 + i % 8)
/-- The L6 code of B[k][n]. -/
def bCode (m : Mem) (u bword n k : Nat) : Nat :=
  let i := 6 * (k / 8) + 6 * (k % 8) / 8
  let v := (m.byte (.unit u) (bKey u bword n i)).toNat + 256 * (m.byte (.unit u) (bKey u bword n (i + 1))).toNat
  fld v (6 * (k % 8) % 8) 6
/-- The BF16 element B[k][n]. -/
def bBf16 (m : Mem) (u bword n k : Nat) : Nat :=
  (m.byte (.unit u) (bKey u bword n (2 * k))).toNat + 256 * (m.byte (.unit u) (bKey u bword n (2 * k + 1))).toNat
/-- The scale of block `j` of column `n`. -/
def bScale (m : Mem) (u bword n depth j : Nat) : Nat := (m.byte (.unit u) (bKey u bword n (codeWords depth * 8 + j))).toNat

/-! ### The sums (R90, R92, R260, R264, R268) -/

/-- floor(log2) of the magnitude of a non-zero value. -/
def Ex.top (x : Ex) : Int := match x with | .fin _ n e _ => (Nat.log2 n : Int) + e | _ => 0
def Ex.isZero (x : Ex) : Bool := match x with | .fin _ n _ _ => decide (n = 0) | _ => false

/-- BF16GroupSum of R92: the FP32 sum of the group, with its flags; NX stands for the sticky bit too. -/
def bf16GroupSum (a b : List Nat) : Nat × Nat :=
  let p := (a.zip b).map fun q => (exMul (readF 8 false q.1).1 (readF 8 false q.2).1).1
  if p.any (fun x => x.isNan) ∨ (p.contains (.inf false) ∧ p.contains (.inf true)) then (canonNan 24, 0)
  else if p.contains (.inf false) then (infBits 24, 0)
  else if p.contains (.inf true) then (2 ^ 31 + infBits 24, 0)
  else
    let nz := p.filter fun x => !x.isZero
    match nz with
    | [] => (0, 0)
    | x :: r =>
      let u := (r.foldl (fun t y => max t y.top) x.top) - 39
      let parts := nz.map fun y => match y with
        | .fin n m e _ => (if n then -((scaleNat m (e - u)).1 : Int) else ((scaleNat m (e - u)).1 : Int), (scaleNat m (e - u)).2)
        | _ => (0, false)
      let g := (parts.map (·.1)).foldl (· + ·) 0
      let st := parts.any (·.2)
      let v := if st ∧ g ≠ 0 then exOfInt (4 * g + (if g < 0 then -1 else 1)) (u - 2) false else exOfInt g u false
      let q := roundEx 24 false 0 v
      (q.1, q.2 ||| (if st then fNX else 0))

/-- acc := RoundF32(acc + s, RNE), with its flags. -/
def accPlus (acc : Nat × Nat) (s : Nat × Nat) : Nat × Nat :=
  let z := exAdd 0 (readF 24 false acc.1).1 (readF 24 false s.1).1
  let q := roundEx 24 false 0 z.1
  (q.1, acc.2 ||| s.2 ||| q.2)

/-- RoundF32(f × element, RNE), with its flags. -/
def scaleBy (f v : Nat) : Nat × Nat :=
  roundEx 24 false 0 (exMul (readF 24 false f).1 (readF 24 false v).1).1

/-- The M flags of a written element: MNX and MOF of its roundings, MNAN for a NaN (R265). -/
def elemFlags (v : Nat × Nat) : Nat := matrixFlags v.2 ||| (if v.1 = canonNan 24 then fMNAN else 0)

/-- The codes of a step between two positions. -/
def slice (l : List Nat) (i n : Nat) : List Nat := (l.drop i).take n

/-- The sum over the blocks of one panel for row step `a` and column `n`, from an accumulator (R264). -/
def MOp.panelSum (o : MOp) (m : Mem) (a : List Nat) (n : Nat) (start : Nat × Nat) : Nat × Nat :=
  let k0 := o.panel * o.c0
  let w := min o.c0 (o.k - k0)
  let src := o.src - 1
  if o.bf16 then
    (List.range ((w + 7) / 8)).foldl (fun acc g =>
      let nj := min 8 (w - 8 * g)
      accPlus acc (bf16GroupSum (slice a (8 * g) nj) ((List.range nj).map fun i => bBf16 m src o.bword n (k0 + 8 * g + i))))
      start
  else
    (List.range ((w + 31) / 32)).foldl (fun acc b =>
      let nj := min 32 (w - 32 * b)
      let s := l6BlockSum (slice a (32 * b) nj) ((List.range nj).map fun i => bCode m src o.bword n (k0 + 32 * b + i))
        (a.getD (o.c0 + 32 * b) 0) (bScale m src o.bword n o.k (k0 / 32 + b))
      accPlus acc (roundEx 24 false 0 s)) start

/-- The starting value of an element for the panel in progress (R260). -/
def MOp.start (o : MOp) (elem : Nat) : Nat × Nat :=
  if o.panel ≠ 0 then (elem, 0)
  else match o.mode with
    | 1 => (0, 0)
    | 2 => scaleBy o.fade.toNat elem
    | _ => (elem, 0)

/-- The results of the panel in progress: elements and flags. -/
def MOp.results (o : MOp) (m : Mem) (U : UnitSt) : List (Nat × Word32) × Nat :=
  let r := ((List.range o.mr).map fun row => (List.range o.nc).map fun n =>
    (elemKey o.bank row n, o.panelSum m (o.steps.getD row []) n (o.start (U.elem o.bank row n).toNat))).flatten
  (r.map fun q => (q.1, BitVec.ofNat 32 q.2.1), orFlags (r.map fun q => elemFlags q.2))

/-! ### MMUL and MMULB -/

def UnitSt.bset (U : UnitSt) (i : Nat) : BSet := SMap.get BSet.reset U.bsets i

/-- A further tile operation joins the unit's work. -/
def UnitSt.addMOp (U : UnitSt) (o : MOp) : UnitSt :=
  { U with work := { U.work with mops := U.work.mops ++ [o], tiles := U.work.tiles + 1 } }

/-- The unit is a member, and not the source, of a shared-B group. -/
def UnitSt.isMember (U : UnitSt) : Bool := match U.group with | some (_, src) => !src | none => false

/-- The first step of an MMUL or MMULB, which takes `n` elements in all: the race check of the word comes as it issues (R426). -/
def State.firstStep (s : State) (u i : Nat) (d : Desc) (c0 n : Nat) (r : PassRec) : Took :=
  match s.takeStep u .M i 2 c0 r with
  | .got s1 a e =>
    if !d.checked then .got s1 a e
    else match s.stepRaces u .M d (runFrom ((s.unit u).stream i).pc n) with
    | .inl s2 => s2.takeStep u .M i 2 c0 r
    | .inr x => x
  | other => other

/-- MMUL and MMULB at issue: the checks of R263 in order, then the first step. -/
def State.mmul (s : State) (tk : Tok) (i bk : Nat) (x : XMM) (bf16 : Bool) : Out :=
  s.eWord tk x.grd fun s U r f =>
    let u := s.who.1
    let t := U.stream i
    let k := x.k + 1
    let mr := x.mr + 1
    let shr := decide (x.shr = 1)
    let member := shr && U.isMember
    let bs := U.bset x.bset
    match t.mode, t.active with
    | .read, some d =>
      let c0 := d.c 0
      let p := panels k c0
      if t.cons ≠ 0 ∧ t.cons ≠ 2 then r.trapHere .und
      else if d.fmt ≠ (if bf16 then 1 else 2) ∨ (!member ∧ bs.bf16 ≠ bf16) then r.trapHere .und
      else if d.vlen < c0 ∨ d.i0 t.pc ≠ 0 ∨ (1 < p ∧ c0 % (if bf16 then 8 else 32) ≠ 0) then r.trapHere .und
      else if d.total < t.pc + mr * p * c0 then r.trapHere .und
      else if shr ∧ U.group.isNone then r.trapHere .und
      else match U.bankChk true [(bk, decide (x.mode ≠ 1))] with
        | .trap c b => bankInfo c b r
        | .wait V => .stall (s.setUnit u V)
        | .ok =>
          if !member ∧ 4096 < bs.bword + bWords bf16 k then .trap .kbound (4096 * 512) (capInfo 1 8 r.addr)
          else if (U.work.mops.any fun o => !o.stepsDone) ∨ 1023 ≤ U.work.tiles then .stall s
          else match s.firstStep u i d c0 (mr * p * c0) r with
            | .stall s1 => .stall s1
            | .trap s1 c i0 i1 => .trapAt s1 c i0 i1
            | .mcheck s1 => .jump s1
            | .got s1 a e =>
              let o : MOp :=
                { id := f.id, bf16 := bf16, bank := bk, s := i, mode := x.mode, shr := shr, mr := mr, k := k, c0 := c0
                  bword := bs.bword, nc := bs.nc, fade := U.fade, panel := 0, steps := [a ++ e], flags := 0
                  scal := none, src := if shr then 0 else u + 1, round := 0, seen := [], bus := [], rest := none }
              .go (s1.setUnit u ((s1.unit u).addMOp o))
                { f with wait := .op, wr := [bk], rd := if x.mode = 1 then [] else [bk] }
    | _, _ => r.trapHere .und

def execMmul (tk : Tok) (i bk last : Nat) (x : XMM) (s : State) : Out := let _ := last; s.mmul tk i bk x false
def execMmulb (tk : Tok) (i bk last : Nat) (x : XMM) (s : State) : Out := let _ := last; s.mmul tk i bk x true

/-- MSCAL and MCLR at issue. -/
def State.wholeBank (s : State) (tk : Tok) (g : XP) (b : Nat) (scal : Option Word32) : Out :=
  s.eWord tk g fun s U r f =>
    match U.bankChk true [(b, scal.isSome)] with
    | .trap c n => bankInfo c n r
    | .wait V => .stall (s.setUnit s.who.1 V)
    | .ok =>
      if 1023 ≤ U.work.tiles ∨ (U.work.mops.any fun o => !o.stepsDone) then .stall s
      else
        let o : MOp :=
          { id := f.id, bf16 := false, bank := b, s := 0, mode := 0, shr := false, mr := 0, k := 0, c0 := 1, bword := 0
            nc := 0, fade := 0, panel := 0, steps := [], flags := 0, scal := scal, src := 0, round := 0, seen := []
            bus := [], rest := none }
        .go (s.setUnit s.who.1 (U.addMOp o)) { f with wait := .op, wr := [b], rd := if scal.isSome then [b] else [] }

def execMscal (tk : Tok) (d imm32 : Nat) (s : State) : Out := s.wholeBank tk none d (some (BitVec.ofNat 32 imm32))
def execMclr (tk : Tok) (d : Nat) (g : XP) (s : State) : Out := s.wholeBank tk g d none

/-- MBSET (R270) acts at once on the words of M that issue after it. -/
def execMbset (tk : Tok) (imm imm32 : Nat) (s : State) : Out :=
  s.eWord tk none fun s U _ f => .go (s.setUnit s.who.1 (U.applyEff (.mset imm imm32))) f

/-! ### Panels and tile operations -/

/-- The steps still missing of the panel in progress, as far as they can be taken. -/
def State.takeSteps (s : State) (u : Nat) (o : MOp) (r : PassRec) : Nat → (State × MOp) ⊕ (State × Option (Cause × Nat × Nat))
  | 0 => .inl (s, o)
  | n + 1 =>
    if o.mr ≤ o.steps.length then .inl (s, o)
    else
      let upd := fun (s : State) (o : MOp) =>
        let U := s.unit u
        s.setUnit u { U with work := { U.work with mops := U.work.mops.map fun x => if x.id = o.id then o else x } }
      let took := match o.rest with
        | none => s.takeStep u .M o.s 2 o.c0 r
        | some (d, p) => s.readNow u .M o.s r Stream.reset d (runFrom p o.c0)
      match took with
      | .got s1 a e =>
        let o1 := { o with steps := o.steps ++ [a ++ e], rest := o.rest.map fun q => (q.1, q.2 + o.c0) }
        State.takeSteps (upd s1 o1) u o1 r n
      | .stall s1 => .inl (s1, o)
      | .trap s1 c i0 i1 => .inr (s1, some (c, i0, i1))
      | .mcheck s1 => .inr (s1, none)

/-- The members of a group whose unit is in a trap, or has still to resume from a park, hold its rounds (R275). -/
def State.groupHeld (s : State) (u g : Nat) : Bool :=
  (SMap.get Group.reset (s.cluster (clusterOf u)).groups g).members.any fun m =>
    decide ((s.unit m.1).trap.depth ≠ 0) || decide ((s.unit m.1).run = .loading)

def State.roundHeld (s : State) (u : Nat) : Bool :=
  match (s.unit u).group with | some (g, _) => s.groupHeld u g | none => false

/-- The cluster's clocks stand still in a relock, and the array with them (R254). -/
def State.relocking (s : State) (u : Nat) : Bool := (s.cluster (clusterOf u)).clk.relock

/-- No member of a round goes on before every other has the steps of the same K-slices (R274): their panels done, and the one whose
steps they all have, reach as far as the panel of `o` that is to be completed. -/
def State.inLockstep (s : State) (u : Nat) (o : MOp) : Bool :=
  match (s.unit u).group with
  | none => true
  | some (g, _) => (SMap.get Group.reset (s.cluster (clusterOf u)).groups g).members.all fun m =>
      decide (m.1 = u) || (match (s.unit m.1).work.mops.find? fun q => q.shr && decide (q.round = o.round) with
        | none => true
        | some q => decide (min o.k ((o.panel + 1) * o.c0) ≤ (q.panel + if q.steps.length = q.mr then 1 else 0) * q.c0))

/-- The depth that a word's panels reach once the one in progress is complete. -/
def MOp.reach (o : MOp) : Nat := min o.k ((o.panel + 1) * o.c0)
/-- The B lines of the panel in progress, and those from there to the operand's end. -/
def MOp.lines (o : MOp) : List Nat := bSlice o.bf16 o.k (o.panel * o.c0) o.reach
def MOp.linesOn (o : MOp) : List Nat := bSlice o.bf16 o.k (o.panel * o.c0) o.k
/-- The place of a B line, the line of a place, and the line's bytes as the source's unit reads them. -/
def MOp.lineKey (o : MOp) (w : Nat) : Nat := keyOf (regBst (o.src - 1)) ((o.bword + w) * 512)
def MOp.lineOf (o : MOp) (key : Nat) : Nat := keyOff key / 512 - o.bword
def MOp.lineCells (o : MOp) (m : Mem) (w : Nat) : List (Nat × Byte) :=
  let bs := m.read (.unit (o.src - 1)) (o.lineKey w) (8 * o.nc)
  (List.range bs.length).map fun i => (o.lineKey w + i, bs.getD i 0)
/-- Line `w` is among cells that have been read. -/
def MOp.hasLine (o : MOp) (l : List (Nat × Byte)) (w : Nat) : Bool := l.any fun c => decide (c.1 = o.lineKey w)

/-- A change of an operation of unit `u`, and, where it is a word of a round, of every member's word of that round. -/
def State.roundOps (s : State) (u : Nat) (o : MOp) (f : MOp → MOp) : State :=
  let us : List Nat := match o.shr, (s.unit u).group with
    | true, some (g, _) => (SMap.get Group.reset (s.cluster (clusterOf u)).groups g).members.map fun (m : Nat × Bool) => m.1
    | _, _ => [u]
  us.foldl (fun (s : State) (v : Nat) =>
    let V := s.unit v
    s.setUnit v { V with work := { V.work with mops := V.work.mops.map fun (x : MOp) =>
      if (v = u ∧ x.id = o.id) ∨ (o.shr ∧ x.shr ∧ x.round = o.round) then f x else x } }) s

/-- The bytes of line `w` for the words that the array takes through it: those of a panel still to be completed. -/
def MOp.bring (o : MOp) (w : Nat) (cells : List (Nat × Byte)) : MOp :=
  if o.hasLine (o.bus ++ o.seen) w ∨ !o.linesOn.contains w then o else { o with seen := o.seen ++ cells }

/-- The array reads line `k` of the panel in progress ahead of its completion: each B word is read as the array reaches it (R278), and
in a round the bus carries it to every member (R274); a poisoned one is a machine check (R276). -/
def State.readBLine (s : State) (u id k : Nat) : State :=
  match (s.unit u).work.mops.head? with
  | some o =>
    if o.id ≠ id ∨ !o.isMul ∨ o.panelsDone ∨ o.src = 0 ∨ !o.lines.contains k ∨ s.relocking u ∨ (o.shr ∧ s.roundHeld u)
        ∨ o.hasLine (o.bus ++ o.seen) k then s
    else match s.poisonCheck u (o.lineKey k) (8 * o.nc) with
      | some s1 => s1
      | none => let cells := o.lineCells s.mem k
        s.roundOps u o fun x => x.bring k cells
  | none => s

/-- The lines of a panel that one member has completed have been carried to the others (R274): they keep them for the panels that they
have still to complete. -/
def State.carry (s : State) (u : Nat) (o : MOp) (m : Mem) : State :=
  if !o.shr then s
  else s.roundOps u o fun x =>
    { x with bus := x.bus ++ ((o.lines.filter fun w => !x.hasLine x.bus w && x.linesOn.contains w).map (o.lineCells m)).flatten }

/-- The accumulators that the next panel of a word, or an MSCAL, reads: none where it starts from zero. -/
def MOp.readKeys (o : MOp) : List Nat :=
  if !o.isMul then (if o.scal.isSome then (List.range 4096).map (o.bank * 4096 + ·) else [])
  else if o.panel = 0 ∧ o.mode = 1 then []
  else ((List.range o.mr).map fun row => (List.range o.nc).map fun n => elemKey o.bank row n).flatten

/-- The poison that the array meets in the B words of the panel that it has not read yet (R276). -/
def State.bPoison (s : State) (u : Nat) (o : MOp) : Option State :=
  (o.lines.filter fun w => !o.hasLine (o.bus ++ o.seen) w).findSome? fun w => s.poisonCheck u (o.lineKey w) (8 * o.nc)

/-- The array completes the panel in progress of the oldest tile operation (R264, R266), a shared one in lockstep with its
round (R274). -/
def State.panelComplete (s : State) (u : Nat) : State :=
  let U := s.unit u
  match U.work.mops.find? fun o => !(o.isMul && o.panelsDone) with
  | none => s
  | some o =>
    if !o.isMul ∨ o.src = 0 ∨ (U.work.mops.head?.map (·.id) ≠ some o.id)
        ∨ (o.shr ∧ s.roundHeld u) ∨ s.relocking u then s
    else
      let w := (U.work.fl.find? fun f => f.id = o.id).map fun f => (f.addr, f.hdr)
      let r : PassRec :=
        { addr := (w.getD (0, 0)).1, hdr := (w.getD (0, 0)).2, ext := 0, len := 2, mask := [], guard := true, vals := []
          caps := [], desc := [], relay := [], live := [] }
      match s.takeSteps u o r 64 with
      | .inr (s1, some (c, i0, i1)) => s1.takeTrap u ⟨c, 4, i0, i1⟩
      | .inr (s1, none) => s1
      | .inl (s1, o1) =>
        if o1.steps.length < o1.mr ∨ (o1.shr ∧ !s1.inLockstep u o1) then s1
        else match (s1.bPoison u o1).or (s1.parityChk u o1.readKeys) with
          | some s2 => s2
          | none =>
            let V := s1.unit u
            let m := s1.mem.overlay (o1.bus ++ o1.seen)
            let q := o1.results m V
            let o2 := { o1 with panel := o1.panel + 1, steps := [], seen := [], flags := o1.flags ||| q.2 }
            let o2 := { o2 with bus := o2.bus.filter fun c => o2.linesOn.contains (o2.lineOf c.1) }
            (s1.carry u o1 m).setUnit u
              { (V.writeBank o1.bank q.1) with
                work := { V.work with
                  mops := V.work.mops.map (fun x => if x.id = o.id then o2 else x)
                  fl := V.work.fl.map (fun f => if f.id = o.id then { f with progress := o2.panel } else f) } }

def execMmulPanelComplete (u : Nat) (s : State) : Out := clockEvent u s (s.panelComplete u)

/-- What MSCAL and MCLR write: the 4,096 elements and the flags. -/
def MOp.whole (o : MOp) (U : UnitSt) : List (Nat × Word32) × Nat :=
  let r := (List.range 4096).map fun i =>
    let k := o.bank * 4096 + i
    match o.scal with
    | some f => (k, scaleBy f.toNat (SMap.get 0 U.elems k).toNat)
    | none => (k, (0, 0))
  (r.map fun q => (q.1, BitVec.ofNat 32 q.2.1), orFlags (r.map fun q => elemFlags q.2))

/-- The oldest tile operation has written its results: its word is performed and retires (R266, R277). -/
def State.tileDone (s : State) (u : Nat) : State :=
  let U := s.unit u
  match U.work.mops with
  | [] => s
  | o :: rest =>
    if (o.isMul ∧ !o.panelsDone) ∨ s.relocking u then s
    else match if o.isMul then none else s.parityChk u o.readKeys with
    | some s1 => s1
    | none =>
      let q := if o.isMul then ([], o.flags) else o.whole U
      let V := { (U.writeBank o.bank q.1) with work := { U.work with mops := rest, tiles := U.work.tiles - 1 } }
      s.setUnit u ((V.finish o.id (flagEff q.2)).retire .M)

def execTileOpPerformed (u : Nat) (s : State) : Out := clockEvent u s (s.tileDone u)

/-! ### Shared B (R271 to R275) -/

def State.groupOf (s : State) (u g : Nat) : Group := SMap.get Group.reset (s.cluster (clusterOf u)).groups g
def State.setGroup (s : State) (u g : Nat) (G : Group) : State :=
  let C := s.cluster (clusterOf u)
  s.setCluster (clusterOf u) { C with groups := SMap.set Group.reset C.groups g G }

/-- Unit `u` waits at an MJOIN (OP 4) or MLEAVE (OP 5) of group `g`: its M engine has the word before it and is not stopped by a
trap. -/
def State.waitsAt (s : State) (u op g : Nat) : Bool :=
  let U := s.unit u
  !U.inHandler && decide (U.trap.pend = none) && match U.nextRec .M with
    | some r => decide (fld r.hdr 29 3 = 4) && decide (fld r.hdr 16 7 = op) && decide (fld r.hdr 0 2 = g)
    | none => false

/-- The members but `u` wait there: what all of them do together can be done now. -/
def State.allWait (s : State) (u op g : Nat) (ms : List (Nat × Bool)) : Bool :=
  ms.all fun m => decide (m.1 = u) || s.waitsAt m.1 op g

/-- Every waiting MJOIN of a group raises UND (R272). -/
def State.failJoin (s : State) (l : List (Nat × Bool)) : State :=
  l.foldl (fun s m =>
    match (s.unit m.1).nextRec .M with
    | some r => s.takeTrap m.1 ⟨.und, 4, r.addr, r.hdr⟩
    | none => s) s

/-- The group is formed: every member belongs to it, and the MJOINs of those but `u` go on with it. -/
def State.formGroup (s : State) (u g : Nat) (G : Group) : State :=
  (G.members.foldl (fun s m => s.setUnit m.1 { s.unit m.1 with group := some (g, m.2) }) s).setGroup u g
    { G with formed := true, joining := (G.members.map (·.1)).filter fun v => decide (v ≠ u) }

/-- MJOIN (R272): `sz` is the encoded group size minus 1.  A full group forms, or fails, once every member waits at its MJOIN.  DESIGN
CHOICE, an arrival counts on while its unit is in a trap handler (log entry 160). -/
def execMjoin (tk : Tok) (sz src g : Nat) (s : State) : Out :=
  s.eWord tk none fun s U r f =>
    let u := s.who.1
    let G := s.groupOf u g
    let role := decide (src = 1)
    let joined := G.members.any fun m => m.1 = u
    if G.joining.contains u then .go (s.setGroup u g { G with joining := G.joining.erase u }) f
    else if U.group.isSome ∨ !s.oneCluster u then r.trapHere .und
    else if !joined ∧ G.members ≠ [] ∧ (G.size ≠ sz + 1 ∨ (role ∧ G.members.any fun m => m.2) ∨ G.size ≤ G.members.length) then
      r.trapHere .und
    else
      let G1 := { G with size := sz + 1, members := if joined then G.members else G.members ++ [(u, role)] }
      if G1.members.length < sz + 1 ∨ !s.allWait u 4 g G1.members then .stall ((s.setGroup u g G1).beginOwn u .M)
      else if !(G1.members.any fun m => m.2) then
        .trapAt ((s.setGroup u g { G with size := 0, members := [] }).failJoin (G1.members.filter fun m => decide (m.1 ≠ u))) .und
          r.addr r.hdr
      else .go (s.formGroup u g G1) f

/-- MLEAVE (R273): once every member waits there the group is free for all; `leaving` keeps those that have still to go on. -/
def execMleave (tk : Tok) (g : Nat) (s : State) : Out :=
  s.eWord tk none fun s U r f =>
    let u := s.who.1
    let G := s.groupOf u g
    match U.group with
    | some (h, _) =>
      if h ≠ g then r.trapHere .und
      else if U.work.mops.any fun o => o.shr then .stall (s.beginOwn u .M)
      else
        let l := if G.leaving.contains u then G.leaving else G.leaving ++ [u]
        if (G.members.all fun m => l.contains m.1) && s.allWait u 5 g G.members then
          let s1 := G.members.foldl (fun s m => s.setUnit m.1 { s.unit m.1 with group := none }) s
          .go (s1.setGroup u g ⟨0, [], false, l.erase u, []⟩) f
        else .stall ((s.setGroup u g { G with leaving := l }).beginOwn u .M)
    | none =>
      if G.leaving.contains u then .go (s.setGroup u g { G with leaving := G.leaving.erase u }) f
      else r.trapHere .und

/-- The SHR operation of a unit that waits for its round. -/
def UnitSt.waitingShr (U : UnitSt) : Option MOp := U.work.mops.find? fun o => o.shr && decide (o.src = 0)

/-- A round starts (R274): every member's word has issued; the source's word fixes B. -/
def State.roundStart (s : State) (c g : Nat) : State :=
  let s0 := s
  let G := SMap.get Group.reset (s.cluster c).groups g
  let ops := G.members.map fun m => (m, (s.unit m.1).waitingShr)
  match ops.find? fun q => q.1.2 with
  | some ((su, _), some so) =>
    if !G.formed ∨ (ops.any fun q => q.2.isNone) ∨ G.members.any fun m =>
        decide ((s.unit m.1).trap.depth ≠ 0) || decide ((s.unit m.1).run = .loading) then s
    else if ops.any fun q => match q.2 with | some o => decide (o.k ≠ so.k) || (o.bf16 != so.bf16) | none => false then
      ops.foldl (fun s q =>
        let w := match q.2 with
          | some o => ((s.unit q.1.1).work.fl.find? fun (f : Flight) => f.id = o.id).map fun (f : Flight) => (f.addr, f.hdr)
          | none => none
        s.takeTrap q.1.1 ⟨.und, 4, (w.getD (0, 0)).1, (w.getD (0, 0)).2⟩) s
    else
      ops.foldl (fun s q =>
        match q.2 with
        | some o =>
          let V := s.unit q.1.1
          let o1 := { o with src := su + 1, bword := so.bword, nc := so.nc, round := s0.tick + 1 }
          s.setUnit q.1.1 { V with work := { V.work with mops := V.work.mops.map fun x => if x.id = o.id then o1 else x } }
        | none => s) s
  | _ => s

def execSharedBRound (c g : Nat) (s : State) : Out := .next (s.roundStart c g)

end Sys2Proof.Machine
end

