-- ==== Sys2Proof/Machine/Copy.lean ====
section
/-! DEFINITION. The copy engine (R139 to R146, R169 to R177): CPY, CFILL, CCVT, BLOAD, WDEF, WADV, WREL, the requests of a
move and the events that perform moves and window fills. -/

namespace Sys2Proof.Machine

/-! ### Shapes -/

/-- Words of a column slice that a BLOAD row of `ne` elements fills (R175). -/
def bloadWords (fmt ne : Nat) : Nat := (fmtBytes fmt ne + 7) / 8 + (if fmt = 2 then ((ne + 31) / 32 + 7) / 8 else 0)
/-- Row groups of a BLOAD. -/
def Move.groups (m : Move) : Nat := (m.rows + 7) / 8
/-- Requests of a range of `n` bytes, aligned to 64 on the destination side (R140). -/
def lineCount (a n : Nat) : Nat := if n = 0 then 0 else (a + n - 1) / 64 - a / 64 + 1
/-- Requests of a move. -/
def Move.total (m : Move) : Nat :=
  if m.kind = 3 then m.groups * bloadWords m.sfmt m.rowb
  else ((List.range m.rows).map fun r => lineCount (m.dst.addr + r * m.dstr) m.dstRow).sum
/-- Row, offset in the row and length of request `i` (R140), searched from row `r`. -/
def Move.find (m : Move) (i r : Nat) : Nat → Option (Nat × Nat × Nat)
  | 0 => none
  | n + 1 =>
    let a := m.dst.addr + r * m.dstr
    let c := lineCount a m.dstRow
    if c ≤ i then m.find (i - c) (r + 1) n
    else
      let lo := if i = 0 then 0 else (a / 64 + i) * 64 - a
      let hi := min m.dstRow ((a / 64 + i + 1) * 64 - a)
      some (r, lo, hi - lo)

/-! ### Access by pieces -/

/-- Why a request does not go on. -/
inductive CStop where
  | wait (s : State)
  | mig (addr : Nat)
  | xlat (addr info : Nat)
  | race (s : State) (i0 i1 : Nat)
  | poison (key : Nat)

/-- The keys of `n` bytes at an address, split at 64 KiB boundaries, each translated (R112, R143). -/
def State.pieces (s : State) (u space : Nat) (k : AccKind) : Nat → Nat → Nat → CStop ⊕ List (Nat × Nat)
  | _, _, 0 => .inr []
  | a, n, fuel + 1 =>
    if n = 0 then .inr []
    else
      let len := min n (65536 - a % 65536)
      match s.translate u space a k with
      | .ok key =>
        (match s.pieces u space k (a + len) (n - len) fuel with
         | .inr l => .inr ((key, len) :: l)
         | other => other)
      | .mig => .inl (.mig a)
      | .miss => .inl (.wait (s.startWalk u a))
      | .xlat l r => .inl (.xlat a (l + r * 16 + (if k = .read then 0 else 256)))

/-- The source held a byte of the range before its move wrote anything (R141). -/
def Snap.has (o : Snap) (k n : Nat) : Bool := o.bytes.any fun g => decide (g.1 ≤ k) && decide (k + n ≤ g.1 + g.2.length)
def Snap.read (o : Snap) (k n : Nat) : List Byte :=
  match o.bytes.find? fun g => decide (g.1 ≤ k) && decide (k + n ≤ g.1 + g.2.length) with
  | some g => (g.2.drop (k - g.1)).take n
  | none => []

/-- Bytes of a piece as a move reads them: of its source as it stood at first, where the move overlaps itself (R141). -/
def State.pieceBytes (s : State) (u : Nat) (old : Option Snap) (k n : Nat) : List Byte :=
  match old with
  | some o => if o.has k n then o.read k n else s.mem.read (.unit u) k n
  | none => s.mem.read (.unit u) k n
/-- Where a read of a piece meets poison. -/
def State.piecePoison (s : State) (u : Nat) (old : Option Snap) (k n : Nat) : Option Nat :=
  match old with
  | some o =>
    if o.has k n then
      (o.bad.find? fun g => decide (k / 64 ≤ g) && decide (g ≤ (k + n - 1) / 64)).map fun g => max k (g * 64)
    else s.poisonAt u k n
  | none => s.poisonAt u k n

/-- Bytes read by a request, checked for poison (R143). -/
def State.cRead (s : State) (u : Nat) (p : Place) (old : Option Snap) (off n : Nat) : CStop ⊕ (State × List Byte) :=
  match s.pieces u p.space .read ((p.addr + off) % 2 ^ 64) n 70000 with
  | .inl x => .inl x
  | .inr l =>
    match l.findSome? fun q => s.piecePoison u old q.1 q.2 with
    | some k => .inl (.poison k)
    | none => .inr (l.foldl (fun s q => s.touchRange q.1 q.2) s, (l.map fun q => s.pieceBytes u old q.1 q.2).flatten)

/-- Bytes stored at pieces; with `mix`, each byte holds its old value or the new one, which the device does not fix
(R143). -/
def State.putPieces (s : State) (chk mix : Bool) (u : Nat) : List (Nat × Nat) → List Byte → State
  | [], _ => s
  | (k, n) :: r, bs =>
    let new := bs.take n
    let w := if mix then (List.range n).map fun i =>
        if Config.freeBool s.tick (2000000 + k + i) then new.getD i 0 else s.mem.byte .bank (k + i) else new
    (s.store chk u 0 k w false).putPieces chk mix u r (bs.drop n)

/-- Bytes written by a request. -/
def State.cWrite (s : State) (u : Nat) (p : Place) (chk mix : Bool) (off : Nat) (bs : List Byte) : CStop ⊕ State :=
  match s.pieces u p.space .write ((p.addr + off) % 2 ^ 64) bs.length 70000 with
  | .inl x => .inl x
  | .inr l => .inr (s.putPieces chk mix u l bs)

/-! ### Conversion (R174) -/

/-- Elements of a row's bytes from an element at the start of a group. -/
def rowElems (fmt n : Nat) (bs : List Byte) : List Nat :=
  (List.range n).map fun e =>
    match fmt with
    | 0 => ofBytes ((bs.drop (4 * e)).take 4)
    | 1 => ofBytes ((bs.drop (2 * e)).take 2)
    | _ => groupCode (ofBytes ((bs.drop (6 * (e / 8))).take 6)) (e % 8)

/-- One element converted between FP32, BF16 and from L6: bits and flags. -/
def cvtElem (sf df rnd v scale : Nat) : Nat × Nat :=
  let x := if sf = 2 then (decodeL6 v scale, false) else readF (if sf = 0 then 24 else 8) false v
  let q := roundEx (if df = 0 then 24 else 8) false (if df = 1 then rnd else 0) x.1
  (q.1, q.2 ||| sigNV x.2)

/-- Blocks of 32 quantised one after another: codes, scales, flags. -/
def quantBlocks : Nat → List Nat → List Nat × List Nat × Nat
  | 0, _ => ([], [], 0)
  | n + 1, l =>
    match l with
    | [] => ([], [], 0)
    | _ =>
      let q := quantL6 (l.take 32)
      let r := quantBlocks n (l.drop 32)
      (q.2.1 ++ r.1, q.1 :: r.2.1, q.2.2 ||| r.2.2)

/-- Codes packed into groups of 6 bytes (R87, R91). -/
def packCodes (l : List Nat) : List Byte :=
  ((List.range ((l.length + 7) / 8)).map fun g => toBytes 6 (packGroup ((l.drop (8 * g)).take 8))).flatten

/-- Converted bytes of elements, the scales of their blocks, and the flags. -/
def convert (sf df rnd : Nat) (es scales : List Nat) : List Byte × List Nat × Nat :=
  if df = 2 then
    let fp := es.map fun v => if sf = 1 then v * 65536 else v
    let q := quantBlocks (es.length / 32 + 1) fp
    (packCodes q.1, q.2.1, q.2.2)
  else
    let r := (List.range es.length).map fun i => cvtElem sf df rnd (es.getD i 0) (scales.getD (i / 32) 0)
    ((r.map fun q => toBytes (if df = 0 then 4 else 2) q.1).flatten, [], orFlags (r.map (·.2)))

/-! ### Requests -/

/-- A part of a request: it stands in the scales, its offset there, and its bytes. -/
abbrev RPart := Bool × Nat × List Byte

/-- The elements whose codes bytes `o` to `o + n − 1` of a converted row hold: the first and how many.  A conversion to or from L6 goes
by blocks of 32. -/
def Move.elems (m : Move) (o n : Nat) : Nat × Nat :=
  let l6 := m.sfmt = 2 ∨ m.dfmt = 2
  let ds := if m.dfmt = 0 then 4 else 2
  let e0 := if m.dfmt = 2 then o / 24 * 32 else if l6 then o / ds / 32 * 32 else o / ds
  let e1 := min m.rowb (if m.dfmt = 2 then ((o + n - 1) / 24 + 1) * 32
    else if l6 then ((o + n - 1) / ds / 32 + 1) * 32 else (o + n - 1) / ds + 1)
  (e0, e1 - e0)

/-- The rows of BLOAD request `i`, and the word of them that it carries (R175). -/
def Move.bloadRows (m : Move) (i : Nat) : List Nat :=
  (List.range (min 8 (m.rows - 8 * (i % m.groups)))).map fun j => 8 * (i % m.groups) + j
def Move.bloadWord (m : Move) (i : Nat) : Nat := i / m.groups

/-- What request `i` reads: in the scales or the source, offset, bytes. -/
def Move.reads (m : Move) (i : Nat) : List (Bool × Nat × Nat) :=
  if m.kind = 3 then
    let len := fmtBytes m.sfmt m.rowb
    let cw := (len + 7) / 8
    let w := m.bloadWord i
    (m.bloadRows i).map fun r =>
      if w < cw then (false, r * m.sstr + 8 * w, min 8 (len - 8 * w))
      else (true, r * m.scstr + 8 * (w - cw), min 8 ((m.rowb + 31) / 32 - 8 * (w - cw)))
  else match m.find i 0 m.rows with
    | none => []
    | some (r, o, n) =>
      if m.kind = 0 then [(false, r * m.sstr + o, n)]
      else if m.kind = 2 then []
      else
        let e := m.elems o n
        (false, r * m.sstr + (if m.sfmt = 2 then e.1 / 8 * 6 else fmtBytes m.sfmt e.1), fmtBytes m.sfmt e.2)
          :: (if m.sfmt = 2 then [(true, r * m.scstr + e.1 / 32, (e.2 + 31) / 32)] else [])

/-- What request `i` writes from the bytes that it has read, in the order of its reads, and its flags. -/
def Move.result (m : Move) (i : Nat) (bs : List (List Byte)) : List RPart × Nat :=
  if m.kind = 3 then
    (((m.bloadRows i).zip bs).map fun q => (false, m.bloadWord i * 512 + q.1 * 8, pad 8 q.2), 0)
  else match m.find i 0 m.rows with
    | none => ([], 0)
    | some (r, o, n) =>
      let at_ := r * m.dstr + o
      if m.kind = 0 then ([(false, at_, bs.headD [])], 0)
      else if m.kind = 2 then ([(false, at_, (List.range n).map fun j => BitVec.ofNat 8 (m.pat / 2 ^ (8 * ((o + j) % 8))))], 0)
      else
        let e := m.elems o n
        let q := convert m.sfmt m.dfmt m.rnd (rowElems m.sfmt e.2 (bs.headD [])) ((bs.getD 1 []).map BitVec.toNat)
        let b0 := if m.dfmt = 2 then o / 24 * 24 else (if m.dfmt = 0 then 4 else 2) * e.1
        let mine := (q.2.1.zip (List.range q.2.1.length)).filterMap fun z =>
          let b := e.1 / 32 + z.2
          if o ≤ 24 * b ∧ 24 * b < o + n then some (true, r * m.scstr + b, [BitVec.ofNat 8 z.1]) else none
        ((false, at_, (q.1.drop (o - b0)).take n) :: mine, q.2.2)

/-- The bytes of several reads. -/
def Move.fetch (m : Move) (u : Nat) : List (Bool × Nat × Nat) → State → CStop ⊕ (State × List (List Byte))
  | [], s => .inr (s, [])
  | (k, o, n) :: l, s =>
    match if k then s.cRead u m.scale none o n else s.cRead u m.src m.snap o n with
    | .inl x => .inl x
    | .inr (s1, bs) =>
      match m.fetch u l s1 with
      | .inl x => .inl x
      | .inr (s2, r) => .inr (s2, bs :: r)

/-- Parts written at their places; a part that a peer refuses (`lost`: of the destination, of the scales) changes nothing (R282). -/
def Move.put (m : Move) (u : Nat) (mix : Bool) (lost : Bool × Bool) : List RPart → State → CStop ⊕ State
  | [], s => .inr s
  | (k, o, bs) :: l, s =>
    if if k then lost.2 else lost.1 then m.put u mix lost l s
    else match if k then s.cWrite u m.scale m.rcK mix o bs else s.cWrite u m.dst m.rcD mix o bs with
    | .inl x => .inl x
    | .inr s1 => m.put u mix lost l s1

/-- The places of parts. -/
def Move.where_ (m : Move) (s : State) (u : Nat) (l : List RPart) : CStop ⊕ List (Nat × Nat) :=
  l.foldr (fun q acc =>
    let p := if q.1 then m.scale else m.dst
    match s.pieces u p.space .write ((p.addr + q.2.1) % 2 ^ 64) q.2.2.length 70000, acc with
    | .inl x, _ => .inl x
    | .inr k, .inr r => .inr (k ++ r)
    | _, other => other) (.inr [])

/-- Request `i` of a move: the new state and flags.  It writes nothing unless all of it can be written. -/
def Move.request (m : Move) (s : State) (u i : Nat) (mix : Bool) (lost : Bool × Bool := (false, false)) : CStop ⊕ (State × Nat) :=
  match m.fetch u (m.reads i) s with
  | .inl x => .inl x
  | .inr (s1, bs) =>
    let q := m.result i bs
    match m.where_ s1 u q.1 with
    | .inl x => .inl x
    | .inr _ =>
      match m.put u mix lost q.1 s1 with
      | .inl x => .inl x
      | .inr s2 => .inr (s2, q.2)

/-- The source of a move that overlaps itself, as it stands before the move writes anything (R141). -/
def Move.snapshot (m : Move) (s : State) (u : Nat) : Snap :=
  let n := if m.kind = 0 then m.rowb else fmtBytes m.sfmt m.rowb
  let l := ((List.range (if m.sstr = 0 then 1 else m.rows)).map fun r =>
    s.tableParts u m.src.space ((m.src.addr + r * m.sstr) % 2 ^ 64) n .read).flatten
  ⟨l.map fun q => (q.1, s.mem.read (.unit u) q.1 q.2.1),
   (l.map fun q => (List.range (granules 64 q.1 q.2.1)).filterMap fun i =>
      let g := q.1 / 64 + i
      if s.mem.poisonFor (.unit u) (g * 64) 64 then some g else none).flatten⟩

/-- A move that overlaps itself keeps its source as its first request is made. -/
def Move.ready (m : Move) (s : State) (u : Nat) : Move :=
  if m.overlap ∧ m.snap = none then { m with snap := some (m.snapshot s u) } else m

/-- The bytes of request `i` that are race-checked, as it issues: those that it reads and those that it writes (R425, R426). -/
def Move.checkedReads (m : Move) (s : State) (u i : Nat) : List (Nat × Nat × Nat) :=
  ((m.reads i).map fun q =>
    let p := if q.1 then m.scale else m.src
    if if q.1 then m.rcK else m.rcS then s.tableParts u p.space ((p.addr + q.2.1) % 2 ^ 64) q.2.2 .read else []).flatten
def Move.checkedWrites (m : Move) (s : State) (u i : Nat) : List (Nat × Nat × Nat) :=
  ((m.result i ((m.reads i).map fun q => List.replicate q.2.2 0)).1.map fun q =>
    let p := if q.1 then m.scale else m.dst
    if if q.1 then m.rcK else m.rcD then s.tableParts u p.space ((p.addr + q.2.1) % 2 ^ 64) q.2.2.length .write else []).flatten

/-- A move has check points. -/
def Move.checked (m : Move) : Bool := m.rcS || m.rcD || m.rcK

/-- The check point of request `i` (R426): the requests of a move come to it in their order. -/
def Move.check (m : Move) (s : State) (u i : Nat) : CStop ⊕ State :=
  let r := m.checkedReads s u i
  let w := m.checkedWrites s u i
  match s.raceAll u .C false (some m.id) r, s.raceAll u .C true (some m.id) w with
  | .inr (s1, a, addr, n), _ | _, .inr (s1, a, addr, n) => .inl (.race s1 addr (raceSizes n a))
  | .inl s1, .inl _ =>
    match s1.raceAll u .C true (some m.id) w with
    | .inl s2 => .inr s2
    | .inr (s2, a, addr, n) => .inl (.race s2 addr (raceSizes n a))

/-- The requests of a move up to `k` have issued, at most `fuel` of them: the state, or the request that is not let through. -/
def Move.issueTo (m : Move) (u k : Nat) : Nat → State → (Nat × CStop) ⊕ (State × Move)
  | 0, s => .inr (s, m)
  | fuel + 1, s =>
    if !m.checked ∨ k < m.issued then .inr (s, m)
    else match m.check s u m.issued with
      | .inl x => .inl (m.issued, x)
      | .inr s1 => { m with issued := m.issued + 1 }.issueTo u k fuel s1

def UnitSt.setMove (U : UnitSt) (m : Move) : UnitSt :=
  { U with work := { U.work with
    moves := U.work.moves.map fun x => if x.id = m.id then m else x
    fl := U.work.fl.map fun f => if f.id = m.id then { f with progress := m.done } else f } }

/-- Request `i` is performed: requests are counted in order, those performed ahead of that are listed (R140). -/
def Move.note (m : Move) (i : Nat) : Move :=
  let l := m.ahead ++ [i]
  let n := ((List.range l.length).takeWhile fun j => l.contains (m.done + j)).length
  { m with done := m.done + n, ahead := l.filter fun j => decide (m.done + n ≤ j) }

/-- Request `i` of a move is made: the new state, and the move with it performed. -/
def Move.perform (m0 : Move) (s : State) (u i : Nat) (lost : Bool × Bool := (false, false)) : CStop ⊕ (State × Move) :=
  let m := m0.ready s u
  match m.request s u i false lost with
  | .inl x => .inl x
  | .inr (s1, fl) => .inr (s1, { m.note i with flags := m.flags ||| fl })

/-- What remains of a move after poison stopped it: later requests that were in flight, from `i` on (R143). -/
def Move.scramble (m : Move) (s : State) (u i : Nat) : Nat → State
  | 0 => s
  | n + 1 =>
    if m.ahead.contains i then m.scramble s u (i + 1) n
    else match m.request s u i true with
    | .inr (s1, _) => m.scramble s1 u (i + 1) n
    | .inl _ => m.scramble s u (i + 1) n

/-- A move stops at poison: the requests before it are written, that one is not, of the later ones each byte is old or new, and
the unit takes a machine check (R143). -/
def Move.poisoned (m0 : Move) (s : State) (u k : Nat) : State :=
  let m := m0.ready s u
  let s1 := m.scramble s u (m.done + 1) (m.total - (m.done + 1))
  { s.poisonTrap u k with mem := s1.mem }

/-- The first request of a move that is not performed cannot be: it waits, at the die where its page is migrating (R117), the word
traps with its progress, or the unit takes a machine check.  `keep` puts the progress made so far into a state. -/
def State.copyStop (s : State) (u id : Nat) (m : Move) (keep : State → State) (x : CStop) : State :=
  match x with
  | .wait s1 => keep s1
  | .mig a => if s.replayRoom u then (keep s).joinReplay u id a else keep s
  | .xlat a i => if (s.unit u).inHandler then keep s else ((keep s).dropFault u a).takeTrap u ⟨.xlat, 5, a, i⟩
  | .race s1 i0 i1 => if (s.unit u).inHandler then keep s else (keep s1).takeTrap u ⟨.race, 5, i0, i1⟩
  | .poison k => m.poisoned (keep s) u k

/-- The progress of a move stands in the unit's work. -/
def State.putMove (s : State) (u : Nat) (m : Move) : State := s.setUnit u ((s.unit u).setMove m)

/-- Request `k` may be made now (R140): the first that is not performed in its turn at the die (R117); a later one while nothing of the
move waits at the die. -/
def State.mayRequest (s : State) (u id : Nat) (m : Move) (k : Nat) : Bool :=
  decide (k < m.total) && (if k = m.done then s.replayHead u id
    else decide (m.done < k) && !m.ahead.contains k && !s.inReplay u id)

/-- Request `k` of a move issues with those before it, where they are checked, and is performed.  What stands against a request stops
the move there once those before it are performed (R143). -/
def State.copyRequest (s : State) (u id k : Nat) : State :=
  match (s.unit u).work.moves.find? fun m => m.id = id with
  | none => s
  | some m =>
    if !s.mayRequest u id m k then s
    else match m.issueTo u k (k + 1) s with
    | .inl (j, x) => if j = m.done then s.copyStop u id m (·.putMove u m) x else s
    | .inr (s0, m0) =>
      match m0.perform s0 u k with
      | .inr (s1, m1) => (s1.putMove u m1).quitReplay u id
      | .inl x => if k = m.done then s0.copyStop u id m0 (·.putMove u m0) x else s

/-- The remaining requests of a move, in order. -/
def Move.finish (m : Move) (s : State) (u : Nat) : Nat → (CStop × Move × State) ⊕ (State × Move)
  | 0 => .inr (s, m)
  | n + 1 =>
    if m.total ≤ m.done then .inr (s, m)
    else match m.issueTo u m.done (m.done + 1) s with
    | .inl (_, x) => .inl (x, m, s)
    | .inr (s0, m0) =>
      match m0.perform s0 u m0.done with
      | .inr (s1, m1) => m1.finish s1 u n
      | .inl x => .inl (x, m0, s0)

/-- The scope at which a copy's destination must see it (R140). -/
def copyScope (space : Nat) : Nat := match space with | 1 => 0 | 2 => 1 | 3 => 2 | 4 => 0 | 6 => 4 | _ => 3

/-- A move is performed once every request is and its writes are visible at the destination's scope; its word retires
in order (R142). -/
def State.copyDone (s : State) (u id : Nat) : State :=
  match (s.unit u).work.moves.find? fun m => m.id = id with
  | none => s
  | some m =>
    if !s.replayHead u id then s
    else match m.finish s u (m.total - m.done) with
    | .inl (x, m1, s1) => s1.copyStop u id m1 (·.putMove u m1) x
    | .inr (s1, m1) =>
      let s2 := s1.quitReplay u id
      let V := (s2.unit u).setMove m1
      if !s2.mem.performedBy u (copyScope m.dst.space) then s2.setUnit u V
      else
        let W := { V with work := { V.work with
          moves := V.work.moves.filter fun x => x.id ≠ id, copies := V.work.copies - 1 } }
        s2.setUnit u ((W.finish id (flagEff m1.flags)).retire .C)

def execCopyMovePerformed (u id : Nat) (s : State) : Out := clockEvent u s (s.copyDone u id)

/-! ### Issue of the move words (R170, R171) -/

/-- A capability that a C word uses: at a replay the recorded one, the one that a trap has kept for it (R436), else the register as C
reads it. -/
def capAt (U : UnitSt) (r : PassRec) (i k : Nat) : Cap :=
  if U.tape.run = 2 then r.caps.getD i Cap.null
  else match r.live.find? fun q => q.1 = k with | some q => q.2 | none => U.kS k

/-- A word of C waits for a capability register: it is pending, and no trap has kept its value for the word. -/
def capPending (U : UnitSt) (r : PassRec) (k : Nat) : Bool := U.kPend k && !(r.live.any fun q => decide (q.1 = k))

/-- A word of C that uses the capabilities of k registers, in the order of R338. -/
def State.cWord (s : State) (tk : Tok) (g : XP) (ks : List Nat) (body : State → UnitSt → PassRec → Flight → Res) : Out :=
  State.word s tk g [] (fun s _ => ⟨none, ks.map fun k => ((s.unit s.who.1).kS k, (s.unit s.who.1).kMark k)⟩) fun s U r f =>
    if U.tape.run ≠ 2 ∧ ks.any fun k => capPending U r k then .stall s else body s U r f

/-- A range that a copy word touches: capability register, capability, first offset, bytes, permission. -/
structure CRange where
  k : Nat
  c : Cap
  o : Nat
  n : Nat
  perm : Nat
  deriving DecidableEq, Repr

/-- The checks 2 to 4 of R171 over the ranges: Cap.Check each, then the banks (reads first trap, others wake), then the
first page of each. -/
def CRange.capBad (q : CRange) (r : PassRec) : Option (Cause × Nat × Nat) :=
  if q.c.tag ∧ q.c.space = 7 then some (.kperm, q.o, capInfo q.k q.n r.addr)
  else match q.c.check q.o q.n q.perm with
    | .error e => some (e, q.o, capInfo q.k q.n r.addr)
    | .ok _ => none

/-- What the checks of the ranges give. -/
inductive CChk where
  | ok
  | wait (s : State)
  | trap (s : State) (c : Cause) (i0 i1 : Nat)

/-- The supply state of the unit scratchpad banks of a range (R135, R136). -/
def State.rangeBanks (s : State) (u : Nat) (r : PassRec) : List CRange → CChk
  | [] => .ok
  | q :: l =>
    let a := q.c.base + q.o
    match if q.c.space = 1 then s.spadChk u a q.n (q.perm = permR) else .ok with
    | .trap c j => .trap s c (firstIn j a) (15 + r.addr % 65536 * 2 ^ 32)
    | .wait s1 => .wait s1
    | .ok => s.rangeBanks u r l

/-- Translation of the first page of each range; a page that is migrating is waited for by the requests (R117). -/
def State.rangePages (s : State) (u : Nat) : List CRange → CChk
  | [] => .ok
  | q :: l =>
    let a := (q.c.base + q.o) % 2 ^ 64
    let k : AccKind := if q.perm = permR then .read else .write
    match s.translate u q.c.space a k with
    | .miss => .wait (s.startWalk u a)
    | .xlat lv rs => .trap (s.dropFault u a) .xlat a (lv + rs * 16 + (if k = .read then 0 else 256))
    | _ => s.rangePages u l

/-- Checks 2 to 4 of R171; `more` is a bound of the instruction's own that goes with Cap.Check. -/
def State.rangeChk (s : State) (u : Nat) (r : PassRec) (qs : List CRange) (more : Option (Cause × Nat × Nat) := none) : CChk :=
  match (qs.findSome? fun q => q.capBad r).or more with
  | some (c, i0, i1) => .trap s c i0 i1
  | none =>
    match s.rangeBanks u r qs with
    | .ok => s.rangePages u qs
    | other => other

/-- The block of four x values (R170). -/
structure CBlock where
  soff : Nat
  doff : Nat
  sstr : Nat
  dstr : Nat
  row : Nat
  rows : Nat
  scoff : Nat
  deriving DecidableEq, Repr

def PassRec.block (r : PassRec) : CBlock :=
  let v := fun i => (r.vals.getD i 0).toNat
  ⟨v 0, v 1, fld (v 2) 0 32, fld (v 2) 32 32, fld (v 3) 0 16 + 1, fld (v 3) 16 16 + 1, fld (v 3) 32 32⟩

/-- Two ranges in one space intersect. -/
def CRange.meets (a b : CRange) : Bool :=
  decide (a.c.space = b.c.space) && decide (a.c.base + a.o < b.c.base + b.o + b.n)
    && decide (b.c.base + b.o < a.c.base + a.o + a.n)

def CRange.place (q : CRange) : Place := ⟨q.c.space, (q.c.base + q.o) % 2 ^ 64, none⟩

/-- Moves in flight, the fills of windows that are not performed among them (R142). -/
def UnitSt.inFlight (U : UnitSt) : Nat :=
  U.work.moves.length + (U.wins.map fun q => if q.2.act then q.2.next - q.2.filled else 0).sum

/-- The issue of a move word: source, destination and scale ranges, then the move joins the copy engine's 32 (R142). -/
def State.moveIssue (s : State) (U : UnitSt) (r : PassRec) (f : Flight) (src dst scale : Option CRange) (m : Move)
    (more : Option (Cause × Nat × Nat) := none) : Res :=
  let u := s.who.1
  match s.rangeChk u r (src.toList ++ dst.toList ++ scale.toList) more with
  | .wait s1 => .stall s1
  | .trap s1 c i0 i1 => .trapAt s1 c i0 i1
  | .ok =>
    if 1023 ≤ U.work.copies ∨ 32 ≤ U.inFlight then .stall s
    else
      let none_ : Place := ⟨8, 0, none⟩
      let m1 := { m with
        id := f.id
        src := (src.map CRange.place).getD none_, dst := (dst.map CRange.place).getD none_
        scale := (scale.map CRange.place).getD none_
        rcS := (src.map fun q => checkedCap q.c).getD false, rcD := (dst.map fun q => checkedCap q.c).getD false
        rcK := (scale.map fun q => checkedCap q.c).getD false
        overlap := match src, dst with | some a, some b => a.meets b | _, _ => false }
      .go (s.setUnit u { U with work := { U.work with moves := U.work.moves ++ [m1], copies := U.work.copies + 1 } })
        { f with wait := .op }

def Move.blank : Move :=
  { id := 0, kind := 0, src := ⟨8, 0, none⟩, dst := ⟨8, 0, none⟩, scale := ⟨8, 0, none⟩, rows := 1, rowb := 0, sstr := 0
    dstr := 0, scstr := 0, rnd := 0, sfmt := 0, dfmt := 0, pat := 0, done := 0, ahead := [], issued := 0, snap := none, rcS := false, rcD := false, rcK := false
    overlap := false, flags := 0 }

/-- A DSTR of 0 with more than one row (R139). -/
def CBlock.badStride (b : CBlock) : Bool := decide (b.dstr = 0) && decide (1 < b.rows)

def execCpy (tk : Tok) (d a b : Nat) (c : XC) (s : State) : Out :=
  let _ := b
  s.cWord tk c.grd [d, a] fun s U r f =>
    let q := r.block
    if q.badStride then r.trapHere .und
    else s.moveIssue U r f (some ⟨a, capAt U r 1 a, q.soff, span q.rows q.sstr q.row, permR⟩)
      (some ⟨d, capAt U r 0 d, q.doff, span q.rows q.dstr q.row, permW⟩) none
      { Move.blank with rows := q.rows, rowb := q.row, sstr := q.sstr, dstr := q.dstr }

/-- CFILL (R173): SOFF and SSTR are ignored; the pattern register is captured with the block. -/
def execCfill (tk : Tok) (d a b : Nat) (c : XC) (s : State) : Out :=
  let _ := (a, b)
  s.cWord tk c.grd [d] fun s U r f =>
    let q := r.block
    if q.badStride then r.trapHere .und
    else s.moveIssue U r f none (some ⟨d, capAt U r 0 d, q.doff, span q.rows q.dstr q.row, permW⟩) none
      { Move.blank with kind := 2, rows := q.rows, rowb := q.row, dstr := q.dstr, pat := (r.vals.getD 4 0).toNat }

/-- CCVT (R174). -/
def execCcvt (tk : Tok) (d a b : Nat) (c : XC) (s : State) : Out :=
  let _ := b
  let l6 := c.sfmt = 2 ∨ c.dfmt = 2
  s.cWord tk c.grd (if l6 then [d, a, c.ks] else [d, a]) fun s U r f =>
    let q := r.block
    if q.badStride then r.trapHere .und
    else s.moveIssue U r f (some ⟨a, capAt U r 1 a, q.soff, span q.rows q.sstr (fmtBytes c.sfmt q.row), permR⟩)
      (some ⟨d, capAt U r 0 d, q.doff, span q.rows q.dstr (fmtBytes c.dfmt q.row), permW⟩)
      (if l6 then some ⟨c.ks, capAt U r 2 c.ks, q.scoff, span q.rows c.scstr ((q.row + 31) / 32),
        if c.sfmt = 2 then permR else permW⟩ else none)
      { Move.blank with
        kind := 1, rows := q.rows, rowb := q.row, sstr := q.sstr, dstr := q.dstr, scstr := c.scstr, rnd := c.rnd
        sfmt := c.sfmt, dfmt := c.dfmt }

/-- BLOAD (R175).  DESIGN CHOICE, through a capability whose BASE is not 0 the words and row slices start at BASE + DOFF: the rule
speaks of DOFF alone (log entry 156). -/
def execBload (tk : Tok) (d a b : Nat) (c : XC) (s : State) : Out :=
  let _ := b
  let l6 := c.sfmt = 2
  s.cWord tk c.grd (if l6 then [d, a, c.ks] else [d, a]) fun s U r f =>
    let q := r.block
    let kd := capAt U r 0 d
    let nw := bloadWords c.sfmt q.row
    if kd.space ≠ 4 ∨ 64 < q.rows ∨ q.doff % 512 ≠ 0 then r.trapHere .und
    else s.moveIssue U r f (some ⟨a, capAt U r 1 a, q.soff, span q.rows q.sstr (fmtBytes c.sfmt q.row), permR⟩)
      (some ⟨d, kd, q.doff, (nw - 1) * 512 + q.rows * 8, permW⟩)
      (if l6 then some ⟨c.ks, capAt U r 2 c.ks, q.scoff, span q.rows c.scstr ((q.row + 31) / 32), permR⟩ else none)
      { Move.blank with kind := 3, rows := q.rows, rowb := q.row, sstr := q.sstr, scstr := c.scstr, sfmt := c.sfmt }
      (if 4096 < (kd.base + q.doff) / 512 % 4096 + nw then some (.kbound, q.doff, capInfo d (nw * 512) r.addr) else none)

/-! ### Windows (R144 to R146, R176, R177) -/

def UnitSt.win (U : UnitSt) (w : Nat) : Win := SMap.get Win.reset U.wins w
def UnitSt.setWin (U : UnitSt) (w : Nat) (W : Win) : UnitSt := { U with wins := SMap.set Win.reset U.wins w W }

/-- A window word that starts fills waits until `target` rows are filled. -/
def State.winIssue (s : State) (U : UnitSt) (w : Nat) (W : Win) (f : Flight) (fills : Bool) : Res :=
  let u := s.who.1
  if fills then
    if 1023 ≤ U.work.copies ∨ 32 ≤ U.inFlight then .stall s
    else
      let V := U.setWin w W
      .go (s.setUnit u { V with work := { V.work with copies := V.work.copies + 1 } }) { f with wait := .op, progress := W.next }
  else .go (s.setUnit u (U.setWin w W)) f

/-- WDEF (R144, R176): the limits first, then the checks of both ranges; SPACE 7 is KPERM's (R171). -/
def execWdef (tk : Tok) (d a b : Nat) (c : XC) (s : State) : Out :=
  let _ := b
  s.cWord tk c.grd [a, c.ks] fun s U r f =>
    let u := s.who.1
    let src := capAt U r 0 a
    let ring := capAt U r 1 c.ks
    let q := r.block
    let nrows := q.dstr
    let depth := q.rows
    if (U.win d).act then r.trapHere .und
    else if (src.space ≠ 0 ∧ src.space ≠ 5 ∧ src.space ≠ 7) ∨ q.row % 64 ≠ 0 ∨ q.sstr % 64 ≠ 0 ∨ q.sstr < q.row ∨ nrows = 0
        ∨ (ring.space ≠ 2 ∧ ring.space ≠ 3 ∧ ring.space ≠ 7) ∨ q.doff % 64 ≠ 0 ∨ depth < 2 ∨ 4096 < depth
        ∨ ring.len < depth * q.row then r.trapHere .und
    else match s.rangeChk u r [⟨a, src, q.soff, span nrows q.sstr q.row, permR⟩,
        ⟨c.ks, ring, q.doff, depth * q.row, permW⟩] with
    | .wait s1 => .stall s1
    | .trap s1 e i0 i1 => .trapAt s1 e i0 i1
    | .ok =>
      s.winIssue U d ⟨true, src, q.soff, q.row, q.sstr, nrows, ring, q.doff, depth, 0, min depth nrows, 0, []⟩ f true

def execWadv (tk : Tok) (d a imm : Nat) (g : XP) (s : State) : Out :=
  let _ := a
  s.cWord tk g [] fun s U r f =>
    let W := U.win d
    let n := (r.vals.headD 0).toNat + imm
    if 4096 < n ∨ !W.act then r.trapHere .und
    else
      let head := min (W.head + n) W.nrows
      let new := min (head + W.depth) W.nrows
      s.winIssue U d { W with head := head, next := new } f (decide (W.next < new))

/-- The window of a WDEF or WADV header. -/
def winOf (h : Nat) : Option Nat :=
  if fld h 29 3 = 5 ∧ (fld h 16 7 = 4 ∨ fld h 16 7 = 5) then some (fld h 11 3) else none

/-- WREL waits at issue until every fill of the window is performed, and the words that started them have retired. -/
def execWrel (tk : Tok) (d : Nat) (g : XP) (s : State) : Out :=
  s.cWord tk g [] fun s U _ f =>
    let W := U.win d
    if !W.act then .go s f
    else if W.filled < W.next ∨ (U.work.fl.any fun q => decide (winOf q.hdr = some d)) then .stall s
    else .go (s.setUnit s.who.1 (U.setWin d { W with act := false })) f

/-- The words of a window whose fills are performed retire, in order; one in a trap's replay queue retires after RETI. -/
def UnitSt.winSettle (U : UnitSt) (w : Nat) : UnitSt :=
  let W := U.win w
  let ready := fun (f : Flight) => decide (winOf f.hdr = some w) && decide (f.wait = .op) && decide (f.progress ≤ W.filled)
  let fin := fun (l : List Flight) => l.map fun f => if ready f then { f with wait := .done } else f
  let n := (U.work.fl.filter ready).length
  let m := (U.trap.saved.fl.filter ready).length
  ({ U with
     work := { U.work with fl := fin U.work.fl, copies := U.work.copies - n }
     trap := { U.trap with saved := { U.trap.saved with fl := fin U.trap.saved.fl, copies := U.trap.saved.copies - m } } }).retire .C

/-- The fill of row `i` of a window as a move of one row, never race-checked (R425); `parts` are its requests that are performed
(R145, R146). -/
def Win.fill (W : Win) (i : Nat) : Move :=
  let m : Move := { Move.blank with
    src := ⟨W.src.space, (W.src.base + W.soff + i * W.sstr) % 2 ^ 64, none⟩
    dst := ⟨W.ring.space, W.ring.base + W.roff + i % W.depth * W.rowb, none⟩, rowb := W.rowb }
  (W.parts.filter fun k => decide (k / 1024 = i)).foldl (fun m k => m.note (k % 1024)) m

/-- The oldest word of a window whose fills are not all performed, in flight or in a trap's replay queue. -/
def UnitSt.winWord (U : UnitSt) (w : Nat) : Nat :=
  match (U.trap.saved.fl ++ U.work.fl).find? fun f => decide (winOf f.hdr = some w) && decide (f.wait = .op) with
  | some f => f.id
  | none => 0

/-- Fills of a window of which some requests are performed, and not all. -/
def Win.begun (W : Win) : List Nat :=
  if !W.act then [] else ((W.parts.map (· / 1024)).eraseDups).filter fun i => decide ((W.fill i).done < (W.fill i).total)

/-- The copy engine may work on the fill of row `i`: its slot's row before it is filled (R145), and with it the engine holds no more
than 32 moves in flight (R142). -/
def UnitSt.mayFill (U : UnitSt) (W : Win) (i : Nat) : Bool :=
  decide (W.filled ≤ i) && decide (i < W.next) && decide (i < W.filled + W.depth)
    && (W.begun.contains i || decide (U.work.moves.length + (U.wins.map fun q => q.2.begun.length).sum < 32))

/-- A request of a window's fill: `k` is the row × 1024 + the request (R146). -/
def State.windowRequest (s : State) (u w k : Nat) : State :=
  let U := s.unit u
  let W := U.win w
  let m := W.fill (k / 1024)
  let id := U.winWord w
  if !W.act ∨ !U.mayFill W (k / 1024) ∨ !s.mayRequest u id m (k % 1024) then s
  else match m.perform s u (k % 1024) with
    | .inr (s1, _) =>
      (s1.setUnit u ((s1.unit u).setWin w { W with parts := W.parts ++ [k] })).quitReplay u id
    | .inl x => if k % 1024 = m.done then s.copyStop u id m (fun s => s) x else s

/-- The oldest fill of a window that is not performed copies what is left of its row into its slot (R145); the words that wait for
it retire once the row is visible at the ring's scope. -/
def State.windowFill (s : State) (u w : Nat) : State :=
  let U := s.unit u
  let W := U.win w
  let id := U.winWord w
  let settle := fun (s : State) =>
    if s.mem.performedBy u (copyScope W.ring.space) then s.setUnit u ((s.unit u).winSettle w) else s
  if !W.act then s
  else if W.next ≤ W.filled then settle s
  else if !s.replayHead u id ∨ !U.mayFill W W.filled then s
  else
    let m := W.fill W.filled
    match m.finish s u m.total with
    | .inr (s1, _) =>
      settle ((s1.setUnit u ((s1.unit u).setWin w { W with
        filled := W.filled + 1, parts := W.parts.filter fun k => decide (k / 1024 ≠ W.filled) })).quitReplay u id)
    | .inl (x, m1, s1) =>
      let done := (List.range m1.total).filter fun j => decide (j < m1.done) || m1.ahead.contains j
      let parts := (W.parts.filter fun k => decide (k / 1024 ≠ W.filled)) ++ done.map fun j => W.filled * 1024 + j
      s1.copyStop u id m1 (fun s => s.setUnit u ((s.unit u).setWin w { W with parts := parts })) x

/-- A part of an operation in flight is performed ahead of the rest: a request of a move or of a window's fill, or a line of B that
the array reads. -/
def State.partRequest (s : State) (u id k : Nat) : State :=
  let U := s.unit u
  if 768 ≤ u ∨ s.halted u ∨ s.stands u then s
  else if U.work.moves.any fun m => m.id = id then s.copyRequest u id k
  else if U.work.mops.any fun o => o.id = id then s.readBLine u id k
  else match (U.trap.saved.fl ++ U.work.fl).find? fun f => f.id = id with
    | some f => (match winOf f.hdr with | some w => s.windowRequest u w k | none => s)
    | none => s

def execWindowFillPerformed (u w : Nat) (s : State) : Out := clockEvent u s (s.windowFill u w)

end Sys2Proof.Machine
end

