-- ==== Sys2Proof/Machine/Translation.lean ====
section
/-! DEFINITION. Walks and translation commands (R113 to R120), refresh (R121), the CXL links (R122). -/

namespace Sys2Proof.Machine

/-! ### Walks (R113) -/

/-- Entries joined to the page-walk cache of 256 entries; which ones it gives up is open (R113). -/
def pwcInsert (tick : Nat) : List (Nat × Nat × Nat × Nat) → List (Nat × Nat × Nat × Nat) → List (Nat × Nat × Nat × Nat)
  | c, [] => c
  | c, e :: r =>
    if c.contains e then pwcInsert tick c r
    else
      let c1 := if c.length < 256 then c else c.eraseIdx (Config.freeNat tick (300 + e.2.1) % 256)
      pwcInsert tick (c1 ++ [e]) r

/-- Misses that wait take the walks that are free, oldest first. -/
def Die.refill (D : Die) : Die :=
  let n := 32 - D.walks.length
  { D with walks := D.walks ++ D.missq.take n, missq := D.missq.drop n }

/-- A walk ends: the TLBs of every cluster of the die that missed on the page take the entry, or the fault is kept for the
accesses that missed. -/
def State.walkDone (s : State) (die i : Nat) : State :=
  let D := s.die die
  match D.walks[i]? with
  | none => s
  | some w =>
    let va := w.vpage * 65536
    let q := walkCached s.mem D.pwc w.asid va 5 0 (pteTier w.root) (pteFrame w.root) []
    let bits := match q.1 with | .leaf l _ _ => pageBits l | .bad _ _ => 16
    let same := fun (x : WalkReq) => decide (x.asid = w.asid) && decide (x.vpage * 65536 / 2 ^ bits = va / 2 ^ bits)
    let who := (D.walks ++ D.missq).filter same
    let D1 := ({ D with
      walks := D.walks.filter fun x => !same x, missq := D.missq.filter fun x => !same x
      pwc := pwcInsert s.tick D.pwc q.2 } : Die).refill
    let fault := fun (l r : Nat) => s.setDie die { D1 with wfaults := D1.wfaults ++ [(w.asid, w.vpage, l, r)] }
    match q.1 with
    | .bad l r => fault l r
    | .leaf l p _ =>
      if pteMig p then fault l 8
      else
        let ent : TlbEnt := ⟨w.asid, va / 2 ^ pageBits l, l, p⟩
        (who.map (·.clusters)).flatten.foldl (fun s c =>
          let C := s.cluster c
          s.setCluster c { C with tlb := tlbInsert s.tick C.tlb ent }) (s.setDie die D1)

def execTlbWalkDone (die i : Nat) (s : State) : Out := .next (s.walkDone die i)

/-! ### The command ring (R114) -/

/-- The translation command ring. -/
def State.transRing (s : State) : Option Reg := s.hub.regs.find? fun r => r.kind = 2

/-- The bytes of the next command, if software has written one. -/
def State.nextTCmd (s : State) : Option (List Byte) :=
  match s.transRing with
  | none => none
  | some r =>
    let base := keyOf r.region r.addr
    if !s.memReady base ∨ s.mem.num .device base 4 = r.cons then none
    else some (s.mem.read .device (base + 64 + r.cons % r.nent * 32) 32)

/-- A command is taken: CONS moves on, and it joins the hub's list. -/
def State.takeTCmd (s : State) (c : TCmd) : State :=
  match s.transRing with
  | none => s
  | some r =>
    let n := (r.cons + 1) % 2 ^ 32
    let s1 := s.writeMem 0 4 (keyOf r.region r.addr + 4) (toBytes 4 n) false
    { s1 with hub := { s1.hub with
      tcmds := s1.hub.tcmds ++ [c], regs := s1.hub.regs.map fun x => if x = r then { r with cons := n } else x } }

/-- The command of 32 bytes. -/
def TCmd.ofBytes (b : List Byte) : TCmd :=
  let f := fun o n => Machine.ofBytes ((b.drop o).take n)
  ⟨f 0 1, f 1 1, f 2 2, f 8 8, f 16 8, f 24 8, f 4 4, 0, 0, 0, 0, 0⟩

/-- OPC is neither TINV nor MIGR, or the `res` word is not zero. -/
def badTCmd (b : List Byte) : Bool :=
  let o := (b.getD 0 0).toNat
  (o != 1 && o != 2) || decide (ofBytes ((b.drop 4).take 4) ≠ 0)

/-- The hub's list with command `c` become `c'`; of commands that are equal the oldest changes. -/
def replaceCmd (c c' : TCmd) : List TCmd → List TCmd
  | [] => []
  | x :: r => if x = c then c' :: r else x :: replaceCmd c c' r

/-- What stands at a command's CADDR now, for the write of its record. -/
def State.caddrTr (s : State) (c : TCmd) : Tr :=
  match s.rootOf c.asid with
  | none => .miss
  | some root =>
    match walkVA s.mem root c.caddr with
    | .leaf l p _ => leafTr l p c.caddr 0 .write
    | .bad l r => .xlat l r

/-- Completion records of ended commands, written in ring order.  A record whose page is migrating waits, and the later ones with
it (R117).  DESIGN CHOICE, a record whose CADDR is not mapped for writing is lost, one whose CADDR is not a multiple of 16 is written
where it stands, and bits [63:57] of a VA or CADDR are ignored by the walk: the spec gives no outcome (log entry 124). -/
def State.flushTCmds (s : State) : Nat → State
  | 0 => s
  | n + 1 =>
    match s.hub.tcmds with
    | c :: r =>
      if c.st = 3 then
        let s1 : State := { s with hub := { s.hub with tcmds := r } }
        match s.caddrTr c with
        | .ok key => (s1.writeMem 0 4 key (u16 c.status ++ u16 0 ++ u32 0 ++ u64 c.time) false).flushTCmds n
        | .mig => s
        | _ => s1.flushTCmds n
      else s
    | [] => s

/-- A command ends with a status. -/
def State.endTCmd (s : State) (c : TCmd) (status : Nat) : State :=
  let s1 : State := { s with hub := { s.hub with
    tcmds := replaceCmd c { c with st := 3, status := status, time := s.time.toNat } s.hub.tcmds } }
  s1.flushTCmds s1.hub.tcmds.length

/-- The pages of a command: bytes from its VA; SIZE 3 names the whole address space.  DESIGN CHOICE, a VA that is not aligned to
SIZE is taken as it stands, and a SIZE above 3 reaches from VA to the end of the address space: the spec gives no status for
either (log entry 122). -/
def TCmd.covers (c : TCmd) (asid va n : Nat) : Bool :=
  let size := match c.size with | 0 => 2 ^ 16 | 1 => 2 ^ 21 | 2 => 2 ^ 30 | _ => 2 ^ 64
  let base := if c.size = 3 then 0 else c.va
  decide (asid = c.asid) && decide (va < base + size) && decide (base < va + n)

/-- The named translations leave every TLB and walker cache (R115). -/
def State.invalidate (s : State) (c : TCmd) : State :=
  let hitT := fun (e : TlbEnt) => c.covers e.asid (e.vpage * 2 ^ pageBits e.level) (2 ^ pageBits e.level)
  { s with
    clusters := s.clusters.map fun q => (q.1, { q.2 with tlb := q.2.tlb.filter fun e => !hitT e })
    dies := s.dies.map fun q => (q.1, { q.2 with
      pwc := q.2.pwc.filter fun e => decide (e.1 ≠ c.asid)
      wfaults := q.2.wfaults.filter fun w => !c.covers w.1 (w.2.1 * 65536) 65536 }) }

/-- A place that a translation of the command's pages gave. -/
def TCmd.usedBy (c : TCmd) (asid : Nat) (p : Place) (n : Nat) : Bool :=
  p.key.isSome && (decide (p.space = 0) || decide (p.space = 5) || decide (p.space = 7)) && c.covers asid p.addr n

/-- No access that used a removed translation is still to be performed at device scope, and no near-memory command. -/
def State.drained (s : State) (c : TCmd) : Bool :=
  (s.units.all fun q =>
    let a := q.2.id.asid
    let works := [q.2.work, q.2.trap.saved]
    works.all fun w =>
      (w.sops.all fun o => !c.usedBy a o.place o.n)
        && (w.wops.all fun o => o.stores.all fun p => !c.usedBy a p.1 (max 1 p.2.length)))
    && (s.dies.all fun q => q.2.nm.all fun n =>
        let a := (s.unit n.u).id.asid
        decide (n.st = 2) || !c.covers a n.dva (64 * n.ngran) && !c.covers a n.sva (64 * n.ngran))
    && (s.mem.staged.all fun w => decide (16 ≤ keyRegion w.key) || decide (3 ≤ w.lvl))

/-- The hub takes a TINV. -/
def execTinv (s : State) : Out :=
  .next (match s.nextTCmd with
    | some b => if !badTCmd b ∧ (b.getD 0 0).toNat = 1 then
        let c := TCmd.ofBytes b
        (s.takeTCmd c).invalidate c else s
    | none => s)

/-- The oldest TINV completes. -/
def execTinvComplete (s : State) : Out :=
  .next (match s.hub.tcmds.find? fun c => c.opc = 1 ∧ c.st = 0 with
    | some c => if s.drained c then s.endTCmd c 0 else s
    | none => s.flushTCmds s.hub.tcmds.length)

/-- An entry that is no command ends with BADCMD. -/
def execTranslationBadcmd (s : State) : Out :=
  .next (match s.nextTCmd with
    | some b => if badTCmd b then
        let c := TCmd.ofBytes b
        (s.takeTCmd c).endTCmd c 5 else s
    | none => s)

/-! ### Migration (R116 to R119) -/

/-- The page overlaps a footprint entry of a guaranteed task that runs, or is being dispatched, in its address space (R116); an entry
with LEN 0 is unused (R359). -/
def State.held (s : State) (c : TCmd) : Bool :=
  s.hub.tasks.any fun q =>
    match q.2 with
    | some T =>
      (match s.graph T.graph with
       | some G => decide (T.admitted ≠ 0) && (decide (T.st = .running) || decide (T.st = .dispatching))
           && T.foots.any fun f => decide (f.len ≠ 0) && c.covers G.asid f.base f.len
       | none => false)
    | none => false

/-- Step 3 of R116: MIG is set in the leaf and the page invalidated. -/
def State.startMig (s : State) (c : TCmd) (pte key : Nat) : State :=
  let c1 := { c with st := 2, ptekey := key, oldpte := pte }
  let s1 := { s with hub := { s.hub with tcmds := replaceCmd c c1 s.hub.tcmds } }
  ((s1.writeMem 0 4 key (toBytes 8 (pte ||| 256)) false).invalidate c1)

/-- The leaf of a command's page. -/
def State.migLeaf (s : State) (c : TCmd) : Option (Nat × Nat × Nat) :=
  match s.rootOf c.asid with
  | none => none
  | some root => match walkVA s.mem root c.va with
    | .leaf l p k => some (l, p, k)
    | .bad _ _ => none

/-- Another MIGR moves the page whose leaf stands at `k`: one that names it too waits until that ends. -/
def State.migBusy (s : State) (k : Nat) : Bool := s.hub.tcmds.any fun x => decide (x.opc = 2) && decide (x.st = 2) && decide (x.ptekey = k)

/-- Step 1 to 3 of a MIGR that has been taken, or that goes on after it was set aside. -/
def State.beginMig (s : State) (c : TCmd) : State :=
  match s.migLeaf c with
  | none => s.endTCmd c (if c.size = 0 ∨ c.size = 1 then 3 else 2)
  | some (l, p, k) =>
    if ptePin p then s.endTCmd c 1
    else if (c.size ≠ 0 ∨ l ≠ 4) ∧ (c.size ≠ 1 ∨ l ≠ 3) then s.endTCmd c 2
    else if s.held c ∨ s.migBusy k then
      { s with hub := { s.hub with tcmds := replaceCmd c { c with st := 1 } s.hub.tcmds } }
    else s.startMig c p k

def execMigr (s : State) : Out :=
  .next (match s.nextTCmd with
    | some b => if !badTCmd b ∧ (b.getD 0 0).toNat = 2 then
        let c := TCmd.ofBytes b
        (s.takeTCmd c).beginMig c else s
    | none => s)

/-- A MIGR that was set aside may go on. -/
def State.mayMig (s : State) (c : TCmd) : Bool :=
  !s.held c && (match s.migLeaf c with | some (_, _, k) => !s.migBusy k | none => true)

/-- The first MIGR that was set aside and whose hold has ended goes on (R116). -/
def execMigrResume (s : State) : Out :=
  .next (match s.hub.tcmds.find? fun c => c.opc = 2 ∧ c.st = 1 ∧ s.mayMig c with
    | some c => s.beginMig c
    | none => s)

/-- Bytes of the page of a MIGR. -/
def TCmd.bytes (c : TCmd) : Nat := if c.size = 0 then 2 ^ 16 else 2 ^ 21

/-- A leaf entry with MIG = 0. -/
def pteStill (p : Nat) : Nat := if pteMig p then p - 256 else p

/-- A staged write lies in a range of places. -/
def Mem.stagedIn (m : Mem) (k n : Nat) : Bool := m.staged.any fun w => decide (w.key < k + n) && decide (k < w.key + w.bytes.length)

/-- Steps 4 and 5 of R116, or R118 when the copy meets an uncorrectable error.  DESIGN CHOICE, a NEWPTE that is no valid leaf, or
that has MIG = 1, is installed as it stands, with the page copied to the frame that its bits name: the spec says only that MIG is
0 there (log entry 123). -/
def State.migDone (s : State) (ok : Bool) : State :=
  match s.hub.tcmds.find? fun c => c.opc = 2 ∧ c.st = 2 with
  | none => s
  | some c =>
    let src := keyOf (pteTier c.oldpte) (pteFrame c.oldpte)
    let dst := keyOf (pteTier c.newpte) (pteFrame c.newpte)
    let n := c.bytes
    if !s.drained c ∨ s.mem.stagedIn src n ∨ s.mem.stagedIn dst n then s
    else
      let free := fun (s : State) => { s with dies := s.dies.map fun q => (q.1, { q.2 with
        wfaults := q.2.wfaults.filter fun w => !c.covers w.1 (w.2.1 * 65536) 65536 }) }
      if !ok ∨ s.mem.poisonFor .device src n then
        let m := if ok then s.mem else s.mem.setPoison (src + Config.freeNat s.tick 310 % (n / 64) * 64)
        let s1 : State := { s with mem := m }
        free ((s1.writeMem 0 4 c.ptekey (toBytes 8 (pteStill c.oldpte)) false).endTCmd c 4)
      else
        let s1 := ({ s with mem := s.mem.copyTagged src dst n } : State).moveHistory src dst n
        free ((s1.writeMem 0 4 c.ptekey (toBytes 8 c.newpte) false).endTCmd c 0)

def execMigrCopyDone (ok : Bool) (s : State) : Out := .next (s.migDone ok)

/-! ### The hot-page tracker (R120), refresh (R121), CXL (R122) -/

/-- The valid leaves under a table, with their levels. -/
def tableLeaves (m : Mem) : Nat → Nat → Nat → Nat → List (Nat × Nat)
  | 0, _, _, _ => []
  | fuel + 1, level, tier, table =>
    ((List.range (if level = 4 then 32 else 512)).map fun i =>
      let p := m.num .device (keyOf tier (table + 8 * i)) 8
      if !pteV p || pteBad p level then []
      else if pteLeaf p then [(level, p)]
      else tableLeaves m fuel (level + 1) (pteTier p) (pteFrame p)).flatten

/-- A leaf with PIN of a live graph maps part of a physical range (R120, R282). -/
def State.pinned (s : State) (tier pa n : Nat) : Bool :=
  s.hub.graphs.any fun g => match g.2 with
    | none => false
    | some G => (tableLeaves s.mem 5 0 (pteTier G.root) (pteFrame G.root)).any fun q =>
        ptePin q.2 && decide (pteTier q.2 = tier) && decide (pteFrame q.2 < pa + n)
          && decide (pa < pteFrame q.2 + 2 ^ pageBits q.1)

/-- A counted region is one that a leaf with PIN maps. -/
def State.hotSkipped (s : State) (reg : Nat) : Bool := s.pinned (reg / 2 ^ 40) (reg % 2 ^ 40 * 2 ^ 21) (2 ^ 21)

/-- Sorted insertion by descending count. -/
def insHot (p : Nat × Nat) : List (Nat × Nat) → List (Nat × Nat)
  | [] => [p]
  | q :: r => if q.2 < p.2 then p :: q :: r else q :: insHot p r

/-- The 2 MiB regions of LPDDR-6 and CXL memory that leaves with PIN map, each once. -/
def State.pinnedRegions (s : State) : List Nat :=
  ((s.hub.graphs.map fun g => match g.2 with
    | none => []
    | some G => ((tableLeaves s.mem 5 0 (pteTier G.root) (pteFrame G.root)).map fun q =>
        if ptePin q.2 ∧ (pteTier q.2 = 1 ∨ pteTier q.2 = 2) then
          (List.range ((2 ^ pageBits q.1 + 2 ^ 21 - 1) / 2 ^ 21)).map fun i => pteTier q.2 * 2 ^ 40 + pteFrame q.2 / 2 ^ 21 + i
        else []).flatten).flatten).eraseDups

/-- The end of an epoch of 1 ms (R120): a report of up to 64 regions that reached the threshold, in descending count, each with the
number of pinned regions; then every counter is halved. -/
def State.hotEpoch (s0 : State) : State :=
  if s0.time.toNat < s0.hub.hotAt + 1000000 then s0 else
  let s : State := { s0 with hub := { s0.hub with hotAt := s0.hub.hotAt + 1000000 } }
  let hot := s.hub.hot.filter fun q => decide (Config.hotThreshold ≤ q.2)
  let skipped := s.pinnedRegions.length
  let list := ((hot.filter fun q => !s.hotSkipped q.1).foldl (fun l p => insHot p l) []).take 64
  let s1 := list.foldl (fun s q =>
    s.ringPut 3 (u64 (q.1 % 2 ^ 40 * 2 ^ 21 + q.1 / 2 ^ 40 * 2 ^ 62) ++ u16 q.2 ++ u16 0 ++ u32 skipped)) s
  { s1 with hub := { s1.hub with hot := (s1.hub.hot.map fun q => (q.1, q.2 / 2)).filter fun q => q.2 ≠ 0 } }

def execHotPageEpoch (s : State) : Out := .next s.hotEpoch

/-- A refresh delays accesses and changes no value and no order (R121): the model keeps no time of accesses. -/
def execSubarrayRefresh (k : Nat) (s : State) : Out := let _ := k; .next s

/-- One of the eight CXL links (R15) is reported down (R122).  DESIGN CHOICE, an access to CXL memory goes on unchanged after that: the
spec gives it no outcome (log entry 47). -/
def execCxlLinkDown (l : Nat) (s : State) : Out :=
  .next (if 8 ≤ l then s else ({ s with hub := { s.hub with cxlDown := if s.hub.cxlDown.contains l then s.hub.cxlDown else l :: s.hub.cxlDown } } : State).tellHost 3 l 0 0)

end Sys2Proof.Machine
end

