-- ==== Sys2Proof/Machine/Dovetail.lean ====
section
/-! DEFINITION. Dovetail (R279 to R297): the schedule words DLOAD, DSTART, DSTOP and DSTAT, the events of a run, of the
links and of the shared time base, and the accesses of peer modules. -/

namespace Sys2Proof.Machine

/-! ### Schedule images (R284, R285) -/

/-- A little-endian field of an image. -/
def byteField (b : List Byte) (o n : Nat) : Nat := ofBytes ((b.drop o).take n)

/-- The limits of the header of 16 bytes. -/
def doveHeaderOk (h : List Byte) : Bool :=
  let nent := byteField h 0 2
  let ncap := byteField h 2 1
  let beatns := byteField h 4 4
  decide (1 ≤ nent) && decide (nent ≤ 4096) && decide (1 ≤ ncap) && decide (ncap ≤ 4) && decide (byteField h 3 1 = 0)
    && decide (beatns % 8 = 0) && decide (64 ≤ beatns) && decide (beatns ≤ 1048576) && decide (1 ≤ byteField h 8 2)
    && decide (byteField h 10 6 = 0)

/-- An entry of 16 bytes. -/
def doveEntry (b : List Byte) : DEnt :=
  ⟨byteField b 0 2, byteField b 2 1, byteField b 3 1, byteField b 4 1, byteField b 6 2 + 1, byteField b 8 4, byteField b 12 4, 0⟩

/-- The limits of an entry; `prev` is the beat of the entry before it. -/
def doveEntryOk (ncap prev : Nat) (b : List Byte) : Bool :=
  let e := doveEntry b
  let req := decide (e.kind = 4)
  decide (prev ≤ e.beat) && decide (1 ≤ e.kind) && decide (e.kind ≤ 4) && decide (e.link ≤ 15)
    && (!req || decide (e.link = 0)) && decide (e.ka % 4 < ncap) && decide (e.ka / 16 = 0)
    && (if req then decide (e.ka / 4 < ncap) else decide (e.ka / 4 = 0)) && decide (byteField b 5 1 = 0)
    && decide (e.addr % 32 = 0) && (if req then decide (e.addr2 % 32 = 0) else decide (e.addr2 = 0))

/-- All entries of an image, each checked. -/
def doveEntriesOk (ncap : Nat) : Nat → Nat → List Byte → Bool
  | 0, _, _ => true
  | n + 1, prev, b => doveEntryOk ncap prev b && doveEntriesOk ncap n (doveEntry b).beat (b.drop 16)

def doveEntries (n : Nat) (b : List Byte) : List DEnt := (List.range n).map fun i => doveEntry (b.drop (16 * i))

/-- A local range of an entry (R287): capability index, offset, bytes, permissions needed. -/
structure DRange where
  ci : Nat
  off : Nat
  n : Nat
  perm : Nat
  deriving DecidableEq, Repr

def DEnt.ranges (e : DEnt) : List DRange :=
  match e.kind with
  | 1 => [⟨e.ka % 4, e.addr, 32 * e.nblk, permR⟩]
  | 2 => [⟨e.ka % 4, e.addr, 32 * e.nblk, permW⟩]
  | 3 => [⟨e.ka % 4, e.addr, 128 * e.nblk, permR + permW⟩]
  | _ => [⟨e.ka / 4 % 4, e.addr2, 128 * e.nblk, permR⟩, ⟨e.ka % 4, e.addr, 32 * e.nblk, permW⟩]

/-- A receiving entry. -/
def DEnt.receives (e : DEnt) : Bool := decide (e.kind = 2) || decide (e.kind = 3)
/-- The entry uses a link. -/
def DEnt.usesLink (e : DEnt) (l : Nat) : Bool := decide (e.kind ≠ 4) && decide (e.link = l)

/-! ### DLOAD (R293) -/

/-- An entry is in progress. -/
def Dctx.busy (D : Dctx) : Bool := D.ents.any fun e => decide (e.st = 1)

/-- The k register of capability index `i`. -/
def doveK (ks i : Nat) : Nat := fld ks (4 * i) 4

/-- The first range that its captured capability does not grant: SPACE 0 to 3 only. -/
def doveBadRange (U : UnitSt) (r : PassRec) (ks : Nat) (es : List DEnt) : Option (Cause × Nat × Nat) :=
  ((es.map DEnt.ranges).flatten).findSome? fun q =>
    let c := capAt U r (q.ci + 1) (doveK ks q.ci)
    let info := capInfo (doveK ks q.ci) q.n r.addr
    if c.tag ∧ 3 < c.space then some (.kperm, q.off, info)
    else match c.check q.off q.n q.perm with
      | .error e => some (e, q.off, info)
      | .ok _ => none

/-- A read of the image that does not go on. -/
def CStop.toRes (x : CStop) (s : State) (u : Nat) : Res :=
  match x with
  | .wait s1 => .stall s1
  | .mig _ => .stall s
  | .xlat a i => .trapAt (s.dropFault u a) .xlat a i
  | .race s1 i0 i1 => .trapAt s1 .race i0 i1
  | .poison k => .jump (s.poisonTrap u k)

/-- Checks 3 to 5 of R293 on an image that has been read; the context is loaded when the event says so. -/
def State.doveTake (s : State) (U : UnitSt) (r : PassRec) (f : Flight) (ks : Nat) (h body : List Byte) : Res :=
  let nent := byteField h 0 2
  let ncap := byteField h 2 1
  let es := doveEntries nent body
  if !doveEntriesOk ncap nent 0 body then r.trapHere .und
  else match doveBadRange U r ks es with
    | some (c, i0, i1) => .trap c i0 i1
    | none =>
      let caps := (List.range ncap).map fun i => capAt U r (i + 1) (doveK ks i)
      let V := s.unit s.who.1
      .go (s.setUnit s.who.1 { V with dove := { V.dove with loading := some (es, caps, byteField h 4 4, byteField h 8 2) } })
        { f with wait := .op }

/-- DLOAD at issue, in the order of R293; an entry in progress of the run before completes first (R290).  A task whose container has DOVE = 0 has no context (R283): DESIGN CHOICE, its DLOAD raises
UND, and its other Dovetail words act on a context that is EMPTY (log entry 125). -/
def State.doveLoad (s : State) (U : UnitSt) (r : PassRec) (f : Flight) (a ks : Nat) : Res :=
  let u := s.who.1
  let c := capAt U r 0 a
  let o := (r.vals.headD 0).toNat
  let p : Place := ⟨c.space, (c.base + o) % 2 ^ 64, none⟩
  if !U.id.dove ∨ U.dove.status = 2 then r.trapHere .und
  else if U.dove.loading.isSome ∨ U.dove.busy then .stall s
  else match s.rangeChk u r [⟨a, c, o, 16, permR⟩] with
  | .wait s1 => .stall s1
  | .trap s1 e i0 i1 => .trapAt s1 e i0 i1
  | .ok =>
    match s.cRead u p none 0 16 with
    | .inl x => x.toRes s u
    | .inr (s1, h) =>
      let n := 16 * byteField h 0 2
      match CRange.capBad ⟨a, c, o + 16, n, permR⟩ r with
      | some (e, i0, i1) => .trap e i0 i1
      | none =>
        if o % 64 ≠ 0 then .trap .align o (capInfo a 16 r.addr)
        else if !doveHeaderOk h then r.trapHere .und
        else match s1.rangeChk u r [⟨a, c, o + 16, n, permR⟩] with
        | .wait s2 => .stall s2
        | .trap s2 e i0 i1 => .trapAt s2 e i0 i1
        | .ok =>
          match s1.cRead u p none 16 n with
          | .inl x => x.toRes s1 u
          | .inr (s2, body) => s2.doveTake U r f ks h body

/-- The capabilities that a recording keeps of a DLOAD: the image's, then those that it captures (R338). -/
def doveRec (a ks : Nat) (s : State) (r : PassRec) : Rec :=
  let U := s.unit s.who.1
  let c := U.kS a
  let ncap := match s.translate s.who.1 c.space (c.base + (r.vals.headD 0).toNat + 2) .read with
    | .ok key => s.mem.num (.unit s.who.1) key 1
    | _ => 0
  ⟨none, (a :: (List.range (min 4 ncap)).map (doveK ks)).map fun k => (U.kS k, U.kMark k)⟩

def execDload (tk : Tok) (a b ks : Nat) (s : State) : Out :=
  let _ := b
  State.word s tk none [] (doveRec a ks) fun s U r f =>
    if U.tape.run ≠ 2 ∧ (a :: (List.range 4).map (doveK ks)).any fun k => capPending U r k then .stall s
    else s.doveLoad U r f a ks

/-- The word is a DLOAD. -/
def isDload (h : Nat) : Bool := decide (fld h 29 3 = 5) && decide (fld h 16 7 = 0x08)

/-- The context becomes LOADED with its counts and flags zero, and the DLOAD retires; PREF stays until a DSTAT clears it (R293, R295). -/
def State.doveLoaded (s : State) (u : Nat) : State :=
  let U := s.unit u
  match U.dove.loading, U.work.fl.find? fun f => isDload f.hdr && f.wait == .op with
  | some (es, caps, beatns, tout), some f =>
    let D : Dctx := { Dctx.reset with ents := es, caps := caps, beatns := beatns, tout := tout, status := 1, pref := U.dove.pref, endTime := U.dove.endTime }
    s.setUnit u (({ U with dove := D }.finish f.id []).retire .C)
  | _, _ => s

def execDloadContextLoaded (u : Nat) (s : State) : Out := unitEvent u s (s.doveLoaded u)

/-! ### DSTART, DSTOP, DSTAT (R294, R295) -/

/-- The run ends with a status; ELINK is kept for LINKDOWN, TIMEOUT and MISMATCH (R290, R295). -/
def Dctx.endRun (D : Dctx) (status elink time : Nat) : Dctx :=
  if D.status = 2 then { D with status := status, elink := elink, endTime := time } else D

/-- An entry of the schedule uses the link. -/
def Dctx.uses (D : Dctx) (l : Nat) : Bool := D.ents.any fun e => e.usesLink l

/-- Another unit's running schedule uses a link of this one (LINKBUSY). -/
def State.linkBusy (s : State) (u : Nat) (D : Dctx) : Bool :=
  s.units.any fun q => decide (q.1 ≠ u) && decide (q.2.dove.status = 2)
    && q.2.dove.ents.any fun e => decide (e.kind ≠ 4) && D.uses e.link

/-- The context as a run begins: entries not started, counts and flags zero; PREF stays until a DSTAT clears it (R294, R295).  DESIGN
CHOICE, LATE is one of the counts that restart (log entry 157). -/
def Dctx.fresh (D : Dctx) (t0 : Nat) : Dctx :=
  { D with
    ents := D.ents.map fun e => { e with st := 0 }
    status := 2, t0 := t0, beat := 0, donen := 0, late := 0, flags := 0, elink := 0 }

/-- DSTART (R294): it waits for the earlier C words (R291), a DLOAD that is still loading the context among them, and then for the
entries that are in progress. -/
def execDstart (tk : Tok) (a : Nat) (s : State) : Out :=
  let _ := a
  State.word s tk none [] (fun _ _ => ⟨none, []⟩) fun s U r f =>
    let u := s.who.1
    let D := U.dove
    if U.work.fl.any fun g => g.eng == .C && g.wait != .done then .stall s
    else if D.status = 0 ∨ D.status = 2 then r.trapHere .und
    else if D.busy then .stall s
    else
      let D1 := D.fresh (max (r.vals.headD 0).toNat s.time.toNat)
      let D2 := if s.linkBusy u D then D1.endRun 9 0 s.time.toNat
        else if !s.hub.lock then D1.endRun 10 0 s.time.toNat else D1
      .go (s.setUnit u { U with dove := D2 }) f

def execDstop (tk : Tok) (s : State) : Out :=
  State.word s tk none [] (fun _ _ => ⟨none, []⟩) fun s U _ f =>
    let D := U.dove.endRun 4 0 s.time.toNat
    let s1 := s.setUnit s.who.1 { U with dove := D }
    if D.status = 4 ∧ D.busy then .stall s1 else .go s1 f

/-- DSTAT (R295).  DEDUCED, it shows the ended state once the entries in progress of the run have completed, since a DSTAT that reads it
orders later accesses after every byte that the run wrote (R290, R291; log entry 158). -/
def execDstat (tk : Tok) (d wt sel : Nat) (g : XP) (s : State) : Out :=
  State.word s tk g [] (fun _ _ => ⟨none, []⟩) fun s U _ f =>
    let D := U.dove
    if (wt = 1 ∧ D.status = 2) ∨ (3 ≤ D.status ∧ D.busy) then .stall s
    else
      let v := if sel = 2 then D.endTime else D.word
      let D1 := if sel = 1 then { D with late := 0, flags := 0, pref := false } else D
      .go (s.setUnit s.who.1 { U with dove := D1 }) { f with eff := [.x d (BitVec.ofNat 64 v)] }

/-! ### A run (R287 to R291) -/

def State.setDove (s : State) (u : Nat) (D : Dctx) : State := s.setUnit u { s.unit u with dove := D }

/-- The next beat begins. -/
def State.doveBeat (s : State) (u : Nat) : State :=
  let D := (s.unit u).dove
  if D.status = 2 ∧ D.t0 + D.beat * D.beatns ≤ s.time.toNat then s.setDove u { D with beat := D.beat + 1 } else s

def execDovetailBeat (u : Nat) (s : State) : Out := unitEvent u s (s.doveBeat u)

/-- Two local ranges share a byte that one of them writes. -/
def Dctx.clash (D : Dctx) (a b : DRange) : Bool :=
  let ca := D.caps.getD a.ci Cap.null
  let cb := D.caps.getD b.ci Cap.null
  decide (ca.space = cb.space) && decide (ca.base + a.off < cb.base + b.off + b.n)
    && decide (cb.base + b.off < ca.base + a.off + a.n) && (decide (a.perm ≠ permR) || decide (b.perm ≠ permR))

/-- Conditions 1 to 3 of R288 for entry `i`. -/
def Dctx.mayStart (D : Dctx) (i : Nat) : Bool :=
  match D.ents[i]? with
  | none => false
  | some e =>
    decide (D.status = 2) && decide (e.st = 0) && decide (e.beat < D.beat) && ((D.ents.take i).all fun q =>
      (decide (q.st = 2) || !(q.ranges.any fun a => e.ranges.any fun b => D.clash a b))
        && (decide (q.kind = 4) || decide (e.kind = 4) || decide (q.link ≠ e.link) || decide (q.receives ≠ e.receives)
          || decide (q.st ≠ 0)))

def Dctx.setEnt (D : Dctx) (i st : Nat) : Dctx := { D with ents := D.ents.modify i fun e => { e with st := st } }

/-- The keys of a local range, or the state in which the run waits for its translation or for a scratchpad bank. -/
def State.doveKeys (s : State) (u : Nat) (D : Dctx) (q : DRange) (k : AccKind) : State ⊕ List (Nat × Nat) :=
  let c := D.caps.getD q.ci Cap.null
  let a := (c.base + q.off) % 2 ^ 64
  let U := s.unit u
  let banks := if c.space = 1 then spadBanks a q.n else []
  let cold := banks.filter fun j => decide ((U.bank 1 j).st ≠ .full)
  if banks.any fun j => U.fallDue 1 j then .inl (banks.foldl (fun s j => s.fallIfDue u 1 j) s)
  else if cold ≠ [] then .inl (s.setUnit u (cold.foldl (fun V j => V.setBank 1 j (V.bank 1 j).startWake) U))
  else match s.pieces u c.space k a q.n 70000 with
    | .inr l => .inr l
    | .inl (.wait s1) => .inl s1
    | .inl _ => .inl s

def State.doveRead (s : State) (l : List (Nat × Nat)) : List Byte := (l.map fun q => s.mem.read .device q.1 q.2).flatten
/-- The accesses of a run's read are counted (R120). -/
def State.doveTouch (s : State) (l : List (Nat × Nat)) : State := l.foldl (fun s q => s.touchRange q.1 q.2) s
def State.dovePoison (s : State) (l : List (Nat × Nat)) : Bool := l.any fun q => s.mem.poisonFor .device q.1 q.2
/-- Bytes written by a run, visible at the scope of their memory. -/
def State.doveWrite (s : State) (u space : Nat) : List (Nat × Nat) → List Byte → State
  | [], _ => s
  | (k, n) :: r, bs => (s.writeMem u (copyScope space) k (bs.take n) false).doveWrite u space r (bs.drop n)

def State.link (s : State) (l : Nat) : Link := SMap.get Link.reset s.hub.links l
def State.setLink (s : State) (l : Nat) (L : Link) : State :=
  { s with hub := { s.hub with links := SMap.set Link.reset s.hub.links l L } }
/-- Something sent on a link that is up: data with its place in its run; a notice goes ahead of every data flit (R281). -/
def State.sendOn (s : State) (l kind place : Nat) (bs : List Byte) : State :=
  let L := s.link l
  if L.lanes = 0 then s
  else if kind = 2 then
    s.setLink l { L with out := L.out.takeWhile (fun x => x.1 ≠ 0) ++ (kind, place, bs) :: L.out.dropWhile fun x => x.1 ≠ 0 }
  else s.setLink l { L with out := L.out ++ [(kind, place, bs)] }

/-- The place of entry `i` among those of its run that have its link and direction (R289). -/
def Dctx.place (D : Dctx) (i : Nat) : Nat :=
  match D.ents[i]? with
  | none => 0
  | some e => ((D.ents.take i).filter fun q => q.usesLink e.link && (q.receives == e.receives)).length

/-- An entry starts: a SEND reads its range and sends it. -/
def State.doveStart (s : State) (u i : Nat) : State :=
  let D := (s.unit u).dove
  match D.ents[i]? with
  | none => s
  | some e =>
    if !D.mayStart i then s
    else if e.kind ≠ 4 ∧ (s.link e.link).lanes = 0 then s.setDove u (D.endRun 6 e.link s.time.toNat)
    else if e.kind ≠ 1 then s.setDove u (D.setEnt i 1)
    else match e.ranges.head? with
      | none => s
      | some q =>
        match s.doveKeys u D q .read with
        | .inl s1 => s1
        | .inr l =>
          if s.dovePoison l then s.setDove u (D.endRun 8 0 s.time.toNat)
          else ((s.doveTouch l).sendOn e.link 0 (D.place i) (s.doveRead l)).setDove u (D.setEnt i 1)

def execDovetailEntryStart (u i : Nat) (s : State) : Out := unitEvent u s (s.doveStart u i)

/-- Arriving data is held in the hub with its place, up to 1 MiB a link, or taken by an entry that is in progress; else the
sender's flow stops (R289). -/
def State.doveReceive (s : State) (l : Nat) : State :=
  let L := s.link l
  match L.inbox with
  | [] => s
  | b :: r =>
    let wanted := decide (L.held = []) && s.units.any fun q => q.2.dove.ents.any fun e =>
      e.receives && e.usesLink l && decide (e.st = 1)
    if (L.held.map fun x => x.2.length).sum + b.2.length ≤ 2 ^ 20 ∨ wanted then s.setLink l { L with held := L.held ++ [b], inbox := r }
    else s

def execDovetailReceive (l : Nat) (s : State) : Out := .next (s.doveReceive l)

/-- RWADD's element: the sum rounded once, and its flags OF and NX. -/
def rwAdd (acc code scale : Nat) : Nat × Nat :=
  let z := exAdd 0 (readF 24 false acc).1 (decodeL6 code scale)
  let q := roundEx 24 false 0 z.1
  (q.1, q.2 &&& (fOF + fNX))

/-- RWADD over the area: wire blocks of 32 bytes added into 32 FP32 elements each. -/
def rwAddArea (n : Nat) (old wire : List Byte) : List Byte × Nat :=
  let r := (List.range (32 * n)).map fun k =>
    let b := wire.drop (32 * (k / 32))
    let code := groupCode (byteField b (6 * (k % 32 / 8)) 6) (k % 8)
    rwAdd (byteField old (4 * k) 4) code (byteField b 24 1)
  ((r.map fun q => toBytes 4 q.1).flatten, orFlags (r.map (·.2)))

/-- REQUANT over the area: one Dovetail block for each 32 FP32 elements (R286). -/
def requantArea (n : Nat) (src : List Byte) : List Byte × Nat :=
  let r := (List.range n).map fun j =>
    let q := quantL6 ((List.range 32).map fun e => byteField src (128 * j + 4 * e) 4)
    (packCodes q.2.1 ++ toBytes 1 q.1 ++ List.replicate 7 (0 : Byte), q.2.2)
  ((r.map (·.1)).flatten, orFlags (r.map (·.2)))

/-- An entry is performed: its count, LATE and flags; with the last one the run is DONE. -/
def Dctx.performed (D : Dctx) (i time fl : Nat) : Dctx :=
  let D1 := D.setEnt i 2
  let late := match D.ents[i]? with
    | some e => e.receives && decide (D.t0 + (e.beat + 1) * D.beatns < time)
    | none => false
  let D2 := { D1 with
    donen := D1.donen + 1, late := if late then min 255 (D1.late + 1) else D1.late, flags := D1.flags ||| fl }
  if D2.ents.all fun e => decide (e.st = 2) then D2.endRun 3 0 time else D2

/-- A receiving entry takes the oldest data of its link: the entries of one link are served in order. -/
def Dctx.firstReceiver (D : Dctx) (i link : Nat) : Bool :=
  (D.ents.take i).all fun q => !(q.receives && q.usesLink link) || decide (q.st = 2)

/-- The instant by which a receiving entry must be performed (R290). -/
def Dctx.bound (D : Dctx) (e : DEnt) : Nat := D.t0 + (e.beat + D.tout) * D.beatns

/-- What a run does that has a receiving entry past its bound: it ends with TIMEOUT (R290). -/
def Dctx.overdue (D : Dctx) (now : Nat) : Dctx :=
  match D.ents.find? fun e => e.receives && decide (e.st ≠ 2) && decide (D.bound e ≤ now) with
  | some e => D.endRun 5 e.link (D.bound e)
  | none => D

/-- An entry in progress is performed (R287); a receiving one takes the data of its own place (R289).  Data that an earlier run of
the peer has left, of a later place than the one awaited, is discarded; data of an earlier place begins a run that this one is not
paired with. -/
def State.dovePerform (s : State) (u i : Nat) : State :=
  let D := (s.unit u).dove
  let now := s.time.toNat
  match D.ents[i]? with
  | none => s
  | some e =>
    let spaceOf := fun (q : DRange) => (D.caps.getD q.ci Cap.null).space
    if e.st ≠ 1 then s
    else match e.kind, e.ranges, (s.link e.link).held with
    | 1, _, _ => s.setDove u (D.performed i now 0)
    | 4, [src, dst], _ =>
      (match s.doveKeys u D src .read, s.doveKeys u D dst .write with
       | .inl s1, _ => s1
       | _, .inl s1 => s1
       | .inr ls, .inr ld =>
         if s.dovePoison ls then s.setDove u ((D.setEnt i 0).endRun 8 0 now)
         else
           let q := requantArea e.nblk (s.doveRead ls)
           ((s.doveTouch ls).doveWrite u (spaceOf dst) ld q.1).setDove u (D.performed i now q.2))
    | _, [rg], (p, b) :: rest =>
      let L := s.link e.link
      let s0 := s.setLink e.link { L with held := rest }
      if !D.firstReceiver i e.link ∨ p < D.place i then s
      else if D.place i < p then s0
      else if D.status = 2 ∧ D.bound e < now then s.setDove u (D.endRun 5 e.link now)
      else
        if b.length ≠ 32 * e.nblk then s0.setDove u ((D.setEnt i 0).endRun 7 e.link now)
        else
          (match s.doveKeys u D rg (if e.kind = 2 then .write else .read), s.doveKeys u D rg .write with
           | .inl s1, _ => s1
           | _, .inl s1 => s1
           | .inr _, .inr l =>
             if e.kind = 2 then (s0.doveWrite u (spaceOf rg) l b).setDove u (D.performed i now 0)
             else if s.dovePoison l then s0.setDove u ((D.setEnt i 0).endRun 8 0 now)
             else
               let q := rwAddArea e.nblk (s.doveRead l) b
               ((s0.doveTouch l).doveWrite u (spaceOf rg) l q.1).setDove u (D.performed i now q.2))
    | _, _, _ => s

def execDovetailEntryPerformed (u i : Nat) (s : State) : Out := unitEvent u s (s.dovePerform u i)

/-- A receiving entry is past its bound (R290): the run ends with TIMEOUT; an entry in progress of a run that has ended is
given up. -/
def State.doveTimeout (s : State) (u i : Nat) : State :=
  let D := (s.unit u).dove
  match D.ents[i]? with
  | none => s
  | some e =>
    if e.receives ∧ e.st ≠ 2 ∧ D.bound e ≤ s.time.toNat then
      s.setDove u ((D.endRun 5 e.link s.time.toNat).setEnt i 0)
    else s

def execDovetailTimeout (u i : Nat) (s : State) : Out := unitEvent u s (s.doveTimeout u i)

/-! ### Links and the time base (R279 to R281) -/

def execDovetailLinkDegrade (l : Nat) (s : State) : Out :=
  .next (if 16 ≤ l ∨ (s.link l).lanes ≠ 8 then s else (s.setLink l { s.link l with lanes := 4 }).tellHost 4 l 0 0)

/-- Every running schedule ends for which `p` holds. -/
def State.endRuns (s : State) (p : Dctx → Bool) (status elink : Nat) : State :=
  { s with units := s.units.map fun q =>
      (q.1, if p q.2.dove then { q.2 with dove := q.2.dove.endRun status elink s.time.toNat } else q.2) }

def execDovetailLinkDown (l : Nat) (s : State) : Out :=
  .next (if 16 ≤ l ∨ (s.link l).lanes = 0 then s
    else (((s.setLink l { s.link l with lanes := 0 }).endRuns (fun D => D.uses l) 6 l).tellHost 5 l 0 0))

/-- The time lock is lost: a service request, and every running schedule ends with NOLOCK (R280). -/
def execTimeLockLoss (s : State) : Out :=
  .next (if s.hub.lock then
      let s1 := s.endRuns (fun _ => true) 10 0
      ({ s1 with hub := { s1.hub with lock := false } } : State).service 2 0
    else s)

def execTimeLockRegain (s : State) : Out := .next { s with hub := { s.hub with lock := true } }

/-- A beacon: module 0 sends TIME on each link, any other module forwards it on its time path (R279). -/
def execTimeBeacon (s : State) : Out :=
  .next ((List.range 16).foldl (fun s l =>
    if s.hub.module_ = 0 ∨ fld s.hub.timePath l 1 = 1 then s.sendOn l 1 0 (u64 s.time.toNat) else s) s)

/-! ### Peer accesses (R111, R282) -/

/-- An answer to the outside: 0 mailbox, 1 host access, 2 peer access, 3 refused peer access, 4 poison. -/
def State.answer (s : State) (kind id : Nat) (bs : List Byte) : State :=
  { s with hub := { s.hub with answers := s.hub.answers ++ [(kind, id, bs)] } }

/-- The new value of a peer's operation on an old value of `n` bytes: 1 a write, 16 + op an AMO, 32 a CAS. -/
def peerNew (op n old : Nat) (bs : List Byte) : Option (List Byte) :=
  if op = 0 then none
  else if op = 1 then some bs
  else if op = 32 then (if old = byteField bs 0 n then some ((bs.drop n).take n) else none)
  else some (toBytes n (amoOp (op - 16) n old (byteField bs 0 n)))

/-- An access that a peer makes in HBM4 or LPDDR-6: at system scope; a write only to a page with PIN. -/
def State.peerAccess (s : State) (id : Nat) : State :=
  match s.inbox.peer.find? fun q => q.1 = id with
  | none => s
  | some (_, op, key, n, bs) =>
    let s0 : State := { s with inbox := { s.inbox with peer := s.inbox.peer.filter fun q => q.1 ≠ id } }
    let tier := keyRegion key
    if s.hub.retrain ≠ 0 then s
    else if 1 < tier ∨ !physOk tier (keyOff key + n - 1) then s0.answer 3 id []
    else if op ≠ 0 ∧ !s.pinned tier (keyOff key) n then s0.answer 3 id []
    else if op ≠ 1 ∧ s.mem.poisonFor .system key n then s0.answer 4 id []
    else
      let old := s.mem.read .system key n
      let s1 := match peerNew op n (ofBytes old) bs with
        | some w => s0.writeMem 0 4 key w false
        | none => s0.touch key
      s1.answer 2 id (if op = 1 then [] else old)

def execPeerAccess (id : Nat) (s : State) : Out := .next (s.peerAccess id)

/-- The destination of an operation lies in a peer. -/
def Place.atPeer (p : Place) : Bool := match p.key with | some k => decide (keyRegion k = 3) | none => false

/-- The elements of a W operation that go to no peer. -/
def WOp.withoutPeer (o : WOp) : WOp :=
  let keep := (o.stores.zip (List.range o.stores.length)).filter fun q => !q.1.1.atPeer
  { o with
    stores := keep.map (·.1)
    add := o.add.map fun a => (a.1, a.2.1, keep.map fun q => a.2.2.getD q.2 0) }

/-- What a peer refuses of a move's next request: the bytes of its destination, those of its L6 scales, or, where a peer holds both, a free
choice of one or both. -/
def Move.peerLoss (m : Move) (s : State) : Option (Bool × Bool) :=
  let sc := decide (m.scale.space = 5) && decide (m.dfmt = 2) && decide (m.kind = 1)
  if m.dst.space = 5 ∧ sc then
    some (match Config.freeNat s.tick 833 % 3 with | 0 => (true, false) | 1 => (false, true) | _ => (true, true))
  else if m.dst.space = 5 then some (true, false)
  else if sc then some (false, true)
  else none

/-- The first place of a request's bytes that a peer refuses. -/
def Move.lostAt (m : Move) (s : State) (u : Nat) (lost : Bool × Bool) : Option Nat :=
  ((m.result m.done ((m.reads m.done).map fun q => List.replicate q.2.2 0)).1.find? fun q => if q.1 then lost.2 else lost.1).bind fun q =>
    let p := if q.1 then m.scale else m.dst
    match s.pieces u p.space .write ((p.addr + q.2.1) % 2 ^ 64) q.2.2.length 70000 with
    | .inr ((key, _) :: _) => some key
    | _ => none

/-- A peer has refused a write (R282): the store changes nothing there and is performed, with all else that it does; the hub logs it,
the host gets an event, PREF is set. -/
def State.peerRefused (s : State) (u id : Nat) : State :=
  let U := s.unit u
  let note := fun (s : State) (addr : Nat) =>
    let V := s.unit u
    let s1 := s.setUnit u { V with dove := { V.dove with pref := true } }
    ({ s1 with hub := { s1.hub with log := s1.hub.log ++ [(⟨2, u, fld addr 46 6, addr⟩ : HostEv)] } } : State).tellHost 6 u
      (fld addr 46 6) addr
  match findSop id [] U.work.sops with
  | some (o, before) =>
    if !o.place.atPeer ∨ !o.writes ∨ !s.sopReady u o before then s
    else
      let isLoad := match o.kind with | .amo _ => true | .cas => true | _ => false
      let s1 := s.dropSop u id isLoad
      let s2 := if isLoad then s1.setUnit u ((s1.unit u).give id [.x o.d (BitVec.ofNat 64 (Config.freeNat s.tick 700))]) else s1
      note s2 (keyOff (o.place.key.getD 0))
  | none =>
    match U.work.wops.find? fun o => o.id = id with
    | some o =>
      (match o.stores.find? fun p => p.1.atPeer with
       | none => s
       | some p =>
         note (s.setUnit u { U with work := { U.work with wops := U.work.wops.map fun x => if x.id = id then o.withoutPeer else x } })
           (keyOff (p.1.key.getD 0)))
    | none =>
      match U.work.moves.find? fun m => m.id = id with
      | none => s
      | some m =>
        if m.total ≤ m.done then s
        else match m.issueTo u m.done (m.done + 1) s with
        | .inl _ => s
        | .inr (s0, m0) =>
          (match m0.peerLoss s0 with
           | none => s
           | some lost =>
             match m0.lostAt s0 u lost, m0.perform s0 u m0.done lost with
             | some key, .inr (s1, m1) => note (s1.setUnit u ((s1.unit u).setMove m1)) (keyOff key)
             | _, _ => s)

def execPeerWriteRefused (u id : Nat) (s : State) : Out := unitEvent u s (s.peerRefused u id)

end Sys2Proof.Machine
end

