-- ==== Sys2Proof/Machine/Loader.lean ====
section
/-! DEFINITION. The loader in the hub (R67 to R73): the checks of a UMC image in ascending reason order, and what the hub
keeps of an image that passes.  The reported index is a text address for reasons 5 and 6, and, of reason 7, for a posting word
that has no token-balance entry and a waiting word that none names; a byte offset in the image otherwise (log entry 91). -/

namespace Sys2Proof.Machine

/-! ### Reading for the hub -/

/-- A byte at a device virtual address, read by the hub through the page tables of `root`; where the address does not
translate the spec says nothing of the byte. -/
def State.vaByte (s : State) (root va : Nat) : Byte :=
  match walkVA s.mem root va with
  | .leaf l p _ => s.mem.byte .device (keyOf (pteTier p) (pteFrame p + va % 2 ^ pageBits l))
  | .bad _ _ => BitVec.ofNat 8 (Config.freeNat s.tick (10000 + va))
def State.vaBytes (s : State) (root va n : Nat) : List Byte := (List.range n).map fun i => s.vaByte root (va + i)

/-! ### The parts of an image (R67, R68) -/

/-- Offset and size of a part: 0 text, 1 rodata, 2 layout, 3 token balance, 4 tape hints, 5 operating points, 6
footprints, 7 Dovetail schedule, 8 symbols. -/
def partOff (b : List Byte) (i : Nat) : Nat := byteField b (0x18 + 8 * i) 4
def partSize (b : List Byte) (i : Nat) : Nat := byteField b (0x1C + 8 * i) 4
def partEnd (b : List Byte) (i : Nat) : Nat := partOff b i + partSize b i
/-- The image's length.  DEDUCED, an image is laid out in units of 16 bytes (R67), so it ends at the multiple of 16 that follows its
last part (log entry 110). -/
def imageEnd (b : List Byte) : Nat := (((List.range 9).map fun i => partEnd b i).foldl max 96 + 15) / 16 * 16
def imageTextLen (b : List Byte) : Nat := byteField b 0x0C 4
def imageArgSize (b : List Byte) : Nat := byteField b 0x10 4
/-- Entry `i` of a part whose entries have `n` bytes. -/
def partEntry (b : List Byte) (part n i : Nat) : List Byte := (b.drop (partOff b part + n * i)).take n
def partCount (b : List Byte) (part n : Nat) : Nat := partSize b part / n
/-- Offsets and bytes of a part's entries. -/
def partEntries (b : List Byte) (part n : Nat) : List (Nat × List Byte) :=
  (List.range (partCount b part n)).map fun i => (partOff b part + n * i, partEntry b part n i)

/-- CRC-32 of IEEE 802.3, one byte on. -/
def crcBit : Nat → Nat → Nat
  | 0, x => x
  | n + 1, x => crcBit n (if x % 2 = 1 then (x / 2) ^^^ 0xEDB88320 else x / 2)
def crc32 (b : List Byte) : Nat := b.foldl (fun x y => crcBit 8 (x ^^^ y.toNat)) 0xFFFFFFFF ^^^ 0xFFFFFFFF

/-! ### Reasons 1 to 4 -/

/-- The first of a list of checks that fails, with its index. -/
def firstBad (l : List (Bool × Nat)) : Option Nat := (l.find? fun q => !q.1).map (·.2)

def loadMagic (b : List Byte) : Option Nat :=
  firstBad [ (decide (byteField b 0 4 = 0x00434D55), 0), (decide (byteField b 4 4 = 0x00010000), 4),
             (decide (byteField b 8 4 < 2), 8) ]

def loadCrc (b : List Byte) : Option Nat :=
  firstBad [(decide (crc32 (b.take 0x14 ++ List.replicate 4 0 ++ b.drop 0x18) = byteField b 0x14 4), 0x14)]

/-- DOVE agrees with the schedule, the text size with TEXTLEN, and every part is aligned, in order, without overlap, and inside the
grant with the unit of 16 bytes it ends in: the lowest offset of those that fail. -/
def loadDir (b : List Byte) (len : Nat) : Option Nat :=
  firstBad ((decide (byteField b 8 4 % 2 = 1) == decide (partSize b 7 ≠ 0), 8) :: (List.range 9).map fun i =>
      (decide (partOff b i % 16 = 0) && decide ((if i = 0 then 96 else partEnd b (i - 1)) ≤ partOff b i)
        && decide ((partEnd b i + 15) / 16 * 16 ≤ len) && (decide (i ≠ 0) || decide (partSize b 0 = 4 * imageTextLen b)), 0x18 + 8 * i))

def loadSizes (b : List Byte) : Option Nat :=
  firstBad [ (decide (1 ≤ imageTextLen b) && decide (imageTextLen b ≤ 16384), 0x0C),
             (decide (imageArgSize b ≤ 65536) && decide (imageArgSize b % 16 = 0), 0x10) ]

/-! ### The text (reasons 5 and 6) -/

/-- An instruction of the text: address, header, extension word, length. -/
structure TWord where
  a : Nat
  h : Nat
  x : Nat
  len : Nat
  deriving DecidableEq, Repr

/-- Word `a` of the text. -/
def textWord (b : List Byte) (a : Nat) : Nat := byteField b (partOff b 0 + 4 * a) 4

/-- The walk of the text by X lengths: the instructions before the first that fails a check of R33, and its address.  DESIGN CHOICE,
the walk ends there: a rule that speaks of a word beyond it, as of the last word of a body, is not judged (log entry 91). -/
def walkText (b : List Byte) (n : Nat) : Nat → Nat → List TWord × Option Nat
  | 0, _ => ([], none)
  | fuel + 1, a =>
    if n ≤ a then ([], none)
    else
      let h := textWord b a
      match decodeWords h (if a + 1 < n then some (textWord b (a + 1)) else none) with
      | .error _ => ([], some a)
      | .ok _ =>
        let l := 1 + fld h 28 1
        let q := walkText b n fuel (a + l)
        (⟨a, h, if l = 2 then textWord b (a + 1) else 0, l⟩ :: q.1, q.2)

/-- The instruction whose header stands at an address. -/
def wordAt (ws : List TWord) (a : Nat) : Option TWord := ws.find? fun w => w.a = a
/-- The A-tagged operation of a word. -/
def TWord.aop (w : TWord) : Option Nat := if fld w.h 29 3 = 6 then some (fld w.h 16 7) else none
/-- The bodies of the text's loops: the LOOP, its first and its last word (R313). -/
def bodies (ws : List TWord) : List (Nat × Nat × Nat) :=
  (ws.filter fun w => w.aop = some 4).map fun w => (w.a, w.a + 2, w.a + 1 + (fld w.x 16 12 + 1))
/-- The innermost body that holds an address. -/
def innermost (bs : List (Nat × Nat × Nat)) (a : Nat) : Option (Nat × Nat × Nat) :=
  (bs.filter fun q => decide (q.2.1 ≤ a) && decide (a ≤ q.2.2)).foldl
    (fun m q => match m with | none => some q | some p => if p.2.1 < q.2.1 then some q else some p) none

/-- The rules of R315 that the text alone decides, for one word. -/
def loopRule (ws : List TWord) (bs : List (Nat × Nat × Nat)) (w : TWord) : Bool :=
  let inner := innermost bs w.a
  match w.aop with
  | some 4 =>
    let b1 := w.a + 1 + (fld w.x 16 12 + 1)
    (match wordAt ws b1 with | some l => decide (l.len = 1) | none => true)
      && (match inner with | some p => decide (b1 ≤ p.2.2) | none => true)
  | some 2 => inner.isNone
  | some 3 => inner.isNone
  | some op =>
    if op ≤ 1 then
      match inner with
      | some p =>
        let t := branchTo w.a w.x
        decide ((p.2.1 : Int) ≤ t) && decide (t ≤ (p.2.2 : Int)) && decide (w.a + w.len + 1 ≤ p.2.2)
      | none => true
    else true
  | none => true

/-- The lowest text address that fails reason 5. -/
def loadText (b : List Byte) : Option Nat :=
  let q := walkText b (imageTextLen b) (imageTextLen b) 0
  match q.1.find? fun w => !loopRule q.1 (bodies q.1) w with
  | some w => some w.a
  | none => q.2

/-- The first word of the text that may not stand in its delay slot (R308, R309). -/
def loadSlots (ws : List TWord) : Option Nat :=
  ws.findSome? fun w =>
    match w.aop with
    | some op =>
      if 3 < op then none
      else
        let brp := if op = 0 then some (fld w.h 11 5) else none
        let at_ := fun (a slots : Nat) => match wordAt ws a with
          | some v => if slotOk (some ⟨0, true, slots, brp⟩) v.h v.len then none else some a
          | none => none
        let s1 := w.a + w.len
        match at_ s1 2 with
        | some a => some a
        | none => (match wordAt ws s1 with | some v => if v.len = 1 then at_ (s1 + 1) 1 else none | none => none)
    | none => none

/-! ### The token-balance table (reason 7: R70, R73) -/

def TWord.posts (w : TWord) : Bool := decide (2 ≤ fld w.h 26 2)
def TWord.waits (w : TWord) : Bool := decide (fld w.h 26 2 % 2 = 1)

/-- An entry of the table names a posting word and a waiting word of its pair. -/
def tokenOk (ws : List TWord) (post : Nat) (e : List Byte) : Bool :=
  let prod := byteField e 4 1
  let cons := byteField e 5 1
  decide (byteField e 0 2 = post) && decide (byteField e 6 2 = 0)
    && (match wordAt ws post with
        | some w => decide (fld w.h 29 3 = prod) && decide (fld w.h 23 3 = cons)
        | none => false)
    && (match wordAt ws (byteField e 2 2) with
        | some w => decide (fld w.h 29 3 = cons) && decide (fld w.h 23 3 = prod) && w.waits
        | none => false)

def loadTokens (b : List Byte) (ws : List TWord) : Option Nat :=
  let es := partEntries b 3 8
  let posts := (ws.filter TWord.posts).map (·.a)
  if partSize b 3 % 8 ≠ 0 then some (partOff b 3)
  else match (es.zip (List.range es.length)).find? fun q =>
      match posts[q.2]? with | some p => !tokenOk ws p q.1.2 | none => true with
  | some q => some q.1.1
  | none =>
    match posts[es.length]? with
    | some p => some p
    | none => (ws.find? fun w => w.waits && !(es.any fun e => decide (byteField e.2 2 2 = w.a))).map (·.a)

/-! ### The argument-block layout (reason 8: R69) -/

/-- Offset, size and CAP flag of a layout entry. -/
def layEntry (e : List Byte) : Nat × Nat × Bool := (byteField e 0 4, byteField e 4 4, decide (byteField e 12 4 % 2 = 1))
def layout (b : List Byte) : List (Nat × Nat × Bool) := (partEntries b 2 16).map fun q => layEntry q.2

def layOk (argsize : Nat) (before : List (Nat × Nat × Bool)) (e : List Byte) : Bool :=
  let q := layEntry e
  let n := q.2.1
  decide (byteField e 12 4 < 2) && (decide (n = 1) || decide (n = 2) || decide (n = 4) || decide (n = 8) || (decide (n % 16 = 0) && decide (0 < n)))
    && decide (q.1 % min n 16 = 0) && decide (q.1 + n ≤ argsize) && (!q.2.2 || decide (n = 16))
    && (before.all fun p => decide (p.1 + p.2.1 ≤ q.1) || decide (q.1 + n ≤ p.1))
    && decide (((before.filter fun p => p.2.2).length + (if q.2.2 then 1 else 0)) ≤ 12)

def loadLayout (b : List Byte) : Option Nat :=
  let es := partEntries b 2 16
  if partSize b 2 % 16 ≠ 0 then some (partOff b 2)
  else ((es.zip (List.range es.length)).find? fun q => !layOk (imageArgSize b) ((layout b).take q.2) q.1.2).map (·.1.1)

/-! ### Hints, operating points, footprints, schedule, symbols (reason 9) -/

/-- A tape hint (R340): the field exists, no entry repeats, at most 32 guards and 16 patches. -/
def hintOk (lay : List (Nat × Nat × Bool)) (before : List (List Byte)) (e : List Byte) : Bool :=
  let kind := byteField e 0 1
  let arg := byteField e 1 1
  let off := byteField e 4 4
  let same := fun (p : List Byte) => decide (byteField p 0 1 = kind)
  decide (byteField e 2 2 = 0)
    && (if kind = 1 then decide (arg ≤ 4) && lay.any fun f => decide (f.1 = off) && decide (f.2.1 = 2 ^ arg)
        else decide (kind = 2) && decide (arg ≤ 15) && lay.any fun f => decide (f.1 = off) && f.2.2)
    && !(before.any fun p => same p && decide (byteField p 4 4 = off))
    && decide ((before.filter same).length < (if kind = 1 then 32 else 16))

/-- An operating-point entry of 16 bytes (R387). -/
def optEntry (e : List Byte) : OpEnt := ⟨byteField e 0 1, byteField e 1 1, byteField e 2 2, byteField e 4 4, byteField e 8 8⟩
/-- A tile count that a task may have. -/
def tilesOk (t : Nat) : Bool := (decide (1 ≤ t) && decide (t ≤ 8)) || (decide (t % 8 = 0) && decide (8 ≤ t) && decide (t ≤ 768))
def optOk (before : List OpEnt) (e : List Byte) : Bool :=
  let o := optEntry e
  decide (o.op ≤ 7) && decide (o.fmt ≤ 1) && tilesOk o.tiles && decide (1 ≤ o.energy) && decide (1 ≤ o.time)
    && decide (o.time < 2 ^ 63)
    && !(before.any fun p => decide (p.op = o.op) && decide (p.fmt = o.fmt) && decide (p.tiles = o.tiles))
/-- The entries of a table (R387), and the offset of what R388 refuses in it. -/
def optTable (t : List Byte) : List OpEnt := (List.range (byteField t 0 1)).map fun i => optEntry ((t.drop (16 + 16 * i)).take 16)
def optBad (t : List Byte) : Option Nat :=
  let n := byteField t 0 1
  if n = 0 ∨ 8 < n then some 0
  else if byteField t 1 15 ≠ 0 then some 1
  else ((List.range n).find? fun i => !optOk ((optTable t).take i) ((t.drop (16 + 16 * i)).take 16)).map fun i => 16 + 16 * i

/-- A footprint of the container (R360). -/
def footOk (lay : List (Nat × Nat × Bool)) (before : List (List Byte)) (e : List Byte) : Bool :=
  let field8 := fun (o : Nat) => lay.any fun f => decide (f.1 = o) && decide (f.2.1 = 8)
  decide (byteField e 0 1 ≤ 3) && decide (1 ≤ byteField e 1 1) && decide (byteField e 1 1 ≤ 3) && decide (byteField e 2 2 = 0)
    && field8 (byteField e 4 4) && field8 (byteField e 8 4) && decide (byteField e 12 4 = 0)
    && !(before.any fun p => decide (byteField p 0 1 = byteField e 0 1))

/-- The first entry of a part that a rule refuses, given the entries before it. -/
def partBad (b : List Byte) (part n : Nat) (ok : List (List Byte) → List Byte → Bool) : Option Nat :=
  let es := partEntries b part n
  if partSize b part % n ≠ 0 then some (partOff b part)
  else ((es.zip (List.range es.length)).find? fun q => !ok ((es.take q.2).map (·.2)) q.1.2).map (·.1.1)

/-- The entries and the string area of the symbol table (R71).  DESIGN CHOICE, a `res` word of its header that is not zero is
refused with reason 9, as a header that does not agree: no rule states an outcome for it (log entry 117). -/
def nsym (b : List Byte) : Nat := if partSize b 8 = 0 then 0 else byteField b (partOff b 8) 4
def symBad (b : List Byte) : Option Nat :=
  let o := partOff b 8
  let n := nsym b
  let strSize := byteField b (o + 8) 4
  if partSize b 8 = 0 then none
  else if partSize b 8 < 16 ∨ byteField b (o + 4) 4 ≠ 16 + 16 * n ∨ byteField b (o + 4) 4 + strSize ≠ partSize b 8
      ∨ byteField b (o + 12) 4 ≠ 0 then some o
  else ((List.range n).find? fun i => decide (strSize ≤ byteField b (o + 16 + 16 * i) 4)).map fun i => o + 16 + 16 * i

def schedBad (b : List Byte) : Option Nat :=
  let t := (b.drop (partOff b 7)).take (partSize b 7)
  if partSize b 7 = 0 then none
  else if partSize b 7 < 16 ∨ !doveHeaderOk (t.take 16) ∨ partSize b 7 ≠ 16 + 16 * byteField t 0 2 then some (partOff b 7)
  else ((List.range (byteField t 0 2)).find? fun i =>
      !doveEntryOk (byteField t 2 1) (if i = 0 then 0 else byteField t (16 * i) 2) ((t.drop (16 + 16 * i)).take 16)).map
    fun i => partOff b 7 + 16 + 16 * i

def loadRest (b : List Byte) : Option Nat :=
  let t := (b.drop (partOff b 5)).take (partSize b 5)
  let opt := if partSize b 5 = 0 then none
    else if partSize b 5 < 16 ∨ partSize b 5 ≠ 16 + 16 * byteField t 0 1 then some (partOff b 5)
    else (optBad t).map (partOff b 5 + ·)
  let names := ((partEntries b 2 16).find? fun q => decide (nsym b ≤ byteField q.2 8 4)).map (·.1)
  [names, partBad b 4 8 (hintOk (layout b)), opt, partBad b 6 16 (footOk (layout b)), schedBad b, symBad b].findSome? id

/-! ### The loader (R72) -/

/-- The reason and index with which the loader refuses an image in a grant of `len` bytes.  DESIGN CHOICE, header bytes that lie past
the grant read as zero, so that a grant too short for MAGIC and the version gives reason 1, the lower of that and the reason 3 of an
image that runs past its grant (log entry 118). -/
def loaderCheck (b : List Byte) (len : Nat) : Option (Nat × Nat) :=
  let ws := (walkText b (imageTextLen b) (imageTextLen b) 0).1
  let fail := fun (reason : Nat) (x : Option Nat) => x.map fun i => (reason, i)
  let checks : List (Option (Nat × Nat)) :=
    [ fail 1 (loadMagic b), fail 2 (if len < imageEnd b then none else loadCrc b), fail 3 (loadDir b len), fail 4 (loadSizes b) ]
  match checks.findSome? id with
  | some x => some x
  | none => [fail 5 (loadText b), fail 6 (loadSlots ws), fail 7 (loadTokens b ws), fail 8 (loadLayout b), fail 9 (loadRest b)].findSome? id

/-- A text holds one of the words that `p` picks. -/
def textHas (ws : List TWord) (p : Instr → Bool) : Bool :=
  ws.any fun w => match decodeWords w.h (if w.len = 2 then some w.x else none) with | .ok i => p i | .error _ => false

/-- The words that use conditional streams (R245), and MJOIN (R271). -/
def isCq (i : Instr) : Bool := match i with | .vcpush _ _ _ => true | .vcpop _ _ _ => true | .vccnt _ _ _ => true | _ => false
def isJoin (i : Instr) : Bool := match i with | .mjoin _ _ _ _ => true | _ => false

/-- What the hub keeps of an image at `base` in a grant of `len` bytes. -/
def imageOf (b : List Byte) (base len : Nat) : Image :=
  let ws := (walkText b (imageTextLen b) (imageTextLen b) 0).1
  { base := base, len := len, textOff := partOff b 0, textLen := imageTextLen b, argsize := imageArgSize b
    crc := byteField b 0x14 4, dove := decide (byteField b 8 4 % 2 = 1), layout := layout b
    hints := (partEntries b 4 8).map fun q => (byteField q.2 0 1, byteField q.2 1 1, byteField q.2 4 4)
    opts := if partSize b 5 = 0 then [] else optTable ((b.drop (partOff b 5)).take (partSize b 5))
    foots := (partEntries b 6 16).map fun q => (byteField q.2 0 1, byteField q.2 1 1, byteField q.2 4 4, byteField q.2 8 4)
    usesCq := textHas ws isCq, usesGroups := textHas ws isJoin }

/-- The bytes of an image, as far as its grant goes: the whole image, which the CRC covers (R68). -/
def State.readImage (s : State) (root base len : Nat) : List Byte :=
  let h := s.vaBytes root base (min len 96)
  h ++ s.vaBytes root (base + 96) (min len (imageEnd h) - 96)

end Sys2Proof.Machine
end

