-- ==== Sys2Proof/Machine/Cards.lean ====
section
/-! DEFINITION. Task cards (R357 to R360), the argument view (R378), footprints and edges (R359, R360, R364), the home
hash and REMAP (R378), the cluster queues and their spill (R367 to R369). -/

namespace Sys2Proof.Config

/-- Byte `i` of an entry of a spill ring, whose format is the hub's own (R368, R484). -/
opaque spillByte (tick i : Nat) : Sys2Proof.Byte

end Sys2Proof.Config

namespace Sys2Proof.Machine

/-! ### The card's header (R358) -/

def Task.eclass (T : Task) : Nat := fld T.hdr 20 4
def Task.nstage (T : Task) : Nat := fld T.hdr 24 8

/-- A task that ends now ends after its DEADLINE (R366). -/
def Task.late (T : Task) (now : Nat) : Bool := decide (T.deadline ≠ 0) && decide (T.deadline < now)

/-! ### The argument view (R378) -/

/-- Bytes [o, o + n) of a task's argument view: a continuation's first 24 bytes are its payload. -/
def State.taskArg (s : State) (root : Nat) (T : Task) (o n : Nat) : List Byte :=
  let pay := (T.payload.map fun w => u64 w.toNat).flatten
  (List.range n).map fun i => if T.cont ∧ o + i < 24 then pay.getD (o + i) 0 else s.vaByte root (T.args + o + i)

/-! ### Footprints and edges -/

/-- A footprint entry of 16 bytes (R359). -/
def Foot.ofBytes (e : List Byte) : Foot :=
  ⟨byteField e 0 8, byteField e 8 6, decide (fld (byteField e 14 2) 0 1 = 1), decide (fld (byteField e 14 2) 1 1 = 1)⟩
/-- The limits of R359 on an entry, and that an entry with a length reads or writes. -/
def Foot.ok (f : Foot) : Bool :=
  decide (f.base < 2 ^ 57) && decide (f.base + f.len ≤ 2 ^ 57) && (decide (f.len = 0) || f.r || f.w)

/-- Entries that the container fills from the argument view (R360). -/
def State.fillFoots (s : State) (root : Nat) (T : Task) : List Foot :=
  (T.foots.zip (List.range 4)).map fun q =>
    if q.1.len ≠ 0 then q.1
    else match T.image.foots.find? fun e => e.1 = q.2 with
      | none => q.1
      | some (_, mode, bo, lo) =>
        ⟨ofBytes (s.taskArg root T bo 8), ofBytes (s.taskArg root T lo 8), decide (mode % 2 = 1), decide (2 ≤ mode)⟩

/-- Two entries give an edge (R364): their ranges meet and one of them writes. -/
def Foot.meets (a b : Foot) : Bool :=
  decide (a.len ≠ 0) && decide (b.len ≠ 0) && decide (a.base < b.base + b.len) && decide (b.base < a.base + a.len)
    && ((a.w && b.r) || (a.r && b.w) || (a.w && b.w))

/-- The unfinished tasks of graph `g` from which `fs` has an edge: all of them precede the new task (R364). -/
def State.edgesOf (s : State) (g : Nat) (fs : List Foot) : List Nat :=
  (s.hub.tasks.filter fun q => match q.2 with
    | some V => decide (V.graph = g) && V.unfinished && V.foots.any fun a => fs.any fun b => a.meets b
    | none => false).map (·.1)

/-! ### Home clusters (R369, R378) -/

def homeHash (va : Nat) : Nat := fld va 21 8 ^^^ fld va 29 8 ^^^ fld va 37 8 ^^^ fld va 45 8 ^^^ fld va 53 4
/-- REMAP's entry: i mod 96 until the hub has rewritten it. -/
def State.remapAt (s : State) (h : Nat) : Nat := SMap.get (h % 96) s.hub.remap h
def State.setRemap (s : State) (h c : Nat) : State :=
  { s with hub := { s.hub with remap := SMap.set (h % 96) s.hub.remap h c } }
def State.homeOf (s : State) (va : Nat) : Nat := s.remapAt (homeHash va)

/-- A cluster is gated or being gated. -/
def State.clusterDown (s : State) (c : Nat) : Bool :=
  (s.die (c / 12)).gated || (s.die (c / 12)).gating

/-- A valid tape of an id under an ASID (R330). -/
def State.findTape (s : State) (id asid : Nat) : Option Tape := s.hub.tapes.find? fun P => P.valid && decide (P.id = id) && decide (P.asid = asid)

/-- The address from which an accepted card's home is found. -/
def Task.homeVa (T : Task) : Nat := match T.foots.find? fun f => f.len ≠ 0 with | some f => f.base | none => T.args
/-- The home cluster of an accepted card. -/
def State.cardHome (s : State) (T : Task) (asid : Nat) : Nat :=
  let va := T.homeVa
  match (if T.replays then s.findTape T.tapeid asid else none) with
  | some P =>
    let c := SMap.get 1000 P.where_ 0
    if c < 96 ∧ !s.clusterDown c then c else s.homeOf va
  | none => s.homeOf va

/-! ### Queues (R367, R368) -/

/-- Entries of the spill ring of each queue: none until the region is registered. -/
def State.spillLen (s : State) : Nat := match s.hub.regs.find? fun r => r.kind = 6 with | some r => r.nent | none => 0

def Cluster.queue (C : Cluster) (p : Nat) : List Nat := SMap.get [] C.queues p
def Cluster.ring (C : Cluster) (p : Nat) : List Nat := SMap.get [] C.spill p
/-- While the on-chip part has room, the ring's head moves on chip. -/
def Cluster.refill (C : Cluster) (p : Nat) : Cluster :=
  let n := 64 - (C.queue p).length
  { C with queues := SMap.set [] C.queues p (C.queue p ++ (C.ring p).take n), spill := SMap.set [] C.spill p ((C.ring p).drop n) }

/-- The hub writes an entry into place `i` of the spill ring of queue `p` of cluster `c`: the region holds 384 such rings, by cluster and
queue (R484).  The format of an entry is the hub's own, so its bytes are free. -/
def State.spillWrite (s : State) (c p i : Nat) : State :=
  match s.hub.regs.find? fun r => r.kind = 6 with
  | some r => s.writeMem 0 4 (keyOf r.region (r.addr + ((c * 4 + p) * r.nent + i % r.nent) * 32))
      ((List.range 32).map (Config.spillByte s.tick)) false
  | none => s

/-- A new entry goes on chip while the ring is empty and there is room, else to the ring's tail; none when the ring is
full. -/
def State.putQueue (s : State) (c p t : Nat) : Option State :=
  let C := s.cluster c
  if C.ring p = [] ∧ (C.queue p).length < 64 then some (s.setCluster c { C with queues := SMap.set [] C.queues p (C.queue p ++ [t]) })
  else if (C.ring p).length < s.spillLen then
    let i := SMap.get 0 C.spillAt p
    some ((s.spillWrite c p i).setCluster c { C with
      spill := SMap.set [] C.spill p (C.ring p ++ [t]), spillAt := SMap.set 0 C.spillAt p ((i + 1) % s.spillLen) })
  else none

/-- An accepted card is held for queue `p` of cluster `c` that arrived before entry `t`: the hub's numbers are in the order of
arrival (R368). -/
def State.heldFor (s : State) (c p t : Nat) : Bool :=
  s.hub.tasks.any fun q => match q.2 with
    | some T => decide (q.1 < t) && decide (T.st = .held) && !T.cont && decide (T.home = c) && decide (T.prio = p)
    | none => false

/-- A record of the global continuation queue waits for queue `p` of cluster `c` that arrived before entry `t` (R368). -/
def State.recordFor (s : State) (c p t : Nat) : Bool :=
  s.hub.conts.any fun r => decide (r.t < t) && decide (s.homeOf r.va = c) && match s.task r.t with
    | some T => decide (T.prio = p)
    | none => false

/-- An entry that arrives now: none where it must be held, since the queue has no room or an entry that arrived before it still waits
for the queue (R368). -/
def State.pushQueue (s : State) (c p t : Nat) : Option State :=
  if s.heldFor c p t ∨ s.recordFor c p t then none else s.putQueue c p t

/-- A task enters the queue of its home cluster, or, where that cluster is down, the fallback queue of its die (R380); it
stays held while the ring is full. -/
def State.enqueueAt (s : State) (t c : Nat) (T : Task) : State :=
  if s.clusterDown c then
    let D := s.die (c / 12)
    (s.setDie (c / 12) { D with fallback := D.fallback ++ [t] }).setTask t { T with home := c, st := .queued }
  else match s.pushQueue c T.prio t with
    | some s1 => s1.setTask t { T with home := c, st := .queued }
    | none => s.setTask t { T with home := c, st := .held }

/-- Cards that the admission logic holds for a full queue follow in the order of their arrival. -/
def State.releaseHeld (s : State) : State :=
  s.hub.tasks.foldl (fun s q =>
    match s.task q.1 with
    | some T =>
      if T.st ≠ .held ∨ T.cont then s
      else if s.clusterDown T.home then s.enqueueAt q.1 T.home T
      else (match s.pushQueue T.home T.prio q.1 with
        | some s1 => s1.setTask q.1 { T with st := .queued }
        | none => s)
    | none => s) s

/-- A queue has lost entries: ring entries move on chip, held cards follow. -/
def State.settleQueue (s : State) (c p : Nat) : State := (s.setCluster c ((s.cluster c).refill p)).releaseHeld

/-- A task that ends leaves every queue in which it stands (R365, R462). -/
def State.unqueue (s : State) (t : Nat) : State :=
  let cut := fun (m : SMap (List Nat)) => m.map fun q => (q.1, q.2.erase t)
  let s1 : State := { s with
    clusters := s.clusters.map fun q => (q.1, { q.2 with queues := cut q.2.queues, spill := cut q.2.spill })
    dies := s.dies.map fun q => (q.1, { q.2 with fallback := q.2.fallback.erase t })
    hub := { s.hub with conts := s.hub.conts.filter fun r => r.t ≠ t } }
  s1.clusters.foldl (fun s q => (List.range 4).foldl (fun s p => s.setCluster q.1 ((s.cluster q.1).refill p)) s) s1 |>.releaseHeld

/-! ### Tasks -/

/-- A task as its card gives it, before it is placed (R357, R358). -/
def Task.ofCard (g card : Nat) (e : List Byte) (im : Image) (opts : List OpEnt) : Task :=
  { graph := g, card := card, cont := false, payload := [], hdr := byteField e 0 8, entry := byteField e 0x0A 2
    args := byteField e 0x10 8, deadline := byteField e 0x18 8, waitm := BitVec.ofNat 64 (byteField e 0x28 8)
    sigm := BitVec.ofNat 64 (byteField e 0x30 8)
    foots := (List.range 4).map fun i => Foot.ofBytes ((e.drop (0x40 + 16 * i)).take 16)
    shape := (List.range 4).map fun i => byteField e (0x38 + 2 * i) 2, opts := opts, ope := 0, image := im, st := .held, status := 0, units := [], ranks := [], ended := [], edges := []
    va := 0, home := 0, dispatched := 0, admitted := 0, lease := none, frozen := false, preempt := false
    took := false, reqAt := 0, bars := [], dur := 0, slot := 0, started := 0, ranFor := 0, doneCycles := 0, overrun := false
    parkedUnits := [], parkedOn := [], parkStageq := [], parkCq := [], parkGroups := []
    parkStageRel := [], parkCqRel := [], after := [], fin := [], barKnow := [], roomAt := 0 }

/-- A new task of the hub, with its number. -/
def State.addTask (s : State) (T : Task) : State × Nat :=
  let t := s.hub.nextTask
  ({ s with hub := { s.hub with nextTask := t + 1 } }.setTask t T, t)

/-- A continuation as its TCONT retires (R360, R364, R378, R381): the task of its template, its payload, its footprints and
edges; the number that TASKID shows is a continuation slot that the spec does not fix.  It starts after what the TCONT covers
(R416). -/
def State.newCont (s : State) (g card va : Nat) (payload : List Word) (after : List Nat) : State × Nat :=
  match s.graph g with
  | none => (s, 0)
  | some G =>
    match G.cards[card]? with
    | none => (s, 0)
    | some C =>
      let T := { C with cont := true, payload := payload, va := va, slot := Config.freeNat s.tick 900 % 4096 }
      let fs := s.fillFoots G.root T
      s.addTask { T with foots := fs, edges := s.edgesOf g fs, after := after }

end Sys2Proof.Machine
end

