-- ==== Sys2Proof/Machine/TaskWords.lean ====
section
/-! DEFINITION. The words of S that act on the task's graph: TCONT (R381), TEVT (R382) and TARG (R383). -/

namespace Sys2Proof.Machine

/-! ### TCONT -/

/-- Card `n` of the unit's graph is a continuation template (R376). -/
def State.isTemplate (s : State) (g n : Nat) : Bool :=
  match s.graph g with
  | some G => (match G.cards[n]? with | some T => decide (T.hdr % 256 = 1) | none => false)
  | none => false

/-- What a TCONT that S has before it covers (R416). -/
def State.contKnow (s : State) (u : Nat) : List Nat := uni (s.unit u).coveredS ((s.unit u).tokenKnow .S (s.hereS u))

/-- A record joins the global continuation queue and counts as unfinished; a graph that the host has ended takes none
(R381, R462). -/
def State.sendCont (s : State) (g n va u : Nat) (payload : List Word) (know : List Nat) : State :=
  match s.graph g with
  | none => s
  | some G =>
    if G.ending then s
    else
      let q := (s.setGraph g { G with unfinished := G.unfinished + 1 }).newCont g n va payload know
      { q.1 with hub := { q.1.hub with conts := q.1.hub.conts ++ [⟨g, n, va, payload, u, q.2⟩] } }

/-- TCONT (R381): the record is sent as the word retires, at once where its POST finds room. -/
def execTcont (tk : Tok) (d a b : Nat) (m : XM) (s : State) : Out :=
  s.sSerial tk m.grd [32 + a, b, d, d + 1, d + 2, d + 3] fun s U r f =>
    let u := s.who.1
    let c := U.kS a
    let o := U.memOff b m
    let info := capInfo a 1 r.addr
    match c.check o 1 0 with
    | .error e => .trap e o info
    | .ok va =>
      if c.space ≠ 0 then .trap .kperm o info
      else
        let t := (U.xS d).toNat
        if 4096 ≤ t ∨ !s.isTemplate U.id.graph t then r.trapHere .und
        else if 4096 ≤ ((s.graph U.id.graph).map fun G => G.unfinished).getD 0 ∨ 4096 ≤ s.hub.conts.length then
          .stall (s.beginOwn u .S)
        else if U.work.sops ≠ [] ∨ !s.mem.releasedAt u 3 then .stall s
        else
          let pay := [U.xS (d + 1), U.xS (d + 2), U.xS (d + 3)]
          if U.postRoom f then .go (s.sendCont U.id.graph t (va % 2 ^ 64) u pay (s.contKnow u)) f
          else .go s { f with eff := [.tcont U.id.graph t (va % 2 ^ 64) pay (s.contKnow u)] }

/-! ### TEVT -/

def execTevt (tk : Tok) (d act ev : Nat) (g : XP) (s : State) : Out :=
  s.sWord tk g [] fun s U _ f =>
    let op : SOp := ⟨f.id, .tevt act, ⟨8, 0, none⟩, 0, false, 3, d, BitVec.ofNat 64 ev, 0, Cap.null, none, false⟩
    .go (s.setUnit s.who.1 { U with work := { U.work with sops := U.work.sops ++ [op] } }) (f.loading [d])

/-- What the setting of an event of a graph covers (R416). -/
def State.eventKnow (s : State) (g ev : Nat) : List Nat := (s.graph g).elim [] fun G => SMap.get [] G.evKnow ev

/-- The oldest TEVT of a unit is performed at the hub; a .SET is a release at device scope, a .RD that returns 1 an acquire. -/
def State.performTevt (s : State) (u : Nat) : State :=
  let U := s.unit u
  let isT := fun (o : SOp) => match o.kind with | .tevt _ => true | _ => false
  match U.work.sops.find? isT with
  | none => s
  | some o =>
    let before := U.work.sops.takeWhile fun x => x.id ≠ o.id
    let act := match o.kind with | .tevt a => a | _ => 0
    if act = 1 ∧ (before ≠ [] ∨ !s.mem.releasedAt u 3) then s
    else
      let ev := o.v.toNat
      let old : Bool := match s.graph U.id.graph with | some G => G.events.getLsbD ev | none => false
      let bit := BitVec.ofNat 64 (2 ^ ev)
      let s1 := match s.graph U.id.graph with
        | some G => s.setGraph U.id.graph
            { G with
              events := if act = 1 then G.events ||| bit else if act = 2 then G.events &&& ~~~bit else G.events
              evKnow := if act = 1 then G.tellEvent ev (U.relIds o.id) else if act = 2 then SMap.erase G.evKnow ev else G.evKnow }
        | none => s
      let s2 := s1.forgetSop u o.id
      let ids := if act = 0 ∧ old = true then s.eventKnow U.id.graph ev else []
      s2.setUnit u (((s2.unit u).eventDone o.id ids).give o.id [.x o.d (boolWord old)])

def execTevtPerformed (u : Nat) (s : State) : Out := unitEvent u s (s.performTevt u)

/-! ### TARG -/

def execTarg (tk : Tok) (d a sx size : Nat) (g : XP) (s : State) : Out :=
  s.sWord tk g [a] fun s U r f =>
    let u := s.who.1
    let o := (U.xS a).toNat
    let n := 2 ^ size
    if o % n ≠ 0 then .trap .align o (capInfo 0 n r.addr)
    else if U.id.argsize < o + n then .trap .kbound o (capInfo 0 n r.addr)
    else if U.acquiring then .stall s
    else
      let va := (U.id.args + o) % 2 ^ 64
      match s.translate u 0 va .read with
      | .miss => .stall (s.startWalk u va)
      | .mig =>
        let op : SOp := ⟨f.id, .targ, ⟨0, va, none⟩, n, decide (sx = 1), 0, d, 0, 0, Cap.null, none, false⟩
        .go ((s.setUnit u { U with work := { U.work with sops := U.work.sops ++ [op] } }).joinReplay u f.id va) (f.loading [d])
      | .xlat l rs => .trapAt (s.dropFault u va) .xlat va (l + rs * 16)
      | .ok key =>
        match s.poisonCheck u key n with
        | some s1 => .jump s1
        | none =>
          let v := loaded (ofBytes (s.argView U key o n)) n (sx = 1)
          let op : SOp := ⟨f.id, .targ, ⟨0, va, some key⟩, n, false, 0, d, v, 0, Cap.null, none, false⟩
          .go ((s.touch key).setUnit u { U with work := { U.work with sops := U.work.sops ++ [op] } }) (f.loading [d])

end Sys2Proof.Machine
end

