-- ==== Sys2Proof/Machine/TapeWords.lean ====
section
/-! DEFINITION. The tape words of S (R354 to R356) and the invalidation of tapes (R348). -/

namespace Sys2Proof.Machine

def execJguard (tk : Tok) (a size : Nat) (s : State) : Out :=
  s.sWord tk none [a] fun s U r f =>
    let o := (U.xS a).toNat
    let n := 2 ^ size
    if 4 < size ∨ o % n ≠ 0 ∨ U.id.argsize < o + n then r.trapHere .und
    else .go (if U.recording then s.addGuard U.id.task o n else s) f

/-- JPATCH while recording: the slot of the field, a new one if it has none. -/
def State.bindSlot (s : State) (u d o : Nat) : State :=
  let U := s.unit u
  let t := U.id.task
  let held := match U.id.argcaps.find? fun q => q.1 = o with | some q => decide (q.2 = U.kS d) && q.2.tag | none => false
  if !held then s.abandon t 3
  else match s.recTape t with
    | none => s
    | some T =>
      match slotOf T o with
      | none => s.abandon t 2
      | some (i, T1) =>
        let s1 := s.setRecTape t T1
        s1.setUnit u ((s1.unit u).markK d (.slot i 0))

def execJpatch (tk : Tok) (d a : Nat) (s : State) : Out :=
  s.sWord tk none [a, 32 + d] fun s U r f =>
    let o := (U.xS a).toNat
    let lay := ((s.task U.id.task).map fun T => T.image.layout).getD []
    if !(lay.any fun q => decide (q.1 = o) && q.2.2) then r.trapHere .und
    else .go (if U.recording then s.bindSlot s.who.1 d o else s) f

/-- JMARK: the mark waits for the five other engines to pass it. -/
def execJmark (tk : Tok) (imm : Nat) (s : State) : Out :=
  s.sWord tk none [] fun s U _ f =>
    if U.inHandler then .go s f
    else .go (s.setUnit s.who.1 { U with tape := { U.tape with markPend := U.tape.markPend ++ [(imm, others)] } }) f

/-- The tape that the unit's task records, or the one that it replays. -/
def State.tapeOf (s : State) (t : Nat) : Option Tape :=
  match s.recTape t with
  | some T => some T
  | none => s.hub.tapes.find? fun T => T.heldBy.contains t

def execJstat (tk : Tok) (d imm : Nat) (s : State) : Out :=
  s.sWord tk none [] fun s U _ f =>
    let T := s.tapeOf U.id.task
    let v := match imm with
      | 0 => U.tapestat
      | 1 => (T.map fun T => T.guards.length).getD 0
      | 2 => (T.map fun T => T.slots.length).getD 0
      | _ => (128 - s.blocksUsed (clusterOf s.who.1)) * 256
    .go s { f with eff := [.x d (BitVec.ofNat 64 v)], wr := [d] }

/-! ### Invalidation (R348, R349) -/

/-- TAPECTL.NOREC and JDROP (R352). -/
def State.norec (s : State) (u : Nat) : State :=
  let U := s.unit u
  let s1 := s.setUnit u { U with csr := { U.csr with norec := true } }
  if U.tape.run = 1 then s1.abandon U.id.task 7 else s1
def State.jdrop (s : State) (u : Nat) : State :=
  let U := s.unit u
  s.invalidTapes fun T => decide (T.id = U.csr.tapeid) && decide (T.asid = U.id.asid)

end Sys2Proof.Machine
end

