-- ==== Sys2Proof/Machine/EnergyWords.lean ====
section
/-! DEFINITION. Operating points of clusters (R384, R385) and the words of S that act on them: OPREQ (R403), OPREL (R404),
OPGET (R405), with the end of a relock and of a voltage ramp. -/

namespace Sys2Proof.Machine

/-! ### Changes of operating point (R385) -/

/-- The clock of an operating point in MHz (R384). -/
def clockMHz (op : Nat) : Nat := ([400, 600, 800, 950, 1100, 1300, 1450, 1600] : List Nat).getD op 400

/-- A change that is due starts: raising ramps the voltage first, lowering relocks first. -/
def Clock.start (k : Clock) : Clock :=
  if k.relock || k.ramp then k
  else if k.op < k.target then { k with ramp := true, phase := k.target }
  else if k.target < k.op then { k with relock := true, phase := k.target }
  else k

/-- A new target; a change in progress ends first. -/
def Clock.aim (k : Clock) (q : Nat) : Clock := { k with target := q }.start

/-- The voltage has ramped: up, and the relock follows, or down, and the change is whole. -/
def Clock.rampDone (k : Clock) : Clock :=
  if !k.ramp then k
  else if k.op < k.phase then { k with ramp := false, relock := true }
  else { k with ramp := false }.start

/-- The clock has relocked: a lowered cluster's voltage ramps down now. -/
def Clock.relockDone (k : Clock) : Clock :=
  if !k.relock then k
  else if k.phase < k.op then { k with relock := false, op := k.phase, ramp := true }
  else { k with relock := false, op := k.phase }.start

/-- No change is in progress or due. -/
def Clock.steady (k : Clock) : Bool := !k.relock && decide (k.op = k.target)

/-- The highest point that a cluster may take under a boost lease (R25, R384; log entry 81): OPMAX where a cap holds it below 6. -/
def Clock.limit (k : Clock) : Nat := if k.opmax < 6 then k.opmax else 7

/-- The units of a cluster. -/
def clusterUnits (c : Nat) : List Nat := (List.range 8).map fun i => c * 8 + i

/-- The units of a cluster that hold a task stop or go on with its clock (R385). -/
def State.clockUnits (s : State) (c : Nat) (stop : Bool) : State :=
  (clusterUnits c).foldl (fun s u => if (s.unit u).run = .free then s else s.setUnit u { s.unit u with stopped := stop }) s

def State.setClock (s : State) (c : Nat) (k : Clock) : State :=
  let C := s.cluster c
  let s1 := s.setCluster c { C with clk := k }
  if k.relock = C.clk.relock then s1 else s1.clockUnits c k.relock
/-- A cluster is moved to a point. -/
def State.aimCluster (s : State) (c q : Nat) : State := s.setClock c ((s.cluster c).clk.aim q)

/-! ### Leases (R402) -/

/-- The clusters of a task. -/
def Task.clusters (T : Task) : List Nat := (T.units.map clusterOf).eraseDups
/-- The operating-point entry that a task runs on. -/
def Task.entryOp (T : Task) : Nat := (T.opts.getD T.ope ⟨0, 0, 1, 1, 1⟩).op

/-- The clusters of a task have reached their points. -/
def State.steadyTask (s : State) (T : Task) : Bool := T.clusters.all fun c => (s.cluster c).clk.steady

/-- The points to which the hub moves a task's clusters: the entry's or a lease's, below any cap in force. -/
def State.aimTask (s : State) (T : Task) (q : Nat) : State :=
  T.clusters.foldl (fun s c =>
    let k := (s.cluster c).clk
    s.aimCluster c (min q (if q = T.entryOp then k.opmax else k.limit))) s

/-- A lease ends: its clusters go back to the entry's point. -/
def State.dropLease (s : State) (t : Nat) : State :=
  match s.task t with
  | some T => if T.lease.isSome then (s.setTask t { T with lease := none, frozen := false }).aimTask T T.entryOp else s
  | none => s

/-- A S operation that stalls S until relocks end: OPREQ with a grant, OPREL. -/
def leaseOp (id : Nat) (k : SKind) (d : Nat) (v : Word) : SOp :=
  ⟨id, k, ⟨8, 0, none⟩, 0, false, 0, d, v, 0, Cap.null, none, false⟩

/-- An OPREQ or OPREL of a unit retires once every relock of its task has ended; a lease runs from then. -/
def State.leaseSettle (s : State) (u : Nat) : State :=
  let U := s.unit u
  match U.work.sops.find? fun o => o.kind == .opreq || o.kind == .oprel, s.task U.id.task with
  | some o, some T =>
    if !s.steadyTask T then s
    else
      let s1 := match o.kind, T.lease with
        | .opreq, some (q, 0) => s.setTask U.id.task { T with lease := some (q, s.time.toNat + o.v.toNat) }
        | _, _ => s
      let s2 := s1.forgetSop u o.id
      s2.setUnit u ((s2.unit u).give o.id (if o.kind = .opreq then [.x o.d 0] else []))
  | _, _ => s

/-- Another task has a unit on a cluster of this task. -/
def State.sharesCluster (s : State) (t : Nat) (T : Task) : Bool :=
  s.hub.tasks.any fun q => decide (q.1 ≠ t) &&
    (match q.2 with | some V => V.units.any fun u => T.clusters.contains (clusterOf u) | none => false)

/-- A thermal emergency is in force on some die (R409). -/
def State.tooHotNow (s : State) : Bool := (List.range 8).any fun d => (s.die d).emerg

/-- The status of a request for point `q` (R402, R403): no curtailment grade, thermal emergency on any die, or cap on a cluster of the
task.  DEDUCED, OPMAX, which R406 gives as the highest point without a lease, stands
against OP7 only where it is below its full value 6: else the point that R384 gives to a boost lease could never be reached (log
entry 81). -/
def State.leaseStatus (s : State) (t : Nat) (T : Task) (q : Nat) : Nat :=
  if T.lease.isSome then 5
  else if q ≤ T.entryOp then 4
  else if s.sharesCluster t T then 2
  else if s.camp.grade ≠ 0 ∨ s.tooHotNow ∨ T.clusters.any fun c =>
      (s.cluster c).clk.therm.isSome || decide ((s.cluster c).clk.limit < q) then 3
  else if !Config.freeBool s.tick 800 then 1
  else 0

/-- OPREQ: the decision, and with a grant the relocks, during which S stalls; where every cluster stands at its point already there is
none to wait for. -/
def execOpreq (tk : Tok) (d q imm32 : Nat) (s : State) : Out :=
  s.sSerial tk none [] fun s U r f =>
    let u := s.who.1
    match s.task U.id.task with
    | none => r.trapHere .und
    | some T =>
      let st := s.leaseStatus U.id.task T q
      if imm32 = 0 ∨ 10000 < imm32 then r.trapHere .und
      else if st ≠ 0 then .go s { f with eff := [.x d (BitVec.ofNat 64 st)], wr := [d] }
      else
        let s1 := (s.setTask U.id.task { T with lease := some (q, 0) }).aimTask T q
        let V := s1.unit u
        if s1.steadyTask T then
          .go (s1.setTask U.id.task { T with lease := some (q, s.time.toNat + imm32 * 1000) }) { f with eff := [.x d 0], wr := [d] }
        else .go (s1.setUnit u { V with work := { V.work with
          sops := V.work.sops ++ [leaseOp f.id .opreq d (BitVec.ofNat 64 (imm32 * 1000))] } }) (f.loading [d])

def execOprel (tk : Tok) (s : State) : Out :=
  s.sSerial tk none [] fun s U _ f =>
    let u := s.who.1
    match (s.task U.id.task).bind fun T => T.lease.map fun _ => T with
    | none => .go s f
    | some T =>
      let s1 := s.dropLease U.id.task
      let V := s1.unit u
      if s1.steadyTask T then .go s1 f
      else .go (s1.setUnit u { V with work := { V.work with sops := V.work.sops ++ [leaseOp f.id .oprel 0 0] } }) (f.loading [])

/-- The band of a point, at least 10 W (R390); BAND 0 means 2.00 %.  Power is held in units of 0.1 mW, in which a cap in W times a band
in 0.01 % is exact. -/
def bandP (cap band : Nat) : Nat := max (cap * (if band = 0 then 200 else band)) 100000
/-- The band in whole W, as OPGET gives it (R405).  DESIGN CHOICE, a part of a W is dropped (log entry 143). -/
def bandW (cap band : Nat) : Nat := bandP cap band / 10000

/-- The value that OPGET reads (R405); with no curve in force the spec gives no CAP, FLOOR, band or SEQ. -/
def State.opget (s : State) (u imm : Nat) : Nat :=
  let lease := ((s.task (s.unit u).id.task).bind fun T => T.lease.map fun l => (l.2, T.frozen)).getD (0, true)
  let ofCurve := fun (v : Nat) => if s.camp.curve.isSome then v else Config.freeNat s.tick (810 + imm)
  match imm with
  | 0 => s.opstate u
  | 1 => (if lease.2 then lease.1 else lease.1 - s.time.toNat) / 1000
  | 2 => ofCurve s.camp.cap
  | 3 => ofCurve ((s.camp.curve.map fun c => c.floor).getD 0)
  | 4 => ofCurve (bandW s.camp.cap s.camp.band)
  | _ => ofCurve ((s.camp.curve.map fun c => c.seq).getD 0)

def execOpget (tk : Tok) (d imm : Nat) (g : XP) (s : State) : Out :=
  s.sWord tk g [] fun s _ _ f =>
    .go s { f with eff := [.x d (BitVec.ofNat 64 (s.opget s.who.1 imm))], wr := [d] }

/-! ### Relocks and ramps -/

/-- A relock ends: a recording that runs on the cluster is abandoned (R347), words whose replies came meanwhile retire, and OPREQ and
OPREL that wait for it may retire. -/
def State.relocked (s : State) (c : Nat) : State :=
  let k := (s.cluster c).clk
  if !k.relock then s
  else
    let s1 := s.setClock c k.relockDone
    let s2 := (clusterUnits c).foldl (fun s u =>
      if (s.unit u).tape.run = 1 ∧ (s.unit u).run ≠ .loading then s.abandon (s.unit u).id.task 6 else s) s1
    let s3 := (clusterUnits c).foldl (fun s u =>
      if (s.unit u).run = .free then s else s.setUnit u (engs.foldl (fun U e => U.retire e) (s.unit u))) s2
    s3.units.foldl (fun s q => s.leaseSettle q.1) s3

def execRelockDone (c : Nat) (s : State) : Out := .next (s.relocked c)
def execVoltageRampDone (c : Nat) (s : State) : Out := .next (s.setClock c (s.cluster c).clk.rampDone)

end Sys2Proof.Machine
end

