-- ==== Sys2Proof/Machine/Csr.lean ====
section
/-! DEFINITION. CSRR and CSRW (R452): every system register of R58 under its access codes (R9), and the writes of STATUS
and TAPECTL that act (R352, R432, R447). -/

namespace Sys2Proof.Machine

/-- CSRR: the register as it stands when the word issues. -/
def execCsrr (tk : Tok) (d csr : Nat) (s : State) : Out :=
  s.sWord tk none [] fun s _ _ f =>
    .go s { f with eff := [.x d (BitVec.ofNat 64 (s.csr s.who.1 csr))], wr := [d] }

/-- The value written differs from the current value in an RWS field (R452). -/
def UnitSt.rwsChange (U : UnitSt) (csr v : Nat) : Bool :=
  match csr with
  | 0x000 => decide (fld v 4 2 ≠ 0)
  | 0x004 => decide (fld v 0 10 ≠ U.csr.vecS)
  | 0x011 => decide (fld v 0 17 ≠ U.csr.pdLimit)
  | 0x070 => decide (fld v 16 1 ≠ 0) || decide (fld v 0 16 ≠ U.csr.tapeid)
  | _ => false

/-- The frame would pass the end of the unit scratchpad (R438). -/
def frameTooLong (tframe limit : Nat) : Bool := decide (0x100000 < tframe * 4096 + flen limit)

/-- STATUS.PARKD: the unit stops, and the pre-emption request is spent (R447, R448); the hub keeps the rest of it once what it
has in flight has ended (R399). -/
def State.parkUnit (s : State) (u : Nat) : State :=
  let U := s.unit u
  s.setUnit u
    { U with run := .parked, csr := { U.csr with preq := false, pdRemain := 0 }, trap := { U.trap with took := false } }

/-- STATUS.ABORT: every unit of the task stops and it ends with FAULT (R447). -/
def State.abortTask (s : State) (u : Nat) : State := (s.setUnit u (s.unit u).halt).failTask (s.unit u).id.task stFault

/-- What a CSRW does beyond its register: STATUS and TAPECTL.  DESIGN CHOICE, a write of STATUS with both ABORT and PARKD set
ends the task: ABORT wins and PARKD does nothing (log entry 113). -/
def State.csrActs (s : State) (u csr v : Nat) : State :=
  match csr with
  | 0x000 => if fld v 4 1 = 1 then s.abortTask u else if fld v 5 1 = 1 then s.parkUnit u else s
  | 0x070 =>
    let s1 := if fld v 16 1 = 1 ∧ (s.unit u).csr.mode then s.jdrop u else s
    if fld v 17 1 = 1 then s1.norec u else s1
  | _ => s

/-- A user-mode write leaves the RWS fields as they are; those that would change have trapped. -/
def State.csrWrite (s : State) (u csr v : Nat) : State :=
  (s.setUnit u ((s.unit u).csrSet csr v)).csrActs u csr v

/-- CSRW: it acts when it retires, after every earlier S word (R83, R300, R452).  Where its POST finds room that is at once; where the
FIFO is full it is once the token has been pushed. -/
def execCsrw (tk : Tok) (d csr : Nat) (s : State) : Out :=
  s.sSerial tk none [d] fun s U r f =>
    let v := (U.xS d).toNat
    if !U.csr.mode ∧ U.rwsChange csr v then
      .trap .kperm (Config.freeNat s.tick 820 % 2 ^ 64) (Config.freeNat s.tick 821 % 2 ^ 16 + r.addr % 65536 * 2 ^ 32)
    else if csr = 0x002 ∧ frameTooLong (fld v 12 8) U.csr.slipw then r.trapHere .und
    else if csr = 0x010 ∧ frameTooLong U.csr.tframe (clampSlip (fld v 0 13)) then r.trapHere .und
    else if U.postRoom f then .go (s.csrWrite s.who.1 csr v) f
    else .go s { f with eff := [.csrw csr v, .csract csr v] }

/-- The CSRW that S of unit `u` has before it, if it writes a register with the given bits set. -/
def State.csrwHere (s : State) (u csr bits : Nat) : Option (Tok × Nat) :=
  match s.fetchS u with
  | .word (.csrw tk d n) => if n = csr ∧ (((s.unit u).xS d).toNat &&& bits) ≠ 0 then some (tk, d) else none
  | _ => none

/-- The write of STATUS or TAPECTL that sets a bit, as a step of its own: the CSRW that stands before S runs. -/
def State.csrStep (s : State) (u csr bits : Nat) : Out :=
  if 768 ≤ u then .fault (.noSuchUnit u)
  else match s.csrwHere u csr bits with
    | some (tk, d) => if s.runs u then execCsrw tk d csr { s with who := (u, .S) } else .next s
    | none => .next s

def execStatusParkd (u : Nat) (s : State) : Out := s.csrStep u 0x000 32
def execStatusAbort (u : Nat) (s : State) : Out := s.csrStep u 0x000 16
def execTapectlNorec (u : Nat) (s : State) : Out := s.csrStep u 0x070 (2 ^ 17)
def execTapectlJdrop (u : Nat) (s : State) : Out := s.csrStep u 0x070 (2 ^ 16)

end Sys2Proof.Machine
end

