-- ==== Sys2Proof/Machine/TrapWords.lean ====
section
/-! DEFINITION. The trap words of S: TRAP (R445), RETI (R442), DECLINE (R444), CTXSAVE and CTXLOAD (R450, R451); and the
events that enter a handler, end a watched wait, and push a token that waited (R303, R305, R433). -/

namespace Sys2Proof.Config

/-- Byte `i` of the parts of a context image whose layout the spec does not give (R451). -/
opaque ctxByte (tick i : Nat) : Sys2Proof.Byte

/-- What the first eight of these bytes begin from: no two saves write the same there. -/
opaque ctxBase : Nat

end Sys2Proof.Config

namespace Sys2Proof.Machine

/-! ### TRAP, RETI, DECLINE -/

/-- TRAP: it retires, with its POST, and the trap is taken with S's PC at the word after it. -/
def execTrap (tk : Tok) (imm : Nat) (s : State) : Out :=
  s.sSerial tk none [] fun s U r f =>
    if !U.postRoom f then .stall s
    else .jump ((s.issue s.who.1 .S r tk f ⟨none, []⟩ none).takeTrap s.who.1 ⟨.swtrap, 0, r.addr, r.hdr + imm * 2 ^ 32⟩)

/-- After the return to the task (R323): a BAR that is not complete is issued again, with its scope judged on the placement that
the task has now and its release made before it arrives (R162); what can retire retires.  DESIGN CHOICE, a BAR whose scope no longer
holds leaves the replay queue as UND is taken, so that RETI from that handler goes on past it (log entry 49). -/
def State.afterReti (s : State) (u : Nat) : State :=
  let U := s.unit u
  let s1 := match U.bar with
    | some (n, scope, false) =>
      if s.scopeHolds u scope then s.barAgain u n
      else
        match U.work.fl.find? fun (f : Flight) => isBar f.hdr with
        | some f =>
          let V := { U with bar := none, work := { U.work with fl := U.work.fl.filter fun (g : Flight) => g.id ≠ f.id } }
          (s.setUnit u V).takeTrap u ⟨.und, 0, f.addr, f.hdr⟩
        | none => s
    | some (_, _, true) => s.setUnit u { U with bar := none }
    | none => s
  let V := s1.unit u
  (s1.setUnit u (engs.foldl (fun X e => X.retire e) V)).leaseSettle u

/-- A pre-emption request that the hub held is set on the unit, and PDEADLINE counts from here (R448). -/
def State.heldRequest (s : State) (u : Nat) : State :=
  let U := s.unit u
  match s.task U.id.task with
  | some T =>
    if T.preempt ∧ !T.took ∧ !U.csr.preq then
      (s.setUnit u { U with csr := { U.csr with preq := true, pdRemain := U.csr.pdLimit } }).setTask U.id.task
        { T with reqAt := if T.reqAt = 0 then s.time.toNat else T.reqAt }
    else s
  | none => s

def execReti (tk : Tok) (s : State) : Out :=
  s.sSerial tk none [] fun s U r _ =>
    let u := s.who.1
    if !U.inHandler then r.trapHere .und
    else if !s.frameOk u then r.trapHere .und
    else if U.trap.depth = 2 then .jump ((s.retiNested u).heldRequest u)
    else .jump (((s.retiTask u).heldRequest u).afterReti u)

/-- DECLINE: a user handler passes the trap to the supervisor, the frame kept. -/
def execDecline (tk : Tok) (s : State) : Out :=
  s.sSerial tk none [] fun s U r _ =>
    if U.csr.uh ∧ !U.csr.mode ∧ U.trap.depth = 1 then
      .jump (s.setUnit s.who.1 ({ U with csr := { U.csr with cause := U.csr.cause ||| 0x4000 } }.setRedir .S none).enterSuper)
    else r.trapHere .und

/-! ### The context image (R451) -/

def ctxLen : Nat := 0x322000

/-- Bytes of those parts, from 0x400. -/
def ctxOpen : Nat := 0x1240

/-- Bits of the banks that a save writes: those that are not Off. -/
def UnitSt.savedBanks (U : UnitSt) : Nat :=
  (allBanks.map fun q => if (U.bank q.1 q.2).st = .off then 0 else 2 ^ (q.1 * 8 + q.2)).sum
/-- Retain banks, which the save wakes and lets down again. -/
def UnitSt.retainBanks (U : UnitSt) : Nat :=
  (allBanks.map fun q => if (U.bank q.1 q.2).st = .retain then 2 ^ (q.1 * 8 + q.2) else 0).sum

/-- The header, the registers and the system registers of the image, as (offset, bytes). -/
def ctxFixed (U : UnitSt) : List (Nat × List Byte) :=
  [ (0, pad 64 (u32 0x31585443 ++ u32 1 ++ u32 ctxLen ++ u32 U.savedBanks ++ u64 U.bankstate ++ u64 U.bind.toNat
      ++ u64 U.bankalloc ++ u64 U.fallstate)),
    (0x40, ((List.range 32).map fun i => u64 (U.regs.getX i).toNat).flatten),
    (0x140, ((List.range 16).map fun i => (U.regs.getK i).bytes).flatten),
    (0x240, u64 (U.regs.p.toNat &&& 0x7FFFFE) ++ u64 U.csr.slipw ++ u64 U.pdeadline ++ u64 U.csr.tokwd
      ++ u64 U.csr.vstat.toNat ++ u64 U.tapectl ++ u64 U.csr.rcstat.toNat ++ u64 (U.csr.tframe * 4096)
      ++ u64 (U.csr.vecU + (if U.csr.vecEn then 2 ^ 31 else 0))),
    (0x1640, List.replicate 0x9C0 0) ]

/-- The bytes of those parts: free values, which no other save shares. -/
def ctxBytes (tick : Nat) : List Byte :=
  u64 ((Config.ctxBase + tick) % 2 ^ 64) ++ (List.range (ctxOpen - 8)).map fun i => Config.ctxByte tick i

/-- The saved register banks. -/
def ctxBanks (U : UnitSt) : List (Nat × List Byte) :=
  ((List.range 8).filter fun b => decide ((U.bank 0 b).st ≠ .off)).map fun b =>
    (0x2000 + b * 0x4000, ((List.range 4096).map fun i => u32 (SMap.get (0 : Word32) U.elems (b * 4096 + i)).toNat).flatten)

/-- The scratchpad ranges that an image holds with their place in it: saved unit scratchpad banks and the B-store. -/
def ctxRanges (u saved : Nat) : List (Nat × Nat × Nat) :=
  (((List.range 16).filter fun j => decide (fld saved (8 + j) 1 = 1)).map fun j =>
      (0x22000 + j * 0x10000, localKey u 1 (j * 0x10000), 0x10000)) ++ [(0x122000, localKey u 4 0, 0x200000)]

/-- Bytes written into an image whose place is a list of pieces (key, length), from offset `off`. -/
def State.ctxPut (s : State) (u : Nat) : List (Nat × Nat) → Nat → List Byte → State
  | [], _, _ => s
  | (k, n) :: r, off, bs =>
    if n ≤ off then s.ctxPut u r (off - n) bs
    else
      let m := min bs.length (n - off)
      let s1 := if m = 0 then s else s.writeMem u 3 (k + off) (bs.take m) false
      s1.ctxPut u r 0 (bs.drop m)

/-- The key of an image's byte. -/
def ctxKey : List (Nat × Nat) → Nat → Nat
  | [], _ => 0
  | (k, n) :: r, off => if off < n then k + off else ctxKey r (off - n)

/-- Sixteen bytes of an image get a tag with their capability. -/
def State.ctxTag (s : State) (u : Nat) (l : List (Nat × Nat)) (off : Nat) (bs : List Byte) : State :=
  { s with mem := s.mem.writeTag u 3 (ctxKey l off) bs true }

/-- A range of memory copied into the image, with tags. -/
def State.ctxCopyOut (s : State) (u : Nat) (l : List (Nat × Nat)) (q : Nat × Nat × Nat) : State :=
  let s1 := s.ctxPut u l q.1 (s.mem.read (.unit u) q.2.1 q.2.2)
  (List.range (q.2.2 / 16)).foldl (fun (s : State) i =>
    if s.mem.tagAt (.unit u) (q.2.1 + 16 * i) then s.ctxTag u l (q.1 + 16 * i) (s.mem.read (.unit u) (q.2.1 + 16 * i) 16)
    else s) s1

/-- CTXSAVE's write of the image: banks that were in Retain are let down again. -/
def State.ctxSave (s : State) (u id retain : Nat) (l : List (Nat × Nat)) : State :=
  let U0 := s.unit u
  let U := allBanks.foldl (fun V q =>
    if fld retain (q.1 * 8 + q.2) 1 = 1 then V.setBank q.1 q.2 { V.bank q.1 q.2 with st := .retain, wake := 0 } else V) U0
  let s0 := s.setUnit u U
  let bytes := ctxBytes s.tick
  let part : CtxPart := ⟨bytes, U.streams, U.wins, U.bsets, U.fade, U.group⟩
  let s1 := (ctxFixed U ++ [(0x400, bytes)] ++ ctxBanks U).foldl (fun (s : State) (q : Nat × List Byte) => s.ctxPut u l q.1 q.2) s0
  let s2 := (List.range 16).foldl (fun (s : State) i =>
    if (U.regs.getK i).tag then s.ctxTag u l (0x140 + 16 * i) (U.regs.getK i).bytes else s) s1
  let s3 := (ctxRanges u U.savedBanks).foldl (fun (s : State) q => s.ctxCopyOut u l q) s2
  let s4 : State := { s3 with hub := { s3.hub with ctxs := part :: s3.hub.ctxs } }
  let s5 := s4.forgetSop u id
  s5.setUnit u ((s5.unit u).give id [])

/-- A supply state of its code (R132). -/
def supplyCode (n : Nat) : Supply := match n with | 0 => .full | 1 => .retain | 2 => .off | _ => .waking

/-- Bytes of an image. -/
def State.ctxRead (s : State) (u : Nat) (l : List (Nat × Nat)) (off n : Nat) : List Byte :=
  (List.range n).map fun i => s.mem.byte (.unit u) (ctxKey l (off + i))
def State.ctxNum (s : State) (u : Nat) (l : List (Nat × Nat)) (off n : Nat) : Nat := ofBytes (s.ctxRead u l off n)

/-- The header checks of CTXLOAD. -/
def State.ctxOk (s : State) (u : Nat) (l : List (Nat × Nat)) : Bool :=
  decide (s.ctxNum u l 0 4 = 0x31585443) && decide (s.ctxNum u l 4 4 = 1) && decide (s.ctxNum u l 8 4 = ctxLen)
    && decide (s.ctxNum u l 12 4 < 2 ^ 24) && decide (fld (s.ctxNum u l 0x10 8) 48 16 = 0) && decide (s.ctxNum u l 0x18 8 < 2 ^ 8)
    && decide (s.ctxNum u l 0x20 8 < 2 ^ 17) && decide (fld (s.ctxNum u l 0x28 8) 48 16 = 0) && decide (s.ctxNum u l 0x30 16 = 0) && decide (s.ctxNum u l 0x1640 0x9C0 = 0)

/-- The part of an image without a given layout, as a load finds it: what the save put there, if the bytes are still the
saved ones; streams, windows and matrix state are as at dispatch otherwise. -/
def State.ctxPart (s : State) (u : Nat) (l : List (Nat × Nat)) : CtxPart :=
  let bs := s.ctxRead u l 0x400 ctxOpen
  (s.hub.ctxs.find? fun p => p.bytes = bs).getD ⟨bs, [], [], [], 0x3F800000, none⟩

/-- A bank's state after a load: saved banks as recorded, the others Off. -/
def UnitSt.ctxBank (U : UnitSt) (saved state falls : Nat) (q : Nat × Nat) : UnitSt :=
  let i := q.1 * 8 + q.2
  let st := if fld saved i 1 = 1 then supplyCode (fld state (2 * i) 2) else .off
  U.setBank q.1 q.2 ⟨st, supplyCode (fld falls (2 * i) 2), false, if st = .waking then 24 else 0⟩

/-- Bits of VSTAT and RCSTAT that are not reserved (R82, R427). -/
def vstatBits : Word := 0x9CDF
def rcstatBits : Word := 0xFFFFFFFF0000

/-- Unit scratchpad banks that an image does not hold lose their contents with the state Off (R135, R451). -/
def wipeUnsaved (m : Mem) (u saved : Nat) : Mem :=
  ((List.range 16).filter fun j => decide (fld saved (8 + j) 1 = 0)).foldl (fun m j => m.wipe (localKey u 1 (j * 65536)) 65536) m

/-- CTXLOAD's restore of every item but x24 to x31, k14 and k15; of reserved bits nothing is taken (R10).  The image's BANKALLOC says
which duplicates are current; one that the restored banks do not allow is not (R220). -/
def State.ctxRestore (s : State) (u id : Nat) (l : List (Nat × Nat)) : State :=
  let U := s.unit u
  let num := fun o n => s.ctxNum u l o n
  let saved := num 12 4
  let x := (List.range 24).foldl (fun r i => Regs.setX r i (BitVec.ofNat 64 (num (0x40 + 8 * i) 8))) U.regs
  let k := (List.range 14).foldl (fun r i => Regs.setK r i
    ⟨BitVec.ofNat 128 (num (0x140 + 16 * i) 16), s.mem.tagAt (.unit u) (ctxKey l (0x140 + 16 * i))⟩) x
  let part := s.ctxPart u l
  let elems := ((List.range 8).filter fun b => decide (fld saved b 1 = 1)).foldl (fun m b =>
    (List.range 4096).foldl (fun m i =>
      SMap.set (0 : Word32) m (b * 4096 + i) (BitVec.ofNat 32 (num (0x2000 + b * 0x4000 + 4 * i) 4))) m) []
  let csr := { U.csr with
    slipw := clampSlip (fld (num 0x248 8) 0 13), pdLimit := clampDeadline (fld (num 0x250 8) 0 17), tokwd := max 256 (fld (num 0x258 8) 0 32)
    vstat := BitVec.ofNat 64 (num 0x260 8) &&& vstatBits, norec := decide (fld (num 0x268 8) 17 1 = 1), tapeid := fld (num 0x268 8) 0 16
    rcstat := BitVec.ofNat 64 (num 0x270 8) &&& rcstatBits, tframe := fld (num 0x278 8) 12 8
    vecEn := decide (fld (num 0x280 8) 31 1 = 1), vecU := fld (num 0x280 8) 0 14 }
  let ba := num 0x20 8
  let V := { U with
    regs := { k with p := BitVec.ofNat 32 (num 0x240 8 &&& 0x7FFFFE) }
    csr := csr, elems := elems, parity := [], dupRows := [], bind := BitVec.ofNat 8 (num 0x18 8), alloc := BitVec.ofNat 8 ba, dup := decide (fld ba 16 1 = 1)
    dcur := BitVec.ofNat 8 (fld ba 8 8), streams := part.streams, wins := part.wins, bsets := part.bsets, fade := part.fade, group := part.group }
  let W := (allBanks.foldl (fun V q => V.ctxBank saved (num 0x10 8) (num 0x28 8) q) V).fixDup
  let s1 := (ctxRanges u saved).foldl (fun (s : State) q =>
    let m0 := s.mem.wipe q.2.1 q.2.2
    let m1 := m0.write u 4 q.2.1 (s.ctxRead u l q.1 q.2.2)
    { s with mem := (List.range (q.2.2 / 16)).foldl (fun m i =>
        if s.mem.tagAt (.unit u) (ctxKey l (q.1 + 16 * i)) then
          m.writeTag u 4 (q.2.1 + 16 * i) (s.ctxRead u l (q.1 + 16 * i) 16) true else m) m1 })
    { s.setUnit u W with mem := wipeUnsaved s.mem u saved }
  let s2 := s1.forgetSop u id
  s2.setUnit u ((s2.unit u).give id [])

/-- The pieces of an image in device memory: every page translated. -/
def State.ctxPieces (s : State) (u addr : Nat) (save : Bool) : CStop ⊕ List (Nat × Nat) :=
  s.pieces u 0 (if save then .write else .read) addr ctxLen 100

/-- The elements of the banks that a save reads, whose parity each read checks (R219). -/
def UnitSt.savedMarks (U : UnitSt) : List Nat :=
  (U.parity.map (·.1)).filter fun k => decide ((U.bank 0 (k / 4096)).st ≠ .off)

/-- The errors that a transfer meets: poison in the image for a load, poison and parity in the banks for a save. -/
def State.ctxPoison (s : State) (u : Nat) (save : Bool) (l : List (Nat × Nat)) : Option State :=
  if save then ((ctxRanges u (s.unit u).savedBanks).findSome? fun q => s.poisonCheck u q.2.1 q.2.2).or
    (s.parityChk u (s.unit u).savedMarks)
  else l.findSome? fun q => s.poisonCheck u q.1 q.2

/-- The poison that the header checks of a load meet: their reads come first (R123). -/
def State.ctxHeadPoison (s : State) (u : Nat) (l : List (Nat × Nat)) : Option State :=
  (0 :: (List.range 39).map fun i => 0x1640 + 64 * i).findSome? fun o => s.poisonCheck u (ctxKey l o) 64

/-- The last beat of a schedule, in device time. -/
def Dctx.lastBeat (D : Dctx) : Nat := D.t0 + ((D.ents.map fun e => e.beat).foldl max 0) * D.beatns

/-- A save waits for the unit's run to end; a run whose last beat lies more than 1 ms after the pre-emption request is
stopped first (R296). -/
def State.saveRun (s : State) (u : Nat) : State :=
  let U := s.unit u
  match s.task U.id.task with
  | some T => if U.csr.preq ∧ T.reqAt + 1000000 < U.dove.lastBeat then s.setDove u (U.dove.endRun 4 0 s.time.toNat) else s
  | none => s

/-- What a transfer waits for at issue: a save for the unit's near-memory commands, whose records it would miss (R184), and for the
entries in progress of a Dovetail run that has ended (R290, R296); a load for S's stores that are not performed, which come before
its read of the header (R152, R443). -/
def UnitSt.ctxWaits (U : UnitSt) (save : Bool) : Bool :=
  if save then decide (U.work.nmcs ≠ []) || U.dove.busy else decide (U.work.sops ≠ []) || decide (U.work.wops ≠ [])

/-- CTXSAVE and CTXLOAD at issue: checks, pages, and for a save the wakes of its Retain banks. -/
def State.ctxIssue (s0 : State) (r : PassRec) (f : Flight) (a b : Nat) (save : Bool) : Res :=
  let u := s0.who.1
  let s := if save then s0.fallsDue u else s0
  let U := s.unit u
  let o := (U.xS b).toNat
  let c := U.kS a
  let info := capInfo a ctxLen r.addr
  if !U.csr.mode then .trap .kperm o info
  else match c.check o ctxLen (if save then permW + permC else permR + permC) with
    | .error e => .trap e o info
    | .ok addr =>
      if c.space ≠ 0 then .trap .kperm o info
      else if addr % 4096 ≠ 0 then .trap .align o info
      else if save ∧ U.dove.status = 2 then .stall (s.saveRun u)
      else if U.ctxWaits save then .stall s
      else match s.ctxPieces u (addr % 2 ^ 64) save with
        | .inl x => x.toRes s u
        | .inr l => match if save then none else s.ctxHeadPoison u l with
          | some s1 => .jump s1
          | none =>
          if !save ∧ !s.ctxOk u l then r.trapHere .und
          else
            let keep := if save then U.retainBanks else 0
            let V := if save then allBanks.foldl (fun V q =>
              if (V.bank q.1 q.2).st = .retain then V.setBank q.1 q.2 (V.bank q.1 q.2).startWake else V) U else U
            let op : SOp := ⟨f.id, if save then .ctxsave else .ctxload, ⟨0, addr % 2 ^ 64, none⟩, 0, false, 3, 0,
              BitVec.ofNat 64 keep, 0, Cap.null, none, false⟩
            .go (s.setUnit u { V with work := { V.work with sops := V.work.sops ++ [op] } }) (f.loading [])

def execCtxsave (tk : Tok) (a b : Nat) (s : State) : Out :=
  s.sSerial tk none [32 + a, b] fun s _ r f => s.ctxIssue r f a b true
def execCtxload (tk : Tok) (a b : Nat) (s : State) : Out :=
  s.sSerial tk none [32 + a, b] fun s _ r f => s.ctxIssue r f a b false

/-- The transfer of a CTXSAVE or CTXLOAD ends: after the unit's stores before it, which it would overtake, and in its turn where a
page migrated (R117, R152). -/
def State.ctxDone (s : State) (u : Nat) : State :=
  let W := (s.unit u).work
  match W.sops.find? fun o => o.kind == .ctxsave || o.kind == .ctxload with
  | none => s
  | some o =>
    let save := o.kind == .ctxsave
    if 1 < W.sops.length ∨ W.wops ≠ [] ∨ !s.replayHead u o.id then s
    else match s.ctxPieces u o.place.addr save with
    | .inl (.wait s1) => s1
    | .inl (.mig a) => if s.replayRoom u then s.joinReplay u o.id a else s
    | .inl (.xlat a i) => (s.dropFault u a).takeTrap u ⟨.xlat, 0, a, i⟩
    | .inl _ => s
    | .inr l =>
      match s.ctxPoison u save l with
      | some s1 => s1
      | none =>
        let s1 := s.quitReplay u o.id
        if save then s1.ctxSave u o.id o.v.toNat l
        else (l.foldl (fun s q => s.touchRange q.1 q.2) s1).ctxRestore u o.id l

def execCtxTransferDone (u : Nat) (s : State) : Out := clockEvent u s (s.ctxDone u)

/-! ### Entering a handler, watched waits -/

/-- A trap that has been found is taken (R49, R433, R435). -/
def execTrapEntry (u : Nat) (s : State) : Out :=
  clockEvent u s (match (s.unit u).trap.pend with | some t => s.takeTrap u t | none => s)

/-- A token that waited to be pushed is pushed as its word retires (R303). -/
def execTokenPush (u e : Nat) (s : State) : Out :=
  clockEvent u s (if e ≤ 5 then s.setUnit u ((s.unit u).retire (Eng.ofCode e)) else s)

/-- INFO0 of TOKEN (R440). -/
def tokenInfo (prod cons kind num : Nat) : Nat := prod + cons * 8 + kind * 2 ^ 8 + num * 2 ^ 16

/-- The token that the oldest word of engine `e` waits to push, as R440 names its FIFO, with the word's address. -/
def UnitSt.pushWait (U : UnitSt) (e : Eng) : Option (Nat × Nat) :=
  match U.headOf e with
  | some f => if f.wait = .done ∧ !U.postRoom f then f.post.map fun p => (tokenInfo e.code p.code 0 0, f.addr) else none
  | none => none

/-- The word before engine `e`, where the engine is the one that issues it. -/
def State.wordHere (s : State) (u : Nat) (e : Eng) : Option (PassRec × Instr) :=
  (s.here u e).bind fun r =>
    match decodeWords r.hdr (if r.len = 2 then some r.ext else none) with
    | .ok i => if fld r.hdr 29 3 = e.code then some (r, i) else none
    | .error _ => none

/-- The token that the word before engine `e` waits for: its FIFO as R440 names it, and the word's text address. -/
def State.tokenWait (s : State) (u : Nat) (e : Eng) : Option (Nat × Nat) :=
  (s.wordHere u e).bind fun q =>
    let r := q.1
    let peer := Eng.ofCode (fld r.hdr 23 3)
    if popsToken r.hdr ∧ !(s.unit u).tokenThere e r (.wait peer) then some (tokenInfo peer.code e.code 0 0, r.addr) else none

/-- The structure that keeps a word from issuing now, as R440 names it: a stage queue (R161), a shadow queue (R188), a
conditional stream (R248), a shared-B group (R272, R273), the continuation queue (R381). -/
def State.ownStructure (s : State) (u : Nat) (r : PassRec) (i : Instr) : Option Nat :=
  let U := s.unit u
  let busy := fun (b : Bool) (n : Nat) => if b then some n else none
  match i with
  | .qpush _ _ sg _ => busy (decide (512 ≤ s.stageLoad u sg)) (tokenInfo 0 0 1 sg)
  | .qpop _ _ _ =>
    busy (SMap.get [] (s.cluster (clusterOf u)).stageq (stageKey U.id.task U.id.stage) = []) (tokenInfo 0 0 1 U.id.stage)
  | .sset _ d _ _ _ => busy (!U.shadowRoom d) (tokenInfo 0 7 2 d)
  | .sgoL _ st _ => busy (U.stream st).shadow.isEmpty (tokenInfo 0 1 2 st)
  | .sgoW _ st _ => busy (U.stream st).shadow.isEmpty (tokenInfo 0 3 2 st)
  | .vcpush _ f x =>
    busy (decide (2048 < (s.cqOf u (f.vd % 8)).length + (s.vcPicked U x).length)) (tokenInfo 2 2 3 (f.vd % 8))
  | .vcpop _ _ x => busy (decide ((s.cqOf u (x.va % 8)).length < (r.vals.headD 0).toNat)) (tokenInfo 2 2 3 (x.va % 8))
  | .mjoin _ _ _ g => busy (!(s.groupOf u g).joining.contains u) (tokenInfo 4 4 4 g)
  | .mleave _ g => busy U.group.isSome (tokenInfo 4 4 4 g)
  | .tcont _ _ _ _ _ =>
    busy (decide (4096 ≤ ((s.graph U.id.graph).map fun G => G.unfinished).getD 0) || decide (4096 ≤ s.hub.conts.length))
      (tokenInfo 0 7 5 0)
  | _ => none

/-- What the word before engine `e` waits for beside a token. -/
def State.ownWait (s : State) (u : Nat) (e : Eng) : Option (Nat × Nat) :=
  (s.wordHere u e).bind fun q => (s.ownStructure u q.1 q.2).map fun w => (w, q.1.addr)

/-- An MLEAVE waits for a round that a member's trap has stopped: the wait does not count (R275). -/
def State.roundStopped (s : State) (u : Nat) (e : Eng) : Bool :=
  match e, (s.unit u).group with
  | .M, some (g, _) =>
    (s.unit u).work.mops.any (fun o => o.shr) && (s.groupOf u g).members.any fun m => (s.unit m.1).inHandler
  | _, _ => false

/-- The watched waits of a unit as `n` cycles pass: one that lasts counts them, one that is over begins again at its next
cycle, and a word that cannot push its token begins one (R305, R306). -/
def State.passWaits (s : State) (u n : Nat) (U : UnitSt) : UnitSt :=
  engs.foldl (fun V e =>
    let V1 := if V.waitOf e = 0 then V else V.setWait e (if (s.tokenWait u e).isSome then V.waitOf e + n else 0)
    let V2 := if V1.ownWaitOf e = 0 ∨ s.roundStopped u e then V1
      else V1.setOwnWait e (if (s.ownWait u e).isSome then V1.ownWaitOf e + n else 0)
    if (V2.pushWait e).isSome then V2.setPushWait e (max 1 (V2.pushWaitOf e) + n) else V2) U

/-- A watched wait has lasted more than TOKWD cycles: TOKEN is found at the waiting word (R305, R306). -/
def State.tokenExpired (s : State) (u e : Nat) : State :=
  let U := s.unit u
  let g := Eng.ofCode e
  let late := fun (n : Nat) (w : Option (Nat × Nat)) => if U.csr.tokwd + 1 < n then w else none
  if 5 < e ∨ !s.runs u then s
  else match (late (U.waitOf g) (s.tokenWait u g)).or ((late (U.ownWaitOf g) (s.ownWait u g)).or
      (late (U.pushWaitOf g) (U.pushWait g))) with
    | some q => s.setUnit u { U with trap := { U.trap with pend := some ⟨.token, e, q.1, q.2⟩ } }
    | none => s

def execTokenTimeout (u e : Nat) (s : State) : Out := clockEvent u s (s.tokenExpired u e)

end Sys2Proof.Machine
end

