-- ==== Sys2Proof/Machine/BankEvents.lean ====
section
/-! DEFINITION. The events of the banks: falls (R134, R223), ends of wakes (R135, R138, R222) and the end of the copy that
makes a duplicate current (R220). -/

namespace Sys2Proof.Machine

/-- The wake of a bank is over when its cycles have been counted. -/
def UnitSt.wakeIfDue (U : UnitSt) (kind b : Nat) : UnitSt := if (U.bank kind b).wake = 0 then U.wakeNow kind b else U

def execSpadBankFall (u b : Nat) (s : State) : Out := clockEvent u s (if b < 16 then s.fallIfDue u 1 b else s)
def execSpadBankWakeDone (u b : Nat) (s : State) : Out :=
  clockEvent u s (if b < 16 then s.setUnit u ((s.unit u).wakeIfDue 1 b) else s)
def execRegBankFall (u b : Nat) (s : State) : Out := clockEvent u s (if b < 8 then s.fallIfDue u 0 b else s)
/-- A register bank that reaches Full may make a duplicate possible; none is current before its copy has ended. -/
def execRegBankWakeDone (u b : Nat) (s : State) : Out :=
  clockEvent u s (if b < 8 then s.setUnit u ((s.unit u).wakeIfDue 0 b).fixDup else s)

/-- Rows `lo` up to `hi` of bank `n` are copied into its partner, with parity bits of their own (R219, R220); an element whose bit has
changed since its row was read leaves the partner's as it is. -/
def UnitSt.copyRows (U : UnitSt) (n lo hi : Nat) : UnitSt :=
  let m := n ^^^ 4
  let here := fun (b : Nat) (k : Nat) => decide (k / 4096 = b) && decide (lo ≤ k % 4096 / 64) && decide (k % 4096 / 64 < hi)
    && !SMap.get false U.parity (n * 4096 + k % 4096)
  let rest := U.elems.filter fun q => !here m q.1
  { U with
    elems := (U.elems.filter fun q => here n q.1).foldr (fun q (t : SMap Word32) =>
      SMap.set 0 t (m * 4096 + q.1 % 4096) q.2) rest
    parity := U.parity.filter fun q => !here m q.1 }

/-- Every element of bank `n` stands in its partner, and the duplicate is current. -/
def UnitSt.dupCopied (U : UnitSt) (n : Nat) : UnitSt :=
  let V := U.copyRows n 0 64
  { V with dcur := V.dcur ||| BitVec.ofNat 8 (2 ^ n), dupRows := SMap.erase V.dupRows n }

/-- The elements of bank `n` from row `k` on whose parity is wrong. -/
def UnitSt.badFrom (U : UnitSt) (n k : Nat) : List Nat :=
  (U.parity.map (·.1)).filter fun q => decide (q / 4096 = n) && decide (k ≤ q % 4096 / 64)

/-- A copy goes on as cycles pass: at most one row in each, on those in which the bank's read port is idle.  It does not pass a row
whose parity is wrong: its read there is what finds the error (R219). -/
def UnitSt.copyOn (U : UnitSt) (tick cycles n : Nat) : UnitSt :=
  if U.dupHolds n ∧ !U.dcur.getLsbD n then
    let k := SMap.get 0 U.dupRows n
    let k1 := min ((U.badFrom n k).foldl (fun m q => min m (q % 4096 / 64)) 63) (k + Config.freeNat tick (860 + n) % (cycles + 1))
    { U.copyRows n k k1 with dupRows := SMap.set 0 U.dupRows n k1 }
  else U

/-- The copies of every bank go on. -/
def UnitSt.copiesOn (U : UnitSt) (tick cycles : Nat) : UnitSt :=
  if U.dup then (List.range 8).foldl (fun V n => V.copyOn tick cycles n) U else U

/-- A bit of an element changes: its parity bit disagrees with its data.  In the partner of a bank that is being copied the copy
starts again (R221).  A bank that is Off holds nothing: it wakes with zeros of good parity (R222). -/
def UnitSt.flip (U : UnitSt) (b row col bit : Nat) : UnitSt :=
  let k := elemKey b row col
  if (U.bank 0 b).st = .off then U else { U with
    elems := SMap.modify 0 U.elems k (fun v => v ^^^ BitVec.ofNat 32 (2 ^ bit))
    parity := SMap.modify false U.parity k Bool.not
    dupRows := SMap.erase U.dupRows (b ^^^ 4) }

/-- The copy of bank `b` ends: it has read every element of the bank, whose parity each read checks (R219). -/
def State.dupDone (s : State) (u b : Nat) : State :=
  let U := s.unit u
  if b < 8 ∧ U.dupHolds b ∧ !U.dcur.getLsbD b then
    (s.parityChk u (U.badFrom b (SMap.get 0 U.dupRows b))).getD (s.setUnit u (U.dupCopied b))
  else s

def execDupCopyDone (u b : Nat) (s : State) : Out := clockEvent u s (s.dupDone u b)

end Sys2Proof.Machine
end

