-- ==== Sys2Proof/Machine/Submit.lean ====
section
/-! DEFINITION. Graphs: submission entries (R461, R485), the judgement of a graph (R361, R486), admission (R377), the end of
a graph and its completion record (R362, R366), the host's END (R462). -/

namespace Sys2Proof.Machine

/-! ### The ends of graphs (R362, R366) -/

/-- A completion record (R366). -/
def complRec (status reason index ndone nlate time : Nat) (tag : Word) : List Byte :=
  u16 status ++ u16 reason ++ u32 index ++ u32 ndone ++ u32 nlate ++ u64 time ++ u64 tag.toNat

/-- The record is written at system scope, at an address that can hold one. -/
def State.writeCompl (s : State) (crec : Nat) (rec : List Byte) : State :=
  if crec ≠ 0 ∧ crec % 32 = 0 then s.writeMem 0 4 (keyOf 4 crec) rec false else s

/-- The banks of the cluster and die scratchpads that a graph holds are freed; their contents are lost (R130). -/
def State.freeRegions (s : State) (g : Nat) : State :=
  let s1 := s.clusters.foldl (fun s q =>
    (q.2.owner.filter fun o => o.2 = g + 1).foldl (fun s o => s.wipeAt (keyOf (regCsp q.1) (o.1 * 2 ^ 18)) (2 ^ 18)) s) s
  let s2 := s.dies.foldl (fun s q =>
    (q.2.owner.filter fun o => o.2 = g + 1).foldl (fun s o => s.wipeAt (keyOf (regDsp q.1) (o.1 * 2 ^ 20)) (2 ^ 20)) s) s1
  { s2 with
    clusters := s.clusters.map fun q => (q.1, { q.2 with owner := q.2.owner.filter fun o => o.2 ≠ g + 1 })
    dies := s.dies.map fun q => (q.1, { q.2 with owner := q.2.owner.filter fun o => o.2 ≠ g + 1 }) }

/-- A graph ends: completion record, completion event, regions freed, its number and its tasks free again. -/
def State.endGraph (s : State) (g : Nat) : State :=
  match s.graph g with
  | none => s
  | some G =>
    let status := if G.failed.isSome ∨ G.ending then 4 else 0
    let s1 := s.writeCompl G.crec (complRec status 0 (G.failed.getD 0) G.ndone G.nlate s.time.toNat G.tag)
    let s2 := (s1.tellHost 7 G.tag.toNat status 0).freeRegions g
    { s2 with hub := { s2.hub with
      graphs := SMap.erase s2.hub.graphs g
      tasks := s2.hub.tasks.filter fun q => match q.2 with | some T => decide (T.graph ≠ g) | none => false } }

/-- A graph ends when no task of it is unfinished. -/
def State.endIfDone (s : State) (g : Nat) : State :=
  match s.graph g with
  | some G => if G.unfinished = 0 then s.endGraph g else s
  | none => s

/-! ### Entries of a submission ring (R461, R485) -/

/-- Submission rings in the order of their registration. -/
def State.subRings (s : State) : List Reg := s.hub.regs.filter fun r => r.kind = 1
/-- The host's tail index for ring `i`, and whether the ring has an entry to take. -/
def State.tail (s : State) (i : Nat) : Nat := SMap.get 0 s.inbox.doorbell i
def State.ringReady (s : State) (i : Nat) : Bool :=
  match s.subRings[i]? with | some r => decide (r.cons ≠ s.tail i) | none => false

/-- SilLane carries traffic while either link is up (R460); during retraining accesses wait (R467). -/
def State.hostLink (s : State) : Bool :=
  decide (s.hub.retrain = 0) && (decide (SMap.get 16 s.hub.silLanes 0 ≠ 0) || decide (SMap.get 16 s.hub.silLanes 1 ≠ 0))

/-- The next entry of ring `i`: the hub serves the lowest ring that has one, once the park area is registered (R462, R464,
R399). -/
def State.nextEntry (s : State) (i : Nat) : Option (Reg × List Byte) :=
  if s.hostLink ∧ (s.hub.regs.any fun r => r.kind = 7) ∧ s.ringReady i ∧ !((List.range i).any fun j => s.ringReady j) then
    (s.subRings[i]?).map fun r => (r, s.mem.read .system (keyOf r.region (r.addr + 64 + r.cons % r.nent * 64)) 64)
  else none

/-- The entry is taken: CONS moves on. -/
def State.takeEntry (s : State) (r : Reg) : State :=
  let n := (r.cons + 1) % 2 ^ 32
  let s1 := s.writeMem 0 4 (keyOf r.region r.addr + 4) (u32 n) false
  { s1 with hub := { s1.hub with regs := s1.hub.regs.map fun x => if x = r then { r with cons := n } else x } }

/-- ROOT is written as a non-leaf entry (R461). -/
def rootOk (root : Nat) : Bool :=
  decide (fld root 0 1 = 1) && decide (fld root 1 5 = 0) && decide (fld root 6 2 ≤ 1) && decide (fld root 8 4 = 0)
    && decide (root < 2 ^ 52)

/-- A live graph of a TAG. -/
def State.graphOfTag (s : State) (tag : Nat) : Option Nat :=
  (s.hub.graphs.find? fun q => match q.2 with | some G => decide (G.tag.toNat = tag) | none => false).map (·.1)

/-- The check of R485 that an entry fails first. -/
def State.entryBad (s : State) (e : List Byte) : Option Nat :=
  let opc := byteField e 0 1
  let asid := byteField e 0x38 2
  let root := byteField e 0x30 8
  if opc ≠ 1 ∧ opc ≠ 2 then some 1
  else if byteField e 1 3 ≠ 0 ∨ byteField e 0x3A 6 ≠ 0 then some 2
  else if opc = 1 ∧ !(decide (1 ≤ byteField e 4 2) && decide (byteField e 4 2 ≤ 4096) && decide (1 ≤ byteField e 6 2)
      && decide (byteField e 6 2 ≤ 256)) then some 3
  else if opc = 1 ∧ (byteField e 8 8 % 128 ≠ 0 ∨ byteField e 0x10 8 % 16 ≠ 0 ∨ !rootOk root) then some 4
  else if opc = 1 ∧ (s.hub.graphs.any fun q => match q.2 with
      | some G => decide (G.asid = asid) && decide (G.root ≠ root) | none => false) then some 5
  else if opc = 2 ∧ (s.graphOfTag (byteField e 0x28 8)).isNone then some 6
  else none

/-- A refused entry: its record at a CREC that can hold one, with the completion event after it (R462), else an event that names the
ring (R485). -/
def State.refuseEntry (s : State) (ring index reason : Nat) (e : List Byte) : State :=
  let crec := byteField e 0x18 8
  if crec ≠ 0 ∧ crec % 32 = 0 then
    (s.writeCompl crec (complRec 5 reason index 0 0 s.time.toNat (BitVec.ofNat 64 (byteField e 0x28 8)))).tellHost 7
      (byteField e 0x28 8) 5 reason
  else s.tellHost 8 ring index reason

/-! ### The judgement of a graph (R361, R486) -/

/-- A submitted graph as the hub reads it: its entry's fields, grants and cards of 128 bytes. -/
structure Sub where
  asid : Nat
  root : Nat
  grants : List Cap
  cards : List (List Byte)
  deriving DecidableEq, Repr

def State.readSub (s : State) (e : List Byte) : Sub :=
  let hostRead := fun (a n : Nat) => s.mem.read .system (keyOf 4 a) n
  { asid := byteField e 0x38 2, root := byteField e 0x30 8
    grants := (List.range (byteField e 6 2)).map fun i => ⟨BitVec.ofNat 128 (ofBytes (hostRead (byteField e 0x10 8 + 16 * i) 16)), false⟩
    cards := (List.range (byteField e 4 2)).map fun i => hostRead (byteField e 8 8 + 128 * i) 128 }

/-- A grant of SPACE 2 or 3 names whole banks of its memory (R130). -/
def grantOk (c : Cap) : Bool :=
  match c.space with
  | 2 => decide (c.base % 2 ^ 18 = 0) && decide (c.len % 2 ^ 18 = 0) && decide (c.base + c.len ≤ 2 ^ 23)
  | 3 => decide (c.base % 2 ^ 20 = 0) && decide (c.len % 2 ^ 20 = 0) && decide (c.base + c.len ≤ 2 ^ 26)
  | _ => true

/-- A range of device memory lies within one grant that permits reads. -/
def Sub.readable (S : Sub) (va n : Nat) : Bool :=
  S.grants.any fun c => decide (c.space = 0) && c.grants permR && decide (c.base ≤ va) && decide (va + n ≤ c.base + c.len)

/-- The grant that a card's PCAP names. -/
def Sub.program (S : Sub) (e : List Byte) : Option Cap :=
  (S.grants[byteField e 8 2]?).bind fun c => if c.space = 0 ∧ c.grants permX then some c else none

/-- Step 3 of R486: the lowest of reasons 1, 3, 4, 6 and 7 that a card fails. -/
def Sub.cardEarly (S : Sub) (e : List Byte) : Option Nat :=
  let h := byteField e 0 8
  let flag := fun (i : Nat) => decide (fld h i 1 = 1)
  let foot := fun (i : Nat) => (e.drop (0x40 + 16 * i)).take 16
  if fld h 48 16 ≠ 0 ∨ fld h 18 2 ≠ 0 ∨ fld h 12 4 ≠ 0 ∨ fld h 1 7 ≠ 0 ∨ byteField e 0x0C 4 ≠ 0
      ∨ (List.range 4).any fun i => decide (fld (byteField (foot i) 14 2) 2 14 ≠ 0) then some 1
  else if (flag 8 || flag 9) && decide (fld h 32 16 = 0) then some 3
  else if (S.program e).isNone then some 4
  else if (if flag 11 then decide (fld h 16 2 ≠ 0) || decide (byteField e 0x18 8 = 0) || decide (fld h 0 8 = 1)
      else decide (fld h 16 2 = 0)) then some 6
  else if (List.range 4).any fun i => !(Foot.ofBytes (foot i)).ok then some 7
  else none

/-- The image of a card's program. -/
def State.imageBytes (s : State) (S : Sub) (c : Cap) : List Byte := s.readImage S.root c.base c.len

/-- The operating-point table of a card, and whether R388 accepts it (reason 8). -/
def State.cardOpts (s : State) (S : Sub) (e : List Byte) (im : Image) : List OpEnt × Bool :=
  let va := byteField e 0x20 8
  let guar := decide (fld (byteField e 0 8) 11 1 = 1)
  let low := fun (l : List OpEnt) => !guar || l.any fun o => decide (o.op ≤ 6)
  if va = 0 then (im.opts, decide (im.opts ≠ []) && low im.opts)
  else if va % 16 ≠ 0 ∨ !S.readable va 16 then ([], false)
  else
    let n := (s.vaByte S.root va).toNat
    if !S.readable va (16 + 16 * n) then ([], false)
    else
      let t := s.vaBytes S.root va (16 + 16 * n)
      (optTable t, (optBad t).isNone && low (optTable t))

/-- Step 5 of R486: the lowest of reasons 2, 5, 7, 8 and 9 that a card fails. -/
def State.cardLate (s : State) (S : Sub) (e : List Byte) (b : List Byte) (im : Image) : Option Nat :=
  let ns := fld (byteField e 0 8) 24 8
  let q := s.cardOpts S e im
  let T := Task.ofCard 0 0 e im q.1
  let ws := (walkText b im.textLen im.textLen 0).1
  if ns = 0 ∨ 8 < ns ∨ (1 < ns ∧ q.1.any fun o => decide (o.tiles < ns) || decide (8 < o.tiles)) then some 2
  else if T.args % 16 ≠ 0 ∨ (im.argsize ≠ 0 ∧ !S.readable T.args im.argsize) then some 5
  else if T.hdr % 256 = 0 ∧ (s.fillFoots S.root T).any fun f => !f.ok then some 7
  else if !q.2 then some 8
  else if (wordAt ws T.entry).isNone then some 9
  else none

/-- The refusal of a graph before admission: status, reason, index. -/
def State.judge (s : State) (S : Sub) : Option (Nat × Nat × Nat) :=
  let num := fun {α : Type} (l : List α) => l.zip (List.range l.length)
  let grant := ((num S.grants).find? fun q => !grantOk q.1).map fun q => (2, 10, q.2)
  let early := (num S.cards).findSome? fun q => (S.cardEarly q.1).map fun r => (2, r, q.2)
  match grant.orElse fun _ => early with
  | some x => some x
  | none =>
    let progs := (S.cards.filterMap fun e => S.program e).eraseDups
    match progs.findSome? fun c => (loaderCheck (s.imageBytes S c) c.len).map fun r => (1, r.1, r.2) with
    | some x => some x
    | none => (num S.cards).findSome? fun q =>
        match S.program q.1 with
        | none => none
        | some c =>
          let b := s.imageBytes S c
          (s.cardLate S q.1 b (imageOf b c.base c.len)).map fun r => (2, r, q.2)

/-! ### Admission (R377, R351) -/

/-- The run time of entry `e`: the recorded duration for a replay of a valid tape (R351). -/
def State.runTime (s : State) (T : Task) (asid : Nat) (o : OpEnt) : Nat :=
  match (if T.replays then s.findTape T.tapeid asid else none) with
  | some P =>
    if P.op = o.op ∧ P.fmt = o.fmt ∧ P.tiles = o.tiles then (if T.fallback then max P.dur o.time else P.dur) else o.time
  | none => o.time

/-- An admitted guaranteed task in the sums: power as energy per run over d, tile count, window's end. -/
structure Load where
  energy : Nat
  d : Nat
  tiles : Nat
  until_ : Nat
  deriving DecidableEq, Repr

/-- The power sum in W as a fraction: µJ over ns is 1,000 W. -/
def powerSum (l : List Load) : Nat × Nat :=
  l.foldl (fun q x => (q.1 * max 1 x.d + x.energy * 1000 * q.2, q.2 * max 1 x.d)) (480, 1)
/-- Both sums at an instant with a floor. -/
def sumsOk (l : List Load) (at_ floor units : Nat) : Bool :=
  let live := l.filter fun x => decide (at_ ≤ x.until_)
  let p := powerSum live
  decide (p.1 ≤ floor * p.2) && decide ((live.map fun x => x.tiles).sum ≤ units)

/-- What the admitted guaranteed tasks of live graphs put into the sums, each until its DEADLINE, also after it has completed. -/
def State.loads (s : State) : List Load :=
  s.hub.tasks.filterMap fun q => match q.2 with
    | some T =>
      if T.admitted ≠ 0 then
        let o := T.opts.getD T.ope ⟨0, 0, 1, 1, 1⟩
        some ⟨o.energy, T.dur, o.tiles, T.deadline⟩
      else none
    | none => none

/-- Units in placement (R456). -/
def State.unitsPlaced (s : State) : Nat := 768 - (s.units.filter fun q => q.2.retiredMark).length

/-- The firm floors from now on: the instant from which each holds, the curve's SEQ, which rises with acceptance (R391), and the
floor.  With no curve in force the spec gives no floor. -/
def State.floors (s : State) : List (Nat × Nat × Nat) :=
  let now := s.time.toNat
  (match s.camp.curve with | some c => (now, c.seq, c.floor) | none => (now, 0, Config.freeNat s.tick 910))
    :: s.camp.pending.map fun c => (max now c.eff, c.seq, c.floor)
/-- The floor at an instant: that of the latest accepted curve whose effective time is not after it (R377). -/
def floorAt (fs : List (Nat × Nat × Nat)) (t : Nat) : Nat :=
  ((fs.filter fun f => decide (f.1 ≤ t)).foldl (fun m f => if m.1 ≤ f.2.1 then f.2 else m) (0, 0)).2

/-- Both sums hold at every instant of a new load's window. -/
def State.admits (s : State) (l : List Load) (x : Load) : Bool :=
  let fs := s.floors
  (fs.map (·.1)).all fun t => decide (x.until_ < t) || sumsOk (l ++ [x]) t (floorAt fs t) s.unitsPlaced

/-- What admission knows of the tasks before one: number, guaranteed, F, footprints, SIGM. -/
structure Seen where
  guar : Bool
  fin : Nat
  foots : List Foot
  sigm : BitVec 64
  deriving DecidableEq, Repr

/-- Admission of a graph's tasks in graph order: the failing card with its reason, or entry and d for each guaranteed
card. -/
def State.admitAll (s : State) (asid : Nat) : List (Nat × Task) → List Seen → List Load → List (Nat × Nat × Nat) →
    (Nat × Nat) ⊕ List (Nat × Nat × Nat)
  | [], _, _, done => .inr done
  | (i, T) :: r, seen, loads, done =>
    let edges := seen.filter fun v => v.foots.any fun a => T.foots.any fun b => a.meets b
    if !T.guaranteed then s.admitAll asid r (seen ++ [⟨false, 0, T.foots, T.sigm⟩]) loads done
    else
      let preds := seen.filter fun v => v.guar && (decide (v ∈ edges) || decide (v.sigm &&& T.waitm ≠ 0))
      let ready := (preds.map fun v => v.fin).foldl max s.time.toNat
      let fin := fun (o : OpEnt) => ready + 250000 + s.runTime T asid o
      let load := fun (o : OpEnt) => (⟨o.energy, s.runTime T asid o, o.tiles, T.deadline⟩ : Load)
      let pick := (T.opts.zip (List.range T.opts.length)).find? fun q =>
        decide (q.1.op ≤ 6) && decide (fin q.1 ≤ T.deadline) && s.admits loads (load q.1)
      let signalled := (seen.filter fun v => v.guar).foldl (fun m v => m ||| v.sigm) (0 : BitVec 64)
      match pick with
      | none => .inl (1, i)
      | some (o, k) =>
        if (edges.any fun v => !v.guar) ∨ T.waitm &&& ~~~signalled ≠ 0 then .inl (2, i)
        else s.admitAll asid r (seen ++ [⟨true, fin o, T.foots, T.sigm⟩]) (loads ++ [load o])
          (done ++ [(i, k, s.runTime T asid o)])

/-! ### Acceptance -/

/-- A graph number that no live graph holds; which one is open (R362). -/
def State.freeGraph (s : State) : Nat :=
  let start := Config.freeNat s.tick 911 % 65536
  ((List.range 65536).map fun i => (start + i) % 65536).find? (fun g => (s.graph g).isNone) |>.getD start

/-- The cards of a graph as tasks, with filled footprints (R360); a template keeps its entries as written. -/
def State.subTasks (s : State) (S : Sub) (g : Nat) : List Task :=
  (S.cards.zip (List.range S.cards.length)).filterMap fun q =>
    (S.program q.1).map fun c =>
      let im := imageOf (s.imageBytes S c) c.base c.len
      let T := Task.ofCard g q.2 q.1 im (s.cardOpts S q.1 im).1
      if T.hdr % 256 = 0 then { T with foots := s.fillFoots S.root T } else T

/-- An accepted card of TYPE 0 becomes a task: edges from the tasks before it, and its queue (R364, R369). -/
def State.acceptCard (s : State) (asid : Nat) (adm : List (Nat × Nat × Nat)) (T : Task) : State :=
  let V := match adm.find? fun a => a.1 = T.card with
    | some (_, k, d) => { T with ope := k, dur := d, admitted := max 1 s.time.toNat }
    | none => T
  let W := { V with edges := s.edgesOf V.graph V.foots, va := V.homeVa }
  let q := s.addTask W
  q.1.enqueueAt q.2 (q.1.cardHome W asid) W

/-- The graph is accepted: it gets its number, its tasks their queues; a graph without tasks has none to wait for. -/
def State.acceptGraph (s : State) (S : Sub) (e : List Byte) (adm : List (Nat × Nat × Nat)) : State :=
  let g := s.freeGraph
  let ts := s.subTasks S g
  let run := ts.filter fun T => T.hdr % 256 = 0
  let G : Graph :=
    { tag := BitVec.ofNat 64 (byteField e 0x28 8), crec := byteField e 0x18 8, asid := S.asid, root := S.root
      peerMask := BitVec.ofNat 64 (byteField e 0x20 8), grants := S.grants, cards := ts, events := 0
      unfinished := run.length, ndone := 0, nlate := 0, failed := none, ending := false, contract := true, saved := [], evKnow := []
      since := s.raceNext }
  (run.foldl (fun s T => s.acceptCard S.asid adm T) (s.setGraph g G)).endIfDone g

/-- A SUBMIT entry that R485 lets pass. -/
def State.submitGraph (s : State) (e : List Byte) : State :=
  let S := s.readSub e
  let refuse := fun (x : Nat × Nat × Nat) =>
    let rec_ := complRec x.1 x.2.1 x.2.2 0 0 s.time.toNat (BitVec.ofNat 64 (byteField e 0x28 8))
    (s.writeCompl (byteField e 0x18 8) rec_).tellHost 7 (byteField e 0x28 8) x.1 x.2.1
  match s.judge S with
  | some x => refuse x
  | none =>
    let ts := ((s.subTasks S 0).filter fun T => T.hdr % 256 = 0).map fun T => (T.card, T)
    match s.admitAll S.asid ts [] s.loads [] with
    | .inl (reason, card) => refuse (3, reason, card)
    | .inr adm => s.acceptGraph S e adm

/-- The hub takes an entry of ring `r` that is no END. -/
def execSubmit (r : Nat) (s : State) : Out :=
  .next (match s.nextEntry r with
    | none => s
    | some (ring, e) =>
      if byteField e 0 1 = 2 then s
      else
        let s1 := s.takeEntry ring
        match s.entryBad e with
        | some reason => s1.refuseEntry r (ring.cons % ring.nent) reason e
        | none => s1.submitGraph e)

/-! ### END (R462) -/

/-- No live graph but `g` has a grant under its address space that covers a tape's program capability. -/
def State.grantGone (s : State) (g asid : Nat) (P : Tape) : Bool :=
  decide (P.asid = asid) && !(s.hub.graphs.any fun q => match q.2 with
    | some H => decide (q.1 ≠ g) && decide (H.asid = asid)
        && H.grants.any fun c => decide (c.space = 0) && decide (c.base ≤ P.base) && decide (P.base + P.plen ≤ c.base + c.len)
    | none => false)

/-- Every task of the graph ends: running units stop, the others are never dispatched; the graph ends once every running
unit has stopped.  The host withdraws the graph's grants with it, so the tapes of programs that no other grant covers become
invalid (R348; log entry 126). -/
def State.hostEnd (s0 : State) (g : Nat) : State :=
  match s0.graph g with
  | none => s0
  | some G =>
    let s := s0.invalidTapes fun P => (G.grants.any fun c =>
        decide (c.space = 0) && decide (c.base ≤ P.base) && decide (P.base + P.plen ≤ c.base + c.len)) && s0.grantGone g G.asid P
    let mine := s.hub.tasks.filterMap fun q => match q.2 with
      | some T => if T.graph = g ∧ T.unfinished then some q.1 else none
      | none => none
    let low := (mine.filterMap fun t => (s.task t).map fun T => T.card).foldl min ((G.failed.getD 65535))
    let lost := (mine.filter fun t => match s.task t with | some T => T.units = [] && T.late s.time.toNat | none => false).length
    let s1 := s.setGraph g
      { G with ending := true, failed := if mine = [] then G.failed else some low, nlate := G.nlate + lost }
    let s2 := mine.foldl (fun s t =>
      let s0 := s.unqueue t
      match s0.task t with
      | some T => if T.units = [] then (s0.releaseTapes t).setTask t { T with st := .done, status := stFault } else s0.failTask t stFault
      | none => s0) s1
    let waiting := (mine.filter fun t => match s2.task t with | some T => T.unfinished | none => false).length
    match s2.graph g with
    | some H => (s2.setGraph g { H with unfinished := waiting }).endIfDone g
    | none => s2

def execHostEndGraph (r : Nat) (s : State) : Out :=
  .next (match s.nextEntry r with
    | none => s
    | some (ring, e) =>
      if byteField e 0 1 ≠ 2 then s
      else
        let s1 := s.takeEntry ring
        match s.entryBad e, s.graphOfTag (byteField e 0x28 8) with
        | some reason, _ => s1.refuseEntry r (ring.cons % ring.nent) reason e
        | none, some g => s1.hostEnd g
        | none, none => s1)

end Sys2Proof.Machine
end

