-- ==== Sys2Proof/Machine/Replay.lean ====
section
/-! DEFINITION. Tapes at dispatch and at completion (R329, R336, R339 to R346): the checks of a replay, rebinding, moving
tracks, the beginning and the end of a recording. -/

namespace Sys2Proof.Machine

/-! ### Capability fields (R106) -/

/-- The capability of a CAP field, checked against the grants of the graph: its tag is set only when it lies within one
grant with a subset of its permissions, meets R98 to R100, and has zero `res` bits.  DESIGN CHOICE, the dispatcher's own grants
for SPACE 1 and 4 hold R, W, A and C, the permissions of k0 and k1 (log entry 121). -/
def fieldCap (grants : List Cap) (w : Nat) : Cap :=
  let c : Cap := ⟨BitVec.ofNat 128 w, false⟩
  let limit := match c.space with | 1 => 2 ^ 20 | 2 => 2 ^ 23 | 3 => 2 ^ 26 | 4 => 2 ^ 21 | _ => 2 ^ 57
  let own : List Cap := [Cap.mk' 1 (permR + permW + permA + permC) 0x100000 0 true, Cap.mk' 4 (permR + permW + permA + permC) 0x200000 0 true]
  let gs := if c.space = 1 ∨ c.space = 4 then own else grants
  let within := gs.any fun g => decide (g.space = c.space) && decide (g.base ≤ c.base) && decide (c.base + c.len ≤ g.base + g.len)
    && decide (c.perm % 128 &&& g.perm % 128 = c.perm % 128)
  let wf := decide (c.space < 8) && decide (c.base + c.len ≤ limit) && decide (c.f 112 4 = 0) && decide (c.f 57 7 = 0)
    && !(decide (c.space = 6) && decide (c.perm &&& (permA + permC) ≠ 0))
  { c with tag := within && wf }

/-- The CAP fields of a task with their capabilities, in ascending order of offset. -/
def State.argCaps (s : State) (G : Graph) (T : Task) : List (Nat × Cap) :=
  let offs := (T.image.layout.filter fun f => f.2.2).map (·.1)
  ((List.range (T.image.argsize / 16)).filter fun i => offs.contains (16 * i)).map (16 * ·) |>.map fun o => (o, fieldCap G.grants (ofBytes (s.taskArg G.root T o 16)))

/-! ### The checks of a replay (R341) -/

/-- The capability items of a segment that no slot patches. -/
def segItems : Nat → List Word128 → List Word128
  | 0, _ => []
  | _, [] => []
  | n + 1, w :: r =>
    let x := w.toNat
    if fld x 80 8 ≠ 0 then segItems n r
    else
      let h := fld x 0 32
      let nop := fld x 89 3
      let ops := (r.take nop).drop (xEntries h (fld x 32 32))
      let caps := if isSgo h ∧ 4 < ops.length then ops.drop 5 else ops
      (caps.filter fun c => !itemPatched c) ++ segItems n (r.drop (nop + fld x 92 1))

/-- Every unpatched item of SPACE 0, 5, 6 or 7 lies within a grant. -/
def Tape.covered (P : Tape) (G : Graph) : Bool :=
  P.tracks.all fun q => q.2.all fun seg => (segItems seg.length seg).all fun w =>
    let c := itemCap w
    (decide (c.space ≠ 0) && decide (c.space ≠ 5) && decide (c.space ≠ 6) && decide (c.space ≠ 7))
      || G.grants.any fun g => decide (g.space = c.space) && decide (g.base ≤ c.base) && decide (c.base + c.len ≤ g.base + g.len)

/-- The same ranks share clusters. -/
def sameGroups (a b : List Nat) : Bool :=
  decide (a.length = b.length) && (List.range a.length).all fun i => (List.range a.length).all fun j =>
    decide (a.getD i 0 = a.getD j 0) == decide (b.getD i 0 = b.getD j 0)

/-- The replay fault of a task, if a check of R341 fails: cause, reason, guard offset. -/
def State.replayFault (s : State) (G : Graph) (T : Task) (o : OpEnt) (clusters : List Nat) (caps : List (Nat × Cap)) :
    Option (Cause × Nat × Nat) :=
  match s.findTape T.tapeid G.asid with
  | none => some (.tapegone, 11, 0)
  | some P =>
    if P.base ≠ T.image.base ∨ P.textLen ≠ T.image.textLen ∨ P.crc ≠ T.image.crc then some (.tapegone, 11, 0)
    else if P.tiles ≠ o.tiles ∨ P.nstage ≠ T.nstage then some (.tapegone, 12, 0)
    else if P.fmt ≠ o.fmt then some (.tapegone, 13, 0)
    else if !sameGroups P.groups clusters then some (.tapegone, 14, 0)
    else match P.guards.find? fun g => decide (s.taskArg G.root T g.1 g.2.1 ≠ g.2.2) with
      | some g => some (.tapeguard, 10, g.1)
      | none =>
        let slotOk := fun (x : Nat × Nat × Nat × Nat) => match caps.find? fun c => c.1 = x.1 with
          | some (_, c) => c.tag && (decide (x.2.2.2 = 0) || decide (c.space = x.2.1)) && decide (x.2.2.1 ≤ c.len) && c.grants x.2.2.2
          | none => false
        if P.slots.all slotOk ∧ P.covered G then none else some (.tapegone, 15, 0)

/-! ### Rebinding (R343) -/

/-- A segment as a replay reads it: patched items hold the new capabilities, a DSTART's recorded field holds its value. -/
def rebindSeg (slots : List Cap) (arg8 : Nat → Nat) : Nat → List Word128 → List Word128
  | 0, _ => []
  | _, [] => []
  | n + 1, w :: r =>
    let x := w.toNat
    if fld x 80 8 ≠ 0 then w :: rebindSeg slots arg8 n r
    else
      let h := fld x 0 32
      let nop := fld x 89 3
      let ops := r.take nop
      let nx := xEntries h (fld x 32 32)
      let fixed := nx + (if isSgo h ∧ 4 < nop - nx then 5 else 0)
      let isDstart := decide (fld h 29 3 = 5 ∧ fld h 16 7 = 9)
      let xs := (ops.take nx).map fun v => if isDstart ∧ fld v.toNat 64 1 = 1 then e128 (arg8 (v.toNat % 2 ^ 64)) else v
      let rly := fld x 92 1
      w :: (xs ++ (ops.take fixed).drop nx ++ (ops.drop fixed).map (rebind slots) ++ (r.drop nop).take rly)
        ++ rebindSeg slots arg8 n (r.drop (nop + rly))

/-- The segments of a rank's track, rebound, by engine code. -/
def State.replaySegs (s : State) (P : Tape) (G : Graph) (T : Task) (caps : List (Nat × Cap)) (rank : Nat) : SMap (List Word128) :=
  let slots := P.slots.map fun x => ((caps.find? fun c => c.1 = x.1).map fun c => c.2).getD Cap.null
  let segs := SMap.get [] P.tracks rank
  (List.range 5).foldl (fun m i =>
    let seg := segs.getD i []
    SMap.set [] m (i + 1) (rebindSeg slots (fun o => ofBytes (s.taskArg G.root T o 8)) seg.length seg)) []

/-! ### Moving tracks (R345) -/

/-- Room for the track of rank `r` in a cluster's store, by eviction of tapes other than `P`. -/
def State.trackFits (s : State) (P : Tape) (c : Nat) (ranks : List Nat) : Bool :=
  let need := (ranks.map fun r => if SMap.get 1000 P.where_ r = c then 0 else segBlocks (SMap.get [] P.tracks r)).sum
  ((s.holdTape 0 P.used P).makeRoom c need 256).isSome

/-- Room in a cluster's store for the unread entries of ranks of a parked replay (R346), by eviction. -/
def State.unreadFits (s : State) (T : Task) (c : Nat) (ranks : List Nat) : Option State :=
  s.makeRoom c (((T.parkedUnits.filter fun p => ranks.contains p.1 && decide (p.2.tape.run = 2)).map fun p =>
    segBlocks p.2.tape.unread).sum) 256

/-- Tracks move to the clusters of their ranks: (rank, cluster) pairs; none where a store has no room. -/
def State.moveTracks (s : State) (t id asid : Nat) : List (Nat × Nat) → Option State
  | [] => some s
  | (r, c) :: l =>
    match s.hub.tapes.find? fun P => P.heldBy.contains t && decide (P.id = id) && decide (P.asid = asid) with
    | none => some s
    | some P =>
      if SMap.get 1000 P.where_ r = c then s.moveTracks t id asid l
      else match s.makeRoom c (segBlocks (SMap.get [] P.tracks r)) 256 with
        | none => none
        | some s1 => (s1.mapTape P fun x => { x with where_ := SMap.set 1000 x.where_ r c }).moveTracks t id asid l

/-! ### Recording (R329, R336, R340, R347) -/

/-- The tape that a recording begins with: slots and guards of the container's hints. -/
def State.newTape (s : State) (G : Graph) (T : Task) (o : OpEnt) (clusters : List Nat) : Tape :=
  let block := s.taskArg G.root T 0 T.image.argsize
  { id := T.tapeid, asid := G.asid, root := G.root, base := T.image.base, plen := T.image.len, textLen := T.image.textLen, crc := T.image.crc
    tiles := o.tiles, nstage := T.nstage, fmt := o.fmt, op := o.op, groups := clusters
    slots := (T.image.hints.filter fun h => h.1 = 2).map fun h => (h.2.2, 0, 0, 0)
    guards := (T.image.hints.filter fun h => h.1 = 1).map fun h => (h.2.2, 2 ^ h.2.1, (block.drop h.2.2).take (2 ^ h.2.1))
    block := block, dur := 0, tracks := [], where_ := [], valid := true, heldBy := [], used := 0 }

/-- The id is already being recorded under the ASID (reason BUSY). -/
def State.recordBusy (s : State) (id asid : Nat) : Bool := s.hub.recording.any fun r => decide (r.2.id = id) && decide (r.2.asid = asid)

/-- Origins of the k registers as a recording begins (R335). -/
def startOrigins (T : Task) (caps : List (Nat × Cap)) : SMap KOrigin :=
  let fields := (caps.zip (List.range caps.length)).foldl (fun m q => SMap.set .clean m (2 + q.2) (KOrigin.field q.1.1)) []
  let hints := T.image.hints.filter fun h => h.1 = 2
  (hints.zip (List.range hints.length)).foldl (fun m q => SMap.set .clean m q.1.2.1 (KOrigin.slot q.2 0)) fields

/-- A recording has run to its end: its tape replaces any earlier one with the same id; a tape that a replay holds goes
when that replay ends (R329, R349).  The directory holds 256 tapes. -/
def State.recordDone (s : State) (t : Nat) (T : Task) : State :=
  match s.recTape t with
  | none => s
  | some P =>
    let seg := fun (u : Nat) => (List.range 5).map fun i => SMap.get [] (s.unit u).tape.segs (i + 1)
    let ur := T.units.zip T.ranks
    let Q := { P with
      dur := if P.dur = 0 then 0 else s.time.toNat - (P.dur - 1)
      tracks := ur.foldl (fun m q => SMap.set [] m q.2 (seg q.1)) []
      where_ := ur.foldl (fun m q => SMap.set 1000 m q.2 (clusterOf q.1)) []
      used := s.tick }
    let s1 : State := { s with hub := { s.hub with recording := s.hub.recording.filter fun r => r.1 ≠ t } }
    let s2 := s1.invalidTapes fun x => decide (x.id = P.id) && decide (x.asid = P.asid)
    let spare := s2.hub.tapes.filter fun x => !s2.tapeHeld x
    let oldest := spare.foldl (fun b x => match b with | none => some x | some y => if x.used < y.used then some x else some y) (none : Option Tape)
    if s2.hub.tapes.length < 256 then { s2 with hub := { s2.hub with tapes := s2.hub.tapes ++ [Q] } }
    else match oldest with
      | some x => { s2 with hub := { s2.hub with tapes := (s2.hub.tapes.filter fun y => y ≠ x) ++ [Q] } }
      | none => s2

end Sys2Proof.Machine
end

