-- ==== Sys2Proof/Machine/Dispatcher.lean ====
section
/-! DEFINITION. The dispatcher (R370 to R375): readiness, partitions, placement, the start of a task and of a resumed unit;
the forwarding of continuations and of the fallback queues (R380). -/

namespace Sys2Proof.Machine

/-! ### Free units and clusters (R130, R245, R271, R371, R372, R402) -/

/-- A unit in placement that no task holds. -/
def State.unitFree (s : State) (u : Nat) : Bool := decide ((s.unit u).run = .free) && !(s.unit u).retiredMark
/-- A unit that runs a best-effort task, which may have saved the unit already, or ended on it. -/
def State.bestEffort (s : State) (u : Nat) : Bool :=
  (decide ((s.unit u).run = .running) || decide ((s.unit u).run = .parked) || decide ((s.unit u).run = .ended)) && (match s.task (s.unit u).id.task with | some T => decide (T.admitted = 0) | none => false)
/-- A unit that a head may take: a guaranteed one counts units of best-effort tasks as free. -/
def State.usable (s : State) (guar : Bool) (u : Nat) : Bool := s.unitFree u || (guar && s.bestEffort u)
def State.busyUnits (s : State) (c : Nat) : Nat := ((clusterUnits c).filter fun u => decide ((s.unit u).run ≠ .free)).length

/-- The banks of a graph's grants of a space are the graph's or nobody's. -/
def banksFree (owner : SMap Nat) (g space bits : Nat) (grants : List Cap) : Bool :=
  grants.all fun c => decide (c.space ≠ space) || (List.range (c.len / 2 ^ bits)).all fun i =>
    let o := SMap.get 0 owner (c.base / 2 ^ bits + i)
    decide (o = 0) || decide (o = g + 1)
/-- The cluster and its die can hold the graph's regions (R130). -/
def State.regionsFree (s : State) (g : Nat) (G : Graph) (c : Nat) : Bool :=
  banksFree (s.cluster c).owner g 2 18 G.grants && banksFree (s.die (c / 12)).owner g 3 20 G.grants

/-- Tasks with units on a cluster. -/
def State.tasksOn (s : State) (c : Nat) : List Task :=
  s.hub.tasks.filterMap fun q => match q.2 with
    | some T => if T.units.any fun u => clusterOf u = c then some T else none
    | none => none

/-- Cluster `c` can take `n` units of a task at a point: clock, regions, shared queues and groups, leases. -/
def State.clusterTakes (s : State) (T : Task) (g : Nat) (G : Graph) (q n c : Nat) : Bool :=
  let guar := decide (T.admitted ≠ 0)
  let on := s.tasksOn c
  let k := (s.cluster c).clk
  !s.clusterDown c && s.regionsFree g G c
    && decide (n ≤ ((clusterUnits c).filter (s.usable guar)).length)
    && ((clusterUnits c).all (fun u => s.usable guar u || (s.unit u).retiredMark) || (decide (k.op = q) && decide (k.target = q)))
    && (guar || decide (q ≤ k.opmax))
    && !(T.image.usesCq && on.any fun V => V.image.usesCq)
    && !(T.image.usesGroups && on.any fun V => V.image.usesGroups)
    && !(on.any fun V => V.lease.isSome)

/-! ### Candidates in their order (R372, R407) -/

/-- The groups of candidate clusters: those that hold the tracks, the home, the home die, the other dies in turn. -/
def State.candidateGroups (s : State) (T : Task) (asid : Nat) : List (List Nat) :=
  let tracks := match (if T.replays then s.findTape T.tapeid asid else none) with
    | some P => (P.where_.map (·.2)).eraseDups
    | none => []
  let dieOfHome := T.home / 12
  let die := fun (d : Nat) => (List.range 12).map fun i => d * 12 + i
  [tracks, [T.home], (die dieOfHome).filter (fun c => decide (c ≠ T.home))]
    ++ (List.range 7).map fun i => die ((dieOfHome + 1 + i) % 8)

/-- The other cluster of a series pair (R22). -/
def partner (c : Nat) : Nat := if c % 2 = 0 then c + 1 else c - 1

/-- The tasks that are parked for a head that takes `n` units of a cluster (R372). -/
def State.displaced (s : State) (guar : Bool) (n c : Nat) : List Nat :=
  ((((clusterUnits c).filter (s.usable guar)).take n).filter fun u => !s.unitFree u).map fun u => (s.unit u).id.task

/-- How far a cluster's busy units would differ after placement from its partner's, with `n` units placed there, 8 on each cluster
taken already, and the tasks that the head displaces gone (R407). -/
def State.balance (s : State) (guar : Bool) (taken : List Nat) (n c : Nat) : Nat :=
  let gone := ((c :: taken).map (s.displaced guar n)).flatten
  let busy := fun (x : Nat) => if taken.contains x then 8 else
    ((clusterUnits x).filter fun u => decide ((s.unit u).run ≠ .free) && !gone.contains (s.unit u).id.task).length
  let a := busy c + n
  let b := busy (partner c)
  if a ≤ b then b - a else a - b

/-- The best candidate of a group: after a cluster of a pair its partner, then the better balance, then the lower index. -/
def State.bestOf (s : State) (guar : Bool) (taken : List Nat) (n : Nat) (l : List Nat) : Option Nat :=
  let key := fun (c : Nat) => (if taken.contains (partner c) then 0 else 1000000) + s.balance guar taken n c * 1000 + c
  l.foldl (fun m c => match m with | none => some c | some b => if key c < key b then some c else some b) none

/-- The first group that has a candidate gives the cluster. -/
def State.firstOf (s : State) (guar : Bool) (taken : List Nat) (n : Nat) (ok : Nat → Bool) : List (List Nat) → Option Nat
  | [] => none
  | l :: r =>
    match s.bestOf guar taken n (l.filter fun c => ok c && !taken.contains c) with
    | some c => some c
    | none => s.firstOf guar taken n ok r

/-- Insertion into ascending order. -/
def insAsc (n : Nat) : List Nat → List Nat
  | [] => [n]
  | m :: r => if n ≤ m then n :: m :: r else m :: insAsc n r

/-- `n` more whole clusters beside those taken, one after the other in the order of R372, ascending in the end: the first choice of
which `fits` holds, that is whose clusters can take the tracks of the ranks that come to them (R345).  A choice that does not fit is
made again without the cluster it took last, so only where no choice fits is there none. -/
def State.wholeClusters (s : State) (guar : Bool) (ok : Nat → Bool) (groups : List (List Nat)) (fits : List Nat → Bool) :
    Nat → Nat → List Nat → List Nat → Option (List Nat)
  | 0, _, _, _ => none
  | k + 1, n, taken, out =>
    if n = 0 then
      let l := taken.foldl (fun l c => insAsc c l) []
      if fits l then some l else none
    else match s.firstOf guar taken 8 (fun c => ok c && !out.contains c) groups with
      | none => none
      | some c =>
        match s.wholeClusters guar ok groups fits k (n - 1) (taken ++ [c]) out with
        | some l => some l
        | none => s.wholeClusters guar ok groups fits k n taken (c :: out)

/-- The ranks that are still to run (R375). -/
def Task.liveRanks (T : Task) (tiles : Nat) : List Nat := (List.range tiles).filter fun r => !T.ended.contains r

/-- The units of a partition for entry `o` in ascending linear index, if one can be chosen.  A task with at most 8 live
ranks that was not larger takes them of one cluster, a larger one takes whole clusters. -/
def State.partition (s : State) (T : Task) (G : Graph) (o : OpEnt) : Option (List Nat) :=
  let n := (T.liveRanks o.tiles).length
  let groups := s.candidateGroups T G.asid
  let guar := decide (T.admitted ≠ 0)
  let live := T.liveRanks o.tiles
  let tracks := fun (ranks : List Nat) (c : Nat) =>
    if T.parkedUnits ≠ [] then (s.unreadFits T c ranks).isSome
    else match (if T.replays then s.findTape T.tapeid G.asid else none) with
      | some P => s.trackFits P c ranks
      | none => true
  let fits := fun (cs : List Nat) => (cs.zip (List.range cs.length)).all fun q => tracks ((live.drop (8 * q.2)).take 8) q.1
  if o.tiles ≤ 8 then
    (s.firstOf guar [] n (fun c => s.clusterTakes T T.graph G o.op n c && tracks live c) groups).map fun c =>
      ((clusterUnits c).filter (s.usable guar)).take n
  else
    (s.wholeClusters guar (fun c => s.clusterTakes T T.graph G o.op 8 c) groups fits 200 ((n + 7) / 8) [] []).map fun cs =>
      ((cs.map clusterUnits).flatten).take n

/-! ### Placement (R106, R129, R212, R330, R373, R374) -/

/-- A unit without its contents: what a dispatch starts from (R212), and what a gated die leaves (R16). -/
def UnitSt.freed (U : UnitSt) : UnitSt :=
  { UnitSt.reset with
    csr := { Csrs.reset with vecS := U.csr.vecS }
    mchecks := U.mchecks, mcCount := U.mcCount, retiredMark := U.retiredMark }

/-- A unit given back by its task: what it held of the task is gone, and its registers and banks stay as they are until a
dispatch sets them (R212, R320, R374). -/
def UnitSt.released (U : UnitSt) : UnitSt :=
  { U with
    run := .free
    csr := { U.csr with preq := false, pdRemain := 0 }
    id := Ident.reset, walk := Walk.reset, work := Work.reset, trap := TrapSt.reset, group := none, dove := Dctx.reset
    hb := Hb.reset
    tape := { TapeSt.reset with run := U.tape.run, reason := U.tape.reason, mark := U.tape.mark, entries := U.tape.entries }
    bar := none }

/-- The text of a task (R298). -/
def State.loadText (s : State) (root : Nat) (T : Task) : SMap Word32 :=
  (List.range T.image.textLen).foldl (fun m i =>
    SMap.set 0 m i (BitVec.ofNat 32 (ofBytes (s.vaBytes root (T.image.base + T.image.textOff + 4 * i) 4)))) []

/-! ### The park area (R399, R400, R433) -/

/-- Bytes of a park record: the context image and the unit's share of the hub's state, in a size at which 768 records and the regions of
R400 fit into 4 GiB. -/
def recSize : Nat := 0x3A0000
/-- The registered park area, as address and length in LPDDR-6. -/
def State.parkArea (s : State) : Nat × Nat :=
  match s.hub.regs.find? fun r => r.kind = 7 with | some r => (r.addr, r.len) | none => (0, 2 ^ 32)
/-- How many records the area has, beside 1.25 GiB for the cluster and die scratchpad regions. -/
def State.recCount (s : State) : Nat := (s.parkArea.2 - 0x50000000) / recSize
/-- The records that live units and parked units have. -/
def State.liveRecs (s : State) : List Nat :=
  ((s.units.filter fun q => decide (q.2.run ≠ .free)).map fun q => q.2.id.superCap.base)
    ++ (s.hub.tasks.map fun q => (q.2.map fun T => T.parkedUnits.map fun p => p.2.id.superCap.base).getD []).flatten

/-- The supervisor capability of a unit that is placed names a park record that is no other live one's, within the area.  DESIGN CHOICE,
the records stand one after another from the start of the area, and which free one is taken is free (log entry 150). -/
def State.parkCap (s : State) : Cap :=
  let shift := Config.freeNat s.tick 3000000
  let bases := (List.range s.recCount).map fun k => s.parkArea.1 + (k + shift) % s.recCount * recSize
  let live := s.liveRecs
  Cap.mk' 0 (permR + permW + permC) recSize ((bases.find? fun b => !live.contains b).getD s.parkArea.1) true

/-- Place `p` for saved regions, in units of 8 MiB behind the records. -/
def State.savedKey (s : State) (p : Nat) : Nat := keyOf 1 (s.parkArea.1 + s.recCount * recSize + p * 2 ^ 23)
/-- Units of 8 MiB of region `i`: cluster `i`, or die `i - 96`. -/
def placeSize (i : Nat) : Nat := if i < 96 then 1 else 8
/-- A place that no saved region has. -/
def State.freePlace (s : State) (i : Nat) : Nat :=
  let used := (s.hub.graphs.map fun q => (q.2.map fun G => G.saved).getD []).flatten
  let n := (s.parkArea.2 - s.recCount * recSize) / 2 ^ 23
  ((List.range n).find? fun p => decide (p + placeSize i ≤ n)
    && used.all fun q => decide (p + placeSize i ≤ q.2) || decide (q.2 + placeSize q.1 ≤ p)).getD 0

/-- Registers and banks of a unit at dispatch (R106, R129, R212). -/
def startUnit (U : UnitSt) (T : Task) (id : Ident) (text : SMap Word32) (caps : List (Nat × Cap)) : UnitSt :=
  let full := permR + permW + permA + permC
  let k0 := (Regs.reset.setK 0 (Cap.mk' 1 full 0x100000 0 true)).setK 1 (Cap.mk' 4 full 0x200000 0 true)
  let k := (caps.zip (List.range caps.length)).foldl (fun r q => Regs.setK r (2 + q.2) q.1.2) k0
  let F := U.freed
  { F with
    run := .loading
    regs := k
    csr := { F.csr with tapeid := T.tapeid }
    id := id
    walk := { F.walk with
      pc := engs.foldl (fun m e => SMap.set 0 m e.code T.entry) []
      text := text, textLen := T.image.textLen }
    alloc := 0xFF
    sb := (List.range 16).foldl (fun m j => SMap.set Bank.reset m j { Bank.reset with st := .full }) [] }

/-- What the tape of a fresh unit holds: run kind, reason, segments, origins. -/
structure TapeStart where
  run : Nat
  reason : Nat
  fault : Option Trap
  segs : Nat → SMap (List Word128)
  origins : SMap KOrigin

/-- How a task runs (R329, R341, R342): the tape checks of a replay, which holds its tape from the first check on whatever they find
(R346), or the beginning of a recording. -/
def State.tapeStart (s : State) (t : Nat) (G : Graph) (T : Task) (o : OpEnt) (clusters : List Nat) (caps : List (Nat × Cap)) :
    State × TapeStart :=
  let live := fun (run reason : Nat) (fault : Option Trap) => (⟨run, reason, fault, fun _ => [], []⟩ : TapeStart)
  let record := fun (s : State) (reason other : Nat) (fault : Option Trap) =>
    if !T.records ∧ T.replays then (s, live other reason fault)
    else if s.recordBusy T.tapeid G.asid then (s, live 0 8 fault)
    else
      let s1 : State := { s with hub := { s.hub with recording := s.hub.recording ++ [(t, s.newTape G T o clusters)] } }
      (s1, { live 1 reason fault with origins := startOrigins T caps })
  if T.replays then
    match s.replayFault G T o clusters caps, s.findTape T.tapeid G.asid with
    | none, some P => (s.holdTape t s.tick P, ⟨2, 0, none, fun r => s.replaySegs P G T caps r, []⟩)
    | some (c, reason, off), P =>
      let s0 := P.elim s fun P => s.holdTape t P.used P
      let s1 := if reason = 12 ∨ reason = 13 then s0.invalidTapes fun x => decide (x.id = T.tapeid) && decide (x.asid = G.asid) else s0
      if T.fallback then record s1 reason 3 none else record s1 reason 0 (some ⟨c, 0, reason, off⟩)
    | none, none => (s, live 0 0 none)
  else if T.records then record s 0 0 none
  else (s, live 0 0 none)

/-- The regions of the graph's grants belong to it on a cluster and its die (R130). -/
def State.grantRegions (s : State) (g : Nat) (G : Graph) (c : Nat) : State :=
  let own := fun (m : SMap Nat) (space bits : Nat) => (G.grants.filter fun x => x.space = space).foldl (fun m x =>
    (List.range (x.len / 2 ^ bits)).foldl (fun m i => SMap.set 0 m (x.base / 2 ^ bits + i) (g + 1)) m) m
  let C := s.cluster c
  let D := s.die (c / 12)
  (s.setCluster c { C with owner := own C.owner 2 18 }).setDie (c / 12) { D with owner := own D.owner 3 20 }

/-- Clusters and dies taken by a task: regions, empty conditional streams and groups, and its point. -/
def State.takeCluster (s : State) (g : Nat) (G : Graph) (T : Task) (q c : Nat) : State :=
  let s1 := s.grantRegions g G c
  let C := s1.cluster c
  let C1 := if T.image.usesCq then { C with cq := [], cqRel := [] } else C
  let C2 := if T.image.usesGroups then { C1 with groups := [] } else C1
  (s1.setCluster c C2).aimCluster c (min q (max C.clk.opmax (if q = 7 then 7 else 0)))

/-- A unit is placed: scratchpads and B-store cleared, registers set (R129, R374). -/
def State.placeUnit (s : State) (u : Nat) (U : UnitSt) : State :=
  ((s.wipeAt (localKey u 1 0) 0x100000).wipeAt (localKey u 4 0) 0x200000).setUnit u
    { U with stopped := (s.cluster (clusterOf u)).clk.relock }

/-- The checked accesses that happen before the start of a task: those of its TCONT, of the tasks that have an edge to it, and of
what has set the events that it waited on (R374, R416). -/
def State.startAfter (s : State) (T : Task) : List Nat :=
  let done := fun (t : Nat) => (s.task t).elim [] Task.fin
  let evs := (List.range 64).filter fun i => T.waitm.getLsbD i
  let l := T.edges.foldl (fun l t => uni l (done t)) T.after
  match s.graph T.graph with
  | some G => if G.evKnow = [] then l else evs.foldl (fun l i => uni l (SMap.get [] G.evKnow i)) l
  | none => l

/-- The identity of rank `r` (R23, R379). -/
def State.identOf (s : State) (t : Nat) (G : Graph) (T : Task) (o : OpEnt) (ope r : Nat) (caps : List (Nat × Cap)) : Ident :=
  { task := t, rank := r, tiles := o.tiles - 1, stage := r * T.nstage / o.tiles, nstage := T.nstage - 1, graph := T.graph
    card := if T.cont then T.slot else T.card, g := T.guaranteed, c := T.cont, ope := ope, asid := G.asid, root := G.root
    args := T.args, argsize := T.image.argsize, argcaps := caps, payload := T.payload, superCap := s.parkCap, dove := T.image.dove }

/-- A fresh task is placed on its units. -/
def State.placeFresh (s : State) (t : Nat) (G : Graph) (T : Task) (ope : Nat) (o : OpEnt) (units : List Nat) : Option State :=
  let ranks := List.range units.length
  let clusters := units.map clusterOf
  let caps := s.argCaps G T
  let q := s.tapeStart t G T o clusters caps
  match (if q.2.run = 2 then q.1.moveTracks t T.tapeid G.asid (ranks.zip clusters) else some q.1) with
  | none => none
  | some s1 =>
    let s2 := clusters.eraseDups.foldl (fun s c => s.takeCluster T.graph G T o.op c) s1
    let text := s.loadText G.root T
    let s3 := (units.zip ranks).foldl (fun s x =>
      let U := (startUnit (s.unit x.1) T (s.identOf t G T o ope x.2 caps) text caps).learnAll (s.startAfter T)
      let segs := q.2.segs x.2
      s.placeUnit x.1 { U with
        tape := { U.tape with
          run := q.2.run, reason := q.2.reason, ko := q.2.origins, segs := segs
          entries := if q.2.run = 2 then (segs.map fun e => e.2.length).sum else 0 }
        trap := { U.trap with pend := q.2.fault } }) s2
    some (s3.setTask t { T with st := .dispatching, units := units, ranks := ranks, ope := ope, dispatched := s.time.toNat })

/-- The unit that holds now the rank that unit `old` held before the park. -/
def Task.unitNow (T : Task) (units ranks : List Nat) (old : Nat) : Nat :=
  match T.parkedOn.find? fun p => p.2 = old with
  | some (r, _) => ((ranks.zip units).find? fun q => q.1 = r).map (·.2) |>.getD old
  | none => old

/-- What the hub saved with a parked task comes back into its new cluster: stage queues, conditional streams, groups with
their members' new units (R399). -/
def State.restoreShared (s : State) (T : Task) (units ranks : List Nat) : State :=
  match units.head? with
  | none => s
  | some u0 =>
    let c := clusterOf u0
    let C := s.cluster c
    let now := T.unitNow units ranks
    let groups := T.parkGroups.map fun q => (q.1, { q.2 with
      members := q.2.members.map fun m => (now m.1, m.2), leaving := q.2.leaving.map now, joining := q.2.joining.map now })
    s.setCluster c { C with
      stageq := T.parkStageq.foldl (fun m q => SMap.set [] m q.1 q.2) C.stageq
      stageRel := T.parkStageRel.foldl (fun m q => SMap.set [] m q.1 q.2) C.stageRel
      cq := if T.image.usesCq then T.parkCq else C.cq
      cqRel := if T.image.usesCq then T.parkCqRel else C.cqRel
      groups := if T.image.usesGroups then groups else C.groups }

/-- The banks of a space that grants name: bank numbers of `2 ^ bits` bytes. -/
def grantBanks (grants : List Cap) (space bits : Nat) : List Nat :=
  ((grants.filter fun c => decide (c.space = space)).map fun c =>
    (List.range (c.len / 2 ^ bits)).map fun i => c.base / 2 ^ bits + i).flatten.eraseDups

/-- A saved region comes back, bank by bank, and is saved no longer. -/
def State.restoreRegion (s : State) (g : Nat) (q : Nat × Nat) (region space bits : Nat) : State :=
  match s.graph g with
  | none => s
  | some G =>
    let k := s.savedKey q.2
    let m := (grantBanks G.grants space bits).foldl (fun (m : Mem) b =>
      m.copyTagged (k + b * 2 ^ bits) (keyOf region (b * 2 ^ bits)) (2 ^ bits)) s.mem
    (({ s with mem := m } : State).moveHistory k (keyOf region 0) (placeSize q.1 * 2 ^ 23)).setGraph g
      { G with saved := G.saved.erase q }

/-- Another parked task of the graph stood on cluster `c`. -/
def State.parkedHere (s : State) (t g c : Nat) : Bool :=
  s.hub.tasks.any fun q => decide (q.1 ≠ t) && match q.2 with
    | some V => decide (V.graph = g) && decide (V.parkedUnits ≠ []) && V.parkedOn.any fun p => decide (clusterOf p.2 = c)
    | none => false

/-- A saved region comes back where the first task of the graph that stood beside it resumes (R400): the die's on the new die of a rank
that stood on the old one; a cluster's on the new cluster of a rank that stood on it, or, where no parked task did, on the cluster of
the same number of the new die.  `moved` holds the old and the new unit of each rank. -/
def State.regionBack (s : State) (t g : Nat) (moved : List (Nat × Nat)) (q : Nat × Nat) : State :=
  let onDie := fun (d : Nat) => (moved.find? fun p => dieOf p.1 = d).map fun p => dieOf p.2
  if 96 ≤ q.1 then (onDie (q.1 - 96)).elim s fun d => s.restoreRegion g q (regDsp d) 3 20
  else match moved.find? fun p => clusterOf p.1 = q.1 with
    | some p => s.restoreRegion g q (regCsp (clusterOf p.2)) 2 18
    | none =>
      match onDie (q.1 / 12), s.graph g with
      | some d, some G =>
        let c := d * 12 + q.1 % 12
        if s.parkedHere t g q.1 ∨ !s.regionsFree g G c then s else (s.grantRegions g G c).restoreRegion g q (regCsp c) 2 18
      | _, _ => s

/-- Saved regions come back at the same offsets (R400). -/
def State.restoreRegions (s : State) (t : Nat) (T : Task) (units ranks : List Nat) : State :=
  let moved := (ranks.zip units).filterMap fun q => (T.parkedOn.find? fun p => p.1 = q.1).map fun p => (p.2, q.2)
  match s.graph T.graph with
  | some G => G.saved.foldl (fun s q => s.regionBack t T.graph moved q) s
  | none => s

/-- A frozen lease comes back on the same clusters and is returned on others (R402). -/
def State.resumeLease (s : State) (t : Nat) : State :=
  match s.task t with
  | some T =>
    (match T.lease with
     | some (q, left) =>
       let old := (T.parkedOn.map fun p => clusterOf p.2).eraseDups
       if (T.clusters.all fun c => old.contains c) ∧ old.all fun c => T.clusters.contains c then
         (s.setTask t { T with lease := some (q, s.time.toNat + left), frozen := false }).aimTask T q
       else s.setTask t { T with lease := none, frozen := false }
     | none => s)
  | none => s

/-- A parked task is placed again (R375): its entry, ranks, stages and tile count stay.  DEDUCED, its text is loaded from the
image as it stands at that dispatch, as at every dispatch (R35, R298; log entry 116). -/
def State.placeParked (s : State) (t : Nat) (G : Graph) (T : Task) (o : OpEnt) (units : List Nat) : State :=
  let ranks := T.liveRanks o.tiles
  let s1 := (units.map clusterOf).eraseDups.foldl (fun s c =>
    let r := ((units.zip ranks).filter fun q => clusterOf q.1 = c).map (·.2)
    ((s.unreadFits T c r).getD s).takeCluster T.graph G T o.op c) s
  let text := s.loadText G.root T
  let s2 := (units.zip ranks).foldl (fun s x =>
    let old := (T.parkedUnits.find? fun p => p.1 = x.2).map (·.2)
    let id := match old with | some V => V.id | none => s.identOf t G T o T.ope x.2 []
    let U := startUnit (s.unit x.1) T id text []
    s.placeUnit x.1 { U with tape := old.elim U.tape fun V => { V.tape with restored := decide (V.tape.run = 2) } }) s1
  let T1 := { T with st := .dispatching, units := units, ranks := ranks, dispatched := s.time.toNat }
  (((s2.restoreShared T units ranks).restoreRegions t T units ranks).setTask t T1).resumeLease t

/-! ### The tick (R370, R371) -/

/-- Every event of the task's WAITM is set, and no task with an edge to it is unfinished; of a parked task both were met before
(R363, R375). -/
def State.inputsReady (s : State) (T : Task) : Bool :=
  if T.parkedUnits ≠ [] then true
  else match s.graph T.graph with
  | some G => decide (T.waitm &&& G.events = T.waitm) && T.edges.all fun e =>
      match s.task e with | some V => !V.unfinished | none => true
  | none => false

/-- Entries in the order in which the dispatcher tries them: the fixed one of a guaranteed or a parked task, else those
whose point Campion allows at the moment. -/
def State.entries (s : State) (T : Task) : List (Nat × OpEnt) :=
  let all := (T.opts.zip (List.range T.opts.length)).map fun q => (q.2, q.1)
  if T.admitted ≠ 0 ∨ T.parkedUnits ≠ [] then all.filter fun q => decide (q.1 = T.ope)
  else all.filter fun q => Config.freeBool s.tick (850 + q.2.op)

/-- Best-effort tasks that hold units of a guaranteed head's partition, or keep its clusters from their point: they are to
be parked. -/
def State.askPark (s : State) (units : List Nat) (q : Nat) : State :=
  s.hub.tasks.foldl (fun s x =>
    match s.task x.1 with
    | some V =>
      let on := V.units.any fun u => units.contains u || (decide ((s.cluster (clusterOf u)).clk.op ≠ q)
        && units.any fun v => clusterOf v = clusterOf u)
      if V.st = .running ∧ V.admitted = 0 ∧ on then s.setTask x.1 { V with preempt := true } else s
    | none => s) s

/-- The head of a queue is dispatched, if a partition can be chosen. -/
def State.tryDispatch (s : State) (t : Nat) (T : Task) (G : Graph) : State × Bool :=
  match (s.entries T).findSome? fun q => (s.partition T G q.2).map fun us => (q.1, q.2, us) with
  | none => (s, false)
  | some (k, o, us) =>
    let blocked := us.any (fun u => !s.unitFree u) || (us.map clusterOf).any fun c =>
      decide ((s.cluster c).clk.op ≠ o.op) && (clusterUnits c).any fun u => s.bestEffort u
    if blocked then (s.askPark us o.op, false)
    else if T.parkedUnits ≠ [] then (s.placeParked t G T o us, true)
    else match s.placeFresh t G T k o us with
      | some s1 => (s1, true)
      | none => (s, false)

/-- The highest priority of a cluster whose queue is not empty. -/
def Cluster.headPrio (C : Cluster) : Option (Nat × Nat) :=
  (List.range 4).findSome? fun p => (C.queue p).head?.map fun t => (p, t)

/-- One cluster of a tick: heads are dispatched until one is not ready. -/
def State.tickCluster (s : State) (c : Nat) : Nat → State
  | 0 => s
  | n + 1 =>
    match (s.cluster c).headPrio with
    | none => s
    | some (p, t) =>
      match s.task t with
      | none => s
      | some T =>
        match s.graph T.graph with
        | none => s
        | some G =>
          if !s.inputsReady T then s
          else
            let q := s.tryDispatch t T G
            if q.2 then
              let C := q.1.cluster c
              ((q.1.setCluster c { C with queues := SMap.set [] C.queues p ((C.queue p).erase t) }).settleQueue c p).tickCluster c n
            else q.1

/-- A tick visits the clusters in ascending index. -/
def State.dispatchTick (s : State) : State :=
  if s.time.toNat % 100 = 0 ∧ s.hub.graphs ≠ [] then (List.range 96).foldl (fun s c => s.tickCluster c 5000) s else s

def execDispatchTick (s : State) : Out := .next s.dispatchTick

/-! ### Starts -/

/-- The clusters of a task have their clocks: nothing is changing or due, or a cap holds them. -/
def State.clocksReady (s : State) (T : Task) : Bool := T.clusters.all fun c => (s.cluster c).clk.steady

/-- No page of a guaranteed task's footprint is being moved as the task starts.  DESIGN CHOICE, its start waits for a migration that had
begun before its dispatch, since none may delay its accesses (R119; log entry 159). -/
def State.migClear (s : State) (T : Task) : Bool :=
  decide (T.admitted = 0) || match s.graph T.graph with
    | some G => !s.hub.tcmds.any fun c => decide (c.opc = 2) && decide (c.st = 2)
        && T.foots.any fun f => decide (f.len ≠ 0) && c.covers G.asid f.base f.len
    | none => true

/-- Every unit of a dispatched task starts, all six engines in the same cycle (R374). -/
def State.startTask (s : State) (t : Nat) : State :=
  match s.task t with
  | none => s
  | some T =>
    if T.st ≠ .dispatching ∨ T.parkedUnits ≠ [] ∨ !s.clocksReady T ∨ !s.migClear T ∨ T.status ≠ 0 then s
    else
      let s1 := T.units.foldl (fun s u => s.setUnit u { s.unit u with run := .running }) s
      s1.setTask t { T with st := .running, started := s.time.toNat }

def execTaskStart (t : Nat) (s : State) : Out := .next (s.startTask t)

/-- A matrix word that a park saved reads the B-store of the unit that holds its source's rank now (R275). -/
def MOp.moved (o : MOp) (now : Nat → Nat) : MOp := if o.src = 0 then o else { o with src := now (o.src - 1) + 1 }

/-- A unit that resumes: CAUSE PREEMPT, k14 the park record, k15 the frame, whose header says INFO0[2] (R433, R448).  `V` is the
unit as it parked, and `now` gives the unit that holds a rank's place now. -/
def UnitSt.resumed (U V : UnitSt) (now : Nat → Nat) : UnitSt :=
  { U with
    run := .running
    regs := (U.regs.setK 14 V.id.superCap).setK 15
      (Cap.mk' 1 (permR + permW + permC) (flen U.csr.slipw) (U.csr.tframe * 4096) true)
    csr := { U.csr with cause := BitVec.ofNat 64 (Cause.code .preempt), mode := true, uh := false }
    walk := { U.walk with pc := SMap.set 0 U.walk.pc 0 U.csr.vecS }
    work := { U.work with nextId := V.work.nextId, nmFail := V.work.nmFail }
    trap := { V.trap with
      pend := none, took := false
      saved := { V.trap.saved with mops := V.trap.saved.mops.map fun o => o.moved now } }
    tape := { V.tape with restored := decide (V.tape.run = 2) }, dove := V.dove, bar := V.bar, hb := V.hb }

/-- Where the race history of the unit scratchpad of a parked rank stands meanwhile (R428). -/
def parkedKey (t rank : Nat) : Nat := keyOf (2 ^ 24 + t * 1024 + rank) 0

/-- The race history of a rank follows it to its new unit (R399, R428). -/
def State.followRank (s : State) (t rank u : Nat) : State :=
  if s.races = [] then s
  else
    let s1 := s.moveHistory (parkedKey t rank) (localKey u 1 0) 0x100000
    { s1 with races := s1.races.map fun a => if a.task = t ∧ a.rank = rank then { a with u := u } else a }

/-- A unit of a parked task starts its supervisor handler (R448); the task runs once all its units do. -/
def State.resumeUnit (s : State) (u : Nat) : State :=
  let U := s.unit u
  match s.task U.id.task with
  | none => s
  | some T =>
    match T.parkedUnits.find? fun p => p.1 = U.id.rank with
    | none => s
    | some (_, V) =>
      if U.run ≠ .loading ∨ T.st ≠ .dispatching ∨ !s.clocksReady T ∨ !s.migClear T then s
      else
        let base := localKey u 1 (U.csr.tframe * 4096)
        let s1 : State := ((({ s with mem := s.mem.write u 4 base (u64 (Cause.code .preempt) ++ u64 4) } : State).setUnit u
          (U.resumed V (T.unitNow T.units T.ranks))).followRank U.id.task U.id.rank u).dropHistory base 16
        let left := T.parkedUnits.filter fun p => p.1 ≠ U.id.rank
        s1.setTask U.id.task { T with
          parkedUnits := left
          st := if left = [] then .running else .dispatching
          started := if left = [] then s.time.toNat else T.started
          parkedOn := if left = [] then [] else T.parkedOn
          parkStageq := [], parkCq := [], parkGroups := [], parkStageRel := [], parkCqRel := [] }

def execUnitResume (u : Nat) (s : State) : Out := unitEvent u s (s.resumeUnit u)

/-! ### Continuations (R380) -/

/-- The first record of the global queue whose queue takes it moves there; the order of the records of one queue stays. -/
def State.forwardCont (s : State) : State :=
  match s.hub.conts.findSome? fun r =>
    (s.task r.t).bind fun T =>
      let c := s.homeOf r.va
      if s.clusterDown c then some (r, s.enqueueAt r.t c T)
      else (s.pushQueue c T.prio r.t).map fun _ => (r, s.enqueueAt r.t c T) with
  | some (r, s1) => ({ s1 with hub := { s1.hub with conts := s1.hub.conts.filter fun x => x.t ≠ r.t } } : State).releaseHeld
  | none => s

def execContinuationForward (s : State) : Out := .next s.forwardCont

/-- The head of a die's fallback queue goes on through the current REMAP. -/
def State.forwardFallback (s : State) (d : Nat) : State :=
  match (s.die d).fallback with
  | [] => s
  | t :: r =>
    match s.task t with
    | none => s.setDie d { s.die d with fallback := r }
    | some T =>
      let c := s.homeOf T.va
      if s.clusterDown c ∨ (s.pushQueue c T.prio t).isNone then s
      else (s.setDie d { s.die d with fallback := r }).enqueueAt t c T

def execFallbackForward (die : Nat) (s : State) : Out := .next (if die < 8 then s.forwardFallback die else s)

end Sys2Proof.Machine
end

