-- ==== Sys2Proof/Machine/TaskEnd.lean ====
section
/-! DEFINITION. The end of a unit (R320), the completion of a task and what follows from it (R363, R365, R402), the overrun
of a guaranteed task (R377). -/

namespace Sys2Proof.Machine

/-! ### UNIT_END (R320) -/

/-- Every engine has arrived at an END word. -/
def State.atEnd (s : State) (u : Nat) : Bool :=
  let U := s.unit u
  let h := if U.tape.run = 2 then (match U.nextRec .L with | some r => r.hdr | none => 0) else s.textAt U (U.pcOf .S)
  U.allArrived && !U.inHandler && decide (fld h 29 3 = 6) && decide (fld h 16 7 = 6)

/-- A write of the unit within the task's footprint is not yet performed at device scope. -/
def State.footPending (s : State) (u : Nat) (T : Task) : Bool :=
  s.mem.staged.any fun w => decide (w.u = u) && decide (w.lvl < 3) && decide (keyRegion w.key < 16)
    && T.foots.any fun f => f.w && s.rangeMeets (s.unit u).id.root f.base f.len w.key w.bytes.length

/-- Everything that END waits for has happened. -/
def State.endReady (s : State) (u : Nat) (T : Task) : Bool :=
  let U := s.unit u
  let W := U.work
  s.runs u && s.atEnd u && U.quiet && decide (W.loads = 0) && decide (W.stores = 0) && decide (W.copies = 0)
    && decide (W.tiles = 0) && decide (W.nmcs = []) && decide (U.dove.status ≠ 2) && !U.dove.busy && !s.footPending u T

/-- The head entries that a recording keeps of END (R331, R343). -/
def State.recordEnd (s : State) (u : Nat) : State :=
  others.foldl (fun s e => match (s.unit u).nextRec e with | some r => s.meetEntry u e r | none => s) (s.firstIssue u)

/-- The unit ends: its walking state is discarded, and its rank counts as ended. -/
def State.endUnit (s : State) (u : Nat) : State :=
  match s.task (s.unit u).id.task with
  | none => s
  | some T =>
    if !s.endReady u T then s
    else
      let s1 := s.recordEnd u
      let U := s1.unit u
      let V := { U with run := .ended, walk := { Walk.reset with text := U.walk.text, textLen := U.walk.textLen } }
      (s1.setUnit u V).setTask U.id.task { T with ended := T.ended ++ [U.id.rank] }

def execUnitEnd (u : Nat) (s : State) : Out := unitEvent u s (s.endUnit u)

/-! ### TASK_COMPLETE (R363, R365) -/

/-- The units of a task are given back, with what its clusters hold of it; a cluster left with no task runs at OP0
(R384). -/
def State.freeTask (s : State) (t : Nat) (T : Task) : State :=
  let s1 := T.units.foldl (fun s u => s.setUnit u (s.unit u).released) s
  T.clusters.foldl (fun s c =>
    let C := s.cluster c
    let s2 := s.setCluster c { C with
      stageq := C.stageq.filter fun q => decide (q.1 / 8 ≠ t)
      stageRel := C.stageRel.filter fun q => decide (q.1 / 8 ≠ t)
      cq := if T.image.usesCq then [] else C.cq
      cqRel := if T.image.usesCq then [] else C.cqRel
      groups := if T.image.usesGroups then [] else C.groups }
    if s2.busyUnits c = 0 then s2.aimCluster c 0 else s2) s1

/-- Unfinished tasks that have an edge from one of `ts`, and from those in turn, join the list (R365). -/
def State.withDependants (s : State) : Nat → List Nat → List Nat
  | 0, ts => ts
  | n + 1, ts =>
    let more := s.hub.tasks.filterMap fun q => match q.2 with
      | some V => if V.unfinished && !ts.contains q.1 && V.edges.any fun e => ts.contains e then some q.1 else none
      | none => none
    if more = [] then ts else s.withDependants n (ts ++ more)

/-- A task leaves its queues and is done with a status. -/
def State.finishAs (s : State) (status t : Nat) : State :=
  let s1 := (s.unqueue t).releaseTapes t
  match s1.task t with
  | some T => s1.setTask t { T with st := .done, status := status, units := [], lease := none, frozen := false }
  | none => s1

/-- The graph's count, the lowest card among the tasks that ended other than DONE, and those that ended late (R366). -/
def State.countFailed (s : State) (g : Nat) (ts : List Nat) : State :=
  match s.graph g with
  | none => s
  | some G =>
    let low := (ts.filterMap fun t => (s.task t).map fun T => T.card).foldl min (G.failed.getD 65535)
    let late := (ts.filter fun t => match s.task t with | some T => T.late s.time.toNat | none => false).length
    s.setGraph g { G with unfinished := G.unfinished - ts.length, failed := some low, nlate := G.nlate + late }

/-- A task ends with a status other than DONE: no event is set, its dependants end with DEPFAIL, its recording and its
lease are gone. -/
def State.endFailed (s : State) (t : Nat) (T : Task) : State :=
  let s0 : State := { s with hub := { s.hub with recording := s.hub.recording.filter fun r => decide (r.1 ≠ t) } }
  let ts := (s0.withDependants s0.hub.tasks.length [t]).filter fun x => decide (x ≠ t)
  let s1 := (s0.releaseTapes t).freeTask t T
  let s2 := ts.foldl (fun s x => s.finishAs stDepfail x) (s1.finishAs T.status t)
  (s2.countFailed T.graph (t :: ts)).endIfDone T.graph

/-- What a task covers when it ends. -/
def State.coverTask (s : State) (t : Nat) (fin : List Nat) : State :=
  if fin = [] then s
  else match s.task t with
  | some T => s.setTask t { T with fin := fin }
  | none => s

/-- What the completion, or the park, of a task covers: all that its units have accessed or know (R363, R416). -/
def State.taskFin (s : State) (T : Task) : List Nat := T.units.foldl (fun l u => uni l (s.unit u).allKnown) T.fin

/-- The completion of a task covers `fin`, and so does the setting of each event of `sigm` (R363, R416). -/
def Graph.signal (G : Graph) (sigm : BitVec 64) (fin : List Nat) : SMap (List Nat) :=
  if fin = [] then G.evKnow
  else ((List.range 64).filter fun i => sigm.getLsbD i).foldl (fun m i => { G with evKnow := m }.tellEvent i fin) G.evKnow

/-- A task ends with DONE: its events are set, NDONE and NLATE count it, a recording becomes a tape (R329, R363, R366). -/
def State.endDone (s : State) (t : Nat) (T : Task) : State :=
  let rec_ := T.units.any fun u => decide ((s.unit u).tape.run = 1)
  let s0 := if rec_ then s.recordDone t T else s
  let fin := s.taskFin T
  let s1 := ((s0.releaseTapes t).dropLease t).freeTask t T
  let s2 := (s1.finishAs stDone t).coverTask t fin
  match s2.graph T.graph with
  | none => s2
  | some G =>
    (s2.setGraph T.graph { G with
      events := if G.ending then G.events else G.events ||| T.sigm
      evKnow := if G.ending then G.evKnow else G.signal T.sigm fin
      unfinished := G.unfinished - 1, ndone := G.ndone + 1, nlate := if T.late s.time.toNat then G.nlate + 1 else G.nlate }).endIfDone T.graph

/-- A task whose units have all stopped completes; with DONE, the completion is a release at device scope (R363). -/
def State.completeTask (s : State) (t : Nat) : State :=
  match s.task t with
  | none => s
  | some T =>
    if T.st = .done then s
    else if T.status ≠ 0 then
      if T.units.all fun u => s.halted u then s.endFailed t T else s
    else if T.st = .running ∧ (T.ranks.all fun r => T.ended.contains r) ∧ T.units.all fun u => s.mem.releasedAt u 3 then
      s.endDone t T
    else s

def execTaskComplete (t : Nat) (s : State) : Out := .next (s.completeTask t)

/-! ### Overrun (R377) -/

/-- A guaranteed task has run longer than its d: it is logged, the host is told, and the contract is lifted from the
tasks that follow in its graph. -/
def State.overran (s : State) (t : Nat) : State :=
  match s.task t with
  | none => s
  | some T =>
    if T.admitted = 0 ∨ T.st ≠ .running ∨ T.overrun ∨ T.ranFor + (s.time.toNat - T.started) ≤ T.dur then s
    else
      let s1 := s.setTask t { T with overrun := true }
      let s2 : State := { s1 with hub := { s1.hub with log := s1.hub.log ++ [(⟨3, T.graph, T.card, 0⟩ : HostEv)] } }
      let s3 := s2.tellHost 9 T.graph T.card 0
      match s3.graph T.graph with
      | some G => s3.setGraph T.graph { G with contract := false }
      | none => s3

def execGuaranteedOverrun (t : Nat) (s : State) : Out := .next (s.overran t)

end Sys2Proof.Machine
end

