-- ==== Sys2Proof/Machine/Parking.lean ====
section
/-! DEFINITION. Pre-emption requests (R447 to R449) and the hub's part of a park (R375, R399, R479). -/

namespace Sys2Proof.Config

/-- The hub's state of a parked unit as the firmware lays it out in the park record (R399). -/
opaque hubShare (tick u : Nat) : List Sys2Proof.Byte

end Sys2Proof.Config

namespace Sys2Proof.Machine

/-- Since an instant that stands as that instant and one, 0 for not at all, something has held for `ns`. -/
def heldSince (since now ns : Nat) : Bool := decide (since ≠ 0) && decide (since - 1 + ns ≤ now)

/-! ### Requests (R447) -/

/-- The unit resumes: the handler that CTXLOAD and RETI end runs (R448). -/
def UnitSt.resuming (U : UnitSt) : Bool := U.inHandler && decide (fld U.csr.cause.toNat 0 8 = Cause.code .preempt)

/-- The request reaches a unit: p23 and STATUS.PREQ, and the count from LIMIT. -/
def UnitSt.request (U : UnitSt) : UnitSt :=
  if U.run ≠ .running ∨ U.csr.preq ∨ U.resuming then U
  else { U with csr := { U.csr with preq := true, pdRemain := U.csr.pdLimit } }

/-- A request for a running task is set on its units; a unit that resumes gets it at its RETI. -/
def State.preemptSet (s : State) (t : Nat) : State :=
  match s.task t with
  | none => s
  | some T =>
    if !T.preempt ∨ T.st ≠ .running then s
    else
      let s1 := T.units.foldl (fun s u => s.setUnit u (s.unit u).request) s
      s1.setTask t { T with reqAt := if T.reqAt = 0 then s.time.toNat else T.reqAt }

def execPreemptRequest (t : Nat) (s : State) : Out := .next (s.preemptSet t)

/-- A request is withdrawn while no unit of the task has taken PREEMPT; later the withdrawal is ignored. -/
def State.withdraw (s : State) (t : Nat) : State :=
  match s.task t with
  | none => s
  | some T =>
    if !T.preempt ∨ T.took then s
    else
      let s1 := T.units.foldl (fun s u =>
        let U := s.unit u
        s.setUnit u { U with csr := { U.csr with preq := false, pdRemain := 0 } }) s
      s1.setTask t { T with preempt := false, reqAt := 0 }

def execPreemptWithdraw (t : Nat) (s : State) : Out := .next (s.withdraw t)

/-- The sixth arrival at a YIELD whose outcome is yield may come in this cycle: every other engine has arrived or stands at it, and
all is performed (R319). -/
def State.yieldDue (s : State) (u : Nat) : Bool :=
  let U := s.unit u
  let at_ := fun (e : Eng) (h : Nat) => U.walk.arrived.contains e
    || (issues e h && decide (fld h 29 3 = 6) && decide (fld h 16 7 = 5) && ((U.outOf e).head? == some (.yields true)))
  !U.inHandler && U.quiet && decide (U.walk.arrived ≠ [])
    && (others.all fun e => match U.nextRec e with | some r => at_ e r.hdr | none => false)
    && (decide (U.tape.run = 2) || U.walk.arrived.contains .S)

/-- The count has reached LIMIT: PREEMPT is forced, with INFO0[1] in a handler (R447); a YIELD that meets in the same cycle has the
cooperative save instead (R446). -/
def State.forceSave (s : State) (u : Nat) : State :=
  let U := s.unit u
  if U.csr.preq ∧ U.csr.pdRemain = 0 ∧ !U.trap.took ∧ s.runs u ∧ !s.yieldDue u then
    s.takeTrap u ⟨.preempt, 0, if U.inHandler then 2 else 0, 0⟩
  else s

def execForcedSave (u : Nat) (s : State) : Out := clockEvent u s (s.forceSave u)

/-! ### The park (R399) -/

/-- What the clusters of a task hold of it goes with the task: stage queues, conditional streams, groups. -/
def State.saveShared (s : State) (t : Nat) (T : Task) : Task :=
  T.clusters.foldl (fun V c =>
    let C := s.cluster c
    { V with
      parkStageq := (C.stageq.filter fun q => decide (q.1 / 8 = t)).foldl (fun m q => SMap.set [] m q.1 q.2) V.parkStageq
      parkStageRel := (C.stageRel.filter fun q => decide (q.1 / 8 = t)).foldl (fun m q => SMap.set [] m q.1 q.2) V.parkStageRel
      parkCq := if T.image.usesCq then C.cq else V.parkCq
      parkCqRel := if T.image.usesCq then C.cqRel else V.parkCqRel
      parkGroups := if T.image.usesGroups then C.groups else V.parkGroups }) T

/-- A unit has nothing more in flight that the hub does not keep: its stores and QPUSHes are performed (R161), its near-memory
commands have completed (R184), and its Dovetail run has ended (R296). -/
def UnitSt.nothingLeft (U : UnitSt) : Bool :=
  decide (U.dove.status ≠ 2) && !U.dove.busy && decide (U.work.sops = []) && decide (U.work.wops = []) && decide (U.work.nmcs = [])

/-- Every unit of the task that has not ended is saved, and has settled.  DEDUCED, what the units have written is performed at device
scope by then, so that the units on which the task resumes see it and its later releases cover it (R320, R381, R413; log entry 151). -/
def State.allParked (s : State) (T : Task) : Bool :=
  (T.units.any fun u => decide ((s.unit u).run = .parked))
    && T.units.all fun u => let U := s.unit u
        (decide (U.run = .ended) || (decide (U.run = .parked) && U.nothingLeft)) && s.mem.releasedAt u 3

/-- The hub writes a unit's share of its own state behind the context image in the unit's park record (R399).  What it holds comes back
from the state; its layout is the firmware's, so the bytes are free. -/
def State.writeShare (s : State) (u : Nat) : State :=
  s.writeMem 0 4 (keyOf 1 ((s.unit u).id.superCap.base + ctxLen)) ((Config.hubShare s.tick u).take (recSize - ctxLen)) false

/-- The hub has written the park area: the task is parked, its units are gated and free, its lease is frozen (R402). -/
def State.parkTask (s0 : State) (t : Nat) : State :=
  match s0.task t with
  | none => s0
  | some T =>
    if T.st ≠ .running ∨ T.status ≠ 0 ∨ !s0.allParked T then s0
    else
      let live := (T.ranks.zip T.units).filter fun q => decide ((s0.unit q.2).run = .parked)
      let s := live.foldl (fun s q => (s.moveHistory (localKey q.2 1 0) (parkedKey t q.1) 0x100000).writeShare q.2) s0
      let cycles := (T.units.map fun u => (s.unit u).csr.cycles.toNat).sum
      let V := { s.saveShared t T with
        st := .parked, units := [], preempt := false, took := false, reqAt := 0, roomAt := 0, bars := [], barKnow := [], fin := s.taskFin T
        parkedOn := live, parkedUnits := live.map fun q => (q.1, s.unit q.2), ranFor := T.ranFor + (s.time.toNat - T.started), doneCycles := T.doneCycles + cycles
        frozen := T.lease.isSome
        lease := T.lease.map fun l => (l.1, if T.frozen then l.2 else l.2 - s.time.toNat) }
      (s.freeTask t T).setTask t V

def execParkDone (t : Nat) (s : State) : Out := .next (s.parkTask t)

/-- A parked task re-enters queue PRIO of the cluster that REMAP names now, ahead of every entry (R375, R479), once no curtailment is in
force and the headroom for it has held for 10 ms (R399, R478); the last on-chip entry makes room for it and goes to the ring, at its
head, once the ring has room, and a cluster that is down leaves it to its die's fallback queue. -/
def State.requeue (s : State) (t : Nat) : State :=
  match s.task t with
  | none => s
  | some T =>
    if T.st ≠ .parked ∨ s.camp.grade ≠ 0 ∨ !heldSince T.roomAt s.time.toNat 10000000 then s
    else
      let c := s.homeOf T.va
      if s.clusterDown c then s.enqueueAt t c T
      else
        let C := s.cluster c
        let l := t :: C.queue T.prio
        let ring := C.ring T.prio
        if 64 < l.length ∧ s.spillLen ≤ ring.length then s else
        let s1 := if 64 < l.length then s.spillWrite c T.prio (SMap.get 0 C.spillAt T.prio + s.spillLen - ring.length - 1) else s
        (s1.setCluster c { C with
          queues := SMap.set [] C.queues T.prio (l.take 64)
          spill := SMap.set [] C.spill T.prio (l.drop 64 ++ ring) }).setTask t { T with st := .queued, home := c }

def execParkResume (t : Nat) (s : State) : Out := .next (s.requeue t)

end Sys2Proof.Machine
end

