-- ==== Sys2Proof/Machine/Campion.lean ====
section
/-! DEFINITION. Campion: the mailbox and the budget curve (R389 to R392, R463), curtailment (R395 to R401), the gating of
dies (R380, R400, R479), leases that run out (R402), pair balance (R408), thermal limits (R409), sensors (R410). -/

namespace Sys2Proof.Config

/-- ECDSA on P-521 with SHA-512: the signature of a message verifies under a key.  The spec names the scheme and does not give the form
of a key. -/
opaque sigValid (key message sig : List Sys2Proof.Byte) : Bool

end Sys2Proof.Config

namespace Sys2Proof.Machine

/-! ### The mailbox (R463) -/

/-- The command that Yarrow takes next: the mailbox answers once SilLane is trained (R467). -/
def State.mailHead (s : State) : Option (Nat × List Byte) :=
  if s.hub.booted ∧ s.hub.retrain ≠ 1 ∧ (SMap.get 16 s.hub.silLanes 0 ≠ 0 ∨ SMap.get 16 s.hub.silLanes 1 ≠ 0) then
    s.inbox.mail.head?
  else none

/-- The command is answered with MBST, STATUS and data, and leaves the mailbox. -/
def State.mailAnswer (s : State) (cmd mbst status : Nat) (data : List Byte) : State :=
  let s1 := s.answer 0 cmd (u16 mbst ++ u16 0 ++ u32 status ++ data)
  { s1 with inbox := { s1.inbox with mail := s1.inbox.mail.tail, early := s1.inbox.early - 1 } }

/-- The head command, if its number is `cmd`, runs; only those that may do so run while the module retrains, or when they were sent
before that had ended (R467). -/
def State.mailbox (s : State) (cmd : Nat) (always : Bool) (run : List Byte → State × Nat × List Byte) : State :=
  match s.mailHead with
  | none => s
  | some (c, bs) =>
    if c ≠ cmd then s
    else if (s.hub.retrain ≠ 0 ∨ s.inbox.early ≠ 0) ∧ !always then s.mailAnswer c 1 0 []
    else
      let q := run bs
      q.1.mailAnswer c 0 q.2.1 q.2.2

/-! ### The budget curve (R389 to R392) -/

/-- The points of a curve from its bytes: each start, CAP and BAND. -/
def curvePts (b : List Byte) : Nat → Nat → Nat → List CurvePt
  | 0, _, _ => []
  | n + 1, i, t =>
    let o := 0x28 + 8 * i
    let start := t + byteField b o 4 * 1000000
    ⟨start, byteField b (o + 4) 2, byteField b (o + 6) 2⟩ :: curvePts b n (i + 1) start

/-- A curve from its bytes. -/
def Curve.ofBytes (b : List Byte) : Curve :=
  ⟨byteField b 8 8, byteField b 16 8, byteField b 24 8, byteField b 0x24 4, curvePts b (byteField b 0x20 2) 0 (byteField b 16 8), 0⟩

/-- Check 1 of R391: the length, and every field within the limits of R389. -/
def curveForm (b : List Byte) : Bool :=
  let c := Curve.ofBytes b
  let n := byteField b 0x20 2
  decide (b.length = 0x28 + 8 * n + 132) && decide (1 ≤ n) && decide (n ≤ 256) && decide (byteField b 0x22 2 = 0)
    && decide (c.floor ≤ 4600) && decide (1000000 ≤ c.horizon) && decide (c.horizon ≤ 2 ^ 62)
    && c.pts.all fun p => decide (180 ≤ p.cap) && decide (p.cap ≤ 4600) && decide (p.band ≤ 1000) && decide (c.floor ≤ p.cap)
        && decide (p.start < c.valid + c.horizon)

/-- Check 2 of R391: SIG, the last 132 bytes, verifies over the bytes before it under the facility's curve key. -/
def State.curveSigned (s : State) (b : List Byte) : Bool :=
  match s.hub.facKey with
  | some k => Config.sigValid k (b.take (b.length - 132)) (b.drop (b.length - 132))
  | none => false

/-- The status of the first check of R391 that fails, 0 when all pass. -/
def State.curveStatus (s : State) (b : List Byte) : Nat :=
  if !curveForm b then 3
  else if !s.curveSigned b then 1
  else if byteField b 0 8 ≠ Config.serial.toNat then 4
  else match s.camp.maxSeq with
    | some m => if byteField b 8 8 ≤ m then 2 else 0
    | none => 0

/-- A curve received: accepted, or refused with a log entry and an event; a floor below what admitted tasks need gives
CONTRACT (R401). -/
def State.takeCurve (s : State) (b : List Byte) : State × Nat × List Byte :=
  let st := s.curveStatus b
  let seq := byteField b 8 8
  if st ≠ 0 then
    let s1 : State := { s with hub := { s.hub with log := s.hub.log ++ [(⟨4, st, seq, 0⟩ : HostEv)] } }
    (s1.tellHost 12 st seq 0, st, [])
  else
    let c0 := Curve.ofBytes b
    let c := { c0 with eff := max c0.valid s.time.toNat }
    let s1 : State := { s with camp := { s.camp with pending := s.camp.pending ++ [c], maxSeq := some seq } }
    (if sumsOk s.loads c.eff c.floor 768 then s1 else s1.tellHost 11 seq 0 0, 0, [])

/-- CURVE (R391).  The argument is what the event reports of the signature; it decides nothing, since check 2 is the model's own. -/
def execCurve (_ : Bool) (s : State) : Out := .next (s.mailbox 1 false s.takeCurve)

/-- CAP and BAND in force at an instant: FLOOR with the default band before the first point and after the horizon. -/
def Curve.pointAt (c : Curve) (t : Nat) : Nat × Nat :=
  if c.valid + c.horizon ≤ t then (c.floor, 0)
  else match (c.pts.filter fun p => decide (p.start ≤ t)).getLast? with
    | some p => (p.cap, p.band)
    | none => (c.floor, 0)

/-- The upper edge of a point, below the cap of the input (R390, R459), in units of 0.1 mW. -/
def upperOf (cap band inputCap : Nat) : Nat := min cap inputCap * 10000 + bandP (min cap inputCap) band

/-- CAP and BAND of the point in force.  DESIGN CHOICE, before the first curve the cap is the limit of the module's input, with the
default band (R27, R459; log entry 82). -/
def State.capNow (s : State) : Nat × Nat :=
  if s.camp.curve.isSome then (min s.camp.cap s.camp.inputCap, s.camp.band) else (s.camp.inputCap, 0)
def State.upperEdge (s : State) : Nat := upperOf s.capNow.1 s.capNow.2 s.camp.inputCap
/-- The lower edge of the point in force (R390). -/
def State.lowerEdge (s : State) : Nat := s.capNow.1 * 10000 - bandP s.capNow.1 s.capNow.2

/-! ### Curtailment (R395 to R398) -/

/-- Running tasks with their numbers, for which no park is requested. -/
def State.active (s : State) (guar : Bool) : List (Nat × Task) :=
  s.hub.tasks.filterMap fun q => match q.2 with
    | some T => if T.st = .running ∧ T.status = 0 ∧ !T.preempt ∧ (T.admitted ≠ 0) = guar then some (q.1, T) else none
    | none => none

/-- A guaranteed task runs on a cluster. -/
def State.guarOn (s : State) (c : Nat) : Bool := (s.tasksOn c).any fun T => decide (T.admitted ≠ 0)

/-- Task `a` is parked before task `b` (R398). -/
def parkBefore (a b : Task) : Bool :=
  decide (b.eclass < a.eclass) || (decide (a.eclass = b.eclass) && (decide (b.dispatched < a.dispatched)
    || (decide (a.dispatched = b.dispatched) && decide (b.units.headD 0 < a.units.headD 0))))

def insPark (q : Nat × Task) : List (Nat × Task) → List (Nat × Task)
  | [] => [q]
  | r :: l => if parkBefore q.2 r.2 then q :: r :: l else r :: insPark q l

/-- Best-effort tasks in the order of R398. -/
def State.parkOrder (s : State) : List (Nat × Task) := (s.active false).foldl (fun l q => insPark q l) []

/-- A cluster is lowered to a point. -/
def State.lower (s : State) (c q : Nat) : State := if q < (s.cluster c).clk.target then s.aimCluster c q else s

/-- Every lease is returned (R402). -/
def State.returnLeases (s : State) : State := s.hub.tasks.foldl (fun s q => s.dropLease q.1) s

/-- Best-effort clusters are lowered: all to OP0, or each to a point that Campion chooses (R393, R395). -/
def State.lowerBest (s : State) (full : Bool) : State :=
  (List.range 96).foldl (fun s c =>
    if s.tasksOn c = [] ∨ s.guarOn c then s
    else s.lower c (if full then 0 else Config.freeNat s.tick (5000 + c) % ((s.cluster c).clk.target + 1))) s

/-- Tile count of a task's entry. -/
def Task.tileCount (T : Task) : Nat := (T.opts.getD T.ope ⟨0, 0, 1, 1, 1⟩).tiles

/-- Cycles that a task has run, summed over its units (R397). -/
def State.cyclesOf (s : State) (T : Task) : Nat := T.doneCycles + (T.units.map fun u => (s.unit u).csr.cycles.toNat).sum

/-- What a guaranteed task still owes, in thousandths of a cycle of one of its tiles, times its tile count (R397). -/
def State.owes (s : State) (T : Task) : Nat := T.dur * clockMHz T.entryOp * T.tileCount - s.cyclesOf T * 1000

/-- finish ≤ DEADLINE − 250 µs at point `q`. -/
def State.slackAt (s : State) (T : Task) (q : Nat) : Bool :=
  decide (s.owes T + (s.time.toNat + 252000) * clockMHz q * T.tileCount ≤ T.deadline * clockMHz q * T.tileCount)

/-- Every guaranteed task on the clusters of `T` has slack at point `q` (R397). -/
def State.slackOn (s : State) (T : Task) (q : Nat) : Bool :=
  T.clusters.all fun c => (s.tasksOn c).all fun V => decide (V.admitted = 0) || s.slackAt V q

/-- Clusters of guaranteed tasks are lowered by one point, within the slack of every guaranteed task on them, and no further. -/
def State.lowerGuar (s : State) : State :=
  (s.active true).foldl (fun s q =>
    if q.2.entryOp ≠ 0 ∧ s.slackAt q.2 (q.2.entryOp - 1) ∧ s.slackOn q.2 (q.2.entryOp - 1) then
      q.2.clusters.foldl (fun s c => s.lower c (q.2.entryOp - 1)) s
    else s) s

def State.askTask (s : State) (t : Nat) : State :=
  match s.task t with | some T => s.setTask t { T with preempt := true } | none => s

/-- A grade is in force, and the host is told grade and point. -/
def State.setGrade (s : State) (g : Nat) : State :=
  let k := s.camp
  ({ s with camp := { k with grade := g, gradeAt := if k.grade = 0 then s.time.toNat else k.gradeAt } } : State).tellHost 20 g k.cap 0

/-! ### Gating order (R396, R400) -/

def dieClusters (d : Nat) : List Nat := (List.range 12).map fun i => d * 12 + i
def dieUnits (d : Nat) : List Nat := (List.range 96).map fun i => d * 96 + i
/-- Tasks with units on a die. -/
def State.tasksOnDie (s : State) (d : Nat) : List (Nat × Task) :=
  s.hub.tasks.filterMap fun q => match q.2 with
    | some T => if T.units.any fun u => dieOf u = d then some (q.1, T) else none
    | none => none
/-- Dies that run no guaranteed task and are neither gated nor being gated. -/
def State.gateable (s : State) : List Nat :=
  (List.range 8).filter fun d => !(s.die d).gated && !(s.die d).gating && !((s.tasksOnDie d).any fun q => decide (q.2.admitted ≠ 0))

/-- Task `a` has more slack than task `b`, each at its clusters' point. -/
def State.moreSlack (s : State) (a b : Task) : Bool :=
  let rate := fun (T : Task) => clockMHz ((T.clusters.head?.map fun c => (s.cluster c).clk.target).getD T.entryOp) * T.tileCount
  let room := fun (T : Task) => (T.deadline : Int) * (rate T : Int) - (s.owes T : Int)
  decide (room b * (rate a : Int) < room a * (rate b : Int))

/-- Guaranteed tasks are parked, the one with the most slack first, until the projection reaches the edge (R396). -/
def State.floorPark (s : State) (stage : Nat) : Nat → State
  | 0 => s
  | n + 1 =>
    match (s.active true).foldl (fun b q => match b with
        | none => some q
        | some r => if s.moreSlack q.2 r.2 then some q else some r) none with
    | none => s
    | some (t, _) =>
      let s1 := s.askTask t
      if Config.projectedDraw s.tick (stage + 1) ≤ s.upperEdge then s1 else s1.floorPark (stage + 1) n

/-- The last measure: FLOOR is shown, and the host is told. -/
def State.floorMeasure (s : State) : State :=
  let n := (s.active true).length
  if n = 0 then s
  else
    let s1 : State := { s with camp := { s.camp with floorFlag := true } }
    (s1.floorPark 2000 n).tellHost 21 0 0 0

/-! ### The judgement (R395) -/

/-- Campion projects the draw with no measure (0), with leases returned and best-effort clusters at OP0 (1), with
guaranteed clusters lowered as well (2), with `n` tasks parked as well (2 + n): `Config.projectedDraw`.  The first grade that
suffices at the edge is chosen and its measures start; `whole` says whether parking and shedding are among them. -/
def State.measures (s : State) (edge : Nat) (whole : Bool) : State × Nat :=
  let draw := fun (k : Nat) => Config.projectedDraw s.tick k
  if draw 0 ≤ edge then (s, 0)
  else
    let s1 := s.returnLeases
    if draw 1 ≤ edge then (s1.lowerBest false, 1)
    else
      let s2 := (s1.lowerBest true).lowerGuar
      let order := s.parkOrder
      if draw 2 ≤ edge then (s2, 1)
      else if !whole then (s2, 0)
      else match (List.range order.length).find? fun n => decide (draw (3 + n) ≤ edge) with
        | some n => ((order.take (n + 1)).foldl (fun s q => s.askTask q.1) s2, 2)
        | none =>
          let s3 := order.foldl (fun s q => s.failTask q.1 stShed) s2
          (if s3.gateable = [] then s3.floorMeasure else s3, 3)

/-- A curtailment begins, or is judged again, when the edge lies below the projected draw (R395, R401). -/
def State.judgeCap (s : State) : State :=
  let q := s.measures s.upperEdge true
  if q.2 = 0 then q.1 else q.1.setGrade q.2

/-- The point of the curve in force at this instant. -/
def State.setPoint (s : State) : State :=
  match s.camp.curve with
  | some c =>
    let p := c.pointAt s.time.toNat
    { s with camp := { s.camp with cap := p.1, band := p.2 } }
  | none => s

/-- What the schedule holds from the instants after this one, as start and upper edge: the points of the curve in force and the end of
its horizon, up to the curve that takes its place, and that curve's first (R390, R392, R393). -/
def State.schedule (s : State) : List (Nat × Nat) :=
  let now := s.time.toNat
  let edge := fun (p : Nat × Nat) => upperOf p.1 p.2 s.camp.inputCap
  let coming := s.camp.pending.filter fun c => decide (now < c.eff)
  let before := fun (t : Nat) => decide (now < t) && coming.all fun c => decide (t < c.eff)
  let own := match s.camp.curve with
    | some c => ((c.pts.map fun p => p.start) ++ [c.valid + c.horizon]).filter before |>.map fun t => (t, edge (c.pointAt t))
    | none => []
  own ++ coming.map fun c => (c.eff, edge (c.pointAt c.eff))

/-- The first of them that lies below the edge in force. -/
def State.lowerPoint (s : State) : Option (Nat × Nat) :=
  (s.schedule.filter fun p => decide (p.2 < s.upperEdge)).foldl
    (fun b p => match b with | none => some p | some q => if p.1 < q.1 then some p else some q) none

/-- The accepted curve that takes effect first, if its time has come (R392). -/
def State.nextCurve (s : State) : Option Curve :=
  s.camp.pending.foldl (fun b c =>
    if s.time.toNat < c.eff then b else match b with | none => some c | some d => if c.eff < d.eff then some c else some d) none

def execCurveEffective (s : State) : Out :=
  .next (match s.nextCurve with
    | none => s
    | some c =>
      let s1 : State := { s with camp := { s.camp with curve := some c, pending := s.camp.pending.erase c, past := false } }
      s1.setPoint.judgeCap)

/-- A new point of the curve in force begins (R389). -/
def execCurvePointStart (s : State) : Out :=
  .next (match s.camp.curve with
    | none => s
    | some c => if c.pointAt s.time.toNat = (s.camp.cap, s.camp.band) then s else s.setPoint.judgeCap)

/-- The tasks whose park another state has requested are asked to park. -/
def State.askSame (s r : State) : State :=
  r.hub.tasks.foldl (fun s x => match x.2 with | some T => if T.preempt then s.askTask x.1 else s | none => s) s

/-- Ahead of a lower point, lowering starts up to 100 µs and parking up to 5 ms before (R393); no grade is shown before the
point begins. -/
def execCurvePointLookahead (s : State) : Out :=
  .next (match s.lowerPoint with
    | none => s
    | some (start, edge) =>
      if s.time.toNat + 5000000 < start then s
      else
        let q := s.measures edge true
        if start ≤ s.time.toNat + 100000 then (if q.2 = 3 then (s.measures edge false).1 else q.1)
        else if q.2 = 2 then s.askSame q.1
        else s)

/-- The horizon ends: the cap is FLOOR with the default band, and the host is told (R390). -/
def execCurveHorizonEnd (s : State) : Out :=
  .next (match s.camp.curve with
    | none => s
    | some c =>
      if s.camp.past ∨ s.time.toNat < c.valid + c.horizon then s
      else (({ s with camp := { s.camp with past := true } } : State).setPoint.tellHost 13 c.seq 0 0).judgeCap)

/-- UNDERDRAW, when the average has stayed below the lower edge for 100 ms, once until it has come back within the band (R394). -/
def execUnderdraw (s : State) : Out :=
  .next (if s.camp.under ∨ !heldSince s.camp.lowAt s.time.toNat 100000000 then s else ({ s with camp := { s.camp with under := true } } : State).tellHost 14 0 0 0)

/-! ### Gating a die (R380, R400) -/

/-- The cluster that takes the place of cluster `c` in REMAP. -/
def State.standIn (s : State) (c : Nat) : Nat :=
  match ((List.range 7).map fun k => (c + 12 * (k + 1)) % 96).find? fun x => !s.clusterDown x with
  | some x => x
  | none => (((List.range 95).map fun k => (c + k + 1) % 96).find? fun x => !s.clusterDown x).getD c

/-- Every REMAP entry that names a cluster of the die is rewritten; the hub keeps which, for the ungate. -/
def State.rewriteRemap (s : State) (d : Nat) : State :=
  (List.range 256).foldl (fun s h =>
    let c := s.remapAt h
    if c / 12 ≠ d then s
    else
      let D := s.die d
      (s.setRemap h (s.standIn c)).setDie d { D with rewrote := D.rewrote ++ [h] }) s

/-- The entries of the die's cluster queues move in order to its fallback queue, and the cards that are held for them follow. -/
def State.moveQueues (s : State) (d : Nat) : State :=
  State.releaseHeld <| (dieClusters d).foldl (fun s c =>
    let C := s.cluster c
    let l := ((List.range 4).map fun p => C.queue p ++ C.ring p).flatten
    let D := s.die d
    (s.setCluster c { C with queues := [], spill := [] }).setDie d { D with fallback := D.fallback ++ l }) s

/-- Steps 1 to 3 of R400: best-effort tasks end with SHED, guaranteed ones are parked, REMAP is rewritten. -/
def State.beginGate (s : State) (d : Nat) : State :=
  let D := s.die d
  let s1 : State := (({ s with camp := { s.camp with gates := s.camp.gates ++ [d], gateAt := s.time.toNat } } : State).setDie d
    { D with gating := true, severe := false })
  let s2 := (s1.tasksOnDie d).foldl (fun s q => if q.2.admitted = 0 ∧ !D.severe then s.failTask q.1 stShed else s.askTask q.1) s1
  (s2.rewriteRemap d).moveQueues d

/-- Step 4 of R400: regions of graphs with a parked task are saved to the park area. -/
def State.saveRegion (s : State) (g i region bits : Nat) (owner : SMap Nat) : State :=
  match s.graph g with
  | none => s
  | some G =>
    let mine := (owner.filter fun o => decide (o.2 = g + 1)).map (·.1)
    if mine = [] ∨ G.saved.any fun q => q.1 = i then s
    else
      let p := s.freePlace i
      let k := s.savedKey p
      let m := mine.foldl (fun (m : Mem) b => m.copyTagged (keyOf region (b * 2 ^ bits)) (k + b * 2 ^ bits) (2 ^ bits)) s.mem
      (mine.foldl (fun (s : State) b => s.moveHistory (keyOf region (b * 2 ^ bits)) (k + b * 2 ^ bits) (2 ^ bits))
        { s with mem := m }).setGraph g { G with saved := G.saved ++ [(i, p)] }

def State.saveRegions (s : State) (d : Nat) : State :=
  s.hub.graphs.foldl (fun s q =>
    let parked := s.hub.tasks.any fun x => match x.2 with | some T => decide (T.graph = q.1) && decide (T.parkedUnits ≠ []) | none => false
    if !parked then s
    else (dieClusters d).foldl (fun s c => s.saveRegion q.1 c (regCsp c) 18 (s.cluster c).owner)
      (s.saveRegion q.1 (96 + d) (regDsp d) 20 (s.die d).owner)) s

/-- The die loses what R16 says it loses, and its tapes are invalid. -/
def State.loseDie (s : State) (d : Nat) : State :=
  let t0 := (dieUnits d).foldl (fun s u => (s.wipeAt (localKey u 1 0) 0x100000).wipeAt (localKey u 4 0) 0x200000) s
  let t1 := (dieClusters d).foldl (fun s c => s.wipeAt (keyOf (regCsp c) 0) (2 ^ 23)) t0
  let t2 := t1.wipeAt (keyOf (regDsp d) 0) (2 ^ 26)
  let s1 := (dieUnits d).foldl (fun s u => s.setUnit u (s.unit u).freed) t2
  let s2 := (dieClusters d).foldl (fun s c =>
    let C := s.cluster c
    s.setCluster c { Cluster.reset with clk := { Clock.reset with sensors := C.clk.sensors, scap := C.clk.scap } }) s1
  s2.invalidTapes fun P => P.where_.any fun w => decide (w.2 / 12 = d)

/-- The die is gated once no task holds a unit of it; an emergency of it lasts until its own end (R409). -/
def State.finishGate (s : State) (d : Nat) : State :=
  if (dieUnits d).any fun u => decide ((s.unit u).run ≠ .free) then s
  else
    let s1 := (s.saveRegions d).loseDie d
    let D := s1.die d
    s1.setDie d { D with gated := true, gating := false, owner := [] }

/-- Campion gates this die next: SHED, 1 ms after the last, the projection above the edge, the lowest die that runs no
guaranteed task; or the die is too hot (R400, R409). -/
def State.gateDue (s : State) (d : Nat) : Bool :=
  !(s.die d).gated && !(s.die d).gating && ((s.die d).severe
    || (decide (s.camp.grade = 3) && decide (s.camp.gates = [] ∨ s.camp.gateAt + 1000000 ≤ s.time.toNat)
        && decide (s.upperEdge < Config.projectedDraw s.tick 1000) && decide (s.gateable.head? = some d)))

/-- DIE_GATE: the gate begins, guaranteed tasks are parked where no die is left (R396), and the gate is made as soon as the
die is free. -/
def State.gateDie (s : State) (d : Nat) : State :=
  let s1 := if s.gateDue d then s.beginGate d
    else if s.camp.grade = 3 ∧ s.gateable = [] ∧ !s.camp.floorFlag ∧ s.upperEdge < Config.projectedDraw s.tick 1000 then s.floorMeasure
    else s
  if (s1.die d).gating then s1.finishGate d else s1

def execDieGate (die : Nat) (s : State) : Out := .next (if die < 8 then s.gateDie die else s)

/-- An ungate begins: the last die gated, 1 ms after the last gate or ungate, with no curtailment, once the headroom for a die at OP0
and the band has held for 10 ms (R400). -/
def State.ungateDie (s : State) (d : Nat) : State :=
  let D := s.die d
  if !D.gated ∨ D.ungating.isSome ∨ s.camp.gates.getLast? ≠ some d ∨ s.camp.grade ≠ 0 ∨ s.time.toNat < s.camp.gateAt + 1000000
      ∨ !heldSince s.camp.roomAt s.time.toNat 10000000 then s
  else
    let s1 : State := { s with camp := { s.camp with gates := s.camp.gates.dropLast, gateAt := s.time.toNat } }
    s1.setDie d { D with ungating := some s.time.toNat }

def execDieUngate (die : Nat) (s : State) : Out := .next (if die < 8 then s.ungateDie die else s)

/-- 200 µs later the die is ready, and the REMAP entries that were rewritten for the die's own clusters name them again (R479); entries
of other dies that had come to name this one stay as they are. -/
def State.ungateReady (s : State) (d : Nat) : State :=
  let D := s.die d
  match D.ungating with
  | none => s
  | some t0 =>
    if s.time.toNat < t0 + 200000 then s
    else
      let s1 := (D.rewrote.filter fun h => decide (h % 96 / 12 = d)).foldl (fun s h => s.setRemap h (h % 96)) s
      s1.setDie d { D with gated := false, ungating := none, rewrote := [] }

def execDieUngateReady (die : Nat) (s : State) : Out := .next (if die < 8 then s.ungateReady die else s)

/-! ### Leases and pairs (R402, R408) -/

/-- A lease's time has run out. -/
def State.leaseOver (s : State) (t : Nat) : State :=
  match s.task t with
  | some T =>
    (match T.lease with
     | some (_, e) => if T.frozen ∨ e = 0 ∨ s.time.toNat < e then s else s.dropLease t
     | none => s)
  | none => s

def execLeaseExpire (t : Nat) (s : State) : Out := .next (s.leaseOver t)

/-- The pulses in 8 that a cluster loses. -/
def State.throttleTo (s : State) (c n : Nat) : State := s.setClock c { (s.cluster c).clk with throttle := n }
/-- The heavier cluster of a pair, which the pair regulator measures. -/
def State.heavier (s : State) (p : Nat) : Nat := if Config.freeBool s.tick (600 + p) then 2 * p + 1 else 2 * p

def execPairThrottle (p : Nat) (s : State) : Out :=
  .next (if 48 ≤ p ∨ !s.hub.booted then s else
    let c := s.heavier p
    s.throttleTo c (min 4 ((s.cluster c).clk.throttle + 1)))

def execPairThrottleRestore (p : Nat) (s : State) : Out :=
  .next (if 48 ≤ p then s else (s.throttleTo (2 * p) 0).throttleTo (2 * p + 1) 0)

def execPairThrottleLower (p : Nat) (s : State) : Out :=
  .next (if 48 ≤ p then s else
    let c := s.heavier p
    let k := (s.cluster c).clk
    if k.throttle = 4 then s.lower c (k.op - 1) else s)

/-! ### Sensors and heat (R409, R410) -/

/-- The reading of junction sensor `i` of a cluster, in m°C: the last sample that came. -/
def State.reading (s : State) (c i : Nat) : Int := SMap.get 25000 (s.cluster c).clk.temps i

/-- The neighbours of a sensor, as (cluster, sensor): the other sensors of its cluster and of its pair partner. -/
def sensorsBeside (c i : Nat) : List (Nat × Nat) :=
  (((List.range 8).filter fun j => decide (j ≠ i)).map fun j => (c, j)) ++ (List.range 8).map fun j => (partner c, j)
def State.neighbours (s : State) (c i : Nat) : List Int := (sensorsBeside c i).map fun q => s.reading q.1 q.2

def insInt (n : Int) : List Int → List Int
  | [] => [n]
  | m :: r => if n ≤ m then n :: m :: r else m :: insInt n r
/-- The middle of the values in ascending order. -/
def median (l : List Int) : Int := (l.foldl (fun r n => insInt n r) []).getD (l.length / 2) 0

/-- What Campion takes as the reading: a failed sensor's is the maximum of its neighbours that have not failed, plus 5 °C (R410).  Where
every neighbour has failed the spec gives none, and it is a free value (log entry 149). -/
def State.junction (s : State) (c i : Nat) : Int :=
  if !((s.cluster c).clk.sensors.contains i) then s.reading c i
  else
    match (sensorsBeside c i).filter fun q => !((s.cluster q.1).clk.sensors.contains q.2) with
    | [] => (Config.freeNat s.tick (6400 + 8 * c + i) : Int) - 20000
    | q :: r => r.foldl (fun m x => max m (s.reading x.1 x.2)) (s.reading q.1 q.2) + 5000

def execBoilingLimitUpdate (die lim : Nat) (s : State) : Out :=
  .next (if die < 8 ∧ s.hub.booted then s.setDie die { s.die die with boil := lim } else s)

/-- The first multiple of 50 µs of device time that is at least 20 µs away. -/
def noticeBeat (now : Nat) : Nat := (now + 20000 + 49999) / 50000 * 50000

/-- A notice for a graph goes to every module of its peer mask, over a link that the host's routing table names, and to
this module itself. -/
def State.sendNotice (s : State) (g p : Nat) (on : Bool) : State :=
  match s.graph g with
  | none => s
  | some G =>
    let beat := noticeBeat s.time.toNat
    let bytes := u16 g ++ u8 p ++ u8 (if on then 1 else 0) ++ u64 beat
    let s1 := ((List.range 64).filter fun m => G.peerMask.getLsbD m && decide (m ≠ s.hub.module_)).foldl (fun s m =>
      s.sendOn (Config.freeNat s.tick (620 + m) % 16) 2 0 bytes) s
    { s1 with camp := { s1.camp with notices := s1.camp.notices ++ [(g, p, beat, on)] } }

/-- A thermal cap on a cluster. -/
def State.capCluster (s : State) (c p : Nat) : State :=
  let k := (s.cluster c).clk
  s.setClock c ({ k with therm := some (min p (k.therm.getD p)), opmax := min k.opmax p }.aim (min k.target p))

/-- The cap of a cluster is lifted: back to its task's point, unless a curtailment is in force. -/
def State.uncapCluster (s : State) (c : Nat) : State :=
  let k := (s.cluster c).clk
  if k.therm.isNone ∨ (s.die (c / 12)).emerg then s
  else
    let k1 := { k with therm := none, opmax := 6 }
    s.setClock c (match (s.tasksOn c).head? with
      | some T => if s.camp.grade = 0 then k1.aim (max k1.target T.entryOp) else k1
      | none => k1)

/-- Graphs with running tasks on a die. -/
def State.graphsOn (s : State) (d : Nat) : List Nat := ((s.tasksOnDie d).map fun q => q.2.graph).eraseDups
/-- A cluster runs a task of a graph. -/
def State.runsGraph (s : State) (g c : Nat) : Bool := (s.tasksOn c).any fun T => decide (T.graph = g)

/-- A junction reading of a die in m°C, as Campion uses it, lies above `t` (R409, R410). -/
def State.anyAbove (s : State) (d : Nat) (t : Int) : Bool :=
  (dieClusters d).any fun c => (List.range 8).any fun i => decide (t < s.junction c i)

/-- A thermal emergency, when a junction reading exceeds 105 °C or a dry-out sensor trips: every cluster of the die down two points,
notices for the graphs on it, the host told when guaranteed tasks are among them. -/
def State.tooHot (s : State) (d : Nat) : State :=
  let D := s.die d
  if D.gated ∨ D.emerg ∨ !(s.anyAbove d 105000 || decide (D.dryAt ≠ 0)) then s
  else
    let point := fun (c : Nat) => let k := (s.cluster c).clk; min k.op k.target - 2
    let s1 := (dieClusters d).foldl (fun s c => s.capCluster c (point c)) s
    let gs := s.graphsOn d
    let s2 := gs.foldl (fun s g =>
      s.sendNotice g (((dieClusters d).filter fun c => s.runsGraph g c).foldl (fun p c => min p (point c)) 7) true) s1
    let s3 := if (s.tasksOnDie d).any fun q => decide (q.2.admitted ≠ 0) then s2.tellHost 10 d 0 0 else s2
    s3.setDie d { s3.die d with emerg := true, notified := gs }

def execThermalEmergency (die : Nat) (s : State) : Out := .next (if die < 8 ∧ s.hub.booted then s.tooHot die else s)

/-- A notice that another module sent is taken. -/
def execSlowdownNotice (s : State) : Out :=
  .next (match s.inbox.notices with
    | [] => s
    | n :: r => { s with inbox := { s.inbox with notices := r }, camp := { s.camp with notices := s.camp.notices ++ [n] } })

/-- At the notice's beat every cluster that runs a task of the graph is capped, and the host told where guaranteed tasks run there, or
uncapped; an idle cluster keeps no cap. -/
def State.capBeat (s : State) (i : Nat) : State :=
  match s.camp.notices[i]? with
  | none => s
  | some (g, p, beat, on) =>
    if s.time.toNat < beat then s
    else
      let s1 : State := { s with camp := { s.camp with notices := s.camp.notices.eraseIdx i } }
      (List.range 96).foldl (fun s c =>
        if s.runsGraph g c then
          (if !on then s.uncapCluster c else if s.guarOn c then (s.capCluster c p).tellHost 10 (c / 12) c 0 else s.capCluster c p)
        else if !on ∧ s.tasksOn c = [] then s.uncapCluster c else s) s1

def execThermalCapBeat (i : Nat) (s : State) : Out := .next (s.capBeat i)

/-- The emergency ends, once every reading has stayed below 100 °C for 10 ms with no dry-out: all-clear notices; the die's clusters
that run no notified graph are free at once. -/
def State.coolAgain (s : State) (d : Nat) : State :=
  let D := s.die d
  if !D.emerg ∨ !heldSince D.coolAt s.time.toNat 10000000 then s
  else
    let s1 := s.setDie d { D with emerg := false, notified := [] }
    let s2 := D.notified.foldl (fun s g => s.sendNotice g 0 false) s1
    (dieClusters d).foldl (fun s c => if D.notified.any fun g => s.runsGraph g c then s else s.uncapCluster c) s2

def execThermalEmergencyEnd (die : Nat) (s : State) : Out := .next (if die < 8 then s.coolAgain die else s)

/-- A dry-out has lasted for 1 ms with every cluster of the die at OP0, or a reading lies above 115 °C (R409). -/
def State.severeHeat (s : State) (d : Nat) : Bool :=
  s.anyAbove d 115000 || (heldSince (s.die d).dryAt s.time.toNat 1000000
    && (dieClusters d).all fun c => decide ((s.cluster c).clk.op = 0))

/-- In severe heat every task of the die is parked, the die is to be gated, and Yarrow raises a service request. -/
def execThermalSevere (die : Nat) (s : State) : Out :=
  .next (if 8 ≤ die ∨ (s.die die).gated ∨ (s.die die).severe ∨ !s.severeHeat die ∨ !s.hub.booted then s
    else
      let s1 := (s.tasksOnDie die).foldl (fun s q => s.askTask q.1) s
      (s1.setDie die { s1.die die with severe := true }).service 3 die)

/-! ### Sensors and power caps of clusters (R410, R458) -/

/-- A cluster is capped in power: SCAP, and a point that Campion chooses. -/
def State.powerCap (s : State) (c : Nat) : State :=
  let k := (s.cluster c).clk
  let s1 := s.setClock c { k with scap := true }
  s1.lower c (Config.freeNat s.tick (640 + c) % (k.target + 1))

/-- A sensor fails one of the three tests of R410: a reading outside −20 °C to 150 °C, more than 8 °C from the median of its neighbours,
or one that has not changed for 4,096 samples while the cluster's current did, which is measured. -/
def State.sensorBad (s : State) (c i : Nat) : Bool :=
  let t := s.reading c i
  decide (t < -20000) || decide (150000 < t) || decide (8000 < (t - median (s.neighbours c i)).natAbs)
    || Config.freeBool s.tick (6300 + i)

/-- One more sensor of a cluster is marked failed; the third caps the cluster. -/
def State.sensorFails (s : State) (c : Nat) : State :=
  let k := (s.cluster c).clk
  match (List.range 8).find? fun i => !k.sensors.contains i && s.sensorBad c i with
  | none => s
  | some i =>
    let s1 := s.setClock c { k with sensors := k.sensors ++ [i] }
    if k.sensors.length = 2 then (s1.powerCap c).service 6 c else s1

def execSensorFail (c : Nat) (s : State) : Out := .next (if c < 96 ∧ s.hub.booted then s.sensorFails c else s)

end Sys2Proof.Machine
end

