-- ==== Sys2Proof/Machine/Platform.lean ====
section
/-! DEFINITION. Machine checks as events (R454), telemetry and the power input (R457 to R459), SilLane (R460), the other
mailbox commands (R463, R465, R484), host accesses (R429), reset and retraining (R464, R466, R467). -/

namespace Sys2Proof.Machine

/-! ### MACHINE_CHECK (R454 to R456) -/

/-- The space of a scratchpad or B-store that a source names. -/
def sourceSpace (src : Nat) : Nat := match src with | 2 => 1 | 3 => 4 | 4 => 2 | _ => 3

/-- An uncorrectable error that a unit meets (R455): of a register bank with a current duplicate it is repaired and counted (R221);
of a scratchpad or the B-store it leaves its granule poisoned (R122); and the unit takes a machine check.  A unit without a task is cleared again by the hub (R456). -/
def State.errorMet (s : State) (u src bank synd addr : Nat) : State :=
  if src = 1 ∧ (s.unit u).dcur.getLsbD bank then s.countErr 4096
  else
    let s0 : State :=
      if 2 ≤ src ∧ src ≤ 5 then { s with mem := s.mem.setPoison (localKey u (sourceSpace src) addr) } else s
    let s1 := s0.mcheck u src bank synd addr
    if (s.unit u).run = .free then s1.setUnit u { s1.unit u with run := .free } else s1

def execMachineCheck (u src bank synd addr : Nat) (s : State) : Out :=
  unitEvent u s (if src = 0 ∨ 8 ≤ src then s else s.errorMet u src bank synd addr)

/-! ### The power input (R457 to R459) -/

/-- A telemetry record of source 0 (the 54 V input) or 1 to 48 (a pair regulator): measured values, in an order that the
spec does not give. -/
def execTelemetryRecord (src : Nat) (s : State) : Out :=
  .next (if 49 ≤ src ∨ !s.hub.booted then s else
    s.ringPut 5 ((List.range 16).map fun i => BitVec.ofNat 8 (Config.freeNat s.tick (960 + i))))

/-- A suspect connection: both clusters of the pair are capped, and Yarrow raises a service request. -/
def execSuspectConnection (p : Nat) (s : State) : Out :=
  .next (if 48 ≤ p ∨ s.camp.suspects.contains p ∨ !s.hub.booted then s else
    let s1 : State := { s with camp := { s.camp with suspects := s.camp.suspects ++ [p] } }
    ((s1.powerCap (2 * p)).powerCap (2 * p + 1)).service 4 p)

/-- The connector margin in units of 0.1 %, from the estimated contact resistance, which is measured, in thousandths of the limit: below
20 % a service request, below 0 the input is capped at 3,600 W.  The host is told its 64 bits. -/
def execConnectorMargin (s : State) : Out :=
  .next (if !s.hub.booted then s else
    let r := Config.freeNat s.tick 980
    let m := (BitVec.ofInt 64 (1000 - (r : Int))).toNat
    let s1 := s.tellHost 15 m 0 0
    let s2 := if 800 < r then s1.service 5 m else s1
    if 1000 < r then ({ s2 with camp := { s2.camp with inputCap := 3600 } } : State).judgeCap else s2)

/-! ### SilLane (R460) -/

def State.setSil (s : State) (l n : Nat) : State := { s with hub := { s.hub with silLanes := SMap.set 16 s.hub.silLanes l n } }

def execSillaneDegrade (l : Nat) (s : State) : Out :=
  .next (if 2 ≤ l ∨ SMap.get 16 s.hub.silLanes l ≠ 16 then s else (s.setSil l 8).tellHost 16 l 0 0)
def execSillaneLinkDown (l : Nat) (s : State) : Out :=
  .next (if 2 ≤ l ∨ SMap.get 16 s.hub.silLanes l = 0 then s else (s.setSil l 0).tellHost 17 l 0 0)

/-! ### REGISTER (R484) -/

/-- Entry counts that are a power of two from 64 up. -/
def ringCount (n top : Nat) : Bool := decide (n ∈ (List.range 11).map fun i => 2 ^ (i + 6)) && decide (n ≤ top)

/-- Bytes of a region. -/
def regionSize (kind nent len : Nat) : Nat :=
  match kind with | 6 => 384 * nent * 32 | 7 => len | k => 64 + nent * entrySize k

/-- The memory is allowed for the kind. -/
def regMemOk (kind mem : Nat) : Bool :=
  match kind with
  | 1 => decide (mem = 0)
  | 2 => decide (mem = 1) || decide (mem = 2)
  | 6 => decide (mem = 1) || decide (mem = 2)
  | 7 => decide (mem = 2)
  | _ => decide (mem ≤ 2)

/-- The region lies within the memory: a stack of HBM4, LPDDR-6, or host I/O space. -/
def regInside (mem addr size : Nat) : Bool :=
  match mem with
  | 0 => decide (addr + size ≤ 2 ^ 64)
  | 1 => physOk 0 addr && physOk 0 (addr + size - 1) && decide (addr / 2 ^ 36 = (addr + size - 1) / 2 ^ 36)
  | _ => decide (addr + size ≤ 2000000000000)

/-- The limits of a description that give BADADDR. -/
def State.regBad (s : State) (kind mem addr nent res len : Nat) : Bool :=
  let size := regionSize kind nent len
  decide (addr % 4096 ≠ 0) || !regMemOk kind mem || decide (res ≠ 0)
    || (if kind = 7 then decide (nent ≠ 0) || decide (len < 2 ^ 32) || decide (len % 4096 ≠ 0)
        else decide (len ≠ 0) || !ringCount nent (if kind ≤ 2 then 4096 else 65536))
    || !regInside mem addr size
    || s.hub.regs.any fun r => decide (r.mem = mem) && decide (r.addr < addr + size)
        && decide (addr < r.addr + regionSize r.kind r.nent r.len)

/-- REGISTER: BADKIND, TAKEN, BADADDR, or the registration, whose indices begin at 0. -/
def State.registerCmd (s : State) (b : List Byte) : State × Nat × List Byte :=
  let kind := byteField b 0 4
  let mem := byteField b 4 4
  let nent := byteField b 0x10 4
  let len := byteField b 0x18 8
  if kind = 0 ∨ 8 ≤ kind then (s, 3, [])
  else if (if kind = 1 then 16 else 1) ≤ (s.hub.regs.filter fun r => decide (r.kind = kind)).length then (s, 1, [])
  else if s.regBad kind mem (byteField b 8 8) nent (byteField b 0x14 4) len then (s, 2, [])
  else
    ({ s with hub := { s.hub with regs := s.hub.regs ++ [(⟨kind, mem, byteField b 8 8, nent, len, 0, 0, 0, false⟩ : Reg)] } }, 0, [])

def execRegister (s : State) : Out := .next (s.mailbox 2 true s.registerCmd)

/-! ### ATTEST, KEYSET, DOMAIN, BADCMD (R463, R465) -/

/-- The report: serial, digest, SEQ of the curve in force, units retired, nonce, signature. -/
def State.attestCmd (s : State) (b : List Byte) : State × Nat × List Byte :=
  let seq := match s.camp.curve with | some c => c.seq | none => Config.freeNat s.tick 981
  let retired := (s.units.filter fun q => q.2.retiredMark).length
  let nonce := byteField b 0 16
  (s, 0, u64 Config.serial.toNat ++ toBytes 64 Config.firmwareDigest ++ u64 seq ++ u32 retired ++ toBytes 16 nonce
    ++ toBytes 132 (Config.attestSig nonce Config.firmwareDigest (seq + retired * 2 ^ 64)))

def execAttest (s : State) : Out := .next (s.mailbox 3 true s.attestCmd)

/-- A new facility key, with a signature of 132 bytes behind it: signed under the current one, or the first. -/
def State.keysetCmd (s : State) (b : List Byte) : State × Nat × List Byte :=
  let key := b.take (b.length - 132)
  match s.hub.facKey with
  | some k =>
    if Config.sigValid k key (b.drop (b.length - 132)) then ({ s with hub := { s.hub with facKey := some key } }, 0, []) else (s, 1, [])
  | none => ({ s with hub := { s.hub with facKey := some key } }, 0, [])

/-- KEYSET (R463).  The argument is what the event reports of the signature; it decides nothing, since the model checks it itself. -/
def execKeyset (_ : Bool) (s : State) : Out := .next (s.mailbox 4 false s.keysetCmd)

/-- The module's number and the links of its time path. -/
def State.domainCmd (s : State) (b : List Byte) : State × Nat × List Byte :=
  ({ s with hub := { s.hub with module_ := byteField b 0 1 % 64, timePath := byteField b 2 2 } }, 0, [])

def execDomain (s : State) : Out := .next (s.mailbox 5 false s.domainCmd)

/-- A command that the table does not have: MBST 2, or MBST 1 while the module retrains. -/
def execMailboxBadcmd (s : State) : Out :=
  .next (match s.mailHead with
    | none => s
    | some (c, _) => if 1 ≤ c ∧ c ≤ 5 then s else s.mailAnswer c (if s.hub.retrain ≠ 0 ∨ s.inbox.early ≠ 0 then 1 else 2) 0 [])

/-! ### HOST_MEMORY_ACCESS (R123, R429, R467) -/

/-- A memory accepts the access: SilLane carries it, and HBM4 has trained (R467). -/
def State.hostReaches (s : State) (key : Nat) : Bool :=
  (decide (SMap.get 16 s.hub.silLanes 0 ≠ 0) || decide (SMap.get 16 s.hub.silLanes 1 ≠ 0))
    && decide (s.hub.retrain ≠ 1) && s.memReady key

/-- A host access of module memory, at system scope: a write clears tags, a read of poison says so. -/
def State.hostAccess (s : State) (id : Nat) : State :=
  match s.inbox.host.find? fun q => q.1 = id with
  | none => s
  | some (_, w, key, n, bs) =>
    let s0 : State := { s with inbox := { s.inbox with host := s.inbox.host.filter fun q => q.1 ≠ id } }
    if !s.hostReaches key then s
    else if 2 < keyRegion key ∨ !physOk (keyRegion key) (keyOff key + n - 1) then s0.answer 3 id []
    else if w then (s0.writeMem 0 4 key (bs.take n) false).answer 1 id []
    else if s.mem.poisonFor .system key n then s0.answer 4 id []
    else (s0.touch key).answer 1 id (s.mem.read .system key n)

def execHostMemoryAccess (id : Nat) (s : State) : Out := .next (s.hostAccess id)

/-! ### Resets (R453, R456, R464 to R466) -/

/-- What is left of the units: the marks of retired ones, after a warm reset with the counts since the cold reset. -/
def keptUnits (warm : Bool) (m : SMap UnitSt) : SMap UnitSt :=
  (m.filter fun q => q.2.retiredMark || (warm && decide (q.2.mcCount ≠ 0))).map fun q =>
    (q.1, { UnitSt.reset with
      retiredMark := q.2.retiredMark
      mcCount := if warm then q.2.mcCount else 0, mchecks := if warm then q.2.mchecks else [] })

/-- The cold reset: everything but what lies outside the module, the facility key in protected storage and the marks of
retired units.  A firmware image that fails its check leaves the module with the boot-ROM loader. -/
def State.coldReset (s : State) : State :=
  let out := fun (k : Nat) => decide (keyRegion k = 3) || decide (keyRegion k = 4)
  { State.reset with
    units := keptUnits false s.units
    mem := { Mem.reset with bytes := s.mem.bytes.filter fun e => out e.1 }
    hub := { Hub.reset with
      facKey := s.hub.facKey, booted := Config.freeBool s.tick 990
      answers := s.hub.answers, events := s.hub.events, service := s.hub.service }
    who := s.who, agenda := s.agenda, tick := s.tick }

def execColdReset (s : State) : Out := .next s.coldReset

/-- Device memory in self-refresh; of the writes still on their way, any may be lost. -/
def State.warmMem (s : State) : Mem :=
  let keep := fun (k : Nat) => decide (keyRegion k < 16)
  let m0 : Mem := { Mem.reset with
    bytes := s.mem.bytes.filter fun e => keep e.1
    tags := s.mem.tags.filter fun e => keep (e.1 * 16)
    poison := s.mem.poison.filter fun e => keep (e.1 * 64), nextId := s.mem.nextId }
  s.mem.staged.foldl (fun m w =>
    if keep w.key ∧ Config.freeBool s.tick (7000000 + w.id) then m.commit w.key w.bytes w.tag else m) m0

/-- The warm reset (R466): the host learns of it, and SilLane, HBM4 and Dovetail train (R467). -/
def State.warmReset (s : State) : State :=
  let k := s.camp
  ({ State.reset with
    units := keptUnits true s.units
    clusters := (s.clusters.filter fun q => q.2.clk.sensors ≠ [] || q.2.clk.scap).map fun q =>
      (q.1, { Cluster.reset with clk := { Clock.reset with sensors := q.2.clk.sensors, scap := q.2.clk.scap } })
    dies := (List.range 8).map fun d => (d, { Die.reset with trained := false })
    mem := s.warmMem
    hub := { Hub.reset with
      lock := false, retrain := 1, silLanes := [(0, 0), (1, 0)]
      links := (List.range 16).map fun l => (l, { Link.reset with lanes := 0 })
      facKey := s.hub.facKey, booted := s.hub.booted, cxlDown := s.hub.cxlDown, hotAt := s.time.toNat
      answers := s.hub.answers, events := s.hub.events, service := s.hub.service, log := s.hub.log }
    camp := { k with grade := 0, gradeAt := 0, floorFlag := false, under := false, gates := [], gateAt := 0, notices := [] }
    time := s.time, who := s.who, agenda := s.agenda, tick := s.tick } : State).tellHost 18 0 0 0

def execWarmReset (s : State) : Out := .next s.warmReset

/-! ### Retraining (R467) -/

/-- SilLane is trained: the mailbox answers, and the HBM4 PHYs train. -/
def execSillaneTrained (l : Nat) (s : State) : Out :=
  .next (if 2 ≤ l ∨ s.hub.retrain = 0 then s else
    let s1 := s.setSil l 16
    { s1 with hub := { s1.hub with retrain := max 2 s1.hub.retrain } })

/-- A PHY is trained; a stack whose check fails is held out of service, and the host is told. -/
def execHbm4PhyTrained (k : Nat) (ok : Bool) (s : State) : Out :=
  .next (if 8 ≤ k ∨ s.hub.retrain ≠ 2 then s else
    let s1 := s.setDie k { s.die k with trained := true }
    let s2 := if ok then s1 else ({ s1 with mem := { s1.mem with dead := s1.mem.dead ++ [k] } } : State).tellHost 19 k 0 0
    if (List.range 8).all fun d => (s2.die d).trained then
      s2.hub.held.foldl (fun s q => s.ringPut q.1 q.2) { s2 with hub := { s2.hub with retrain := 3, held := [] } }
    else s2)

/-- A Dovetail link is trained; when no more will come up, the time lock returns and retraining is over. -/
def execDovetailTrained (l : Nat) (s : State) : Out :=
  .next (if 16 ≤ l ∨ s.hub.retrain ≠ 3 then s else
    let s1 := s.setLink l { s.link l with lanes := 8 }
    if ((List.range 16).all fun j => decide ((s1.link j).lanes ≠ 0)) ∨ Config.freeBool s.tick 991 then
      { s1 with hub := { s1.hub with retrain := 0, lock := true }, inbox := { s1.inbox with early := s1.inbox.mail.length } }
    else s1)

end Sys2Proof.Machine
end

