-- ==== Sys2Proof/Machine/Time.lean ====
section
/-! DEFINITION. Device time: what a length of time does to the counts of every cluster (R5, R138, R305, R385, R449, R453),
what Campion may do as it passes (R393 to R397), and what the outside world presents (R122, R219, R461, R463, R467). -/

namespace Sys2Proof.Config

/-- The input power that Campion has measured, averaged over 1 ms, and the draw of a die at OP0, in units of 0.1 mW (R393, R400). -/
opaque measuredDraw (tick : Nat) : Nat
opaque diePower : Nat

end Sys2Proof.Config

namespace Sys2Proof.Machine

/-! ### Cycles -/

/-- Cycles of a cluster's clock in a length of device time: none during a relock, less the pulses removed (R385, R408). -/
def Clock.cyclesIn (k : Clock) (t ns : Nat) : Nat :=
  if k.relock then 0
  else (t + ns) * clockMHz k.op * (8 - k.throttle) / 8000 - t * clockMHz k.op * (8 - k.throttle) / 8000

/-- A wake loses the cycles that have passed. -/
def Bank.pass (B : Bank) (n : Nat) : Bank := if B.st = .waking then { B with wake := B.wake - n } else B

/-- Cycles pass on unit `u` that holds a task: CYCLES, PDEADLINE's count, the watched waits, the wakes. -/
def State.passUnit (s : State) (u n : Nat) (U : UnitSt) : UnitSt :=
  if U.run = .free ∨ n = 0 then U
  else
    let V := s.passWaits u n U
    let W : UnitSt := { V with
      csr := { V.csr with
        cycles := V.csr.cycles + BitVec.ofNat 64 n
        pdRemain := if V.csr.preq ∧ !V.trap.took then V.csr.pdRemain - n else V.csr.pdRemain }
      rb := V.rb.map fun q => (q.1, q.2.pass n)
      sb := V.sb.map fun q => (q.1, q.2.pass n) }
    W.copiesOn s.tick n

/-! ### Campion as time passes -/

/-- The response bound of a grade (R395). -/
def gradeBound (g : Nat) : Nat := match g with | 1 => 100000 | 2 => 5000000 | _ => 20000000

/-- The grade ends at the first instant from which the input power, which is measured, stays at or below the upper edge, at the latest
its bound (R395). -/
def State.gradeEnds (s : State) : State :=
  let k := s.camp
  if k.grade ≠ 0 ∧ (Config.measuredDraw s.tick ≤ s.upperEdge ∨ k.gradeAt + gradeBound k.grade ≤ s.time.toNat) then
    { s with camp := { k with grade := 0, floorFlag := false } }
  else s

/-- With no grade and no thermal emergency in force Campion holds the measured draw within the band (R393): above the upper edge it lowers
a best-effort cluster, below the lower edge it may raise one up to OPMAX, and with headroom it may raise the clusters of a guaranteed
task back to its entry's point (R397).  Which cluster, and to which point, is free. -/
def State.track (s : State) : State :=
  let draw := Config.measuredDraw s.tick
  if s.camp.grade ≠ 0 ∨ s.tooHotNow then s
  else
    let c := Config.freeNat s.tick 932 % 96
    let k := (s.cluster c).clk
    let q := Config.freeNat s.tick 933
    if s.tasksOn c = [] ∨ (s.tasksOn c).any fun T => T.lease.isSome then s
    else if s.upperEdge < draw then (if s.guarOn c then s else s.lower c (q % (k.target + 1)))
    else if !Config.freeBool s.tick 931 then s
    else if s.guarOn c then
      (match (s.tasksOn c).find? fun T => decide (T.admitted ≠ 0) with
       | some T => s.aimCluster c (max k.target (min T.entryOp k.opmax))
       | none => s)
    else if draw < s.lowerEdge then s.aimCluster c (max k.target (q % (k.opmax + 1)))
    else s

/-- A die that draws more than its limit, the lower of 440 W and the boiling limit that Yarrow has computed, has a cluster
lowered by one point; its draw and the cluster are free (R409). -/
def State.dieLimit (s : State) (d : Nat) : State :=
  if min 440 (s.die d).boil < Config.freeNat s.tick (940 + d) then
    let c := 12 * d + Config.freeNat s.tick (950 + d) % 12
    s.lower c ((s.cluster c).clk.target - 1)
  else s

/-- The cap in mW of a cluster with failed sensors or a suspect connection, the lower of 60 % and 80 % of a twelfth of 440 W; 0 for no
cap (R410, R458). -/
def State.capOf (s : State) (c : Nat) : Nat :=
  let k := (s.cluster c).clk
  if !k.scap then 0 else if 2 < k.sensors.length then 22000 else 29333

/-- A capped cluster that draws more than its cap is lowered by one point; its draw is free (R410, R458). -/
def State.clusterLimit (s : State) (c : Nat) : State :=
  if s.capOf c ≠ 0 ∧ s.capOf c < Config.freeNat s.tick (3100 + c) then s.lower c ((s.cluster c).clk.target - 1) else s

/-- The count of how long something has held, with the instant that has come. -/
def heldNow (on : Bool) (since now : Nat) : Nat := if !on then 0 else if since = 0 then now + 1 else since

/-- The average draw judged at an instant: how long it has lain below the lower edge while the rules of tracking apply, and whether it has
come back within the band, so that a further UNDERDRAW may be sent (R393, R394). -/
def State.judgeDraw (s : State) : State :=
  let k := s.camp
  let draw := Config.measuredDraw s.tick
  let low := k.curve.isSome && decide (k.grade = 0) && !s.tooHotNow && decide (draw < s.lowerEdge)
  { s with camp := { k with
      lowAt := heldNow low k.lowAt s.time.toNat
      under := k.under && !(decide (s.lowerEdge ≤ draw) && decide (draw ≤ s.upperEdge)) } }

/-- The headroom at an instant beyond the band: for the next die to be ungated, at OP0, and for each parked task at its entry's power
(R399, R400). -/
def State.judgeRoom (s : State) : State :=
  let room := s.lowerEdge - Config.measuredDraw s.tick
  let now := s.time.toNat
  let fits := fun (T : Task) =>
    let o := T.opts.getD T.ope ⟨0, 0, 1, 1, 1⟩
    decide (0 < room) && decide (o.energy * 10000000 ≤ room * o.time)
  { s with
    camp := { s.camp with roomAt := heldNow (decide (Config.diePower ≤ room)) s.camp.roomAt now }
    hub := { s.hub with tasks := s.hub.tasks.map fun q => (q.1, q.2.map fun T =>
      if T.st = .parked then { T with roomAt := heldNow (fits T) T.roomAt now } else T) } }

/-- How long the readings of a die have stayed below 100 °C with no dry-out (R409). -/
def State.judgeHeat (s : State) (d : Nat) : State :=
  let D := s.die d
  if !D.emerg then s
  else
    let cool := decide (D.dryAt = 0)
      && (dieClusters d).all fun c => (List.range 8).all fun i => decide (s.junction c i < 100000)
    s.setDie d { D with coolAt := heldNow cool D.coolAt s.time.toNat }

/-- Device time passes; a run that has a receiving entry past its bound ends (R290). -/
def State.elapse (s : State) (ns : Nat) : State :=
  let t := s.time.toNat
  let past := fun (u : Nat) (U : UnitSt) =>
    let V := s.passUnit u ((s.cluster (clusterOf u)).clk.cyclesIn t ns) U
    { V with dove := V.dove.overdue (t + ns) }
  let s1 : State := { s with
    time := s.time + BitVec.ofNat 64 ns
    units := s.units.map fun q => (q.1, past q.1 q.2) }
  let s2 := (List.range 8).foldl State.dieLimit s1.gradeEnds.track
  let s3 := ((s2.clusters.map (·.1)).foldl State.clusterLimit s2).judgeDraw.judgeRoom
  (List.range 8).foldl State.judgeHeat s3

/-! ### Inputs -/

/-- What the outside world does.  A doorbell write is a release by the host (R462). -/
def State.receive (s : State) (x : Input) : State :=
  let i := s.inbox
  match x with
  | .mail c bs => { s with inbox := { i with mail := i.mail ++ [(c, bs)] } }
  | .doorbell r v => { s with inbox := { i with doorbell := SMap.set 0 i.doorbell r (v % 2 ^ 32) } }
  | .host id w key n bs => { s with inbox := { i with host := SMap.insert i.host id (w, key, n, bs) } }
  | .peer id op key n bs => { s with inbox := { i with peer := SMap.insert i.peer id (op, key, n, bs) } }
  | .data l n bs => if 16 ≤ l then s else s.setLink l { s.link l with inbox := (s.link l).inbox ++ [(n, bs)] }
  | .notice g p b on => { s with inbox := { i with notices := i.notices ++ [(g, p, b, on)] } }
  | .memory key bs => if keyRegion key = 3 ∨ keyRegion key = 4 then s.writeMem 0 4 key bs false else s
  | .reading c i t => if 96 ≤ c ∨ 8 ≤ i then s else
      let k := (s.cluster c).clk
      s.setClock c { k with temps := SMap.set 25000 k.temps i t }
  | .dryout d on => if 8 ≤ d then s else s.setDie d { s.die d with dryAt := heldNow on (s.die d).dryAt s.time.toNat }
  | .retry l => if 24 ≤ l then s else s.countErr (8192 + l)
  | .recover => if s.hostLink then { s with hub := { s.hub with booted := true } } else s
  | .upset key => { s with mem := s.mem.setPoison key }
  | .corrected key => s.countErr (keyRegion key)
  | .flip u b row col bit =>
    if 768 ≤ u ∨ 8 ≤ b ∨ 64 ≤ row ∨ 64 ≤ col ∨ 32 ≤ bit then s else s.setUnit u ((s.unit u).flip b row col bit)

end Sys2Proof.Machine
end

