-- ==== Sys2Proof/Machine/Agenda.lean ====
section
/-! DEFINITION. What an act of the agenda leads to (R298, R299, R413), and how an instruction is placed where the next
step fetches it. -/

namespace Sys2Proof.Config

/-- What happens when the agenda lists nothing: the spec orders no such choice. -/
opaque nextAct (tick : Nat) : Sys2Proof.Machine.Act

end Sys2Proof.Config

namespace Sys2Proof.Machine

/-- What one act comes to: an instruction to run, a finished state, or a unit number that no unit has. -/
inductive Plan where
  | run (i : Instr) (s : State)
  | done (s : State)
  | noUnit (u : Nat)

/-- An engine's act: nothing when its unit does not run; else its fetch (R298, R299). -/
def State.planEngine (s : State) (u : Nat) (e : Eng) : Plan :=
  if 768 ≤ u then .noUnit u
  else
    let s1 := s.approach u e
    if !s.runs u ∨ (e = .S ∧ (s.unit u).sHeld) ∨ (e ≠ .S ∧ (s.unit u).inHandler) ∨ (e = .S ∧ (s.unit u).tape.run = 2 ∧ !(s.unit u).inHandler) then
      .done s1
    else match s1.fetch u e with
      | .word i => .run i s1
      | .trap t => .done (s1.takeTrap u t)
      | .pass => .done (s1.sPass u)
      | .idle => .done s1

/-- The plan of an act. -/
def State.plan (s : State) (a : Act) : Plan :=
  match a with
  | .engine u e => s.planEngine u e
  | .elapse ns => .done (s.elapse ns)
  | .propagate id => .done (s.propagate id)
  | .request u id k => .done (s.partRequest u id k)
  | .outside x => .done (s.receive x)
  | .ev i => if i.eng = none then .run i s else .done s

/-- What a plan comes to, with the meaning of an instruction given. -/
def Plan.out (run : Instr → State → Out) (p : Plan) : Out :=
  match p with
  | .run i s => run i s
  | .done s => .next s
  | .noUnit u => .fault (.noSuchUnit u)

/-! ### Two faults in one cycle (R36, R446) -/

/-- From `s` to `t` unit `u` has met a fault in task code: a trap that is neither TRAP's own nor a pre-emption. -/
def faulted (s t : State) (u : Nat) : Bool :=
  let code := fld (t.unit u).csr.cause.toNat 0 8
  decide ((s.unit u).trap.depth = 0) && decide ((t.unit u).trap.depth = 1) && decide (code ≠ Cause.code .preempt)
    && decide (code ≠ Cause.code .swtrap)

/-- The fault that engine `e` meets at the word before it, with the word's text address. -/
def State.faultOf (run : Instr → State → Out) (s : State) (u : Nat) (e : Eng) : Option (Nat × State) :=
  match (s.planEngine u e).out run with
  | .next t => if faulted s t u then ((s.approach u e).here u e).map fun r => (r.addr, t) else none
  | _ => none

/-- Engine `e` of unit `u` has acted, from `s` to `t`.  Where it has met a fault, every engine whose word meets one in the same cycle is
looked at, and the fault of the word at the lowest text address is the one that is taken; the others are not recorded, and come again
after RETI. -/
def State.firstFault (run : Instr → State → Out) (s : State) (u : Nat) (e : Eng) (t : State) : State :=
  if !faulted s t u then t
  else match (s.approach u e).here u e with
    | none => t
    | some r => (((engs.filter fun x => x != e).filterMap (s.faultOf run u)).foldl (fun b q => if q.1 < b.1 then q else b) (r.addr, t)).2

/-! ### What retired words do elsewhere (R381, R385, R452) -/

/-- An effect of a word that has retired: what a CSRW does beyond its register, the record of a TCONT, or an effect on the unit that has
waited for its clock. -/
def State.lateAct (u : Nat) (s : State) (x : Eff) : State :=
  match x with
  | .csract n v => s.csrActs u n v
  | .tcont g n va payload know => s.sendCont g n va u payload know
  | x => s.setUnit u ((s.unit u).applyEff x)

/-- The effects that a step has left to be made, on every unit whose clock runs. -/
def State.lateActs (s : State) : State :=
  s.units.foldl (fun s q =>
    let U := s.unit q.1
    if U.work.late = [] ∨ s.stands q.1 then s
    else U.work.late.foldl (State.lateAct q.1) (s.setUnit q.1 { U with work := { U.work with late := [] } })) s

/-- What a step adds to an act from `s` to `t`. -/
def State.afterAct (run : Instr → State → Out) (s : State) (a : Act) (t : State) : State :=
  match a with
  | .engine u e => (s.firstFault run u e t).lateActs
  | _ => t.lateActs

/-- The state whose agenda has lost its first act, and that act. -/
def State.nextAct (s : State) : Act × State :=
  match s.agenda with
  | [] => (Sys2Proof.Config.nextAct s.tick, { s with tick := s.tick + 1 })
  | a :: r => (a, { s with agenda := r, tick := s.tick + 1 })

/-- The 32-bit words of an instruction of `nbits` bits, the words above being zero. -/
def tableWords (nbits w : Nat) : List Nat :=
  if nbits ≤ 32 then [fld w 0 32, 0] else [fld w 0 32, fld w 32 32]

/-- The instruction of bits `w` stands at S's PC in unit 0's text, the unit runs, and the next act is its engine's; a word
of another engine than S has been passed by S. -/
def State.placeWord (s : State) (nbits w : Nat) : State :=
  let ws := tableWords nbits w
  let h := ws.headD 0
  let U := s.unit 0
  let a := U.pcOf .S
  let n := 1 + fld h 28 1
  let t1 := SMap.set 0 U.walk.text a (BitVec.ofNat 32 h)
  let t2 := if n = 2 then SMap.set 0 t1 (a + 1) (BitVec.ofNat 32 (ws.getD 1 0)) else t1
  let V := { U with run := .running, walk := { U.walk with text := t2, textLen := a + n } }
  let s1 := s.setUnit 0 V
  let e := fld h 29 3
  if 1 ≤ e ∧ e ≤ 5 then
    let s2 := s1.sPass 0
    if ((s2.unit 0).nextRec (Eng.ofCode e)).isSome then { s2 with agenda := [.engine 0 (Eng.ofCode e)] }
    else { s1 with agenda := [.engine 0 .S] }
  else { s1 with agenda := [.engine 0 .S] }

end Sys2Proof.Machine
end

