-- ==== Sys2Proof/Machine/Capability.lean ====
section
/-! DEFINITION. The capability words that touch no memory (R164 to R168). -/

namespace Sys2Proof.Machine

/-- A capability with a narrowed range. -/
def Cap.withRange (c : Cap) (base len : Nat) : Cap := Cap.mk' c.space c.perm len base true

/-- KSUB (R164): the trap of its first failing check, or the narrowed capability. -/
def ksub (c : Cap) (off imm : Nat) : Except Cause Cap :=
  if !c.tag then .error .ktag
  else if imm = 0 ∧ c.len < off then .error .kbound
  else
    let len := if imm = 0 then c.len - off else imm
    if c.len < off + len then .error .kbound else .ok (c.withRange (c.base + off) len)

def execKsub (tk : Tok) (d a b imm32 : Nat) (s : State) : Out :=
  s.sWord tk none [32 + a, b] fun s U r f =>
    match ksub (U.kS a) (U.xS b).toNat imm32 with
    | .error c => .trap c (U.xS b).toNat (capInfo a 1 r.addr)
    | .ok c => .go s { f with eff := [.k d c], wr := [32 + d] }

/-- KPERM (R165): permissions are narrowed, race checking can be added. -/
def kpermOf (c : Cap) (imm : Nat) : Cap :=
  Cap.mk' c.space ((c.perm % 128 &&& imm % 128) + 128 * (max (c.perm / 128) (imm / 128 % 2))) c.len c.base c.tag

def execKperm (tk : Tok) (d a perm : Nat) (s : State) : Out :=
  s.sWord tk none [32 + a] fun s U r f =>
    if !(U.kS a).tag then .trap .ktag 0 (capInfo a 1 r.addr)
    else .go s { f with eff := [.k d (kpermOf (U.kS a) perm)], wr := [32 + d] }

def execKmov (tk : Tok) (d a : Nat) (g : XP) (s : State) : Out :=
  s.sWord tk g [32 + a] fun s U _ f => .go s { f with eff := [.k d (U.kS a)], wr := [32 + d] }

/-- The values that KGET selects (R167). -/
def kget (c : Cap) (imm : Nat) : Word :=
  BitVec.ofNat 64 (match imm with
    | 0 => c.base | 1 => c.len | 2 => c.perm | 3 => c.space | 4 => (if c.tag then 1 else 0) | 5 => c.f 0 64 | _ => c.f 64 64)

def execKget (tk : Tok) (d a imm : Nat) (g : XP) (s : State) : Out :=
  s.xWord tk g d [32 + a] fun U => kget (U.kS a) imm

def execKtest (tk : Tok) (d a imm : Nat) (g : XP) (s : State) : Out :=
  s.pWord tk g d [32 + a] fun U => (U.kS a).tag && decide ((U.kS a).perm % 64 &&& imm = imm)

end Sys2Proof.Machine
end

