-- ==== Sys2Proof/Machine/Predicate.lean ====
section
/-! DEFINITION. The predicate words (R328). -/

namespace Sys2Proof.Machine

/-- The conditions of PCMP, 0 to 5: .EQ, .NE, .LT, .GE signed, .LTU, .GEU (R63). -/
def condHolds (cond : Nat) (a b : Word) : Bool :=
  match cond with
  | 0 => decide (a = b)
  | 1 => !decide (a = b)
  | 2 => a.slt b
  | 3 => !a.slt b
  | 4 => a.ult b
  | _ => !a.ult b

/-- The 32 predicates as S reads them, p[i] in bit i. -/
def UnitSt.predsWord (U : UnitSt) : Word :=
  BitVec.ofNat 64 ((List.range 32).map fun i => if U.pS i then 2 ^ i else 0).sum

def execPcmp (tk : Tok) (d a b cond : Nat) (s : State) : Out :=
  s.pWord tk none d [a, b] fun U => condHolds cond (U.xS a) (U.xS b)
def execPset (tk : Tok) (d v : Nat) (g : XP) (s : State) : Out := s.pWord tk g d [] fun _ => decide (v = 1)
def execPand (tk : Tok) (d a b : Nat) (g : XP) (s : State) : Out := s.pWord tk g d [] fun U => U.pS a && U.pS b
def execPor (tk : Tok) (d a b : Nat) (g : XP) (s : State) : Out := s.pWord tk g d [] fun U => U.pS a || U.pS b
def execPxor (tk : Tok) (d a b : Nat) (g : XP) (s : State) : Out := s.pWord tk g d [] fun U => xor (U.pS a) (U.pS b)
def execPnot (tk : Tok) (d a : Nat) (g : XP) (s : State) : Out := s.pWord tk g d [] fun U => !U.pS a
def execPtox (tk : Tok) (d : Nat) (g : XP) (s : State) : Out := s.xWord tk g d [] fun U => U.predsWord
/-- XTOP writes p1 to p22; other bits are ignored. -/
def execXtop (tk : Tok) (a : Nat) (g : XP) (s : State) : Out :=
  s.sWord tk g [a] fun s U _ f => .go s { f with eff := [.ps (U.xS a)] }

end Sys2Proof.Machine
end

