-- ==== Sys2Proof/Machine/Scalar.lean ====
section
/-! DEFINITION. The scalar arithmetic words (R325 to R327). -/

namespace Sys2Proof.Machine

/-- Division of R76: truncation toward zero, all ones by zero, the most negative value by −1. -/
def sdivW (a b : Word) : Word := if b = 0 then BitVec.allOnes 64 else BitVec.ofInt 64 (Int.tdiv a.toInt b.toInt)
def udivW (a b : Word) : Word := if b = 0 then BitVec.allOnes 64 else BitVec.ofNat 64 (a.toNat / b.toNat)
/-- The remainder takes the sign of the dividend; by zero it is the dividend (R76). -/
def sremW (a b : Word) : Word := if b = 0 then a else BitVec.ofInt 64 (Int.tmod a.toInt b.toInt)
def uremW (a b : Word) : Word := if b = 0 then a else BitVec.ofNat 64 (a.toNat % b.toNat)
/-- Bits [127:64] of a product of integers. -/
def hiProd (p : Int) : Word := BitVec.ofInt 64 (p / 2 ^ 64)
/-- The count of a register shift: x[b][5:0]. -/
def shCount (b : Word) : Nat := b.toNat % 64
/-- Leading zero bits of the low `n` bits. -/
def clzFrom (a : Word) : Nat → Nat
  | 0 => 0
  | n + 1 => if a.getLsbD n then 0 else 1 + clzFrom a n
/-- One bits among the low `n` bits. -/
def popFrom (a : Word) : Nat → Nat
  | 0 => 0
  | n + 1 => (if a.getLsbD n then 1 else 0) + popFrom a n
/-- The shifts of SHI by kind: .LL, .RL, .RA (R326). -/
def shiftKind (kind : Nat) (a : Word) (c : Nat) : Word :=
  match kind with
  | 0 => a <<< c
  | 1 => a >>> c
  | _ => a.sshiftRight c
/-- The bit field of EXT (R326): bits [POS + W − 1 : POS], sign-extended when SX = 1. -/
def extField (a : Word) (sx pos w : Nat) : Word :=
  let f := fld a.toNat pos w
  if sx = 1 then sxWord f w else BitVec.ofNat 64 f

def execAdd (tk : Tok) (d a b : Nat) (g : XP) (s : State) : Out := s.xWord tk g d [a, b] fun U => U.xS a + U.xS b
def execSub (tk : Tok) (d a b : Nat) (g : XP) (s : State) : Out := s.xWord tk g d [a, b] fun U => U.xS a - U.xS b
def execAnd (tk : Tok) (d a b : Nat) (g : XP) (s : State) : Out := s.xWord tk g d [a, b] fun U => U.xS a &&& U.xS b
def execOr (tk : Tok) (d a b : Nat) (g : XP) (s : State) : Out := s.xWord tk g d [a, b] fun U => U.xS a ||| U.xS b
def execXor (tk : Tok) (d a b : Nat) (g : XP) (s : State) : Out := s.xWord tk g d [a, b] fun U => U.xS a ^^^ U.xS b
def execSll (tk : Tok) (d a b : Nat) (g : XP) (s : State) : Out :=
  s.xWord tk g d [a, b] fun U => U.xS a <<< shCount (U.xS b)
def execSrl (tk : Tok) (d a b : Nat) (g : XP) (s : State) : Out :=
  s.xWord tk g d [a, b] fun U => U.xS a >>> shCount (U.xS b)
def execSra (tk : Tok) (d a b : Nat) (g : XP) (s : State) : Out :=
  s.xWord tk g d [a, b] fun U => (U.xS a).sshiftRight (shCount (U.xS b))
/-- MUL, MULH and MULHU take 3 cycles (R327). -/
def execMul (tk : Tok) (d a b : Nat) (g : XP) (s : State) : Out :=
  s.xLong tk g d [a, b] false fun U => U.xS a * U.xS b
def execMulh (tk : Tok) (d a b : Nat) (g : XP) (s : State) : Out :=
  s.xLong tk g d [a, b] false fun U => hiProd ((U.xS a).toInt * (U.xS b).toInt)
def execMulhu (tk : Tok) (d a b : Nat) (g : XP) (s : State) : Out :=
  s.xLong tk g d [a, b] false fun U => hiProd ((U.xS a).toNat * (U.xS b).toNat)
/-- The divisions run one at a time (R327). -/
def execDiv (tk : Tok) (d a b : Nat) (g : XP) (s : State) : Out :=
  s.xLong tk g d [a, b] true fun U => sdivW (U.xS a) (U.xS b)
def execDivu (tk : Tok) (d a b : Nat) (g : XP) (s : State) : Out :=
  s.xLong tk g d [a, b] true fun U => udivW (U.xS a) (U.xS b)
def execRem (tk : Tok) (d a b : Nat) (g : XP) (s : State) : Out :=
  s.xLong tk g d [a, b] true fun U => sremW (U.xS a) (U.xS b)
def execRemu (tk : Tok) (d a b : Nat) (g : XP) (s : State) : Out :=
  s.xLong tk g d [a, b] true fun U => uremW (U.xS a) (U.xS b)
def execMin (tk : Tok) (d a b : Nat) (g : XP) (s : State) : Out :=
  s.xWord tk g d [a, b] fun U => if (U.xS a).slt (U.xS b) then U.xS a else U.xS b
def execMax (tk : Tok) (d a b : Nat) (g : XP) (s : State) : Out :=
  s.xWord tk g d [a, b] fun U => if (U.xS a).slt (U.xS b) then U.xS b else U.xS a
def execMinu (tk : Tok) (d a b : Nat) (g : XP) (s : State) : Out :=
  s.xWord tk g d [a, b] fun U => if (U.xS a).ult (U.xS b) then U.xS a else U.xS b
def execMaxu (tk : Tok) (d a b : Nat) (g : XP) (s : State) : Out :=
  s.xWord tk g d [a, b] fun U => if (U.xS a).ult (U.xS b) then U.xS b else U.xS a
def execSlt (tk : Tok) (d a b : Nat) (g : XP) (s : State) : Out :=
  s.xWord tk g d [a, b] fun U => boolWord ((U.xS a).slt (U.xS b))
def execSltu (tk : Tok) (d a b : Nat) (g : XP) (s : State) : Out :=
  s.xWord tk g d [a, b] fun U => boolWord ((U.xS a).ult (U.xS b))
def execSeq (tk : Tok) (d a b : Nat) (g : XP) (s : State) : Out :=
  s.xWord tk g d [a, b] fun U => boolWord (decide (U.xS a = U.xS b))
def execClz (tk : Tok) (d a : Nat) (g : XP) (s : State) : Out :=
  s.xWord tk g d [a] fun U => BitVec.ofNat 64 (clzFrom (U.xS a) 64)
def execPopc (tk : Tok) (d a : Nat) (g : XP) (s : State) : Out :=
  s.xWord tk g d [a] fun U => BitVec.ofNat 64 (popFrom (U.xS a) 64)
def execExt (tk : Tok) (d a sx pos wm1 : Nat) (s : State) : Out :=
  s.xWord tk none d [a] fun U => extField (U.xS a) sx pos (wm1 + 1)
def execAddi (tk : Tok) (d a imm : Nat) (g : XP) (s : State) : Out :=
  s.xWord tk g d [a] fun U => U.xS a + sxWord imm 6
/-- LI, short form (R57). -/
def execLiShort (tk : Tok) (d imm : Nat) (s : State) : Out := s.xWord tk none d [] fun _ => sxWord imm 11
/-- LI, long form (R57). -/
def execLiLong (tk : Tok) (d imm32 : Nat) (s : State) : Out := s.xWord tk none d [] fun _ => sxWord imm32 32
def execAndi (tk : Tok) (d a imm : Nat) (g : XP) (s : State) : Out :=
  s.xWord tk g d [a] fun U => U.xS a &&& sxWord imm 6
def execOri (tk : Tok) (d a imm : Nat) (g : XP) (s : State) : Out :=
  s.xWord tk g d [a] fun U => U.xS a ||| sxWord imm 6
def execXori (tk : Tok) (d a imm : Nat) (g : XP) (s : State) : Out :=
  s.xWord tk g d [a] fun U => U.xS a ^^^ sxWord imm 6
def execShi (tk : Tok) (d a imm kind : Nat) (s : State) : Out :=
  s.xWord tk none d [a] fun U => shiftKind kind (U.xS a) imm
/-- ADD128: the pair at x0 reads x0 as zero and discards a write to it (R326). -/
def execAdd128 (tk : Tok) (d a b : Nat) (g : XP) (s : State) : Out :=
  s.sWord tk g [a, a + 1, b, b + 1] fun s U _ f =>
    let v := U.pairS a + U.pairS b
    .go s { f with eff := [.x d (v.truncate 64), .x (d + 1) ((v >>> 64).truncate 64)], wr := [d, d + 1] }

end Sys2Proof.Machine
end

