-- ==== Sys2Proof/Machine/Dispatch.lean ====
section
/-! DEFINITION. One arm per instruction: each calls its meaning. -/

namespace Sys2Proof.Machine

/-- The meaning of an instruction. -/
def exec (i : Instr) (s : State) : Host.Outcome State Fault Refusal :=
  match i with
  | .add tk d a b g => Sys2Proof.Machine.execAdd tk d a b g s
  | .sub tk d a b g => Sys2Proof.Machine.execSub tk d a b g s
  | .and tk d a b g => Sys2Proof.Machine.execAnd tk d a b g s
  | .or tk d a b g => Sys2Proof.Machine.execOr tk d a b g s
  | .xor tk d a b g => Sys2Proof.Machine.execXor tk d a b g s
  | .sll tk d a b g => Sys2Proof.Machine.execSll tk d a b g s
  | .srl tk d a b g => Sys2Proof.Machine.execSrl tk d a b g s
  | .sra tk d a b g => Sys2Proof.Machine.execSra tk d a b g s
  | .mul tk d a b g => Sys2Proof.Machine.execMul tk d a b g s
  | .mulh tk d a b g => Sys2Proof.Machine.execMulh tk d a b g s
  | .mulhu tk d a b g => Sys2Proof.Machine.execMulhu tk d a b g s
  | .div tk d a b g => Sys2Proof.Machine.execDiv tk d a b g s
  | .divu tk d a b g => Sys2Proof.Machine.execDivu tk d a b g s
  | .rem tk d a b g => Sys2Proof.Machine.execRem tk d a b g s
  | .remu tk d a b g => Sys2Proof.Machine.execRemu tk d a b g s
  | .min tk d a b g => Sys2Proof.Machine.execMin tk d a b g s
  | .max tk d a b g => Sys2Proof.Machine.execMax tk d a b g s
  | .minu tk d a b g => Sys2Proof.Machine.execMinu tk d a b g s
  | .maxu tk d a b g => Sys2Proof.Machine.execMaxu tk d a b g s
  | .slt tk d a b g => Sys2Proof.Machine.execSlt tk d a b g s
  | .sltu tk d a b g => Sys2Proof.Machine.execSltu tk d a b g s
  | .seq tk d a b g => Sys2Proof.Machine.execSeq tk d a b g s
  | .clz tk d a g => Sys2Proof.Machine.execClz tk d a g s
  | .popc tk d a g => Sys2Proof.Machine.execPopc tk d a g s
  | .ext tk d a sx pos wm1 => Sys2Proof.Machine.execExt tk d a sx pos wm1 s
  | .addi tk d a imm g => Sys2Proof.Machine.execAddi tk d a imm g s
  | .liShort tk d imm => Sys2Proof.Machine.execLiShort tk d imm s
  | .liLong tk d imm32 => Sys2Proof.Machine.execLiLong tk d imm32 s
  | .andi tk d a imm g => Sys2Proof.Machine.execAndi tk d a imm g s
  | .ori tk d a imm g => Sys2Proof.Machine.execOri tk d a imm g s
  | .xori tk d a imm g => Sys2Proof.Machine.execXori tk d a imm g s
  | .shi tk d a imm kind => Sys2Proof.Machine.execShi tk d a imm kind s
  | .add128 tk d a b g => Sys2Proof.Machine.execAdd128 tk d a b g s
  | .pcmp tk d a b cond => Sys2Proof.Machine.execPcmp tk d a b cond s
  | .pset tk d v g => Sys2Proof.Machine.execPset tk d v g s
  | .pand tk d a b g => Sys2Proof.Machine.execPand tk d a b g s
  | .por tk d a b g => Sys2Proof.Machine.execPor tk d a b g s
  | .pxor tk d a b g => Sys2Proof.Machine.execPxor tk d a b g s
  | .pnot tk d a g => Sys2Proof.Machine.execPnot tk d a g s
  | .ptox tk d g => Sys2Proof.Machine.execPtox tk d g s
  | .xtop tk a g => Sys2Proof.Machine.execXtop tk a g s
  | .kld tk d a b m => Sys2Proof.Machine.execKld tk d a b m s
  | .kst tk d a b m => Sys2Proof.Machine.execKst tk d a b m s
  | .ksub tk d a b imm32 => Sys2Proof.Machine.execKsub tk d a b imm32 s
  | .kperm tk d a perm => Sys2Proof.Machine.execKperm tk d a perm s
  | .kmov tk d a g => Sys2Proof.Machine.execKmov tk d a g s
  | .kget tk d a imm g => Sys2Proof.Machine.execKget tk d a imm g s
  | .ktest tk d a imm g => Sys2Proof.Machine.execKtest tk d a imm g s
  | .ld tk d a b m => Sys2Proof.Machine.execLd tk d a b m s
  | .st tk d a b m => Sys2Proof.Machine.execSt tk d a b m s
  | .ldaq tk d a b m => Sys2Proof.Machine.execLdaq tk d a b m s
  | .strl tk d a b m => Sys2Proof.Machine.execStrl tk d a b m s
  | .amo tk d a b m => Sys2Proof.Machine.execAmo tk d a b m s
  | .cas tk d a b m => Sys2Proof.Machine.execCas tk d a b m s
  | .fence tk kind scope => Sys2Proof.Machine.execFence tk kind scope s
  | .nmc tk d a b m => Sys2Proof.Machine.execNmc tk d a b m s
  | .nmfence tk => Sys2Proof.Machine.execNmfence tk s
  | .qpush tk d stage g => Sys2Proof.Machine.execQpush tk d stage g s
  | .qpop tk d g => Sys2Proof.Machine.execQpop tk d g s
  | .bar tk num scope => Sys2Proof.Machine.execBar tk num scope s
  | .sset tk d a b m => Sys2Proof.Machine.execSset tk d a b m s
  | .sget tk d a imm g => Sys2Proof.Machine.execSget tk d a imm g s
  | .spos tk d a g => Sys2Proof.Machine.execSpos tk d a g s
  | .tcont tk d a b m => Sys2Proof.Machine.execTcont tk d a b m s
  | .tevt tk d act ev g => Sys2Proof.Machine.execTevt tk d act ev g s
  | .targ tk d a sx size g => Sys2Proof.Machine.execTarg tk d a sx size g s
  | .jguard tk a size => Sys2Proof.Machine.execJguard tk a size s
  | .jpatch tk d a => Sys2Proof.Machine.execJpatch tk d a s
  | .jmark tk imm => Sys2Proof.Machine.execJmark tk imm s
  | .jstat tk d imm => Sys2Proof.Machine.execJstat tk d imm s
  | .opreq tk d q imm32 => Sys2Proof.Machine.execOpreq tk d q imm32 s
  | .oprel tk => Sys2Proof.Machine.execOprel tk s
  | .opget tk d imm g => Sys2Proof.Machine.execOpget tk d imm g s
  | .csrr tk d csr => Sys2Proof.Machine.execCsrr tk d csr s
  | .csrw tk d csr => Sys2Proof.Machine.execCsrw tk d csr s
  | .trap tk imm => Sys2Proof.Machine.execTrap tk imm s
  | .reti tk => Sys2Proof.Machine.execReti tk s
  | .decline tk => Sys2Proof.Machine.execDecline tk s
  | .ctxsave tk a b => Sys2Proof.Machine.execCtxsave tk a b s
  | .ctxload tk a b => Sys2Proof.Machine.execCtxload tk a b s
  | .nopS tk => Sys2Proof.Machine.execNopS tk s
  | .waitS tk w => Sys2Proof.Machine.execWaitS tk w s
  | .lsv tk st sp g => Sys2Proof.Machine.execLsv tk st sp g s
  | .lgath tk st sp x => Sys2Proof.Machine.execLgath tk st sp x s
  | .lbrd tk st sp g => Sys2Proof.Machine.execLbrd tk st sp g s
  | .sgoL tk st g => Sys2Proof.Machine.execSgoL tk st g s
  | .sskipL tk st imm32 => Sys2Proof.Machine.execSskipL tk st imm32 s
  | .srewL tk st g => Sys2Proof.Machine.execSrewL tk st g s
  | .sdropL tk st g => Sys2Proof.Machine.execSdropL tk st g s
  | .nopL tk => Sys2Proof.Machine.execNopL tk s
  | .waitL tk w => Sys2Proof.Machine.execWaitL tk w s
  | .wsv tk st sp last g => Sys2Proof.Machine.execWsv tk st sp last g s
  | .wscat tk st sp last x => Sys2Proof.Machine.execWscat tk st sp last x s
  | .wacc tk st sp last g => Sys2Proof.Machine.execWacc tk st sp last g s
  | .sgoW tk st g => Sys2Proof.Machine.execSgoW tk st g s
  | .sskipW tk st imm32 => Sys2Proof.Machine.execSskipW tk st imm32 s
  | .srewW tk st g => Sys2Proof.Machine.execSrewW tk st g s
  | .sdropW tk st g => Sys2Proof.Machine.execSdropW tk st g s
  | .wflush tk scope => Sys2Proof.Machine.execWflush tk scope s
  | .nopW tk => Sys2Proof.Machine.execNopW tk s
  | .waitW tk w => Sys2Proof.Machine.execWaitW tk w s
  | .vadd tk f x => Sys2Proof.Machine.execVadd tk f x s
  | .vsub tk f x => Sys2Proof.Machine.execVsub tk f x s
  | .vmul tk f x => Sys2Proof.Machine.execVmul tk f x s
  | .vfma tk f x => Sys2Proof.Machine.execVfma tk f x s
  | .vfms tk f x => Sys2Proof.Machine.execVfms tk f x s
  | .vfnma tk f x => Sys2Proof.Machine.execVfnma tk f x s
  | .vdiv tk f x => Sys2Proof.Machine.execVdiv tk f x s
  | .vsqrt tk f x => Sys2Proof.Machine.execVsqrt tk f x s
  | .vrcp tk f x => Sys2Proof.Machine.execVrcp tk f x s
  | .vrsq tk f x => Sys2Proof.Machine.execVrsq tk f x s
  | .vexp2 tk f x => Sys2Proof.Machine.execVexp2 tk f x s
  | .vlog2 tk f x => Sys2Proof.Machine.execVlog2 tk f x s
  | .vmin tk f x => Sys2Proof.Machine.execVmin tk f x s
  | .vmax tk f x => Sys2Proof.Machine.execVmax tk f x s
  | .vabs tk f x => Sys2Proof.Machine.execVabs tk f x s
  | .vneg tk f x => Sys2Proof.Machine.execVneg tk f x s
  | .vand tk f x => Sys2Proof.Machine.execVand tk f x s
  | .vor tk f x => Sys2Proof.Machine.execVor tk f x s
  | .vxor tk f x => Sys2Proof.Machine.execVxor tk f x s
  | .vnot tk f x => Sys2Proof.Machine.execVnot tk f x s
  | .vshl tk f x => Sys2Proof.Machine.execVshl tk f x s
  | .vshr tk f x => Sys2Proof.Machine.execVshr tk f x s
  | .vsra tk f x => Sys2Proof.Machine.execVsra tk f x s
  | .vmulh tk f x => Sys2Proof.Machine.execVmulh tk f x s
  | .vcmp tk f x => Sys2Proof.Machine.execVcmp tk f x s
  | .vsel tk f x => Sys2Proof.Machine.execVsel tk f x s
  | .vmov tk f x => Sys2Proof.Machine.execVmov tk f x s
  | .vcvt tk f x => Sys2Proof.Machine.execVcvt tk f x s
  | .vclass tk f x => Sys2Proof.Machine.execVclass tk f x s
  | .vidx tk f x => Sys2Proof.Machine.execVidx tk f x s
  | .vbcast tk f x => Sys2Proof.Machine.execVbcast tk f x s
  | .vextr tk f x => Sys2Proof.Machine.execVextr tk f x s
  | .vred tk f x => Sys2Proof.Machine.execVred tk f x s
  | .vscan tk f x => Sys2Proof.Machine.execVscan tk f x s
  | .vshuf tk f x => Sys2Proof.Machine.execVshuf tk f x s
  | .vrot tk f x => Sys2Proof.Machine.execVrot tk f x s
  | .vcpush tk f x => Sys2Proof.Machine.execVcpush tk f x s
  | .vcpop tk f x => Sys2Proof.Machine.execVcpop tk f x s
  | .vccnt tk f x => Sys2Proof.Machine.execVccnt tk f x s
  | .vrng tk f x => Sys2Proof.Machine.execVrng tk f x s
  | .vql6 tk f x => Sys2Proof.Machine.execVql6 tk f x s
  | .vdl6 tk f x => Sys2Proof.Machine.execVdl6 tk f x s
  | .vpack tk f x => Sys2Proof.Machine.execVpack tk f x s
  | .vunpk tk f x => Sys2Proof.Machine.execVunpk tk f x s
  | .bhint tk d fall kind g => Sys2Proof.Machine.execBhint tk d fall kind g s
  | .bwake tk d kind g => Sys2Proof.Machine.execBwake tk d kind g s
  | .balloc tk d take g => Sys2Proof.Machine.execBalloc tk d take g s
  | .bstat tk d imm g => Sys2Proof.Machine.execBstat tk d imm g s
  | .nopV tk => Sys2Proof.Machine.execNopV tk s
  | .waitV tk w => Sys2Proof.Machine.execWaitV tk w s
  | .mmul tk st bk last m => Sys2Proof.Machine.execMmul tk st bk last m s
  | .mmulb tk st bk last m => Sys2Proof.Machine.execMmulb tk st bk last m s
  | .mscal tk d imm32 => Sys2Proof.Machine.execMscal tk d imm32 s
  | .mclr tk d g => Sys2Proof.Machine.execMclr tk d g s
  | .mjoin tk sz src g => Sys2Proof.Machine.execMjoin tk sz src g s
  | .mleave tk g => Sys2Proof.Machine.execMleave tk g s
  | .mbset tk imm imm32 => Sys2Proof.Machine.execMbset tk imm imm32 s
  | .nopM tk => Sys2Proof.Machine.execNopM tk s
  | .waitM tk w => Sys2Proof.Machine.execWaitM tk w s
  | .cpy tk d a b c => Sys2Proof.Machine.execCpy tk d a b c s
  | .ccvt tk d a b c => Sys2Proof.Machine.execCcvt tk d a b c s
  | .cfill tk d a b c => Sys2Proof.Machine.execCfill tk d a b c s
  | .bload tk d a b c => Sys2Proof.Machine.execBload tk d a b c s
  | .wdef tk d a b c => Sys2Proof.Machine.execWdef tk d a b c s
  | .wadv tk d a imm g => Sys2Proof.Machine.execWadv tk d a imm g s
  | .wrel tk d g => Sys2Proof.Machine.execWrel tk d g s
  | .dload tk a b ks => Sys2Proof.Machine.execDload tk a b ks s
  | .dstart tk a => Sys2Proof.Machine.execDstart tk a s
  | .dstop tk => Sys2Proof.Machine.execDstop tk s
  | .dstat tk d wt sel g => Sys2Proof.Machine.execDstat tk d wt sel g s
  | .nopC tk => Sys2Proof.Machine.execNopC tk s
  | .waitC tk w => Sys2Proof.Machine.execWaitC tk w s
  | .br d sense imm32 => Sys2Proof.Machine.execBr d sense imm32 s
  | .jmp imm32 => Sys2Proof.Machine.execJmp imm32 s
  | .call d imm32 => Sys2Proof.Machine.execCall d imm32 s
  | .ret a => Sys2Proof.Machine.execRet a s
  | .loop d l => Sys2Proof.Machine.execLoop d l s
  | .yield => Sys2Proof.Machine.execYield s
  | .endW => Sys2Proof.Machine.execEndW s
  | .blend d => Sys2Proof.Machine.execBlend d s
  | .bret d => Sys2Proof.Machine.execBret d s
  | .sync => Sys2Proof.Machine.execSync s
  | .nopA => Sys2Proof.Machine.execNopA s
  | .statusParkd u => Sys2Proof.Machine.execStatusParkd u s
  | .statusAbort u => Sys2Proof.Machine.execStatusAbort u s
  | .tapectlNorec u => Sys2Proof.Machine.execTapectlNorec u s
  | .tapectlJdrop u => Sys2Proof.Machine.execTapectlJdrop u s
  | .trapEntry u => Sys2Proof.Machine.execTrapEntry u s
  | .tokenTimeout u e => Sys2Proof.Machine.execTokenTimeout u e s
  | .tokenPush u e => Sys2Proof.Machine.execTokenPush u e s
  | .scalarLoadPerformed u id => Sys2Proof.Machine.execScalarLoadPerformed u id s
  | .scalarStorePerformed u id => Sys2Proof.Machine.execScalarStorePerformed u id s
  | .atomicPerformed u id => Sys2Proof.Machine.execAtomicPerformed u id s
  | .barComplete t n => Sys2Proof.Machine.execBarComplete t n s
  | .copyMovePerformed u id => Sys2Proof.Machine.execCopyMovePerformed u id s
  | .windowFillPerformed u w => Sys2Proof.Machine.execWindowFillPerformed u w s
  | .spadBankFall u b => Sys2Proof.Machine.execSpadBankFall u b s
  | .spadBankWakeDone u b => Sys2Proof.Machine.execSpadBankWakeDone u b s
  | .regBankFall u b => Sys2Proof.Machine.execRegBankFall u b s
  | .regBankWakeDone u b => Sys2Proof.Machine.execRegBankWakeDone u b s
  | .dupCopyDone u b => Sys2Proof.Machine.execDupCopyDone u b s
  | .streamRequest u st => Sys2Proof.Machine.execStreamRequest u st s
  | .streamDataReturn u st => Sys2Proof.Machine.execStreamDataReturn u st s
  | .loadWordPerformed u => Sys2Proof.Machine.execLoadWordPerformed u s
  | .storeWordPerformed u id => Sys2Proof.Machine.execStoreWordPerformed u id s
  | .vWordRetire u => Sys2Proof.Machine.execVWordRetire u s
  | .mmulPanelComplete u => Sys2Proof.Machine.execMmulPanelComplete u s
  | .tileOpPerformed u => Sys2Proof.Machine.execTileOpPerformed u s
  | .sharedBRound c g => Sys2Proof.Machine.execSharedBRound c g s
  | .nmCommand k => Sys2Proof.Machine.execNmCommand k s
  | .nmCommandEnd k => Sys2Proof.Machine.execNmCommandEnd k s
  | .tlbWalkDone die ix => Sys2Proof.Machine.execTlbWalkDone die ix s
  | .tinv => Sys2Proof.Machine.execTinv s
  | .tinvComplete => Sys2Proof.Machine.execTinvComplete s
  | .migr => Sys2Proof.Machine.execMigr s
  | .migrResume => Sys2Proof.Machine.execMigrResume s
  | .migrCopyDone ok => Sys2Proof.Machine.execMigrCopyDone ok s
  | .hotPageEpoch => Sys2Proof.Machine.execHotPageEpoch s
  | .subarrayRefresh k => Sys2Proof.Machine.execSubarrayRefresh k s
  | .timeBeacon => Sys2Proof.Machine.execTimeBeacon s
  | .timeLockLoss => Sys2Proof.Machine.execTimeLockLoss s
  | .timeLockRegain => Sys2Proof.Machine.execTimeLockRegain s
  | .dovetailLinkDegrade l => Sys2Proof.Machine.execDovetailLinkDegrade l s
  | .dovetailLinkDown l => Sys2Proof.Machine.execDovetailLinkDown l s
  | .peerAccess id => Sys2Proof.Machine.execPeerAccess id s
  | .peerWriteRefused u id => Sys2Proof.Machine.execPeerWriteRefused u id s
  | .dovetailBeat u => Sys2Proof.Machine.execDovetailBeat u s
  | .dovetailEntryStart u ix => Sys2Proof.Machine.execDovetailEntryStart u ix s
  | .dovetailReceive l => Sys2Proof.Machine.execDovetailReceive l s
  | .dovetailEntryPerformed u ix => Sys2Proof.Machine.execDovetailEntryPerformed u ix s
  | .dovetailTimeout u ix => Sys2Proof.Machine.execDovetailTimeout u ix s
  | .unitEnd u => Sys2Proof.Machine.execUnitEnd u s
  | .taskComplete t => Sys2Proof.Machine.execTaskComplete t s
  | .submit r => Sys2Proof.Machine.execSubmit r s
  | .hostEndGraph r => Sys2Proof.Machine.execHostEndGraph r s
  | .dispatchTick => Sys2Proof.Machine.execDispatchTick s
  | .continuationForward => Sys2Proof.Machine.execContinuationForward s
  | .fallbackForward die => Sys2Proof.Machine.execFallbackForward die s
  | .guaranteedOverrun t => Sys2Proof.Machine.execGuaranteedOverrun t s
  | .curve sigOk => Sys2Proof.Machine.execCurve sigOk s
  | .curveEffective => Sys2Proof.Machine.execCurveEffective s
  | .curvePointStart => Sys2Proof.Machine.execCurvePointStart s
  | .curveHorizonEnd => Sys2Proof.Machine.execCurveHorizonEnd s
  | .underdraw => Sys2Proof.Machine.execUnderdraw s
  | .relockDone c => Sys2Proof.Machine.execRelockDone c s
  | .voltageRampDone c => Sys2Proof.Machine.execVoltageRampDone c s
  | .preemptRequest t => Sys2Proof.Machine.execPreemptRequest t s
  | .preemptWithdraw t => Sys2Proof.Machine.execPreemptWithdraw t s
  | .forcedSave u => Sys2Proof.Machine.execForcedSave u s
  | .parkDone t => Sys2Proof.Machine.execParkDone t s
  | .parkResume t => Sys2Proof.Machine.execParkResume t s
  | .unitResume u => Sys2Proof.Machine.execUnitResume u s
  | .dieGate die => Sys2Proof.Machine.execDieGate die s
  | .dieUngate die => Sys2Proof.Machine.execDieUngate die s
  | .dieUngateReady die => Sys2Proof.Machine.execDieUngateReady die s
  | .leaseExpire t => Sys2Proof.Machine.execLeaseExpire t s
  | .pairThrottle p => Sys2Proof.Machine.execPairThrottle p s
  | .pairThrottleRestore p => Sys2Proof.Machine.execPairThrottleRestore p s
  | .pairThrottleLower p => Sys2Proof.Machine.execPairThrottleLower p s
  | .boilingLimitUpdate die lim => Sys2Proof.Machine.execBoilingLimitUpdate die lim s
  | .thermalEmergency die => Sys2Proof.Machine.execThermalEmergency die s
  | .slowdownNotice => Sys2Proof.Machine.execSlowdownNotice s
  | .thermalCapBeat ix => Sys2Proof.Machine.execThermalCapBeat ix s
  | .thermalEmergencyEnd die => Sys2Proof.Machine.execThermalEmergencyEnd die s
  | .thermalSevere die => Sys2Proof.Machine.execThermalSevere die s
  | .sensorFail c => Sys2Proof.Machine.execSensorFail c s
  | .machineCheck u src bank synd addr => Sys2Proof.Machine.execMachineCheck u src bank synd addr s
  | .telemetryRecord src => Sys2Proof.Machine.execTelemetryRecord src s
  | .suspectConnection p => Sys2Proof.Machine.execSuspectConnection p s
  | .connectorMargin => Sys2Proof.Machine.execConnectorMargin s
  | .sillaneDegrade l => Sys2Proof.Machine.execSillaneDegrade l s
  | .sillaneLinkDown l => Sys2Proof.Machine.execSillaneLinkDown l s
  | .register => Sys2Proof.Machine.execRegister s
  | .attest => Sys2Proof.Machine.execAttest s
  | .keyset sigOk => Sys2Proof.Machine.execKeyset sigOk s
  | .domain => Sys2Proof.Machine.execDomain s
  | .coldReset => Sys2Proof.Machine.execColdReset s
  | .warmReset => Sys2Proof.Machine.execWarmReset s
  | .sillaneTrained l => Sys2Proof.Machine.execSillaneTrained l s
  | .hbm4PhyTrained k ok => Sys2Proof.Machine.execHbm4PhyTrained k ok s
  | .dovetailTrained l => Sys2Proof.Machine.execDovetailTrained l s
  | .taskStart t => Sys2Proof.Machine.execTaskStart t s
  | .tevtPerformed u => Sys2Proof.Machine.execTevtPerformed u s
  | .dloadContextLoaded u => Sys2Proof.Machine.execDloadContextLoaded u s
  | .ctxTransferDone u => Sys2Proof.Machine.execCtxTransferDone u s
  | .scalarArithRetire u => Sys2Proof.Machine.execScalarArithRetire u s
  | .hostMemoryAccess id => Sys2Proof.Machine.execHostMemoryAccess id s
  | .cxlLinkDown l => Sys2Proof.Machine.execCxlLinkDown l s
  | .mailboxBadcmd => Sys2Proof.Machine.execMailboxBadcmd s
  | .translationBadcmd => Sys2Proof.Machine.execTranslationBadcmd s
  | .curvePointLookahead => Sys2Proof.Machine.execCurvePointLookahead s

end Sys2Proof.Machine
end

