-- ==== Sys2Proof/Machine/Step.lean ====
section
/-! DEFINITION. One step of the module, and where the next instruction is fetched. -/

namespace Sys2Proof.Machine

/-- One step: the next act of the agenda.  An engine that has a word before it runs that word's meaning. -/
def step (s : State) : Host.Outcome State Fault Refusal :=
  match (s.nextAct.2.plan s.nextAct.1).out exec with
  | .next t => .next (s.nextAct.2.afterAct exec s.nextAct.1 t)
  | other => other

/-- The state with an instruction placed where the next step fetches. -/
def State.withFetchWord (s : State) (nbits w : Nat) : State := s.placeWord nbits w

end Sys2Proof.Machine
end

