-- ==== Sys2Proof/Safety.lean ====
section
/-! DEFINITION. The words in which claims about the machine are made: when an engine has a word before it that nothing
holds, what a word leaves behind when it issues, when an access reaches memory, the tables of words that only compute,
and the invariant that every step keeps. -/

namespace Sys2Proof.Machine

/-! ### A word that can issue -/

/-- Engine `e` of unit `u` has the word of record `r` before it and issues it now (R42, R179, R298, R300, R302, R303,
R317, R327, R436, R441): the unit runs, its token is there, no WAIT of the engine is unretired, fewer than 32 words of the engine
are in flight unless the word is a rendezvous word, and for S the slip limit and the scoreboard let it pass; its guard is true. -/
structure Ready (s : State) (u : Nat) (e : Eng) (r : PassRec) (tk : Tok) (g : XP) (regs : List Nat) : Prop where
  who : s.who = (u, e)
  unit : u < 768
  runs : s.runs u = true
  here : s.here u e = some r
  handler : (s.unit u).inHandler = true → e = .S ∧ tk = .none
  free : e = .S → (s.unit u).sHeld = false
  token : (s.unit u).tokenThere e r tk = true
  wait : (s.unit u).waitHeld e = false
  room : (s.unit u).full e = false ∨ isMeet r.hdr = true
  slip : e = .S → (s.unit u).slipOk r.len = true
  regs : e = .S → (s.unit u).pending regs = false
  guard : s.guardOf u e r g = true

/-- An S word that can issue, in a state where a recording that the word ends has been abandoned (R333). -/
abbrev SReady (s : State) (u : Nat) (r : PassRec) (tk : Tok) (g : XP) (regs : List Nat) : Prop :=
  Ready s.swordCheck u .S r tk g regs

/-- No S word of the unit is in flight. -/
abbrev UnitSt.sIdle (U : UnitSt) : Prop := ∀ f ∈ U.work.fl, f.eng ≠ .S

/-- The flight of a word of engine `e` before its own effects are in it. -/
def State.flight (s : State) (u : Nat) (e : Eng) (r : PassRec) (tk : Tok) : Flight := (s.unit u).flightOf e r tk true

/-- What a word leaves: it has issued as flight `f`, the token is popped, the engine has gone past it, and what could
retire has retired (R12, R300, R303, R308). -/
def State.leaves (s : State) (u : Nat) (e : Eng) (r : PassRec) (tk : Tok) (f : Flight) : State :=
  s.issue u e r tk f ⟨none, []⟩ none

/-- An S word leaves one x register written. -/
def State.leavesX (s : State) (u : Nat) (r : PassRec) (tk : Tok) (d : Nat) (v : Word) : State :=
  s.leaves u .S r tk { s.flight u .S r tk with eff := [.x d v], wr := [d] }

/-- An S word leaves one predicate written. -/
def State.leavesP (s : State) (u : Nat) (r : PassRec) (tk : Tok) (d : Nat) (b : Bool) : State :=
  s.leaves u .S r tk { s.flight u .S r tk with eff := [.p d b] }

/-- An S word leaves one capability register written. -/
def State.leavesK (s : State) (u : Nat) (r : PassRec) (tk : Tok) (d : Nat) (c : Cap) : State :=
  s.leaves u .S r tk { s.flight u .S r tk with eff := [.k d c], wr := [32 + d] }

/-- No word of another engine than S holds a scalar result, or a write of a system register, that has still to be made: no DSTAT
waits behind older words of C. -/
def UnitSt.settled (U : UnitSt) : Prop :=
  ∀ f ∈ U.work.fl, f.eng ≠ .S → ∀ e ∈ f.eff,
    match e with | .x _ _ => False | .k _ _ => False | .p _ _ => False | .ps _ => False | .csrw _ _ => False | _ => True

/-! ### Scalar words that compute -/

/-- A word of S that computes one x register in one cycle: token, guard, destination, registers of the scoreboard, and the
value in terms of what S reads. -/
structure XForm where
  tk : Tok
  g : XP
  d : Nat
  rd : List Nat
  val : State → Nat → UnitSt → Word

/-- A field of a word, sign-extended from `n` bits (R47). -/
def sx (v n : Nat) : Word := (BitVec.ofNat n v).signExtend 64

/-- The one-cycle words that write an x register (R326, R57, R167, R194, R328, R356, R405, R452), their values as the spec
gives them. -/
def xForm : Instr → Option XForm
  | .add tk d a b g => some ⟨tk, g, d, [a, b], fun _ _ U => U.xS a + U.xS b⟩
  | .sub tk d a b g => some ⟨tk, g, d, [a, b], fun _ _ U => U.xS a - U.xS b⟩
  | .and tk d a b g => some ⟨tk, g, d, [a, b], fun _ _ U => U.xS a &&& U.xS b⟩
  | .or tk d a b g => some ⟨tk, g, d, [a, b], fun _ _ U => U.xS a ||| U.xS b⟩
  | .xor tk d a b g => some ⟨tk, g, d, [a, b], fun _ _ U => U.xS a ^^^ U.xS b⟩
  | .sll tk d a b g => some ⟨tk, g, d, [a, b], fun _ _ U => U.xS a <<< ((U.xS b).toNat % 64)⟩
  | .srl tk d a b g => some ⟨tk, g, d, [a, b], fun _ _ U => U.xS a >>> ((U.xS b).toNat % 64)⟩
  | .sra tk d a b g => some ⟨tk, g, d, [a, b], fun _ _ U => (U.xS a).sshiftRight ((U.xS b).toNat % 64)⟩
  | .min tk d a b g => some ⟨tk, g, d, [a, b], fun _ _ U => if (U.xS a).toInt < (U.xS b).toInt then U.xS a else U.xS b⟩
  | .max tk d a b g => some ⟨tk, g, d, [a, b], fun _ _ U => if (U.xS a).toInt < (U.xS b).toInt then U.xS b else U.xS a⟩
  | .minu tk d a b g => some ⟨tk, g, d, [a, b], fun _ _ U => if (U.xS a).toNat < (U.xS b).toNat then U.xS a else U.xS b⟩
  | .maxu tk d a b g => some ⟨tk, g, d, [a, b], fun _ _ U => if (U.xS a).toNat < (U.xS b).toNat then U.xS b else U.xS a⟩
  | .slt tk d a b g => some ⟨tk, g, d, [a, b], fun _ _ U => if (U.xS a).toInt < (U.xS b).toInt then 1 else 0⟩
  | .sltu tk d a b g => some ⟨tk, g, d, [a, b], fun _ _ U => if (U.xS a).toNat < (U.xS b).toNat then 1 else 0⟩
  | .seq tk d a b g => some ⟨tk, g, d, [a, b], fun _ _ U => if U.xS a = U.xS b then 1 else 0⟩
  | .clz tk d a g => some ⟨tk, g, d, [a], fun _ _ U =>
      if U.xS a = 0 then 64 else BitVec.ofNat 64 (63 - Nat.log2 (U.xS a).toNat)⟩
  | .popc tk d a g => some ⟨tk, g, d, [a], fun _ _ U =>
      BitVec.ofNat 64 ((List.range 64).filter fun i => (U.xS a).getLsbD i).length⟩
  | .ext tk d a sgn pos wm1 => some ⟨tk, none, d, [a], fun _ _ U =>
      if sgn = 1 then ((U.xS a).extractLsb' pos (wm1 + 1)).signExtend 64
      else ((U.xS a).extractLsb' pos (wm1 + 1)).setWidth 64⟩
  | .addi tk d a imm g => some ⟨tk, g, d, [a], fun _ _ U => U.xS a + sx imm 6⟩
  | .andi tk d a imm g => some ⟨tk, g, d, [a], fun _ _ U => U.xS a &&& sx imm 6⟩
  | .ori tk d a imm g => some ⟨tk, g, d, [a], fun _ _ U => U.xS a ||| sx imm 6⟩
  | .xori tk d a imm g => some ⟨tk, g, d, [a], fun _ _ U => U.xS a ^^^ sx imm 6⟩
  | .liShort tk d imm => some ⟨tk, none, d, [], fun _ _ _ => sx imm 11⟩
  | .liLong tk d imm32 => some ⟨tk, none, d, [], fun _ _ _ => sx imm32 32⟩
  | .shi tk d a imm kind => some ⟨tk, none, d, [a], fun _ _ U =>
      if kind = 0 then U.xS a <<< imm else if kind = 1 then U.xS a >>> imm else (U.xS a).sshiftRight imm⟩
  | .ptox tk d g => some ⟨tk, g, d, [], fun _ _ U =>
      BitVec.ofNat 64 ((List.range 32).foldr (fun i n => (if U.pS i then 1 else 0) + 2 * n) 0)⟩
  | .kget tk d a imm g => some ⟨tk, g, d, [32 + a], fun _ _ U =>
      let c := U.kS a
      if imm = 0 then c.bits.extractLsb' 0 64
      else if imm = 1 then (c.bits.extractLsb' 64 48).setWidth 64
      else if imm = 2 then (c.bits.extractLsb' 116 8).setWidth 64
      else if imm = 3 then (c.bits.extractLsb' 124 4).setWidth 64
      else if imm = 4 then (if c.tag then 1 else 0)
      else if imm = 5 then c.bits.extractLsb' 0 64
      else c.bits.extractLsb' 64 64⟩
  | .sget tk d a imm g => some ⟨tk, g, d, [], fun _ _ U =>
      let t := U.stream a
      BitVec.ofNat 64
        (if imm = 0 then t.pc
         else if imm = 1 then t.ps
         else if imm = 2 then (if t.mode = .idle then 0 else (t.active.map Desc.total).getD 0)
         else if imm = 3 then t.stateWord
         else t.p0)⟩
  | .opget tk d imm g => some ⟨tk, g, d, [], fun s u _ => BitVec.ofNat 64 (s.opget u imm)⟩
  | .csrr tk d csr => some ⟨tk, none, d, [], fun s u _ => BitVec.ofNat 64 (s.csr u csr)⟩
  | _ => none

/-- The words whose x result takes several cycles (R327, R76): a product, or a division, which runs alone. -/
def longForm : Instr → Option (XForm × Bool)
  | .mul tk d a b g => some (⟨tk, g, d, [a, b], fun _ _ U => U.xS a * U.xS b⟩, false)
  | .mulh tk d a b g => some (⟨tk, g, d, [a, b], fun _ _ U =>
      BitVec.ofInt 64 ((U.xS a).toInt * (U.xS b).toInt / 2 ^ 64)⟩, false)
  | .mulhu tk d a b g => some (⟨tk, g, d, [a, b], fun _ _ U =>
      BitVec.ofNat 64 ((U.xS a).toNat * (U.xS b).toNat / 2 ^ 64)⟩, false)
  | .div tk d a b g => some (⟨tk, g, d, [a, b], fun _ _ U =>
      if U.xS b = 0 then -1 else (U.xS a).sdiv (U.xS b)⟩, true)
  | .divu tk d a b g => some (⟨tk, g, d, [a, b], fun _ _ U =>
      if U.xS b = 0 then -1 else (U.xS a).udiv (U.xS b)⟩, true)
  | .rem tk d a b g => some (⟨tk, g, d, [a, b], fun _ _ U =>
      if U.xS b = 0 then U.xS a else (U.xS a).srem (U.xS b)⟩, true)
  | .remu tk d a b g => some (⟨tk, g, d, [a, b], fun _ _ U =>
      if U.xS b = 0 then U.xS a else (U.xS a).umod (U.xS b)⟩, true)
  | _ => none

/-- A division of the unit is still running. -/
abbrev UnitSt.dividing (U : UnitSt) : Prop :=
  ∃ q ∈ U.work.fl, q.eng = .S ∧ q.wait = .arith ∧ 0x0B ≤ fld q.hdr 16 7

/-- The words that write one predicate (R328, R168): token, guard, destination, registers, value. -/
def pForm : Instr → Option (Tok × XP × Nat × List Nat × (UnitSt → Bool))
  | .pcmp tk d a b cond => some (tk, none, d, [a, b], fun U =>
      let x := U.xS a
      let y := U.xS b
      if cond = 0 then x = y else if cond = 1 then x ≠ y
      else if cond = 2 then x.toInt < y.toInt else if cond = 3 then x.toInt ≥ y.toInt
      else if cond = 4 then x.toNat < y.toNat else x.toNat ≥ y.toNat)
  | .pset tk d v g => some (tk, g, d, [], fun _ => v = 1)
  | .pand tk d a b g => some (tk, g, d, [], fun U => U.pS a && U.pS b)
  | .por tk d a b g => some (tk, g, d, [], fun U => U.pS a || U.pS b)
  | .pxor tk d a b g => some (tk, g, d, [], fun U => U.pS a != U.pS b)
  | .pnot tk d a g => some (tk, g, d, [], fun U => !U.pS a)
  | .ktest tk d a imm g => some (tk, g, d, [32 + a], fun U =>
      (U.kS a).tag && decide ((U.kS a).perm % 64 &&& imm = imm))
  | _ => none

/-! ### Accesses -/

/-- An access of `n` bytes at offset `o` through capability `c` passes the checks of R107 in their order, the supply of
its scratchpad banks (R135) and its translation (R112): its address is `a` and its first byte has the key. -/
structure Reaches (s : State) (u : Nat) (c : Cap) (o n perm align : Nat) (kind : AccKind) (key a : Nat) : Prop where
  tag : c.tag = true
  grants : c.grants perm = true
  bound : o + n ≤ c.len
  addr : a = c.base + o
  aligned : a % align = 0
  space : c.space ≠ 7
  supply : c.space = 1 → s.spadChk u a n (kind ≠ .write) = .ok
  mapped : s.translate u c.space a kind = .ok key

/-! ### Memory words of S -/

/-- The offset of a memory word: x[b] plus the sign-extended 16-bit field, modulo 2^64 (R43). -/
def offsetOf (U : UnitSt) (b : Nat) (m : XM) : Nat := (U.xS b + sx m.off 16).toNat

/-- A memory word of S: token, guard, registers of the scoreboard, what it asks for, the registers it will write, and whether
its word waits until it is performed (R150 to R158, R163). -/
structure MForm where
  tk : Tok
  g : XP
  rd : List Nat
  req : UnitSt → MemReq
  wr : List Nat
  wait : Wait

/-- The scope of a scoped access: system through SPACE 5 and 6 (R154). -/
def scopeOf (c : Cap) (m : XM) : Nat := if c.space = 5 ∨ c.space = 6 then 4 else m.scope

def memForm : Instr → Option MForm
  | .ld tk d a b m => some
      { tk := tk, g := m.grd, rd := [32 + a, b], wr := [d], wait := .op
        req := fun U =>
          { k := a, o := offsetOf U b m, n := 2 ^ m.size, perm := permR, kind := .read, scope := none, isLoad := true
            op := .ld, sx := decide (m.sx = 1), lvl := 0, d := d, v := 0, v2 := 0, cap := Cap.null } }
  | .ldaq tk d a b m => some
      { tk := tk, g := m.grd, rd := [32 + a, b], wr := [d], wait := .op
        req := fun U =>
          { k := a, o := offsetOf U b m, n := 2 ^ m.size, perm := permR, kind := .read
            scope := some (scopeOf (U.kS a) m), isLoad := true, op := .ldaq, sx := decide (m.sx = 1)
            lvl := scopeOf (U.kS a) m, d := d, v := 0, v2 := 0, cap := Cap.null } }
  | .st tk d a b m => some
      { tk := tk, g := m.grd, rd := [32 + a, b, d], wr := [], wait := .done
        req := fun U =>
          { k := a, o := offsetOf U b m, n := 2 ^ m.size, perm := permW, kind := .write, scope := none, isLoad := false
            op := .st, sx := false, lvl := if (U.kS a).space = 5 ∨ (U.kS a).space = 6 then 4 else 0, d := d, v := U.xS d
            v2 := 0, cap := Cap.null } }
  | .strl tk d a b m => some
      { tk := tk, g := m.grd, rd := [32 + a, b, d], wr := [], wait := .done
        req := fun U =>
          { k := a, o := offsetOf U b m, n := 2 ^ m.size, perm := permW, kind := .write
            scope := some (scopeOf (U.kS a) m), isLoad := false, op := .strl, sx := false
            lvl := scopeOf (U.kS a) m, d := d, v := U.xS d, v2 := 0, cap := Cap.null } }
  | .amo tk d a b m => some
      { tk := tk, g := m.grd, rd := [32 + a, b, d], wr := [d], wait := .done
        req := fun U =>
          { k := a, o := offsetOf U b m, n := 2 ^ m.size, perm := permR + permW + permA, kind := .atomic
            scope := some (scopeOf (U.kS a) m), isLoad := true, op := .amo m.sub, sx := decide (m.sx = 1)
            lvl := scopeOf (U.kS a) m, d := d, v := U.xS d, v2 := 0, cap := Cap.null } }
  | .cas tk d a b m => some
      { tk := tk, g := m.grd, rd := [32 + a, b, d, d + 1], wr := [d], wait := .done
        req := fun U =>
          { k := a, o := offsetOf U b m, n := 2 ^ m.size, perm := permR + permW + permA, kind := .atomic
            scope := some (scopeOf (U.kS a) m), isLoad := true, op := .cas, sx := decide (m.sx = 1)
            lvl := scopeOf (U.kS a) m, d := d, v := U.xS d, v2 := U.xS (d + 1), cap := Cap.null } }
  | .kld tk d a b m => some
      { tk := tk, g := m.grd, rd := [32 + a, b], wr := [32 + d], wait := .op
        req := fun U =>
          { k := a, o := offsetOf U b m, n := 16, perm := permR + permC, kind := .read, scope := none, isLoad := true
            op := .kld, sx := false, lvl := 0, d := d, v := 0, v2 := 0, cap := Cap.null } }
  | .kst tk d a b m => some
      { tk := tk, g := m.grd, rd := [32 + a, b, 32 + d], wr := [], wait := .done
        req := fun U =>
          { k := a, o := offsetOf U b m, n := 16, perm := permW + permC, kind := .write, scope := none, isLoad := false
            op := .kst, sx := false, lvl := 0, d := d, v := 0, v2 := 0, cap := U.kS d } }
  | _ => none

/-- A store of a capability may go through `c` (R163, R103): a tagged capability without G stays in the unit scratchpad,
and no capability leaves the module. -/
def kstAllowed (c v : Cap) : Bool :=
  decide (c.space ≠ 5) && decide (c.space ≠ 6) && (!v.tag || v.g || decide (c.space = 1))

/-- Whether a memory word is a KST. -/
def isKst : Instr → Bool
  | .kst _ _ _ _ _ => true
  | _ => false

/-- The size of a scalar access: by the size field, and 16 bytes for a capability (R153, R163). -/
def accessBytes : Instr → Nat
  | .ld _ _ _ _ m => 2 ^ m.size
  | .ldaq _ _ _ _ m => 2 ^ m.size
  | .st _ _ _ _ m => 2 ^ m.size
  | .strl _ _ _ _ m => 2 ^ m.size
  | .amo _ _ _ _ m => 2 ^ m.size
  | .cas _ _ _ _ m => 2 ^ m.size
  | .kld _ _ _ _ _ => 16
  | .kst _ _ _ _ _ => 16
  | _ => 0

/-- A memory word of S leaves its operation in the unit's work. -/
def State.leavesOp (s : State) (u : Nat) (r : PassRec) (tk : Tok) (f : Flight) (q : MemReq) (c : Cap) (key a : Nat) : State :=
  (s.setUnit u ((s.unit u).addSop q.isLoad (q.sop f.id ⟨c.space, a, some key⟩))).leaves u .S r tk f

/-- An access that race detection checks finds no race, and is in the history; any other leaves it as it is. -/
abbrev State.raceFree (s : State) (u : Nat) (e : Eng) (c : Cap) (key n : Nat) (write : Bool) (scope : Option Nat)
    (s1 : State) : Prop :=
  if checkedCap c then s.raceCheck u e key n write scope = .inl s1 else s1 = s

/-! ### Vector words -/

/-- The words that work lane by lane: token, fields, whether they read b and vd, and the operation of a lane (R234 to R240). -/
def laneForm : Instr → Option (Tok × FV × XV × Bool × Bool × (LMode → Nat → Nat → Nat → Nat × Nat))
  | .vadd tk f x => some (tk, f, x, true, false, laneAdd)
  | .vsub tk f x => some (tk, f, x, true, false, laneSub)
  | .vmul tk f x => some (tk, f, x, true, false, laneMul)
  | .vfma tk f x => some (tk, f, x, true, true, laneFma)
  | .vfms tk f x => some (tk, f, x, true, true, laneFms)
  | .vfnma tk f x => some (tk, f, x, true, true, laneFnma)
  | .vdiv tk f x => some (tk, f, x, true, false, laneDiv)
  | .vsqrt tk f x => some (tk, f, x, false, false, laneSqrt)
  | .vrcp tk f x => some (tk, f, x, false, false, laneRcp)
  | .vrsq tk f x => some (tk, f, x, false, false, laneRsq)
  | .vexp2 tk f x => some (tk, f, x, false, false, laneExp2)
  | .vlog2 tk f x => some (tk, f, x, false, false, laneLog2)
  | .vmin tk f x => some (tk, f, x, true, false, laneMin)
  | .vmax tk f x => some (tk, f, x, true, false, laneMax)
  | .vabs tk f x => some (tk, f, x, false, false, laneAbs)
  | .vneg tk f x => some (tk, f, x, false, false, laneNeg)
  | .vand tk f x => some (tk, f, x, true, false, laneAnd)
  | .vor tk f x => some (tk, f, x, true, false, laneOr)
  | .vxor tk f x => some (tk, f, x, true, false, laneXor)
  | .vnot tk f x => some (tk, f, x, false, false, laneNot)
  | .vshl tk f x => some (tk, f, x, true, false, laneShl)
  | .vshr tk f x => some (tk, f, x, true, false, laneShr)
  | .vsra tk f x => some (tk, f, x, true, false, laneSra)
  | .vmulh tk f x => some (tk, f, x, true, false, laneMulh)
  | .vcmp tk f x => some (tk, f, x, true, false, laneCmp (f.rnd + 4 * x.sp))
  | .vsel tk f x => some (tk, f, x, true, true, laneSel)
  | .vmov tk f x => some (tk, f, x, false, false, laneMov)
  | .vcvt tk f x => some (tk, f, x, false, false, laneCvt x.sp)
  | .vclass tk f x => some (tk, f, x, false, false, laneClass)
  | _ => none

/-- A vector word that does not work lane by lane: token, fields, the operands it names, its 64 lanes and flags. -/
structure VForm where
  tk : Tok
  f : FV
  x : XV
  use : VUse
  lanes : UnitSt → PassRec → List Nat × Nat

/-- The lanes of an operand as numbers, by lane. -/
def UnitSt.laneAt (U : UnitSt) (sp j : Nat) : Nat := ((U.lanes sp).getD j 0).toNat
/-- The b operand of a vector word, by lane: a bank operand, or the captured x register in every lane (R40). -/
def bAt (U : UnitSt) (x : XV) (r : PassRec) (j : Nat) : Nat :=
  if x.bx = 1 then (r.vals.headD 0).toNat % 2 ^ 32 else U.laneAt x.vb j
/-- A mode of the word. -/
def modeOf (U : UnitSt) (f : FV) : LMode := ⟨f.ty, f.rnd, decide (f.sat = 1), U.csr.vstat.getLsbD 15⟩
/-- 64 lanes by a function, without flags. -/
def lanes64 (g : Nat → Nat) : List Nat × Nat := ((List.range 64).map g, 0)

def vForm : Instr → Option VForm
  | .vidx tk f x => some ⟨tk, f, x, ⟨none, none, some f.vd, false⟩, fun _ r =>
      lanes64 fun j => ((if x.bx = 1 then (r.vals.headD 0).toNat else 0) + j) % 2 ^ 32⟩
  | .vbcast tk f x => some ⟨tk, f, x, ⟨if x.sp = 0 then some x.va else none, none, some f.vd, false⟩, fun U r =>
      lanes64 fun _ => if x.sp = 0 then U.laneAt x.va ((r.vals.headD 0).toNat % 64) else (r.vals.headD 0).toNat % 2 ^ 32⟩
  | .vextr tk f x => some ⟨tk, f, x, ⟨some x.va, if x.bx = 1 then none else some x.vb, some f.vd, false⟩, fun U r =>
      let n := 32 * x.sp + f.rnd * 8 + f.sat * 4 + f.ty
      lanes64 fun j => if j + n < 64 then U.laneAt x.va (j + n) else if j + n < 128 then bAt U x r (j + n - 64) else 0⟩
  | .vrot tk f x => some ⟨tk, f, x, ⟨some x.va, none, some f.vd, false⟩, fun U _ =>
      lanes64 fun j => U.laneAt x.va ((j + 32 * x.sp + f.rnd * 8 + f.sat * 4 + f.ty) % 64)⟩
  | .vshuf tk f x => some ⟨tk, f, x, ⟨some x.va, if x.bx = 1 then none else some x.vb, some f.vd, false⟩, fun U r =>
      lanes64 fun j => if bAt U x r j < 64 then U.laneAt x.va (bAt U x r j) else 0⟩
  | .vred tk f x => some ⟨tk, f, x, ⟨some x.va, none, some f.vd, false⟩, fun U _ =>
      vredLanes (modeOf U f) (decide (x.sp = 1)) ((List.range 64).map (U.laneAt x.va))⟩
  | .vscan tk f x => some ⟨tk, f, x, ⟨some x.va, none, some f.vd, false⟩, fun U _ =>
      scanFrom (modeOf U f) (decide (x.sp = 1)) ((List.range 64).map (U.laneAt x.va)) 0 0⟩
  | .vrng tk f x => some ⟨tk, f, x, ⟨none, none, some f.vd, false⟩, fun _ r =>
      lanes64 fun j => philox (((r.vals.getD 0 0).toNat + (r.vals.getD 1 0).toNat * 2 ^ 64 + j) % 2 ^ 128)
        (r.vals.getD 2 0).toNat⟩
  | .vql6 tk f x => some ⟨tk, f, x, ⟨some x.va, none, some f.vd, false⟩, fun U r =>
      vql6Lanes (if x.bx = 1 then (r.vals.headD 0).toNat else 64) ((List.range 64).map (U.laneAt x.va))⟩
  | .vdl6 tk f x => some ⟨tk, f, x, ⟨some x.va, none, some f.vd, false⟩, fun U r =>
      vdl6Lanes (if x.bx = 1 then (r.vals.headD 0).toNat else 64) (U.csr.vstat.getLsbD 15)
        ((List.range 64).map (U.laneAt x.va))⟩
  | .vpack tk f x => some ⟨tk, f, x, ⟨some x.va, if x.bx = 1 then none else some x.vb, some f.vd, false⟩, fun U r =>
      vpackLanes f.rnd (U.csr.vstat.getLsbD 15) ((List.range 64).map (U.laneAt x.va)) ((List.range 64).map (bAt U x r))⟩
  | .vunpk tk f x => some ⟨tk, f, x, ⟨some x.va, none, some f.vd, false⟩, fun U _ =>
      vunpkLanes (decide (x.sp = 1)) (U.csr.vstat.getLsbD 15) ((List.range 64).map (U.laneAt x.va))⟩
  | _ => none

/-! ### Copy words -/

/-- A move word of C: token, guard, the k registers it uses in the order of R338, its ranges over the captured block, the
limits of its own, and the shape of the move (R170 to R175).  `cap` gives the capability in place `n`, register `k`. -/
structure CForm where
  tk : Tok
  g : XP
  ks : List Nat
  src : (Nat → Nat → Cap) → CBlock → Option CRange
  dst : (Nat → Nat → Cap) → CBlock → Option CRange
  scale : (Nat → Nat → Cap) → CBlock → Option CRange
  ok : (Nat → Nat → Cap) → CBlock → Bool
  shape : PassRec → CBlock → Move

/-- The scale range of a conversion or B load that uses L6. -/
def scaleRange (cap : Nat → Nat → Cap) (q : CBlock) (c : XC) (perm : Nat) : CRange :=
  ⟨c.ks, cap 2 c.ks, q.scoff, (q.rows - 1) * c.scstr + (q.row + 31) / 32, perm⟩

def cForm : Instr → Option CForm
  | .cpy tk d a _ c => some
      { tk := tk, g := c.grd, ks := [d, a]
        src := fun cap q => some ⟨a, cap 1 a, q.soff, (q.rows - 1) * q.sstr + q.row, permR⟩
        dst := fun cap q => some ⟨d, cap 0 d, q.doff, (q.rows - 1) * q.dstr + q.row, permW⟩
        scale := fun _ _ => none, ok := fun _ q => !q.badStride
        shape := fun _ q => { Move.blank with rows := q.rows, rowb := q.row, sstr := q.sstr, dstr := q.dstr } }
  | .cfill tk d _ _ c => some
      { tk := tk, g := c.grd, ks := [d], src := fun _ _ => none
        dst := fun cap q => some ⟨d, cap 0 d, q.doff, (q.rows - 1) * q.dstr + q.row, permW⟩
        scale := fun _ _ => none, ok := fun _ q => !q.badStride
        shape := fun r q =>
          { Move.blank with kind := 2, rows := q.rows, rowb := q.row, dstr := q.dstr, pat := (r.vals.getD 4 0).toNat } }
  | .ccvt tk d a _ c => some
      { tk := tk, g := c.grd, ks := if c.sfmt = 2 ∨ c.dfmt = 2 then [d, a, c.ks] else [d, a]
        src := fun cap q => some ⟨a, cap 1 a, q.soff, (q.rows - 1) * q.sstr + fmtBytes c.sfmt q.row, permR⟩
        dst := fun cap q => some ⟨d, cap 0 d, q.doff, (q.rows - 1) * q.dstr + fmtBytes c.dfmt q.row, permW⟩
        scale := fun cap q => if c.sfmt = 2 ∨ c.dfmt = 2 then
          some (scaleRange cap q c (if c.sfmt = 2 then permR else permW)) else none
        ok := fun _ q => !q.badStride
        shape := fun _ q =>
          { Move.blank with kind := 1, rows := q.rows, rowb := q.row, sstr := q.sstr, dstr := q.dstr, scstr := c.scstr
                            rnd := c.rnd, sfmt := c.sfmt, dfmt := c.dfmt } }
  | .bload tk d a _ c => some
      { tk := tk, g := c.grd, ks := if c.sfmt = 2 then [d, a, c.ks] else [d, a]
        src := fun cap q => some ⟨a, cap 1 a, q.soff, (q.rows - 1) * q.sstr + fmtBytes c.sfmt q.row, permR⟩
        dst := fun cap q => some ⟨d, cap 0 d, q.doff, (bloadWords c.sfmt q.row - 1) * 512 + q.rows * 8, permW⟩
        scale := fun cap q => if c.sfmt = 2 then some (scaleRange cap q c permR) else none
        ok := fun cap q => decide ((cap 0 d).space = 4) && decide (q.rows ≤ 64) && decide (q.doff % 512 = 0)
          && decide (((cap 0 d).base + q.doff) / 512 % 4096 + bloadWords c.sfmt q.row ≤ 4096)
        shape := fun _ q =>
          { Move.blank with kind := 3, rows := q.rows, rowb := q.row, sstr := q.sstr, scstr := c.scstr, sfmt := c.sfmt } }
  | _ => none

/-! ### The invariant -/

/-- The memory keeps its canonical form: bytes, tags and poison are each listed by rising key, and no entry equals what an
unlisted key reads as. -/
def Inv (s : State) : Prop := s.mem.wf = true

end Sys2Proof.Machine
end

