-- ==== Sys2Proof/Certificates/Slice0/Obligations.lean ====
section
/-! DEFINITION. The statements about the machine that the provers settle.  Each docstring names the rules of the spec that the
statement formalises, or says that it is the model's own. -/

open Sys2Proof Sys2Proof.Machine

/-! ### Encoding (R29 to R58) -/

/-- R29 to R58: the decoder reads back every well-formed instruction word from the words of its encoding, with every operand at
every value that the encoding admits.  The rows of the opcode table that are events have no words. -/
def Obligations.DecodeOfEncodeIsTheInstruction : Prop :=
  ∀ i : Instr, i.wf = true → i.eng ≠ none →
    ∃ h, (encode i = [h] ∧ i.len = 1 ∧ fld h 28 1 = 0 ∨ ∃ e, encode i = [h, e] ∧ i.len = 2 ∧ fld h 28 1 = 1 ∧ e < 2 ^ 32) ∧
      h < 2 ^ 32 ∧ some (fld h 29 3) = i.eng ∧ decodeWords h ((encode i)[1]?) = .ok i

/-- R33: what the decoder accepts is well formed, and its words are the encoding of what it reads: no bit of a word is dropped,
and two different words never stand for one instruction. -/
def Obligations.AcceptedWordsAreTheEncoding : Prop :=
  ∀ (h e : Nat) (i : Instr), h < 2 ^ 32 → e < 2 ^ 32 → decodeWords h (some e) = .ok i →
    i.wf = true ∧ i.eng = some (fld h 29 3) ∧ encode i = if fld h 28 1 = 0 then [h] else [h, e]

/-- R33 and R34: the decoder names the first check that fails: ENG = 7, then the token rules of R31, then an opcode that is not
assigned, then an X bit that does not agree with the form, then an extension word beyond the text. R33, R34, R36, R39, R440: where
the word at S's PC cannot be decoded, has its extension word beyond the text, stands beyond the text itself, or is a word of S
that may not stand in a delay slot, S meets UND, TEXT or SLOT with the word's address as INFO0 and its header as INFO1, and the
step takes that fault, or one that another engine meets at a lower text address.  That TEXT names engine 0 with INFO1 0 where no
word stands at the PC is the model's choice (log entry 115). -/
def Obligations.UndecodableWordsAreNamedAndTrap : Prop :=
  (∀ (h : Nat) (x : Option Nat),
     (fld h 29 3 = 7 → decodeWords h x = .error .badEng) ∧
     (fld h 29 3 ≠ 7 → tokOk (fld h 29 3) (fld h 26 2) (fld h 23 3) = false → decodeWords h x = .error .badToken) ∧
     (fld h 29 3 ≠ 7 → tokOk (fld h 29 3) (fld h 26 2) (fld h 23 3) = true → opForm (fld h 29 3) (fld h 16 7) = none →
       decodeWords h x = .error .badOp) ∧
     (fld h 29 3 ≠ 7 → tokOk (fld h 29 3) (fld h 26 2) (fld h 23 3) = true →
       (opForm (fld h 29 3) (fld h 16 7) = some .bare ∧ fld h 28 1 = 1 ∨
         opForm (fld h 29 3) (fld h 16 7) = some .ext ∧ fld h 28 1 = 0) → decodeWords h x = .error .badX) ∧
     (fld h 29 3 ≠ 7 → tokOk (fld h 29 3) (fld h 26 2) (fld h 23 3) = true →
       (opForm (fld h 29 3) (fld h 16 7) = some .ext ∨ opForm (fld h 29 3) (fld h 16 7) = some .opt) → fld h 28 1 = 1 →
       decodeWords h none = .error .noExt)) ∧
  (∀ (s : State) (u : Nat) (acts : List Act),
     s.agenda = .engine u .S :: acts → u < 768 → s.runs u = true → (s.unit u).sHeld = false →
     (s.unit u).tape.run ≠ 2 →
     let s0 := { s with agenda := acts, tick := s.tick + 1 }
     let U := s.unit u
     let a := U.pcOf .S
     let h := s.textAt U a
     let x := if a + 1 < U.tlen then some (s.textAt U (a + 1)) else none
     let meets := fun (t : Trap) => step s = .next (s0.afterAct exec (.engine u .S) ({ s0 with who := (u, .S) }.takeTrap u t))
     (U.tlen ≤ a → meets ⟨.text, 0, a, 0⟩) ∧
     (∀ q, a < U.tlen → q ≠ .noExt → q ≠ .noHeader → decodeWords h x = .error q → meets ⟨.und, fld h 29 3, a, h⟩) ∧
     (a < U.tlen → decodeWords h x = .error .noExt → meets ⟨.text, fld h 29 3, a, h⟩) ∧
     (∀ i, a < U.tlen → decodeWords h x = .ok i → (fld h 29 3 = 0 ∨ fld h 29 3 = 6) →
       slotOk (U.redirOf .S) h (1 + fld h 28 1) = false → meets ⟨.slot, fld h 29 3, a, h⟩))

/-- The words of the spec's assembled countdown (after R66), which it derives from R29, R37, R39 and the opcode map, decode to
the instructions that it lists; with them a word of each other engine, written out bit by bit from R29 and R51 to R56. -/
def Obligations.WordsOfTheCountdownDecode : Prop :=
  decodeWords 0x001A2803 none = .ok (.liShort .none 5 3) ∧
  decodeWords 0x0019297F none = .ok (.addi .none 5 5 0x3F none) ∧
  decodeWords 0x10202140 (some 0x00000001) = .ok (.pcmp .none 4 5 0 1) ∧
  decodeWords 0xD0002000 (some 0xFFFFFFFD) = .ok (.br 4 0 0xFFFFFFFD) ∧
  decodeWords 0xC07C0000 none = .ok .nopA ∧
  decodeWords 0xC0060000 none = .ok .endW ∧
  -- NOP.L that waits for a token of V and posts one to it: ENG 001, X 0, TK 11, PEER 010, OP 1111100
  decodeWords 0b00101101011111000000000000000000 none = .ok (.nopL (.both .V)) ∧
  -- NOP.L that waits for a token of V: ENG 001, X 0, TK 01, PEER 010, OP 1111100, F 0
  decodeWords 0b00100101011111000000000000000000 none = .ok (.nopL (.wait .V)) ∧
  -- NOP.V that posts to W: ENG 010, TK 10, PEER 011
  decodeWords 0b01001001111111000000000000000000 none = .ok (.nopV (.post .W)) ∧
  -- NOP.W, NOP.M and NOP.C with no token action
  decodeWords 0b01100000011111000000000000000000 none = .ok (.nopW .none) ∧
  decodeWords 0b10000000011111000000000000000000 none = .ok (.nopM .none) ∧
  decodeWords 0b10100000011111000000000000000000 none = .ok (.nopC .none)

/-! ### One step (R298, R299) -/

/-- What an act comes to, with what the step adds to it. -/
def stepAfter (s : State) (a : Act) (o : Out) : Out :=
  match o with
  | .next t => .next (s.afterAct exec a t)
  | other => other

/-- R298: where the next act is S's, the unit runs, and the words at S's PC decode to an instruction of S or of every engine, the
step is that instruction's meaning; so for another engine at its next word, and for an event of the opcode table.  What a step adds to
it (R36, R381, R385, R452): where the word meets a fault in task code, the fault taken is that of the lowest text address among those
that the unit's engines meet at their next words, and effects of retired words that waited (for room in a FIFO, or for the clock) are
made.  Where there is neither, the step adds nothing. -/
def Obligations.StepRunsTheDecodedInstruction : Prop :=
  (∀ (s : State) (u : Nat) (acts : List Act) (i : Instr),
    s.agenda = .engine u .S :: acts → u < 768 → s.runs u = true → (s.unit u).sHeld = false →
    (s.unit u).tape.run ≠ 2 →
    (s.unit u).pcOf .S < (s.unit u).tlen →
    decodeWords (s.textAt (s.unit u) ((s.unit u).pcOf .S))
      (if (s.unit u).pcOf .S + 1 < (s.unit u).tlen then some (s.textAt (s.unit u) ((s.unit u).pcOf .S + 1)) else none)
      = .ok i →
    slotOk ((s.unit u).redirOf .S) (s.textAt (s.unit u) ((s.unit u).pcOf .S))
      (1 + fld (s.textAt (s.unit u) ((s.unit u).pcOf .S)) 28 1) = true →
    (fld (s.textAt (s.unit u) ((s.unit u).pcOf .S)) 29 3 = 0 ∨ fld (s.textAt (s.unit u) ((s.unit u).pcOf .S)) 29 3 = 6) →
    step s = stepAfter { s with agenda := acts, tick := s.tick + 1 } (.engine u .S)
      (exec i { s with agenda := acts, tick := s.tick + 1, who := (u, .S) })) ∧
  -- another engine: its next record, once it has passed over the words of other engines
  (∀ (s : State) (u : Nat) (e : Eng) (acts : List Act) (r : PassRec) (i : Instr),
    s.agenda = .engine u e :: acts → e ≠ .S → u < 768 → s.runs u = true → (s.unit u).inHandler = false →
    (({ s with agenda := acts, tick := s.tick + 1 }.approach u e).unit u).nextRec e = some r →
    decodeWords r.hdr (if r.len = 2 then some r.ext else none) = .ok i →
    step s = stepAfter { s with agenda := acts, tick := s.tick + 1 } (.engine u e)
      (exec i ({ s with agenda := acts, tick := s.tick + 1 }.approach u e))) ∧
  -- an event of the opcode table
  (∀ (s : State) (acts : List Act) (i : Instr),
    s.agenda = .ev i :: acts → i.eng = none →
    step s = stepAfter { s with agenda := acts, tick := s.tick + 1 } (.ev i) (exec i { s with agenda := acts, tick := s.tick + 1 })) ∧
  -- what a step adds is nothing where no effect of a retired word waits and the act has met no fault
  (∀ (s t : State) (a : Act), (∀ q ∈ t.units, (t.unit q.1).work.late = []) →
    (∀ u e, a = .engine u e → faulted s t u = false) → s.afterAct exec a t = t) ∧
  -- of the faults that a unit's engines meet at once, the one at the lowest text address is taken
  (∀ (s t : State) (u : Nat) (e : Eng) (r : PassRec),
    faulted s t u = true → (s.approach u e).here u e = some r →
    ∃ a t', s.firstFault exec u e t = t' ∧ (a = r.addr ∧ t' = t ∨ ∃ e', e' ≠ e ∧ s.faultOf exec u e' = some (a, t')) ∧ a ≤ r.addr ∧
      ∀ e' b t2, e' ≠ e → s.faultOf exec u e' = some (b, t2) → a ≤ b)

/-- The memory right after reset is canonical. -/
def Obligations.ResetMemoryIsCanonical : Prop := Inv State.reset

/-- Every step keeps the memory canonical: whatever acts, of an engine, of the outside world or an event of the table, the bytes,
tags and poison stay listed by rising key with no entry equal to what an unlisted key reads as, so equal memories are equal
data. -/
def Obligations.EveryStepKeepsMemoryCanonical : Prop :=
  ∀ s t : State, Inv s → step s = .next t → Inv t

/-! ### Words of S that compute (R57, R76, R326 to R328) -/

/-- R326, R57, R167, R194, R328, R405, R452: a one-cycle scalar word that nothing holds issues with the value that its rule
gives, for its destination, and every operand form. -/
def Obligations.ScalarWordsWriteTheirValue : Prop :=
  ∀ (i : Instr) (F : XForm), xForm i = some F → ∀ (s : State) (u : Nat) (r : PassRec),
    SReady s u r F.tk F.g F.rd →
    exec i s = .next (s.swordCheck.leavesX u r F.tk F.d (F.val s.swordCheck u (s.swordCheck.unit u)))

/-- R76, R327: a product or a division that nothing holds issues, and waits for its result; a division also waits until no other
division of its unit runs. R326: ADD128 adds the pairs modulo 2^128 and writes both words of the destination pair. -/
def Obligations.LongAndPairArithmeticIssues : Prop :=
  (∀ (i : Instr) (F : XForm) (alone : Bool), longForm i = some (F, alone) → ∀ (s : State) (u : Nat) (r : PassRec),
     SReady s u r F.tk F.g F.rd → (alone = true → ¬ (s.swordCheck.unit u).dividing) →
     exec i s = .next (s.swordCheck.leaves u .S r F.tk { s.swordCheck.flight u .S r F.tk with
       eff := [.x F.d (F.val s.swordCheck u (s.swordCheck.unit u))], wr := [F.d], wait := .arith })) ∧
  (∀ (tk : Tok) (d a b : Nat) (g : XP) (s : State) (u : Nat) (r : PassRec),
     SReady s u r tk g [a, a + 1, b, b + 1] →
     ∃ lo hi : Word,
       (lo.toNat + 2 ^ 64 * hi.toNat) =
         (((s.swordCheck.unit u).xS a).toNat + 2 ^ 64 * ((s.swordCheck.unit u).xS (a + 1)).toNat
           + ((s.swordCheck.unit u).xS b).toNat + 2 ^ 64 * ((s.swordCheck.unit u).xS (b + 1)).toNat) % 2 ^ 128 ∧
       exec (.add128 tk d a b g) s = .next (s.swordCheck.leaves u .S r tk
         { s.swordCheck.flight u .S r tk with eff := [.x d lo, .x (d + 1) hi], wr := [d, d + 1] }))

/-- R328, R168: a predicate word that nothing holds issues with its value; XTOP writes p1 to p22 from an x register. -/
def Obligations.PredicateWordsWriteTheirValue : Prop :=
  (∀ (i : Instr) (tk : Tok) (g : XP) (d : Nat) (rd : List Nat) (v : UnitSt → Bool),
    pForm i = some (tk, g, d, rd, v) → ∀ (s : State) (u : Nat) (r : PassRec), SReady s u r tk g rd →
    exec i s = .next (s.swordCheck.leavesP u r tk d (v (s.swordCheck.unit u)))) ∧
  (∀ (tk : Tok) (a : Nat) (g : XP) (s : State) (u : Nat) (r : PassRec), SReady s u r tk g [a] →
    exec (.xtop tk a g) s = .next (s.swordCheck.leaves u .S r tk
      { s.swordCheck.flight u .S r tk with eff := [.ps ((s.swordCheck.unit u).xS a)] }))

/-- Result and frame of the one-cycle scalar words (R325, R326): where no word that is done still waits behind another, no DSTAT
result is pending and no tape is recorded, the destination reads as the new value and every other register, predicate and
capability register reads as before; a write to x0 is discarded.  Every byte and tag of memory, the system registers, the
banks, the streams, the other units, the clusters, the dies, the hub and Campion are unchanged. -/
def Obligations.ScalarWordsWriteOnlyTheirDestination : Prop :=
  ∀ (i : Instr) (F : XForm), xForm i = some F → ∀ (s : State) (u : Nat) (r : PassRec),
    Ready s u .S r F.tk F.g F.rd → fld r.hdr 29 3 = 0 → (s.unit u).tape.run ≠ 1 → (s.unit u).settled →
    (∀ f ∈ (s.unit u).work.fl, f.wait ≠ .done) →
    ∃ t, exec i s = .next t ∧
      (∀ n, (t.unit u).xS n = if n = F.d ∧ n ≠ 0 then F.val s u (s.unit u) else (s.unit u).xS n) ∧
      (∀ n, (t.unit u).kS n = (s.unit u).kS n) ∧ (∀ n, n ≤ 23 → (t.unit u).pS n = (s.unit u).pS n) ∧
      (∀ v a, t.mem.byte v a = s.mem.byte v a) ∧ (∀ v a, t.mem.tagAt v a = s.mem.tagAt v a) ∧
      (t.unit u).csr = (s.unit u).csr ∧ (t.unit u).elems = (s.unit u).elems ∧ (t.unit u).rb = (s.unit u).rb ∧
      (t.unit u).sb = (s.unit u).sb ∧ (t.unit u).streams = (s.unit u).streams ∧ (t.unit u).wins = (s.unit u).wins ∧
      (∀ w, w ≠ u → t.unit w = s.unit w) ∧ t.clusters = s.clusters ∧ t.dies = s.dies ∧ t.hub = s.hub ∧ t.camp = s.camp

/-- R164, R165, R166: KSUB narrows, KPERM takes permissions away, KMOV copies; each issues with the capability that its rule
gives, and KSUB and KPERM trap on an untagged one, KSUB on a range that does not fit. -/
def Obligations.CapabilityWordsDeriveOrTrap : Prop :=
  (∀ (tk : Tok) (d a : Nat) (g : XP) (s : State) (u : Nat) (r : PassRec), SReady s u r tk g [32 + a] →
    exec (.kmov tk d a g) s = .next (s.swordCheck.leavesK u r tk d ((s.swordCheck.unit u).kS a))) ∧
  (∀ (tk : Tok) (d a b imm32 : Nat) (s : State) (u : Nat) (r : PassRec), SReady s u r tk none [32 + a, b] →
    let c := (s.swordCheck.unit u).kS a
    let o := ((s.swordCheck.unit u).xS b).toNat
    let n := if imm32 = 0 then c.len - o else imm32
    if c.tag = false then
      exec (.ksub tk d a b imm32) s = .next (s.swordCheck.takeTrap u ⟨.ktag, 0, o, capInfo a 1 r.addr⟩)
    else if c.len < o + n then
      exec (.ksub tk d a b imm32) s = .next (s.swordCheck.takeTrap u ⟨.kbound, 0, o, capInfo a 1 r.addr⟩)
    else ∃ k : Cap, k.tag = true ∧ k.space = c.space ∧ k.perm = c.perm ∧ k.len = n % 2 ^ 48 ∧
      k.base = (c.base + o) % 2 ^ 64 ∧
      exec (.ksub tk d a b imm32) s = .next (s.swordCheck.leavesK u r tk d k)) ∧
  (∀ (tk : Tok) (d a perm : Nat) (s : State) (u : Nat) (r : PassRec), SReady s u r tk none [32 + a] →
    let c := (s.swordCheck.unit u).kS a
    if c.tag = false then
      exec (.kperm tk d a perm) s = .next (s.swordCheck.takeTrap u ⟨.ktag, 0, 0, capInfo a 1 r.addr⟩)
    else ∃ k : Cap, k.tag = true ∧ k.space = c.space ∧ k.len = c.len ∧ k.base = c.base ∧
      (∀ i, i < 7 → k.perm.testBit i = (c.perm.testBit i && perm.testBit i)) ∧
      (k.perm.testBit 7 = (c.perm.testBit 7 || perm.testBit 7)) ∧
      exec (.kperm tk d a perm) s = .next (s.swordCheck.leavesK u r tk d k)) ∧
  (∀ (h e d a b imm32 perm : Nat) (tk : Tok) (g : XP), h < 2 ^ 32 → e < 2 ^ 32 →
    (decodeWords h (some e) = .ok (.ksub tk d a b imm32) → fld h 16 7 = 0x2A ∧ fld h 28 1 = 1 ∧ d = fld h 11 5 ∧
      a = fld h 6 5 ∧ b = fld h 1 5 ∧ fld h 0 1 = 0 ∧ imm32 = e ∧ d < 16 ∧ a < 16) ∧
    (decodeWords h (some e) = .ok (.kperm tk d a perm) → fld h 16 7 = 0x2B ∧ fld h 28 1 = 1 ∧ d = fld h 11 5 ∧
      a = fld h 6 5 ∧ fld h 0 6 = 0 ∧ perm = fld e 0 8 ∧ fld e 8 24 = 0 ∧ d < 16 ∧ a < 16) ∧
    (decodeWords h (some e) = .ok (.kmov tk d a g) → fld h 16 7 = 0x2C ∧ d = fld h 11 5 ∧ a = fld h 6 5 ∧
      fld h 0 6 = 0 ∧ d < 16 ∧ a < 16))

/-! ### Memory words of S (R107, R150 to R159, R163) -/

/-- R107: the checks of an access run in their order: an untagged capability, SPACE 7, a permission that is not granted, a range
past the end, an address that is not aligned; an access that passes them, its banks and its translation reaches its bytes.
R424 to R427: the check of a race-checked access finds none where every earlier access that conflicts with it happens before it, is
scoped with it, or has been reported; the access then joins the history.  It finds one where some earlier access, not older than the
graph of the access (log entry 27), is none of these: an S word takes RACE before it has performed anything. -/
def Obligations.AccessChecksRunInOrder : Prop :=
  (∀ (s : State) (u : Nat) (c : Cap) (k o n perm align text : Nat) (kind : AccKind),
    (c.tag = false → s.access u c k o n perm align text kind = .trap s .ktag o (capInfo k n text)) ∧
    (c.tag = true → c.space = 7 → s.access u c k o n perm align text kind = .trap s .kperm o (capInfo k n text)) ∧
    (c.tag = true → c.space ≠ 7 → c.grants perm = false →
      s.access u c k o n perm align text kind = .trap s .kperm o (capInfo k n text)) ∧
    (c.tag = true → c.space ≠ 7 → c.grants perm = true → c.len < o + n →
      s.access u c k o n perm align text kind = .trap s .kbound o (capInfo k n text)) ∧
    (c.tag = true → c.space ≠ 7 → c.grants perm = true → o + n ≤ c.len → (c.base + o) % align ≠ 0 →
      s.access u c k o n perm align text kind = .trap s .align o (capInfo k n text)) ∧
    (∀ key a, Reaches s u c o n perm align kind key a → s.access u c k o n perm align text kind = .ok key a)) ∧
  (∀ (s : State) (u : Nat) (e : Eng) (key n : Nat) (write : Bool) (scope : Option Nat),
    let U := s.unit u
    let b : Access := ⟨s.raceNext, key, n, write, u, e, U.id.rank, U.id.task, scope⟩
    let free := fun a : Access => a.conflicts b = false ∨ a.scopedPair b = true ∨ a.id ∈ U.reported e none ∨
      a.id ∈ s.happened u e key n none
    ((∀ a ∈ s.races, free a) → ∃ s1, s.raceCheck u e key n write scope = .inl s1 ∧ s1.races = s.races ++ [b] ∧ s1.mem = s.mem) ∧
    ((∃ a ∈ s.races, ¬free a ∧ ∀ T G, s.task U.id.task = some T → s.graph T.graph = some G → G.since ≤ a.id) →
      ∃ s1 a, s.raceCheck u e key n write scope = .inr (s1, a) ∧ a ∈ s.races ∧ ¬free a ∧ s1.races = s.races ∧ s1.mem = s.mem)) ∧
  (∀ (i : Instr) (F : MForm), memForm i = some F → ∀ (s : State) (u : Nat) (r : PassRec) (key a : Nat) (s1 : State) (b : Access),
    SReady s u r F.tk F.g F.rd →
    let s0 := s.swordCheck
    let U := s0.unit u
    let q := F.req U
    let c := U.kS q.k
    U.acquiring = false → U.room q.isLoad = true → Reaches s0 u c q.o q.n q.perm q.n q.kind key a →
    (isKst i = true → kstAllowed c q.cap = true) → checkedCap c = true →
    s0.raceCheck u .S key q.n (decide (q.kind ≠ .read)) q.scope = .inr (s1, b) →
    exec i s = .next (s1.takeTrap u ⟨.race, 0, a + (max key b.key - key), q.n % 256 + b.n % 256 * 256⟩))

/-- R150 to R158, R163: a load, store, atomic or capability move of S that nothing holds and whose access reaches its bytes
issues: its operation, with the address, size, value and scope that its rule gives, joins the unit's work. -/
def Obligations.MemoryWordsOfSIssue : Prop :=
  ∀ (i : Instr) (F : MForm), memForm i = some F → ∀ (s : State) (u : Nat) (r : PassRec) (key a : Nat) (s1 : State),
    SReady s u r F.tk F.g F.rd →
    let s0 := s.swordCheck
    let U := s0.unit u
    let q := F.req U
    let c := U.kS q.k
    U.acquiring = false → U.room q.isLoad = true → Reaches s0 u c q.o q.n q.perm q.n q.kind key a →
    (isKst i = true → kstAllowed c q.cap = true) →
    s0.raceFree u .S c key q.n (decide (q.kind ≠ .read)) q.scope s1 →
    exec i s = .next (s1.leavesOp u r F.tk { s0.flight u .S r F.tk with wr := F.wr, wait := F.wait } q c key a)

/-- R107, R163, R103, R134: a memory word of S whose access fails a check takes that check's trap, with the offset and INFO1 of R440; a
KST of a capability that may not be stored there raises KPERM. -/
def Obligations.MemoryWordsOfSTrap : Prop :=
  ∀ (i : Instr) (F : MForm), memForm i = some F → ∀ (s : State) (u : Nat) (r : PassRec),
    SReady s u r F.tk F.g F.rd →
    let s0 := s.swordCheck
    let U := s0.unit u
    let q := F.req U
    let c := U.kS q.k
    U.acquiring = false → U.room q.isLoad = true →
    (c.tag = false → exec i s = .next (s0.takeTrap u ⟨.ktag, 0, q.o, capInfo q.k q.n r.addr⟩)) ∧
    (c.tag = true → (c.space = 7 ∨ c.grants q.perm = false) →
      exec i s = .next (s0.takeTrap u ⟨.kperm, 0, q.o, capInfo q.k q.n r.addr⟩)) ∧
    (c.tag = true → c.space ≠ 7 → c.grants q.perm = true → c.len < q.o + q.n →
      exec i s = .next (s0.takeTrap u ⟨.kbound, 0, q.o, capInfo q.k q.n r.addr⟩)) ∧
    (c.tag = true → c.space ≠ 7 → c.grants q.perm = true → q.o + q.n ≤ c.len → (c.base + q.o) % q.n ≠ 0 →
      exec i s = .next (s0.takeTrap u ⟨.align, 0, q.o, capInfo q.k q.n r.addr⟩)) ∧
    (isKst i = true → c.tag = true → c.space ≠ 7 → c.grants q.perm = true → q.o + q.n ≤ c.len →
      (c.base + q.o) % q.n = 0 → kstAllowed c q.cap = false →
      exec i s = .next (s0.takeTrap u ⟨.kperm, 0, q.o, capInfo q.k q.n r.addr⟩)) ∧
    (let a := c.base + q.o
     c.tag = true → c.space = 1 → c.grants q.perm = true → q.o + q.n ≤ c.len → a % q.n = 0 → a < 2 ^ 20 →
      a % 65536 + q.n ≤ 65536 → 0 < q.n → q.kind ≠ .write → U.fallDue 1 (a / 65536) = false →
      (U.bank 1 (a / 65536)).st = .off →
      exec i s = .next (s0.takeTrap u ⟨.spaddrop, 0, a, 15 + r.addr % 65536 * 2 ^ 32⟩)) ∧
    (∀ l reason, c.tag = true → c.space ≠ 7 → c.grants q.perm = true → q.o + q.n ≤ c.len → (c.base + q.o) % q.n = 0 →
      (isKst i = true → kstAllowed c q.cap = true) → (c.space = 1 → s0.spadChk u (c.base + q.o) q.n (q.kind ≠ .write) = .ok) →
      s0.translate u c.space (c.base + q.o) q.kind = .xlat l reason →
      exec i s = .next ((s0.dropFault u (c.base + q.o)).takeTrap u
        ⟨.xlat, 0, c.base + q.o, l + reason * 16 + (if q.kind = .read then 0 else 256)⟩)) ∧
    q.n = accessBytes i

/-- R151, R153, R163: a load that its order lets be performed gives its register the little-endian value of its bytes, zero-
extended or sign-extended; a KLD gives its capability register the 16 bytes with their tag, clear through SPACE 5 and 6.
Memory does not change. -/
def Obligations.LoadsAreGivenTheirBytes : Prop :=
  ∀ (s : State) (u id key : Nat) (o : SOp) (before : List SOp),
    u < 768 → s.halted u = false → findSop id [] (s.unit u).work.sops = some (o, before) →
    s.sopStands u id = false → s.sopReady u o before = true → s.replayHead u id = true → s.late u o.place .read = .ok key →
    s.mem.poisonFor (.unit u) key o.n = false →
    let s1 := ((s.acquire u o key).touch key).dropSop u id true
    let v := s.mem.num (.unit u) key o.n
    ((o.kind = .ld ∨ o.kind = .ldaq) → o.n ≤ 8 →
      exec (.scalarLoadPerformed u id) s = .next (s1.setUnit u ((s1.unit u).give id
        [.x o.d (if o.sx then sx v (8 * o.n) else BitVec.ofNat 64 v)]))) ∧
    (o.kind = .kld →
      exec (.scalarLoadPerformed u id) s = .next (s1.setUnit u ((s1.unit u).give id
        [.k o.d ⟨BitVec.ofNat 128 v,
          s.mem.tagAt (.unit u) key && decide (o.place.space ≠ 5) && decide (o.place.space ≠ 6)⟩]))) ∧
    (∀ t, exec (.scalarLoadPerformed u id) s = .next t → (o.kind = .ld ∨ o.kind = .ldaq ∨ o.kind = .kld) → t.mem = s.mem)

/-- R151, R154, R104, R125: a store that its order lets be performed writes exactly its bytes, in little-endian order, as its
unit reads them from then on; every other byte reads as before for every reader, and an ordinary store clears the tag. -/
def Obligations.StoresWriteExactlyTheirBytes : Prop :=
  ∀ (s : State) (u id key : Nat) (o : SOp) (before : List SOp),
    u < 768 → s.halted u = false → findSop id [] (s.unit u).work.sops = some (o, before) →
    (o.kind = .st ∨ o.kind = .strl ∨ o.kind = .kst) →
    s.sopStands u id = false → s.sopReady u o before = true → s.replayHead u id = true → s.late u o.place .write = .ok key →
    let bs := if o.kind = .kst then toBytes 16 o.cap.bits.toNat else toBytes o.n o.v.toNat
    ∃ t, exec (.scalarStorePerformed u id) s = .next t ∧
      (∀ j, j < bs.length → t.mem.byte (.unit u) (key + j) = bs.getD j 0) ∧
      (∀ v a, (a < key ∨ key + bs.length ≤ a) → t.mem.byte v a = s.mem.byte v a) ∧
      (bs ≠ [] → t.mem.tagAt (.unit u) key = (decide (o.kind = .kst) && o.cap.tag)) ∧
      (∀ x ∈ (t.unit u).work.sops, x.id ≠ id) ∧ (∀ n, (t.unit u).xS n = (s.unit u).xS n)

/-- R155 to R158: an AMO or CAS that its order lets be performed makes one atomic step: the register gets the old value, and
memory the new one (for CAS only where the old value equals the first operand); no other byte changes. R156: the operations
of AMO on n-byte values.  That the old value is the one its unit sees (log entry 24), and that the word has retired before, so that
its register follows now (log entry 25), are the model's readings; the register waits for its cluster's clock (R385). -/
def Obligations.AtomicsReadAndWriteAtOnce : Prop :=
  (∀ (s : State) (u id key : Nat) (o : SOp) (before : List SOp),
     u < 768 → s.halted u = false → findSop id [] (s.unit u).work.sops = some (o, before) →
     s.sopStands u id = false → s.sopReady u o before = true → s.replayHead u id = true → s.late u o.place .atomic = .ok key →
     s.mem.poisonFor (.unit u) key o.n = false → 0 < o.n →
     let old := s.mem.num (.unit u) key o.n
     let v := o.v.toNat % 2 ^ (8 * o.n)
     (∀ op, o.kind = .amo op → ∃ t, exec (.atomicPerformed u id) s = .next t ∧
       t.mem.num (.unit u) key o.n = amoOp op o.n old v % 2 ^ (8 * o.n) ∧
       (∀ w a, (a < key ∨ key + o.n ≤ a) → t.mem.byte w a = s.mem.byte w a) ∧
       ((∀ f ∈ (s.unit u).work.fl, f.id ≠ id) → (s.unit u).stopped = false → o.d ≠ 0 →
         (t.unit u).regs.getX o.d = loaded old o.n o.sx)) ∧
     (o.kind = .cas → old ≠ v → ∃ t, exec (.atomicPerformed u id) s = .next t ∧ t.mem = s.mem ∧
       ((∀ f ∈ (s.unit u).work.fl, f.id ≠ id) → (s.unit u).stopped = false → o.d ≠ 0 →
         (t.unit u).regs.getX o.d = loaded old o.n o.sx)) ∧
     (o.kind = .cas → old = v → ∃ t, exec (.atomicPerformed u id) s = .next t ∧
       t.mem.num (.unit u) key o.n = o.v2.toNat % 2 ^ (8 * o.n) ∧
       (∀ w a, (a < key ∨ key + o.n ≤ a) → t.mem.byte w a = s.mem.byte w a))) ∧
  (∀ n old v : Nat, (n = 4 ∨ n = 8) → old < 2 ^ (8 * n) → v < 2 ^ (8 * n) →
     amoOp 1 n old v = v ∧ amoOp 2 n old v = (old + v) % 2 ^ (8 * n) ∧
     amoOp 3 n old v = old &&& v ∧ amoOp 4 n old v = old ||| v ∧ amoOp 5 n old v = old ^^^ v ∧
     amoOp 6 n old v = (if (BitVec.ofNat (8 * n) v).toInt < (BitVec.ofNat (8 * n) old).toInt then v else old) ∧
     amoOp 7 n old v = (if (BitVec.ofNat (8 * n) old).toInt < (BitVec.ofNat (8 * n) v).toInt then v else old) ∧
     amoOp 8 n old v = min old v ∧ amoOp 9 n old v = max old v) ∧
  (∀ (h e : Nat) (tk : Tok) (d a b : Nat) (m : XM), h < 2 ^ 32 → e < 2 ^ 32 →
     decodeWords h (some e) = .ok (.amo tk d a b m) →
     fld h 16 7 = 0x34 ∧ m.sub = fld e 16 4 ∧ 1 ≤ m.sub ∧ m.sub ≤ 9 ∧ (m.size = 2 ∨ m.size = 3))

/-- R117, R159, R178, R186, R202, R59: a FENCE whose first column is performed, a WAIT whose counters are low enough, an NMFENCE without
outstanding or failed commands, and the NOP of S have no effect but their issue; FENCE and NMFENCE wait for older S words.
R59, R148, R178, R179: the NOP of each engine, and its WAIT once the counters are at or below their limits, have no effect
but their issue; a WAIT of L or M first empties that engine's read-ahead.  Requests of streams that wait for a migration count
as loads. -/
def Obligations.FencesWaitsAndNopsIssue : Prop :=
  (∀ (tk : Tok) (s : State) (u : Nat) (r : PassRec), SReady s u r tk none [] →
     let s0 := s.swordCheck
     let U := s0.unit u
     exec (.nopS tk) s = .next (s0.leaves u .S r tk (s0.flight u .S r tk)) ∧
     (∀ w : XW, { U.work with loads := U.work.loads + s0.heldRequests u }.under w = true → exec (.waitS tk w) s = .next (s0.leaves u .S r tk (s0.flight u .S r tk))) ∧
     (∀ kind scope, kind ≠ 1 → U.sIdle → U.work.sops = [] → s0.mem.releasedAt u scope = true →
       exec (.fence tk kind scope) s = .next ((s0.setUnit u { U with hb := { U.hb with relFrom := s0.mem.nextId } }).leaves u .S r tk
         (s0.flight u .S r tk))) ∧
     (∀ scope, U.sIdle → (∀ o ∈ U.work.sops, o.kind = .st ∨ o.kind = .strl ∨ o.kind = .kst) → s0.mem.madePerformed u 3 scope = true →
       exec (.fence tk 1 scope) s = .next (s0.leaves u .S r tk (s0.flight u .S r tk))) ∧
     (U.sIdle → U.work.nmcs = [] → U.work.nmFail = [] →
       exec (.nmfence tk) s = .next (s0.leaves u .S r tk (s0.flight u .S r tk)))) ∧
  (∀ (tk : Tok) (s : State) (u : Nat) (e : Eng) (r : PassRec) (w : XW), e ≠ .S → Ready s u e r tk none [] →
     let s0 := s.freshen u e tk
     let s1 := if e = .L ∨ e = .M then s0.setUnit u ((s0.unit u).dropAhead e) else s0
     let f := s.flight u e r tk
     (e = .L → exec (.nopL tk) s = .next (s0.leaves u e r tk f)) ∧ (e = .V → exec (.nopV tk) s = .next (s0.leaves u e r tk f)) ∧
     (e = .W → exec (.nopW tk) s = .next (s0.leaves u e r tk f)) ∧ (e = .M → exec (.nopM tk) s = .next (s0.leaves u e r tk f)) ∧
     (e = .C → exec (.nopC tk) s = .next (s0.leaves u e r tk f)) ∧
     ({ (s0.unit u).work with loads := (s0.unit u).work.loads + s0.heldRequests u }.under w = true →
       (e = .L → exec (.waitL tk w) s = .next (s1.leaves u e r tk f)) ∧
       (e = .V → exec (.waitV tk w) s = .next (s1.leaves u e r tk f)) ∧
       (e = .W → exec (.waitW tk w) s = .next (s1.leaves u e r tk f)) ∧
       (e = .M → exec (.waitM tk w) s = .next (s1.leaves u e r tk f)) ∧
       (e = .C → exec (.waitC tk w) s = .next (s1.leaves u e r tk f))))

/-! ### Queues, barriers, streams' control, the task's graph (R160 to R162, R192, R193, R381 to R383) -/

/-- R160, R161: QPUSH and QPOP where the queue has room or a record: the record waits to be performed, or is the oldest one and
leaves the queue. R162: BAR, once everything before it is performed at its scope, arrives and waits; when every unit of the
task has arrived the barrier completes: no arrival is left and the unit's own word waits no more. -/
def Obligations.StageQueuesAndBarriersAct : Prop :=
  ((∀ (tk : Tok) (d stage : Nat) (g : XP) (s : State) (u : Nat) (r : PassRec), SReady s u r tk g [d] →
     let s0 := s.swordCheck
     let U := s0.unit u
     let f := s0.flight u .S r tk
     U.id.nstage ≠ 0 → stage ≤ U.id.nstage → U.acquiring = false → U.room false = true → s0.stageLoad u stage < 512 →
     exec (.qpush tk d stage g) s =
       .next ((s0.setUnit u (U.addSop false (queueOp f.id .qpush stage (U.xS d)))).leaves u .S r tk f)) ∧
   (∀ (tk : Tok) (d : Nat) (g : XP) (s : State) (u : Nat) (r : PassRec) (v : Word) (q : List Word), SReady s u r tk g [] →
     let s0 := s.swordCheck
     let U := s0.unit u
     let f := s0.flight u .S r tk
     let C := s0.cluster (u / 8)
     let k := U.id.task * 8 + U.id.stage
     U.id.nstage ≠ 0 → U.acquiring = false → U.room true = true → SMap.get [] C.stageq k = v :: q →
     let s1 := s0.setCluster (u / 8) { C with stageq := SMap.set [] C.stageq k q }
     exec (.qpop tk d g) s =
       .next ((s1.setUnit u (U.addSop true (queueOp f.id .qpop d v))).leaves u .S r tk
         { f with wait := .op, wr := [d] })) ∧
   -- a pushed record joins the end of its queue when it is performed
   (∀ (s : State) (u id : Nat) (o : SOp) (before : List SOp),
     u < 768 → s.halted u = false → findSop id [] (s.unit u).work.sops = some (o, before) → o.kind = .qpush →
     s.sopStands u id = false → s.sopReady u o before = true →
     ∃ t, exec (.scalarStorePerformed u id) s = .next t ∧
       SMap.get [] (t.cluster (u / 8)).stageq ((s.unit u).id.task * 8 + o.d)
         = SMap.get [] (s.cluster (u / 8)).stageq ((s.unit u).id.task * 8 + o.d) ++ [o.v] ∧ t.mem = s.mem)) ∧
  ((∀ (tk : Tok) (num scope : Nat) (s : State) (u : Nat) (r : PassRec), SReady s u r tk none [] →
     let s0 := s.swordCheck
     let U := s0.unit u
     s0.scopeHolds u scope = true → U.work.sops = [] → U.bar = none → s0.mem.releasedAt u scope = true →
     exec (.bar tk num scope) s = .next (((s0.setUnit u { U with bar := some (num, scope, false) }).barArrive u num).leaves
       u .S r tk { s0.flight u .S r tk with wait := .op })) ∧
   (∀ (s : State) (t n : Nat) (T : Task), s.task t = some T → T.units ≠ [] →
     (∀ u ∈ T.units, u ∈ SMap.get [] T.bars n) →
     ∃ s1 T1, exec (.barComplete t n) s = .next s1 ∧ s1.task t = some T1 ∧ SMap.get [] T1.bars n = [] ∧
       s1.mem = s.mem ∧ (∀ w, w ∉ T.units → s1.unit w = s.unit w) ∧
       (∀ u ∈ T.units, ∀ m sc, (s.unit u).bar = some (m, sc, false) → m = n → (s.unit u).trap.saved.fl = [] →
         (s1.unit u).bar = none)))

/-- R189, R192, R193: SSET with a descriptor within its limits joins its stream's shadow queue on its way; SPOS gives the newest
entry its start position, and raises UND where no entry waits or the position lies beyond the elements. -/
def Obligations.StreamSetupWordsIssue : Prop :=
  (∀ (tk : Tok) (d a b : Nat) (m : XM) (s : State) (u : Nat) (r : PassRec) (key addr : Nat), SReady s u r tk m.grd [32 + a, b] →
    let s0 := s.swordCheck
    let U := s0.unit u
    let f := s0.flight u .S r tk
    let c := U.kS a
    let op : SOp := ⟨f.id, .sset, ⟨c.space, addr, some key⟩, 64, false, 0, d, 0, 0, Cap.null, none, false⟩
    let bs := s0.mem.read (.unit u) key 64
    let D := Desc.ofBytes bs 0 Cap.null Cap.null
    let D1 := { D with capD := U.kS D.kd, capS := U.kS D.ks, orgD := U.kMark D.kd, orgS := U.kMark D.ks }
    U.acquiring = false → U.room true = true → Reaches s0 u c (offsetOf U b m) 64 permR 64 .read key addr →
    s0.sopReady u { op with kind := .ld } U.work.sops = true → U.shadowRoom d = true → s0.mem.poisonFor (.unit u) key 64 = false →
    descOk bs = true → U.kPend D.kd = false → U.kPend D.ks = false →
    exec (.sset tk d a b m) s = .next (((s0.touchRange key 64).setUnit u (U.addSop true { op with desc := some D1 })).leaves u .S r tk
      { f with wait := .op, wr := [] })) ∧
  (∀ (tk : Tok) (d a : Nat) (g : XP) (s : State) (u : Nat) (r : PassRec), SReady s u r tk g [d] →
    let s0 := s.swordCheck
    let U := s0.unit u
    let t := U.stream a
    (∀ o ∈ U.work.sops, o.kind ≠ .sset) →
    (t.shadow = [] → exec (.spos tk d a g) s = .next (s0.takeTrap u ⟨.und, 0, r.addr, r.hdr⟩)) ∧
    (∀ l D, t.shadow = l ++ [D] →
      ((U.xS d).toNat < D.total →
        exec (.spos tk d a g) s = .next ((s0.setUnit u (U.setStream a
          { t with shadow := l ++ [{ D with p0 := (U.xS d).toNat }] })).leaves u .S r tk (s0.flight u .S r tk))) ∧
      (D.total ≤ (U.xS d).toNat → exec (.spos tk d a g) s = .next (s0.takeTrap u ⟨.und, 0, r.addr, r.hdr⟩))))

/-- R381, R382, R383: TCONT that names a continuation template sends its record as it retires, once its release is performed: at once
where its POST finds room, else when it has pushed its token, and the step that retires it sends the record.  TEVT goes to the
hub, and TARG reads a value of the argument view; the event gives TEVT's register the bit's old value. -/
def Obligations.GraphWordsIssue : Prop :=
  (∀ (tk : Tok) (d a b : Nat) (m : XM) (s : State) (u : Nat) (r : PassRec),
    SReady s u r tk m.grd [32 + a, b, d, d + 1, d + 2, d + 3] →
    let s0 := s.swordCheck
    let U := s0.unit u
    let c := U.kS a
    U.sIdle → c.tag = true → c.space = 0 → offsetOf U b m + 1 ≤ c.len → (U.xS d).toNat < 4096 →
    s0.isTemplate U.id.graph (U.xS d).toNat = true →
    (((s0.graph U.id.graph).map fun G => G.unfinished).getD 0) < 4096 → s0.hub.conts.length < 4096 →
    U.work.sops = [] → s0.mem.releasedAt u 3 = true →
    let f := s0.flight u .S r tk
    let va := (c.base + offsetOf U b m) % 2 ^ 64
    let pay := [U.xS (d + 1), U.xS (d + 2), U.xS (d + 3)]
    (U.postRoom f = true → exec (.tcont tk d a b m) s = .next ((s0.sendCont U.id.graph (U.xS d).toNat va u pay (s0.contKnow u)).leaves
      u .S r tk f)) ∧
    (U.postRoom f = false → exec (.tcont tk d a b m) s = .next (s0.leaves u .S r tk
      { f with eff := [.tcont U.id.graph (U.xS d).toNat va pay (s0.contKnow u)] }))) ∧
  -- such a record, once its word has retired: the step sends it, where no other unit has an effect that waits
  (∀ (s : State) (u g n va : Nat) (pay : List Word) (know : List Nat) (U : UnitSt),
    s.units = [(u, U)] → s.stands u = false → U.work.late = [.tcont g n va pay know] →
    s.lateActs = (s.setUnit u { U with work := { U.work with late := [] } }).sendCont g n va u pay know) ∧
  (∀ (tk : Tok) (d act ev : Nat) (g : XP) (s : State) (u : Nat) (r : PassRec), SReady s u r tk g [] →
    let s0 := s.swordCheck
    let U := s0.unit u
    let f := s0.flight u .S r tk
    exec (.tevt tk d act ev g) s = .next ((s0.setUnit u { U with work := { U.work with sops := U.work.sops ++
      [⟨f.id, .tevt act, ⟨8, 0, none⟩, 0, false, 3, d, BitVec.ofNat 64 ev, 0, Cap.null, none, false⟩] } }).leaves u .S r tk
      { f with wait := .op, wr := [d] })) ∧
  (∀ (s : State) (u : Nat) (o : SOp) (rest : List SOp) (act : Nat) (G : Graph),
    u < 768 → s.halted u = false → (s.unit u).work.sops = o :: rest → o.kind = .tevt act → o.v.toNat < 64 →
    (act = 1 → s.mem.releasedAt u 3 = true) → s.graph (s.unit u).id.graph = some G →
    ∃ t G1, exec (.tevtPerformed u) s = .next t ∧ t.graph (s.unit u).id.graph = some G1 ∧
      (∀ i, i < 64 → G1.events.getLsbD i =
        if i = o.v.toNat then (if act = 1 then true else if act = 2 then false else G.events.getLsbD i)
        else G.events.getLsbD i) ∧
      t.unit u = (((s.forgetSop u o.id).unit u).eventDone o.id (if act = 0 ∧ G.events.getLsbD o.v.toNat = true then
        s.eventKnow (s.unit u).id.graph o.v.toNat else [])).give o.id [.x o.d (if G.events.getLsbD o.v.toNat then 1 else 0)] ∧
      t.mem = s.mem) ∧
  (∀ (tk : Tok) (d a sgn size : Nat) (g : XP) (s : State) (u : Nat) (r : PassRec) (key : Nat), SReady s u r tk g [a] →
    let s0 := s.swordCheck
    let U := s0.unit u
    let f := s0.flight u .S r tk
    let o := (U.xS a).toNat
    let va := (U.id.args + o) % 2 ^ 64
    o % 2 ^ size = 0 → o + 2 ^ size ≤ U.id.argsize → U.acquiring = false → s0.translate u 0 va .read = .ok key →
    s0.mem.poisonFor (.unit u) key (2 ^ size) = false →
    exec (.targ tk d a sgn size g) s = .next (((s0.touch key).setUnit u { U with work := { U.work with sops := U.work.sops ++
      [⟨f.id, .targ, ⟨0, va, some key⟩, 2 ^ size, false, 0, d,
        loaded (ofBytes (s0.argView U key o (2 ^ size))) (2 ^ size) (decide (sgn = 1)), 0, Cap.null, none, false⟩] } }).leaves
      u .S r tk { f with wait := .op, wr := [d] }))

/-- R354 to R356, R333: the tape words where nothing records: JGUARD within the argument block and JPATCH of a capability field
have no effect, JMARK leaves its mark for the five other engines, JSTAT reads; JGUARD outside the block and JPATCH of another
offset raise UND. -/
def Obligations.TapeWordsIssue : Prop :=
  ∀ (tk : Tok) (s : State) (u : Nat) (r : PassRec) (regs : List Nat), SReady s u r tk none regs →
    let s0 := s.swordCheck
    let U := s0.unit u
    let f := s0.flight u .S r tk
    (∀ a size, regs = [a] → size ≤ 4 → (U.xS a).toNat % 2 ^ size = 0 → (U.xS a).toNat + 2 ^ size ≤ U.id.argsize →
      U.tape.run ≠ 1 → exec (.jguard tk a size) s = .next (s0.leaves u .S r tk f)) ∧
    (∀ a size, regs = [a] → U.id.argsize < (U.xS a).toNat + 2 ^ size →
      exec (.jguard tk a size) s = .next (s0.takeTrap u ⟨.und, 0, r.addr, r.hdr⟩)) ∧
    (∀ d a T, regs = [a, 32 + d] → s0.task U.id.task = some T →
      (∃ q ∈ T.image.layout, q.1 = (U.xS a).toNat ∧ q.2.2 = true) → U.tape.run ≠ 1 →
      exec (.jpatch tk d a) s = .next (s0.leaves u .S r tk f)) ∧
    (∀ d a T, regs = [a, 32 + d] → s0.task U.id.task = some T →
      (∀ q ∈ T.image.layout, q.1 = (U.xS a).toNat → q.2.2 = false) →
      exec (.jpatch tk d a) s = .next (s0.takeTrap u ⟨.und, 0, r.addr, r.hdr⟩)) ∧
    (∀ imm, regs = [] → U.inHandler = true → exec (.jmark tk imm) s = .next (s0.leaves u .S r tk f)) ∧
    (∀ imm, regs = [] → U.inHandler = false → exec (.jmark tk imm) s = .next ((s0.setUnit u { U with tape := { U.tape with
      markPend := U.tape.markPend ++ [(imm, [.L, .V, .W, .M, .C])] } }).leaves u .S r tk f)) ∧
    (∀ d imm, regs = [] → exec (.jstat tk d imm) s = .next (s0.leavesX u r tk d (BitVec.ofNat 64
      (if imm = 0 then U.tapestat
       else if imm = 1 then ((s0.tapeOf U.id.task).map fun T => T.guards.length).getD 0
       else if imm = 2 then ((s0.tapeOf U.id.task).map fun T => T.slots.length).getD 0
       else (128 - s0.blocksUsed (u / 8)) * 256))))

/-! ### Operating points (R384, R385, R402 to R404) -/

/-- R402, R403, R404: OPREQ answers with the status of the first rule that refuses it: a lease that the task has, a point not above its
entry's, a shared cluster, a grade, an emergency, a thermal cap or OPMAX below the point, and last the headroom, which the hub judges
by a power that the spec leaves open.  Granted, it aims the task's clusters at the point and waits for the relocks; where every
cluster stands there already, it retires at once and the lease runs.  OPREL gives a lease back and waits alike, or does nothing
without one. That OPMAX binds a lease only below its full value 6 is the model's reading (log entry 81). R385: raising a cluster ramps its
voltage first and relocks after, lowering relocks first: the end of a relock puts the cluster at its new point, and a ramp up
is followed by the relock. -/
def Obligations.LeaseWordsIssueAndClocksChange : Prop :=
  (∀ (tk : Tok) (s : State) (u : Nat) (r : PassRec) (T : Task), SReady s u r tk none [] →
     let s0 := s.swordCheck
     let U := s0.unit u
     let f := s0.flight u .S r tk
     U.sIdle → s0.task U.id.task = some T →
     (∀ d q imm32, 1 ≤ imm32 → imm32 ≤ 10000 →
       (T.lease ≠ none → exec (.opreq tk d q imm32) s = .next (s0.leavesX u r tk d 5)) ∧
       (T.lease = none → q ≤ T.entryOp → exec (.opreq tk d q imm32) s = .next (s0.leavesX u r tk d 4)) ∧
       (T.lease = none → T.entryOp < q → s0.sharesCluster U.id.task T = true →
         exec (.opreq tk d q imm32) s = .next (s0.leavesX u r tk d 2)) ∧
       (T.lease = none → T.entryOp < q → s0.sharesCluster U.id.task T = false →
         (s0.camp.grade ≠ 0 ∨ (∃ die, die < 8 ∧ (s0.die die).emerg = true) ∨
           (∃ c ∈ T.clusters, (s0.cluster c).clk.therm ≠ none ∨
             (s0.cluster c).clk.opmax < 6 ∧ (s0.cluster c).clk.opmax < q ∨ 7 < q)) →
         exec (.opreq tk d q imm32) s = .next (s0.leavesX u r tk d 3)) ∧
       (T.lease = none → T.entryOp < q → s0.sharesCluster U.id.task T = false → s0.camp.grade = 0 →
         (∀ die, die < 8 → (s0.die die).emerg = false) →
         (∀ c ∈ T.clusters, (s0.cluster c).clk.therm = none ∧ q ≤ 7 ∧ (6 ≤ (s0.cluster c).clk.opmax ∨ q ≤ (s0.cluster c).clk.opmax)) →
         s0.leaseStatus U.id.task T q ≠ 0 → exec (.opreq tk d q imm32) s = .next (s0.leavesX u r tk d 1)) ∧
       (s0.leaseStatus U.id.task T q = 0 →
         let s1 := (s0.setTask U.id.task { T with lease := some (q, 0) }).aimTask T q
         (s1.steadyTask T = true → exec (.opreq tk d q imm32) s = .next
           ((s1.setTask U.id.task { T with lease := some (q, s0.time.toNat + imm32 * 1000) }).leavesX u r tk d 0)) ∧
         (s1.steadyTask T = false → exec (.opreq tk d q imm32) s = .next ((s1.setUnit u { s1.unit u with work := { (s1.unit u).work with
           sops := (s1.unit u).work.sops ++ [leaseOp f.id .opreq d (BitVec.ofNat 64 (imm32 * 1000))] } }).leaves u .S r tk
           { f with wait := .op, wr := [d] })))) ∧
     (T.lease = none → exec (.oprel tk) s = .next (s0.leaves u .S r tk f)) ∧
     (T.lease ≠ none →
       let s1 := s0.dropLease U.id.task
       (s1.steadyTask T = true → exec (.oprel tk) s = .next (s1.leaves u .S r tk f)) ∧
       (s1.steadyTask T = false → exec (.oprel tk) s = .next ((s1.setUnit u { s1.unit u with work := { (s1.unit u).work with
         sops := (s1.unit u).work.sops ++ [leaseOp f.id .oprel 0 0] } }).leaves u .S r tk { f with wait := .op, wr := [] })))) ∧
  (∀ (s : State) (c : Nat),
     let k := (s.cluster c).clk
     (k.relock = true → ∃ t, exec (.relockDone c) s = .next t ∧ (t.cluster c).clk.op = k.phase ∧
       (k.phase < k.op → (t.cluster c).clk.ramp = true ∧ (t.cluster c).clk.relock = false) ∧
       (k.op ≤ k.phase → k.ramp = false → k.phase = k.target → (t.cluster c).clk.steady = true) ∧ t.mem = s.mem) ∧
     (k.ramp = true → k.op < k.phase → ∃ t, exec (.voltageRampDone c) s = .next t ∧ (t.cluster c).clk.relock = true ∧
       (t.cluster c).clk.ramp = false ∧ (t.cluster c).clk.op = k.op ∧ t.mem = s.mem ∧
       (∀ w, w / 8 ≠ c → t.unit w = s.unit w) ∧ (∀ w, { t.unit w with stopped := (s.unit w).stopped } = s.unit w) ∧
       (k.relock = false → ∀ w, w / 8 = c → (s.unit w).run ≠ .free → (t.unit w).stopped = true)) ∧
     (∀ q, k.relock = false → k.ramp = false →
       (k.op < q → (k.aim q).ramp = true ∧ (k.aim q).relock = false) ∧
       (q < k.op → (k.aim q).relock = true ∧ (k.aim q).ramp = false) ∧ (k.aim k.op).steady = true))

/-! ### System registers (R9, R58, R302, R449, R452) -/

/-- R452, R9: CSRW writes the fields that its access code lets it write, at its own retire, which comes later where its POST finds
no room, and then its action (PARKD, ABORT, NOREC, JDROP) comes with it; in user mode a value that differs from the current one in
a supervisor's field raises KPERM. R82, R302, R438, R449: what a write leaves in the registers that
only hold a value: SLIPW and PDEADLINE clamped, TFRAME in 4 KiB steps, TOKWD at least 256, the flags of VSTAT cleared by
ones; every other register is unchanged. R432, R447, R352: the steps that set PARKD, ABORT, NOREC and JDROP are the CSRW that
S has before it: parked units stop with the request spent, an abort ends the task with FAULT, NOREC stands in the unit's
TAPECTL.  That ABORT wins where a write sets it beside PARKD is the model's choice (log entry 113). -/
def Obligations.SystemRegisterWritesTakeEffect : Prop :=
  (∀ (tk : Tok) (d csr : Nat) (s : State) (u : Nat) (r : PassRec), SReady s u r tk none [d] →
     let s0 := s.swordCheck
     let U := s0.unit u
     let v := (U.xS d).toNat
     let f := s0.flight u .S r tk
     U.sIdle →
     (U.csr.mode = false → U.rwsChange csr v = true →
       ∃ i0 i1, exec (.csrw tk d csr) s = .next (s0.takeTrap u ⟨.kperm, 0, i0, i1⟩)) ∧
     (¬ (U.csr.mode = false ∧ U.rwsChange csr v = true) →
       (csr = 0x002 → frameTooLong (fld v 12 8) U.csr.slipw = false) →
       (csr = 0x010 → frameTooLong U.csr.tframe (clampSlip (fld v 0 13)) = false) →
       (U.postRoom f = true → exec (.csrw tk d csr) s = .next ((s0.csrWrite u csr v).leaves u .S r tk f)) ∧
       (U.postRoom f = false →
         exec (.csrw tk d csr) s = .next (s0.leaves u .S r tk { f with eff := [.csrw csr v, .csract csr v] })))) ∧
  (∀ (s : State) (u v : Nat), u < 768 →
     let w := fun csr => (s.csrWrite u csr v).csr u
     w 0x010 0x010 = min 4096 (max 16 (fld v 0 13)) ∧
     w 0x002 0x002 = fld v 12 8 * 4096 ∧
     w 0x012 0x012 = max 256 (fld v 0 32) ∧
     w 0x004 0x004 = fld v 0 10 ∧
     w 0x003 0x003 = fld v 0 14 + fld v 31 1 * 2 ^ 31 ∧
     fld (w 0x011 0x011) 0 32 = min 65536 (max 256 (fld v 0 17)) ∧
     (∀ i, i < 16 → i ≠ 15 → (vstatFlags.getLsbD i = true) →
       (w 0x050 0x050).testBit i = ((s.unit u).csr.vstat.getLsbD i && !v.testBit i)) ∧
     (w 0x050 0x050).testBit 15 = v.testBit 15 ∧
     (∀ n, n ≠ 0x010 → w 0x010 n = s.csr u n) ∧ (∀ n, n ≠ 0x002 → w 0x002 n = s.csr u n) ∧
     (∀ n, n ≠ 0x012 → w 0x012 n = s.csr u n)) ∧
  (∀ (s : State) (u : Nat) (tk : Tok) (d : Nat) (r : PassRec), SReady { s with who := (u, .S) } u r tk none [d] →
     let s0 := State.swordCheck { s with who := (u, .S) }
     let U := s0.unit u
     let v := (U.xS d).toNat
     let f := s0.flight u .S r tk
     U.sIdle → U.postRoom f = true →
     (s.csrwHere u 0x000 32 = some (tk, d) → U.csr.mode = true → exec (.statusParkd u) s = .next ((s0.csrWrite u 0x000 v).leaves u .S r tk f)) ∧
     (s.csrwHere u 0x000 16 = some (tk, d) → U.csr.mode = true → exec (.statusAbort u) s = .next ((s0.csrWrite u 0x000 v).leaves u .S r tk f)) ∧
     (s.csrwHere u 0x070 (2 ^ 17) = some (tk, d) → (U.csr.mode = true ∨ U.rwsChange 0x070 v = false) → exec (.tapectlNorec u) s = .next ((s0.csrWrite u 0x070 v).leaves u .S r tk f)) ∧
     (s.csrwHere u 0x070 (2 ^ 16) = some (tk, d) → U.csr.mode = true → exec (.tapectlJdrop u) s = .next ((s0.csrWrite u 0x070 v).leaves u .S r tk f))) ∧
  (∀ (s : State) (u : Nat), u < 768 →
     (∀ v, fld v 4 1 = 0 → fld v 5 1 = 1 → ((s.csrWrite u 0x000 v).unit u).run = .parked ∧
       ((s.csrWrite u 0x000 v).unit u).csr.preq = false) ∧
     (∀ v, fld v 4 1 = 1 → ((s.csrWrite u 0x000 v).unit u).run = .halted ∧
       (∀ T, s.task (s.unit u).id.task = some T → T.status = 0 →
         ∃ T1, (s.csrWrite u 0x000 v).task (s.unit u).id.task = some T1 ∧ T1.status = stFault)) ∧
     -- the action of a write whose POST had no room, once the word has retired
     (∀ (U : UnitSt) (csr v : Nat), s.units = [(u, U)] → s.stands u = false → U.work.late = [.csract csr v] →
       s.lateActs = (s.setUnit u { U with work := { U.work with late := [] } }).csrActs u csr v) ∧
     (∀ v, fld v 16 1 = 0 → fld v 17 1 = 1 → (s.unit u).tape.run ≠ 1 → ((s.csrWrite u 0x070 v).unit u).csr.norec = true))

/-! ### Traps (R49, R433 to R445) -/

/-- R445: TRAP, whose word has the fields 0x62, zero and the immediate, retires with its POST, and the trap is taken with its own
address and immediate, S's PC being the word after it; it may stand in no delay slot. R444: DECLINE in a user handler
at depth 1 enters the supervisor with DECLINED set in CAUSE and the frame kept; anywhere else it raises UND. -/
def Obligations.TrapWordEntersAndDeclinePassesOn : Prop :=
  (∀ (tk : Tok) (imm : Nat) (s : State) (u : Nat) (r : PassRec), SReady s u r tk none [] →
     let s0 := s.swordCheck
     (s0.unit u).sIdle → (s0.unit u).postRoom (s0.flight u .S r tk) = true →
     exec (.trap tk imm) s = .next ((s0.leaves u .S r tk (s0.flight u .S r tk)).takeTrap u
       ⟨.swtrap, 0, r.addr, r.hdr + imm * 2 ^ 32⟩)) ∧
  (∀ (tk : Tok) (s : State) (u : Nat) (r : PassRec), SReady s u r tk none [] →
     let s0 := s.swordCheck
     let U := s0.unit u
     U.sIdle →
     (U.csr.uh = true → U.csr.mode = false → U.trap.depth = 1 →
       ∃ t, exec (.decline tk) s = .next t ∧ (t.unit u).csr.mode = true ∧ (t.unit u).csr.uh = false ∧
         (t.unit u).csr.cause = U.csr.cause ||| 0x4000 ∧ (t.unit u).pcOf .S = U.csr.vecS ∧
         (t.unit u).regs.getK 14 = U.id.superCap ∧ (∀ n, n ≠ 14 → (t.unit u).regs.getK n = U.regs.getK n) ∧
         (t.unit u).regs.x = U.regs.x ∧ (t.unit u).trap.depth = 1 ∧ t.mem = s0.mem) ∧
     (¬ (U.csr.uh = true ∧ U.csr.mode = false ∧ U.trap.depth = 1) →
       exec (.decline tk) s = .next (s0.takeTrap u ⟨.und, 0, r.addr, r.hdr⟩))) ∧
  (∀ (h : Nat) (tk : Tok) (imm : Nat), h < 2 ^ 32 → decodeWords h none = .ok (.trap tk imm) →
     fld h 29 3 = 0 ∧ fld h 28 1 = 0 ∧ fld h 16 7 = 0x62 ∧ fld h 6 10 = 0 ∧ imm = fld h 0 6 ∧ (∀ q, slotOk (some q) h 1 = false)) ∧
  (∀ (tk : Tok) (s : State) (u : Nat) (r : PassRec), u < 768 → (s.unit u).redirOf .S = none → (s.unit u).loopsOf .S = [] →
     r.len = 1 → ((s.leaves u .S r tk (s.flight u .S r tk)).unit u).pcOf .S = r.addr + 1) ∧
  decodeWords 0x00640000 none = .ok (.decline .none) ∧ decodeWords 0x00620009 none = .ok (.trap .none 9)

/-- R433, R434, R440: a trap taken in task code: S stands at the user handler with UH set, or, for XLAT and PREEMPT and where no
user vector is enabled, at the supervisor's with MODE set and k14 the supervisor's capability; CAUSE holds the code and the
engine; k15 names the frame; the frame holds cause, both INFO words, the time and the six PCs; no word is left in flight. -/
def Obligations.TrapEntryFromTaskCode : Prop :=
  ∀ (s : State) (u : Nat) (t : Trap), (s.unit u).trap.depth = 0 → t.eng < 8 → t.info0 < 2 ^ 64 → t.info1 < 2 ^ 64 →
    (s.unit u).walk.arrived = [] → (s.unit u).walk.passes = [] → (s.unit u).settled →
    let s1 := s.takeTrap u t
    let V := s1.unit u
    let k := keyOf (16 + u) ((s.unit u).csr.tframe * 4096)
    V.csr.cause = BitVec.ofNat 64 (t.cause.code + t.eng * 2 ^ 11) ∧ V.trap.depth = 1 ∧ V.trap.pend = none ∧
    V.work.fl = [] ∧ V.redirOf .S = none ∧
    (if t.cause = .xlat ∨ t.cause = .preempt ∨ (s.unit u).csr.vecEn = false then
        V.csr.mode = true ∧ V.csr.uh = false ∧ V.pcOf .S = (s.unit u).csr.vecS ∧ V.regs.getK 14 = (s.unit u).id.superCap
      else V.csr.uh = true ∧ V.csr.mode = (s.unit u).csr.mode ∧ V.pcOf .S = (s.unit u).csr.vecU ∧
        V.regs.getK 14 = (s.unit u).regs.getK 14) ∧
    V.regs.getK 15 = Cap.mk' 1 (permR + permW + permC) (flen (s.unit u).csr.slipw) ((s.unit u).csr.tframe * 4096) true ∧
    s1.mem.num (.unit u) k 8 = t.cause.code + t.eng * 2 ^ 11 ∧ s1.mem.num (.unit u) (k + 8) 8 = t.info0 ∧
    s1.mem.num (.unit u) (k + 16) 8 = t.info1 ∧ s1.mem.num (.unit u) (k + 24) 8 = s.time.toNat ∧
    (∀ e : Eng, (s.unit u).pcOf e < 2 ^ 32 → s1.mem.num (.unit u) (k + 0x40 + 4 * e.code) 4 = (s.unit u).pcOf e) ∧
    (∀ n, V.regs.getX n = (s.unit u).regs.getX n) ∧ (∀ w, w ≠ u → (s1.unit w).regs = (s.unit w).regs)

/-- R435: a trap raised in a handler at depth 1 enters the supervisor at depth 2, with NEST in CAUSE, and writes the cause and
INFO words of the interrupted handler's area; at depth 2 it ends the task with FAULT and the unit halts. -/
def Obligations.TrapsInHandlersNest : Prop :=
  ∀ (s : State) (u : Nat) (t : Trap), t.eng < 8 → t.info0 < 2 ^ 64 → t.info1 < 2 ^ 64 →
    let U := s.unit u
    let s1 := s.takeTrap u t
    let V := s1.unit u
    let k := keyOf (16 + u) (U.csr.tframe * 4096)
    (U.trap.depth = 1 → U.settled →
      V.trap.depth = 2 ∧ V.csr.mode = true ∧ V.csr.uh = false ∧ V.pcOf .S = U.csr.vecS ∧
      V.csr.cause = BitVec.ofNat 64 (t.cause.code + t.eng * 2 ^ 11 + 2 ^ 15) ∧
      V.regs.getK 14 = U.id.superCap ∧ (∀ n, n ≠ 14 → V.regs.getK n = U.regs.getK n) ∧
      (∀ n, V.regs.getX n = U.regs.getX n) ∧
      s1.mem.num (.unit u) (k + 0x980) 8 = U.csr.cause.toNat ∧ s1.mem.num (.unit u) (k + 0x990) 8 = t.info0 ∧
      s1.mem.num (.unit u) (k + 0x998) 8 = t.info1 ∧
      (U.pcOf .S < 2 ^ 32 → s1.mem.num (.unit u) (k + 0x988) 4 = U.pcOf .S)) ∧
    (2 ≤ U.trap.depth →
      V.run = .halted ∧ s1.mem = s.mem ∧
      (∀ T, s.task U.id.task = some T → T.status = 0 → ∃ T1, s1.task U.id.task = some T1 ∧ T1.status = stFault) ∧
      (∀ w, w ≠ u → (∀ T, s.task U.id.task = some T → w ∉ T.units) → s1.unit w = s.unit w))

/-- R442, R436: RETI outside a handler, or with a frame that fails its checks, raises UND; with a good frame it returns: at depth
1 to the task, with x24 to x31, k14, k15, the six PCs and the replay queue from the frame, at depth 2 to the handler with its CAUSE,
mode and x24 to x31.  That a word of the frame's replay queue goes on as the saved word in its place, whose operands the frame's open
area holds, is the model's choice (log entries 69, 112 and 128). -/
def Obligations.RetiRestoresTheFrame : Prop :=
  ∀ (tk : Tok) (s : State) (u : Nat) (r : PassRec), SReady s u r tk none [] →
    let s0 := s.swordCheck
    let U := s0.unit u
    U.sIdle →
    (U.inHandler = false → exec (.reti tk) s = .next (s0.takeTrap u ⟨.und, 0, r.addr, r.hdr⟩)) ∧
    (U.inHandler = true → s0.frameOk u = false → exec (.reti tk) s = .next (s0.takeTrap u ⟨.und, 0, r.addr, r.hdr⟩)) ∧
    (U.inHandler = true → s0.frameOk u = true → U.trap.depth = 1 →
      exec (.reti tk) s = .next (((s0.retiTask u).heldRequest u).afterReti u) ∧
      (let V := (s0.retiTask u).unit u
       V.csr.mode = false ∧ V.csr.uh = false ∧ V.trap.depth = 0 ∧
       (∀ i, i < 8 → V.regs.getX (24 + i) = BitVec.ofNat 64 (s0.frameNum u (0x900 + 8 * i) 8)) ∧
       (∀ n, n < 24 → V.regs.getX n = U.regs.getX n) ∧
       V.regs.getK 14 = s0.frameCap u 0x940 ∧ V.regs.getK 15 = s0.frameCap u 0x950 ∧
       (∀ e : Eng, V.pcOf e = s0.frameNum u (0x40 + 4 * e.code) 4) ∧
       V.work.fl = (s0.frameReplay u).fl ++ U.work.fl ∧
       (∀ f ∈ (s0.frameReplay u).fl, ∃ g ∈ U.trap.saved.fl, f.id = g.id ∧ f.eng = g.eng) ∧ (s0.retiTask u).mem = s0.mem)) ∧
    (U.inHandler = true → s0.frameOk u = true → U.trap.depth = 2 →
      exec (.reti tk) s = .next ((s0.retiNested u).heldRequest u) ∧
      (let V := (s0.retiNested u).unit u
       V.trap.depth = 1 ∧ V.csr.cause = BitVec.ofNat 64 (s0.frameNum u 0x980 8) &&& 0xF8FF ∧
       V.csr.mode = decide (s0.frameNum u 0x98C 1 = 1) ∧ V.csr.uh = !V.csr.mode ∧
       V.pcOf .S = s0.frameNum u 0x988 4 ∧ V.regs.getK 14 = s0.frameCap u 0x9E0 ∧
       (∀ i, i < 8 → V.regs.getX (24 + i) = BitVec.ofNat 64 (s0.frameNum u (0x9A0 + 8 * i) 8))))

/-- R450, R451: CTXSAVE and CTXLOAD in supervisor mode, through a capability of device memory that holds the whole image, at a
multiple of 4,096, start their transfer; in user mode they raise KPERM. R375, R399, R448, R451: a task all of whose units are
saved, whose writes are performed, is parked and its units are free; it goes back to the head of its queue once no grade is in force
and its headroom has held for 10 ms (R478); a unit that resumes starts in its supervisor
handler with CAUSE PREEMPT and INFO0[2]; the end of a CTXLOAD gives back x1 to x23 from the image, and the end of a CTXSAVE
writes it. -/
def Obligations.ContextsMoveAndParkedTasksComeBack : Prop :=
  (∀ (tk : Tok) (a b : Nat) (s : State) (u : Nat) (r : PassRec), SReady s u r tk none [32 + a, b] →
     let s0 := s.swordCheck
     let U := s0.unit u
     let c := U.kS a
     let o := (U.xS b).toNat
     let addr := (c.base + o) % 2 ^ 64
     let f := { s0.flight u .S r tk with wait := Wait.op, wr := [] }
     U.sIdle →
     (U.csr.mode = false →
       exec (.ctxsave tk a b) s = .next (s0.takeTrap u ⟨.kperm, 0, o, capInfo a ctxLen r.addr⟩) ∧
       exec (.ctxload tk a b) s = .next (s0.takeTrap u ⟨.kperm, 0, o, capInfo a ctxLen r.addr⟩)) ∧
     (U.csr.mode = true → c.tag = true → c.grants (permR + permC) = true → o + ctxLen ≤ c.len → c.space = 0 →
       (c.base + o) % 4096 = 0 → U.work.sops = [] → U.work.wops = [] → ∀ l, s0.ctxPieces u addr false = .inr l →
       s0.ctxHeadPoison u l = none → s0.ctxOk u l = true →
       exec (.ctxload tk a b) s = .next ((s0.setUnit u { U with work := { U.work with sops := U.work.sops ++
         [⟨f.id, .ctxload, ⟨0, addr, none⟩, 0, false, 3, 0, 0, 0, Cap.null, none, false⟩] } }).leaves u .S r tk f)) ∧
     (U.csr.mode = true → c.tag = true → c.grants (permW + permC) = true → o + ctxLen ≤ c.len → c.space = 0 →
       (c.base + o) % 4096 = 0 → U.dove.status ≠ 2 → U.dove.busy = false → U.work.nmcs = [] → U.retainBanks = 0 → (∀ q ∈ allBanks, U.fallDue q.1 q.2 = false) → (∀ q ∈ allBanks, (U.bank q.1 q.2).st ≠ .retain) →
       ∀ l, s0.ctxPieces u addr true = .inr l →
       exec (.ctxsave tk a b) s = .next ((s0.setUnit u { U with work := { U.work with sops := U.work.sops ++
         [⟨f.id, .ctxsave, ⟨0, addr, none⟩, 0, false, 3, 0, 0, 0, Cap.null, none, false⟩] } }).leaves u .S r tk f))) ∧
  ((∀ (s : State) (t : Nat) (T : Task), s.task t = some T → T.st = .running → T.status = 0 → s.allParked T = true →
     ∃ s1 T1, exec (.parkDone t) s = .next s1 ∧ s1.task t = some T1 ∧ T1.st = .parked ∧ T1.units = [] ∧ T1.preempt = false ∧
       (∀ u ∈ T.units, (s1.unit u).run = .free) ∧
       -- the hub's share of a saved unit stands behind its context image; every other byte is as before
       (∀ v a, (∀ u ∈ T.units, (s.unit u).run = .parked → let k := keyOf 1 ((s.unit u).id.superCap.base + ctxLen)
         a < k ∨ k + (recSize - ctxLen) ≤ a) → s1.mem.byte v a = s.mem.byte v a)) ∧
   (∀ (s : State) (t : Nat) (T : Task), s.task t = some T → T.st = .parked → (s.camp.grade ≠ 0 ∨
       heldSince T.roomAt s.time.toNat 10000000 = false) → exec (.parkResume t) s = .next s) ∧
   (∀ (s : State) (t : Nat) (T : Task), s.task t = some T → T.st = .parked → s.camp.grade = 0 →
     heldSince T.roomAt s.time.toNat 10000000 = true → s.clusterDown (s.homeOf T.va) = false →
     (((s.cluster (s.homeOf T.va)).queue T.prio).length < 64 ∨ ((s.cluster (s.homeOf T.va)).ring T.prio).length < s.spillLen) →
     ∃ s1 T1, exec (.parkResume t) s = .next s1 ∧ s1.task t = some T1 ∧ T1.st = .queued ∧ T1.home = s.homeOf T.va ∧
       (s1.cluster T1.home).queue T.prio = (t :: (s.cluster T1.home).queue T.prio).take 64 ∧
       (s1.cluster T1.home).ring T.prio =
         (t :: (s.cluster T1.home).queue T.prio).drop 64 ++ (s.cluster T1.home).ring T.prio ∧
       (((s.cluster T1.home).queue T.prio).length < 64 → s1.mem = s.mem)) ∧
   (∀ (s : State) (u : Nat) (T : Task) (q : Nat × UnitSt), u < 768 → s.halted u = false → (s.unit u).run = .loading →
     s.task (s.unit u).id.task = some T → T.st = .dispatching → s.clocksReady T = true → s.migClear T = true →
     T.parkedUnits.find? (fun p => p.1 = (s.unit u).id.rank) = some q →
     let k := keyOf (16 + u) ((s.unit u).csr.tframe * 4096)
     ∃ t, exec (.unitResume u) s = .next t ∧ (t.unit u).run = .running ∧ (t.unit u).csr.cause = 0x10 ∧
       (t.unit u).csr.mode = true ∧ (t.unit u).pcOf .S = (s.unit u).csr.vecS ∧
       (t.unit u).regs.getK 14 = q.2.id.superCap ∧
       t.mem.num (.unit u) k 8 = 0x10 ∧ t.mem.num (.unit u) (k + 8) 8 = 4 ∧
       (∀ v a, (a < k ∨ k + 16 ≤ a) → t.mem.byte v a = s.mem.byte v a)) ∧
   (∀ (s : State) (u : Nat) (o : SOp) (l : List (Nat × Nat)), u < 768 → s.halted u = false → s.stands u = false →
     (s.unit u).work.sops = [o] → (o.kind = .ctxsave ∨ o.kind = .ctxload) → (s.unit u).work.wops = [] →
     s.replayHead u o.id = true →
     s.ctxPieces u o.place.addr (o.kind == .ctxsave) = .inr l → s.ctxPoison u (o.kind == .ctxsave) l = none →
     (o.kind = .ctxsave → exec (.ctxTransferDone u) s = .next ((s.quitReplay u o.id).ctxSave u o.id o.v.toNat l)) ∧
     (o.kind = .ctxload → (∀ f ∈ (s.unit u).work.fl, f.eng ≠ .S ∨ f.eff = [] ∧ f.post = none ∧ f.hints = []) →
       ∃ t, exec (.ctxTransferDone u) s = .next t ∧
         (∀ n, 1 ≤ n → n < 24 → (t.unit u).regs.getX n = BitVec.ofNat 64 (s.ctxNum u l (0x40 + 8 * n) 8)) ∧
         (∀ n, 24 ≤ n → (t.unit u).regs.getX n = (s.unit u).regs.getX n) ∧
         (t.unit u).regs.getK 14 = (s.unit u).regs.getK 14 ∧ (t.unit u).regs.getK 15 = (s.unit u).regs.getK 15)))

/-! ### Control words and rendezvous (R307 to R321, R217) -/

/-- R307, R308, R311: outside loop bodies, with room in the outcome queues, S resolves a control word whose target lies in the
text: every other engine's queue gets the outcome, S goes to the target after two delay slots, and CALL links the word after
the slots at once. R307, R308: another engine at a control word takes the oldest outcome of its queue and goes to the same target
after the same two slots. -/
def Obligations.ControlWordsResolveAndAreFollowed : Prop :=
  (∀ (s : State) (u : Nat) (r : PassRec), Ready s u .S r .none none [] →
     let U := s.unit u
     let after := fun (taken : Bool) (tgt : Nat) (brp : Option Nat) =>
       (s.passMarks u r.hdr r.ext).setUnit u ((((s.passMarks u r.hdr r.ext).unit u).pushOut (.jump taken (tgt % 2 ^ 64))).setRedir
         .S (some ⟨tgt, taken, r.len + 2, brp⟩))
     U.inHandler = false → U.loopsOf .S = [] → U.outRoom = true →
     (∀ imm32 tgt : Nat, branchTo r.addr imm32 = (tgt : Int) → tgt < U.tlen →
       exec (.jmp imm32) s = .next ((after true tgt none).leaves u .S r .none (s.flight u .S r .none)) ∧
       (∀ d,
         let t := after true tgt none
         let link : Word := BitVec.ofNat 64 (r.addr + 4)
         exec (.call d imm32) s = .next ((t.setUnit u { t.unit u with regs := (t.unit u).regs.setX d link }).leaves u .S r .none
           { s.flight u .S r .none with eff := [.x d link], wr := [d] })) ∧
       (∀ d sense, exec (.br d sense imm32) s = .next ((after (U.guardAt .S d sense) tgt (some d)).leaves u .S r .none
         (s.flight u .S r .none)))) ∧
     (∀ a, U.xPend a = false → (U.xS a).toNat < U.tlen →
       exec (.ret a) s = .next ((after true (U.xS a).toNat none).leaves u .S r .none (s.flight u .S r .none))) ∧
     (∀ a, U.xPend a = false → U.tlen ≤ (U.xS a).toNat → exec (.ret a) s = .next (s.takeTrap u ⟨.text, 0, r.addr, r.hdr⟩))) ∧
  (∀ (s : State) (u : Nat) (e : Eng) (r : PassRec) (taken : Bool) (g : Nat) (rest : List Outcome),
     e ≠ .S → Ready s u e r .none none [] → (s.unit u).tape.run = 0 → (s.unit u).outOf e = .jump taken g :: rest →
     let s1 := s.setUnit u ((s.unit u).setOut e rest)
     let s2 := s1.setUnit u ((s1.unit u).setRedir e (some ⟨g, taken, r.len + 2, none⟩))
     ∀ i : Instr, (∃ d sense imm32, i = .br d sense imm32) ∨ (∃ imm32, i = .jmp imm32) ∨ (∃ d imm32, i = .call d imm32) ∨
         (∃ a, i = .ret a) →
       exec i s = .next (s2.leaves u e r .none (s.flight u e r .none)))

/-- R312 to R316: LOOP at S with a trip count of 1 or more pushes its entry: body, stages, trip, index 0; with no trips every
engine goes on past the body.  Each other engine does the same with the trip count of its outcome. R313, R314: moving on in
sequence past the end of a loop body goes back to its start while iterations are left, T + N − 1 in all, and leaves the loop
after the last. -/
def Obligations.LoopsEnterCountAndLeave : Prop :=
  ((∀ (s : State) (u : Nat) (r : PassRec) (d : Nat) (l : XL), Ready s u .S r .none none [] →
     let U := s.unit u
     let b1 := r.addr + 2 + l.body
     let t := if l.ci = 1 then l.trip else (U.xS d).toNat
     let s1 := s.passMarks u r.hdr r.ext
     let s2 := s1.setUnit u ((s1.unit u).pushOut (.trip t))
     U.inHandler = false → (l.ci = 0 → U.xPend d = false) → (∀ q ∈ (U.loopsOf .S).head?, b1 ≤ q.b1) →
     bodyEndsInHeader U b1 4097 (r.addr + 2) = false → t < 2 ^ 32 → b1 < U.tlen → (U.loopsOf .S).length < 4 →
     U.outRoom = true →
     (t ≠ 0 → exec (.loop d l) s = .next ((s2.setUnit u ((s2.unit u).setLoops .S
       (⟨r.addr + 2, b1, l.nst + 1, t, 0⟩ :: (s2.unit u).loopsOf .S))).leaves u .S r .none (s.flight u .S r .none))) ∧
     (t = 0 → exec (.loop d l) s = .next (s2.issue u .S r .none (s.flight u .S r .none) ⟨none, []⟩ (some (b1 + 1))))) ∧
   (∀ (s : State) (u : Nat) (e : Eng) (r : PassRec) (d : Nat) (l : XL) (t : Nat) (rest : List Outcome),
     e ≠ .S → Ready s u e r .none none [] → (s.unit u).tape.run = 0 → (s.unit u).outOf e = .trip t :: rest →
     let b1 := r.addr + 2 + l.body
     let s2 := s.setUnit u ((s.unit u).setOut e rest)
     (t ≠ 0 → exec (.loop d l) s = .next ((s2.setUnit u ((s2.unit u).setLoops e
       (⟨r.addr + 2, b1, l.nst + 1, t, 0⟩ :: (s2.unit u).loopsOf e))).leaves u e r .none (s.flight u e r .none))) ∧
     (t = 0 → exec (.loop d l) s = .next (s2.issue u e r .none (s.flight u e r .none) ⟨none, []⟩ (some (b1 + 1)))))) ∧
  (∀ (l : LoopEnt) (rest : List LoopEnt) (n : Nat),
     (l.b1 + 1 ≠ n → loopStep (l :: rest) n = (n, l :: rest)) ∧
     (l.b1 + 1 = n → l.i + 1 < l.t + l.n - 1 → loopStep (l :: rest) n = (l.b0, { l with i := l.i + 1 } :: rest)) ∧
     (l.b1 + 1 = n → ¬ l.i + 1 < l.t + l.n - 1 → loopStep (l :: rest) n = loopStep rest n) ∧
     (∀ sg, stagePred (l :: rest) sg = true ↔ sg < l.n ∧ sg ≤ l.i ∧ l.i < l.t + sg))

/-- R317, R318, R217, R320: a rendezvous word before it is complete only records the arrival of its engine; with the last arrival
SYNC lets every engine past once all work is performed, BLEND and BRET change the bank's binding or raise BANKOWN, and END
keeps every engine where it is for UNIT_END.  NOP with no engine takes one issue cycle in each. R319: YIELD at S with no pre-
emption request pushes its outcome and goes on; another engine takes it and goes on; with a request, once all engines have
arrived and all is performed, the unit takes PREEMPT with INFO0 = 1 and INFO1 = 0. -/
def Obligations.RendezvousWordsMeet : Prop :=
  (∀ (s : State) (u : Nat) (e : Eng) (r : PassRec), Ready s u e r .none none [] → (s.unit u).inHandler = false →
     let s1 := s.arrive u e r
     let U := s1.unit u
     exec .nopA s = .next (s.leaves u e r .none (s.flight u e r .none)) ∧
     exec .endW s = .next s1 ∧
     (∀ T, u < 768 → s1.task U.id.task = some T → s1.endReady u T = true →
       ∃ t T1, exec (.unitEnd u) s1 = .next t ∧ (t.unit u).run = .ended ∧ t.task U.id.task = some T1 ∧
         T1.ended = T.ended ++ [U.id.rank] ∧ t.mem = s1.mem) ∧
     (U.allArrived = false → exec .sync s = .next s1 ∧ (∀ d, exec (.blend d) s = .next s1) ∧ (∀ d, exec (.bret d) s = .next s1)) ∧
     (U.allArrived = true → U.quiet = true → exec .sync s = .next ((s1.setUnit u U.syncAll).meetPast u r false)) ∧
     (U.allArrived = true → ∀ d,
       (U.allocated d = true → U.inMatrix d = false → U.writesPending d = false →
         exec (.blend d) s = .next ((s1.setUnit u { U with bind := U.bind ||| BitVec.ofNat 8 (2 ^ d) }).meetPast u r false)) ∧
       ((U.allocated d = false ∨ U.inMatrix d = true ∨ U.writesPending d = true) →
         exec (.blend d) s = .next (s1.takeTrap u ⟨.bankown, 6, d, r.addr⟩)) ∧
       (U.allocated d = true → U.inMatrix d = true → U.matrixPending d = false →
         exec (.bret d) s = .next ((s1.setUnit u { U with bind := U.bind &&& ~~~(BitVec.ofNat 8 (2 ^ d)) }).meetPast u r false)) ∧
       ((U.allocated d = false ∨ U.inMatrix d = false ∨ U.matrixPending d = true) →
         exec (.bret d) s = .next (s1.takeTrap u ⟨.bankown, 6, d, r.addr⟩)))) ∧
  ((∀ (s : State) (u : Nat) (r : PassRec), Ready s u .S r .none none [] → (s.unit u).inHandler = false →
     (s.unit u).tape.run = 0 → (s.unit u).walk.arrived = [] → (s.unit u).outRoom = true → (s.unit u).csr.preq = false →
     (s.unit u).full .S = false →
     exec .yield s = .next ((s.setUnit u ((s.unit u).pushOut (.yields false))).leaves u .S r .none
       (s.flight u .S r .none))) ∧
   (∀ (s : State) (u : Nat) (e : Eng) (r : PassRec) (rest : List Outcome), e ≠ .S → Ready s u e r .none none [] →
     (s.unit u).tape.run = 0 → (s.unit u).full e = false → (s.unit u).outOf e = .yields false :: rest →
     exec .yield s = .next ((s.setUnit u ((s.unit u).setOut e rest)).leaves u e r .none (s.flight u e r .none))) ∧
   (∀ (s : State) (u : Nat) (e : Eng) (r : PassRec) (rest : List Outcome), e ≠ .S → Ready s u e r .none none [] →
     (s.unit u).tape.run = 0 → (s.unit u).outOf e = .yields true :: rest →
     ((s.arrive u e r).unit u).allArrived = true → ((s.arrive u e r).unit u).quiet = true →
     exec .yield s = .next (((s.arrive u e r).meetPast u r true).takeTrap u ⟨.preempt, 0, 1, 0⟩)))

/-! ### Load and store words (R147, R196 to R210) -/

/-- R199, R201, R205, R206: LSV and LBRD on a Read stream whose next elements have returned take them, advance the stream and
wait as a load; at the end of the stream they take nothing; LGATH picks from its row by the lanes of its index operand, as the
vector side reads them (R218).  The event writes the lanes of the oldest waiting word, whether or not it can retire. -/
def Obligations.LoadWordsTakeTheirStep : Prop :=
  (∀ (tk : Tok) (i sp : Nat) (g : XP) (s : State) (u : Nat) (r : PassRec) (d : Desc) (x y : List Nat) (rest : List BufStep)
      (one : Bool), Ready s u .L r tk g [] →
    let s0 := s.freshen u .L tk
    let U := s0.unit u
    let t := U.stream i
    let n0 := if d.total ≤ t.pc then 0 else d.step t.pc
    let n := if one then min n0 1 else n0
    let f := s.flight u .L r tk
    let s1 := s0.setUnit u (U.setStream i { t with
      cons := 1, pc := t.pc + n, ps := if n = 0 then t.ps else max t.ps (t.pc + n), buf := rest
      lines := t.lines.filter fun l => decide (d.row (t.pc + n) ≤ l.1) })
    U.bankChk false [(specBank sp, false)] = .ok → U.room true = true → U.dropping i = false → t.mode = .read →
    t.active = some d → (t.cons = 0 ∨ t.cons = 1) → (n ≠ 0 → d.checked = false) → takeBuf n t.buf = .inl (some (x, y, rest)) →
    (one = false → exec (.lsv tk i sp g) s = .next ((s1.setUnit u (s1.unit u).moreLoads).leaves u .L r tk
      (f.lanesTo sp (padLanes ((d.decodeAll x y).map (·.1))) (orFlags ((d.decodeAll x y).map (·.2)))))) ∧
    (one = true → exec (.lbrd tk i sp g) s = .next ((s1.setUnit u (s1.unit u).moreLoads).leaves u .L r tk
      (f.lanesTo sp (List.replicate 64 (BitVec.ofNat 32 ((d.decodeAll x y).headD (0, 0)).1))
        (orFlags ((d.decodeAll x y).map (·.2))))))) ∧
  (∀ (tk : Tok) (i sp : Nat) (xv : XV) (s : State) (u : Nat) (r : PassRec) (d : Desc), Ready s u .L r tk xv.grd [] →
    let s0 := s.freshen u .L tk
    let U := s0.unit u
    let t := U.stream i
    let f := s.flight u .L r tk
    let idx := (s0.mixed .L U).laneNats xv.va
    (∀ q ∈ U.work.fl, q.eng = .L → q.wait ≠ .done → specBank xv.va ∉ q.wr) →
    U.bankChk false [(specBank xv.va, true), (specBank sp, false)] = .ok → U.room true = true → U.dropping i = false →
    t.mode = .read → t.active = some d → (t.cons = 0 ∨ t.cons = 1) → d.c 0 ≤ 512 →
    s0.parityChk u ((List.range 64).map (specKey xv.va)) = none →
    (d.total ≤ t.pc →
      let s1 := s0.setUnit u (U.setStream i { t with cons := 1, lines := t.lines.filter fun l => decide (d.row t.pc ≤ l.1) })
      exec (.lgath tk i sp xv) s = .next ((s1.setUnit u (s1.unit u).moreLoads).leaves u .L r tk
        { f.lanesTo sp (List.replicate 64 0) 0 with rd := [specBank xv.va] })) ∧
    (t.pc < d.total → ∀ s1 c e, s0.takeRow u i d t r = .got s1 c e →
      let picked := idx.map fun j => if j < d.c 0 then (d.decodeAll c e).getD j (0, 0) else (0, 0)
      ((s1.unit u).stream i).pc = (d.row t.pc + 1) * d.c 0 ∧ ((s1.unit u).stream i).cons = 1 ∧
      exec (.lgath tk i sp xv) s = .next ((s1.setUnit u (s1.unit u).moreLoads).leaves u .L r tk
          { f.lanesTo sp (padLanes (picked.map (·.1))) (orFlags (picked.map (·.2))) with rd := [specBank xv.va] }))) ∧
  (∀ (s : State) (u sp : Nat) (f : Flight) (lanes : List Word32), u < 768 → s.halted u = false → s.stands u = false →
    (s.unit u).headOf .L = some f → f.wait = .op → f.eff = [laneWrites sp lanes] → f.post = none → f.hints = [] →
    (∀ q ∈ (s.unit u).work.fl, q.id = f.id → q = f) → (∀ q ∈ (s.unit u).work.fl, q.eng = .L → q ≠ f → q.wait ≠ .done) →
    ∃ t, exec (.loadWordPerformed u) s = .next t ∧
      (∀ j, j < 64 → SMap.get 0 (t.unit u).elems (specKey sp j) = lanes.getD j 0) ∧
      (∀ k, (∀ j, j < 64 → k ≠ specKey sp j ∧
          ((s.unit u).dcur.getLsbD (specBank sp) = true → k ≠ (specBank sp ^^^ 4) * 4096 + specKey sp j % 4096)) →
        SMap.get 0 (t.unit u).elems k = SMap.get 0 (s.unit u).elems k) ∧
      (t.unit u).work.loads = (s.unit u).work.loads - 1 ∧ t.mem = s.mem) ∧
  -- a word that waits behind its POST has written its bank all the same
  (∀ (s : State) (u sp : Nat) (f : Flight) (lanes : List Word32), u < 768 → s.halted u = false → s.stands u = false →
    (s.unit u).headOf .L = some f → f.wait = .op → f.eff = [laneWrites sp lanes] → (s.unit u).postRoom f = false →
    ∃ t, exec (.loadWordPerformed u) s = .next t ∧
      (∀ j, j < 64 → SMap.get 0 (t.unit u).elems (specKey sp j) = lanes.getD j 0) ∧
      (∃ q ∈ (t.unit u).work.fl, q.id = f.id) ∧ (t.unit u).work.loads = (s.unit u).work.loads - 1 ∧ t.mem = s.mem)

/-- R195 to R199: the stream control words of L and of W.  SGO with an entry, on an Idle stream, whose checks pass, starts the
stream of that entry; SSKIP and SREW move a stream of their own direction; SDROP of such a stream issues and leaves it to its
retirement to end the stream and to hint its scratchpad banks, and on an Idle stream it has no effect; SGO on a stream that is
not Idle, and the others on a stream of the other direction, and SSKIP and SREW on an Idle one, raise UND. R200 to R202, R483:
a Read stream asks for the next elements of a row that begin in one 64-byte line, at most 32 steps ahead and not in a handler;
a line that returns stays with the stream, and once every line of the elements is there they have their data; a poisoned
line is a mark. -/
def Obligations.StreamControlAndReadAhead : Prop :=
  -- L
  (∀ (tk : Tok) (i : Nat) (g : XP) (s : State) (u : Nat) (r : PassRec), Ready s u .L r tk g [] →
     let s0 := s.freshen u .L tk
     let U := s0.unit u
     let t := U.stream i
     let f := s.flight u .L r tk
     let und := s0.takeTrap u ⟨.und, 1, r.addr, r.hdr⟩
     let set := fun (t1 : Stream) => s0.setUnit u (U.setStream i t1)
     U.dropping i = false →
     (∀ d, sgoDesc U r i = some d → t.mode = .idle → sgoCheck d false r = none →
       exec (.sgoL tk i g) s = .next ((set { t with
           shadow := if U.tape.run = 2 ∨ t.popped = true then t.shadow else t.shadow.tail
           active := some d, popped := false, mode := .read, cons := 0, p0 := d.p0, pc := d.p0, ps := d.p0, buf := []
           lines := [] }).issue u .L r tk f (sgoRec i s r) none)) ∧
     (∀ d, sgoDesc U r i = some d → t.mode ≠ .idle → exec (.sgoL tk i g) s = .next und) ∧
     (∀ d, t.mode = .read → t.active = some d →
       exec (.srewL tk i g) s = .next ((set { t with pc := t.p0, ps := t.p0, buf := [], lines := [] }).leaves u .L r tk f) ∧
       exec (.sdropL tk i g) s = .next (s0.leaves u .L r tk { f with eff := [.sidle i, .sdrop d.banks] })) ∧
     (∀ d, t.mode = .write → t.active = some d → exec (.srewL tk i g) s = .next und ∧ exec (.sdropL tk i g) s = .next und) ∧
     (t.mode = .idle → exec (.srewL tk i g) s = .next und ∧ exec (.sdropL tk i g) s = .next (s0.leaves u .L r tk f))) ∧
  (∀ (tk : Tok) (i n : Nat) (s : State) (u : Nat) (r : PassRec) (d : Desc), Ready s u .L r tk none [] →
     let s0 := s.freshen u .L tk
     let U := s0.unit u
     let t := U.stream i
     U.dropping i = false → t.mode = .read → t.active = some d →
     (skipStream n t d).pc = (if t.pc = d.total then t.pc else d.skip t.pc n) ∧
     exec (.sskipL tk i n) s = .next ((s0.setUnit u (U.setStream i (skipStream n t d))).leaves u .L r tk (s.flight u .L r tk))) ∧
  -- W
  (∀ (tk : Tok) (i : Nat) (g : XP) (s : State) (u : Nat) (r : PassRec), Ready s u .W r tk g [] →
     let U := s.unit u
     let t := U.stream i
     let f := s.flight u .W r tk
     let und := s.takeTrap u ⟨.und, 3, r.addr, r.hdr⟩
     let set := fun (t1 : Stream) => s.setUnit u (U.setStream i t1)
     U.dropping i = false →
     (∀ d, sgoDesc U r i = some d → t.mode = .idle → sgoCheck d true r = none →
       exec (.sgoW tk i g) s = .next ((set { t with
           shadow := if U.tape.run = 2 ∨ t.popped = true then t.shadow else t.shadow.tail
           active := some d, popped := false, mode := .write, cons := 3, p0 := d.p0, pc := d.p0, ps := d.p0, buf := []
           lines := [] }).issue u .W r tk f (sgoRec i s r) none)) ∧
     (∀ d, sgoDesc U r i = some d → t.mode ≠ .idle → exec (.sgoW tk i g) s = .next und) ∧
     (∀ d, t.mode = .write → t.active = some d →
       exec (.srewW tk i g) s = .next ((set { t with pc := t.p0, ps := t.p0, buf := [], lines := [] }).leaves u .W r tk f) ∧
       exec (.sdropW tk i g) s = .next (s.leaves u .W r tk { f with eff := [.sidle i, .sdrop d.banks] })) ∧
     (∀ d, t.mode = .read → t.active = some d → exec (.srewW tk i g) s = .next und ∧ exec (.sdropW tk i g) s = .next und) ∧
     (t.mode = .idle → exec (.srewW tk i g) s = .next und ∧ exec (.sdropW tk i g) s = .next (s.leaves u .W r tk f))) ∧
  (∀ (tk : Tok) (i n : Nat) (s : State) (u : Nat) (r : PassRec) (d : Desc), Ready s u .W r tk none [] →
     let U := s.unit u
     let t := U.stream i
     U.dropping i = false → t.mode = .write → t.active = some d →
     exec (.sskipW tk i n) s = .next ((s.setUnit u (U.setStream i (skipStream n t d))).leaves u .W r tk (s.flight u .W r tk))) ∧
  -- what a retiring SDROP does
  (∀ (U : UnitSt) (i : Nat) (bs : List Nat),
     let t := U.stream i
     let V := (U.applyEff (.sidle i)).applyEff (.sdrop bs)
     (V.stream i).mode = .idle ∧ (V.stream i).cons = 0 ∧ (V.stream i).ps = t.pc ∧ (V.stream i).active = none ∧
       (V.stream i).shadow = t.shadow ∧ (∀ j, j ≠ i → V.stream j = U.stream j) ∧
       (∀ b, (V.bank 1 b).hint = if b ∈ bs then true else (U.bank 1 b).hint)) ∧
  -- read-ahead
  (∀ (s : State) (u i : Nat) (d : Desc), u < 768 → s.halted u = false → s.stands u = false →
     let U := s.unit u
     let t := U.stream i
     t.mode = .read → t.active = some d →
     (∀ l, U.inHandler = false → d.checked = false → t.ps < d.skip t.pc 32 → (∀ b ∈ t.buf, b.mark = none) →
       let n := d.chunk t.ps (d.skip t.pc 32)
       s.elemKeys u d ((List.range n).map (t.ps + ·)) = .inr l →
       exec (.streamRequest u i) s = .next (s.setUnit u (U.setStream i { t with
         ps := t.ps + n, buf := t.buf ++ [⟨t.ps, n, none, none⟩] }))) ∧
     (∀ b keys p l, (t.buf.filter fun b => b.data.isNone && b.mark.isNone) = [b] →
       s.elemKeys u d ((List.range b.n).map (b.pos + ·)) = .inr keys → s.replayHead u (streamId i b.pos) = true →
       (keys.findSome? fun q => (q.2.find? fun k => (t.lineBytes (d.row b.pos) k).isNone).map fun k => (q.1, k.1 / 64))
         = some (p, l) →
       ∃ t1 : State, exec (.streamDataReturn u i) s = .next t1 ∧ t1.mem = s.mem ∧
         (s.mem.poisonFor (.unit u) (l * 64) 64 = false →
           let lines := t.lines ++ [(d.row b.pos, l, s.mem.read (.unit u) (l * 64) 64)]
           let has := fun k => ({ t with lines := lines } : Stream).lineBytes (d.row b.pos) k
           ((t1.unit u).stream i).lines = lines ∧
           ((keys.all fun q => q.2.all fun k => (has k).isSome) = true →
             ((t1.unit u).stream i).buf = t.buf.map fun x => if x.pos = b.pos then
               { b with data := some (d.codes keys fun k => (has k).getD []) } else x)) ∧
         (s.mem.poisonFor (.unit u) (l * 64) 64 = true →
           ((t1.unit u).stream i).lines = t.lines ∧
           ∃ q ∈ ((t1.unit u).stream i).buf, q.pos = p ∧ q.mark = some (.poison (l * 64)))))

/-- R207 to R209: WSV, WSCAT and WACC on a Write stream whose elements' places translate, with the parity of their operands
right, leave their writes to be performed, element by element, and move the stream on; a place whose page is migrating joins
the replay queue. R210: WFLUSH with the writes of every earlier W word performed at its scope has no effect but its issue.
R208, R209: the writes of a W word that overlaps no older one are made in element order: the last write of a byte remains,
and no byte outside the word's elements changes. -/
def Obligations.StoreWordsIssueAndArePerformed : Prop :=
  ((∀ (tk : Tok) (i sp last : Nat) (g : XP) (s s1 : State) (u : Nat) (r : PassRec) (d : Desc) (ps : List (Place × List Byte)),
     Ready s u .W r tk g [] →
     let U := s.unit u
     let t := U.stream i
     let es := stepElems d t.pc
     let vals := ((s.mixed .W U).laneNats sp).take es.length
     let enc := vals.map d.encode
     let offs := es.map fun e => (d.addr e % 2 ^ 64).toNat
     let f := s.flight u .W r tk
     U.bankChk false [(specBank sp, true)] = .ok → U.room false = true → U.dropping i = false → t.mode = .write →
     t.active = some d → s.parityChk u ((List.range 64).map (specKey sp)) = none →
     (if checkedCap d.capD then s.storeRaces u ps = .inl s1 else s1 = s) →
     let put := fun (o : WOp) =>
       let V := s1.unit u
       let s2 := s1.setUnit u ({ V with work := { V.work with
         wops := V.work.wops ++ [o], stores := V.work.stores + 1 } }.setStream i
         { t with pc := t.pc + es.length, ps := t.pc + es.length })
       match ps.find? fun p => p.1.key.isNone with
       | some p => s2.joinReplay u f.id p.1.addr
       | none => s2
     (s.storePlaces u d.capD (cutStores d.capD (offs.zip (enc.map fun q => toBytes d.size q.1))) = .ok ps →
       exec (.wsv tk i sp last g) s = .next ((put ⟨f.id, ps, none, checkedCap d.capD⟩).leaves u .W r tk
         { f with wait := .op, rd := [specBank sp], eff := flagEff (orFlags (enc.map (·.2))) })) ∧
     (d.capD.space ≠ 0 → s.storePlaces u d.capD (cutStores d.capD (offs.zip (vals.map (toBytes d.size)))) = .ok ps →
       exec (.wacc tk i sp last g) s = .next ((put ⟨f.id, ps, some (d.addFmt, d.rnd, vals), checkedCap d.capD⟩).leaves u .W r tk
         { f with wait := .op, rd := [specBank sp] }))) ∧
   (∀ (tk : Tok) (i sp last : Nat) (x : XV) (s s1 : State) (u : Nat) (r : PassRec) (d : Desc) (ps : List (Place × List Byte)),
     Ready s u .W r tk x.grd [] →
     let U := s.unit u
     let W := s.mixed .W U
     let t := U.stream i
     let pairs : List (Nat × Nat) := if d.total ≤ t.pc then [] else
       ((W.laneNats x.va).zip (W.laneNats sp)).filter fun q => decide (q.1 < d.c 0)
     let pc := if d.total ≤ t.pc then t.pc else (d.row t.pc + 1) * d.c 0
     let f := s.flight u .W r tk
     let enc : List (Nat × Nat) := pairs.map fun q => d.encode q.2
     U.bankChk false [(specBank x.va, true), (specBank sp, true)] = .ok → U.room false = true → U.dropping i = false →
     t.mode = .write → t.active = some d →
     s.parityChk u ((List.range 64).map (specKey x.va) ++ (List.range 64).map (specKey sp)) = none →
     s.storePlaces u d.capD (cutStores d.capD ((pairs.map fun q => (d.addr (d.row t.pc * d.c 0 + q.1) % 2 ^ 64).toNat).zip
       (enc.map fun q => toBytes d.size q.1))) = .ok ps →
     (if checkedCap d.capD then s.storeRaces u ps = .inl s1 else s1 = s) →
     let V := s1.unit u
     let o : WOp := ⟨f.id, ps, none, checkedCap d.capD⟩
     let s2 := s1.setUnit u ({ V with work := { V.work with
       wops := V.work.wops ++ [o]
       stores := V.work.stores + 1 } }.setStream i { t with pc := pc, ps := pc })
     let s3 := match ps.find? fun p => p.1.key.isNone with
       | some p => s2.joinReplay u f.id p.1.addr
       | none => s2
     exec (.wscat tk i sp last x) s = .next (s3.leaves u .W r tk
       { f with wait := .op, rd := [specBank x.va, specBank sp], eff := flagEff (orFlags (enc.map (·.2))) })) ∧
   (∀ (tk : Tok) (scope : Nat) (s : State) (u : Nat) (r : PassRec), Ready s u .W r tk none [] →
     (s.unit u).work.wops = [] → s.mem.madePerformed u 1 scope = true →
     exec (.wflush tk scope) s = .next (s.leaves u .W r tk (s.flight u .W r tk)))) ∧
  (∀ (s : State) (u id : Nat) (o : WOp) (rest : List WOp) (keys : List Nat), u < 768 → s.halted u = false → s.wopStands u id = false →
     (s.unit u).work.wops = o :: rest → o.id = id → o.add = none → s.replayHead u id = true →
     s.lateAll u o.stores = .inl keys →
     let l := keys.zip (o.stores.map (·.2))
     ∃ t, exec (.storeWordPerformed u id) s = .next t ∧
       (∀ v a, (∀ p ∈ l, a < p.1 ∨ p.1 + p.2.length ≤ a) → t.mem.byte v a = s.mem.byte v a) ∧
       (∀ p before after j, l = before ++ p :: after → j < p.2.length →
         (∀ q ∈ after, p.1 + j < q.1 ∨ q.1 + q.2.length ≤ p.1 + j) →
         t.mem.byte (.unit u) (p.1 + j) = p.2.getD j 0) ∧
       (∀ x ∈ (t.unit u).work.wops, x.id ≠ id) ∧ (t.unit u).work.stores = (s.unit u).work.stores - 1)

/-! ### Vector words (R224 to R253) -/

/-- R219, R226, R229, R230, R234 to R240: a lane word whose banks are allocated, bound to the vector side and Full, whose operands
have right parity, and that reads no bank with a pending write of V, issues with its lane operation applied to its 64 lanes, as V
may read them beside the writes of other engines (R218). R241 to R244, R249 to R253: the vector words that do not work lane by
lane, under the same conditions: VIDX counts, VBCAST repeats, VEXTR and VROT shift, VSHUF picks, VRED and VSCAN fold, VRNG
draws, VQL6 to VUNPK pack and unpack. -/
def Obligations.VectorWordsCompute : Prop :=
  (∀ (i : Instr) (tk : Tok) (f : FV) (x : XV) (useB useD : Bool) (op : LMode → Nat → Nat → Nat → Nat × Nat),
     laneForm i = some (tk, f, x, useB, useD, op) → ∀ (s : State) (u : Nat) (r : PassRec), Ready s u .V r tk x.grd [] →
     let U := s.unit u
     let W := s.mixed .V U
     let use : VUse := ⟨some x.va, if useB then xvB x else none, some f.vd, useD⟩
     let m : LMode := ⟨f.ty, f.rnd, decide (f.sat = 1), U.csr.vstat.getLsbD 15⟩
     let lane := fun (j : Nat) => op m ((W.lanes x.va).getD j 0).toNat
       (if useB then (if x.bx = 1 then (r.vals.headD 0).toNat % 2 ^ 32 else ((W.lanes x.vb).getD j 0).toNat) else 0)
       (if useD then ((W.lanes f.vd).getD j 0).toNat else 0)
     U.vHazard use.reads = false → U.bankChk false use.banks = .ok → s.parityChk u use.readKeys = none →
     exec i s = .next (s.leaves u .V r tk { s.flight u .V r tk with
       wait := .op, rd := use.reads, wr := [specBank f.vd]
       eff := laneWrites f.vd ((List.range 64).map fun j => BitVec.ofNat 32 (lane j).1)
         :: flagEff (orFlags ((List.range 64).map fun j => (lane j).2)) })) ∧
  (∀ (i : Instr) (F : VForm), vForm i = some F → ∀ (s : State) (u : Nat) (r : PassRec), Ready s u .V r F.tk F.x.grd [] →
     let U := s.unit u
     let q := F.lanes (s.mixed .V U) r
     U.vHazard F.use.reads = false → U.bankChk false F.use.banks = .ok → s.parityChk u F.use.readKeys = none →
     exec i s = .next (s.leaves u .V r F.tk { s.flight u .V r F.tk with
       wait := .op, rd := F.use.reads, wr := [specBank F.f.vd]
       eff := laneWrites F.f.vd (q.1.map (BitVec.ofNat 32)) :: flagEff q.2 })) ∧
  (∀ (s : State) (U : UnitSt), (∀ f ∈ U.work.fl, f.eng ≠ .V → f.eff = []) → s.mixed .V U = U)

/-- R75, R234, R235, R236, R238: the integer lane operations: wrapped modulo 2^32, or clamped with the saturate bit; minimum and
maximum; bitwise words and shifts by the low five bits; selection. -/
def Obligations.IntegerLanesCompute : Prop :=
  ∀ (m : LMode) (a b d : BitVec 32), (m.ty = 1 ∨ m.ty = 2) →
    let n := BitVec.toNat
    (m.sat = false →
      (laneAdd m (n a) (n b) 0).1 = (a + b).toNat ∧ (laneSub m (n a) (n b) 0).1 = (a - b).toNat ∧
      (laneMul m (n a) (n b) 0).1 = (a * b).toNat ∧ (laneFma m (n a) (n b) (n d)).1 = (a * b + d).toNat ∧
      (laneFms m (n a) (n b) (n d)).1 = (a * b - d).toNat ∧ (laneFnma m (n a) (n b) (n d)).1 = (d - a * b).toNat) ∧
    (m.sat = true → m.ty = 1 →
      (BitVec.ofNat 32 (laneAdd m (n a) (n b) 0).1).toInt = max (-(2 ^ 31)) (min (2 ^ 31 - 1) (a.toInt + b.toInt)) ∧
      (BitVec.ofNat 32 (laneSub m (n a) (n b) 0).1).toInt = max (-(2 ^ 31)) (min (2 ^ 31 - 1) (a.toInt - b.toInt)) ∧
      (BitVec.ofNat 32 (laneMul m (n a) (n b) 0).1).toInt = max (-(2 ^ 31)) (min (2 ^ 31 - 1) (a.toInt * b.toInt))) ∧
    (m.ty = 1 → BitVec.ofNat 32 (laneMin m (n a) (n b) 0).1 = (if b.toInt < a.toInt then b else a) ∧
      BitVec.ofNat 32 (laneMax m (n a) (n b) 0).1 = (if a.toInt < b.toInt then b else a)) ∧
    (m.ty = 2 → (laneMin m (n a) (n b) 0).1 = min (n a) (n b) ∧ (laneMax m (n a) (n b) 0).1 = max (n a) (n b)) ∧
    (laneAnd m (n a) (n b) 0).1 = (a &&& b).toNat ∧ (laneOr m (n a) (n b) 0).1 = (a ||| b).toNat ∧
    (laneXor m (n a) (n b) 0).1 = (a ^^^ b).toNat ∧ (laneNot m (n a) 0 0).1 = (~~~a).toNat ∧
    (laneShl m (n a) (n b) 0).1 = (a <<< (n b % 32)).toNat ∧ (laneShr m (n a) (n b) 0).1 = (a >>> (n b % 32)).toNat ∧
    (laneSra m (n a) (n b) 0).1 = (a.sshiftRight (n b % 32)).toNat ∧
    (laneSel m (n a) (n b) (n d)).1 = (if d = 0 then b else a).toNat ∧
    (laneAdd m (n a) (n b) 0).2 = 0 ∧ (laneMul m (n a) (n b) 0).2 = 0

/-- R245 to R248: the conditional-stream words of a task in one cluster, under the conditions of a vector word: VCPUSH appends the
lanes it selects, with room and its release performed, and does nothing where it selects none; VCPOP, with enough records, takes
the oldest; VCCNT counts. -/
def Obligations.ConditionalStreamWordsMoveRecords : Prop :=
  ∀ (tk : Tok) (f : FV) (x : XV) (s : State) (u : Nat) (r : PassRec), Ready s u .V r tk x.grd [] →
    s.oneCluster u = true →
    let U := s.unit u
    let fl := s.flight u .V r tk
    (U.vHazard [specBank x.va, specBank x.vb] = false →
      U.bankChk false [(specBank x.va, true), (specBank x.vb, true)] = .ok →
      s.parityChk u ((List.range 64).map (specKey x.va) ++ (List.range 64).map (specKey x.vb)) = none →
      let W := s.mixed .V U
      let picked := ((W.lanes x.va).zip (W.lanes x.vb)).filterMap fun p => if p.2 ≠ 0 then some p.1 else none
      let fl1 : Flight := { fl with wait := .op, rd := [specBank x.va, specBank x.vb], wr := [], eff := [] }
      (picked = [] → exec (.vcpush tk f x) s = .next (s.leaves u .V r tk fl1)) ∧
      ((s.cqOf u (f.vd % 8)).length + picked.length ≤ 2048 → s.mem.releasedAt u 1 = true → picked ≠ [] →
        exec (.vcpush tk f x) s =
          .next (((s.releaseCq u (f.vd % 8) picked.length).setCq u (f.vd % 8) (s.cqOf u (f.vd % 8) ++ picked)).leaves u .V r tk fl1))) ∧
    (U.bankChk false [(specBank f.vd, false)] = .ok →
      let k := (r.vals.headD 0).toNat
      (k ≤ (s.cqOf u (x.va % 8)).length →
        exec (.vcpop tk f x) s = .next (((s.acquireCq u (x.va % 8) k).setCq u (x.va % 8) ((s.cqOf u (x.va % 8)).drop k)).leaves u .V r tk
          { fl with wait := .op, rd := [], wr := [specBank f.vd]
                    eff := [laneWrites f.vd ((((s.cqOf u (x.va % 8)).take k).map BitVec.toNat
                      ++ List.replicate (64 - k) 0).map (BitVec.ofNat 32))] })) ∧
      exec (.vccnt tk f x) s = .next (s.leaves u .V r tk
        { fl with wait := .op, rd := [], wr := [specBank f.vd]
                  eff := [laneWrites f.vd ((List.replicate 64 (s.cqOf u (x.va % 8)).length).map (BitVec.ofNat 32))] }))

/-- R224, R219, R436: the bank control words, in V or in a handler: BHINT, BWAKE and BALLOC leave their change for their
retirement, and BSTAT writes the state words, as they stand after the falls that are due; BHINT and BWAKE of a register bank that is
not allocated or stands in the matrix slot raise BANKOWN (R215), and so does a BALLOC that gives back a bank in the matrix slot. R132 to R138, R220, R223: a hinted bank that no work uses falls to its fall state, and loses its contents
when that is Off; a wake whose cycles have passed leaves the bank Full; the copy of a bank that has read no element of wrong
parity makes its duplicate current.  That a lost element or byte reads as zero is the model's choice (log entries 5 and 57), and so is the
Retain state of a bank that was Off as its fall came (log entry 153). -/
def Obligations.BankWordsIssueAndBanksChange : Prop :=
  (∀ (tk : Tok) (d k : Nat) (g : XP) (s : State) (u : Nat) (e : Eng) (r : PassRec), (e = .V ∨ e = .S) → Ready s u e r tk g [] →
     let U := s.unit u
     let f := s.flight u e r tk
     ((k = 0 → U.allocated d = true ∧ U.inMatrix d = false) →
       (∀ fall, exec (.bhint tk d fall k g) s = .next (s.leaves u e r tk { f with eff := [.bhint k d (supplyOf fall)] })) ∧
       exec (.bwake tk d k g) s = .next (s.leaves u e r tk { f with eff := [.bwake k d] })) ∧
     (k = 0 → (U.allocated d = false ∨ U.inMatrix d = true) →
       (∀ fall, exec (.bhint tk d fall k g) s = .next (s.takeTrap u ⟨.bankown, e.code, d, r.addr⟩)) ∧
       exec (.bwake tk d k g) s = .next (s.takeTrap u ⟨.bankown, e.code, d, r.addr⟩)) ∧
     (∀ take, ¬ (take = 0 ∧ U.inMatrix d = true) →
       exec (.balloc tk d take g) s = .next (s.leaves u e r tk { f with eff := [.balloc d (decide (take = 1))] })) ∧
     (U.inMatrix d = true → exec (.balloc tk d 0 g) s = .next (s.takeTrap u ⟨.bankown, e.code, d, r.addr⟩)) ∧
     (∀ imm, U.bankChk false [(d, false)] = .ok →
       let W := U.afterFalls
       exec (.bstat tk d imm g) s = .next (s.leaves u e r tk
       { f with wr := if e = .S then [] else [d], eff := [.bank d ((List.range 64).map fun j => (elemKey d imm j, BitVec.ofNat 32
         ([W.bankstate % 2 ^ 32, W.bankstate / 2 ^ 32, U.bind.toNat, W.bankalloc % 2 ^ 32].getD j 0)))] }))) ∧
  (∀ (s : State) (u : Nat), u < 768 → s.halted u = false → s.stands u = false →
     let U := s.unit u
     (∀ b, b < 16 → (U.bank 1 b).hint = true → U.spadBusy b = false → (∀ f, U.headOf .V = some f → f.wait ≠ .done) →
       ∃ t, exec (.spadBankFall u b) s = .next t ∧ ((t.unit u).bank 1 b).hint = false ∧
         ((U.bank 1 b).fall = .retain → ((t.unit u).bank 1 b).st = .retain ∧ t.mem = s.mem) ∧
         ((U.bank 1 b).fall = .full → ((t.unit u).bank 1 b).st = (U.bank 1 b).st ∧ t.mem = s.mem) ∧
         ((U.bank 1 b).fall = .off → ((t.unit u).bank 1 b).st = .off ∧
           ∀ v o, b * 65536 ≤ o → o < (b + 1) * 65536 → t.mem.byte v (keyOf (16 + u) o) = 0 ∧
             t.mem.tagAt v (keyOf (16 + u) o) = false)) ∧
     (∀ b, b < 8 → (U.bank 0 b).hint = true → U.regBusy b = false →
       ∃ t, exec (.regBankFall u b) s = .next t ∧ ((t.unit u).bank 0 b).hint = false ∧ t.mem = s.mem ∧
         ((U.bank 0 b).fall = .retain → ((t.unit u).bank 0 b).st = .retain ∧ (t.unit u).elems = U.elems) ∧
         ((U.bank 0 b).fall = .full → ((t.unit u).bank 0 b).st = (U.bank 0 b).st ∧ (t.unit u).elems = U.elems) ∧
         ((U.bank 0 b).fall = .off → ((t.unit u).bank 0 b).st = .off ∧
           ∀ n, SMap.get 0 (t.unit u).elems n = if n / 4096 = b then 0 else SMap.get 0 U.elems n)) ∧
     (∀ b, b < 16 → (U.bank 1 b).st = .waking → (U.bank 1 b).wake = 0 →
       ∃ t, exec (.spadBankWakeDone u b) s = .next t ∧ ((t.unit u).bank 1 b).st = .full ∧ t.mem = s.mem) ∧
     (∀ b, b < 8 → (U.bank 0 b).st = .waking → (U.bank 0 b).wake = 0 →
       ∃ t, exec (.regBankWakeDone u b) s = .next t ∧ ((t.unit u).bank 0 b).st = .full ∧ t.mem = s.mem ∧
         (t.unit u).elems = U.elems) ∧
     (∀ b, b < 8 → U.dupHolds b = true → U.dcur.getLsbD b = false → (∀ k, k / 4096 = b → SMap.get false U.parity k = false) →
       ∃ t, exec (.dupCopyDone u b) s = .next t ∧ (t.unit u).dcur.getLsbD b = true ∧ t.mem = s.mem ∧
         (∀ n, n / 4096 ≠ b ^^^ 4 → SMap.get 0 (t.unit u).elems n = SMap.get 0 U.elems n) ∧
         (∀ j, j < 4096 → SMap.get 0 (t.unit u).elems ((b ^^^ 4) * 4096 + j) = SMap.get 0 U.elems (b * 4096 + j))))
/-! ### Matrix words (R255 to R277) -/

/-- R263, R277: MMUL and MMULB on a Read stream of their format at the start of a row, with enough steps left, a free bank and an
operand that fits the B-store, take their first step, with the race check of all their steps (R426), and join the tile operations.
R268, R269, R270: MSCAL and MCLR of a bank
of the matrix engine that is free join the tile operations; MBSET sets its B set, or the fade factor, at once. -/
def Obligations.MatrixWordsIssue : Prop :=
  (∀ (bf16 : Bool) (tk : Tok) (i bk last : Nat) (x : XMM) (s : State) (u : Nat) (r : PassRec) (d : Desc) (s1 : State)
       (a e : List Nat), Ready s u .M r tk x.grd [] →
     let s0 := s.freshen u .M tk
     let U := s0.unit u
     let t := U.stream i
     let f := s.flight u .M r tk
     let bs := U.bset x.bset
     let k := x.k + 1
     let mr := x.mr + 1
     let c0 := d.c 0
     let shr := decide (x.shr = 1)
     t.mode = .read → t.active = some d → (t.cons = 0 ∨ t.cons = 2) → d.fmt = (if bf16 then 1 else 2) →
     (¬ (shr = true ∧ U.isMember = true) → bs.bf16 = bf16 ∧ bs.bword + bWords bf16 k ≤ 4096) →
     c0 ≤ d.vlen → d.i0 t.pc = 0 → (1 < panels k c0 → c0 % (if bf16 then 8 else 32) = 0) →
     t.pc + mr * panels k c0 * c0 ≤ d.total → (shr = true → U.group ≠ none) →
     U.bankChk true [(bk, decide (x.mode ≠ 1))] = .ok → (∀ o ∈ U.work.mops, o.stepsDone = true) → U.work.tiles < 1023 →
     s0.firstStep u i d c0 (mr * panels k c0 * c0) r = .got s1 a e →
     let o : MOp := { id := f.id, bf16 := bf16, bank := bk, s := i, mode := x.mode, shr := shr, mr := mr, k := k, c0 := c0
                      bword := bs.bword, nc := bs.nc, fade := U.fade, panel := 0, steps := [a ++ e], flags := 0, scal := none
                      src := if shr then 0 else u + 1, round := 0, seen := [], bus := [], rest := none }
     let after := (s1.setUnit u ((s1.unit u).addMOp o)).leaves u .M r tk
       { f with wait := .op, wr := [bk], rd := if x.mode = 1 then [] else [bk] }
     (bf16 = false → exec (.mmul tk i bk last x) s = .next after) ∧
     (bf16 = true → exec (.mmulb tk i bk last x) s = .next after)) ∧
  (∀ (tk : Tok) (d : Nat) (g : XP) (s : State) (u : Nat) (r : PassRec), Ready s u .M r tk g [] →
     let s0 := s.freshen u .M tk
     let U := s0.unit u
     let f := s.flight u .M r tk
     let B : Nat → BSet := fun w => ⟨fld w 0 12, fld w 12 6 + 1, decide (fld w 18 1 = 1)⟩
     let op : Option Word32 → MOp := fun sc =>
       { id := f.id, bf16 := false, bank := d, s := 0, mode := 0, shr := false, mr := 0, k := 0, c0 := 1, bword := 0, nc := 0
         fade := 0, panel := 0, steps := [], flags := 0, scal := sc, src := 0, round := 0, seen := [], bus := []
         rest := none }
     (U.work.tiles < 1023 → (∀ o ∈ U.work.mops, o.stepsDone = true) →
       (U.bankChk true [(d, false)] = .ok → exec (.mclr tk d g) s =
         .next ((s0.setUnit u (U.addMOp (op none))).leaves u .M r tk { f with wait := .op, wr := [d] })) ∧
       (∀ imm32, g = none → U.bankChk true [(d, true)] = .ok → exec (.mscal tk d imm32) s =
         .next ((s0.setUnit u (U.addMOp (op (some (BitVec.ofNat 32 imm32))))).leaves u .M r tk
           { f with wait := .op, wr := [d], rd := [d] }))) ∧
     (∀ imm imm32, g = none →
       (imm = 4 → exec (.mbset tk imm imm32) s =
         .next ((s0.setUnit u { U with fade := BitVec.ofNat 32 imm32 }).leaves u .M r tk f)) ∧
       (imm < 4 → exec (.mbset tk imm imm32) s = .next ((s0.setUnit u { U with bsets := SMap.set BSet.reset U.bsets imm (B imm32) }).leaves u .M r tk f))))

/-- R266, R264, R277: when the oldest tile operation is performed its word may retire: MCLR has written zero to its whole bank,
MSCAL each element times the factor, and an MMUL whose panels are all written leaves its results as they stand. R254, R260,
R264, R274: an array that is in no relock, whose panel has all its row steps, a shared one in lockstep with its round, and whose
operand meets no poison in the lines that it has still to read and no wrong parity, writes the panel: every element of the tile becomes
its start value plus the sum over the panel's blocks, the lines of B that it, or for it the bus of its round (R274), has read already as
they were then (R278); elements outside the tile do not change. -/
def Obligations.TileOperationsWriteTheirBank : Prop :=
  (∀ (s : State) (u : Nat) (o : MOp) (rest : List MOp), u < 768 → s.halted u = false → (s.unit u).work.mops = o :: rest →
     (s.unit u).dcur = 0 → (∀ f ∈ (s.unit u).work.fl, f.eng = .M → f.id = o.id ∨ f.wait ≠ .done) →
     (∀ f ∈ (s.unit u).work.fl, f.eng = .M → f.id = o.id → f.eff = [] ∧ f.hints = []) →
     (o.isMul = true → o.panelsDone = true) → s.relocking u = false →
     (o.isMul = false → s.parityChk u o.readKeys = none) →
     ∃ t, exec (.tileOpPerformed u) s = .next t ∧ (t.unit u).work.mops = rest ∧
       (t.unit u).work.tiles = (s.unit u).work.tiles - 1 ∧ t.mem = s.mem ∧
       (∀ n, n / 4096 ≠ o.bank → SMap.get 0 (t.unit u).elems n = SMap.get 0 (s.unit u).elems n) ∧
       (o.isMul = true → (t.unit u).elems = (s.unit u).elems) ∧
       (o.isMul = false → o.scal = none → ∀ j, j < 4096 → SMap.get 0 (t.unit u).elems (o.bank * 4096 + j) = 0) ∧
       (∀ v, o.isMul = false → o.scal = some v → ∀ j, j < 4096 → SMap.get 0 (t.unit u).elems (o.bank * 4096 + j) =
         BitVec.ofNat 32 (scaleBy v.toNat (SMap.get 0 (s.unit u).elems (o.bank * 4096 + j)).toNat).1)) ∧
  (∀ (s : State) (u : Nat) (o : MOp) (rest : List MOp), u < 768 → s.halted u = false → (s.unit u).work.mops = o :: rest →
     o.isMul = true → o.panelsDone = false → o.src ≠ 0 → (o.shr = true → s.roundHeld u = false ∧ s.inLockstep u o = true) →
     s.relocking u = false → o.mr ≤ o.steps.length → s.bPoison u o = none → s.parityChk u o.readKeys = none → (s.unit u).dcur = 0 → o.mr ≤ 64 → o.nc ≤ 64 → (∀ x ∈ rest, x.id ≠ o.id) →
     ∃ t, exec (.mmulPanelComplete u) s = .next t ∧ t.mem = s.mem ∧
       (∀ i j, i < o.mr → j < o.nc → (t.unit u).elem o.bank i j = BitVec.ofNat 32
         (o.panelSum (s.mem.overlay (o.bus ++ o.seen)) (o.steps.getD i []) j (o.start ((s.unit u).elem o.bank i j).toNat)).1) ∧
       (∀ n, (∀ i j, i < o.mr → j < o.nc → n ≠ elemKey o.bank i j) →
         SMap.get 0 (t.unit u).elems n = SMap.get 0 (s.unit u).elems n) ∧
       (∃ o1 : MOp, (t.unit u).work.mops = o1 :: rest ∧ o1.panel = o.panel + 1 ∧ o1.steps = [] ∧ o1.seen = [] ∧
         o1.id = o.id))

/-- R271 to R275: an MJOIN waits until as many units as its group has wait at theirs, none of them in a trap handler; with a source
the group forms then, for all of them at once, and each MJOIN retires; without one every MJOIN raises UND.  MLEAVE waits alike, and the
group is then free for all.  That an arrival counts on while its unit is in a handler is the model's choice (log entry 160).  A round
gives every member's word the B operand of the source. -/
def Obligations.SharedGroupsFormRoundAndDissolve : Prop :=
  (∀ (tk : Tok) (sz src g : Nat) (s : State) (u : Nat) (r : PassRec), Ready s u .M r tk none [] →
    let s0 := s.freshen u .M tk
    let U := s0.unit u
    let G := s0.groupOf u g
    let ms := G.members ++ [(u, decide (src = 1))]
    let f := s.flight u .M r tk
    let G1 := { G with size := sz + 1, members := ms }
    U.group = none → u ∉ G.joining → s0.oneCluster u = true → (∀ m ∈ G.members, m.1 ≠ u) → (G.members ≠ [] → G.size = sz + 1) →
    (src = 1 → ∀ m ∈ G.members, m.2 = false) → (G.members ≠ [] → G.members.length < G.size) →
    (ms.length < sz + 1 ∨ s0.allWait u 4 g ms = false →
      exec (.mjoin tk sz src g) s = .next ((s0.setGroup u g G1).beginOwn u .M)) ∧
    (sz + 1 ≤ ms.length → s0.allWait u 4 g ms = true → (∃ m ∈ ms, m.2 = true) →
      exec (.mjoin tk sz src g) s = .next ((s0.formGroup u g G1).leaves u .M r tk f)) ∧
    (sz + 1 ≤ ms.length → s0.allWait u 4 g ms = true → (∀ m ∈ ms, m.2 = false) →
      exec (.mjoin tk sz src g) s = .next (((s0.setGroup u g { G with size := 0, members := [] }).failJoin
        (ms.filter fun m => decide (m.1 ≠ u))).takeTrap u ⟨.und, 4, r.addr, r.hdr⟩))) ∧
  (∀ (s : State) (u g : Nat) (G : Group), (G.members.map (·.1)).Nodup →
    let t := s.formGroup u g G
    (∀ m ∈ G.members, (t.unit m.1).group = some (g, m.2)) ∧ (t.groupOf u g).formed = true ∧ (t.groupOf u g).members = G.members ∧
    (∀ v, v ∈ (t.groupOf u g).joining ↔ v ≠ u ∧ ∃ m ∈ G.members, m.1 = v) ∧ (∀ w, (∀ m ∈ G.members, m.1 ≠ w) → t.unit w = s.unit w)) ∧
  (∀ (tk : Tok) (sz src g : Nat) (s : State) (u : Nat) (r : PassRec), Ready s u .M r tk none [] →
    let s0 := s.freshen u .M tk
    let G := s0.groupOf u g
    u ∈ G.joining → exec (.mjoin tk sz src g) s = .next ((s0.setGroup u g { G with joining := G.joining.erase u }).leaves u .M r tk
      (s.flight u .M r tk))) ∧
  (∀ (tk : Tok) (g : Nat) (s : State) (u : Nat) (r : PassRec) (role : Bool), Ready s u .M r tk none [] →
    let s0 := s.freshen u .M tk
    let U := s0.unit u
    let G := s0.groupOf u g
    U.group = some (g, role) → (∀ o ∈ U.work.mops, o.shr = false) →
    ((∀ m ∈ G.members, m.1 = u ∨ m.1 ∈ G.leaving) → s0.allWait u 5 g G.members = true →
      exec (.mleave tk g) s = .next (((G.members.foldl (fun s m => s.setUnit m.1 { s.unit m.1 with group := none }) s0).setGroup
        u g ⟨0, [], false, G.leaving.erase u, []⟩).leaves u .M r tk (s.flight u .M r tk))) ∧
    (((∃ m ∈ G.members, m.1 ≠ u ∧ m.1 ∉ G.leaving) ∨ s0.allWait u 5 g G.members = false) →
      exec (.mleave tk g) s = .next ((s0.setGroup u g { G with
        leaving := if u ∈ G.leaving then G.leaving else G.leaving ++ [u] }).beginOwn u .M))) ∧
  (∀ (tk : Tok) (g : Nat) (s : State) (u : Nat) (r : PassRec), Ready s u .M r tk none [] →
    let s0 := s.freshen u .M tk
    let G := s0.groupOf u g
    (s0.unit u).group = none → u ∈ G.leaving →
    exec (.mleave tk g) s = .next ((s0.setGroup u g { G with leaving := G.leaving.erase u }).leaves u .M r tk
      (s.flight u .M r tk))) ∧
  (∀ (s : State) (c g v w : Nat) (so mo : MOp), v ≠ w →
    (SMap.get Group.reset (s.cluster c).groups g).members = [(v, true), (w, false)] →
    (SMap.get Group.reset (s.cluster c).groups g).formed = true → (s.unit v).trap.depth = 0 → (s.unit w).trap.depth = 0 →
    (s.unit v).run ≠ .loading → (s.unit w).run ≠ .loading →
    (s.unit v).waitingShr = some so → (s.unit w).waitingShr = some mo → mo.k = so.k → mo.bf16 = so.bf16 →
    ∃ t, exec (.sharedBRound c g) s = .next t ∧ t.mem = s.mem ∧
      (∃ o ∈ (t.unit v).work.mops, o.id = so.id ∧ o.src = v + 1 ∧ o.bword = so.bword ∧ o.round = s.tick + 1) ∧
      (∃ o ∈ (t.unit w).work.mops, o.id = mo.id ∧ o.src = v + 1 ∧ o.bword = so.bword ∧ o.nc = so.nc ∧ o.round = s.tick + 1))

/-! ### Copy words and windows (R139 to R146, R169 to R177) -/

/-- R170, R171, R142: CPY, CFILL, CCVT and BLOAD whose ranges pass the checks of R171, with fewer than 32 moves and window fills in
flight, join the copy engine's moves with the shape of their block; the capabilities are those of the registers, or those that a
replay has recorded, or a trap has kept, for the word (R436); a recording keeps the capabilities that they used (R338). -/
def Obligations.MoveWordsJoinTheCopyEngine : Prop :=
  ∀ (i : Instr) (F : CForm), cForm i = some F → ∀ (s : State) (u : Nat) (r : PassRec), Ready s u .C r F.tk F.g [] →
    let U := s.unit u
    let cap := capAt U r
    let q := r.block
    let f := s.flight u .C r F.tk
    (U.tape.run ≠ 2 → ∀ k ∈ F.ks, capPending U r k = false) → F.ok cap q = true →
    s.rangeChk u r ((F.src cap q).toList ++ (F.dst cap q).toList ++ (F.scale cap q).toList) = .ok →
    U.work.copies < 1023 → U.inFlight < 32 →
    ∃ m : Move, m.id = f.id ∧ m.kind = (F.shape r q).kind ∧ m.rows = (F.shape r q).rows ∧ m.rowb = (F.shape r q).rowb ∧
      m.sstr = (F.shape r q).sstr ∧ m.dstr = (F.shape r q).dstr ∧ m.scstr = (F.shape r q).scstr ∧ m.sfmt = (F.shape r q).sfmt ∧
      m.dfmt = (F.shape r q).dfmt ∧ m.rnd = (F.shape r q).rnd ∧ m.pat = (F.shape r q).pat ∧ m.done = 0 ∧
      (∀ p, F.src cap q = some p → m.src = ⟨p.c.space, (p.c.base + p.o) % 2 ^ 64, none⟩) ∧
      (∀ p, F.dst cap q = some p → m.dst = ⟨p.c.space, (p.c.base + p.o) % 2 ^ 64, none⟩) ∧
      (∀ p, F.scale cap q = some p → m.scale = ⟨p.c.space, (p.c.base + p.o) % 2 ^ 64, none⟩) ∧
      exec i s = .next ((s.setUnit u { U with work := { U.work with
        moves := U.work.moves ++ [m], copies := U.work.copies + 1 } }).issue u .C r F.tk { f with wait := .op }
        ⟨none, F.ks.map fun k => (U.kS k, U.kMark k)⟩ none)

/-- R140 to R142: a move none of whose requests is left, and whose writes are performed at its destination's scope, is performed:
it leaves the copy engine, and its word waits no more. R173: a CFILL of one row of `n` bytes in the unit scratchpad, aligned
to 64 bytes and shorter than one request, writes its eight-byte pattern over and over and nothing else. -/
def Obligations.FinishedMovesAndFills : Prop :=
  (∀ (s : State) (u id : Nat) (m : Move), u < 768 → s.halted u = false → s.stands u = false →
     (s.unit u).work.moves.find? (fun m => m.id = id) = some m → m.total ≤ m.done →
     s.replayHead u id = true → s.mem.performedBy u (copyScope m.dst.space) = true →
     ∃ t, exec (.copyMovePerformed u id) s = .next t ∧ (∀ x ∈ (t.unit u).work.moves, x.id ≠ id) ∧
       (t.unit u).work.copies = (s.unit u).work.copies - 1 ∧ t.mem = s.mem ∧
       (∀ f ∈ (t.unit u).work.fl, f.id = id → f.wait = .done)) ∧
  (∀ (s : State) (u id : Nat) (m : Move), u < 768 → s.halted u = false → s.stands u = false →
     (s.unit u).work.moves.find? (fun m => m.id = id) = some m → m.kind = 2 → m.rows = 1 → m.done = 0 → m.overlap = false →
     m.rcD = false → s.replayHead u id = true → m.dst.space = 1 → m.dst.addr % 64 = 0 → 1 ≤ m.rowb → m.rowb ≤ 64 → m.dst.addr + 64 ≤ 0x100000 →
     ∃ t, exec (.copyMovePerformed u id) s = .next t ∧
       (∀ j, j < m.rowb → t.mem.byte (.unit u) (keyOf (16 + u) (m.dst.addr + j)) = BitVec.ofNat 8 (m.pat / 2 ^ (8 * (j % 8)))) ∧
       (∀ v a, (a < keyOf (16 + u) m.dst.addr ∨ keyOf (16 + u) (m.dst.addr + m.rowb) ≤ a) → t.mem.byte v a = s.mem.byte v a))

/-- R144 to R146, R176, R177: WDEF starts a window whose words and ranges are within their limits, WADV moves its head on and
asks for the rows that come into reach, WREL ends one whose fills are performed and whose words have retired; WDEF of an active window, and WADV of an
idle one, raise UND. R145: the next fill of a window whose rows are one request long copies the row's bytes into its slot of
the ring, and the count of filled rows goes up, where the slot's row before it is filled and the engine holds fewer than 32 moves;
with no fill left to make the event only settles the words that wait for
rows. -/
def Obligations.WindowWordsActAndFill : Prop :=
  (∀ (tk : Tok) (d : Nat) (s : State) (u : Nat) (r : PassRec) (g : XP), Ready s u .C r tk g [] → (s.unit u).tape.run = 0 →
     let U := s.unit u
     let W := U.win d
     let f := s.flight u .C r tk
     (∀ a b (c : XC), g = c.grd → capPending U r a = false → capPending U r c.ks = false →
       (W.act = true → exec (.wdef tk d a b c) s = .next (s.takeTrap u ⟨.und, 5, r.addr, r.hdr⟩)) ∧
       (let q := r.block
        let src := capAt U r 0 a
        let ring := capAt U r 1 c.ks
        W.act = false → src.tag = true → ring.tag = true → (src.space = 0 ∨ src.space = 5) → q.row % 64 = 0 →
        q.sstr % 64 = 0 → q.row ≤ q.sstr → q.dstr ≠ 0 → (ring.space = 2 ∨ ring.space = 3) → q.doff % 64 = 0 →
        2 ≤ q.rows → q.rows ≤ 4096 → q.rows * q.row ≤ ring.len →
        s.rangeChk u r [⟨a, src, q.soff, span q.dstr q.sstr q.row, permR⟩, ⟨c.ks, ring, q.doff, q.rows * q.row, permW⟩] = .ok →
        U.work.copies < 1023 → U.inFlight < 32 →
        let N : Win := ⟨true, src, q.soff, q.row, q.sstr, q.dstr, ring, q.doff, q.rows, 0, min q.rows q.dstr, 0, []⟩
        exec (.wdef tk d a b c) s = .next ((s.setUnit u { U.setWin d N with work := { U.work with
          copies := U.work.copies + 1 } }).leaves u .C r tk { f with wait := .op, progress := N.next }))) ∧
     (∀ a imm,
       (W.act = false → exec (.wadv tk d a imm g) s = .next (s.takeTrap u ⟨.und, 5, r.addr, r.hdr⟩)) ∧
       (let n := (r.vals.headD 0).toNat + imm
        let head := min (W.head + n) W.nrows
        let new := min (head + W.depth) W.nrows
        let N : Win := { W with head := head, next := new }
        W.act = true → n ≤ 4096 →
        (new ≤ W.next → exec (.wadv tk d a imm g) s = .next ((s.setUnit u (U.setWin d N)).leaves u .C r tk f)) ∧
        (W.next < new → U.work.copies < 1023 → U.inFlight < 32 → exec (.wadv tk d a imm g) s =
          .next ((s.setUnit u { U.setWin d N with work := { U.work with copies := U.work.copies + 1 } }).leaves u .C r tk
            { f with wait := .op, progress := new })))) ∧
     (W.act = false → exec (.wrel tk d g) s = .next (s.leaves u .C r tk f)) ∧
     (W.act = true → W.next ≤ W.filled → (∀ q ∈ U.work.fl, winOf q.hdr ≠ some d) →
       exec (.wrel tk d g) s = .next ((s.setUnit u (U.setWin d { W with act := false })).leaves u .C r tk f))) ∧
  (∀ (s : State) (u w : Nat), u < 768 → s.halted u = false → s.stands u = false →
     let W := (s.unit u).win w
     let a1 := (W.src.base + W.soff + W.filled * W.sstr) % 2 ^ 64
     let a2 := W.ring.base + W.roff + W.filled % W.depth * 64
     W.act = true →
     (∀ k1 k2, W.filled < W.next → (∀ k ∈ W.parts, k / 1024 ≠ W.filled) → (s.unit u).mayFill W W.filled = true →
       s.replayHead u ((s.unit u).winWord w) = true → W.rowb = 64 → a2 % 64 = 0 → a2 + 64 ≤ 2 ^ 64 → a1 % 65536 + 64 ≤ 65536 →
       s.translate u W.src.space a1 .read = .ok k1 → s.translate u W.ring.space a2 .write = .ok k2 →
       s.mem.poisonFor (.unit u) k1 64 = false →
       ∃ t, exec (.windowFillPerformed u w) s = .next t ∧ ((t.unit u).win w).filled = W.filled + 1 ∧
         (∀ j, j < 64 → t.mem.byte (.unit u) (k2 + j) = s.mem.byte (.unit u) (k1 + j)) ∧
         (∀ v a, (a < k2 ∨ k2 + 64 ≤ a) → t.mem.byte v a = s.mem.byte v a)) ∧
     (W.next ≤ W.filled → s.mem.performedBy u (copyScope W.ring.space) = true →
       exec (.windowFillPerformed u w) s = .next (s.setUnit u ((s.unit u).winSettle w))))

/-! ### Near-memory commands (R180 to R186) -/

/-- R180 to R183: NMC with operands within their limits, whose ranges pass the checks and translate, sends its command; the near-
memory unit processes the oldest command of its stack that waits for no migration, element by element, or ends it with BADCMD or BADRANGE and touches
nothing; the end, once the unit's cluster has its clock, writes the record of 16 bytes at CREC, after a fall of its bank that is due
(R134). -/
def Obligations.NearMemoryCommandsIssueRunAndEnd : Prop :=
  (∀ (tk : Tok) (d a b : Nat) (m : XM) (s : State) (u : Nat) (r : PassRec) (dk sk : Nat),
    SReady s u r tk m.grd [32 + a, b, d, d + 1, d + 2, d + 3] →
    let s0 := s.swordCheck
    let U := s0.unit u
    let c := U.kS a
    let w0 := (U.xS d).toNat
    let w1 := (U.xS (d + 1)).toNat
    let n := 64 * fld w0 0 32
    let da := c.base + offsetOf U b m
    let sa := c.base + (U.xS (d + 2)).toNat
    1 ≤ fld w0 0 32 → fld w0 0 32 ≤ 16384 → fld w0 32 32 % 16 = 0 → fld w0 32 32 < 0x100000 →
    c.tag = true → c.grants permN = true → c.space = 7 → offsetOf U b m + n ≤ c.len → da % 64 = 0 →
    ((m.sub = 1 ∨ m.sub = 2) → (U.xS (d + 2)).toNat + n ≤ c.len ∧ sa % 64 = 0 ∧ s0.translate u 7 sa .read = .ok sk) →
    (m.sub ≠ 4 → s0.translate u 7 da .read = .ok dk) → s0.translate u 7 da .write = .ok dk →
    U.acquiring = false → s0.nmBlocked u = false → U.work.nmcs.length < 16 →
    let k := fld (keyOff dk) 36 3
    ∃ q : Nmc, q.u = u ∧ q.op = m.sub ∧ q.ngran = fld w0 0 32 ∧ q.crec = fld w0 32 32 ∧ q.alpha.toNat = fld w1 0 32 ∧
      q.beta.toNat = fld w1 32 32 ∧ q.dva = da ∧ q.dkey = dk ∧ ((m.sub = 1 ∨ m.sub = 2) → q.sva = sa ∧ q.skey = sk) ∧
      q.res = (U.xS (d + 3)).toNat ∧ q.st = 0 ∧ (∀ x ∈ (s0.die k).nm, x.id ≠ q.id) ∧
      exec (.nmc tk d a b m) s = .next (((s0.setDie k { s0.die k with nm := (s0.die k).nm ++ [q] }).setUnit u { U with
        work := { U.work with nmcs := U.work.nmcs ++ [k * 2 ^ 32 + q.id] } }).leaves u .S r tk (s0.flight u .S r tk))) ∧
  (∀ (s : State) (k : Nat) (c : Nmc), (∀ x ∈ (s.die k).nm, x.st ≠ 2) →
    (s.die k).nm.find? (fun c => c.st = 0 && nmFirst (s.die k).nm c) = some c →
    let n := 64 * c.ngran
    let cross := crossesPage c.dva c.leaf.1 n || (decide (c.op ≤ 2) && (crossesPage c.sva c.leaf.2 n
      || decide (fld (keyOff c.dkey) 36 3 ≠ fld (keyOff c.skey) 36 3)))
    (c.res ≠ 0 → ∃ t, exec (.nmCommand k) s = .next t ∧ t.mem = s.mem ∧ { c with st := 1, status := 3 } ∈ (t.die k).nm) ∧
    (c.res = 0 → cross = true →
      ∃ t, exec (.nmCommand k) s = .next t ∧ t.mem = s.mem ∧ { c with st := 1, status := 2 } ∈ (t.die k).nm) ∧
    (c.res = 0 → cross = false → (c.op ≤ 2 → c.skey + n ≤ c.dkey ∨ c.dkey + n ≤ c.skey) →
      (∀ i, i < c.ngran → c.meetsPoison s.mem i = false) →
      ∃ t, exec (.nmCommand k) s = .next t ∧
        (∀ i, i < 16 * c.ngran → t.mem.num .device (c.dkey + 4 * i) 4 =
          (nmElem c.op c.alpha.toNat c.beta.toNat (s.mem.num .device (c.dkey + 4 * i) 4)
            (s.mem.num .device (c.skey + 4 * i) 4)).1 % 2 ^ 32) ∧
        (∀ v x, (x < c.dkey ∨ c.dkey + n ≤ x) → t.mem.byte v x = s.mem.byte v x) ∧
        (∃ q ∈ (t.die k).nm, q.id = c.id ∧ q.st = 1 ∧ q.status = c.status ∧ q.first = c.dva + n))) ∧
  (∀ (s : State) (k : Nat) (c : Nmc), (s.die k).nm.find? (fun c => decide (c.st = 1) && !s.stands c.u) = some c →
    k * 2 ^ 32 + c.id ∈ (s.unit c.u).work.nmcs →
    let key := keyOf (16 + c.u) c.crec
    let s1 := (spadBanks c.crec 16).foldl (fun s j => s.fallIfDue c.u 1 j) s
    ∃ t, exec (.nmCommandEnd k) s = .next t ∧ (∀ x ∈ (t.die k).nm, x.id ≠ c.id) ∧
      (t.unit c.u).work.nmcs = (s.unit c.u).work.nmcs.erase (k * 2 ^ 32 + c.id) ∧
      (c.status = 0 → (t.unit c.u).work.nmFail = (s.unit c.u).work.nmFail) ∧
      t.mem.num (.unit c.u) key 2 = c.status % 2 ^ 16 ∧ t.mem.num (.unit c.u) (key + 8) 8 = c.first % 2 ^ 64 ∧
      (∀ v x, (x < key ∨ key + 16 ≤ x) → t.mem.byte v x = s1.mem.byte v x) ∧
      ((∀ j ∈ spadBanks c.crec 16, (s.unit c.u).fallDue 1 j = false) → s1 = s))

/-! ### Dovetail (R279 to R297) -/

/-- R293 to R295: DLOAD of an image that passes its checks starts to load the context, and the event makes it LOADED; DSTART
begins the run at its start time, or ends it at once with LINKBUSY or NOLOCK; DSTOP ends a run; DSTAT reads the status word
or the run's end, of a run that has ended once its entries in progress have completed (R290; log entry 158).  That LATE restarts with
DSTART is the model's choice (log entry 157).  DLOAD in a run, and, once the earlier words of C have acted, DSTART without a context or in a run, raise UND. -/
def Obligations.DovetailWordsAct : Prop :=
  (∀ (tk : Tok) (s : State) (u : Nat) (r : PassRec), Ready s u .C r tk none [] →
    let U := s.unit u
    let D := U.dove
    let f := s.flight u .C r tk
    (∀ (a b ks : Nat) (s1 s2 : State) (h body : List Byte), U.tape.run = 0 → capPending U r a = false →
      (∀ i, i < 4 → capPending U r (doveK ks i) = false) →
      (D.status = 2 → exec (.dload tk a b ks) s = .next (s.takeTrap u ⟨.und, 5, r.addr, r.hdr⟩)) ∧
      (let c := capAt U r 0 a
       let o := (r.vals.headD 0).toNat
       let p : Place := ⟨c.space, (c.base + o) % 2 ^ 64, none⟩
       let n := 16 * byteField h 0 2
       let es := doveEntries (byteField h 0 2) body
       U.id.dove = true → D.status ≠ 2 → D.loading = none → D.busy = false → s.rangeChk u r [⟨a, c, o, 16, permR⟩] = .ok →
       s.cRead u p none 0 16 = .inr (s1, h) → CRange.capBad ⟨a, c, o + 16, n, permR⟩ r = none → o % 64 = 0 →
       doveHeaderOk h = true → s1.rangeChk u r [⟨a, c, o + 16, n, permR⟩] = .ok →
       s1.cRead u p none 16 n = .inr (s2, body) → doveEntriesOk (byteField h 2 1) (byteField h 0 2) 0 body = true →
       doveBadRange U r ks es = none → (s2.unit u).tape.run = 0 →
       exec (.dload tk a b ks) s = .next ((s2.setUnit u { s2.unit u with dove := { (s2.unit u).dove with
         loading := some (es, (List.range (byteField h 2 1)).map (fun i => capAt U r (i + 1) (doveK ks i)), byteField h 4 4,
           byteField h 8 2) } }).leaves u .C r tk { f with wait := .op }))) ∧
    (∀ a, (∀ g ∈ U.work.fl, g.eng = .C → g.wait = .done) →
      ((D.status = 0 ∨ D.status = 2) → exec (.dstart tk a) s = .next (s.takeTrap u ⟨.und, 5, r.addr, r.hdr⟩)) ∧
      (D.status ≠ 0 → D.status ≠ 2 → D.busy = false →
        ∃ D1 : Dctx, D1.t0 = max (r.vals.headD 0).toNat s.time.toNat ∧ (∀ e ∈ D1.ents, e.st = 0) ∧
          D1.ents.length = D.ents.length ∧ D1.caps = D.caps ∧ D1.beatns = D.beatns ∧ D1.tout = D.tout ∧ D1.pref = D.pref ∧
          D1.donen = 0 ∧ D1.late = 0 ∧ D1.flags = 0 ∧ D1.beat = 0 ∧
          (s.linkBusy u D = true → D1.status = 9) ∧ (s.linkBusy u D = false → s.hub.lock = false → D1.status = 10) ∧
          (s.linkBusy u D = false → s.hub.lock = true → D1.status = 2) ∧
          exec (.dstart tk a) s = .next ((s.setUnit u { U with dove := D1 }).leaves u .C r tk f))) ∧
    (D.busy = false → exec (.dstop tk) s = .next ((s.setUnit u { U with dove :=
      if D.status = 2 then { D with status := 4, elink := 0, endTime := s.time.toNat } else D }).leaves u .C r tk f))) ∧
  (∀ (tk : Tok) (d wt sel : Nat) (g : XP) (s : State) (u : Nat) (r : PassRec), Ready s u .C r tk g [] →
    let U := s.unit u
    let D := U.dove
    (wt = 1 → D.status ≠ 2) → (3 ≤ D.status → D.busy = false) →
    let v := if sel = 2 then D.endTime else D.status * 2 ^ 4 + (if D.pref then 2 ^ 8 else 0) + D.elink * 2 ^ 12
      + D.flags * 2 ^ 16 + D.late * 2 ^ 24 + D.donen * 2 ^ 32
    exec (.dstat tk d wt sel g) s = .next ((s.setUnit u { U with dove :=
      if sel = 1 then { D with late := 0, flags := 0, pref := false } else D }).leaves u .C r tk
      { s.flight u .C r tk with eff := [.x d (BitVec.ofNat 64 v)] })) ∧
  (∀ (s : State) (u : Nat) (es : List DEnt) (cs : List Cap) (bn tmo : Nat) (f : Flight), u < 768 → s.halted u = false →
    (s.unit u).dove.loading = some (es, cs, bn, tmo) →
    (s.unit u).work.fl.find? (fun f => isDload f.hdr && f.wait == .op) = some f →
    ∃ t, exec (.dloadContextLoaded u) s = .next t ∧ (t.unit u).dove.ents = es ∧ (t.unit u).dove.caps = cs ∧
      (t.unit u).dove.beatns = bn ∧ (t.unit u).dove.tout = tmo ∧ (t.unit u).dove.status = 1 ∧
      (t.unit u).dove.loading = none ∧ (t.unit u).dove.pref = (s.unit u).dove.pref ∧ t.mem = s.mem)

/-- R287 to R291: a run's next beat begins at its time; an entry whose beat has begun starts once the entries before it are
performed, and a SEND sends its bytes with its place in the run; data that arrives is held in order; a SEND, and a WRITE of the
data of its own place, are performed and counted; a receiving entry that is too late, data of a wrong length, and a link that
is down end the run with their status. -/
def Obligations.DovetailRunsPerformTheirEntries : Prop :=
  ∀ (s : State) (u : Nat), u < 768 → s.halted u = false →
    let D := (s.unit u).dove
    (D.status = 2 → D.t0 + D.beat * D.beatns ≤ s.time.toNat →
      exec (.dovetailBeat u) s = .next (s.setUnit u { s.unit u with dove := { D with beat := D.beat + 1 } })) ∧
    (∀ (i : Nat) (e : DEnt), D.ents[i]? = some e →
      (D.status = 2 → e.st = 0 → e.beat < D.beat → (∀ q ∈ D.ents.take i, q.st = 2) →
        (e.kind ≠ 4 → (s.link e.link).lanes = 0 → exec (.dovetailEntryStart u i) s = .next (s.setUnit u { s.unit u with
          dove := { D with status := 6, elink := e.link, endTime := s.time.toNat } })) ∧
        (e.kind ≠ 1 → (e.kind = 4 ∨ (s.link e.link).lanes ≠ 0) →
          ∃ t, exec (.dovetailEntryStart u i) s = .next t ∧ (t.unit u).dove.ents[i]? = some { e with st := 1 } ∧
            t.mem = s.mem ∧ t.hub = s.hub) ∧
        (∀ l, e.kind = 1 → (s.link e.link).lanes ≠ 0 →
          s.doveKeys u D ⟨e.ka % 4, e.addr, 32 * e.nblk, permR⟩ .read = .inr l → s.dovePoison l = false →
          ∃ t, exec (.dovetailEntryStart u i) s = .next t ∧ (t.unit u).dove.ents[i]? = some { e with st := 1 } ∧
            t.mem = s.mem ∧ (t.link e.link).out = (s.link e.link).out ++
              [(0, D.place i, (l.map fun q => s.mem.read .device q.1 q.2).flatten)])) ∧
      (e.st = 1 → e.kind = 1 →
        ∃ t, exec (.dovetailEntryPerformed u i) s = .next t ∧ (t.unit u).dove.donen = D.donen + 1 ∧
          (t.unit u).dove.ents[i]? = some { e with st := 2 } ∧ t.mem = s.mem) ∧
      (∀ b rest, e.st = 1 → e.kind = 2 → (∀ q ∈ D.ents.take i, q.st = 2) → (s.link e.link).held = (D.place i, b) :: rest →
        (D.status = 2 → s.time.toNat ≤ D.t0 + (e.beat + D.tout) * D.beatns) →
        (b.length ≠ 32 * e.nblk → ∃ t, exec (.dovetailEntryPerformed u i) s = .next t ∧ t.mem = s.mem ∧
          (t.link e.link).held = rest ∧ (D.status = 2 → (t.unit u).dove.status = 7 ∧ (t.unit u).dove.elink = e.link)) ∧
        (∀ k, b.length = 32 * e.nblk → (D.caps.getD (e.ka % 4) Cap.null).space = 0 →
          s.doveKeys u D ⟨e.ka % 4, e.addr, 32 * e.nblk, permW⟩ .write = .inr [(k, 32 * e.nblk)] →
          ∃ t, exec (.dovetailEntryPerformed u i) s = .next t ∧ (t.link e.link).held = rest ∧
            (∀ j, j < b.length → t.mem.byte .device (k + j) = b.getD j 0) ∧
            (∀ v x, (x < k ∨ k + b.length ≤ x) → t.mem.byte v x = s.mem.byte v x) ∧
            (t.unit u).dove.donen = D.donen + 1 ∧ (t.unit u).dove.ents[i]? = some { e with st := 2 })) ∧
      (e.receives = true → e.st ≠ 2 → D.t0 + (e.beat + D.tout) * D.beatns ≤ s.time.toNat → D.status = 2 →
        ∃ t, exec (.dovetailTimeout u i) s = .next t ∧ (t.unit u).dove.status = 5 ∧ (t.unit u).dove.elink = e.link ∧
          (t.unit u).dove.endTime = s.time.toNat ∧ t.mem = s.mem)) ∧
    (∀ l b rest, (s.link l).inbox = b :: rest → (((s.link l).held.map fun x => x.2.length).sum + b.2.length ≤ 2 ^ 20) →
      ∃ t, exec (.dovetailReceive l) s = .next t ∧ (t.link l).held = (s.link l).held ++ [b] ∧ (t.link l).inbox = rest ∧
        t.mem = s.mem)

/-- R279 to R282, R290, R460, R467, R122: the links: a Dovetail link falls to 4 lanes, or goes down and ends the runs that use
it; a beacon goes out on every link of module 0; the time lock is lost, which ends every run, and regained; a SilLane link
halves its lanes, goes down, or trains; HBM4, Dovetail and a CXL link report their training or loss. R111, R282: a peer's
read of HBM4 or LPDDR-6 memory is answered with its bytes, its write reaches the memory at system scope where a leaf with PIN
maps it, and is refused elsewhere; a store of this module that a peer refuses changes nothing, sets PREF, and is told to the
host. -/
def Obligations.LinksAndPeersAct : Prop :=
  (∀ (s : State),
     (∀ l, l < 16 →
       ((s.link l).lanes = 8 → exec (.dovetailLinkDegrade l) s =
         .next ((s.setLink l { s.link l with lanes := 4 }).tellHost 4 l 0 0)) ∧
       ((s.link l).lanes ≠ 0 → ∃ t, exec (.dovetailLinkDown l) s = .next t ∧ (t.link l).lanes = 0 ∧ t.mem = s.mem ∧
         (∀ u, let D := (s.unit u).dove
           (D.status = 2 → (∃ e ∈ D.ents, e.kind ≠ 4 ∧ e.link = l) → (t.unit u).dove.status = 6 ∧
             (t.unit u).dove.elink = l ∧ (t.unit u).dove.endTime = s.time.toNat) ∧
           ((D.status ≠ 2 ∨ ∀ e ∈ D.ents, e.kind = 4 ∨ e.link ≠ l) → t.unit u = s.unit u))) ∧
       (s.hub.module_ = 0 → (s.link l).lanes ≠ 0 → ∃ t, exec .timeBeacon s = .next t ∧
         (t.link l).out = (s.link l).out ++ [(1, 0, toBytes 8 s.time.toNat)] ∧ t.mem = s.mem ∧ t.units = s.units) ∧
       (s.hub.retrain = 3 → ∃ t, exec (.dovetailTrained l) s = .next t ∧ (t.link l).lanes = 8 ∧ t.mem = s.mem)) ∧
     (s.hub.lock = true → ∃ t, exec .timeLockLoss s = .next t ∧ t.hub.lock = false ∧ t.mem = s.mem ∧
       ∀ u, (s.unit u).dove.status = 2 → (t.unit u).dove.status = 10) ∧
     (exec .timeLockRegain s = .next { s with hub := { s.hub with lock := true } }) ∧
     (∀ l, l < 2 →
       (SMap.get 16 s.hub.silLanes l = 16 → ∃ t, exec (.sillaneDegrade l) s = .next t ∧ SMap.get 16 t.hub.silLanes l = 8 ∧
         t.hub.events = s.hub.events ++ [⟨16, l, 0, 0⟩]) ∧
       (SMap.get 16 s.hub.silLanes l ≠ 0 → ∃ t, exec (.sillaneLinkDown l) s = .next t ∧ SMap.get 16 t.hub.silLanes l = 0 ∧
         t.hub.events = s.hub.events ++ [⟨17, l, 0, 0⟩]) ∧
       (s.hub.retrain ≠ 0 → ∃ t, exec (.sillaneTrained l) s = .next t ∧ SMap.get 16 t.hub.silLanes l = 16 ∧
         2 ≤ t.hub.retrain)) ∧
     (∀ k ok, k < 8 → s.hub.retrain = 2 → ∃ t, exec (.hbm4PhyTrained k ok) s = .next t ∧ (t.die k).trained = true ∧
       (ok = false → k ∈ t.mem.dead) ∧ (ok = true → s.hub.held = [] → t.mem = s.mem)) ∧
     (∀ l, l < 8 → ∃ t, exec (.cxlLinkDown l) s = .next t ∧ l ∈ t.hub.cxlDown ∧ t.hub.events = s.hub.events ++ [⟨3, l, 0, 0⟩])) ∧
  ((∀ (s : State) (id op key n : Nat) (bs : List Byte), s.inbox.peer.find? (fun q => q.1 = id) = some (id, op, key, n, bs) →
     s.hub.retrain = 0 → keyRegion key ≤ 1 → physOk (keyRegion key) (keyOff key + n - 1) = true →
     (op = 0 → s.mem.poisonFor .system key n = false → ∃ t, exec (.peerAccess id) s = .next t ∧ t.mem = s.mem ∧
       t.hub.answers = s.hub.answers ++ [(2, id, s.mem.read .system key n)] ∧ (∀ q ∈ t.inbox.peer, q.1 ≠ id)) ∧
     (op = 1 → s.pinned (keyRegion key) (keyOff key) n = true → ∃ t, exec (.peerAccess id) s = .next t ∧
       (∀ v j, j < bs.length → t.mem.byte v (key + j) = bs.getD j 0) ∧
       (∀ v a, (a < key ∨ key + bs.length ≤ a) → t.mem.byte v a = s.mem.byte v a) ∧
       t.hub.answers = s.hub.answers ++ [(2, id, [])]) ∧
     (op ≠ 0 → s.pinned (keyRegion key) (keyOff key) n = false → ∃ t, exec (.peerAccess id) s = .next t ∧ t.mem = s.mem ∧
       t.hub.answers = s.hub.answers ++ [(3, id, [])])) ∧
   (∀ (s : State) (u id key : Nat) (o : SOp) (before : List SOp), u < 768 → s.halted u = false →
     findSop id [] (s.unit u).work.sops = some (o, before) → (o.kind = .st ∨ o.kind = .strl) → o.place.key = some key →
     keyRegion key = 3 → s.sopReady u o before = true →
     ∃ t, exec (.peerWriteRefused u id) s = .next t ∧ t.mem = s.mem ∧ (t.unit u).dove.pref = true ∧
       (∀ x ∈ (t.unit u).work.sops, x.id ≠ id) ∧
       t.hub.events = s.hub.events ++ [⟨6, u, fld (keyOff key) 46 6, keyOff key⟩]))

/-! ### What a unit does on its own (R12, R134 to R138, R200 to R202, R220 to R223, R233, R303 to R306, R327, R433) -/

/-- R12, R233, R303, R305, R327, R433: the oldest V word, or the oldest multi-cycle scalar word, writes its result and retires; a
token that found its FIFO full is pushed once there is room; a watched wait longer than TOKWD, for a token, for a queue, stream or
group, or for room to push a token, finds TOKEN at the word that waits; a trap that has been found is taken. R385: while the cluster's
clock relocks none of this happens. -/
def Obligations.WordsRetireAndWaitsEnd : Prop :=
  ∀ (s : State) (u : Nat), u < 768 → s.halted u = false →
    let U := s.unit u
    (s.stands u = true → exec (.scalarArithRetire u) s = .next s ∧ exec (.trapEntry u) s = .next s ∧
      ∀ e : Eng, exec (.tokenPush u e.code) s = .next s ∧ exec (.tokenTimeout u e.code) s = .next s) ∧
    (s.stands u = false → U.stopped = false →
    (∀ (f : Flight) (b : Nat) (w : List (Nat × Word32)), U.work.fl.find? (fun f => f.eng == .V && decide (f.wait = .op)) = some f →
      U.headOf .V = some f → f.eff = [.bank b w] → f.hints = [] → f.post = none → (∀ q ∈ U.work.fl, q.id = f.id → q = f) →
      (∀ q ∈ U.work.fl, q.eng = .V → q ≠ f → q.wait ≠ .done) →
      ∃ t, exec (.vWordRetire u) s = .next t ∧ (t.unit u).elems = (U.writeBank b w).elems ∧ f ∉ (t.unit u).work.fl ∧
        t.mem = s.mem ∧ (∀ n, (t.unit u).regs.getX n = U.regs.getX n)) ∧
    (∀ (f : Flight) (d : Nat) (v : Word), U.headOf .S = some f → f.wait = .arith → f.eff = [.x d v] → f.hints = [] →
      f.post = none → d ≠ 0 → (∀ q ∈ U.work.fl, q.id = f.id → q = f) →
      (∀ q ∈ U.work.fl, q.eng = .S → q ≠ f → q.wait ≠ .done) →
      ∃ t, exec (.scalarArithRetire u) s = .next t ∧ f ∉ (t.unit u).work.fl ∧ t.mem = s.mem ∧
        (∀ n, (t.unit u).regs.getX n = if n = d then v else U.regs.getX n)) ∧
    (∀ (e p : Eng) (f : Flight), U.headOf e = some f → f.wait = .done → f.post = some p → U.tape.run ≠ 2 →
      U.tokens e p < 8 → f.eff = [] → f.hints = [] → (∀ q ∈ U.work.fl, q.eng = e → q ≠ f → q.wait ≠ .done) →
      ∃ t, exec (.tokenPush u e.code) s = .next t ∧ (t.unit u).tokens e p = U.tokens e p + 1 ∧ f ∉ (t.unit u).work.fl ∧
        t.mem = s.mem) ∧
    (∀ (e : Eng) (q : Nat × Nat), s.runs u = true →
      let lim := U.csr.tokwd + 1
      (lim < U.waitOf e ∧ s.tokenWait u e = some q ∨
        U.waitOf e ≤ lim ∧ lim < U.ownWaitOf e ∧ s.ownWait u e = some q ∨
        U.waitOf e ≤ lim ∧ U.ownWaitOf e ≤ lim ∧ lim < U.pushWaitOf e ∧ U.pushWait e = some q) →
      exec (.tokenTimeout u e.code) s = .next (s.setUnit u { U with trap := { U.trap with
        pend := some ⟨.token, e.code, q.1, q.2⟩ } })) ∧
    (∀ t : Trap, U.trap.pend = some t → exec (.trapEntry u) s = .next (s.takeTrap u t)))

/-! ### Translation (R113 to R121) -/

/-- R113 to R115, R118: the end of a walk puts the leaf into the TLB of every cluster that missed on the page, in this walk or in one
that waits for the same page, or keeps the fault for the access, which it also does for a page that is migrating; a TINV takes the named translations out of every TLB and completes once no access that used them is left; an entry
that is no command ends with BADCMD. R116 to R119: MIGR of a page that is neither pinned nor held sets MIG in its leaf, and
the end of the copy writes the new leaf over the page's bytes in their new place; a pinned page ends with status 1. -/
def Obligations.WalksInvalidationsAndMigrationsEnd : Prop :=
  ((∀ (s : State) (die i : Nat) (w : WalkReq) (met : List (Nat × Nat × Nat × Nat)), (s.die die).walks[i]? = some w →
     (∀ l p key, walkCached s.mem (s.die die).pwc w.asid (w.vpage * 65536) 5 0 (pteTier w.root) (pteFrame w.root) []
         = (.leaf l p key, met) →
       let page := w.vpage * 65536 / 2 ^ pageBits l
       ∃ t, exec (.tlbWalkDone die i) s = .next t ∧ t.mem = s.mem ∧
         (pteMig p = false → ∀ x, (x ∈ (s.die die).walks ∨ x ∈ (s.die die).missq) → x.asid = w.asid →
           x.vpage * 65536 / 2 ^ pageBits l = page → ∀ c ∈ x.clusters, ⟨w.asid, page, l, p⟩ ∈ (t.cluster c).tlb) ∧
         (pteMig p = true → t.clusters = s.clusters ∧ (w.asid, w.vpage, l, 8) ∈ (t.die die).wfaults) ∧
         (∀ x ∈ (t.die die).walks, ¬ (x.asid = w.asid ∧ x.vpage * 65536 / 2 ^ pageBits l = page))) ∧
     (∀ l q, walkCached s.mem (s.die die).pwc w.asid (w.vpage * 65536) 5 0 (pteTier w.root) (pteFrame w.root) []
         = (.bad l q, met) →
       ∃ t, exec (.tlbWalkDone die i) s = .next t ∧ t.mem = s.mem ∧ t.clusters = s.clusters ∧
         (w.asid, w.vpage, l, q) ∈ (t.die die).wfaults)) ∧
   (∀ (s : State) (b : List Byte), s.nextTCmd = some b →
     let c := TCmd.ofBytes b
     (badTCmd b = false → (b.getD 0 0).toNat = 1 →
       ∃ t, exec .tinv s = .next t ∧ t.hub.tcmds = s.hub.tcmds ++ [c] ∧
         (∀ k, ∀ e ∈ (t.cluster k).tlb, c.covers e.asid (e.vpage * 2 ^ pageBits e.level) (2 ^ pageBits e.level) = false)) ∧
     (badTCmd b = true → s.hub.tcmds = [] → (s.takeTCmd c).caddrTr c ≠ .mig → ∃ t, exec .translationBadcmd s = .next t ∧ t.hub.tcmds = [] ∧
       t.clusters = s.clusters ∧ t.dies = s.dies)) ∧
   (∀ (s : State) (c : TCmd) (root l p k key : Nat), s.hub.tcmds = [c] → c.opc = 1 → c.st = 0 → s.drained c = true →
     s.rootOf c.asid = some root → walkVA s.mem root c.caddr = .leaf l p k → leafTr l p c.caddr 0 .write = .ok key →
     ∃ t, exec .tinvComplete s = .next t ∧ t.hub.tcmds = [] ∧
       t.mem.num .device key 2 = 0 ∧ t.mem.num .device (key + 8) 8 = s.time.toNat ∧
       (∀ v a, (a < key ∨ key + 16 ≤ a) → t.mem.byte v a = s.mem.byte v a)) ∧
   (∀ (s : State) (k : Nat), exec (.subarrayRefresh k) s = .next s) ∧
   (∀ s : State, s.hub.hotAt + 1000000 ≤ s.time.toNat → (∀ r ∈ s.hub.regs, r.kind ≠ 3) → ∃ t, exec .hotPageEpoch s = .next t ∧ t.mem = s.mem ∧
     t.hub.hotAt = s.hub.hotAt + 1000000 ∧ t.hub.hot = (s.hub.hot.map fun q => (q.1, q.2 / 2)).filter fun q => q.2 ≠ 0)) ∧
  ((∀ (s : State) (b : List Byte) (l p k : Nat), s.nextTCmd = some b → badTCmd b = false → (b.getD 0 0).toNat = 2 →
     let c := TCmd.ofBytes b
     let s1 := s.takeTCmd c
     s1.migLeaf c = some (l, p, k) →
     (ptePin p = false → ((c.size = 0 ∧ l = 4) ∨ (c.size = 1 ∧ l = 3)) → s1.held c = false → s1.migBusy k = false → p < 2 ^ 64 →
       ∃ t, exec .migr s = .next t ∧ t.mem.num .device k 8 = p ||| 256 ∧
         (∀ v a, (a < k ∨ k + 8 ≤ a) → t.mem.byte v a = s1.mem.byte v a)) ∧
     (ptePin p = false → ((c.size = 0 ∧ l = 4) ∨ (c.size = 1 ∧ l = 3)) → (s1.held c = true ∨ s1.migBusy k = true) →
       ∃ t, exec .migr s = .next t ∧ t.mem = s1.mem ∧ { c with st := 1 } ∈ t.hub.tcmds) ∧
     (ptePin p = true → exec .migr s = .next (s1.endTCmd c 1))) ∧
   (∀ (s : State) (c : TCmd) (l p k : Nat), s.hub.tcmds.find? (fun c => c.opc = 2 ∧ c.st = 1 ∧ s.mayMig c) = some c →
     s.migLeaf c = some (l, p, k) → ptePin p = false → ((c.size = 0 ∧ l = 4) ∨ (c.size = 1 ∧ l = 3)) → p < 2 ^ 64 →
     ∃ t, exec .migrResume s = .next t ∧ t.mem.num .device k 8 = p ||| 256 ∧
       (∀ v a, (a < k ∨ k + 8 ≤ a) → t.mem.byte v a = s.mem.byte v a)) ∧
   (∀ (s : State) (c : TCmd), s.hub.tcmds.find? (fun c => c.opc = 2 ∧ c.st = 2) = some c → s.drained c = true →
     let src := keyOf (pteTier c.oldpte) (pteFrame c.oldpte)
     let dst := keyOf (pteTier c.newpte) (pteFrame c.newpte)
     let n := c.bytes
     s.mem.stagedIn src n = false → s.mem.stagedIn dst n = false →
     (s.mem.poisonFor .device src n = false →
     ∃ s1 t : State, exec (.migrCopyDone true) s = .next t ∧
       t.mem = ((s1.writeMem 0 4 c.ptekey (toBytes 8 c.newpte) false).endTCmd c 0).mem ∧ s1.hub = s.hub ∧
       (∀ j, j < n → s1.mem.byte .device (dst + j) = s.mem.byte .device (src + j)) ∧
       (∀ v a, (a < dst ∨ dst + n ≤ a) → s1.mem.byte v a = s.mem.byte v a)) ∧
     (s.mem.poisonFor .device src n = true →
     ∃ t : State, exec (.migrCopyDone true) s = .next t ∧
       t.mem = ((s.writeMem 0 4 c.ptekey (toBytes 8 (pteStill c.oldpte)) false).endTCmd c 4).mem)))

/-! ### The hub: units, tasks, graphs (R320, R361 to R380, R461, R462, R485, R486) -/

/-- R374, R320, R363, R366, R377: a dispatched task whose clocks are ready starts on every unit; a unit whose engines are all at
END with nothing left ends, and its rank counts; a task all of whose ranks have ended is DONE, sets its events and is
counted; a guaranteed task that runs longer than its d is an overrun. R447, R402: a request sets PREQ on every running unit
of its task and starts PDEADLINE's count, is withdrawn while no unit has taken PREEMPT, and forces the trap when the count
has run out, unless the unit is to yield in that cycle (R446); a lease whose time has passed is over. -/
def Obligations.TasksStartEndAndAreAsked : Prop :=
  ((∀ (s : State) (t : Nat) (T : Task), s.task t = some T → T.st = .dispatching → T.parkedUnits = [] → s.clocksReady T = true →
     s.migClear T = true → T.status = 0 →
     ∃ s1 T1, exec (.taskStart t) s = .next s1 ∧ s1.task t = some T1 ∧ T1.st = .running ∧ T1.started = s.time.toNat ∧
       (∀ u ∈ T.units, (s1.unit u).run = .running) ∧ (∀ u, u ∉ T.units → s1.unit u = s.unit u) ∧ s1.mem = s.mem) ∧
   (∀ (s : State) (u : Nat) (T : Task), u < 768 → s.halted u = false → s.task (s.unit u).id.task = some T →
     s.endReady u T = true →
     ∃ s1 T1, exec (.unitEnd u) s = .next s1 ∧ (s1.unit u).run = .ended ∧ s1.task (s.unit u).id.task = some T1 ∧
       T1.ended = T.ended ++ [(s.unit u).id.rank] ∧ s1.mem = s.mem ∧ (s1.unit u).regs = (s.unit u).regs) ∧
   (∀ (s : State) (t : Nat) (T : Task) (G : Graph), s.task t = some T → T.st = .running → T.status = 0 →
     (∀ r ∈ T.ranks, r ∈ T.ended) → (∀ u ∈ T.units, s.mem.releasedAt u 3 = true) → s.graph T.graph = some G → 2 ≤ G.unfinished →
     ∃ s1 T1 G1, exec (.taskComplete t) s = .next s1 ∧ s1.task t = some T1 ∧ T1.st = .done ∧ T1.status = stDone ∧
       T1.units = [] ∧ s1.graph T.graph = some G1 ∧ G1.unfinished = G.unfinished - 1 ∧ G1.ndone = G.ndone + 1 ∧
       (G.ending = false → G1.events = G.events ||| T.sigm) ∧
       G1.nlate = (if T.late s.time.toNat then G.nlate + 1 else G.nlate) ∧
       (∀ u ∈ T.units, (s1.unit u).run = .free)) ∧
   (∀ (s : State) (t : Nat) (T : Task) (G : Graph), s.task t = some T → T.admitted ≠ 0 → T.st = .running → T.overrun = false →
     T.dur < T.ranFor + (s.time.toNat - T.started) → s.graph T.graph = some G →
     ∃ s1 T1 G1, exec (.guaranteedOverrun t) s = .next s1 ∧ s1.task t = some T1 ∧ T1.overrun = true ∧
       s1.graph T.graph = some G1 ∧ G1.contract = false ∧
       s1.hub.events = s.hub.events ++ [⟨9, T.graph, T.card, 0⟩] ∧ s1.mem = s.mem ∧ s1.units = s.units)) ∧
  ((∀ (s : State) (t : Nat) (T : Task), s.task t = some T → T.preempt = true → T.st = .running →
     ∃ s1, exec (.preemptRequest t) s = .next s1 ∧ s1.mem = s.mem ∧ (∀ u, u ∉ T.units → s1.unit u = s.unit u) ∧
       (∀ u ∈ T.units, (s.unit u).run = .running → (s.unit u).csr.preq = false → (s.unit u).resuming = false →
         (s1.unit u).csr.preq = true ∧ (s1.unit u).csr.pdRemain = (s.unit u).csr.pdLimit ∧
         (s1.unit u).regs = (s.unit u).regs)) ∧
   (∀ (s : State) (t : Nat) (T : Task), s.task t = some T → T.preempt = true → T.took = false →
     ∃ s1 T1, exec (.preemptWithdraw t) s = .next s1 ∧ s1.task t = some T1 ∧ T1.preempt = false ∧ s1.mem = s.mem ∧
       (∀ u ∈ T.units, (s1.unit u).csr.preq = false ∧ (s1.unit u).csr.pdRemain = 0)) ∧
   (∀ (s : State) (u : Nat), u < 768 → s.halted u = false → (s.unit u).csr.preq = true → (s.unit u).csr.pdRemain = 0 →
     (s.unit u).trap.took = false → s.runs u = true →
     (s.yieldDue u = false →
       exec (.forcedSave u) s = .next (s.takeTrap u ⟨.preempt, 0, if (s.unit u).inHandler then 2 else 0, 0⟩)) ∧
     (s.yieldDue u = true → exec (.forcedSave u) s = .next s)) ∧
   (∀ (s : State) (t q e : Nat) (T : Task), s.task t = some T → T.lease = some (q, e) → T.frozen = false → e ≠ 0 →
     e ≤ s.time.toNat →
     ∃ s1 T1, exec (.leaseExpire t) s = .next s1 ∧ s1.task t = some T1 ∧ T1.lease = none ∧ s1.mem = s.mem ∧
       (∀ u, { s1.unit u with stopped := (s.unit u).stopped } = s.unit u)))

/-- R461, R462, R485, R486: the hub takes the next entry of a submission ring: a SUBMIT that passes the checks and admission is
accepted, one that fails a check of R485 is refused with its reason; an END stops every running unit of its graph, and no
other task of it is dispatched any more. R370,
R371, R380: at a multiple of 100 ns the dispatcher visits the clusters in ascending order, and takes the head of the highest
queue that is not empty, if its inputs are ready and a partition can be chosen; a continuation, or an entry of a fallback
queue, whose home cluster is up and whose queue there has room, goes to that queue, unless an entry that arrived before it still
waits for the queue (R368). -/
def Obligations.EntriesAreTakenAndTasksDispatched : Prop :=
  (∀ (s : State) (r : Nat) (ring : Reg) (e : List Byte), s.nextEntry r = some (ring, e) →
     let s1 := s.takeEntry ring
     (byteField e 0 1 ≠ 2 →
       (∀ reason, s.entryBad e = some reason → byteField e 0x18 8 ≠ 0 → byteField e 0x18 8 % 32 = 0 →
         ∃ t, exec (.submit r) s = .next t ∧ t.mem.num .system (keyOf 4 (byteField e 0x18 8)) 2 = 5 ∧
           t.mem.num .system (keyOf 4 (byteField e 0x18 8) + 2) 2 = reason % 2 ^ 16 ∧ t.hub.graphs = s1.hub.graphs ∧
           t.hub.events = s1.hub.events ++ [⟨7, byteField e 0x28 8, 5, reason⟩]) ∧
       (∀ adm, s.entryBad e = none → s1.judge (s1.readSub e) = none →
         s1.admitAll (s1.readSub e).asid (((s1.subTasks (s1.readSub e) 0).filter fun T => T.hdr % 256 = 0).map
           fun T => (T.card, T)) [] s1.loads [] = .inr adm →
         exec (.submit r) s = .next (s1.acceptGraph (s1.readSub e) e adm)) ∧
       (∀ x, s.entryBad e = none → s1.judge (s1.readSub e) = some x → byteField e 0x18 8 ≠ 0 → byteField e 0x18 8 % 32 = 0 →
         ∃ t, exec (.submit r) s = .next t ∧ t.hub.graphs = s1.hub.graphs ∧
           t.mem.num .system (keyOf 4 (byteField e 0x18 8)) 2 = x.1 % 2 ^ 16 ∧
           t.hub.events = s1.hub.events ++ [⟨7, byteField e 0x28 8, x.1, x.2.1⟩])) ∧
     (∀ g G, byteField e 0 1 = 2 → s.entryBad e = none → s.graphOfTag (byteField e 0x28 8) = some g → s.graph g = some G →
       ∃ t, exec (.hostEndGraph r) s = .next t ∧
         (∀ q T, s.task q = some T → T.graph = g → T.st ≠ .done → ∀ u ∈ T.units, (t.unit u).run = .halted) ∧
         (∀ q T T1, s.task q = some T → T.graph = g → T.st ≠ .done → T.units = [] → t.task q = some T1 →
           T1.st = .done ∧ T1.status = stFault) ∧
         (∀ G1, t.graph g = some G1 → G1.ending = true))) ∧
  ((∀ s : State, s.time.toNat % 100 = 0 → s.hub.graphs ≠ [] →
     exec .dispatchTick s = .next ((List.range 96).foldl (fun s c => s.tickCluster c 5000) s)) ∧
   (∀ (s : State) (c n p t : Nat) (T : Task) (G : Graph), (∀ q, q < p → (s.cluster c).queue q = []) → p < 4 →
     ((s.cluster c).queue p).head? = some t → s.task t = some T →
     s.graph T.graph = some G →
     (s.inputsReady T = false → s.tickCluster c (n + 1) = s) ∧
     (s.inputsReady T = true → (s.tryDispatch t T G).2 = false → s.tickCluster c (n + 1) = (s.tryDispatch t T G).1) ∧
     (∀ s1, s.inputsReady T = true → s.tryDispatch t T G = (s1, true) → 
       let qs := SMap.set [] (s1.cluster c).queues p (((s1.cluster c).queue p).erase t)
       s.tickCluster c (n + 1) =
         (((s1.setCluster c { s1.cluster c with queues := qs }).settleQueue c p).tickCluster c n))) ∧
   (∀ (s : State) (r : ContRec) (rest : List ContRec) (T : Task), s.hub.conts = r :: rest → s.task r.t = some T →
     let c := s.homeOf r.va
     s.clusterDown c = false → s.heldFor c T.prio r.t = false → s.recordFor c T.prio r.t = false →
     (s.cluster c).ring T.prio = [] → ((s.cluster c).queue T.prio).length < 64 →
     ∃ t more, exec .continuationForward s = .next t ∧
       (t.cluster c).queue T.prio = (s.cluster c).queue T.prio ++ r.t :: more ∧
       (∀ x ∈ more, ∃ V, s.task x = some V ∧ V.st = .held) ∧
       (∀ x ∈ t.hub.conts, x.t ≠ r.t) ∧ ((∀ q V, s.task q = some V → V.st ≠ .held) → more = [] ∧ t.mem = s.mem)) ∧
   (∀ (s : State) (d t : Nat) (rest : List Nat) (T : Task), d < 8 → (s.die d).fallback = t :: rest → s.task t = some T →
     let c := s.homeOf T.va
     s.clusterDown c = false →
     (s.heldFor c T.prio t = true ∨ s.recordFor c T.prio t = true → exec (.fallbackForward d) s = .next s) ∧
     (s.heldFor c T.prio t = false → s.recordFor c T.prio t = false → (s.cluster c).ring T.prio = [] →
       ((s.cluster c).queue T.prio).length < 64 →
       ∃ s1, exec (.fallbackForward d) s = .next s1 ∧ (s1.cluster c).queue T.prio = (s.cluster c).queue T.prio ++ [t] ∧
         (s1.die d).fallback = rest ∧ s1.mem = s.mem)))

/-! ### Campion (R389 to R401, R408 to R410) -/

/-- R389 to R394, R463, R467: a curve that passes the checks of R391 is accepted and waits for its time, one that fails is answered
with the status of the first; while the module retrains it is answered with MBST 1; a curve in force, each of its points and the end of
its horizon set CAP and band; ahead of the next lower edge of the schedule parking begins up to 5 ms and lowering up to 100 µs before,
and shows no grade; UNDERDRAW is sent once, when the average has stayed below the lower edge for 100 ms. -/
def Obligations.CurvesComeIntoForce : Prop :=
  ∀ s : State,
    (∀ bs ok, s.mailHead = some (1, bs) → s.hub.retrain = 0 → s.inbox.early = 0 →
      (s.curveStatus bs = 0 → ∃ t, exec (.curve ok) s = .next t ∧ t.camp.maxSeq = some (byteField bs 8 8) ∧
        t.camp.pending = s.camp.pending ++ [{ Curve.ofBytes bs with eff := max (byteField bs 16 8) s.time.toNat }] ∧
        t.hub.answers = s.hub.answers ++ [(0, 1, List.replicate 8 0)] ∧ t.inbox.mail = s.inbox.mail.tail) ∧
      (s.curveStatus bs ≠ 0 → ∃ t, exec (.curve ok) s = .next t ∧ t.camp = s.camp ∧
        t.hub.events = s.hub.events ++ [⟨12, s.curveStatus bs, byteField bs 8 8, 0⟩] ∧
        t.hub.answers = s.hub.answers ++ [(0, 1, u16 0 ++ u16 0 ++ u32 (s.curveStatus bs))])) ∧
    (∀ bs ok, s.mailHead = some (1, bs) → s.hub.retrain ≠ 0 ∨ s.inbox.early ≠ 0 → ∃ t, exec (.curve ok) s = .next t ∧ t.camp = s.camp ∧
      t.hub.events = s.hub.events ∧ t.hub.answers = s.hub.answers ++ [(0, 1, u16 1 ++ u16 0 ++ u32 0)]) ∧
    (∀ c, s.nextCurve = some c → ∃ t, exec .curveEffective s = .next t ∧ t.camp.curve = some c ∧
      t.camp.pending = s.camp.pending.erase c ∧ (t.camp.cap, t.camp.band) = c.pointAt s.time.toNat ∧ t.mem = s.mem) ∧
    (∀ c, s.camp.curve = some c →
      (c.pointAt s.time.toNat ≠ (s.camp.cap, s.camp.band) → ∃ t, exec .curvePointStart s = .next t ∧
        (t.camp.cap, t.camp.band) = c.pointAt s.time.toNat ∧ t.camp.curve = some c ∧ t.mem = s.mem) ∧
      (s.camp.past = false → c.valid + c.horizon ≤ s.time.toNat → ∃ t, exec .curveHorizonEnd s = .next t ∧
        t.camp.past = true ∧ t.camp.cap = c.floor ∧ t.camp.band = 0 ∧ ⟨13, c.seq, 0, 0⟩ ∈ t.hub.events ∧ t.mem = s.mem)) ∧
    (∀ start edge, s.lowerPoint = some (start, edge) →
      ((start, edge) ∈ s.schedule ∧ edge < s.upperEdge ∧ ∀ q ∈ s.schedule, q.2 < s.upperEdge → start ≤ q.1) ∧
      (s.time.toNat + 5000000 < start → exec .curvePointLookahead s = .next s) ∧
      (s.time.toNat + 100000 < start → start ≤ s.time.toNat + 5000000 → exec .curvePointLookahead s = .next
        (if (s.measures edge true).2 = 2 then s.askSame (s.measures edge true).1 else s)) ∧
      (start ≤ s.time.toNat + 100000 → exec .curvePointLookahead s = .next
        (if (s.measures edge true).2 = 3 then (s.measures edge false).1 else (s.measures edge true).1)) ∧
      (∀ w, (s.measures edge w).1.camp.grade = s.camp.grade ∧ (s.measures edge w).1.mem = s.mem)) ∧
    (s.camp.under = false → heldSince s.camp.lowAt s.time.toNat 100000000 = true → ∃ t, exec .underdraw s = .next t ∧
      t.camp.under = true ∧ t.hub.events = s.hub.events ++ [⟨14, 0, 0, 0⟩]) ∧
    ((s.camp.under = true ∨ heldSince s.camp.lowAt s.time.toNat 100000000 = false) → exec .underdraw s = .next s)

/-- R380, R400, R409, R479: a die that is too hot and runs nothing is gated: its scratchpads lose their contents, and every REMAP entry
that names a cluster of it is rewritten and kept; an ungate begins 1 ms after the last gate, in the reverse order, once the headroom has
held for 10 ms, and 200 µs later the die is ready. R408: the pair regulator takes pulses from the heavier cluster of a pair, up to 4 in
8, gives them back, and lowers a cluster that has lost 4. That lost scratchpads read as zero is the model's choice (log entry 5, unsafe);
so is which entries of REMAP the ungate restores: those rewritten for the die's own clusters (log entry 88, DEDUCED, unsafe). -/
def Obligations.DiesPairsAreRegulated : Prop :=
  (∀ (s : State) (d : Nat), d < 8 →
     let D := s.die d
     (D.severe = true → D.gated = false → D.gating = false → (∀ u, u / 96 = d → (s.unit u).run = .free) →
       (∀ q T, (q, some T) ∈ s.hub.tasks → ∀ u ∈ T.units, u / 96 ≠ d) →
       ∃ t, exec (.dieGate d) s = .next t ∧ (t.die d).gated = true ∧ (t.die d).gating = false ∧
         t.camp.gates = s.camp.gates ++ [d] ∧ t.camp.gateAt = s.time.toNat ∧
         (∀ h, h < 256 → (s.remapAt h / 12 ≠ d → t.remapAt h = s.remapAt h) ∧ (s.remapAt h / 12 = d → h ∈ (t.die d).rewrote)) ∧
         (∀ v u a, u / 96 = d → a < 0x100000 → t.mem.byte v (keyOf (16 + u) a) = 0) ∧
         (∀ v a, a < 0x4000000 → t.mem.byte v (keyOf (2304 + d) a) = 0)) ∧
     (D.gated = true → D.ungating = none → s.camp.gates.getLast? = some d → s.camp.grade = 0 →
       s.camp.gateAt + 1000000 ≤ s.time.toNat → heldSince s.camp.roomAt s.time.toNat 10000000 = true →
       ∃ t, exec (.dieUngate d) s = .next t ∧ (t.die d).ungating = some s.time.toNat ∧
         t.camp.gates = s.camp.gates.dropLast ∧ t.mem = s.mem) ∧
     (∀ t0, D.ungating = some t0 → t0 + 200000 ≤ s.time.toNat →
       ∃ t, exec (.dieUngateReady d) s = .next t ∧ (t.die d).gated = false ∧ (t.die d).rewrote = [] ∧
         (∀ h, t.remapAt h = if h ∈ D.rewrote ∧ h % 96 / 12 = d then h % 96 else s.remapAt h) ∧ t.mem = s.mem)) ∧
  (∀ (s : State) (p : Nat), p < 48 → s.hub.booted = true →
     (∃ c, (c = 2 * p ∨ c = 2 * p + 1) ∧ ∃ t, exec (.pairThrottle p) s = .next t ∧
       (t.cluster c).clk.throttle = min 4 ((s.cluster c).clk.throttle + 1) ∧ (∀ k, k ≠ c → t.cluster k = s.cluster k) ∧
       t.mem = s.mem ∧ t.units = s.units) ∧
     (∃ t, exec (.pairThrottleRestore p) s = .next t ∧ (t.cluster (2 * p)).clk.throttle = 0 ∧
       (t.cluster (2 * p + 1)).clk.throttle = 0 ∧ t.mem = s.mem ∧ t.units = s.units) ∧
     ((s.cluster (2 * p)).clk.throttle = 4 → (s.cluster (2 * p + 1)).clk.throttle = 4 →
       ∃ c, (c = 2 * p ∨ c = 2 * p + 1) ∧ ∃ t, exec (.pairThrottleLower p) s = .next t ∧
         (t.cluster c).clk.target ≤ (s.cluster c).clk.op - 1 ∧ (∀ k, k ≠ c → t.cluster k = s.cluster k) ∧
         t.mem = s.mem))

/-- R409, R410: a thermal emergency, when a junction reading exceeds 105 °C or a dry-out sensor trips, caps every cluster of the die two
points lower and ends, with its notices, once the die has been cool for 10 ms; a notice caps the clusters of its graph at its beat, and an
all-clear lifts the cap of every cluster that runs the graph, or no task, on a die with no emergency of its own; above the severe limit
every task of the die is asked to park; the first sensor that fails a test is marked, and the third caps the cluster. -/
def Obligations.HeatCapsClusters : Prop :=
  ∀ (s : State),
    (∀ d lim, d < 8 → s.hub.booted = true → exec (.boilingLimitUpdate d lim) s = .next (s.setDie d { s.die d with boil := lim })) ∧
    (∀ d, d < 8 → s.hub.booted = true → (s.die d).gated = false → (s.die d).emerg = false →
      (s.anyAbove d 105000 = true ∨ (s.die d).dryAt ≠ 0) →
      ∃ t, exec (.thermalEmergency d) s = .next t ∧ (t.die d).emerg = true ∧ t.mem = s.mem ∧
        (∀ c, c / 12 = d → let k := (s.cluster c).clk
          (t.cluster c).clk.therm ≠ none ∧ (t.cluster c).clk.opmax = min k.opmax (min k.op k.target - 2)) ∧
        (∀ c, c / 12 ≠ d → t.cluster c = s.cluster c)) ∧
    (∀ d, d < 8 → (s.die d).emerg = true → heldSince (s.die d).coolAt s.time.toNat 10000000 = true →
      ∃ t, exec (.thermalEmergencyEnd d) s = .next t ∧ (t.die d).emerg = false ∧ (t.die d).notified = [] ∧ t.mem = s.mem) ∧
    (∀ d, d < 8 → s.hub.booted = true → (s.die d).gated = false → (s.die d).severe = false → s.severeHeat d = true →
      ∃ t, exec (.thermalSevere d) s = .next t ∧ (t.die d).severe = true ∧ t.mem = s.mem ∧
        t.hub.service = s.hub.service ++ [⟨3, d, 0, 0⟩] ∧
        (∀ q T, s.task q = some T → (∃ u ∈ T.units, u / 96 = d) → ∃ T1, t.task q = some T1 ∧ T1.preempt = true)) ∧
    (∀ n rest, s.inbox.notices = n :: rest → ∃ t, exec .slowdownNotice s = .next t ∧ t.inbox.notices = rest ∧
      t.camp.notices = s.camp.notices ++ [n] ∧ t.mem = s.mem) ∧
    (∀ i g p beat, s.camp.notices[i]? = some (g, p, beat, true) → beat ≤ s.time.toNat →
      ∃ t, exec (.thermalCapBeat i) s = .next t ∧ t.camp.notices = s.camp.notices.eraseIdx i ∧ t.mem = s.mem ∧
        (∀ c, c < 96 → s.runsGraph g c = true →
          (t.cluster c).clk.therm ≠ none ∧ (t.cluster c).clk.opmax = min (s.cluster c).clk.opmax p) ∧
        (∀ c, c < 96 → s.runsGraph g c = false → t.cluster c = s.cluster c)) ∧
    (∀ i g p beat, s.camp.notices[i]? = some (g, p, beat, false) → beat ≤ s.time.toNat →
      ∃ t, exec (.thermalCapBeat i) s = .next t ∧ t.camp.notices = s.camp.notices.eraseIdx i ∧ t.mem = s.mem ∧
        (∀ c, c < 96 → (s.runsGraph g c = true ∨ s.tasksOn c = []) → (s.die (c / 12)).emerg = false →
          (t.cluster c).clk.therm = none ∧ ((s.cluster c).clk.therm ≠ none → (t.cluster c).clk.opmax = 6)) ∧
        (∀ c, c < 96 → ((s.runsGraph g c = false ∧ s.tasksOn c ≠ []) ∨ (s.die (c / 12)).emerg = true) →
          t.cluster c = s.cluster c)) ∧
    (∀ c, c < 96 → s.hub.booted = true →
      let k := (s.cluster c).clk
      ((∀ i, i < 8 → i ∈ k.sensors ∨ s.sensorBad c i = false) → exec (.sensorFail c) s = .next s) ∧
      (∀ i, i < 8 → i ∉ k.sensors → s.sensorBad c i = true → (∀ j, j < i → j ∈ k.sensors ∨ s.sensorBad c j = false) →
        ∃ t, exec (.sensorFail c) s = .next t ∧ (t.cluster c).clk.sensors = k.sensors ++ [i] ∧ t.mem = s.mem ∧
          (k.sensors.length ≠ 2 → (t.cluster c).clk.scap = k.scap ∧ t.hub.service = s.hub.service) ∧
          (k.sensors.length = 2 → (t.cluster c).clk.scap = true ∧ t.hub.service = s.hub.service ++ [⟨6, c, 0, 0⟩])))

/-! ### The platform (R123, R429, R454 to R459, R463 to R466, R484) -/

/-- R454 to R459: a machine check halts its unit and ends its task with MCHECK; a telemetry record joins its ring; a suspect
connection caps both clusters of its pair; the connector margin is told to the host, below 20 % raises a service request, and below 0
caps the input at 3,600 W. -/
def Obligations.ChecksAndTelemetryAreReported : Prop :=
  ∀ s : State,
    (∀ u src bank synd addr, u < 768 → s.halted u = false → 1 ≤ src → src < 8 → (s.unit u).run ≠ .free →
      (src = 1 → (s.unit u).dcur.getLsbD bank = false) →
      ∃ t, exec (.machineCheck u src bank synd addr) s = .next t ∧ (t.unit u).run = .halted ∧
        (t.unit u).mcCount = (if src = 6 then (s.unit u).mcCount else (s.unit u).mcCount + 1) ∧
        (∀ T, s.task (s.unit u).id.task = some T → ∃ T1, t.task (s.unit u).id.task = some T1 ∧
          T1.status = (if T.status = 0 then stMcheck else T.status) ∧ ∀ w ∈ T.units, (t.unit w).run = .halted)) ∧
    (∀ src, src < 49 → s.hub.booted = true → ∃ l : List Byte, l.length = 16 ∧ exec (.telemetryRecord src) s = .next (s.ringPut 5 l)) ∧
    (∀ kind rec r, s.hub.regs.find? (fun r => r.kind = kind) = some r → r.mem = 0 → r.nent ≠ 0 →
      let base := keyOf 4 r.addr
      s.memReady base = true → (r.prod + 2 ^ 32 - s.mem.num .system (base + 4) 4) % 2 ^ 32 ≠ r.nent →
      let t := s.ringPut kind rec
      (∀ v j, j < rec.length → t.mem.byte v (base + 64 + r.prod % r.nent * entrySize kind + j) = rec.getD j 0) ∧
      t.mem.num .system base 4 = (r.prod + 1) % 2 ^ 32) ∧
    (∀ p, p < 48 → s.hub.booted = true → p ∉ s.camp.suspects → ∃ t, exec (.suspectConnection p) s = .next t ∧
      t.camp.suspects = s.camp.suspects ++ [p] ∧ (t.cluster (2 * p)).clk.scap = true ∧
      (t.cluster (2 * p + 1)).clk.scap = true ∧ t.hub.service = s.hub.service ++ [⟨4, p, 0, 0⟩] ∧ t.mem = s.mem) ∧
    (s.hub.booted = true → ∃ (r : Nat) (t : State), exec .connectorMargin s = .next t ∧
      let m := (BitVec.ofInt 64 (1000 - (r : Int))).toNat
      ⟨15, m, 0, 0⟩ ∈ t.hub.events ∧ (800 < r → ⟨5, m, 0, 0⟩ ∈ t.hub.service) ∧
      t.camp.inputCap = (if 1000 < r then 3600 else s.camp.inputCap) ∧ t.mem = s.mem)

/-- R463, R465, R467, R484: REGISTER keeps a region that its rules allow, or answers with its status; ATTEST answers with the
nonce in its report; KEYSET under the current key, or the first, keeps the new key; DOMAIN sets the module's number; an
unknown command is answered with MBST 2, or 1 while the module retrains, as KEYSET and DOMAIN are then. The layout and length of the
attestation report, the input bytes of DOMAIN, and that TAKEN comes before BADADDR, are the model's choice (log entry 103); so is memory
that reads as zero after a cold reset (log entry 5, unsafe). R123, R429, R453, R464, R466: a host access of
module memory reads its bytes or writes them at system scope; a cold reset leaves no graph, no task, every unit as after
reset but for the marks of retired ones, TIME 0; a warm reset keeps TIME, loses the lock, and trains the links again. -/
def Obligations.MailboxAndHostAreAnswered : Prop :=
  (∀ s : State,
     (∀ bs, s.mailHead = some (2, bs) →
       let kind := byteField bs 0 4
       let full := (if kind = 1 then 16 else 1) ≤ (s.hub.regs.filter fun r => decide (r.kind = kind)).length
       let bad := s.regBad kind (byteField bs 4 4) (byteField bs 8 8) (byteField bs 0x10 4) (byteField bs 0x14 4) (byteField bs 0x18 8)
       let answer := fun (n : Nat) => (0, 2, u16 0 ++ u16 0 ++ u32 n)
       ∃ t, exec .register s = .next t ∧ t.mem = s.mem ∧ t.inbox.mail = s.inbox.mail.tail ∧
         ((kind = 0 ∨ 8 ≤ kind) → t.hub.regs = s.hub.regs ∧ t.hub.answers = s.hub.answers ++ [answer 3]) ∧
         (1 ≤ kind → kind < 8 → full → t.hub.regs = s.hub.regs ∧ t.hub.answers = s.hub.answers ++ [answer 1]) ∧
         (1 ≤ kind → kind < 8 → ¬ full → bad = true →
           t.hub.regs = s.hub.regs ∧ t.hub.answers = s.hub.answers ++ [answer 2]) ∧
         (1 ≤ kind → kind < 8 → ¬ full → bad = false → t.hub.answers = s.hub.answers ++ [answer 0] ∧
           t.hub.regs = s.hub.regs ++ [⟨kind, byteField bs 4 4, byteField bs 8 8, byteField bs 0x10 4, byteField bs 0x18 8,
             0, 0, 0, false⟩])) ∧
     (∀ bs, s.mailHead = some (3, bs) → ∃ t rep, exec .attest s = .next t ∧
       t.hub.answers = s.hub.answers ++ [(0, 3, rep)] ∧ rep.length = 240 ∧
       (rep.drop 92).take 16 = toBytes 16 (byteField bs 0 16) ∧ t.mem = s.mem ∧ t.inbox.mail = s.inbox.mail.tail) ∧
     (∀ bs ok, s.mailHead = some (4, bs) → s.hub.retrain = 0 → s.inbox.early = 0 →
       let key := bs.take (bs.length - 132)
       let good := ∀ k, s.hub.facKey = some k → Config.sigValid k key (bs.drop (bs.length - 132)) = true
       (good → ∃ t, exec (.keyset ok) s = .next t ∧ t.hub.facKey = some key ∧ t.mem = s.mem ∧
         t.hub.answers = s.hub.answers ++ [(0, 4, List.replicate 8 0)]) ∧
       (¬ good → ∃ t, exec (.keyset ok) s = .next t ∧ t.hub.facKey = s.hub.facKey ∧ t.mem = s.mem)) ∧
     (∀ bs, s.mailHead = some (5, bs) → s.hub.retrain = 0 → s.inbox.early = 0 → ∃ t, exec .domain s = .next t ∧
       t.hub.module_ = byteField bs 0 1 % 64 ∧ t.hub.timePath = byteField bs 2 2 ∧ t.mem = s.mem) ∧
     (∀ c bs i ok, s.mailHead = some (c, bs) → (c, i) ∈ [(4, Instr.keyset ok), (5, Instr.domain)] →
       s.hub.retrain ≠ 0 ∨ s.inbox.early ≠ 0 → ∃ t, exec i s = .next t ∧ t.mem = s.mem ∧ t.hub.facKey = s.hub.facKey ∧
         t.hub.module_ = s.hub.module_ ∧ t.hub.answers = s.hub.answers ++ [(0, c, u16 1 ++ u16 0 ++ u32 0)]) ∧
     (∀ c bs, s.mailHead = some (c, bs) → (c = 0 ∨ 5 < c) → ∃ t, exec .mailboxBadcmd s = .next t ∧ t.mem = s.mem ∧
       t.hub.answers = s.hub.answers ++ [(0, c, u16 (if s.hub.retrain ≠ 0 ∨ s.inbox.early ≠ 0 then 1 else 2) ++ u16 0 ++ u32 0)])) ∧
  ((∀ (s : State) (id key n : Nat) (w : Bool) (bs : List Byte), s.inbox.host.find? (fun q => q.1 = id) = some (id, w, key, n, bs) →
     s.hostReaches key = true → keyRegion key ≤ 2 → physOk (keyRegion key) (keyOff key + n - 1) = true →
     (w = true → ∃ t, exec (.hostMemoryAccess id) s = .next t ∧
       (∀ v j, j < min n bs.length → t.mem.byte v (key + j) = bs.getD j 0) ∧
       (∀ v a, (a < key ∨ key + n ≤ a) → t.mem.byte v a = s.mem.byte v a) ∧
       t.hub.answers = s.hub.answers ++ [(1, id, [])]) ∧
     (w = false → s.mem.poisonFor .system key n = false → ∃ t, exec (.hostMemoryAccess id) s = .next t ∧ t.mem = s.mem ∧
       t.hub.answers = s.hub.answers ++ [(1, id, s.mem.read .system key n)]) ∧
     (w = false → s.mem.poisonFor .system key n = true → ∃ t, exec (.hostMemoryAccess id) s = .next t ∧ t.mem = s.mem ∧
       t.hub.answers = s.hub.answers ++ [(4, id, [])])) ∧
   (∀ s : State, ∃ t, exec .coldReset s = .next t ∧ t.time = 0 ∧ t.clusters = [] ∧ t.dies = [] ∧ t.hub.graphs = [] ∧
     t.hub.tasks = [] ∧ t.hub.regs = [] ∧ t.hub.tapes = [] ∧ t.camp = Campion.reset ∧
     (∀ u, ∃ b, t.unit u = { UnitSt.reset with retiredMark := b }) ∧
     (∀ v a, keyRegion a ≠ 3 → keyRegion a ≠ 4 → t.mem.byte v a = 0)) ∧
   (∀ s : State, ∃ t, exec .warmReset s = .next t ∧ t.time = s.time ∧ t.hub.lock = false ∧ t.hub.retrain = 1 ∧
     t.hub.graphs = [] ∧ t.hub.tasks = [] ∧ t.hub.events = s.hub.events ++ [⟨18, 0, 0, 0⟩] ∧ t.camp.grade = 0 ∧
     (∀ u, (t.unit u).run = .free ∧ (t.unit u).regs = Regs.reset) ∧ (∀ l, l < 16 → (t.link l).lanes = 0)))

/-! ### Reset -/

/-- What reset leaves: every unit's registers, banks and streams, the supply states, and each system register with a value in its reset
column.  Not from a reset column, and the model's own: that memory reads as zero (log entry 5, unsafe), that the links are up with
start-up complete (log entry 6), and the values of log entry 7 (unsafe). -/
def Obligations.ResetLeavesTheStatedValues : Prop :=
  ∀ u, u < 768 →
    let s := State.reset
    let U := s.unit u
    (∀ n, U.xS n = 0) ∧ (∀ n, U.kS n = Cap.null) ∧ (∀ n, 1 ≤ n → n ≤ 23 → U.pS n = false) ∧
    (∀ b, b < 8 → (U.bank 0 b).st = .off) ∧ (∀ b, b < 16 → (U.bank 1 b).st = .off) ∧
    (∀ i, i < 16 → (U.stream i).mode = .idle ∧ (U.stream i).shadow = []) ∧
    (∀ i, i < 4 → U.bset i = ⟨0, 64, false⟩) ∧ U.fade = 0x3F800000 ∧
    s.csr u 0x010 = 1024 ∧ s.csr u 0x002 = 0xC0000 ∧ s.csr u 0x012 = 0x100000 ∧ fld (s.csr u 0x011) 0 32 = 65536 ∧
    s.csr u 0x041 = 0 ∧ s.csr u 0x050 = 0 ∧ s.csr u 0x080 = 0 ∧ s.csr u 0x020 = 0 ∧ s.csr u 0x021 = 0 ∧
    fld (s.csr u 0x060) 0 16 = 0 ∧ (∀ h, h < 256 → s.remapAt h = h % 96) ∧ (∀ l, l < 16 → (s.link l).lanes = 8) ∧
    (∀ v a, s.mem.byte v a = 0) ∧ (∀ v a, s.mem.tagAt v a = false)
end

