-- ==== Sys2Proof/Laws/SMap.lean ====
section
/-! SUPPORT. Laws of the sparse maps: what a read gives after a write, and that every operation keeps the canonical form. -/

namespace Sys2Proof.SMap

variable {α : Type}

@[simp] theorem get_nil (d : α) (n : Nat) : SMap.get d [] n = d := rfl

theorem get_insert (d : α) (m : SMap α) (n k : Nat) (a : α) :
    SMap.get d (SMap.insert m n a) k = if k = n then a else SMap.get d m k := by
  induction m with
  | nil => simp [SMap.insert, SMap.get]
  | cons e r ih =>
    obtain ⟨j, v⟩ := e
    simp only [SMap.insert]
    split
    · subst_vars
      simp only [SMap.get]
      split <;> simp_all
    · split
      · simp only [SMap.get]
      · simp only [SMap.get, ih]
        split <;> split <;> simp_all

theorem get_filter (d : α) (m : SMap α) (p : Nat → Bool) (k : Nat) :
    SMap.get d (m.filter fun e => p e.1) k = if p k then SMap.get d m k else d := by
  induction m with
  | nil => simp [SMap.get]
  | cons e r ih =>
    obtain ⟨j, v⟩ := e
    rw [List.filter_cons]
    by_cases hj : p j <;> by_cases hk : k = j <;> simp_all [SMap.get]

theorem get_erase (d : α) (m : SMap α) (n k : Nat) :
    SMap.get d (SMap.erase m n) k = if k = n then d else SMap.get d m k := by
  rw [SMap.erase, get_filter d m (fun j => decide (j ≠ n)) k]
  by_cases h : k = n <;> simp [h]

variable [DecidableEq α]

theorem get_set (d : α) (m : SMap α) (n k : Nat) (a : α) :
    SMap.get d (SMap.set d m n a) k = if k = n then a else SMap.get d m k := by
  simp only [SMap.set]
  split
  · subst_vars; exact get_erase _ m n k
  · exact get_insert d m n k a

@[simp] theorem get_set_same (d : α) (m : SMap α) (n : Nat) (a : α) :
    SMap.get d (SMap.set d m n a) n = a := by simp [get_set]

@[simp] theorem get_set_other (d : α) (m : SMap α) {n k : Nat} (a : α) (h : k ≠ n) :
    SMap.get d (SMap.set d m n a) k = SMap.get d m k := by simp [get_set, h]

@[simp] theorem get_modify_same (d : α) (m : SMap α) (n : Nat) (f : α → α) :
    SMap.get d (SMap.modify d m n f) n = f (SMap.get d m n) := by simp [SMap.modify]

@[simp] theorem get_modify_other (d : α) (m : SMap α) {n k : Nat} (f : α → α) (h : k ≠ n) :
    SMap.get d (SMap.modify d m n f) k = SMap.get d m k := by simp [SMap.modify, h]

/-! ### The canonical form is kept -/

omit [DecidableEq α] in
theorem risingFrom_mono {lo hi : Nat} (h : hi ≤ lo) {m : SMap α} (hm : SMap.risingFrom lo m = true) :
    SMap.risingFrom hi m = true := by
  cases m with
  | nil => rfl
  | cons e r => simp_all [SMap.risingFrom]; omega

omit [DecidableEq α] in
theorem risingFrom_filter {lo : Nat} (p : Nat × α → Bool) {m : SMap α} (hm : SMap.risingFrom lo m = true) :
    SMap.risingFrom lo (m.filter p) = true := by
  induction m generalizing lo with
  | nil => rfl
  | cons e r ih =>
    obtain ⟨k, v⟩ := e
    simp only [SMap.risingFrom, Bool.and_eq_true, decide_eq_true_eq] at hm
    rw [List.filter_cons]
    split
    · simp [SMap.risingFrom, hm.1, ih hm.2]
    · exact risingFrom_mono (by omega) (ih hm.2)

omit [DecidableEq α] in
theorem risingFrom_insert {lo : Nat} {m : SMap α} (hm : SMap.risingFrom lo m = true) {n : Nat} (h : lo ≤ n) (a : α) :
    SMap.risingFrom lo (SMap.insert m n a) = true := by
  induction m generalizing lo with
  | nil => simp [SMap.insert, SMap.risingFrom, h]
  | cons e r ih =>
    obtain ⟨k, v⟩ := e
    simp only [SMap.risingFrom, Bool.and_eq_true, decide_eq_true_eq] at hm
    simp only [SMap.insert]
    split
    · simp_all [SMap.risingFrom]
    · split
      · simp [SMap.risingFrom, h, hm.2]; omega
      · have := ih hm.2 (by omega)
        simp [SMap.risingFrom, hm.1, this]

theorem wf_nil (d : α) : SMap.wf d [] = true := rfl

theorem wf_filter (d : α) (p : Nat × α → Bool) {m : SMap α} (h : SMap.wf d m = true) : SMap.wf d (m.filter p) = true := by
  simp only [SMap.wf, Bool.and_eq_true, List.all_eq_true] at *
  exact ⟨risingFrom_filter p h.1, fun x hx => h.2 x (List.mem_filter.1 hx).1⟩

theorem wf_set (d : α) {m : SMap α} (h : SMap.wf d m = true) (n : Nat) (a : α) : SMap.wf d (SMap.set d m n a) = true := by
  simp only [SMap.set]
  split
  · exact wf_filter d _ h
  · rename_i ha
    simp only [SMap.wf, Bool.and_eq_true, List.all_eq_true] at *
    refine ⟨risingFrom_insert h.1 (Nat.zero_le _) a, fun x hx => ?_⟩
    have mem : ∀ (m : SMap α) (x : Nat × α), x ∈ SMap.insert m n a → x = (n, a) ∨ x ∈ m := by
      intro m
      induction m with
      | nil => simp [SMap.insert]
      | cons e r ih =>
        intro x hx
        simp only [SMap.insert] at hx
        split at hx
        · rcases List.mem_cons.1 hx with hx | hx <;> simp [hx]
        · split at hx
          · simp_all
          · rcases List.mem_cons.1 hx with hx | hx
            · simp [hx]
            · rcases ih x hx with hx | hx <;> simp [hx]
    rcases mem m x hx with rfl | hx
    · simpa using ha
    · exact h.2 x hx

theorem wf_modify (d : α) {m : SMap α} (h : SMap.wf d m = true) (n : Nat) (f : α → α) :
    SMap.wf d (SMap.modify d m n f) = true := wf_set d h n _

end Sys2Proof.SMap
end

