-- ==== Sys2Proof/Laws/Memory.lean ====
section
/-! SUPPORT. Laws of the memory operations: each keeps the canonical form, a read after a write gives the bytes written to
every party that sees the write, and a write leaves every other byte alone. -/

namespace Sys2Proof.Machine

/-! ### Bytes and numbers -/

@[simp] theorem toBytes_length (n v : Nat) : (toBytes n v).length = n := by
  induction n generalizing v with
  | zero => rfl
  | succ n ih => simp [toBytes, ih]

theorem ofBytes_toBytes (n v : Nat) : ofBytes (toBytes n v) = v % 256 ^ n := by
  induction n generalizing v with
  | zero => simp [toBytes, ofBytes, Nat.mod_one]
  | succ n ih =>
    have h : v % 256 ^ (n + 1) = v % 256 + 256 * (v / 256 % 256 ^ n) := by
      rw [Nat.pow_succ, Nat.mul_comm (256 ^ n) 256, Nat.mod_mul]
    rw [h, toBytes, ofBytes, ih]
    rfl

/-! ### Stores at home -/

theorem get_writeBytes (bs : List Byte) : ∀ (m : SMap Byte) (k a : Nat), SMap.get 0 (writeBytes m k bs) a =
    if k ≤ a ∧ a < k + bs.length then bs.getD (a - k) 0 else SMap.get 0 m a := by
  induction bs with
  | nil => intro m k a; simp [writeBytes]
  | cons b r ih =>
    intro m k a
    simp only [writeBytes, ih, SMap.get_set, List.length_cons]
    by_cases h : a = k
    · subst h
      rw [if_neg (by omega), if_pos rfl, if_pos (by omega)]
      simp
    · by_cases h2 : k + 1 ≤ a ∧ a < k + 1 + r.length
      · rw [if_pos h2, if_pos (by omega)]
        have : a - k = (a - (k + 1)) + 1 := by omega
        rw [this, List.getD_cons_succ]
      · rw [if_neg h2, if_neg h, if_neg (by omega)]

theorem wf_writeBytes (bs : List Byte) : ∀ (m : SMap Byte) (k : Nat), SMap.wf 0 m = true → SMap.wf 0 (writeBytes m k bs) = true := by
  induction bs with
  | nil => intro m k h; exact h
  | cons b r ih => intro m k h; exact ih _ _ (SMap.wf_set 0 h k b)

theorem get_setTags (t : Bool) : ∀ (n : Nat) (m : SMap Bool) (g a : Nat), SMap.get false (setTags m g n t) a =
    if g ≤ a ∧ a < g + n then t else SMap.get false m a := by
  intro n
  induction n with
  | zero => intro m g a; simp [setTags]
  | succ n ih =>
    intro m g a
    simp only [setTags, ih, SMap.get_set]
    by_cases h : a = g
    · subst h
      rw [if_neg (by omega), if_pos rfl, if_pos (by omega)]
    · by_cases h2 : g + 1 ≤ a ∧ a < g + 1 + n
      · rw [if_pos h2, if_pos (by omega)]
      · rw [if_neg h2, if_neg h, if_neg (by omega)]

theorem wf_setTags (t : Bool) : ∀ (n : Nat) (m : SMap Bool) (g : Nat), SMap.wf false m = true →
    SMap.wf false (setTags m g n t) = true := by
  intro n
  induction n with
  | zero => intro m g h; exact h
  | succ n ih => intro m g h; exact ih _ _ (SMap.wf_set false h g t)

theorem wf_clearPoison {p : SMap Bool} (k n : Nat) (h : SMap.wf false p = true) : SMap.wf false (clearPoison p k n) = true :=
  SMap.wf_filter false _ h

/-! ### The canonical form is kept -/

theorem Mem.wf_iff (m : Mem) : m.wf = true ↔
    SMap.wf (0 : Byte) m.bytes = true ∧ SMap.wf false m.tags = true ∧ SMap.wf false m.poison = true := by
  simp [Mem.wf, and_assoc]

/-- The canonical form depends on the three maps alone. -/
theorem Mem.wf_congr {m m' : Mem} (hb : m'.bytes = m.bytes) (ht : m'.tags = m.tags) (hp : m'.poison = m.poison) :
    m'.wf = m.wf := by simp [Mem.wf, hb, ht, hp]

theorem Mem.reset_wf : Mem.reset.wf = true := rfl

theorem Mem.wf_commit {m : Mem} (h : m.wf = true) (k : Nat) (bs : List Byte) (tag : Bool) : (m.commit k bs tag).wf = true := by
  rw [Mem.wf_iff] at *
  exact ⟨wf_writeBytes bs _ k h.1, wf_setTags tag _ _ _ h.2.1, wf_clearPoison k _ h.2.2⟩

@[simp] theorem Mem.settleRels_bytes (m : Mem) (w : Staged) : (m.settleRels w).bytes = m.bytes := rfl
@[simp] theorem Mem.settleRels_tags (m : Mem) (w : Staged) : (m.settleRels w).tags = m.tags := rfl
@[simp] theorem Mem.wf_settleRels (m : Mem) (w : Staged) : (m.settleRels w).wf = m.wf := rfl

theorem wf_flushFront (l : List Staged) : ∀ m : Mem, m.wf = true → (flushFront l m).wf = true := by
  induction l with
  | nil => intro m h; exact h
  | cons w r ih =>
    intro m h
    simp only [flushFront]
    split
    · exact ih _ (Mem.wf_commit (m := m) h _ _ _)
    · exact h

theorem Mem.wf_writeTag {m : Mem} (h : m.wf = true) (u lvl k : Nat) (bs : List Byte) (tag : Bool) :
    (m.writeTag u lvl k bs tag).wf = true := wf_flushFront _ _ h

theorem Mem.wf_write {m : Mem} (h : m.wf = true) (u lvl k : Nat) (bs : List Byte) : (m.write u lvl k bs).wf = true :=
  Mem.wf_writeTag h u lvl k bs false

theorem Mem.wf_propagate {m : Mem} (h : m.wf = true) (id : Nat) : (m.propagate id).wf = true := wf_flushFront _ _ h

theorem Mem.wf_wipe {m : Mem} (h : m.wf = true) (k n : Nat) : (m.wipe k n).wf = true := by
  rw [Mem.wf_iff] at *
  exact ⟨SMap.wf_filter 0 _ h.1, SMap.wf_filter false _ h.2.1, SMap.wf_filter false _ h.2.2⟩

theorem Mem.wf_copyBytes {m : Mem} (h : m.wf = true) (src dst n : Nat) : (m.copyBytes src dst n).wf = true := by
  have step : ∀ (l : List Nat) (t : Mem), t.wf = true → (l.foldl (fun t i => if m.tagAt .bank (src + 16 * i) then
      t.writeTag 0 4 (dst + 16 * i) (m.read .bank (src + 16 * i) 16) true else t) t).wf = true := by
    intro l
    induction l with
    | nil => intro t ht; exact ht
    | cons i r ih =>
      intro t ht
      simp only [List.foldl_cons]
      split
      · exact ih _ (Mem.wf_writeTag ht _ _ _ _ _)
      · exact ih _ ht
  exact step _ _ (Mem.wf_write h _ _ _ _)

theorem Mem.wf_copyTagged {m : Mem} (h : m.wf = true) (src dst n : Nat) : (m.copyTagged src dst n).wf = true := by
  have hb := Mem.wf_copyBytes h src dst n
  unfold Mem.copyTagged
  dsimp only
  split
  · exact hb
  · exact hb

/-- Memory with no poison and no stack out of service shows none to anyone. -/
theorem Mem.poisonFor_of_clean {m : Mem} (hp : m.poison = []) (hd : m.dead = []) (v : Viewer) (k n : Nat) : m.poisonFor v k n = false := by
  simp [Mem.poisonFor, Mem.deadAt, hp, hd]

/-- Noting that a write is a release leaves everything that anyone reads. -/
@[simp] theorem Mem.wf_noteRels (m : Mem) (id k n : Nat) (l : List Rel) : (m.noteRels id k n l).wf = m.wf := by
  unfold Mem.noteRels
  split
  · rfl
  · split <;> rfl

/-- Noting what made a write leaves everything that anyone reads. -/
@[simp] theorem Mem.wf_noteBy (m : Mem) (id maker : Nat) : (m.noteBy id maker).wf = m.wf := rfl

theorem Mem.wf_overlay {m : Mem} (h : m.wf = true) (l : List (Nat × Byte)) : (m.overlay l).wf = true := by
  unfold Mem.overlay
  induction l generalizing m with
  | nil => exact h
  | cons c r ih => exact ih (Mem.wf_write h _ _ _ _)

theorem Mem.wf_setPoison {m : Mem} (h : m.wf = true) (k : Nat) : (m.setPoison k).wf = true := by
  rw [Mem.wf_iff] at *
  exact ⟨h.1, h.2.1, SMap.wf_set false h.2.2 (k / 64) true⟩

/-! ### What a party reads -/

theorem seenBy_of_widest {w : Staged} (h : maxLevel (keyRegion w.key) ≤ w.lvl) (v : Viewer) : w.seenBy v = true := by
  simp [Staged.seenBy, h]

/-- The unit that makes a write sees it at once. -/
theorem seenBy_self (id u lvl k : Nat) (bs : List Byte) (t : Bool) (w : Nat) (l : List RelAt) : Staged.seenBy ⟨id, u, lvl, k, bs, t, w, l⟩ (.unit u) = true := by
  simp only [Staged.seenBy, visible]
  rcases Nat.lt_or_ge lvl 3 with h | h
  · have : lvl = 0 ∨ lvl = 1 ∨ lvl = 2 := by omega
    rcases this with rfl | rfl | rfl <;> simp
  · simp [h]

theorem stagedByte_append (v : Viewer) (k : Nat) (w : Staged) : ∀ (l : List Staged) (b : Byte),
    stagedByte v k b (l ++ [w]) = if w.seenBy v && decide (w.key ≤ k) && decide (k < w.key + w.bytes.length)
      then w.bytes.getD (k - w.key) 0 else stagedByte v k b l := by
  intro l
  induction l with
  | nil => intro b; rfl
  | cons x r ih => intro b; simp only [List.cons_append, stagedByte, ih]

theorem byte_flushFront (v : Viewer) (k : Nat) : ∀ (l : List Staged) (m : Mem),
    (flushFront l m).byte v k = stagedByte v k (SMap.get 0 m.bytes k) l := by
  intro l
  induction l with
  | nil => intro m; rfl
  | cons w r ih =>
    intro m
    simp only [flushFront]
    split
    · rename_i h
      rw [ih]
      simp only [Mem.settleRels_bytes, Mem.commit, get_writeBytes, stagedByte, seenBy_of_widest h v, Bool.true_and, Bool.and_eq_true, decide_eq_true_eq]
    · rfl

/-- One byte after a write: the new byte for a party that sees the write, and the old one for every other byte and party. -/
theorem Mem.byte_writeTag (m : Mem) (u lvl k : Nat) (bs : List Byte) (tag : Bool) (v : Viewer) (a : Nat) :
    (m.writeTag u lvl k bs tag).byte v a =
      if Staged.seenBy ⟨m.nextId, u, lvl, k, bs, tag, 0, []⟩ v && decide (k ≤ a) && decide (a < k + bs.length)
        then bs.getD (a - k) 0 else m.byte v a := by
  simp only [Mem.writeTag, byte_flushFront, stagedByte_append]
  rfl

theorem Mem.byte_writeTag_outside (m : Mem) (u lvl k : Nat) (bs : List Byte) (tag : Bool) (v : Viewer) {a : Nat}
    (h : a < k ∨ k + bs.length ≤ a) : (m.writeTag u lvl k bs tag).byte v a = m.byte v a := by
  rw [Mem.byte_writeTag, if_neg]
  simp only [Bool.and_eq_true, decide_eq_true_eq]
  omega

theorem Mem.byte_writeTag_self (m : Mem) (u lvl k : Nat) (bs : List Byte) (tag : Bool) {a : Nat}
    (h : k ≤ a ∧ a < k + bs.length) : (m.writeTag u lvl k bs tag).byte (.unit u) a = bs.getD (a - k) 0 := by
  rw [Mem.byte_writeTag, seenBy_self, if_pos]
  simpa using h

theorem Mem.byte_write_outside (m : Mem) (u lvl k : Nat) (bs : List Byte) (v : Viewer) {a : Nat}
    (h : a < k ∨ k + bs.length ≤ a) : (m.write u lvl k bs).byte v a = m.byte v a := Mem.byte_writeTag_outside m u lvl k bs false v h

theorem Mem.byte_write_self (m : Mem) (u lvl k : Nat) (bs : List Byte) {a : Nat} (h : k ≤ a ∧ a < k + bs.length) :
    (m.write u lvl k bs).byte (.unit u) a = bs.getD (a - k) 0 := Mem.byte_writeTag_self m u lvl k bs false h

/-- A read of the bytes just written, by the unit that wrote them. -/
theorem Mem.read_writeTag_self (m : Mem) (u lvl k : Nat) (bs : List Byte) (tag : Bool) :
    (m.writeTag u lvl k bs tag).read (.unit u) k bs.length = bs := by
  apply List.ext_getElem
  · simp [Mem.read]
  · intro i h1 h2
    simp only [Mem.read, List.getElem_map, List.getElem_range]
    rw [Mem.byte_writeTag_self m u lvl k bs tag (by simp [Mem.read] at h1; omega)]
    simp [List.getD_eq_getElem?_getD, h2]

theorem Mem.read_writeTag_outside (m : Mem) (u lvl k : Nat) (bs : List Byte) (tag : Bool) (v : Viewer) {a n : Nat}
    (h : a + n ≤ k ∨ k + bs.length ≤ a) : (m.writeTag u lvl k bs tag).read v a n = m.read v a n := by
  simp only [Mem.read]
  apply List.map_congr_left
  intro i hi
  have := List.mem_range.1 hi
  exact Mem.byte_writeTag_outside m u lvl k bs tag v (by omega)

theorem Mem.num_writeTag_outside (m : Mem) (u lvl k : Nat) (bs : List Byte) (tag : Bool) (v : Viewer) {a n : Nat}
    (h : a + n ≤ k ∨ k + bs.length ≤ a) : (m.writeTag u lvl k bs tag).num v a n = m.num v a n := by
  simp only [Mem.num, Mem.read_writeTag_outside m u lvl k bs tag v h]

/-- A number just written in `n` bytes reads as itself modulo 2^(8n). -/
theorem Mem.num_write_self (m : Mem) (u lvl k n v : Nat) (tag : Bool) :
    (m.writeTag u lvl k (toBytes n v) tag).num (.unit u) k n = v % 256 ^ n := by
  have h := Mem.read_writeTag_self m u lvl k (toBytes n v) tag
  rw [toBytes_length] at h
  simp only [Mem.num, h, ofBytes_toBytes]

theorem stagedTag_append (v : Viewer) (g : Nat) (w : Staged) : ∀ (l : List Staged) (t : Bool),
    stagedTag v g t (l ++ [w]) = if w.seenBy v && touchesGranule w g then w.tag else stagedTag v g t l := by
  intro l
  induction l with
  | nil => intro b; rfl
  | cons x r ih => intro b; simp only [List.cons_append, stagedTag, ih]

theorem touchesGranule_iff (w : Staged) (g : Nat) : touchesGranule w g =
    decide (w.key / 16 ≤ g ∧ g < w.key / 16 + granules 16 w.key w.bytes.length) := by
  have hl : w.bytes = [] ↔ w.bytes.length = 0 := by simp
  by_cases h : w.bytes = []
  · simp [touchesGranule, granules, h]
  · have h0 : w.bytes.length ≠ 0 := fun h' => h (hl.2 h')
    simp only [touchesGranule, granules, h0, if_false, h, ne_eq, not_false_eq_true, decide_true, Bool.and_true]
    have := Nat.div_le_div_right (c := 16) (show w.key ≤ w.key + w.bytes.length - 1 by omega)
    rw [← Bool.decide_and, decide_eq_decide]
    omega

theorem tagAt_flushFront (v : Viewer) (k : Nat) : ∀ (l : List Staged) (m : Mem),
    (flushFront l m).tagAt v k = stagedTag v (k / 16) (SMap.get false m.tags (k / 16)) l := by
  intro l
  induction l with
  | nil => intro m; rfl
  | cons w r ih =>
    intro m
    simp only [flushFront]
    split
    · rename_i h
      rw [ih]
      simp only [Mem.settleRels_tags, Mem.commit, get_setTags, stagedTag, seenBy_of_widest h v, Bool.true_and, touchesGranule_iff, decide_eq_true_eq]
    · rfl

/-- The tag of a granule after a write (R104). -/
theorem Mem.tagAt_writeTag (m : Mem) (u lvl k : Nat) (bs : List Byte) (tag : Bool) (v : Viewer) (a : Nat) :
    (m.writeTag u lvl k bs tag).tagAt v a =
      if Staged.seenBy ⟨m.nextId, u, lvl, k, bs, tag, 0, []⟩ v && touchesGranule ⟨m.nextId, u, lvl, k, bs, tag, 0, []⟩ (a / 16)
        then tag else m.tagAt v a := by
  simp only [Mem.writeTag, tagAt_flushFront, stagedTag_append]
  rfl

/-! ### Releases leave what memory holds -/

theorem stagedByte_map (v : Viewer) (k : Nat) (f : Staged → Staged) (hk : ∀ w, (f w).key = w.key) (hb : ∀ w, (f w).bytes = w.bytes)
    (hs : ∀ w, (f w).seenBy v = w.seenBy v) : ∀ (l : List Staged) (b : Byte), stagedByte v k b (l.map f) = stagedByte v k b l := by
  intro l
  induction l with
  | nil => intro b; rfl
  | cons w r ih => intro b; simp only [List.map_cons, stagedByte, ih, hk, hb, hs]

@[simp] theorem Mem.byte_noteRels (m : Mem) (id k n : Nat) (l : List Rel) (v : Viewer) (a : Nat) :
    (m.noteRels id k n l).byte v a = m.byte v a := by
  unfold Mem.noteRels
  split
  · rfl
  · split
    · refine stagedByte_map v a _ ?_ ?_ ?_ m.staged _
      all_goals (intro w; by_cases h : w.id = id <;> simp [h, Staged.seenBy])
    · rfl

@[simp] theorem Mem.read_noteRels (m : Mem) (id k n : Nat) (l : List Rel) (v : Viewer) (a c : Nat) :
    (m.noteRels id k n l).read v a c = m.read v a c := by
  simp only [Mem.read, Mem.byte_noteRels]

end Sys2Proof.Machine
end

