-- ==== Sys2Proof/Laws/State.lean ====
section
/-! SUPPORT. What each update of the state leaves in each field, so that no proof unfolds a record update. -/

namespace Sys2Proof.Machine

/-! ### Updates of the whole state -/

@[simp] theorem State.setUnit_clusters (s : State) (u : Nat) (U : UnitSt) : (s.setUnit u U).clusters = s.clusters := rfl
@[simp] theorem State.setUnit_dies (s : State) (u : Nat) (U : UnitSt) : (s.setUnit u U).dies = s.dies := rfl
@[simp] theorem State.setUnit_mem (s : State) (u : Nat) (U : UnitSt) : (s.setUnit u U).mem = s.mem := rfl
@[simp] theorem State.setUnit_hub (s : State) (u : Nat) (U : UnitSt) : (s.setUnit u U).hub = s.hub := rfl
@[simp] theorem State.setUnit_camp (s : State) (u : Nat) (U : UnitSt) : (s.setUnit u U).camp = s.camp := rfl
@[simp] theorem State.setUnit_inbox (s : State) (u : Nat) (U : UnitSt) : (s.setUnit u U).inbox = s.inbox := rfl
@[simp] theorem State.setUnit_supText (s : State) (u : Nat) (U : UnitSt) : (s.setUnit u U).supText = s.supText := rfl
@[simp] theorem State.setUnit_time (s : State) (u : Nat) (U : UnitSt) : (s.setUnit u U).time = s.time := rfl
@[simp] theorem State.setUnit_races (s : State) (u : Nat) (U : UnitSt) : (s.setUnit u U).races = s.races := rfl
@[simp] theorem State.setUnit_raceNext (s : State) (u : Nat) (U : UnitSt) : (s.setUnit u U).raceNext = s.raceNext := rfl
@[simp] theorem State.setUnit_who (s : State) (u : Nat) (U : UnitSt) : (s.setUnit u U).who = s.who := rfl
@[simp] theorem State.setUnit_agenda (s : State) (u : Nat) (U : UnitSt) : (s.setUnit u U).agenda = s.agenda := rfl
@[simp] theorem State.setUnit_tick (s : State) (u : Nat) (U : UnitSt) : (s.setUnit u U).tick = s.tick := rfl
@[simp] theorem State.setUnit_cluster (s : State) (u : Nat) (U : UnitSt) (k : Nat) : (s.setUnit u U).cluster k = s.cluster k := rfl
@[simp] theorem State.setUnit_die (s : State) (u : Nat) (U : UnitSt) (k : Nat) : (s.setUnit u U).die k = s.die k := rfl
@[simp] theorem State.setUnit_task (s : State) (u : Nat) (U : UnitSt) (k : Nat) : (s.setUnit u U).task k = s.task k := rfl
@[simp] theorem State.setUnit_graph (s : State) (u : Nat) (U : UnitSt) (k : Nat) : (s.setUnit u U).graph k = s.graph k := rfl

@[simp] theorem State.setCluster_units (s : State) (c : Nat) (C : Cluster) : (s.setCluster c C).units = s.units := rfl
@[simp] theorem State.setCluster_dies (s : State) (c : Nat) (C : Cluster) : (s.setCluster c C).dies = s.dies := rfl
@[simp] theorem State.setCluster_mem (s : State) (c : Nat) (C : Cluster) : (s.setCluster c C).mem = s.mem := rfl
@[simp] theorem State.setCluster_hub (s : State) (c : Nat) (C : Cluster) : (s.setCluster c C).hub = s.hub := rfl
@[simp] theorem State.setCluster_camp (s : State) (c : Nat) (C : Cluster) : (s.setCluster c C).camp = s.camp := rfl
@[simp] theorem State.setCluster_inbox (s : State) (c : Nat) (C : Cluster) : (s.setCluster c C).inbox = s.inbox := rfl
@[simp] theorem State.setCluster_supText (s : State) (c : Nat) (C : Cluster) : (s.setCluster c C).supText = s.supText := rfl
@[simp] theorem State.setCluster_time (s : State) (c : Nat) (C : Cluster) : (s.setCluster c C).time = s.time := rfl
@[simp] theorem State.setCluster_races (s : State) (c : Nat) (C : Cluster) : (s.setCluster c C).races = s.races := rfl
@[simp] theorem State.setCluster_raceNext (s : State) (c : Nat) (C : Cluster) : (s.setCluster c C).raceNext = s.raceNext := rfl
@[simp] theorem State.setCluster_who (s : State) (c : Nat) (C : Cluster) : (s.setCluster c C).who = s.who := rfl
@[simp] theorem State.setCluster_agenda (s : State) (c : Nat) (C : Cluster) : (s.setCluster c C).agenda = s.agenda := rfl
@[simp] theorem State.setCluster_tick (s : State) (c : Nat) (C : Cluster) : (s.setCluster c C).tick = s.tick := rfl
@[simp] theorem State.setCluster_unit (s : State) (c : Nat) (C : Cluster) (v : Nat) : (s.setCluster c C).unit v = s.unit v := rfl
@[simp] theorem State.setCluster_die (s : State) (c : Nat) (C : Cluster) (k : Nat) : (s.setCluster c C).die k = s.die k := rfl
@[simp] theorem State.setCluster_task (s : State) (c : Nat) (C : Cluster) (k : Nat) : (s.setCluster c C).task k = s.task k := rfl
@[simp] theorem State.setCluster_graph (s : State) (c : Nat) (C : Cluster) (k : Nat) : (s.setCluster c C).graph k = s.graph k := rfl

@[simp] theorem State.setDie_units (s : State) (d : Nat) (D : Die) : (s.setDie d D).units = s.units := rfl
@[simp] theorem State.setDie_clusters (s : State) (d : Nat) (D : Die) : (s.setDie d D).clusters = s.clusters := rfl
@[simp] theorem State.setDie_mem (s : State) (d : Nat) (D : Die) : (s.setDie d D).mem = s.mem := rfl
@[simp] theorem State.setDie_hub (s : State) (d : Nat) (D : Die) : (s.setDie d D).hub = s.hub := rfl
@[simp] theorem State.setDie_camp (s : State) (d : Nat) (D : Die) : (s.setDie d D).camp = s.camp := rfl
@[simp] theorem State.setDie_inbox (s : State) (d : Nat) (D : Die) : (s.setDie d D).inbox = s.inbox := rfl
@[simp] theorem State.setDie_supText (s : State) (d : Nat) (D : Die) : (s.setDie d D).supText = s.supText := rfl
@[simp] theorem State.setDie_time (s : State) (d : Nat) (D : Die) : (s.setDie d D).time = s.time := rfl
@[simp] theorem State.setDie_races (s : State) (d : Nat) (D : Die) : (s.setDie d D).races = s.races := rfl
@[simp] theorem State.setDie_raceNext (s : State) (d : Nat) (D : Die) : (s.setDie d D).raceNext = s.raceNext := rfl
@[simp] theorem State.setDie_who (s : State) (d : Nat) (D : Die) : (s.setDie d D).who = s.who := rfl
@[simp] theorem State.setDie_agenda (s : State) (d : Nat) (D : Die) : (s.setDie d D).agenda = s.agenda := rfl
@[simp] theorem State.setDie_tick (s : State) (d : Nat) (D : Die) : (s.setDie d D).tick = s.tick := rfl
@[simp] theorem State.setDie_unit (s : State) (d : Nat) (D : Die) (v : Nat) : (s.setDie d D).unit v = s.unit v := rfl
@[simp] theorem State.setDie_cluster (s : State) (d : Nat) (D : Die) (k : Nat) : (s.setDie d D).cluster k = s.cluster k := rfl
@[simp] theorem State.setDie_task (s : State) (d : Nat) (D : Die) (k : Nat) : (s.setDie d D).task k = s.task k := rfl
@[simp] theorem State.setDie_graph (s : State) (d : Nat) (D : Die) (k : Nat) : (s.setDie d D).graph k = s.graph k := rfl

@[simp] theorem State.setTask_units (s : State) (t : Nat) (T : Task) : (s.setTask t T).units = s.units := rfl
@[simp] theorem State.setTask_clusters (s : State) (t : Nat) (T : Task) : (s.setTask t T).clusters = s.clusters := rfl
@[simp] theorem State.setTask_dies (s : State) (t : Nat) (T : Task) : (s.setTask t T).dies = s.dies := rfl
@[simp] theorem State.setTask_mem (s : State) (t : Nat) (T : Task) : (s.setTask t T).mem = s.mem := rfl
@[simp] theorem State.setTask_camp (s : State) (t : Nat) (T : Task) : (s.setTask t T).camp = s.camp := rfl
@[simp] theorem State.setTask_inbox (s : State) (t : Nat) (T : Task) : (s.setTask t T).inbox = s.inbox := rfl
@[simp] theorem State.setTask_supText (s : State) (t : Nat) (T : Task) : (s.setTask t T).supText = s.supText := rfl
@[simp] theorem State.setTask_time (s : State) (t : Nat) (T : Task) : (s.setTask t T).time = s.time := rfl
@[simp] theorem State.setTask_races (s : State) (t : Nat) (T : Task) : (s.setTask t T).races = s.races := rfl
@[simp] theorem State.setTask_raceNext (s : State) (t : Nat) (T : Task) : (s.setTask t T).raceNext = s.raceNext := rfl
@[simp] theorem State.setTask_who (s : State) (t : Nat) (T : Task) : (s.setTask t T).who = s.who := rfl
@[simp] theorem State.setTask_agenda (s : State) (t : Nat) (T : Task) : (s.setTask t T).agenda = s.agenda := rfl
@[simp] theorem State.setTask_tick (s : State) (t : Nat) (T : Task) : (s.setTask t T).tick = s.tick := rfl
@[simp] theorem State.setTask_unit (s : State) (t : Nat) (T : Task) (v : Nat) : (s.setTask t T).unit v = s.unit v := rfl
@[simp] theorem State.setTask_cluster (s : State) (t : Nat) (T : Task) (k : Nat) : (s.setTask t T).cluster k = s.cluster k := rfl
@[simp] theorem State.setTask_die (s : State) (t : Nat) (T : Task) (k : Nat) : (s.setTask t T).die k = s.die k := rfl
@[simp] theorem State.setTask_graph (s : State) (t : Nat) (T : Task) (k : Nat) : (s.setTask t T).graph k = s.graph k := rfl

@[simp] theorem State.setGraph_units (s : State) (g : Nat) (G : Graph) : (s.setGraph g G).units = s.units := rfl
@[simp] theorem State.setGraph_clusters (s : State) (g : Nat) (G : Graph) : (s.setGraph g G).clusters = s.clusters := rfl
@[simp] theorem State.setGraph_dies (s : State) (g : Nat) (G : Graph) : (s.setGraph g G).dies = s.dies := rfl
@[simp] theorem State.setGraph_mem (s : State) (g : Nat) (G : Graph) : (s.setGraph g G).mem = s.mem := rfl
@[simp] theorem State.setGraph_camp (s : State) (g : Nat) (G : Graph) : (s.setGraph g G).camp = s.camp := rfl
@[simp] theorem State.setGraph_inbox (s : State) (g : Nat) (G : Graph) : (s.setGraph g G).inbox = s.inbox := rfl
@[simp] theorem State.setGraph_supText (s : State) (g : Nat) (G : Graph) : (s.setGraph g G).supText = s.supText := rfl
@[simp] theorem State.setGraph_time (s : State) (g : Nat) (G : Graph) : (s.setGraph g G).time = s.time := rfl
@[simp] theorem State.setGraph_races (s : State) (g : Nat) (G : Graph) : (s.setGraph g G).races = s.races := rfl
@[simp] theorem State.setGraph_raceNext (s : State) (g : Nat) (G : Graph) : (s.setGraph g G).raceNext = s.raceNext := rfl
@[simp] theorem State.setGraph_who (s : State) (g : Nat) (G : Graph) : (s.setGraph g G).who = s.who := rfl
@[simp] theorem State.setGraph_agenda (s : State) (g : Nat) (G : Graph) : (s.setGraph g G).agenda = s.agenda := rfl
@[simp] theorem State.setGraph_tick (s : State) (g : Nat) (G : Graph) : (s.setGraph g G).tick = s.tick := rfl
@[simp] theorem State.setGraph_unit (s : State) (g : Nat) (G : Graph) (v : Nat) : (s.setGraph g G).unit v = s.unit v := rfl
@[simp] theorem State.setGraph_cluster (s : State) (g : Nat) (G : Graph) (k : Nat) : (s.setGraph g G).cluster k = s.cluster k := rfl
@[simp] theorem State.setGraph_die (s : State) (g : Nat) (G : Graph) (k : Nat) : (s.setGraph g G).die k = s.die k := rfl
@[simp] theorem State.setGraph_task (s : State) (g : Nat) (G : Graph) (k : Nat) : (s.setGraph g G).task k = s.task k := rfl

@[simp] theorem State.tellHost_units (s : State) (code a b c : Nat) : (s.tellHost code a b c).units = s.units := rfl
@[simp] theorem State.tellHost_clusters (s : State) (code a b c : Nat) : (s.tellHost code a b c).clusters = s.clusters := rfl
@[simp] theorem State.tellHost_dies (s : State) (code a b c : Nat) : (s.tellHost code a b c).dies = s.dies := rfl
@[simp] theorem State.tellHost_mem (s : State) (code a b c : Nat) : (s.tellHost code a b c).mem = s.mem := rfl
@[simp] theorem State.tellHost_camp (s : State) (code a b c : Nat) : (s.tellHost code a b c).camp = s.camp := rfl
@[simp] theorem State.tellHost_inbox (s : State) (code a b c : Nat) : (s.tellHost code a b c).inbox = s.inbox := rfl
@[simp] theorem State.tellHost_supText (s : State) (code a b c : Nat) : (s.tellHost code a b c).supText = s.supText := rfl
@[simp] theorem State.tellHost_time (s : State) (code a b c : Nat) : (s.tellHost code a b c).time = s.time := rfl
@[simp] theorem State.tellHost_races (s : State) (code a b c : Nat) : (s.tellHost code a b c).races = s.races := rfl
@[simp] theorem State.tellHost_raceNext (s : State) (code a b c : Nat) : (s.tellHost code a b c).raceNext = s.raceNext := rfl
@[simp] theorem State.tellHost_who (s : State) (code a b c : Nat) : (s.tellHost code a b c).who = s.who := rfl
@[simp] theorem State.tellHost_agenda (s : State) (code a b c : Nat) : (s.tellHost code a b c).agenda = s.agenda := rfl
@[simp] theorem State.tellHost_tick (s : State) (code a b c : Nat) : (s.tellHost code a b c).tick = s.tick := rfl
@[simp] theorem State.tellHost_unit (s : State) (code a b c : Nat) (v : Nat) : (s.tellHost code a b c).unit v = s.unit v := rfl
@[simp] theorem State.tellHost_cluster (s : State) (code a b c : Nat) (k : Nat) : (s.tellHost code a b c).cluster k = s.cluster k := rfl
@[simp] theorem State.tellHost_die (s : State) (code a b c : Nat) (k : Nat) : (s.tellHost code a b c).die k = s.die k := rfl
@[simp] theorem State.tellHost_task (s : State) (code a b c : Nat) (k : Nat) : (s.tellHost code a b c).task k = s.task k := rfl
@[simp] theorem State.tellHost_graph (s : State) (code a b c : Nat) (k : Nat) : (s.tellHost code a b c).graph k = s.graph k := rfl

@[simp] theorem State.service_units (s : State) (code a : Nat) : (s.service code a).units = s.units := rfl
@[simp] theorem State.service_clusters (s : State) (code a : Nat) : (s.service code a).clusters = s.clusters := rfl
@[simp] theorem State.service_dies (s : State) (code a : Nat) : (s.service code a).dies = s.dies := rfl
@[simp] theorem State.service_mem (s : State) (code a : Nat) : (s.service code a).mem = s.mem := rfl
@[simp] theorem State.service_camp (s : State) (code a : Nat) : (s.service code a).camp = s.camp := rfl
@[simp] theorem State.service_inbox (s : State) (code a : Nat) : (s.service code a).inbox = s.inbox := rfl
@[simp] theorem State.service_supText (s : State) (code a : Nat) : (s.service code a).supText = s.supText := rfl
@[simp] theorem State.service_time (s : State) (code a : Nat) : (s.service code a).time = s.time := rfl
@[simp] theorem State.service_races (s : State) (code a : Nat) : (s.service code a).races = s.races := rfl
@[simp] theorem State.service_raceNext (s : State) (code a : Nat) : (s.service code a).raceNext = s.raceNext := rfl
@[simp] theorem State.service_who (s : State) (code a : Nat) : (s.service code a).who = s.who := rfl
@[simp] theorem State.service_agenda (s : State) (code a : Nat) : (s.service code a).agenda = s.agenda := rfl
@[simp] theorem State.service_tick (s : State) (code a : Nat) : (s.service code a).tick = s.tick := rfl
@[simp] theorem State.service_unit (s : State) (code a : Nat) (v : Nat) : (s.service code a).unit v = s.unit v := rfl
@[simp] theorem State.service_cluster (s : State) (code a : Nat) (k : Nat) : (s.service code a).cluster k = s.cluster k := rfl
@[simp] theorem State.service_die (s : State) (code a : Nat) (k : Nat) : (s.service code a).die k = s.die k := rfl
@[simp] theorem State.service_task (s : State) (code a : Nat) (k : Nat) : (s.service code a).task k = s.task k := rfl
@[simp] theorem State.service_graph (s : State) (code a : Nat) (k : Nat) : (s.service code a).graph k = s.graph k := rfl

@[simp] theorem State.setLink_units (s : State) (l : Nat) (L : Link) : (s.setLink l L).units = s.units := rfl
@[simp] theorem State.setLink_clusters (s : State) (l : Nat) (L : Link) : (s.setLink l L).clusters = s.clusters := rfl
@[simp] theorem State.setLink_dies (s : State) (l : Nat) (L : Link) : (s.setLink l L).dies = s.dies := rfl
@[simp] theorem State.setLink_mem (s : State) (l : Nat) (L : Link) : (s.setLink l L).mem = s.mem := rfl
@[simp] theorem State.setLink_camp (s : State) (l : Nat) (L : Link) : (s.setLink l L).camp = s.camp := rfl
@[simp] theorem State.setLink_inbox (s : State) (l : Nat) (L : Link) : (s.setLink l L).inbox = s.inbox := rfl
@[simp] theorem State.setLink_supText (s : State) (l : Nat) (L : Link) : (s.setLink l L).supText = s.supText := rfl
@[simp] theorem State.setLink_time (s : State) (l : Nat) (L : Link) : (s.setLink l L).time = s.time := rfl
@[simp] theorem State.setLink_races (s : State) (l : Nat) (L : Link) : (s.setLink l L).races = s.races := rfl
@[simp] theorem State.setLink_raceNext (s : State) (l : Nat) (L : Link) : (s.setLink l L).raceNext = s.raceNext := rfl
@[simp] theorem State.setLink_who (s : State) (l : Nat) (L : Link) : (s.setLink l L).who = s.who := rfl
@[simp] theorem State.setLink_agenda (s : State) (l : Nat) (L : Link) : (s.setLink l L).agenda = s.agenda := rfl
@[simp] theorem State.setLink_tick (s : State) (l : Nat) (L : Link) : (s.setLink l L).tick = s.tick := rfl
@[simp] theorem State.setLink_unit (s : State) (l : Nat) (L : Link) (v : Nat) : (s.setLink l L).unit v = s.unit v := rfl
@[simp] theorem State.setLink_cluster (s : State) (l : Nat) (L : Link) (k : Nat) : (s.setLink l L).cluster k = s.cluster k := rfl
@[simp] theorem State.setLink_die (s : State) (l : Nat) (L : Link) (k : Nat) : (s.setLink l L).die k = s.die k := rfl
@[simp] theorem State.setLink_task (s : State) (l : Nat) (L : Link) (k : Nat) : (s.setLink l L).task k = s.task k := rfl
@[simp] theorem State.setLink_graph (s : State) (l : Nat) (L : Link) (k : Nat) : (s.setLink l L).graph k = s.graph k := rfl

@[simp] theorem State.setSil_units (s : State) (l n : Nat) : (s.setSil l n).units = s.units := rfl
@[simp] theorem State.setSil_clusters (s : State) (l n : Nat) : (s.setSil l n).clusters = s.clusters := rfl
@[simp] theorem State.setSil_dies (s : State) (l n : Nat) : (s.setSil l n).dies = s.dies := rfl
@[simp] theorem State.setSil_mem (s : State) (l n : Nat) : (s.setSil l n).mem = s.mem := rfl
@[simp] theorem State.setSil_camp (s : State) (l n : Nat) : (s.setSil l n).camp = s.camp := rfl
@[simp] theorem State.setSil_inbox (s : State) (l n : Nat) : (s.setSil l n).inbox = s.inbox := rfl
@[simp] theorem State.setSil_supText (s : State) (l n : Nat) : (s.setSil l n).supText = s.supText := rfl
@[simp] theorem State.setSil_time (s : State) (l n : Nat) : (s.setSil l n).time = s.time := rfl
@[simp] theorem State.setSil_races (s : State) (l n : Nat) : (s.setSil l n).races = s.races := rfl
@[simp] theorem State.setSil_raceNext (s : State) (l n : Nat) : (s.setSil l n).raceNext = s.raceNext := rfl
@[simp] theorem State.setSil_who (s : State) (l n : Nat) : (s.setSil l n).who = s.who := rfl
@[simp] theorem State.setSil_agenda (s : State) (l n : Nat) : (s.setSil l n).agenda = s.agenda := rfl
@[simp] theorem State.setSil_tick (s : State) (l n : Nat) : (s.setSil l n).tick = s.tick := rfl
@[simp] theorem State.setSil_unit (s : State) (l n : Nat) (v : Nat) : (s.setSil l n).unit v = s.unit v := rfl
@[simp] theorem State.setSil_cluster (s : State) (l n : Nat) (k : Nat) : (s.setSil l n).cluster k = s.cluster k := rfl
@[simp] theorem State.setSil_die (s : State) (l n : Nat) (k : Nat) : (s.setSil l n).die k = s.die k := rfl
@[simp] theorem State.setSil_task (s : State) (l n : Nat) (k : Nat) : (s.setSil l n).task k = s.task k := rfl
@[simp] theorem State.setSil_graph (s : State) (l n : Nat) (k : Nat) : (s.setSil l n).graph k = s.graph k := rfl

@[simp] theorem State.setRemap_units (s : State) (h c : Nat) : (s.setRemap h c).units = s.units := rfl
@[simp] theorem State.setRemap_clusters (s : State) (h c : Nat) : (s.setRemap h c).clusters = s.clusters := rfl
@[simp] theorem State.setRemap_dies (s : State) (h c : Nat) : (s.setRemap h c).dies = s.dies := rfl
@[simp] theorem State.setRemap_mem (s : State) (h c : Nat) : (s.setRemap h c).mem = s.mem := rfl
@[simp] theorem State.setRemap_camp (s : State) (h c : Nat) : (s.setRemap h c).camp = s.camp := rfl
@[simp] theorem State.setRemap_inbox (s : State) (h c : Nat) : (s.setRemap h c).inbox = s.inbox := rfl
@[simp] theorem State.setRemap_supText (s : State) (h c : Nat) : (s.setRemap h c).supText = s.supText := rfl
@[simp] theorem State.setRemap_time (s : State) (h c : Nat) : (s.setRemap h c).time = s.time := rfl
@[simp] theorem State.setRemap_races (s : State) (h c : Nat) : (s.setRemap h c).races = s.races := rfl
@[simp] theorem State.setRemap_raceNext (s : State) (h c : Nat) : (s.setRemap h c).raceNext = s.raceNext := rfl
@[simp] theorem State.setRemap_who (s : State) (h c : Nat) : (s.setRemap h c).who = s.who := rfl
@[simp] theorem State.setRemap_agenda (s : State) (h c : Nat) : (s.setRemap h c).agenda = s.agenda := rfl
@[simp] theorem State.setRemap_tick (s : State) (h c : Nat) : (s.setRemap h c).tick = s.tick := rfl
@[simp] theorem State.setRemap_unit (s : State) (h c : Nat) (v : Nat) : (s.setRemap h c).unit v = s.unit v := rfl
@[simp] theorem State.setRemap_cluster (s : State) (h c : Nat) (k : Nat) : (s.setRemap h c).cluster k = s.cluster k := rfl
@[simp] theorem State.setRemap_die (s : State) (h c : Nat) (k : Nat) : (s.setRemap h c).die k = s.die k := rfl
@[simp] theorem State.setRemap_task (s : State) (h c : Nat) (k : Nat) : (s.setRemap h c).task k = s.task k := rfl
@[simp] theorem State.setRemap_graph (s : State) (h c : Nat) (k : Nat) : (s.setRemap h c).graph k = s.graph k := rfl

@[simp] theorem State.setDove_clusters (s : State) (u : Nat) (D : Dctx) : (s.setDove u D).clusters = s.clusters := rfl
@[simp] theorem State.setDove_dies (s : State) (u : Nat) (D : Dctx) : (s.setDove u D).dies = s.dies := rfl
@[simp] theorem State.setDove_mem (s : State) (u : Nat) (D : Dctx) : (s.setDove u D).mem = s.mem := rfl
@[simp] theorem State.setDove_hub (s : State) (u : Nat) (D : Dctx) : (s.setDove u D).hub = s.hub := rfl
@[simp] theorem State.setDove_camp (s : State) (u : Nat) (D : Dctx) : (s.setDove u D).camp = s.camp := rfl
@[simp] theorem State.setDove_inbox (s : State) (u : Nat) (D : Dctx) : (s.setDove u D).inbox = s.inbox := rfl
@[simp] theorem State.setDove_supText (s : State) (u : Nat) (D : Dctx) : (s.setDove u D).supText = s.supText := rfl
@[simp] theorem State.setDove_time (s : State) (u : Nat) (D : Dctx) : (s.setDove u D).time = s.time := rfl
@[simp] theorem State.setDove_races (s : State) (u : Nat) (D : Dctx) : (s.setDove u D).races = s.races := rfl
@[simp] theorem State.setDove_raceNext (s : State) (u : Nat) (D : Dctx) : (s.setDove u D).raceNext = s.raceNext := rfl
@[simp] theorem State.setDove_who (s : State) (u : Nat) (D : Dctx) : (s.setDove u D).who = s.who := rfl
@[simp] theorem State.setDove_agenda (s : State) (u : Nat) (D : Dctx) : (s.setDove u D).agenda = s.agenda := rfl
@[simp] theorem State.setDove_tick (s : State) (u : Nat) (D : Dctx) : (s.setDove u D).tick = s.tick := rfl
@[simp] theorem State.setDove_cluster (s : State) (u : Nat) (D : Dctx) (k : Nat) : (s.setDove u D).cluster k = s.cluster k := rfl
@[simp] theorem State.setDove_die (s : State) (u : Nat) (D : Dctx) (k : Nat) : (s.setDove u D).die k = s.die k := rfl
@[simp] theorem State.setDove_task (s : State) (u : Nat) (D : Dctx) (k : Nat) : (s.setDove u D).task k = s.task k := rfl
@[simp] theorem State.setDove_graph (s : State) (u : Nat) (D : Dctx) (k : Nat) : (s.setDove u D).graph k = s.graph k := rfl

@[simp] theorem State.setCq_units (s : State) (u n : Nat) (q : List Word32) : (s.setCq u n q).units = s.units := rfl
@[simp] theorem State.setCq_dies (s : State) (u n : Nat) (q : List Word32) : (s.setCq u n q).dies = s.dies := rfl
@[simp] theorem State.setCq_mem (s : State) (u n : Nat) (q : List Word32) : (s.setCq u n q).mem = s.mem := rfl
@[simp] theorem State.setCq_hub (s : State) (u n : Nat) (q : List Word32) : (s.setCq u n q).hub = s.hub := rfl
@[simp] theorem State.setCq_camp (s : State) (u n : Nat) (q : List Word32) : (s.setCq u n q).camp = s.camp := rfl
@[simp] theorem State.setCq_inbox (s : State) (u n : Nat) (q : List Word32) : (s.setCq u n q).inbox = s.inbox := rfl
@[simp] theorem State.setCq_supText (s : State) (u n : Nat) (q : List Word32) : (s.setCq u n q).supText = s.supText := rfl
@[simp] theorem State.setCq_time (s : State) (u n : Nat) (q : List Word32) : (s.setCq u n q).time = s.time := rfl
@[simp] theorem State.setCq_races (s : State) (u n : Nat) (q : List Word32) : (s.setCq u n q).races = s.races := rfl
@[simp] theorem State.setCq_raceNext (s : State) (u n : Nat) (q : List Word32) : (s.setCq u n q).raceNext = s.raceNext := rfl
@[simp] theorem State.setCq_who (s : State) (u n : Nat) (q : List Word32) : (s.setCq u n q).who = s.who := rfl
@[simp] theorem State.setCq_agenda (s : State) (u n : Nat) (q : List Word32) : (s.setCq u n q).agenda = s.agenda := rfl
@[simp] theorem State.setCq_tick (s : State) (u n : Nat) (q : List Word32) : (s.setCq u n q).tick = s.tick := rfl
@[simp] theorem State.setCq_unit (s : State) (u n : Nat) (q : List Word32) (v : Nat) : (s.setCq u n q).unit v = s.unit v := rfl
@[simp] theorem State.setCq_die (s : State) (u n : Nat) (q : List Word32) (k : Nat) : (s.setCq u n q).die k = s.die k := rfl
@[simp] theorem State.setCq_task (s : State) (u n : Nat) (q : List Word32) (k : Nat) : (s.setCq u n q).task k = s.task k := rfl
@[simp] theorem State.setCq_graph (s : State) (u n : Nat) (q : List Word32) (k : Nat) : (s.setCq u n q).graph k = s.graph k := rfl

@[simp] theorem State.setGroup_units (s : State) (u g : Nat) (G : Group) : (s.setGroup u g G).units = s.units := rfl
@[simp] theorem State.setGroup_dies (s : State) (u g : Nat) (G : Group) : (s.setGroup u g G).dies = s.dies := rfl
@[simp] theorem State.setGroup_mem (s : State) (u g : Nat) (G : Group) : (s.setGroup u g G).mem = s.mem := rfl
@[simp] theorem State.setGroup_hub (s : State) (u g : Nat) (G : Group) : (s.setGroup u g G).hub = s.hub := rfl
@[simp] theorem State.setGroup_camp (s : State) (u g : Nat) (G : Group) : (s.setGroup u g G).camp = s.camp := rfl
@[simp] theorem State.setGroup_inbox (s : State) (u g : Nat) (G : Group) : (s.setGroup u g G).inbox = s.inbox := rfl
@[simp] theorem State.setGroup_supText (s : State) (u g : Nat) (G : Group) : (s.setGroup u g G).supText = s.supText := rfl
@[simp] theorem State.setGroup_time (s : State) (u g : Nat) (G : Group) : (s.setGroup u g G).time = s.time := rfl
@[simp] theorem State.setGroup_races (s : State) (u g : Nat) (G : Group) : (s.setGroup u g G).races = s.races := rfl
@[simp] theorem State.setGroup_raceNext (s : State) (u g : Nat) (G : Group) : (s.setGroup u g G).raceNext = s.raceNext := rfl
@[simp] theorem State.setGroup_who (s : State) (u g : Nat) (G : Group) : (s.setGroup u g G).who = s.who := rfl
@[simp] theorem State.setGroup_agenda (s : State) (u g : Nat) (G : Group) : (s.setGroup u g G).agenda = s.agenda := rfl
@[simp] theorem State.setGroup_tick (s : State) (u g : Nat) (G : Group) : (s.setGroup u g G).tick = s.tick := rfl
@[simp] theorem State.setGroup_unit (s : State) (u g : Nat) (G : Group) (v : Nat) : (s.setGroup u g G).unit v = s.unit v := rfl
@[simp] theorem State.setGroup_die (s : State) (u g : Nat) (G : Group) (k : Nat) : (s.setGroup u g G).die k = s.die k := rfl
@[simp] theorem State.setGroup_task (s : State) (u g : Nat) (G : Group) (k : Nat) : (s.setGroup u g G).task k = s.task k := rfl
@[simp] theorem State.setGroup_graph (s : State) (u g : Nat) (G : Group) (k : Nat) : (s.setGroup u g G).graph k = s.graph k := rfl

@[simp] theorem State.setRecTape_units (s : State) (t : Nat) (T : Tape) : (s.setRecTape t T).units = s.units := rfl
@[simp] theorem State.setRecTape_clusters (s : State) (t : Nat) (T : Tape) : (s.setRecTape t T).clusters = s.clusters := rfl
@[simp] theorem State.setRecTape_dies (s : State) (t : Nat) (T : Tape) : (s.setRecTape t T).dies = s.dies := rfl
@[simp] theorem State.setRecTape_mem (s : State) (t : Nat) (T : Tape) : (s.setRecTape t T).mem = s.mem := rfl
@[simp] theorem State.setRecTape_camp (s : State) (t : Nat) (T : Tape) : (s.setRecTape t T).camp = s.camp := rfl
@[simp] theorem State.setRecTape_inbox (s : State) (t : Nat) (T : Tape) : (s.setRecTape t T).inbox = s.inbox := rfl
@[simp] theorem State.setRecTape_supText (s : State) (t : Nat) (T : Tape) : (s.setRecTape t T).supText = s.supText := rfl
@[simp] theorem State.setRecTape_time (s : State) (t : Nat) (T : Tape) : (s.setRecTape t T).time = s.time := rfl
@[simp] theorem State.setRecTape_races (s : State) (t : Nat) (T : Tape) : (s.setRecTape t T).races = s.races := rfl
@[simp] theorem State.setRecTape_raceNext (s : State) (t : Nat) (T : Tape) : (s.setRecTape t T).raceNext = s.raceNext := rfl
@[simp] theorem State.setRecTape_who (s : State) (t : Nat) (T : Tape) : (s.setRecTape t T).who = s.who := rfl
@[simp] theorem State.setRecTape_agenda (s : State) (t : Nat) (T : Tape) : (s.setRecTape t T).agenda = s.agenda := rfl
@[simp] theorem State.setRecTape_tick (s : State) (t : Nat) (T : Tape) : (s.setRecTape t T).tick = s.tick := rfl
@[simp] theorem State.setRecTape_unit (s : State) (t : Nat) (T : Tape) (v : Nat) : (s.setRecTape t T).unit v = s.unit v := rfl
@[simp] theorem State.setRecTape_cluster (s : State) (t : Nat) (T : Tape) (k : Nat) : (s.setRecTape t T).cluster k = s.cluster k := rfl
@[simp] theorem State.setRecTape_die (s : State) (t : Nat) (T : Tape) (k : Nat) : (s.setRecTape t T).die k = s.die k := rfl
@[simp] theorem State.setRecTape_task (s : State) (t : Nat) (T : Tape) (k : Nat) : (s.setRecTape t T).task k = s.task k := rfl
@[simp] theorem State.setRecTape_graph (s : State) (t : Nat) (T : Tape) (k : Nat) : (s.setRecTape t T).graph k = s.graph k := rfl

/-- The clock of a cluster, and with it whether its units' clocks stand still, is all that a change of clock touches. -/
theorem State.clockUnits_frame (s : State) (c : Nat) (b : Bool) : ∃ m, s.clockUnits c b = { s with units := m } := by
  unfold State.clockUnits
  suffices h : ∀ (l : List Nat) (s : State), ∃ m, l.foldl (fun s u =>
      if (s.unit u).run = .free then s else s.setUnit u { s.unit u with stopped := b }) s = { s with units := m } from h _ s
  intro l
  induction l with
  | nil => exact fun s => ⟨s.units, rfl⟩
  | cons u r ih =>
    intro s
    simp only [List.foldl_cons]
    split
    · exact ih s
    · obtain ⟨m, h⟩ := ih (s.setUnit u { s.unit u with stopped := b })
      exact ⟨m, h⟩
theorem State.setClock_frame (s : State) (c : Nat) (K : Clock) :
    ∃ m, s.setClock c K = { s.setCluster c { s.cluster c with clk := K } with units := m } := by
  simp only [State.setClock]
  split
  · exact ⟨s.units, rfl⟩
  · exact State.clockUnits_frame _ c K.relock

@[simp] theorem State.setClock_dies (s : State) (c : Nat) (K : Clock) : (s.setClock c K).dies = s.dies := by
  obtain ⟨m, h⟩ := s.setClock_frame c K; rw [h]; rfl
@[simp] theorem State.setClock_mem (s : State) (c : Nat) (K : Clock) : (s.setClock c K).mem = s.mem := by
  obtain ⟨m, h⟩ := s.setClock_frame c K; rw [h]; rfl
@[simp] theorem State.setClock_hub (s : State) (c : Nat) (K : Clock) : (s.setClock c K).hub = s.hub := by
  obtain ⟨m, h⟩ := s.setClock_frame c K; rw [h]; rfl
@[simp] theorem State.setClock_camp (s : State) (c : Nat) (K : Clock) : (s.setClock c K).camp = s.camp := by
  obtain ⟨m, h⟩ := s.setClock_frame c K; rw [h]; rfl
@[simp] theorem State.setClock_inbox (s : State) (c : Nat) (K : Clock) : (s.setClock c K).inbox = s.inbox := by
  obtain ⟨m, h⟩ := s.setClock_frame c K; rw [h]; rfl
@[simp] theorem State.setClock_supText (s : State) (c : Nat) (K : Clock) : (s.setClock c K).supText = s.supText := by
  obtain ⟨m, h⟩ := s.setClock_frame c K; rw [h]; rfl
@[simp] theorem State.setClock_time (s : State) (c : Nat) (K : Clock) : (s.setClock c K).time = s.time := by
  obtain ⟨m, h⟩ := s.setClock_frame c K; rw [h]; rfl
@[simp] theorem State.setClock_races (s : State) (c : Nat) (K : Clock) : (s.setClock c K).races = s.races := by
  obtain ⟨m, h⟩ := s.setClock_frame c K; rw [h]; rfl
@[simp] theorem State.setClock_raceNext (s : State) (c : Nat) (K : Clock) : (s.setClock c K).raceNext = s.raceNext := by
  obtain ⟨m, h⟩ := s.setClock_frame c K; rw [h]; rfl
@[simp] theorem State.setClock_who (s : State) (c : Nat) (K : Clock) : (s.setClock c K).who = s.who := by
  obtain ⟨m, h⟩ := s.setClock_frame c K; rw [h]; rfl
@[simp] theorem State.setClock_agenda (s : State) (c : Nat) (K : Clock) : (s.setClock c K).agenda = s.agenda := by
  obtain ⟨m, h⟩ := s.setClock_frame c K; rw [h]; rfl
@[simp] theorem State.setClock_tick (s : State) (c : Nat) (K : Clock) : (s.setClock c K).tick = s.tick := by
  obtain ⟨m, h⟩ := s.setClock_frame c K; rw [h]; rfl
@[simp] theorem State.setClock_die (s : State) (c : Nat) (K : Clock) (k : Nat) : (s.setClock c K).die k = s.die k := by
  obtain ⟨m, h⟩ := s.setClock_frame c K; rw [h]; rfl
@[simp] theorem State.setClock_task (s : State) (c : Nat) (K : Clock) (k : Nat) : (s.setClock c K).task k = s.task k := by
  obtain ⟨m, h⟩ := s.setClock_frame c K; rw [h]; rfl
@[simp] theorem State.setClock_graph (s : State) (c : Nat) (K : Clock) (k : Nat) : (s.setClock c K).graph k = s.graph k := by
  obtain ⟨m, h⟩ := s.setClock_frame c K; rw [h]; rfl

/-! ### Reading back -/

@[simp] theorem State.unit_setUnit_same (s : State) (u : Nat) (U : UnitSt) : (s.setUnit u U).unit u = U := by
  simp [State.unit, State.setUnit]
@[simp] theorem State.unit_setUnit_other (s : State) {u v : Nat} (U : UnitSt) (h : v ≠ u) : (s.setUnit u U).unit v = s.unit v := by
  simp [State.unit, State.setUnit, h]
theorem State.unit_setUnit (s : State) (u v : Nat) (U : UnitSt) : (s.setUnit u U).unit v = if v = u then U else s.unit v := by
  simp [State.unit, State.setUnit, SMap.get_set]
@[simp] theorem State.cluster_setCluster_same (s : State) (c : Nat) (C : Cluster) : (s.setCluster c C).cluster c = C := by
  simp [State.cluster, State.setCluster]
@[simp] theorem State.cluster_setCluster_other (s : State) {c k : Nat} (C : Cluster) (h : k ≠ c) :
    (s.setCluster c C).cluster k = s.cluster k := by simp [State.cluster, State.setCluster, h]
theorem State.cluster_setCluster (s : State) (c k : Nat) (C : Cluster) :
    (s.setCluster c C).cluster k = if k = c then C else s.cluster k := by
  simp [State.cluster, State.setCluster, SMap.get_set]
@[simp] theorem State.die_setDie_same (s : State) (d : Nat) (D : Die) : (s.setDie d D).die d = D := by
  simp [State.die, State.setDie]
@[simp] theorem State.die_setDie_other (s : State) {d k : Nat} (D : Die) (h : k ≠ d) : (s.setDie d D).die k = s.die k := by
  simp [State.die, State.setDie, h]
theorem State.die_setDie (s : State) (d k : Nat) (D : Die) : (s.setDie d D).die k = if k = d then D else s.die k := by
  simp [State.die, State.setDie, SMap.get_set]
@[simp] theorem State.task_setTask_same (s : State) (t : Nat) (T : Task) : (s.setTask t T).task t = some T := by
  simp [State.task, State.setTask]
@[simp] theorem State.task_setTask_other (s : State) {t k : Nat} (T : Task) (h : k ≠ t) : (s.setTask t T).task k = s.task k := by
  simp [State.task, State.setTask, h]
theorem State.task_setTask (s : State) (t k : Nat) (T : Task) : (s.setTask t T).task k = if k = t then some T else s.task k := by
  simp [State.task, State.setTask, SMap.get_set]
@[simp] theorem State.graph_setGraph_same (s : State) (g : Nat) (G : Graph) : (s.setGraph g G).graph g = some G := by
  simp [State.graph, State.setGraph]
@[simp] theorem State.graph_setGraph_other (s : State) {g k : Nat} (G : Graph) (h : k ≠ g) :
    (s.setGraph g G).graph k = s.graph k := by simp [State.graph, State.setGraph, h]
@[simp] theorem State.tellHost_events (s : State) (code a b c : Nat) :
    (s.tellHost code a b c).hub.events = s.hub.events ++ [⟨code, a, b, c⟩] := rfl
@[simp] theorem State.service_log (s : State) (code a : Nat) :
    (s.service code a).hub.service = s.hub.service ++ [⟨code, a, 0, 0⟩] := rfl

/-! ### Registers -/

@[simp] theorem Regs.getX_zero (r : Regs) : r.getX 0 = 0 := rfl
theorem Regs.getX_setX (r : Regs) (n k : Nat) (v : Word) :
    (r.setX n v).getX k = if k = n ∧ n ≠ 0 then v else r.getX k := by
  by_cases hn : n = 0
  · subst hn; simp [Regs.setX]
  · by_cases hk : k = 0
    · subst hk; simp [Regs.getX]; omega
    · simp only [Regs.setX, hn, if_false, Regs.getX, hk, SMap.get_set]
      simp [hn]
@[simp] theorem Regs.getK_setX (r : Regs) (n k : Nat) (v : Word) : (r.setX n v).getK k = r.getK k := by
  simp only [Regs.setX]; split <;> rfl
@[simp] theorem Regs.p_setX (r : Regs) (n : Nat) (v : Word) : (r.setX n v).p = r.p := by
  simp only [Regs.setX]; split <;> rfl
theorem Regs.getK_setK (r : Regs) (n k : Nat) (c : Cap) : (r.setK n c).getK k = if k = n then c else r.getK k := by
  simp [Regs.setK, Regs.getK, SMap.get_set]
@[simp] theorem Regs.getX_setK (r : Regs) (n k : Nat) (c : Cap) : (r.setK n c).getX k = r.getX k := rfl
@[simp] theorem Regs.p_setK (r : Regs) (n : Nat) (c : Cap) : (r.setK n c).p = r.p := rfl
@[simp] theorem Regs.getX_setP (r : Regs) (n k : Nat) (b : Bool) : (r.setP n b).getX k = r.getX k := by
  simp only [Regs.setP]; split <;> rfl
@[simp] theorem Regs.getK_setP (r : Regs) (n k : Nat) (b : Bool) : (r.setP n b).getK k = r.getK k := by
  simp only [Regs.setP]; split <;> rfl
@[simp] theorem Regs.getX_setPs (r : Regs) (v : Word) (k : Nat) : (r.setPs v).getX k = r.getX k := rfl
@[simp] theorem Regs.getK_setPs (r : Regs) (v : Word) (k : Nat) : (r.setPs v).getK k = r.getK k := rfl

/-! ### Updates of a unit -/

@[simp] theorem UnitSt.setPc_run (U : UnitSt) (e : Eng) (a : Nat) : (U.setPc e a).run = U.run := rfl
@[simp] theorem UnitSt.setPc_regs (U : UnitSt) (e : Eng) (a : Nat) : (U.setPc e a).regs = U.regs := rfl
@[simp] theorem UnitSt.setPc_csr (U : UnitSt) (e : Eng) (a : Nat) : (U.setPc e a).csr = U.csr := rfl
@[simp] theorem UnitSt.setPc_id (U : UnitSt) (e : Eng) (a : Nat) : (U.setPc e a).id = U.id := rfl
@[simp] theorem UnitSt.setPc_work (U : UnitSt) (e : Eng) (a : Nat) : (U.setPc e a).work = U.work := rfl
@[simp] theorem UnitSt.setPc_trap (U : UnitSt) (e : Eng) (a : Nat) : (U.setPc e a).trap = U.trap := rfl
@[simp] theorem UnitSt.setPc_rb (U : UnitSt) (e : Eng) (a : Nat) : (U.setPc e a).rb = U.rb := rfl
@[simp] theorem UnitSt.setPc_sb (U : UnitSt) (e : Eng) (a : Nat) : (U.setPc e a).sb = U.sb := rfl
@[simp] theorem UnitSt.setPc_elems (U : UnitSt) (e : Eng) (a : Nat) : (U.setPc e a).elems = U.elems := rfl
@[simp] theorem UnitSt.setPc_parity (U : UnitSt) (e : Eng) (a : Nat) : (U.setPc e a).parity = U.parity := rfl
@[simp] theorem UnitSt.setPc_bind (U : UnitSt) (e : Eng) (a : Nat) : (U.setPc e a).bind = U.bind := rfl
@[simp] theorem UnitSt.setPc_alloc (U : UnitSt) (e : Eng) (a : Nat) : (U.setPc e a).alloc = U.alloc := rfl
@[simp] theorem UnitSt.setPc_dup (U : UnitSt) (e : Eng) (a : Nat) : (U.setPc e a).dup = U.dup := rfl
@[simp] theorem UnitSt.setPc_dcur (U : UnitSt) (e : Eng) (a : Nat) : (U.setPc e a).dcur = U.dcur := rfl
@[simp] theorem UnitSt.setPc_dupRows (U : UnitSt) (e : Eng) (a : Nat) : (U.setPc e a).dupRows = U.dupRows := rfl
@[simp] theorem UnitSt.setPc_streams (U : UnitSt) (e : Eng) (a : Nat) : (U.setPc e a).streams = U.streams := rfl
@[simp] theorem UnitSt.setPc_wins (U : UnitSt) (e : Eng) (a : Nat) : (U.setPc e a).wins = U.wins := rfl
@[simp] theorem UnitSt.setPc_bsets (U : UnitSt) (e : Eng) (a : Nat) : (U.setPc e a).bsets = U.bsets := rfl
@[simp] theorem UnitSt.setPc_fade (U : UnitSt) (e : Eng) (a : Nat) : (U.setPc e a).fade = U.fade := rfl
@[simp] theorem UnitSt.setPc_group (U : UnitSt) (e : Eng) (a : Nat) : (U.setPc e a).group = U.group := rfl
@[simp] theorem UnitSt.setPc_dove (U : UnitSt) (e : Eng) (a : Nat) : (U.setPc e a).dove = U.dove := rfl
@[simp] theorem UnitSt.setPc_tape (U : UnitSt) (e : Eng) (a : Nat) : (U.setPc e a).tape = U.tape := rfl
@[simp] theorem UnitSt.setPc_bar (U : UnitSt) (e : Eng) (a : Nat) : (U.setPc e a).bar = U.bar := rfl
@[simp] theorem UnitSt.setPc_mchecks (U : UnitSt) (e : Eng) (a : Nat) : (U.setPc e a).mchecks = U.mchecks := rfl
@[simp] theorem UnitSt.setPc_mcCount (U : UnitSt) (e : Eng) (a : Nat) : (U.setPc e a).mcCount = U.mcCount := rfl
@[simp] theorem UnitSt.setPc_retiredMark (U : UnitSt) (e : Eng) (a : Nat) : (U.setPc e a).retiredMark = U.retiredMark := rfl
@[simp] theorem UnitSt.setPc_hb (U : UnitSt) (e : Eng) (a : Nat) : (U.setPc e a).hb = U.hb := rfl
@[simp] theorem UnitSt.setPc_stopped (U : UnitSt) (e : Eng) (a : Nat) : (U.setPc e a).stopped = U.stopped := rfl

@[simp] theorem UnitSt.setRedir_run (U : UnitSt) (e : Eng) (r : Option Redirect) : (U.setRedir e r).run = U.run := rfl
@[simp] theorem UnitSt.setRedir_regs (U : UnitSt) (e : Eng) (r : Option Redirect) : (U.setRedir e r).regs = U.regs := rfl
@[simp] theorem UnitSt.setRedir_csr (U : UnitSt) (e : Eng) (r : Option Redirect) : (U.setRedir e r).csr = U.csr := rfl
@[simp] theorem UnitSt.setRedir_id (U : UnitSt) (e : Eng) (r : Option Redirect) : (U.setRedir e r).id = U.id := rfl
@[simp] theorem UnitSt.setRedir_work (U : UnitSt) (e : Eng) (r : Option Redirect) : (U.setRedir e r).work = U.work := rfl
@[simp] theorem UnitSt.setRedir_trap (U : UnitSt) (e : Eng) (r : Option Redirect) : (U.setRedir e r).trap = U.trap := rfl
@[simp] theorem UnitSt.setRedir_rb (U : UnitSt) (e : Eng) (r : Option Redirect) : (U.setRedir e r).rb = U.rb := rfl
@[simp] theorem UnitSt.setRedir_sb (U : UnitSt) (e : Eng) (r : Option Redirect) : (U.setRedir e r).sb = U.sb := rfl
@[simp] theorem UnitSt.setRedir_elems (U : UnitSt) (e : Eng) (r : Option Redirect) : (U.setRedir e r).elems = U.elems := rfl
@[simp] theorem UnitSt.setRedir_parity (U : UnitSt) (e : Eng) (r : Option Redirect) : (U.setRedir e r).parity = U.parity := rfl
@[simp] theorem UnitSt.setRedir_bind (U : UnitSt) (e : Eng) (r : Option Redirect) : (U.setRedir e r).bind = U.bind := rfl
@[simp] theorem UnitSt.setRedir_alloc (U : UnitSt) (e : Eng) (r : Option Redirect) : (U.setRedir e r).alloc = U.alloc := rfl
@[simp] theorem UnitSt.setRedir_dup (U : UnitSt) (e : Eng) (r : Option Redirect) : (U.setRedir e r).dup = U.dup := rfl
@[simp] theorem UnitSt.setRedir_dcur (U : UnitSt) (e : Eng) (r : Option Redirect) : (U.setRedir e r).dcur = U.dcur := rfl
@[simp] theorem UnitSt.setRedir_dupRows (U : UnitSt) (e : Eng) (r : Option Redirect) : (U.setRedir e r).dupRows = U.dupRows := rfl
@[simp] theorem UnitSt.setRedir_streams (U : UnitSt) (e : Eng) (r : Option Redirect) : (U.setRedir e r).streams = U.streams := rfl
@[simp] theorem UnitSt.setRedir_wins (U : UnitSt) (e : Eng) (r : Option Redirect) : (U.setRedir e r).wins = U.wins := rfl
@[simp] theorem UnitSt.setRedir_bsets (U : UnitSt) (e : Eng) (r : Option Redirect) : (U.setRedir e r).bsets = U.bsets := rfl
@[simp] theorem UnitSt.setRedir_fade (U : UnitSt) (e : Eng) (r : Option Redirect) : (U.setRedir e r).fade = U.fade := rfl
@[simp] theorem UnitSt.setRedir_group (U : UnitSt) (e : Eng) (r : Option Redirect) : (U.setRedir e r).group = U.group := rfl
@[simp] theorem UnitSt.setRedir_dove (U : UnitSt) (e : Eng) (r : Option Redirect) : (U.setRedir e r).dove = U.dove := rfl
@[simp] theorem UnitSt.setRedir_tape (U : UnitSt) (e : Eng) (r : Option Redirect) : (U.setRedir e r).tape = U.tape := rfl
@[simp] theorem UnitSt.setRedir_bar (U : UnitSt) (e : Eng) (r : Option Redirect) : (U.setRedir e r).bar = U.bar := rfl
@[simp] theorem UnitSt.setRedir_mchecks (U : UnitSt) (e : Eng) (r : Option Redirect) : (U.setRedir e r).mchecks = U.mchecks := rfl
@[simp] theorem UnitSt.setRedir_mcCount (U : UnitSt) (e : Eng) (r : Option Redirect) : (U.setRedir e r).mcCount = U.mcCount := rfl
@[simp] theorem UnitSt.setRedir_retiredMark (U : UnitSt) (e : Eng) (r : Option Redirect) : (U.setRedir e r).retiredMark = U.retiredMark := rfl
@[simp] theorem UnitSt.setRedir_hb (U : UnitSt) (e : Eng) (r : Option Redirect) : (U.setRedir e r).hb = U.hb := rfl
@[simp] theorem UnitSt.setRedir_stopped (U : UnitSt) (e : Eng) (r : Option Redirect) : (U.setRedir e r).stopped = U.stopped := rfl

@[simp] theorem UnitSt.setLoops_run (U : UnitSt) (e : Eng) (l : List LoopEnt) : (U.setLoops e l).run = U.run := rfl
@[simp] theorem UnitSt.setLoops_regs (U : UnitSt) (e : Eng) (l : List LoopEnt) : (U.setLoops e l).regs = U.regs := rfl
@[simp] theorem UnitSt.setLoops_csr (U : UnitSt) (e : Eng) (l : List LoopEnt) : (U.setLoops e l).csr = U.csr := rfl
@[simp] theorem UnitSt.setLoops_id (U : UnitSt) (e : Eng) (l : List LoopEnt) : (U.setLoops e l).id = U.id := rfl
@[simp] theorem UnitSt.setLoops_work (U : UnitSt) (e : Eng) (l : List LoopEnt) : (U.setLoops e l).work = U.work := rfl
@[simp] theorem UnitSt.setLoops_trap (U : UnitSt) (e : Eng) (l : List LoopEnt) : (U.setLoops e l).trap = U.trap := rfl
@[simp] theorem UnitSt.setLoops_rb (U : UnitSt) (e : Eng) (l : List LoopEnt) : (U.setLoops e l).rb = U.rb := rfl
@[simp] theorem UnitSt.setLoops_sb (U : UnitSt) (e : Eng) (l : List LoopEnt) : (U.setLoops e l).sb = U.sb := rfl
@[simp] theorem UnitSt.setLoops_elems (U : UnitSt) (e : Eng) (l : List LoopEnt) : (U.setLoops e l).elems = U.elems := rfl
@[simp] theorem UnitSt.setLoops_parity (U : UnitSt) (e : Eng) (l : List LoopEnt) : (U.setLoops e l).parity = U.parity := rfl
@[simp] theorem UnitSt.setLoops_bind (U : UnitSt) (e : Eng) (l : List LoopEnt) : (U.setLoops e l).bind = U.bind := rfl
@[simp] theorem UnitSt.setLoops_alloc (U : UnitSt) (e : Eng) (l : List LoopEnt) : (U.setLoops e l).alloc = U.alloc := rfl
@[simp] theorem UnitSt.setLoops_dup (U : UnitSt) (e : Eng) (l : List LoopEnt) : (U.setLoops e l).dup = U.dup := rfl
@[simp] theorem UnitSt.setLoops_dcur (U : UnitSt) (e : Eng) (l : List LoopEnt) : (U.setLoops e l).dcur = U.dcur := rfl
@[simp] theorem UnitSt.setLoops_dupRows (U : UnitSt) (e : Eng) (l : List LoopEnt) : (U.setLoops e l).dupRows = U.dupRows := rfl
@[simp] theorem UnitSt.setLoops_streams (U : UnitSt) (e : Eng) (l : List LoopEnt) : (U.setLoops e l).streams = U.streams := rfl
@[simp] theorem UnitSt.setLoops_wins (U : UnitSt) (e : Eng) (l : List LoopEnt) : (U.setLoops e l).wins = U.wins := rfl
@[simp] theorem UnitSt.setLoops_bsets (U : UnitSt) (e : Eng) (l : List LoopEnt) : (U.setLoops e l).bsets = U.bsets := rfl
@[simp] theorem UnitSt.setLoops_fade (U : UnitSt) (e : Eng) (l : List LoopEnt) : (U.setLoops e l).fade = U.fade := rfl
@[simp] theorem UnitSt.setLoops_group (U : UnitSt) (e : Eng) (l : List LoopEnt) : (U.setLoops e l).group = U.group := rfl
@[simp] theorem UnitSt.setLoops_dove (U : UnitSt) (e : Eng) (l : List LoopEnt) : (U.setLoops e l).dove = U.dove := rfl
@[simp] theorem UnitSt.setLoops_tape (U : UnitSt) (e : Eng) (l : List LoopEnt) : (U.setLoops e l).tape = U.tape := rfl
@[simp] theorem UnitSt.setLoops_bar (U : UnitSt) (e : Eng) (l : List LoopEnt) : (U.setLoops e l).bar = U.bar := rfl
@[simp] theorem UnitSt.setLoops_mchecks (U : UnitSt) (e : Eng) (l : List LoopEnt) : (U.setLoops e l).mchecks = U.mchecks := rfl
@[simp] theorem UnitSt.setLoops_mcCount (U : UnitSt) (e : Eng) (l : List LoopEnt) : (U.setLoops e l).mcCount = U.mcCount := rfl
@[simp] theorem UnitSt.setLoops_retiredMark (U : UnitSt) (e : Eng) (l : List LoopEnt) : (U.setLoops e l).retiredMark = U.retiredMark := rfl
@[simp] theorem UnitSt.setLoops_hb (U : UnitSt) (e : Eng) (l : List LoopEnt) : (U.setLoops e l).hb = U.hb := rfl
@[simp] theorem UnitSt.setLoops_stopped (U : UnitSt) (e : Eng) (l : List LoopEnt) : (U.setLoops e l).stopped = U.stopped := rfl

@[simp] theorem UnitSt.setTokens_run (U : UnitSt) (p c : Eng) (n : Nat) : (U.setTokens p c n).run = U.run := rfl
@[simp] theorem UnitSt.setTokens_regs (U : UnitSt) (p c : Eng) (n : Nat) : (U.setTokens p c n).regs = U.regs := rfl
@[simp] theorem UnitSt.setTokens_csr (U : UnitSt) (p c : Eng) (n : Nat) : (U.setTokens p c n).csr = U.csr := rfl
@[simp] theorem UnitSt.setTokens_id (U : UnitSt) (p c : Eng) (n : Nat) : (U.setTokens p c n).id = U.id := rfl
@[simp] theorem UnitSt.setTokens_work (U : UnitSt) (p c : Eng) (n : Nat) : (U.setTokens p c n).work = U.work := rfl
@[simp] theorem UnitSt.setTokens_trap (U : UnitSt) (p c : Eng) (n : Nat) : (U.setTokens p c n).trap = U.trap := rfl
@[simp] theorem UnitSt.setTokens_rb (U : UnitSt) (p c : Eng) (n : Nat) : (U.setTokens p c n).rb = U.rb := rfl
@[simp] theorem UnitSt.setTokens_sb (U : UnitSt) (p c : Eng) (n : Nat) : (U.setTokens p c n).sb = U.sb := rfl
@[simp] theorem UnitSt.setTokens_elems (U : UnitSt) (p c : Eng) (n : Nat) : (U.setTokens p c n).elems = U.elems := rfl
@[simp] theorem UnitSt.setTokens_parity (U : UnitSt) (p c : Eng) (n : Nat) : (U.setTokens p c n).parity = U.parity := rfl
@[simp] theorem UnitSt.setTokens_bind (U : UnitSt) (p c : Eng) (n : Nat) : (U.setTokens p c n).bind = U.bind := rfl
@[simp] theorem UnitSt.setTokens_alloc (U : UnitSt) (p c : Eng) (n : Nat) : (U.setTokens p c n).alloc = U.alloc := rfl
@[simp] theorem UnitSt.setTokens_dup (U : UnitSt) (p c : Eng) (n : Nat) : (U.setTokens p c n).dup = U.dup := rfl
@[simp] theorem UnitSt.setTokens_dcur (U : UnitSt) (p c : Eng) (n : Nat) : (U.setTokens p c n).dcur = U.dcur := rfl
@[simp] theorem UnitSt.setTokens_dupRows (U : UnitSt) (p c : Eng) (n : Nat) : (U.setTokens p c n).dupRows = U.dupRows := rfl
@[simp] theorem UnitSt.setTokens_streams (U : UnitSt) (p c : Eng) (n : Nat) : (U.setTokens p c n).streams = U.streams := rfl
@[simp] theorem UnitSt.setTokens_wins (U : UnitSt) (p c : Eng) (n : Nat) : (U.setTokens p c n).wins = U.wins := rfl
@[simp] theorem UnitSt.setTokens_bsets (U : UnitSt) (p c : Eng) (n : Nat) : (U.setTokens p c n).bsets = U.bsets := rfl
@[simp] theorem UnitSt.setTokens_fade (U : UnitSt) (p c : Eng) (n : Nat) : (U.setTokens p c n).fade = U.fade := rfl
@[simp] theorem UnitSt.setTokens_group (U : UnitSt) (p c : Eng) (n : Nat) : (U.setTokens p c n).group = U.group := rfl
@[simp] theorem UnitSt.setTokens_dove (U : UnitSt) (p c : Eng) (n : Nat) : (U.setTokens p c n).dove = U.dove := rfl
@[simp] theorem UnitSt.setTokens_tape (U : UnitSt) (p c : Eng) (n : Nat) : (U.setTokens p c n).tape = U.tape := rfl
@[simp] theorem UnitSt.setTokens_bar (U : UnitSt) (p c : Eng) (n : Nat) : (U.setTokens p c n).bar = U.bar := rfl
@[simp] theorem UnitSt.setTokens_mchecks (U : UnitSt) (p c : Eng) (n : Nat) : (U.setTokens p c n).mchecks = U.mchecks := rfl
@[simp] theorem UnitSt.setTokens_mcCount (U : UnitSt) (p c : Eng) (n : Nat) : (U.setTokens p c n).mcCount = U.mcCount := rfl
@[simp] theorem UnitSt.setTokens_retiredMark (U : UnitSt) (p c : Eng) (n : Nat) : (U.setTokens p c n).retiredMark = U.retiredMark := rfl
@[simp] theorem UnitSt.setTokens_hb (U : UnitSt) (p c : Eng) (n : Nat) : (U.setTokens p c n).hb = U.hb := rfl
@[simp] theorem UnitSt.setTokens_stopped (U : UnitSt) (p c : Eng) (n : Nat) : (U.setTokens p c n).stopped = U.stopped := rfl

@[simp] theorem UnitSt.setPushWait_run (U : UnitSt) (e : Eng) (n : Nat) : (U.setPushWait e n).run = U.run := rfl
@[simp] theorem UnitSt.setPushWait_regs (U : UnitSt) (e : Eng) (n : Nat) : (U.setPushWait e n).regs = U.regs := rfl
@[simp] theorem UnitSt.setPushWait_csr (U : UnitSt) (e : Eng) (n : Nat) : (U.setPushWait e n).csr = U.csr := rfl
@[simp] theorem UnitSt.setPushWait_id (U : UnitSt) (e : Eng) (n : Nat) : (U.setPushWait e n).id = U.id := rfl
@[simp] theorem UnitSt.setPushWait_work (U : UnitSt) (e : Eng) (n : Nat) : (U.setPushWait e n).work = U.work := rfl
@[simp] theorem UnitSt.setPushWait_trap (U : UnitSt) (e : Eng) (n : Nat) : (U.setPushWait e n).trap = U.trap := rfl
@[simp] theorem UnitSt.setPushWait_rb (U : UnitSt) (e : Eng) (n : Nat) : (U.setPushWait e n).rb = U.rb := rfl
@[simp] theorem UnitSt.setPushWait_sb (U : UnitSt) (e : Eng) (n : Nat) : (U.setPushWait e n).sb = U.sb := rfl
@[simp] theorem UnitSt.setPushWait_elems (U : UnitSt) (e : Eng) (n : Nat) : (U.setPushWait e n).elems = U.elems := rfl
@[simp] theorem UnitSt.setPushWait_parity (U : UnitSt) (e : Eng) (n : Nat) : (U.setPushWait e n).parity = U.parity := rfl
@[simp] theorem UnitSt.setPushWait_bind (U : UnitSt) (e : Eng) (n : Nat) : (U.setPushWait e n).bind = U.bind := rfl
@[simp] theorem UnitSt.setPushWait_alloc (U : UnitSt) (e : Eng) (n : Nat) : (U.setPushWait e n).alloc = U.alloc := rfl
@[simp] theorem UnitSt.setPushWait_dup (U : UnitSt) (e : Eng) (n : Nat) : (U.setPushWait e n).dup = U.dup := rfl
@[simp] theorem UnitSt.setPushWait_dcur (U : UnitSt) (e : Eng) (n : Nat) : (U.setPushWait e n).dcur = U.dcur := rfl
@[simp] theorem UnitSt.setPushWait_dupRows (U : UnitSt) (e : Eng) (n : Nat) : (U.setPushWait e n).dupRows = U.dupRows := rfl
@[simp] theorem UnitSt.setPushWait_streams (U : UnitSt) (e : Eng) (n : Nat) : (U.setPushWait e n).streams = U.streams := rfl
@[simp] theorem UnitSt.setPushWait_wins (U : UnitSt) (e : Eng) (n : Nat) : (U.setPushWait e n).wins = U.wins := rfl
@[simp] theorem UnitSt.setPushWait_bsets (U : UnitSt) (e : Eng) (n : Nat) : (U.setPushWait e n).bsets = U.bsets := rfl
@[simp] theorem UnitSt.setPushWait_fade (U : UnitSt) (e : Eng) (n : Nat) : (U.setPushWait e n).fade = U.fade := rfl
@[simp] theorem UnitSt.setPushWait_group (U : UnitSt) (e : Eng) (n : Nat) : (U.setPushWait e n).group = U.group := rfl
@[simp] theorem UnitSt.setPushWait_dove (U : UnitSt) (e : Eng) (n : Nat) : (U.setPushWait e n).dove = U.dove := rfl
@[simp] theorem UnitSt.setPushWait_tape (U : UnitSt) (e : Eng) (n : Nat) : (U.setPushWait e n).tape = U.tape := rfl
@[simp] theorem UnitSt.setPushWait_bar (U : UnitSt) (e : Eng) (n : Nat) : (U.setPushWait e n).bar = U.bar := rfl
@[simp] theorem UnitSt.setPushWait_mchecks (U : UnitSt) (e : Eng) (n : Nat) : (U.setPushWait e n).mchecks = U.mchecks := rfl
@[simp] theorem UnitSt.setPushWait_mcCount (U : UnitSt) (e : Eng) (n : Nat) : (U.setPushWait e n).mcCount = U.mcCount := rfl
@[simp] theorem UnitSt.setPushWait_retiredMark (U : UnitSt) (e : Eng) (n : Nat) : (U.setPushWait e n).retiredMark = U.retiredMark := rfl
@[simp] theorem UnitSt.setPushWait_hb (U : UnitSt) (e : Eng) (n : Nat) : (U.setPushWait e n).hb = U.hb := rfl
@[simp] theorem UnitSt.setPushWait_stopped (U : UnitSt) (e : Eng) (n : Nat) : (U.setPushWait e n).stopped = U.stopped := rfl

@[simp] theorem UnitSt.setWait_run (U : UnitSt) (e : Eng) (n : Nat) : (U.setWait e n).run = U.run := rfl
@[simp] theorem UnitSt.setWait_regs (U : UnitSt) (e : Eng) (n : Nat) : (U.setWait e n).regs = U.regs := rfl
@[simp] theorem UnitSt.setWait_csr (U : UnitSt) (e : Eng) (n : Nat) : (U.setWait e n).csr = U.csr := rfl
@[simp] theorem UnitSt.setWait_id (U : UnitSt) (e : Eng) (n : Nat) : (U.setWait e n).id = U.id := rfl
@[simp] theorem UnitSt.setWait_work (U : UnitSt) (e : Eng) (n : Nat) : (U.setWait e n).work = U.work := rfl
@[simp] theorem UnitSt.setWait_trap (U : UnitSt) (e : Eng) (n : Nat) : (U.setWait e n).trap = U.trap := rfl
@[simp] theorem UnitSt.setWait_rb (U : UnitSt) (e : Eng) (n : Nat) : (U.setWait e n).rb = U.rb := rfl
@[simp] theorem UnitSt.setWait_sb (U : UnitSt) (e : Eng) (n : Nat) : (U.setWait e n).sb = U.sb := rfl
@[simp] theorem UnitSt.setWait_elems (U : UnitSt) (e : Eng) (n : Nat) : (U.setWait e n).elems = U.elems := rfl
@[simp] theorem UnitSt.setWait_parity (U : UnitSt) (e : Eng) (n : Nat) : (U.setWait e n).parity = U.parity := rfl
@[simp] theorem UnitSt.setWait_bind (U : UnitSt) (e : Eng) (n : Nat) : (U.setWait e n).bind = U.bind := rfl
@[simp] theorem UnitSt.setWait_alloc (U : UnitSt) (e : Eng) (n : Nat) : (U.setWait e n).alloc = U.alloc := rfl
@[simp] theorem UnitSt.setWait_dup (U : UnitSt) (e : Eng) (n : Nat) : (U.setWait e n).dup = U.dup := rfl
@[simp] theorem UnitSt.setWait_dcur (U : UnitSt) (e : Eng) (n : Nat) : (U.setWait e n).dcur = U.dcur := rfl
@[simp] theorem UnitSt.setWait_dupRows (U : UnitSt) (e : Eng) (n : Nat) : (U.setWait e n).dupRows = U.dupRows := rfl
@[simp] theorem UnitSt.setWait_streams (U : UnitSt) (e : Eng) (n : Nat) : (U.setWait e n).streams = U.streams := rfl
@[simp] theorem UnitSt.setWait_wins (U : UnitSt) (e : Eng) (n : Nat) : (U.setWait e n).wins = U.wins := rfl
@[simp] theorem UnitSt.setWait_bsets (U : UnitSt) (e : Eng) (n : Nat) : (U.setWait e n).bsets = U.bsets := rfl
@[simp] theorem UnitSt.setWait_fade (U : UnitSt) (e : Eng) (n : Nat) : (U.setWait e n).fade = U.fade := rfl
@[simp] theorem UnitSt.setWait_group (U : UnitSt) (e : Eng) (n : Nat) : (U.setWait e n).group = U.group := rfl
@[simp] theorem UnitSt.setWait_dove (U : UnitSt) (e : Eng) (n : Nat) : (U.setWait e n).dove = U.dove := rfl
@[simp] theorem UnitSt.setWait_tape (U : UnitSt) (e : Eng) (n : Nat) : (U.setWait e n).tape = U.tape := rfl
@[simp] theorem UnitSt.setWait_bar (U : UnitSt) (e : Eng) (n : Nat) : (U.setWait e n).bar = U.bar := rfl
@[simp] theorem UnitSt.setWait_mchecks (U : UnitSt) (e : Eng) (n : Nat) : (U.setWait e n).mchecks = U.mchecks := rfl
@[simp] theorem UnitSt.setWait_mcCount (U : UnitSt) (e : Eng) (n : Nat) : (U.setWait e n).mcCount = U.mcCount := rfl
@[simp] theorem UnitSt.setWait_retiredMark (U : UnitSt) (e : Eng) (n : Nat) : (U.setWait e n).retiredMark = U.retiredMark := rfl
@[simp] theorem UnitSt.setWait_hb (U : UnitSt) (e : Eng) (n : Nat) : (U.setWait e n).hb = U.hb := rfl
@[simp] theorem UnitSt.setWait_stopped (U : UnitSt) (e : Eng) (n : Nat) : (U.setWait e n).stopped = U.stopped := rfl

@[simp] theorem UnitSt.setOwnWait_run (U : UnitSt) (e : Eng) (n : Nat) : (U.setOwnWait e n).run = U.run := rfl
@[simp] theorem UnitSt.setOwnWait_regs (U : UnitSt) (e : Eng) (n : Nat) : (U.setOwnWait e n).regs = U.regs := rfl
@[simp] theorem UnitSt.setOwnWait_csr (U : UnitSt) (e : Eng) (n : Nat) : (U.setOwnWait e n).csr = U.csr := rfl
@[simp] theorem UnitSt.setOwnWait_id (U : UnitSt) (e : Eng) (n : Nat) : (U.setOwnWait e n).id = U.id := rfl
@[simp] theorem UnitSt.setOwnWait_work (U : UnitSt) (e : Eng) (n : Nat) : (U.setOwnWait e n).work = U.work := rfl
@[simp] theorem UnitSt.setOwnWait_trap (U : UnitSt) (e : Eng) (n : Nat) : (U.setOwnWait e n).trap = U.trap := rfl
@[simp] theorem UnitSt.setOwnWait_rb (U : UnitSt) (e : Eng) (n : Nat) : (U.setOwnWait e n).rb = U.rb := rfl
@[simp] theorem UnitSt.setOwnWait_sb (U : UnitSt) (e : Eng) (n : Nat) : (U.setOwnWait e n).sb = U.sb := rfl
@[simp] theorem UnitSt.setOwnWait_elems (U : UnitSt) (e : Eng) (n : Nat) : (U.setOwnWait e n).elems = U.elems := rfl
@[simp] theorem UnitSt.setOwnWait_parity (U : UnitSt) (e : Eng) (n : Nat) : (U.setOwnWait e n).parity = U.parity := rfl
@[simp] theorem UnitSt.setOwnWait_bind (U : UnitSt) (e : Eng) (n : Nat) : (U.setOwnWait e n).bind = U.bind := rfl
@[simp] theorem UnitSt.setOwnWait_alloc (U : UnitSt) (e : Eng) (n : Nat) : (U.setOwnWait e n).alloc = U.alloc := rfl
@[simp] theorem UnitSt.setOwnWait_dup (U : UnitSt) (e : Eng) (n : Nat) : (U.setOwnWait e n).dup = U.dup := rfl
@[simp] theorem UnitSt.setOwnWait_dcur (U : UnitSt) (e : Eng) (n : Nat) : (U.setOwnWait e n).dcur = U.dcur := rfl
@[simp] theorem UnitSt.setOwnWait_dupRows (U : UnitSt) (e : Eng) (n : Nat) : (U.setOwnWait e n).dupRows = U.dupRows := rfl
@[simp] theorem UnitSt.setOwnWait_streams (U : UnitSt) (e : Eng) (n : Nat) : (U.setOwnWait e n).streams = U.streams := rfl
@[simp] theorem UnitSt.setOwnWait_wins (U : UnitSt) (e : Eng) (n : Nat) : (U.setOwnWait e n).wins = U.wins := rfl
@[simp] theorem UnitSt.setOwnWait_bsets (U : UnitSt) (e : Eng) (n : Nat) : (U.setOwnWait e n).bsets = U.bsets := rfl
@[simp] theorem UnitSt.setOwnWait_fade (U : UnitSt) (e : Eng) (n : Nat) : (U.setOwnWait e n).fade = U.fade := rfl
@[simp] theorem UnitSt.setOwnWait_group (U : UnitSt) (e : Eng) (n : Nat) : (U.setOwnWait e n).group = U.group := rfl
@[simp] theorem UnitSt.setOwnWait_dove (U : UnitSt) (e : Eng) (n : Nat) : (U.setOwnWait e n).dove = U.dove := rfl
@[simp] theorem UnitSt.setOwnWait_tape (U : UnitSt) (e : Eng) (n : Nat) : (U.setOwnWait e n).tape = U.tape := rfl
@[simp] theorem UnitSt.setOwnWait_bar (U : UnitSt) (e : Eng) (n : Nat) : (U.setOwnWait e n).bar = U.bar := rfl
@[simp] theorem UnitSt.setOwnWait_mchecks (U : UnitSt) (e : Eng) (n : Nat) : (U.setOwnWait e n).mchecks = U.mchecks := rfl
@[simp] theorem UnitSt.setOwnWait_mcCount (U : UnitSt) (e : Eng) (n : Nat) : (U.setOwnWait e n).mcCount = U.mcCount := rfl
@[simp] theorem UnitSt.setOwnWait_retiredMark (U : UnitSt) (e : Eng) (n : Nat) : (U.setOwnWait e n).retiredMark = U.retiredMark := rfl
@[simp] theorem UnitSt.setOwnWait_hb (U : UnitSt) (e : Eng) (n : Nat) : (U.setOwnWait e n).hb = U.hb := rfl
@[simp] theorem UnitSt.setOwnWait_stopped (U : UnitSt) (e : Eng) (n : Nat) : (U.setOwnWait e n).stopped = U.stopped := rfl

@[simp] theorem UnitSt.passRec_run (U : UnitSt) (e : Eng) : (U.passRec e).run = U.run := rfl
@[simp] theorem UnitSt.passRec_regs (U : UnitSt) (e : Eng) : (U.passRec e).regs = U.regs := rfl
@[simp] theorem UnitSt.passRec_csr (U : UnitSt) (e : Eng) : (U.passRec e).csr = U.csr := rfl
@[simp] theorem UnitSt.passRec_id (U : UnitSt) (e : Eng) : (U.passRec e).id = U.id := rfl
@[simp] theorem UnitSt.passRec_work (U : UnitSt) (e : Eng) : (U.passRec e).work = U.work := rfl
@[simp] theorem UnitSt.passRec_trap (U : UnitSt) (e : Eng) : (U.passRec e).trap = U.trap := rfl
@[simp] theorem UnitSt.passRec_rb (U : UnitSt) (e : Eng) : (U.passRec e).rb = U.rb := rfl
@[simp] theorem UnitSt.passRec_sb (U : UnitSt) (e : Eng) : (U.passRec e).sb = U.sb := rfl
@[simp] theorem UnitSt.passRec_elems (U : UnitSt) (e : Eng) : (U.passRec e).elems = U.elems := rfl
@[simp] theorem UnitSt.passRec_parity (U : UnitSt) (e : Eng) : (U.passRec e).parity = U.parity := rfl
@[simp] theorem UnitSt.passRec_bind (U : UnitSt) (e : Eng) : (U.passRec e).bind = U.bind := rfl
@[simp] theorem UnitSt.passRec_alloc (U : UnitSt) (e : Eng) : (U.passRec e).alloc = U.alloc := rfl
@[simp] theorem UnitSt.passRec_dup (U : UnitSt) (e : Eng) : (U.passRec e).dup = U.dup := rfl
@[simp] theorem UnitSt.passRec_dcur (U : UnitSt) (e : Eng) : (U.passRec e).dcur = U.dcur := rfl
@[simp] theorem UnitSt.passRec_dupRows (U : UnitSt) (e : Eng) : (U.passRec e).dupRows = U.dupRows := rfl
@[simp] theorem UnitSt.passRec_streams (U : UnitSt) (e : Eng) : (U.passRec e).streams = U.streams := rfl
@[simp] theorem UnitSt.passRec_wins (U : UnitSt) (e : Eng) : (U.passRec e).wins = U.wins := rfl
@[simp] theorem UnitSt.passRec_bsets (U : UnitSt) (e : Eng) : (U.passRec e).bsets = U.bsets := rfl
@[simp] theorem UnitSt.passRec_fade (U : UnitSt) (e : Eng) : (U.passRec e).fade = U.fade := rfl
@[simp] theorem UnitSt.passRec_group (U : UnitSt) (e : Eng) : (U.passRec e).group = U.group := rfl
@[simp] theorem UnitSt.passRec_dove (U : UnitSt) (e : Eng) : (U.passRec e).dove = U.dove := rfl
@[simp] theorem UnitSt.passRec_tape (U : UnitSt) (e : Eng) : (U.passRec e).tape = U.tape := rfl
@[simp] theorem UnitSt.passRec_bar (U : UnitSt) (e : Eng) : (U.passRec e).bar = U.bar := rfl
@[simp] theorem UnitSt.passRec_mchecks (U : UnitSt) (e : Eng) : (U.passRec e).mchecks = U.mchecks := rfl
@[simp] theorem UnitSt.passRec_mcCount (U : UnitSt) (e : Eng) : (U.passRec e).mcCount = U.mcCount := rfl
@[simp] theorem UnitSt.passRec_retiredMark (U : UnitSt) (e : Eng) : (U.passRec e).retiredMark = U.retiredMark := rfl
@[simp] theorem UnitSt.passRec_hb (U : UnitSt) (e : Eng) : (U.passRec e).hb = U.hb := rfl
@[simp] theorem UnitSt.passRec_stopped (U : UnitSt) (e : Eng) : (U.passRec e).stopped = U.stopped := rfl

@[simp] theorem UnitSt.setFlags_run (U : UnitSt) (v : Word) : (U.setFlags v).run = U.run := rfl
@[simp] theorem UnitSt.setFlags_regs (U : UnitSt) (v : Word) : (U.setFlags v).regs = U.regs := rfl
@[simp] theorem UnitSt.setFlags_id (U : UnitSt) (v : Word) : (U.setFlags v).id = U.id := rfl
@[simp] theorem UnitSt.setFlags_walk (U : UnitSt) (v : Word) : (U.setFlags v).walk = U.walk := rfl
@[simp] theorem UnitSt.setFlags_work (U : UnitSt) (v : Word) : (U.setFlags v).work = U.work := rfl
@[simp] theorem UnitSt.setFlags_trap (U : UnitSt) (v : Word) : (U.setFlags v).trap = U.trap := rfl
@[simp] theorem UnitSt.setFlags_rb (U : UnitSt) (v : Word) : (U.setFlags v).rb = U.rb := rfl
@[simp] theorem UnitSt.setFlags_sb (U : UnitSt) (v : Word) : (U.setFlags v).sb = U.sb := rfl
@[simp] theorem UnitSt.setFlags_elems (U : UnitSt) (v : Word) : (U.setFlags v).elems = U.elems := rfl
@[simp] theorem UnitSt.setFlags_parity (U : UnitSt) (v : Word) : (U.setFlags v).parity = U.parity := rfl
@[simp] theorem UnitSt.setFlags_bind (U : UnitSt) (v : Word) : (U.setFlags v).bind = U.bind := rfl
@[simp] theorem UnitSt.setFlags_alloc (U : UnitSt) (v : Word) : (U.setFlags v).alloc = U.alloc := rfl
@[simp] theorem UnitSt.setFlags_dup (U : UnitSt) (v : Word) : (U.setFlags v).dup = U.dup := rfl
@[simp] theorem UnitSt.setFlags_dcur (U : UnitSt) (v : Word) : (U.setFlags v).dcur = U.dcur := rfl
@[simp] theorem UnitSt.setFlags_dupRows (U : UnitSt) (v : Word) : (U.setFlags v).dupRows = U.dupRows := rfl
@[simp] theorem UnitSt.setFlags_streams (U : UnitSt) (v : Word) : (U.setFlags v).streams = U.streams := rfl
@[simp] theorem UnitSt.setFlags_wins (U : UnitSt) (v : Word) : (U.setFlags v).wins = U.wins := rfl
@[simp] theorem UnitSt.setFlags_bsets (U : UnitSt) (v : Word) : (U.setFlags v).bsets = U.bsets := rfl
@[simp] theorem UnitSt.setFlags_fade (U : UnitSt) (v : Word) : (U.setFlags v).fade = U.fade := rfl
@[simp] theorem UnitSt.setFlags_group (U : UnitSt) (v : Word) : (U.setFlags v).group = U.group := rfl
@[simp] theorem UnitSt.setFlags_dove (U : UnitSt) (v : Word) : (U.setFlags v).dove = U.dove := rfl
@[simp] theorem UnitSt.setFlags_tape (U : UnitSt) (v : Word) : (U.setFlags v).tape = U.tape := rfl
@[simp] theorem UnitSt.setFlags_bar (U : UnitSt) (v : Word) : (U.setFlags v).bar = U.bar := rfl
@[simp] theorem UnitSt.setFlags_mchecks (U : UnitSt) (v : Word) : (U.setFlags v).mchecks = U.mchecks := rfl
@[simp] theorem UnitSt.setFlags_mcCount (U : UnitSt) (v : Word) : (U.setFlags v).mcCount = U.mcCount := rfl
@[simp] theorem UnitSt.setFlags_retiredMark (U : UnitSt) (v : Word) : (U.setFlags v).retiredMark = U.retiredMark := rfl
@[simp] theorem UnitSt.setFlags_hb (U : UnitSt) (v : Word) : (U.setFlags v).hb = U.hb := rfl
@[simp] theorem UnitSt.setFlags_stopped (U : UnitSt) (v : Word) : (U.setFlags v).stopped = U.stopped := rfl

@[simp] theorem UnitSt.halt_regs (U : UnitSt) : (U.halt).regs = U.regs := rfl
@[simp] theorem UnitSt.halt_csr (U : UnitSt) : (U.halt).csr = U.csr := rfl
@[simp] theorem UnitSt.halt_id (U : UnitSt) : (U.halt).id = U.id := rfl
@[simp] theorem UnitSt.halt_walk (U : UnitSt) : (U.halt).walk = U.walk := rfl
@[simp] theorem UnitSt.halt_work (U : UnitSt) : (U.halt).work = U.work := rfl
@[simp] theorem UnitSt.halt_trap (U : UnitSt) : (U.halt).trap = U.trap := rfl
@[simp] theorem UnitSt.halt_rb (U : UnitSt) : (U.halt).rb = U.rb := rfl
@[simp] theorem UnitSt.halt_sb (U : UnitSt) : (U.halt).sb = U.sb := rfl
@[simp] theorem UnitSt.halt_elems (U : UnitSt) : (U.halt).elems = U.elems := rfl
@[simp] theorem UnitSt.halt_parity (U : UnitSt) : (U.halt).parity = U.parity := rfl
@[simp] theorem UnitSt.halt_bind (U : UnitSt) : (U.halt).bind = U.bind := rfl
@[simp] theorem UnitSt.halt_alloc (U : UnitSt) : (U.halt).alloc = U.alloc := rfl
@[simp] theorem UnitSt.halt_dup (U : UnitSt) : (U.halt).dup = U.dup := rfl
@[simp] theorem UnitSt.halt_dcur (U : UnitSt) : (U.halt).dcur = U.dcur := rfl
@[simp] theorem UnitSt.halt_dupRows (U : UnitSt) : (U.halt).dupRows = U.dupRows := rfl
@[simp] theorem UnitSt.halt_streams (U : UnitSt) : (U.halt).streams = U.streams := rfl
@[simp] theorem UnitSt.halt_wins (U : UnitSt) : (U.halt).wins = U.wins := rfl
@[simp] theorem UnitSt.halt_bsets (U : UnitSt) : (U.halt).bsets = U.bsets := rfl
@[simp] theorem UnitSt.halt_fade (U : UnitSt) : (U.halt).fade = U.fade := rfl
@[simp] theorem UnitSt.halt_group (U : UnitSt) : (U.halt).group = U.group := rfl
@[simp] theorem UnitSt.halt_dove (U : UnitSt) : (U.halt).dove = U.dove := rfl
@[simp] theorem UnitSt.halt_tape (U : UnitSt) : (U.halt).tape = U.tape := rfl
@[simp] theorem UnitSt.halt_bar (U : UnitSt) : (U.halt).bar = U.bar := rfl
@[simp] theorem UnitSt.halt_mchecks (U : UnitSt) : (U.halt).mchecks = U.mchecks := rfl
@[simp] theorem UnitSt.halt_mcCount (U : UnitSt) : (U.halt).mcCount = U.mcCount := rfl
@[simp] theorem UnitSt.halt_retiredMark (U : UnitSt) : (U.halt).retiredMark = U.retiredMark := rfl
@[simp] theorem UnitSt.halt_hb (U : UnitSt) : (U.halt).hb = U.hb := rfl
@[simp] theorem UnitSt.halt_stopped (U : UnitSt) : (U.halt).stopped = U.stopped := rfl

@[simp] theorem UnitSt.writeBank_run (U : UnitSt) (b : Nat) (e : List (Nat × Word32)) : (U.writeBank b e).run = U.run := rfl
@[simp] theorem UnitSt.writeBank_regs (U : UnitSt) (b : Nat) (e : List (Nat × Word32)) : (U.writeBank b e).regs = U.regs := rfl
@[simp] theorem UnitSt.writeBank_csr (U : UnitSt) (b : Nat) (e : List (Nat × Word32)) : (U.writeBank b e).csr = U.csr := rfl
@[simp] theorem UnitSt.writeBank_id (U : UnitSt) (b : Nat) (e : List (Nat × Word32)) : (U.writeBank b e).id = U.id := rfl
@[simp] theorem UnitSt.writeBank_walk (U : UnitSt) (b : Nat) (e : List (Nat × Word32)) : (U.writeBank b e).walk = U.walk := rfl
@[simp] theorem UnitSt.writeBank_work (U : UnitSt) (b : Nat) (e : List (Nat × Word32)) : (U.writeBank b e).work = U.work := rfl
@[simp] theorem UnitSt.writeBank_trap (U : UnitSt) (b : Nat) (e : List (Nat × Word32)) : (U.writeBank b e).trap = U.trap := rfl
@[simp] theorem UnitSt.writeBank_rb (U : UnitSt) (b : Nat) (e : List (Nat × Word32)) : (U.writeBank b e).rb = U.rb := rfl
@[simp] theorem UnitSt.writeBank_sb (U : UnitSt) (b : Nat) (e : List (Nat × Word32)) : (U.writeBank b e).sb = U.sb := rfl
@[simp] theorem UnitSt.writeBank_bind (U : UnitSt) (b : Nat) (e : List (Nat × Word32)) : (U.writeBank b e).bind = U.bind := rfl
@[simp] theorem UnitSt.writeBank_alloc (U : UnitSt) (b : Nat) (e : List (Nat × Word32)) : (U.writeBank b e).alloc = U.alloc := rfl
@[simp] theorem UnitSt.writeBank_dup (U : UnitSt) (b : Nat) (e : List (Nat × Word32)) : (U.writeBank b e).dup = U.dup := rfl
@[simp] theorem UnitSt.writeBank_dcur (U : UnitSt) (b : Nat) (e : List (Nat × Word32)) : (U.writeBank b e).dcur = U.dcur := rfl
@[simp] theorem UnitSt.writeBank_dupRows (U : UnitSt) (b : Nat) (e : List (Nat × Word32)) : (U.writeBank b e).dupRows = U.dupRows := rfl
@[simp] theorem UnitSt.writeBank_streams (U : UnitSt) (b : Nat) (e : List (Nat × Word32)) : (U.writeBank b e).streams = U.streams := rfl
@[simp] theorem UnitSt.writeBank_wins (U : UnitSt) (b : Nat) (e : List (Nat × Word32)) : (U.writeBank b e).wins = U.wins := rfl
@[simp] theorem UnitSt.writeBank_bsets (U : UnitSt) (b : Nat) (e : List (Nat × Word32)) : (U.writeBank b e).bsets = U.bsets := rfl
@[simp] theorem UnitSt.writeBank_fade (U : UnitSt) (b : Nat) (e : List (Nat × Word32)) : (U.writeBank b e).fade = U.fade := rfl
@[simp] theorem UnitSt.writeBank_group (U : UnitSt) (b : Nat) (e : List (Nat × Word32)) : (U.writeBank b e).group = U.group := rfl
@[simp] theorem UnitSt.writeBank_dove (U : UnitSt) (b : Nat) (e : List (Nat × Word32)) : (U.writeBank b e).dove = U.dove := rfl
@[simp] theorem UnitSt.writeBank_tape (U : UnitSt) (b : Nat) (e : List (Nat × Word32)) : (U.writeBank b e).tape = U.tape := rfl
@[simp] theorem UnitSt.writeBank_bar (U : UnitSt) (b : Nat) (e : List (Nat × Word32)) : (U.writeBank b e).bar = U.bar := rfl
@[simp] theorem UnitSt.writeBank_mchecks (U : UnitSt) (b : Nat) (e : List (Nat × Word32)) : (U.writeBank b e).mchecks = U.mchecks := rfl
@[simp] theorem UnitSt.writeBank_mcCount (U : UnitSt) (b : Nat) (e : List (Nat × Word32)) : (U.writeBank b e).mcCount = U.mcCount := rfl
@[simp] theorem UnitSt.writeBank_retiredMark (U : UnitSt) (b : Nat) (e : List (Nat × Word32)) : (U.writeBank b e).retiredMark = U.retiredMark := rfl
@[simp] theorem UnitSt.writeBank_hb (U : UnitSt) (b : Nat) (e : List (Nat × Word32)) : (U.writeBank b e).hb = U.hb := rfl
@[simp] theorem UnitSt.writeBank_stopped (U : UnitSt) (b : Nat) (e : List (Nat × Word32)) : (U.writeBank b e).stopped = U.stopped := rfl

@[simp] theorem UnitSt.fixDup_run (U : UnitSt) : (U.fixDup).run = U.run := rfl
@[simp] theorem UnitSt.fixDup_regs (U : UnitSt) : (U.fixDup).regs = U.regs := rfl
@[simp] theorem UnitSt.fixDup_csr (U : UnitSt) : (U.fixDup).csr = U.csr := rfl
@[simp] theorem UnitSt.fixDup_id (U : UnitSt) : (U.fixDup).id = U.id := rfl
@[simp] theorem UnitSt.fixDup_walk (U : UnitSt) : (U.fixDup).walk = U.walk := rfl
@[simp] theorem UnitSt.fixDup_work (U : UnitSt) : (U.fixDup).work = U.work := rfl
@[simp] theorem UnitSt.fixDup_trap (U : UnitSt) : (U.fixDup).trap = U.trap := rfl
@[simp] theorem UnitSt.fixDup_rb (U : UnitSt) : (U.fixDup).rb = U.rb := rfl
@[simp] theorem UnitSt.fixDup_sb (U : UnitSt) : (U.fixDup).sb = U.sb := rfl
@[simp] theorem UnitSt.fixDup_elems (U : UnitSt) : (U.fixDup).elems = U.elems := rfl
@[simp] theorem UnitSt.fixDup_parity (U : UnitSt) : (U.fixDup).parity = U.parity := rfl
@[simp] theorem UnitSt.fixDup_bind (U : UnitSt) : (U.fixDup).bind = U.bind := rfl
@[simp] theorem UnitSt.fixDup_alloc (U : UnitSt) : (U.fixDup).alloc = U.alloc := rfl
@[simp] theorem UnitSt.fixDup_dup (U : UnitSt) : (U.fixDup).dup = U.dup := rfl
@[simp] theorem UnitSt.fixDup_streams (U : UnitSt) : (U.fixDup).streams = U.streams := rfl
@[simp] theorem UnitSt.fixDup_wins (U : UnitSt) : (U.fixDup).wins = U.wins := rfl
@[simp] theorem UnitSt.fixDup_bsets (U : UnitSt) : (U.fixDup).bsets = U.bsets := rfl
@[simp] theorem UnitSt.fixDup_fade (U : UnitSt) : (U.fixDup).fade = U.fade := rfl
@[simp] theorem UnitSt.fixDup_group (U : UnitSt) : (U.fixDup).group = U.group := rfl
@[simp] theorem UnitSt.fixDup_dove (U : UnitSt) : (U.fixDup).dove = U.dove := rfl
@[simp] theorem UnitSt.fixDup_tape (U : UnitSt) : (U.fixDup).tape = U.tape := rfl
@[simp] theorem UnitSt.fixDup_bar (U : UnitSt) : (U.fixDup).bar = U.bar := rfl
@[simp] theorem UnitSt.fixDup_mchecks (U : UnitSt) : (U.fixDup).mchecks = U.mchecks := rfl
@[simp] theorem UnitSt.fixDup_mcCount (U : UnitSt) : (U.fixDup).mcCount = U.mcCount := rfl
@[simp] theorem UnitSt.fixDup_retiredMark (U : UnitSt) : (U.fixDup).retiredMark = U.retiredMark := rfl
@[simp] theorem UnitSt.fixDup_hb (U : UnitSt) : (U.fixDup).hb = U.hb := rfl
@[simp] theorem UnitSt.fixDup_stopped (U : UnitSt) : (U.fixDup).stopped = U.stopped := rfl

@[simp] theorem UnitSt.finish_run (U : UnitSt) (id : Nat) (effs : List Eff) : (U.finish id effs).run = U.run := rfl
@[simp] theorem UnitSt.finish_regs (U : UnitSt) (id : Nat) (effs : List Eff) : (U.finish id effs).regs = U.regs := rfl
@[simp] theorem UnitSt.finish_csr (U : UnitSt) (id : Nat) (effs : List Eff) : (U.finish id effs).csr = U.csr := rfl
@[simp] theorem UnitSt.finish_id (U : UnitSt) (id : Nat) (effs : List Eff) : (U.finish id effs).id = U.id := rfl
@[simp] theorem UnitSt.finish_walk (U : UnitSt) (id : Nat) (effs : List Eff) : (U.finish id effs).walk = U.walk := rfl
@[simp] theorem UnitSt.finish_trap (U : UnitSt) (id : Nat) (effs : List Eff) : (U.finish id effs).trap = U.trap := rfl
@[simp] theorem UnitSt.finish_rb (U : UnitSt) (id : Nat) (effs : List Eff) : (U.finish id effs).rb = U.rb := rfl
@[simp] theorem UnitSt.finish_sb (U : UnitSt) (id : Nat) (effs : List Eff) : (U.finish id effs).sb = U.sb := rfl
@[simp] theorem UnitSt.finish_elems (U : UnitSt) (id : Nat) (effs : List Eff) : (U.finish id effs).elems = U.elems := rfl
@[simp] theorem UnitSt.finish_parity (U : UnitSt) (id : Nat) (effs : List Eff) : (U.finish id effs).parity = U.parity := rfl
@[simp] theorem UnitSt.finish_bind (U : UnitSt) (id : Nat) (effs : List Eff) : (U.finish id effs).bind = U.bind := rfl
@[simp] theorem UnitSt.finish_alloc (U : UnitSt) (id : Nat) (effs : List Eff) : (U.finish id effs).alloc = U.alloc := rfl
@[simp] theorem UnitSt.finish_dup (U : UnitSt) (id : Nat) (effs : List Eff) : (U.finish id effs).dup = U.dup := rfl
@[simp] theorem UnitSt.finish_dcur (U : UnitSt) (id : Nat) (effs : List Eff) : (U.finish id effs).dcur = U.dcur := rfl
@[simp] theorem UnitSt.finish_dupRows (U : UnitSt) (id : Nat) (effs : List Eff) : (U.finish id effs).dupRows = U.dupRows := rfl
@[simp] theorem UnitSt.finish_streams (U : UnitSt) (id : Nat) (effs : List Eff) : (U.finish id effs).streams = U.streams := rfl
@[simp] theorem UnitSt.finish_wins (U : UnitSt) (id : Nat) (effs : List Eff) : (U.finish id effs).wins = U.wins := rfl
@[simp] theorem UnitSt.finish_bsets (U : UnitSt) (id : Nat) (effs : List Eff) : (U.finish id effs).bsets = U.bsets := rfl
@[simp] theorem UnitSt.finish_fade (U : UnitSt) (id : Nat) (effs : List Eff) : (U.finish id effs).fade = U.fade := rfl
@[simp] theorem UnitSt.finish_group (U : UnitSt) (id : Nat) (effs : List Eff) : (U.finish id effs).group = U.group := rfl
@[simp] theorem UnitSt.finish_dove (U : UnitSt) (id : Nat) (effs : List Eff) : (U.finish id effs).dove = U.dove := rfl
@[simp] theorem UnitSt.finish_tape (U : UnitSt) (id : Nat) (effs : List Eff) : (U.finish id effs).tape = U.tape := rfl
@[simp] theorem UnitSt.finish_bar (U : UnitSt) (id : Nat) (effs : List Eff) : (U.finish id effs).bar = U.bar := rfl
@[simp] theorem UnitSt.finish_mchecks (U : UnitSt) (id : Nat) (effs : List Eff) : (U.finish id effs).mchecks = U.mchecks := rfl
@[simp] theorem UnitSt.finish_mcCount (U : UnitSt) (id : Nat) (effs : List Eff) : (U.finish id effs).mcCount = U.mcCount := rfl
@[simp] theorem UnitSt.finish_retiredMark (U : UnitSt) (id : Nat) (effs : List Eff) : (U.finish id effs).retiredMark = U.retiredMark := rfl
@[simp] theorem UnitSt.finish_hb (U : UnitSt) (id : Nat) (effs : List Eff) : (U.finish id effs).hb = U.hb := rfl
@[simp] theorem UnitSt.finish_stopped (U : UnitSt) (id : Nat) (effs : List Eff) : (U.finish id effs).stopped = U.stopped := rfl

@[simp] theorem UnitSt.setOut_run (U : UnitSt) (e : Eng) (l : List Outcome) : (U.setOut e l).run = U.run := rfl
@[simp] theorem UnitSt.setOut_regs (U : UnitSt) (e : Eng) (l : List Outcome) : (U.setOut e l).regs = U.regs := rfl
@[simp] theorem UnitSt.setOut_csr (U : UnitSt) (e : Eng) (l : List Outcome) : (U.setOut e l).csr = U.csr := rfl
@[simp] theorem UnitSt.setOut_id (U : UnitSt) (e : Eng) (l : List Outcome) : (U.setOut e l).id = U.id := rfl
@[simp] theorem UnitSt.setOut_work (U : UnitSt) (e : Eng) (l : List Outcome) : (U.setOut e l).work = U.work := rfl
@[simp] theorem UnitSt.setOut_trap (U : UnitSt) (e : Eng) (l : List Outcome) : (U.setOut e l).trap = U.trap := rfl
@[simp] theorem UnitSt.setOut_rb (U : UnitSt) (e : Eng) (l : List Outcome) : (U.setOut e l).rb = U.rb := rfl
@[simp] theorem UnitSt.setOut_sb (U : UnitSt) (e : Eng) (l : List Outcome) : (U.setOut e l).sb = U.sb := rfl
@[simp] theorem UnitSt.setOut_elems (U : UnitSt) (e : Eng) (l : List Outcome) : (U.setOut e l).elems = U.elems := rfl
@[simp] theorem UnitSt.setOut_parity (U : UnitSt) (e : Eng) (l : List Outcome) : (U.setOut e l).parity = U.parity := rfl
@[simp] theorem UnitSt.setOut_bind (U : UnitSt) (e : Eng) (l : List Outcome) : (U.setOut e l).bind = U.bind := rfl
@[simp] theorem UnitSt.setOut_alloc (U : UnitSt) (e : Eng) (l : List Outcome) : (U.setOut e l).alloc = U.alloc := rfl
@[simp] theorem UnitSt.setOut_dup (U : UnitSt) (e : Eng) (l : List Outcome) : (U.setOut e l).dup = U.dup := rfl
@[simp] theorem UnitSt.setOut_dcur (U : UnitSt) (e : Eng) (l : List Outcome) : (U.setOut e l).dcur = U.dcur := rfl
@[simp] theorem UnitSt.setOut_dupRows (U : UnitSt) (e : Eng) (l : List Outcome) : (U.setOut e l).dupRows = U.dupRows := rfl
@[simp] theorem UnitSt.setOut_streams (U : UnitSt) (e : Eng) (l : List Outcome) : (U.setOut e l).streams = U.streams := rfl
@[simp] theorem UnitSt.setOut_wins (U : UnitSt) (e : Eng) (l : List Outcome) : (U.setOut e l).wins = U.wins := rfl
@[simp] theorem UnitSt.setOut_bsets (U : UnitSt) (e : Eng) (l : List Outcome) : (U.setOut e l).bsets = U.bsets := rfl
@[simp] theorem UnitSt.setOut_fade (U : UnitSt) (e : Eng) (l : List Outcome) : (U.setOut e l).fade = U.fade := rfl
@[simp] theorem UnitSt.setOut_group (U : UnitSt) (e : Eng) (l : List Outcome) : (U.setOut e l).group = U.group := rfl
@[simp] theorem UnitSt.setOut_dove (U : UnitSt) (e : Eng) (l : List Outcome) : (U.setOut e l).dove = U.dove := rfl
@[simp] theorem UnitSt.setOut_tape (U : UnitSt) (e : Eng) (l : List Outcome) : (U.setOut e l).tape = U.tape := rfl
@[simp] theorem UnitSt.setOut_bar (U : UnitSt) (e : Eng) (l : List Outcome) : (U.setOut e l).bar = U.bar := rfl
@[simp] theorem UnitSt.setOut_mchecks (U : UnitSt) (e : Eng) (l : List Outcome) : (U.setOut e l).mchecks = U.mchecks := rfl
@[simp] theorem UnitSt.setOut_mcCount (U : UnitSt) (e : Eng) (l : List Outcome) : (U.setOut e l).mcCount = U.mcCount := rfl
@[simp] theorem UnitSt.setOut_retiredMark (U : UnitSt) (e : Eng) (l : List Outcome) : (U.setOut e l).retiredMark = U.retiredMark := rfl
@[simp] theorem UnitSt.setOut_hb (U : UnitSt) (e : Eng) (l : List Outcome) : (U.setOut e l).hb = U.hb := rfl
@[simp] theorem UnitSt.setOut_stopped (U : UnitSt) (e : Eng) (l : List Outcome) : (U.setOut e l).stopped = U.stopped := rfl

@[simp] theorem UnitSt.setStream_run (U : UnitSt) (i : Nat) (t : Stream) : (U.setStream i t).run = U.run := rfl
@[simp] theorem UnitSt.setStream_regs (U : UnitSt) (i : Nat) (t : Stream) : (U.setStream i t).regs = U.regs := rfl
@[simp] theorem UnitSt.setStream_csr (U : UnitSt) (i : Nat) (t : Stream) : (U.setStream i t).csr = U.csr := rfl
@[simp] theorem UnitSt.setStream_id (U : UnitSt) (i : Nat) (t : Stream) : (U.setStream i t).id = U.id := rfl
@[simp] theorem UnitSt.setStream_walk (U : UnitSt) (i : Nat) (t : Stream) : (U.setStream i t).walk = U.walk := rfl
@[simp] theorem UnitSt.setStream_work (U : UnitSt) (i : Nat) (t : Stream) : (U.setStream i t).work = U.work := rfl
@[simp] theorem UnitSt.setStream_trap (U : UnitSt) (i : Nat) (t : Stream) : (U.setStream i t).trap = U.trap := rfl
@[simp] theorem UnitSt.setStream_rb (U : UnitSt) (i : Nat) (t : Stream) : (U.setStream i t).rb = U.rb := rfl
@[simp] theorem UnitSt.setStream_sb (U : UnitSt) (i : Nat) (t : Stream) : (U.setStream i t).sb = U.sb := rfl
@[simp] theorem UnitSt.setStream_elems (U : UnitSt) (i : Nat) (t : Stream) : (U.setStream i t).elems = U.elems := rfl
@[simp] theorem UnitSt.setStream_parity (U : UnitSt) (i : Nat) (t : Stream) : (U.setStream i t).parity = U.parity := rfl
@[simp] theorem UnitSt.setStream_bind (U : UnitSt) (i : Nat) (t : Stream) : (U.setStream i t).bind = U.bind := rfl
@[simp] theorem UnitSt.setStream_alloc (U : UnitSt) (i : Nat) (t : Stream) : (U.setStream i t).alloc = U.alloc := rfl
@[simp] theorem UnitSt.setStream_dup (U : UnitSt) (i : Nat) (t : Stream) : (U.setStream i t).dup = U.dup := rfl
@[simp] theorem UnitSt.setStream_dcur (U : UnitSt) (i : Nat) (t : Stream) : (U.setStream i t).dcur = U.dcur := rfl
@[simp] theorem UnitSt.setStream_dupRows (U : UnitSt) (i : Nat) (t : Stream) : (U.setStream i t).dupRows = U.dupRows := rfl
@[simp] theorem UnitSt.setStream_wins (U : UnitSt) (i : Nat) (t : Stream) : (U.setStream i t).wins = U.wins := rfl
@[simp] theorem UnitSt.setStream_bsets (U : UnitSt) (i : Nat) (t : Stream) : (U.setStream i t).bsets = U.bsets := rfl
@[simp] theorem UnitSt.setStream_fade (U : UnitSt) (i : Nat) (t : Stream) : (U.setStream i t).fade = U.fade := rfl
@[simp] theorem UnitSt.setStream_group (U : UnitSt) (i : Nat) (t : Stream) : (U.setStream i t).group = U.group := rfl
@[simp] theorem UnitSt.setStream_dove (U : UnitSt) (i : Nat) (t : Stream) : (U.setStream i t).dove = U.dove := rfl
@[simp] theorem UnitSt.setStream_tape (U : UnitSt) (i : Nat) (t : Stream) : (U.setStream i t).tape = U.tape := rfl
@[simp] theorem UnitSt.setStream_bar (U : UnitSt) (i : Nat) (t : Stream) : (U.setStream i t).bar = U.bar := rfl
@[simp] theorem UnitSt.setStream_mchecks (U : UnitSt) (i : Nat) (t : Stream) : (U.setStream i t).mchecks = U.mchecks := rfl
@[simp] theorem UnitSt.setStream_mcCount (U : UnitSt) (i : Nat) (t : Stream) : (U.setStream i t).mcCount = U.mcCount := rfl
@[simp] theorem UnitSt.setStream_retiredMark (U : UnitSt) (i : Nat) (t : Stream) : (U.setStream i t).retiredMark = U.retiredMark := rfl
@[simp] theorem UnitSt.setStream_hb (U : UnitSt) (i : Nat) (t : Stream) : (U.setStream i t).hb = U.hb := rfl
@[simp] theorem UnitSt.setStream_stopped (U : UnitSt) (i : Nat) (t : Stream) : (U.setStream i t).stopped = U.stopped := rfl

@[simp] theorem UnitSt.setWin_run (U : UnitSt) (w : Nat) (W : Win) : (U.setWin w W).run = U.run := rfl
@[simp] theorem UnitSt.setWin_regs (U : UnitSt) (w : Nat) (W : Win) : (U.setWin w W).regs = U.regs := rfl
@[simp] theorem UnitSt.setWin_csr (U : UnitSt) (w : Nat) (W : Win) : (U.setWin w W).csr = U.csr := rfl
@[simp] theorem UnitSt.setWin_id (U : UnitSt) (w : Nat) (W : Win) : (U.setWin w W).id = U.id := rfl
@[simp] theorem UnitSt.setWin_walk (U : UnitSt) (w : Nat) (W : Win) : (U.setWin w W).walk = U.walk := rfl
@[simp] theorem UnitSt.setWin_work (U : UnitSt) (w : Nat) (W : Win) : (U.setWin w W).work = U.work := rfl
@[simp] theorem UnitSt.setWin_trap (U : UnitSt) (w : Nat) (W : Win) : (U.setWin w W).trap = U.trap := rfl
@[simp] theorem UnitSt.setWin_rb (U : UnitSt) (w : Nat) (W : Win) : (U.setWin w W).rb = U.rb := rfl
@[simp] theorem UnitSt.setWin_sb (U : UnitSt) (w : Nat) (W : Win) : (U.setWin w W).sb = U.sb := rfl
@[simp] theorem UnitSt.setWin_elems (U : UnitSt) (w : Nat) (W : Win) : (U.setWin w W).elems = U.elems := rfl
@[simp] theorem UnitSt.setWin_parity (U : UnitSt) (w : Nat) (W : Win) : (U.setWin w W).parity = U.parity := rfl
@[simp] theorem UnitSt.setWin_bind (U : UnitSt) (w : Nat) (W : Win) : (U.setWin w W).bind = U.bind := rfl
@[simp] theorem UnitSt.setWin_alloc (U : UnitSt) (w : Nat) (W : Win) : (U.setWin w W).alloc = U.alloc := rfl
@[simp] theorem UnitSt.setWin_dup (U : UnitSt) (w : Nat) (W : Win) : (U.setWin w W).dup = U.dup := rfl
@[simp] theorem UnitSt.setWin_dcur (U : UnitSt) (w : Nat) (W : Win) : (U.setWin w W).dcur = U.dcur := rfl
@[simp] theorem UnitSt.setWin_dupRows (U : UnitSt) (w : Nat) (W : Win) : (U.setWin w W).dupRows = U.dupRows := rfl
@[simp] theorem UnitSt.setWin_streams (U : UnitSt) (w : Nat) (W : Win) : (U.setWin w W).streams = U.streams := rfl
@[simp] theorem UnitSt.setWin_bsets (U : UnitSt) (w : Nat) (W : Win) : (U.setWin w W).bsets = U.bsets := rfl
@[simp] theorem UnitSt.setWin_fade (U : UnitSt) (w : Nat) (W : Win) : (U.setWin w W).fade = U.fade := rfl
@[simp] theorem UnitSt.setWin_group (U : UnitSt) (w : Nat) (W : Win) : (U.setWin w W).group = U.group := rfl
@[simp] theorem UnitSt.setWin_dove (U : UnitSt) (w : Nat) (W : Win) : (U.setWin w W).dove = U.dove := rfl
@[simp] theorem UnitSt.setWin_tape (U : UnitSt) (w : Nat) (W : Win) : (U.setWin w W).tape = U.tape := rfl
@[simp] theorem UnitSt.setWin_bar (U : UnitSt) (w : Nat) (W : Win) : (U.setWin w W).bar = U.bar := rfl
@[simp] theorem UnitSt.setWin_mchecks (U : UnitSt) (w : Nat) (W : Win) : (U.setWin w W).mchecks = U.mchecks := rfl
@[simp] theorem UnitSt.setWin_mcCount (U : UnitSt) (w : Nat) (W : Win) : (U.setWin w W).mcCount = U.mcCount := rfl
@[simp] theorem UnitSt.setWin_retiredMark (U : UnitSt) (w : Nat) (W : Win) : (U.setWin w W).retiredMark = U.retiredMark := rfl
@[simp] theorem UnitSt.setWin_hb (U : UnitSt) (w : Nat) (W : Win) : (U.setWin w W).hb = U.hb := rfl
@[simp] theorem UnitSt.setWin_stopped (U : UnitSt) (w : Nat) (W : Win) : (U.setWin w W).stopped = U.stopped := rfl

@[simp] theorem UnitSt.setMove_run (U : UnitSt) (m : Move) : (U.setMove m).run = U.run := rfl
@[simp] theorem UnitSt.setMove_regs (U : UnitSt) (m : Move) : (U.setMove m).regs = U.regs := rfl
@[simp] theorem UnitSt.setMove_csr (U : UnitSt) (m : Move) : (U.setMove m).csr = U.csr := rfl
@[simp] theorem UnitSt.setMove_id (U : UnitSt) (m : Move) : (U.setMove m).id = U.id := rfl
@[simp] theorem UnitSt.setMove_walk (U : UnitSt) (m : Move) : (U.setMove m).walk = U.walk := rfl
@[simp] theorem UnitSt.setMove_trap (U : UnitSt) (m : Move) : (U.setMove m).trap = U.trap := rfl
@[simp] theorem UnitSt.setMove_rb (U : UnitSt) (m : Move) : (U.setMove m).rb = U.rb := rfl
@[simp] theorem UnitSt.setMove_sb (U : UnitSt) (m : Move) : (U.setMove m).sb = U.sb := rfl
@[simp] theorem UnitSt.setMove_elems (U : UnitSt) (m : Move) : (U.setMove m).elems = U.elems := rfl
@[simp] theorem UnitSt.setMove_parity (U : UnitSt) (m : Move) : (U.setMove m).parity = U.parity := rfl
@[simp] theorem UnitSt.setMove_bind (U : UnitSt) (m : Move) : (U.setMove m).bind = U.bind := rfl
@[simp] theorem UnitSt.setMove_alloc (U : UnitSt) (m : Move) : (U.setMove m).alloc = U.alloc := rfl
@[simp] theorem UnitSt.setMove_dup (U : UnitSt) (m : Move) : (U.setMove m).dup = U.dup := rfl
@[simp] theorem UnitSt.setMove_dcur (U : UnitSt) (m : Move) : (U.setMove m).dcur = U.dcur := rfl
@[simp] theorem UnitSt.setMove_dupRows (U : UnitSt) (m : Move) : (U.setMove m).dupRows = U.dupRows := rfl
@[simp] theorem UnitSt.setMove_streams (U : UnitSt) (m : Move) : (U.setMove m).streams = U.streams := rfl
@[simp] theorem UnitSt.setMove_wins (U : UnitSt) (m : Move) : (U.setMove m).wins = U.wins := rfl
@[simp] theorem UnitSt.setMove_bsets (U : UnitSt) (m : Move) : (U.setMove m).bsets = U.bsets := rfl
@[simp] theorem UnitSt.setMove_fade (U : UnitSt) (m : Move) : (U.setMove m).fade = U.fade := rfl
@[simp] theorem UnitSt.setMove_group (U : UnitSt) (m : Move) : (U.setMove m).group = U.group := rfl
@[simp] theorem UnitSt.setMove_dove (U : UnitSt) (m : Move) : (U.setMove m).dove = U.dove := rfl
@[simp] theorem UnitSt.setMove_tape (U : UnitSt) (m : Move) : (U.setMove m).tape = U.tape := rfl
@[simp] theorem UnitSt.setMove_bar (U : UnitSt) (m : Move) : (U.setMove m).bar = U.bar := rfl
@[simp] theorem UnitSt.setMove_mchecks (U : UnitSt) (m : Move) : (U.setMove m).mchecks = U.mchecks := rfl
@[simp] theorem UnitSt.setMove_mcCount (U : UnitSt) (m : Move) : (U.setMove m).mcCount = U.mcCount := rfl
@[simp] theorem UnitSt.setMove_retiredMark (U : UnitSt) (m : Move) : (U.setMove m).retiredMark = U.retiredMark := rfl
@[simp] theorem UnitSt.setMove_hb (U : UnitSt) (m : Move) : (U.setMove m).hb = U.hb := rfl
@[simp] theorem UnitSt.setMove_stopped (U : UnitSt) (m : Move) : (U.setMove m).stopped = U.stopped := rfl

@[simp] theorem UnitSt.enterSuper_run (U : UnitSt) : (U.enterSuper).run = U.run := rfl
@[simp] theorem UnitSt.enterSuper_id (U : UnitSt) : (U.enterSuper).id = U.id := rfl
@[simp] theorem UnitSt.enterSuper_work (U : UnitSt) : (U.enterSuper).work = U.work := rfl
@[simp] theorem UnitSt.enterSuper_trap (U : UnitSt) : (U.enterSuper).trap = U.trap := rfl
@[simp] theorem UnitSt.enterSuper_rb (U : UnitSt) : (U.enterSuper).rb = U.rb := rfl
@[simp] theorem UnitSt.enterSuper_sb (U : UnitSt) : (U.enterSuper).sb = U.sb := rfl
@[simp] theorem UnitSt.enterSuper_elems (U : UnitSt) : (U.enterSuper).elems = U.elems := rfl
@[simp] theorem UnitSt.enterSuper_parity (U : UnitSt) : (U.enterSuper).parity = U.parity := rfl
@[simp] theorem UnitSt.enterSuper_bind (U : UnitSt) : (U.enterSuper).bind = U.bind := rfl
@[simp] theorem UnitSt.enterSuper_alloc (U : UnitSt) : (U.enterSuper).alloc = U.alloc := rfl
@[simp] theorem UnitSt.enterSuper_dup (U : UnitSt) : (U.enterSuper).dup = U.dup := rfl
@[simp] theorem UnitSt.enterSuper_dcur (U : UnitSt) : (U.enterSuper).dcur = U.dcur := rfl
@[simp] theorem UnitSt.enterSuper_dupRows (U : UnitSt) : (U.enterSuper).dupRows = U.dupRows := rfl
@[simp] theorem UnitSt.enterSuper_streams (U : UnitSt) : (U.enterSuper).streams = U.streams := rfl
@[simp] theorem UnitSt.enterSuper_wins (U : UnitSt) : (U.enterSuper).wins = U.wins := rfl
@[simp] theorem UnitSt.enterSuper_bsets (U : UnitSt) : (U.enterSuper).bsets = U.bsets := rfl
@[simp] theorem UnitSt.enterSuper_fade (U : UnitSt) : (U.enterSuper).fade = U.fade := rfl
@[simp] theorem UnitSt.enterSuper_group (U : UnitSt) : (U.enterSuper).group = U.group := rfl
@[simp] theorem UnitSt.enterSuper_dove (U : UnitSt) : (U.enterSuper).dove = U.dove := rfl
@[simp] theorem UnitSt.enterSuper_tape (U : UnitSt) : (U.enterSuper).tape = U.tape := rfl
@[simp] theorem UnitSt.enterSuper_bar (U : UnitSt) : (U.enterSuper).bar = U.bar := rfl
@[simp] theorem UnitSt.enterSuper_mchecks (U : UnitSt) : (U.enterSuper).mchecks = U.mchecks := rfl
@[simp] theorem UnitSt.enterSuper_mcCount (U : UnitSt) : (U.enterSuper).mcCount = U.mcCount := rfl
@[simp] theorem UnitSt.enterSuper_retiredMark (U : UnitSt) : (U.enterSuper).retiredMark = U.retiredMark := rfl
@[simp] theorem UnitSt.enterSuper_hb (U : UnitSt) : (U.enterSuper).hb = U.hb := rfl
@[simp] theorem UnitSt.enterSuper_stopped (U : UnitSt) : (U.enterSuper).stopped = U.stopped := rfl

@[simp] theorem UnitSt.setBank_run (U : UnitSt) (k b : Nat) (B : Bank) : (U.setBank k b B).run = U.run := by
  simp only [UnitSt.setBank]; split <;> rfl
@[simp] theorem UnitSt.setBank_regs (U : UnitSt) (k b : Nat) (B : Bank) : (U.setBank k b B).regs = U.regs := by
  simp only [UnitSt.setBank]; split <;> rfl
@[simp] theorem UnitSt.setBank_csr (U : UnitSt) (k b : Nat) (B : Bank) : (U.setBank k b B).csr = U.csr := by
  simp only [UnitSt.setBank]; split <;> rfl
@[simp] theorem UnitSt.setBank_id (U : UnitSt) (k b : Nat) (B : Bank) : (U.setBank k b B).id = U.id := by
  simp only [UnitSt.setBank]; split <;> rfl
@[simp] theorem UnitSt.setBank_walk (U : UnitSt) (k b : Nat) (B : Bank) : (U.setBank k b B).walk = U.walk := by
  simp only [UnitSt.setBank]; split <;> rfl
@[simp] theorem UnitSt.setBank_work (U : UnitSt) (k b : Nat) (B : Bank) : (U.setBank k b B).work = U.work := by
  simp only [UnitSt.setBank]; split <;> rfl
@[simp] theorem UnitSt.setBank_trap (U : UnitSt) (k b : Nat) (B : Bank) : (U.setBank k b B).trap = U.trap := by
  simp only [UnitSt.setBank]; split <;> rfl
@[simp] theorem UnitSt.setBank_elems (U : UnitSt) (k b : Nat) (B : Bank) : (U.setBank k b B).elems = U.elems := by
  simp only [UnitSt.setBank]; split <;> rfl
@[simp] theorem UnitSt.setBank_parity (U : UnitSt) (k b : Nat) (B : Bank) : (U.setBank k b B).parity = U.parity := by
  simp only [UnitSt.setBank]; split <;> rfl
@[simp] theorem UnitSt.setBank_bind (U : UnitSt) (k b : Nat) (B : Bank) : (U.setBank k b B).bind = U.bind := by
  simp only [UnitSt.setBank]; split <;> rfl
@[simp] theorem UnitSt.setBank_alloc (U : UnitSt) (k b : Nat) (B : Bank) : (U.setBank k b B).alloc = U.alloc := by
  simp only [UnitSt.setBank]; split <;> rfl
@[simp] theorem UnitSt.setBank_dup (U : UnitSt) (k b : Nat) (B : Bank) : (U.setBank k b B).dup = U.dup := by
  simp only [UnitSt.setBank]; split <;> rfl
@[simp] theorem UnitSt.setBank_dcur (U : UnitSt) (k b : Nat) (B : Bank) : (U.setBank k b B).dcur = U.dcur := by
  simp only [UnitSt.setBank]; split <;> rfl
@[simp] theorem UnitSt.setBank_dupRows (U : UnitSt) (k b : Nat) (B : Bank) : (U.setBank k b B).dupRows = U.dupRows := by
  simp only [UnitSt.setBank]; split <;> rfl
@[simp] theorem UnitSt.setBank_streams (U : UnitSt) (k b : Nat) (B : Bank) : (U.setBank k b B).streams = U.streams := by
  simp only [UnitSt.setBank]; split <;> rfl
@[simp] theorem UnitSt.setBank_wins (U : UnitSt) (k b : Nat) (B : Bank) : (U.setBank k b B).wins = U.wins := by
  simp only [UnitSt.setBank]; split <;> rfl
@[simp] theorem UnitSt.setBank_bsets (U : UnitSt) (k b : Nat) (B : Bank) : (U.setBank k b B).bsets = U.bsets := by
  simp only [UnitSt.setBank]; split <;> rfl
@[simp] theorem UnitSt.setBank_fade (U : UnitSt) (k b : Nat) (B : Bank) : (U.setBank k b B).fade = U.fade := by
  simp only [UnitSt.setBank]; split <;> rfl
@[simp] theorem UnitSt.setBank_group (U : UnitSt) (k b : Nat) (B : Bank) : (U.setBank k b B).group = U.group := by
  simp only [UnitSt.setBank]; split <;> rfl
@[simp] theorem UnitSt.setBank_dove (U : UnitSt) (k b : Nat) (B : Bank) : (U.setBank k b B).dove = U.dove := by
  simp only [UnitSt.setBank]; split <;> rfl
@[simp] theorem UnitSt.setBank_tape (U : UnitSt) (k b : Nat) (B : Bank) : (U.setBank k b B).tape = U.tape := by
  simp only [UnitSt.setBank]; split <;> rfl
@[simp] theorem UnitSt.setBank_bar (U : UnitSt) (k b : Nat) (B : Bank) : (U.setBank k b B).bar = U.bar := by
  simp only [UnitSt.setBank]; split <;> rfl
@[simp] theorem UnitSt.setBank_mchecks (U : UnitSt) (k b : Nat) (B : Bank) : (U.setBank k b B).mchecks = U.mchecks := by
  simp only [UnitSt.setBank]; split <;> rfl
@[simp] theorem UnitSt.setBank_mcCount (U : UnitSt) (k b : Nat) (B : Bank) : (U.setBank k b B).mcCount = U.mcCount := by
  simp only [UnitSt.setBank]; split <;> rfl
@[simp] theorem UnitSt.setBank_retiredMark (U : UnitSt) (k b : Nat) (B : Bank) : (U.setBank k b B).retiredMark = U.retiredMark := by
  simp only [UnitSt.setBank]; split <;> rfl
@[simp] theorem UnitSt.setBank_hb (U : UnitSt) (k b : Nat) (B : Bank) : (U.setBank k b B).hb = U.hb := by
  simp only [UnitSt.setBank]; split <;> rfl
@[simp] theorem UnitSt.setBank_stopped (U : UnitSt) (k b : Nat) (B : Bank) : (U.setBank k b B).stopped = U.stopped := by
  simp only [UnitSt.setBank]; split <;> rfl

@[simp] theorem UnitSt.bank_setBank_same (U : UnitSt) (k b : Nat) (B : Bank) : (U.setBank k b B).bank k b = B := by
  by_cases h : k = 0 <;> simp [UnitSt.setBank, UnitSt.bank, h]
@[simp] theorem UnitSt.pcOf_setPc_same (U : UnitSt) (e : Eng) (a : Nat) : (U.setPc e a).pcOf e = a := by
  simp [UnitSt.setPc, UnitSt.pcOf]
@[simp] theorem UnitSt.redirOf_setRedir_same (U : UnitSt) (e : Eng) (r : Option Redirect) : (U.setRedir e r).redirOf e = r := by
  simp [UnitSt.setRedir, UnitSt.redirOf]
@[simp] theorem UnitSt.loopsOf_setLoops_same (U : UnitSt) (e : Eng) (l : List LoopEnt) : (U.setLoops e l).loopsOf e = l := by
  simp [UnitSt.setLoops, UnitSt.loopsOf]
@[simp] theorem UnitSt.tokens_setTokens_same (U : UnitSt) (p c : Eng) (n : Nat) : (U.setTokens p c n).tokens p c = n := by
  simp [UnitSt.setTokens, UnitSt.tokens]
@[simp] theorem UnitSt.ownWaitOf_setOwnWait_same (U : UnitSt) (e : Eng) (n : Nat) : (U.setOwnWait e n).ownWaitOf e = n := by
  simp [UnitSt.setOwnWait, UnitSt.ownWaitOf]
@[simp] theorem UnitSt.waitOf_setWait_same (U : UnitSt) (e : Eng) (n : Nat) : (U.setWait e n).waitOf e = n := by
  simp [UnitSt.setWait, UnitSt.waitOf]

end Sys2Proof.Machine
end

