-- ==== Sys2Proof/Laws/Issue.lean ====
section
/-! SUPPORT. What a word does when nothing holds it: the shared front of every instruction word reduces to the word's own
part, and what issuing, trapping and the scoreboard leave alone. -/

namespace Sys2Proof.Machine

/-! ### The front of a word -/

@[simp] theorem State.freshen_S (s : State) (u : Nat) (tk : Tok) : s.freshen u .S tk = s := by simp [State.freshen]
@[simp] theorem State.freshen_V (s : State) (u : Nat) (tk : Tok) : s.freshen u .V tk = s := by simp [State.freshen]
@[simp] theorem State.freshen_W (s : State) (u : Nat) (tk : Tok) : s.freshen u .W tk = s := by simp [State.freshen]
@[simp] theorem State.freshen_C (s : State) (u : Nat) (tk : Tok) : s.freshen u .C tk = s := by simp [State.freshen]
@[simp] theorem State.freshen_none (s : State) (u : Nat) (e : Eng) : s.freshen u e .none = s := by
  simp [State.freshen, Tok.waits]

@[simp] theorem State.freshen_mem (s : State) (u : Nat) (e : Eng) (tk : Tok) : (s.freshen u e tk).mem = s.mem := by
  simp only [State.freshen]; split <;> rfl
@[simp] theorem State.freshen_hub (s : State) (u : Nat) (e : Eng) (tk : Tok) : (s.freshen u e tk).hub = s.hub := by
  simp only [State.freshen]; split <;> rfl
@[simp] theorem State.freshen_who (s : State) (u : Nat) (e : Eng) (tk : Tok) : (s.freshen u e tk).who = s.who := by
  simp only [State.freshen]; split <;> rfl

/-- The gate lets a word pass that is ready. -/
theorem State.gate_of_ready {s : State} {u : Nat} {e : Eng} {r : PassRec} {tk : Tok} {g : XP} {regs : List Nat}
    (h : Ready s u e r tk g regs) : s.gate u e r tk true regs = .pass := by
  have h1 := h.slip
  have h2 := h.regs
  have h3 : ((s.unit u).full e && !isMeet r.hdr) = false := by rcases h.room with h | h <;> simp [h]
  have h4 : ¬ ((s.unit u).waitHeld e = true ∨ ((s.unit u).full e = true ∧ (!isMeet r.hdr) = true)) := by
    rw [h.wait]; rintro (hh | hh)
    · cases hh
    · simp [hh.1, hh.2] at h3
  simp only [State.gate, h.token, Bool.not_true, if_neg h4]
  by_cases he : e = .S
  · simp [he, h1 he, h2 he]
  · simp [he]

/-- A word that is ready comes to its own part, in the state in which its engine's read-ahead has been emptied if need be. -/
theorem State.word_of_ready {s : State} {u : Nat} {e : Eng} {r : PassRec} {tk : Tok} {g : XP} {regs : List Nat}
    (h : Ready s u e r tk g regs) (rc : State → PassRec → Rec) (body : State → UnitSt → PassRec → Flight → Res) :
    State.word s tk g regs rc body = (s.freshen u e tk).settle u e r tk (rc s r)
      (body (s.freshen u e tk) ((s.freshen u e tk).unit u) r (s.flight u e r tk)) := by
  have hw := h.who
  have hu : ¬ 768 ≤ u := by have := h.unit; omega
  have hn : ¬ ((s.unit u).inHandler = true ∧ tk ≠ .none) := fun hh => hh.2 (h.handler hh.1).2
  have hs : ¬ (((s.unit u).inHandler = true ∧ e ≠ .S) ∨ (e = .S ∧ (s.unit u).sHeld = true)) := by
    rintro (hh | hh)
    · exact hh.2 (h.handler hh.1).1
    · have := h.free hh.1; simp_all
  unfold State.word
  simp only [hw, hu, if_false, h.runs, h.here, h.guard, hn, hs, State.gate_of_ready h, State.flight, if_true, Bool.not_true]
  rfl

/-- An S word that is ready. -/
theorem State.sWord_of_ready {s : State} {u : Nat} {r : PassRec} {tk : Tok} {g : XP} {regs : List Nat}
    (h : SReady s u r tk g regs) (body : State → UnitSt → PassRec → Flight → Res) :
    s.sWord tk g regs body = s.swordCheck.settle u .S r tk ⟨none, []⟩
      (body s.swordCheck (s.swordCheck.unit u) r (s.swordCheck.flight u .S r tk)) := by
  rw [State.sWord, State.word_of_ready h, State.freshen_S]

/-- A serial S word that is ready, where no S word is in flight. -/
theorem State.sSerial_of_ready {s : State} {u : Nat} {r : PassRec} {tk : Tok} {g : XP} {regs : List Nat}
    (h : SReady s u r tk g regs) (hi : (s.swordCheck.unit u).sIdle) (body : State → UnitSt → PassRec → Flight → Res) :
    s.sSerial tk g regs body = s.swordCheck.settle u .S r tk ⟨none, []⟩
      (body s.swordCheck (s.swordCheck.unit u) r (s.swordCheck.flight u .S r tk)) := by
  rw [State.sSerial, State.sWord_of_ready h]
  have hf : ((s.swordCheck.unit u).work.fl.any fun f => f.eng == .S) = false := by
    rw [List.any_eq_false]
    intro f hf
    simpa using hi f hf
  rw [hf]
  rfl

/-- A word of L, V, W or M that is ready. -/
theorem State.eWord_of_ready {s : State} {u : Nat} {e : Eng} {r : PassRec} {tk : Tok} {g : XP}
    (h : Ready s u e r tk g []) (body : State → UnitSt → PassRec → Flight → Res) :
    s.eWord tk g body = (s.freshen u e tk).settle u e r tk ⟨none, []⟩
      (body (s.freshen u e tk) ((s.freshen u e tk).unit u) r (s.flight u e r tk)) :=
  State.word_of_ready h (fun _ _ => ⟨none, []⟩) body

/-- A word of S that writes one x register. -/
theorem State.xWord_of_ready {s : State} {u : Nat} {r : PassRec} {tk : Tok} {g : XP} {rd : List Nat}
    (h : SReady s u r tk g rd) (d : Nat) (v : UnitSt → Word) :
    s.xWord tk g d rd v = .next (s.swordCheck.leavesX u r tk d (v (s.swordCheck.unit u))) := by
  rw [State.xWord, State.sWord_of_ready h]
  rfl

/-- A word of S that writes one predicate. -/
theorem State.pWord_of_ready {s : State} {u : Nat} {r : PassRec} {tk : Tok} {g : XP} {rd : List Nat}
    (h : SReady s u r tk g rd) (d : Nat) (v : UnitSt → Bool) :
    s.pWord tk g d rd v = .next (s.swordCheck.leavesP u r tk d (v (s.swordCheck.unit u))) := by
  rw [State.pWord, State.sWord_of_ready h]
  rfl

/-- The unit that a ready S word acts on. -/
theorem who_of_sready {s : State} {u : Nat} {r : PassRec} {tk : Tok} {g : XP} {regs : List Nat}
    (h : SReady s u r tk g regs) : s.swordCheck.who = (u, .S) := h.who

/-! ### Where nothing is recorded, an S word begins in the state it finds -/

theorem State.swordCheck_of_not_recording {s : State} (h : (s.unit s.who.1).tape.run ≠ 1) : s.swordCheck = s := by
  simp [State.swordCheck, h]

end Sys2Proof.Machine
end

