-- ==== Sys2Proof/Laws/Words.lean ====
section
/-! SUPPORT. The values of the scalar words: the model's structural functions beside the closed forms of the statements. -/

namespace Sys2Proof.Machine

/-- SignExt of R47 is the sign extension of a field. -/
theorem sxWord_eq_sx (v n : Nat) (h0 : 0 < n) (h1 : n ≤ 64) : sxWord v n = sx v n := by
  apply BitVec.eq_of_toNat_eq
  simp only [sxWord, sx, signExt, BitVec.toNat_ofNat]
  rw [if_neg (by omega), BitVec.toNat_signExtend, BitVec.msb_eq_decide]
  simp only [BitVec.toNat_setWidth, BitVec.toNat_ofNat]
  have hle : 2 ^ n ≤ 2 ^ 64 := Nat.pow_le_pow_right (by omega) h1
  have hlt : v % 2 ^ n < 2 ^ n := Nat.mod_lt _ (by positivity)
  have h64 : (18446744073709551616 : Nat) = 2 ^ 64 := by norm_num
  have hm : v % 2 ^ n % 2 ^ 64 = v % 2 ^ n := Nat.mod_eq_of_lt (by omega)
  by_cases hb : 2 ^ (n - 1) ≤ v % 2 ^ n
  · simp only [hb, if_true, decide_true, hm]
    rw [Nat.mod_mod, Nat.mod_eq_of_lt (by omega)]
    omega
  · simp only [hb, if_false, decide_false, hm]
    simp

/-- The count of leading zeros of the low bits, by the logarithm. -/
theorem clzFrom_eq (a : Word) (n : Nat) (hn : n ≤ 64) : clzFrom a n = n - (if a.toNat % 2 ^ n = 0 then 0 else Nat.log2 (a.toNat % 2 ^ n) + 1) := by
  induction n with
  | zero => simp [clzFrom]
  | succ n ih =>
    simp only [clzFrom]
    have hd : a.toNat % 2 ^ (n+1) = a.toNat % 2 ^ n + 2 ^ n * (a.toNat / 2 ^ n % 2) := by
      rw [Nat.pow_succ, Nat.mod_mul]
    have hb : a.getLsbD n = decide (a.toNat / 2 ^ n % 2 = 1) := by
      simp [BitVec.getLsbD, Nat.testBit_eq_decide_div_mod_eq]
    have hlt : a.toNat % 2 ^ n < 2 ^ n := Nat.mod_lt _ (by positivity)
    by_cases h : a.getLsbD n = true
    · rw [if_pos h]
      have h1 : a.toNat / 2 ^ n % 2 = 1 := by simpa [hb] using h
      have h2 : a.toNat % 2 ^ (n+1) = 2 ^ n + a.toNat % 2 ^ n := by rw [hd, h1]; ring
      have hl : Nat.log2 (2 ^ n + a.toNat % 2 ^ n) = n := by
        rw [Nat.log2_eq_iff (by positivity)]
        constructor
        · omega
        · rw [Nat.pow_succ]; omega
      rw [h2, if_neg (by have : 0 < 2 ^ n := by positivity
                         omega), hl]
      omega
    · rw [if_neg h]
      have h1 : a.toNat / 2 ^ n % 2 = 0 := by
        have : a.toNat / 2 ^ n % 2 ≠ 1 := by simpa [hb] using h
        omega
      have h2 : a.toNat % 2 ^ (n+1) = a.toNat % 2 ^ n := by rw [hd, h1]; ring
      rw [h2, ih (by omega)]
      split
      · omega
      · rename_i h3
        have : Nat.log2 (a.toNat % 2 ^ n) < n := (Nat.log2_lt h3).2 hlt
        omega

/-- CLZ. -/
theorem clz_eq (a : Word) : BitVec.ofNat 64 (clzFrom a 64) = if a = 0 then 64 else BitVec.ofNat 64 (63 - Nat.log2 a.toNat) := by
  rw [clzFrom_eq a 64 (by omega), Nat.mod_eq_of_lt a.isLt]
  by_cases h : a = 0
  · subst h; rfl
  · have : a.toNat ≠ 0 := fun h' => h (BitVec.eq_of_toNat_eq (by simpa using h'))
    rw [if_neg this, if_neg h]
    congr 1
    omega

/-- POPC. -/
theorem popFrom_eq (a : Word) (n : Nat) : popFrom a n = ((List.range n).filter fun i => a.getLsbD i).length := by
  induction n with
  | zero => rfl
  | succ n ih =>
    rw [popFrom, ih, List.range_succ, List.filter_append]
    simp only [List.length_append, List.filter_cons, List.filter_nil]
    split <;> simp [Nat.add_comm]

/-- PTOX: a sum of powers of two is a number read bit by bit. -/
theorem preds_eq (p : Nat → Bool) (n : Nat) : ((List.range n).map fun i => if p i then 2 ^ i else 0).sum
    = (List.range n).foldr (fun i m => (if p i then 1 else 0) + 2 * m) 0 := by
  induction n generalizing p with
  | zero => rfl
  | succ n ih =>
    rw [List.range_succ_eq_map]
    simp only [List.map_cons, List.map_map, List.sum_cons, List.foldr_cons, List.foldr_map]
    have := ih (fun i => p (i + 1))
    have h2 : ((List.range n).map ((fun i => if p i = true then 2 ^ i else 0) ∘ Nat.succ)).sum
       = 2 * ((List.range n).map fun i => if p (i + 1) = true then 2 ^ i else 0).sum := by
      rw [← List.sum_map_mul_left]
      congr 1
      apply List.map_congr_left
      intro i _
      simp only [Function.comp]
      split <;> simp [Nat.pow_succ]; ring
    rw [h2, this]
    simp

/-- EXT of at most 64 bits. -/
theorem extField_eq (a : Word) (s pos w : Nat) (h0 : 0 < w) (hw : w ≤ 64) : extField a s pos w =
   if s = 1 then (a.extractLsb' pos w).signExtend 64 else (a.extractLsb' pos w).setWidth 64 := by
  have hx : BitVec.ofNat w (fld a.toNat pos w) = a.extractLsb' pos w := by
    apply BitVec.eq_of_toNat_eq
    simp [fld, Nat.shiftRight_eq_div_pow]
  simp only [extField]
  split
  · rw [sxWord_eq_sx _ _ h0 hw, sx, hx]
  · apply BitVec.eq_of_toNat_eq
    simp [fld, Nat.shiftRight_eq_div_pow]

/-- EXT of any width. -/
theorem extField_eq_any (a : Word) (s pos w : Nat) (h0 : 0 < w) : extField a s pos w =
    if s = 1 then (a.extractLsb' pos w).signExtend 64 else (a.extractLsb' pos w).setWidth 64 := by
  rcases Nat.lt_or_ge 64 w with hw | hw
  · have hlt : a.toNat / 2 ^ pos < 2 ^ 64 := Nat.lt_of_le_of_lt (Nat.div_le_self _ _) a.isLt
    have hle : (2 : Nat) ^ 64 ≤ 2 ^ (w - 1) := Nat.pow_le_pow_right (by omega) (by omega)
    have hle2 : (2 : Nat) ^ 64 ≤ 2 ^ w := Nat.pow_le_pow_right (by omega) (by omega)
    have hf : fld a.toNat pos w = a.toNat / 2 ^ pos := Nat.mod_eq_of_lt (by omega)
    have hx : (a.extractLsb' pos w).toNat = a.toNat / 2 ^ pos := by
      rw [BitVec.extractLsb'_toNat, Nat.shiftRight_eq_div_pow, Nat.mod_eq_of_lt (by omega)]
    have hmsb : (a.extractLsb' pos w).msb = false := by
      rw [BitVec.msb_eq_decide, hx]; simp; omega
    simp only [extField, hf]
    split
    · apply BitVec.eq_of_toNat_eq
      rw [BitVec.toNat_signExtend, hmsb, BitVec.toNat_setWidth, hx]
      simp only [sxWord, signExt, BitVec.toNat_ofNat]
      rw [if_neg (by omega), Nat.mod_eq_of_lt (show a.toNat / 2 ^ pos < 2 ^ w by omega), if_neg (by omega)]
      simp
    · apply BitVec.eq_of_toNat_eq
      rw [BitVec.toNat_setWidth, hx, BitVec.toNat_ofNat]
  · exact extField_eq a s pos w h0 hw

end Sys2Proof.Machine
end

