-- ==== Sys2Proof/Laws/Access.lean ====
section
/-! SUPPORT. What an access comes to (R107, R112, R135) and what a memory word of S does with it. -/

namespace Sys2Proof.Machine

theorem memOff_eq (U : UnitSt) (b : Nat) (m : XM) : U.memOff b m = offsetOf U b m := by
  simp only [UnitSt.memOff, offsetOf, ← sxWord_eq_sx m.off 16 (by omega) (by omega), sxWord, BitVec.toNat_add, BitVec.toNat_ofNat]
  simp

theorem effScope_eq (c : Cap) (m : XM) : effScope c.space m.scope = scopeOf c m := rfl

/-- An access that passes its checks, its banks and its translation. -/
theorem State.access_of_reaches {s : State} {u : Nat} {c : Cap} {k o n perm align text key a : Nat} {kind : AccKind}
    (h : Reaches s u c o n perm align kind key a) : s.access u c k o n perm align text kind = .ok key a := by
  obtain ⟨h1, h2, h3, h4, h5, h6, h7, h8⟩ := h
  subst h4
  have hc : c.check o n perm = .ok (c.base + o) := by
    simp [Cap.check, h1, h2, Nat.not_lt.2 h3]
  have hsp : (if c.space = 1 then s.spadChk u (c.base + o) n (decide (kind ≠ .write)) else .ok) = .ok := by
    split
    · exact h7 ‹_›
    · rfl
  unfold State.access
  rw [hc]
  simp only [h6, and_false, if_false, h5, hsp, h8, ne_eq, not_true_eq_false]

/-- A memory word of S whose access reaches its bytes and is not in a race leaves its operation. -/
theorem State.memIssue_of_reaches {s s1 : State} {u : Nat} {r : PassRec} {f : Flight} {q : MemReq} {key a : Nat}
    (hq : (s.unit u).acquiring = false) (hr : (s.unit u).room q.isLoad = true)
    (h : Reaches s u ((s.unit u).kS q.k) q.o q.n q.perm q.n q.kind key a)
    (hc : s.raceFree u .S ((s.unit u).kS q.k) key q.n (decide (q.kind ≠ .read)) q.scope s1) :
    s.memIssue u r f q = .go (s1.setUnit u ((s1.unit u).addSop q.isLoad
      (q.sop f.id ⟨((s.unit u).kS q.k).space, a, some key⟩))) f := by
  dsimp only [State.memIssue]
  rw [State.access_of_reaches h]
  simp only [hq, hr, Bool.not_true, Bool.false_eq_true, or_self, if_false]
  by_cases hcc : checkedCap ((s.unit u).kS q.k) = true
  · rw [State.raceFree, if_pos hcc] at hc
    rw [if_pos hcc, hc]
  · rw [State.raceFree, if_neg hcc] at hc
    rw [if_neg hcc, hc]

/-- A memory word of S whose access fails a check. -/
theorem State.memIssue_of_trap {s s1 : State} {u : Nat} {r : PassRec} {f : Flight} {q : MemReq} {cause : Cause} {i0 i1 : Nat}
    (hq : (s.unit u).acquiring = false) (hr : (s.unit u).room q.isLoad = true)
    (h : s.access u ((s.unit u).kS q.k) q.k q.o q.n q.perm q.n r.addr q.kind = .trap s1 cause i0 i1) :
    s.memIssue u r f q = .trapAt s1 cause i0 i1 := by
  dsimp only [State.memIssue]
  rw [h]
  simp only [hq, hr, Bool.not_true, Bool.false_eq_true, or_self, if_false]

end Sys2Proof.Machine
end

