-- ==== Sys2Proof/Laws/PerInstr.lean ====
section
/-! SUPPORT. The family `Coded`: what the encoding of each instruction is, as syntax. One lemma per constructor of `Instr`. -/

namespace Sys2Proof.Laws.Coded

set_option Elab.async false

open Sys2Proof

/-- An instruction is one or two words long (R29) and its encoding has that many words; the entries of the agenda that are no
words of an engine, and only they, have no encoding. -/
def Statement (i : Instr) : Prop :=
  (encode i).length = i.len ∧ i.len ≤ 2 ∧ i.eng.isNone = decide (i.len = 0)

theorem add : ∀ tk d a b g, Statement (.add tk d a b g) := by
  intro tk d a b g; cases g <;> exact ⟨rfl, Nat.le_of_ble_eq_true rfl, rfl⟩
theorem sub : ∀ tk d a b g, Statement (.sub tk d a b g) := by
  intro tk d a b g; cases g <;> exact ⟨rfl, Nat.le_of_ble_eq_true rfl, rfl⟩
theorem and : ∀ tk d a b g, Statement (.and tk d a b g) := by
  intro tk d a b g; cases g <;> exact ⟨rfl, Nat.le_of_ble_eq_true rfl, rfl⟩
theorem or : ∀ tk d a b g, Statement (.or tk d a b g) := by
  intro tk d a b g; cases g <;> exact ⟨rfl, Nat.le_of_ble_eq_true rfl, rfl⟩
theorem xor : ∀ tk d a b g, Statement (.xor tk d a b g) := by
  intro tk d a b g; cases g <;> exact ⟨rfl, Nat.le_of_ble_eq_true rfl, rfl⟩
theorem sll : ∀ tk d a b g, Statement (.sll tk d a b g) := by
  intro tk d a b g; cases g <;> exact ⟨rfl, Nat.le_of_ble_eq_true rfl, rfl⟩
theorem srl : ∀ tk d a b g, Statement (.srl tk d a b g) := by
  intro tk d a b g; cases g <;> exact ⟨rfl, Nat.le_of_ble_eq_true rfl, rfl⟩
theorem sra : ∀ tk d a b g, Statement (.sra tk d a b g) := by
  intro tk d a b g; cases g <;> exact ⟨rfl, Nat.le_of_ble_eq_true rfl, rfl⟩
theorem mul : ∀ tk d a b g, Statement (.mul tk d a b g) := by
  intro tk d a b g; cases g <;> exact ⟨rfl, Nat.le_of_ble_eq_true rfl, rfl⟩
theorem mulh : ∀ tk d a b g, Statement (.mulh tk d a b g) := by
  intro tk d a b g; cases g <;> exact ⟨rfl, Nat.le_of_ble_eq_true rfl, rfl⟩
theorem mulhu : ∀ tk d a b g, Statement (.mulhu tk d a b g) := by
  intro tk d a b g; cases g <;> exact ⟨rfl, Nat.le_of_ble_eq_true rfl, rfl⟩
theorem div : ∀ tk d a b g, Statement (.div tk d a b g) := by
  intro tk d a b g; cases g <;> exact ⟨rfl, Nat.le_of_ble_eq_true rfl, rfl⟩
theorem divu : ∀ tk d a b g, Statement (.divu tk d a b g) := by
  intro tk d a b g; cases g <;> exact ⟨rfl, Nat.le_of_ble_eq_true rfl, rfl⟩
theorem rem : ∀ tk d a b g, Statement (.rem tk d a b g) := by
  intro tk d a b g; cases g <;> exact ⟨rfl, Nat.le_of_ble_eq_true rfl, rfl⟩
theorem remu : ∀ tk d a b g, Statement (.remu tk d a b g) := by
  intro tk d a b g; cases g <;> exact ⟨rfl, Nat.le_of_ble_eq_true rfl, rfl⟩
theorem min : ∀ tk d a b g, Statement (.min tk d a b g) := by
  intro tk d a b g; cases g <;> exact ⟨rfl, Nat.le_of_ble_eq_true rfl, rfl⟩
theorem max : ∀ tk d a b g, Statement (.max tk d a b g) := by
  intro tk d a b g; cases g <;> exact ⟨rfl, Nat.le_of_ble_eq_true rfl, rfl⟩
theorem minu : ∀ tk d a b g, Statement (.minu tk d a b g) := by
  intro tk d a b g; cases g <;> exact ⟨rfl, Nat.le_of_ble_eq_true rfl, rfl⟩
theorem maxu : ∀ tk d a b g, Statement (.maxu tk d a b g) := by
  intro tk d a b g; cases g <;> exact ⟨rfl, Nat.le_of_ble_eq_true rfl, rfl⟩
theorem slt : ∀ tk d a b g, Statement (.slt tk d a b g) := by
  intro tk d a b g; cases g <;> exact ⟨rfl, Nat.le_of_ble_eq_true rfl, rfl⟩
theorem sltu : ∀ tk d a b g, Statement (.sltu tk d a b g) := by
  intro tk d a b g; cases g <;> exact ⟨rfl, Nat.le_of_ble_eq_true rfl, rfl⟩
theorem seq : ∀ tk d a b g, Statement (.seq tk d a b g) := by
  intro tk d a b g; cases g <;> exact ⟨rfl, Nat.le_of_ble_eq_true rfl, rfl⟩
theorem clz : ∀ tk d a g, Statement (.clz tk d a g) := by
  intro tk d a g; cases g <;> exact ⟨rfl, Nat.le_of_ble_eq_true rfl, rfl⟩
theorem popc : ∀ tk d a g, Statement (.popc tk d a g) := by
  intro tk d a g; cases g <;> exact ⟨rfl, Nat.le_of_ble_eq_true rfl, rfl⟩
theorem ext : ∀ tk d a sx pos wm1, Statement (.ext tk d a sx pos wm1) := by
  intro tk d a sx pos wm1; exact ⟨rfl, Nat.le_of_ble_eq_true rfl, rfl⟩
theorem addi : ∀ tk d a imm g, Statement (.addi tk d a imm g) := by
  intro tk d a imm g; cases g <;> exact ⟨rfl, Nat.le_of_ble_eq_true rfl, rfl⟩
theorem liShort : ∀ tk d imm, Statement (.liShort tk d imm) := by
  intro tk d imm; exact ⟨rfl, Nat.le_of_ble_eq_true rfl, rfl⟩
theorem liLong : ∀ tk d imm32, Statement (.liLong tk d imm32) := by
  intro tk d imm32; exact ⟨rfl, Nat.le_of_ble_eq_true rfl, rfl⟩
theorem andi : ∀ tk d a imm g, Statement (.andi tk d a imm g) := by
  intro tk d a imm g; cases g <;> exact ⟨rfl, Nat.le_of_ble_eq_true rfl, rfl⟩
theorem ori : ∀ tk d a imm g, Statement (.ori tk d a imm g) := by
  intro tk d a imm g; cases g <;> exact ⟨rfl, Nat.le_of_ble_eq_true rfl, rfl⟩
theorem xori : ∀ tk d a imm g, Statement (.xori tk d a imm g) := by
  intro tk d a imm g; cases g <;> exact ⟨rfl, Nat.le_of_ble_eq_true rfl, rfl⟩
theorem shi : ∀ tk d a imm kind, Statement (.shi tk d a imm kind) := by
  intro tk d a imm kind; exact ⟨rfl, Nat.le_of_ble_eq_true rfl, rfl⟩
theorem add128 : ∀ tk d a b g, Statement (.add128 tk d a b g) := by
  intro tk d a b g; cases g <;> exact ⟨rfl, Nat.le_of_ble_eq_true rfl, rfl⟩
theorem pcmp : ∀ tk d a b cond, Statement (.pcmp tk d a b cond) := by
  intro tk d a b cond; exact ⟨rfl, Nat.le_of_ble_eq_true rfl, rfl⟩
theorem pset : ∀ tk d v g, Statement (.pset tk d v g) := by
  intro tk d v g; cases g <;> exact ⟨rfl, Nat.le_of_ble_eq_true rfl, rfl⟩
theorem pand : ∀ tk d a b g, Statement (.pand tk d a b g) := by
  intro tk d a b g; cases g <;> exact ⟨rfl, Nat.le_of_ble_eq_true rfl, rfl⟩
theorem por : ∀ tk d a b g, Statement (.por tk d a b g) := by
  intro tk d a b g; cases g <;> exact ⟨rfl, Nat.le_of_ble_eq_true rfl, rfl⟩
theorem pxor : ∀ tk d a b g, Statement (.pxor tk d a b g) := by
  intro tk d a b g; cases g <;> exact ⟨rfl, Nat.le_of_ble_eq_true rfl, rfl⟩
theorem pnot : ∀ tk d a g, Statement (.pnot tk d a g) := by
  intro tk d a g; cases g <;> exact ⟨rfl, Nat.le_of_ble_eq_true rfl, rfl⟩
theorem ptox : ∀ tk d g, Statement (.ptox tk d g) := by
  intro tk d g; cases g <;> exact ⟨rfl, Nat.le_of_ble_eq_true rfl, rfl⟩
theorem xtop : ∀ tk a g, Statement (.xtop tk a g) := by
  intro tk a g; cases g <;> exact ⟨rfl, Nat.le_of_ble_eq_true rfl, rfl⟩
theorem kld : ∀ tk d a b m, Statement (.kld tk d a b m) := by
  intro tk d a b m; exact ⟨rfl, Nat.le_of_ble_eq_true rfl, rfl⟩
theorem kst : ∀ tk d a b m, Statement (.kst tk d a b m) := by
  intro tk d a b m; exact ⟨rfl, Nat.le_of_ble_eq_true rfl, rfl⟩
theorem ksub : ∀ tk d a b imm32, Statement (.ksub tk d a b imm32) := by
  intro tk d a b imm32; exact ⟨rfl, Nat.le_of_ble_eq_true rfl, rfl⟩
theorem kperm : ∀ tk d a perm, Statement (.kperm tk d a perm) := by
  intro tk d a perm; exact ⟨rfl, Nat.le_of_ble_eq_true rfl, rfl⟩
theorem kmov : ∀ tk d a g, Statement (.kmov tk d a g) := by
  intro tk d a g; cases g <;> exact ⟨rfl, Nat.le_of_ble_eq_true rfl, rfl⟩
theorem kget : ∀ tk d a imm g, Statement (.kget tk d a imm g) := by
  intro tk d a imm g; cases g <;> exact ⟨rfl, Nat.le_of_ble_eq_true rfl, rfl⟩
theorem ktest : ∀ tk d a imm g, Statement (.ktest tk d a imm g) := by
  intro tk d a imm g; cases g <;> exact ⟨rfl, Nat.le_of_ble_eq_true rfl, rfl⟩
theorem ld : ∀ tk d a b m, Statement (.ld tk d a b m) := by
  intro tk d a b m; exact ⟨rfl, Nat.le_of_ble_eq_true rfl, rfl⟩
theorem st : ∀ tk d a b m, Statement (.st tk d a b m) := by
  intro tk d a b m; exact ⟨rfl, Nat.le_of_ble_eq_true rfl, rfl⟩
theorem ldaq : ∀ tk d a b m, Statement (.ldaq tk d a b m) := by
  intro tk d a b m; exact ⟨rfl, Nat.le_of_ble_eq_true rfl, rfl⟩
theorem strl : ∀ tk d a b m, Statement (.strl tk d a b m) := by
  intro tk d a b m; exact ⟨rfl, Nat.le_of_ble_eq_true rfl, rfl⟩
theorem amo : ∀ tk d a b m, Statement (.amo tk d a b m) := by
  intro tk d a b m; exact ⟨rfl, Nat.le_of_ble_eq_true rfl, rfl⟩
theorem cas : ∀ tk d a b m, Statement (.cas tk d a b m) := by
  intro tk d a b m; exact ⟨rfl, Nat.le_of_ble_eq_true rfl, rfl⟩
theorem fence : ∀ tk kind scope, Statement (.fence tk kind scope) := by
  intro tk kind scope; exact ⟨rfl, Nat.le_of_ble_eq_true rfl, rfl⟩
theorem nmc : ∀ tk d a b m, Statement (.nmc tk d a b m) := by
  intro tk d a b m; exact ⟨rfl, Nat.le_of_ble_eq_true rfl, rfl⟩
theorem nmfence : ∀ tk, Statement (.nmfence tk) := by
  intro tk; exact ⟨rfl, Nat.le_of_ble_eq_true rfl, rfl⟩
theorem qpush : ∀ tk d stage g, Statement (.qpush tk d stage g) := by
  intro tk d stage g; cases g <;> exact ⟨rfl, Nat.le_of_ble_eq_true rfl, rfl⟩
theorem qpop : ∀ tk d g, Statement (.qpop tk d g) := by
  intro tk d g; cases g <;> exact ⟨rfl, Nat.le_of_ble_eq_true rfl, rfl⟩
theorem bar : ∀ tk num scope, Statement (.bar tk num scope) := by
  intro tk num scope; exact ⟨rfl, Nat.le_of_ble_eq_true rfl, rfl⟩
theorem sset : ∀ tk d a b m, Statement (.sset tk d a b m) := by
  intro tk d a b m; exact ⟨rfl, Nat.le_of_ble_eq_true rfl, rfl⟩
theorem sget : ∀ tk d a imm g, Statement (.sget tk d a imm g) := by
  intro tk d a imm g; cases g <;> exact ⟨rfl, Nat.le_of_ble_eq_true rfl, rfl⟩
theorem spos : ∀ tk d a g, Statement (.spos tk d a g) := by
  intro tk d a g; cases g <;> exact ⟨rfl, Nat.le_of_ble_eq_true rfl, rfl⟩
theorem tcont : ∀ tk d a b m, Statement (.tcont tk d a b m) := by
  intro tk d a b m; exact ⟨rfl, Nat.le_of_ble_eq_true rfl, rfl⟩
theorem tevt : ∀ tk d act ev g, Statement (.tevt tk d act ev g) := by
  intro tk d act ev g; cases g <;> exact ⟨rfl, Nat.le_of_ble_eq_true rfl, rfl⟩
theorem targ : ∀ tk d a sx size g, Statement (.targ tk d a sx size g) := by
  intro tk d a sx size g; cases g <;> exact ⟨rfl, Nat.le_of_ble_eq_true rfl, rfl⟩
theorem jguard : ∀ tk a size, Statement (.jguard tk a size) := by
  intro tk a size; exact ⟨rfl, Nat.le_of_ble_eq_true rfl, rfl⟩
theorem jpatch : ∀ tk d a, Statement (.jpatch tk d a) := by
  intro tk d a; exact ⟨rfl, Nat.le_of_ble_eq_true rfl, rfl⟩
theorem jmark : ∀ tk imm, Statement (.jmark tk imm) := by
  intro tk imm; exact ⟨rfl, Nat.le_of_ble_eq_true rfl, rfl⟩
theorem jstat : ∀ tk d imm, Statement (.jstat tk d imm) := by
  intro tk d imm; exact ⟨rfl, Nat.le_of_ble_eq_true rfl, rfl⟩
theorem opreq : ∀ tk d q imm32, Statement (.opreq tk d q imm32) := by
  intro tk d q imm32; exact ⟨rfl, Nat.le_of_ble_eq_true rfl, rfl⟩
theorem oprel : ∀ tk, Statement (.oprel tk) := by
  intro tk; exact ⟨rfl, Nat.le_of_ble_eq_true rfl, rfl⟩
theorem opget : ∀ tk d imm g, Statement (.opget tk d imm g) := by
  intro tk d imm g; cases g <;> exact ⟨rfl, Nat.le_of_ble_eq_true rfl, rfl⟩
theorem csrr : ∀ tk d csr, Statement (.csrr tk d csr) := by
  intro tk d csr; exact ⟨rfl, Nat.le_of_ble_eq_true rfl, rfl⟩
theorem csrw : ∀ tk d csr, Statement (.csrw tk d csr) := by
  intro tk d csr; exact ⟨rfl, Nat.le_of_ble_eq_true rfl, rfl⟩
theorem trap : ∀ tk imm, Statement (.trap tk imm) := by
  intro tk imm; exact ⟨rfl, Nat.le_of_ble_eq_true rfl, rfl⟩
theorem reti : ∀ tk, Statement (.reti tk) := by
  intro tk; exact ⟨rfl, Nat.le_of_ble_eq_true rfl, rfl⟩
theorem decline : ∀ tk, Statement (.decline tk) := by
  intro tk; exact ⟨rfl, Nat.le_of_ble_eq_true rfl, rfl⟩
theorem ctxsave : ∀ tk a b, Statement (.ctxsave tk a b) := by
  intro tk a b; exact ⟨rfl, Nat.le_of_ble_eq_true rfl, rfl⟩
theorem ctxload : ∀ tk a b, Statement (.ctxload tk a b) := by
  intro tk a b; exact ⟨rfl, Nat.le_of_ble_eq_true rfl, rfl⟩
theorem nopS : ∀ tk, Statement (.nopS tk) := by
  intro tk; exact ⟨rfl, Nat.le_of_ble_eq_true rfl, rfl⟩
theorem waitS : ∀ tk w, Statement (.waitS tk w) := by
  intro tk w; exact ⟨rfl, Nat.le_of_ble_eq_true rfl, rfl⟩
theorem lsv : ∀ tk s sp g, Statement (.lsv tk s sp g) := by
  intro tk s sp g; cases g <;> exact ⟨rfl, Nat.le_of_ble_eq_true rfl, rfl⟩
theorem lgath : ∀ tk s sp x, Statement (.lgath tk s sp x) := by
  intro tk s sp x; exact ⟨rfl, Nat.le_of_ble_eq_true rfl, rfl⟩
theorem lbrd : ∀ tk s sp g, Statement (.lbrd tk s sp g) := by
  intro tk s sp g; cases g <;> exact ⟨rfl, Nat.le_of_ble_eq_true rfl, rfl⟩
theorem sgoL : ∀ tk s g, Statement (.sgoL tk s g) := by
  intro tk s g; cases g <;> exact ⟨rfl, Nat.le_of_ble_eq_true rfl, rfl⟩
theorem sskipL : ∀ tk s imm32, Statement (.sskipL tk s imm32) := by
  intro tk s imm32; exact ⟨rfl, Nat.le_of_ble_eq_true rfl, rfl⟩
theorem srewL : ∀ tk s g, Statement (.srewL tk s g) := by
  intro tk s g; cases g <;> exact ⟨rfl, Nat.le_of_ble_eq_true rfl, rfl⟩
theorem sdropL : ∀ tk s g, Statement (.sdropL tk s g) := by
  intro tk s g; cases g <;> exact ⟨rfl, Nat.le_of_ble_eq_true rfl, rfl⟩
theorem nopL : ∀ tk, Statement (.nopL tk) := by
  intro tk; exact ⟨rfl, Nat.le_of_ble_eq_true rfl, rfl⟩
theorem waitL : ∀ tk w, Statement (.waitL tk w) := by
  intro tk w; exact ⟨rfl, Nat.le_of_ble_eq_true rfl, rfl⟩
theorem wsv : ∀ tk s sp last g, Statement (.wsv tk s sp last g) := by
  intro tk s sp last g; cases g <;> exact ⟨rfl, Nat.le_of_ble_eq_true rfl, rfl⟩
theorem wscat : ∀ tk s sp last x, Statement (.wscat tk s sp last x) := by
  intro tk s sp last x; exact ⟨rfl, Nat.le_of_ble_eq_true rfl, rfl⟩
theorem wacc : ∀ tk s sp last g, Statement (.wacc tk s sp last g) := by
  intro tk s sp last g; cases g <;> exact ⟨rfl, Nat.le_of_ble_eq_true rfl, rfl⟩
theorem sgoW : ∀ tk s g, Statement (.sgoW tk s g) := by
  intro tk s g; cases g <;> exact ⟨rfl, Nat.le_of_ble_eq_true rfl, rfl⟩
theorem sskipW : ∀ tk s imm32, Statement (.sskipW tk s imm32) := by
  intro tk s imm32; exact ⟨rfl, Nat.le_of_ble_eq_true rfl, rfl⟩
theorem srewW : ∀ tk s g, Statement (.srewW tk s g) := by
  intro tk s g; cases g <;> exact ⟨rfl, Nat.le_of_ble_eq_true rfl, rfl⟩
theorem sdropW : ∀ tk s g, Statement (.sdropW tk s g) := by
  intro tk s g; cases g <;> exact ⟨rfl, Nat.le_of_ble_eq_true rfl, rfl⟩
theorem wflush : ∀ tk scope, Statement (.wflush tk scope) := by
  intro tk scope; exact ⟨rfl, Nat.le_of_ble_eq_true rfl, rfl⟩
theorem nopW : ∀ tk, Statement (.nopW tk) := by
  intro tk; exact ⟨rfl, Nat.le_of_ble_eq_true rfl, rfl⟩
theorem waitW : ∀ tk w, Statement (.waitW tk w) := by
  intro tk w; exact ⟨rfl, Nat.le_of_ble_eq_true rfl, rfl⟩
theorem vadd : ∀ tk f x, Statement (.vadd tk f x) := by
  intro tk f x; exact ⟨rfl, Nat.le_of_ble_eq_true rfl, rfl⟩
theorem vsub : ∀ tk f x, Statement (.vsub tk f x) := by
  intro tk f x; exact ⟨rfl, Nat.le_of_ble_eq_true rfl, rfl⟩
theorem vmul : ∀ tk f x, Statement (.vmul tk f x) := by
  intro tk f x; exact ⟨rfl, Nat.le_of_ble_eq_true rfl, rfl⟩
theorem vfma : ∀ tk f x, Statement (.vfma tk f x) := by
  intro tk f x; exact ⟨rfl, Nat.le_of_ble_eq_true rfl, rfl⟩
theorem vfms : ∀ tk f x, Statement (.vfms tk f x) := by
  intro tk f x; exact ⟨rfl, Nat.le_of_ble_eq_true rfl, rfl⟩
theorem vfnma : ∀ tk f x, Statement (.vfnma tk f x) := by
  intro tk f x; exact ⟨rfl, Nat.le_of_ble_eq_true rfl, rfl⟩
theorem vdiv : ∀ tk f x, Statement (.vdiv tk f x) := by
  intro tk f x; exact ⟨rfl, Nat.le_of_ble_eq_true rfl, rfl⟩
theorem vsqrt : ∀ tk f x, Statement (.vsqrt tk f x) := by
  intro tk f x; exact ⟨rfl, Nat.le_of_ble_eq_true rfl, rfl⟩
theorem vrcp : ∀ tk f x, Statement (.vrcp tk f x) := by
  intro tk f x; exact ⟨rfl, Nat.le_of_ble_eq_true rfl, rfl⟩
theorem vrsq : ∀ tk f x, Statement (.vrsq tk f x) := by
  intro tk f x; exact ⟨rfl, Nat.le_of_ble_eq_true rfl, rfl⟩
theorem vexp2 : ∀ tk f x, Statement (.vexp2 tk f x) := by
  intro tk f x; exact ⟨rfl, Nat.le_of_ble_eq_true rfl, rfl⟩
theorem vlog2 : ∀ tk f x, Statement (.vlog2 tk f x) := by
  intro tk f x; exact ⟨rfl, Nat.le_of_ble_eq_true rfl, rfl⟩
theorem vmin : ∀ tk f x, Statement (.vmin tk f x) := by
  intro tk f x; exact ⟨rfl, Nat.le_of_ble_eq_true rfl, rfl⟩
theorem vmax : ∀ tk f x, Statement (.vmax tk f x) := by
  intro tk f x; exact ⟨rfl, Nat.le_of_ble_eq_true rfl, rfl⟩
theorem vabs : ∀ tk f x, Statement (.vabs tk f x) := by
  intro tk f x; exact ⟨rfl, Nat.le_of_ble_eq_true rfl, rfl⟩
theorem vneg : ∀ tk f x, Statement (.vneg tk f x) := by
  intro tk f x; exact ⟨rfl, Nat.le_of_ble_eq_true rfl, rfl⟩
theorem vand : ∀ tk f x, Statement (.vand tk f x) := by
  intro tk f x; exact ⟨rfl, Nat.le_of_ble_eq_true rfl, rfl⟩
theorem vor : ∀ tk f x, Statement (.vor tk f x) := by
  intro tk f x; exact ⟨rfl, Nat.le_of_ble_eq_true rfl, rfl⟩
theorem vxor : ∀ tk f x, Statement (.vxor tk f x) := by
  intro tk f x; exact ⟨rfl, Nat.le_of_ble_eq_true rfl, rfl⟩
theorem vnot : ∀ tk f x, Statement (.vnot tk f x) := by
  intro tk f x; exact ⟨rfl, Nat.le_of_ble_eq_true rfl, rfl⟩
theorem vshl : ∀ tk f x, Statement (.vshl tk f x) := by
  intro tk f x; exact ⟨rfl, Nat.le_of_ble_eq_true rfl, rfl⟩
theorem vshr : ∀ tk f x, Statement (.vshr tk f x) := by
  intro tk f x; exact ⟨rfl, Nat.le_of_ble_eq_true rfl, rfl⟩
theorem vsra : ∀ tk f x, Statement (.vsra tk f x) := by
  intro tk f x; exact ⟨rfl, Nat.le_of_ble_eq_true rfl, rfl⟩
theorem vmulh : ∀ tk f x, Statement (.vmulh tk f x) := by
  intro tk f x; exact ⟨rfl, Nat.le_of_ble_eq_true rfl, rfl⟩
theorem vcmp : ∀ tk f x, Statement (.vcmp tk f x) := by
  intro tk f x; exact ⟨rfl, Nat.le_of_ble_eq_true rfl, rfl⟩
theorem vsel : ∀ tk f x, Statement (.vsel tk f x) := by
  intro tk f x; exact ⟨rfl, Nat.le_of_ble_eq_true rfl, rfl⟩
theorem vmov : ∀ tk f x, Statement (.vmov tk f x) := by
  intro tk f x; exact ⟨rfl, Nat.le_of_ble_eq_true rfl, rfl⟩
theorem vcvt : ∀ tk f x, Statement (.vcvt tk f x) := by
  intro tk f x; exact ⟨rfl, Nat.le_of_ble_eq_true rfl, rfl⟩
theorem vclass : ∀ tk f x, Statement (.vclass tk f x) := by
  intro tk f x; exact ⟨rfl, Nat.le_of_ble_eq_true rfl, rfl⟩
theorem vidx : ∀ tk f x, Statement (.vidx tk f x) := by
  intro tk f x; exact ⟨rfl, Nat.le_of_ble_eq_true rfl, rfl⟩
theorem vbcast : ∀ tk f x, Statement (.vbcast tk f x) := by
  intro tk f x; exact ⟨rfl, Nat.le_of_ble_eq_true rfl, rfl⟩
theorem vextr : ∀ tk f x, Statement (.vextr tk f x) := by
  intro tk f x; exact ⟨rfl, Nat.le_of_ble_eq_true rfl, rfl⟩
theorem vred : ∀ tk f x, Statement (.vred tk f x) := by
  intro tk f x; exact ⟨rfl, Nat.le_of_ble_eq_true rfl, rfl⟩
theorem vscan : ∀ tk f x, Statement (.vscan tk f x) := by
  intro tk f x; exact ⟨rfl, Nat.le_of_ble_eq_true rfl, rfl⟩
theorem vshuf : ∀ tk f x, Statement (.vshuf tk f x) := by
  intro tk f x; exact ⟨rfl, Nat.le_of_ble_eq_true rfl, rfl⟩
theorem vrot : ∀ tk f x, Statement (.vrot tk f x) := by
  intro tk f x; exact ⟨rfl, Nat.le_of_ble_eq_true rfl, rfl⟩
theorem vcpush : ∀ tk f x, Statement (.vcpush tk f x) := by
  intro tk f x; exact ⟨rfl, Nat.le_of_ble_eq_true rfl, rfl⟩
theorem vcpop : ∀ tk f x, Statement (.vcpop tk f x) := by
  intro tk f x; exact ⟨rfl, Nat.le_of_ble_eq_true rfl, rfl⟩
theorem vccnt : ∀ tk f x, Statement (.vccnt tk f x) := by
  intro tk f x; exact ⟨rfl, Nat.le_of_ble_eq_true rfl, rfl⟩
theorem vrng : ∀ tk f x, Statement (.vrng tk f x) := by
  intro tk f x; exact ⟨rfl, Nat.le_of_ble_eq_true rfl, rfl⟩
theorem vql6 : ∀ tk f x, Statement (.vql6 tk f x) := by
  intro tk f x; exact ⟨rfl, Nat.le_of_ble_eq_true rfl, rfl⟩
theorem vdl6 : ∀ tk f x, Statement (.vdl6 tk f x) := by
  intro tk f x; exact ⟨rfl, Nat.le_of_ble_eq_true rfl, rfl⟩
theorem vpack : ∀ tk f x, Statement (.vpack tk f x) := by
  intro tk f x; exact ⟨rfl, Nat.le_of_ble_eq_true rfl, rfl⟩
theorem vunpk : ∀ tk f x, Statement (.vunpk tk f x) := by
  intro tk f x; exact ⟨rfl, Nat.le_of_ble_eq_true rfl, rfl⟩
theorem bhint : ∀ tk d fall kind g, Statement (.bhint tk d fall kind g) := by
  intro tk d fall kind g; cases g <;> exact ⟨rfl, Nat.le_of_ble_eq_true rfl, rfl⟩
theorem bwake : ∀ tk d kind g, Statement (.bwake tk d kind g) := by
  intro tk d kind g; cases g <;> exact ⟨rfl, Nat.le_of_ble_eq_true rfl, rfl⟩
theorem balloc : ∀ tk d take g, Statement (.balloc tk d take g) := by
  intro tk d take g; cases g <;> exact ⟨rfl, Nat.le_of_ble_eq_true rfl, rfl⟩
theorem bstat : ∀ tk d imm g, Statement (.bstat tk d imm g) := by
  intro tk d imm g; cases g <;> exact ⟨rfl, Nat.le_of_ble_eq_true rfl, rfl⟩
theorem nopV : ∀ tk, Statement (.nopV tk) := by
  intro tk; exact ⟨rfl, Nat.le_of_ble_eq_true rfl, rfl⟩
theorem waitV : ∀ tk w, Statement (.waitV tk w) := by
  intro tk w; exact ⟨rfl, Nat.le_of_ble_eq_true rfl, rfl⟩
theorem mmul : ∀ tk s bk last m, Statement (.mmul tk s bk last m) := by
  intro tk s bk last m; exact ⟨rfl, Nat.le_of_ble_eq_true rfl, rfl⟩
theorem mmulb : ∀ tk s bk last m, Statement (.mmulb tk s bk last m) := by
  intro tk s bk last m; exact ⟨rfl, Nat.le_of_ble_eq_true rfl, rfl⟩
theorem mscal : ∀ tk d imm32, Statement (.mscal tk d imm32) := by
  intro tk d imm32; exact ⟨rfl, Nat.le_of_ble_eq_true rfl, rfl⟩
theorem mclr : ∀ tk d g, Statement (.mclr tk d g) := by
  intro tk d g; cases g <;> exact ⟨rfl, Nat.le_of_ble_eq_true rfl, rfl⟩
theorem mjoin : ∀ tk sz src g, Statement (.mjoin tk sz src g) := by
  intro tk sz src g; exact ⟨rfl, Nat.le_of_ble_eq_true rfl, rfl⟩
theorem mleave : ∀ tk g, Statement (.mleave tk g) := by
  intro tk g; exact ⟨rfl, Nat.le_of_ble_eq_true rfl, rfl⟩
theorem mbset : ∀ tk imm imm32, Statement (.mbset tk imm imm32) := by
  intro tk imm imm32; exact ⟨rfl, Nat.le_of_ble_eq_true rfl, rfl⟩
theorem nopM : ∀ tk, Statement (.nopM tk) := by
  intro tk; exact ⟨rfl, Nat.le_of_ble_eq_true rfl, rfl⟩
theorem waitM : ∀ tk w, Statement (.waitM tk w) := by
  intro tk w; exact ⟨rfl, Nat.le_of_ble_eq_true rfl, rfl⟩
theorem cpy : ∀ tk d a b c, Statement (.cpy tk d a b c) := by
  intro tk d a b c; exact ⟨rfl, Nat.le_of_ble_eq_true rfl, rfl⟩
theorem ccvt : ∀ tk d a b c, Statement (.ccvt tk d a b c) := by
  intro tk d a b c; exact ⟨rfl, Nat.le_of_ble_eq_true rfl, rfl⟩
theorem cfill : ∀ tk d a b c, Statement (.cfill tk d a b c) := by
  intro tk d a b c; exact ⟨rfl, Nat.le_of_ble_eq_true rfl, rfl⟩
theorem bload : ∀ tk d a b c, Statement (.bload tk d a b c) := by
  intro tk d a b c; exact ⟨rfl, Nat.le_of_ble_eq_true rfl, rfl⟩
theorem wdef : ∀ tk d a b c, Statement (.wdef tk d a b c) := by
  intro tk d a b c; exact ⟨rfl, Nat.le_of_ble_eq_true rfl, rfl⟩
theorem wadv : ∀ tk d a imm g, Statement (.wadv tk d a imm g) := by
  intro tk d a imm g; cases g <;> exact ⟨rfl, Nat.le_of_ble_eq_true rfl, rfl⟩
theorem wrel : ∀ tk d g, Statement (.wrel tk d g) := by
  intro tk d g; cases g <;> exact ⟨rfl, Nat.le_of_ble_eq_true rfl, rfl⟩
theorem dload : ∀ tk a b ks, Statement (.dload tk a b ks) := by
  intro tk a b ks; exact ⟨rfl, Nat.le_of_ble_eq_true rfl, rfl⟩
theorem dstart : ∀ tk a, Statement (.dstart tk a) := by
  intro tk a; exact ⟨rfl, Nat.le_of_ble_eq_true rfl, rfl⟩
theorem dstop : ∀ tk, Statement (.dstop tk) := by
  intro tk; exact ⟨rfl, Nat.le_of_ble_eq_true rfl, rfl⟩
theorem dstat : ∀ tk d wt sel g, Statement (.dstat tk d wt sel g) := by
  intro tk d wt sel g; cases g <;> exact ⟨rfl, Nat.le_of_ble_eq_true rfl, rfl⟩
theorem nopC : ∀ tk, Statement (.nopC tk) := by
  intro tk; exact ⟨rfl, Nat.le_of_ble_eq_true rfl, rfl⟩
theorem waitC : ∀ tk w, Statement (.waitC tk w) := by
  intro tk w; exact ⟨rfl, Nat.le_of_ble_eq_true rfl, rfl⟩
theorem br : ∀ d sense imm32, Statement (.br d sense imm32) := by
  intro d sense imm32; exact ⟨rfl, Nat.le_of_ble_eq_true rfl, rfl⟩
theorem jmp : ∀ imm32, Statement (.jmp imm32) := by
  intro imm32; exact ⟨rfl, Nat.le_of_ble_eq_true rfl, rfl⟩
theorem call : ∀ d imm32, Statement (.call d imm32) := by
  intro d imm32; exact ⟨rfl, Nat.le_of_ble_eq_true rfl, rfl⟩
theorem ret : ∀ a, Statement (.ret a) := by
  intro a; exact ⟨rfl, Nat.le_of_ble_eq_true rfl, rfl⟩
theorem loop : ∀ d l, Statement (.loop d l) := by
  intro d l; exact ⟨rfl, Nat.le_of_ble_eq_true rfl, rfl⟩
theorem yield : Statement .yield := by
  exact ⟨rfl, Nat.le_of_ble_eq_true rfl, rfl⟩
theorem endW : Statement .endW := by
  exact ⟨rfl, Nat.le_of_ble_eq_true rfl, rfl⟩
theorem blend : ∀ d, Statement (.blend d) := by
  intro d; exact ⟨rfl, Nat.le_of_ble_eq_true rfl, rfl⟩
theorem bret : ∀ d, Statement (.bret d) := by
  intro d; exact ⟨rfl, Nat.le_of_ble_eq_true rfl, rfl⟩
theorem sync : Statement .sync := by
  exact ⟨rfl, Nat.le_of_ble_eq_true rfl, rfl⟩
theorem nopA : Statement .nopA := by
  exact ⟨rfl, Nat.le_of_ble_eq_true rfl, rfl⟩
theorem statusParkd : ∀ a0, Statement (.statusParkd a0) := by
  intro a0; exact ⟨rfl, Nat.le_of_ble_eq_true rfl, rfl⟩
theorem statusAbort : ∀ a0, Statement (.statusAbort a0) := by
  intro a0; exact ⟨rfl, Nat.le_of_ble_eq_true rfl, rfl⟩
theorem tapectlNorec : ∀ a0, Statement (.tapectlNorec a0) := by
  intro a0; exact ⟨rfl, Nat.le_of_ble_eq_true rfl, rfl⟩
theorem tapectlJdrop : ∀ a0, Statement (.tapectlJdrop a0) := by
  intro a0; exact ⟨rfl, Nat.le_of_ble_eq_true rfl, rfl⟩
theorem trapEntry : ∀ a0, Statement (.trapEntry a0) := by
  intro a0; exact ⟨rfl, Nat.le_of_ble_eq_true rfl, rfl⟩
theorem tokenTimeout : ∀ a0 a1, Statement (.tokenTimeout a0 a1) := by
  intro a0 a1; exact ⟨rfl, Nat.le_of_ble_eq_true rfl, rfl⟩
theorem tokenPush : ∀ a0 a1, Statement (.tokenPush a0 a1) := by
  intro a0 a1; exact ⟨rfl, Nat.le_of_ble_eq_true rfl, rfl⟩
theorem scalarLoadPerformed : ∀ a0 a1, Statement (.scalarLoadPerformed a0 a1) := by
  intro a0 a1; exact ⟨rfl, Nat.le_of_ble_eq_true rfl, rfl⟩
theorem scalarStorePerformed : ∀ a0 a1, Statement (.scalarStorePerformed a0 a1) := by
  intro a0 a1; exact ⟨rfl, Nat.le_of_ble_eq_true rfl, rfl⟩
theorem atomicPerformed : ∀ a0 a1, Statement (.atomicPerformed a0 a1) := by
  intro a0 a1; exact ⟨rfl, Nat.le_of_ble_eq_true rfl, rfl⟩
theorem barComplete : ∀ a0 a1, Statement (.barComplete a0 a1) := by
  intro a0 a1; exact ⟨rfl, Nat.le_of_ble_eq_true rfl, rfl⟩
theorem copyMovePerformed : ∀ a0 a1, Statement (.copyMovePerformed a0 a1) := by
  intro a0 a1; exact ⟨rfl, Nat.le_of_ble_eq_true rfl, rfl⟩
theorem windowFillPerformed : ∀ a0 a1, Statement (.windowFillPerformed a0 a1) := by
  intro a0 a1; exact ⟨rfl, Nat.le_of_ble_eq_true rfl, rfl⟩
theorem spadBankFall : ∀ a0 a1, Statement (.spadBankFall a0 a1) := by
  intro a0 a1; exact ⟨rfl, Nat.le_of_ble_eq_true rfl, rfl⟩
theorem spadBankWakeDone : ∀ a0 a1, Statement (.spadBankWakeDone a0 a1) := by
  intro a0 a1; exact ⟨rfl, Nat.le_of_ble_eq_true rfl, rfl⟩
theorem regBankFall : ∀ a0 a1, Statement (.regBankFall a0 a1) := by
  intro a0 a1; exact ⟨rfl, Nat.le_of_ble_eq_true rfl, rfl⟩
theorem regBankWakeDone : ∀ a0 a1, Statement (.regBankWakeDone a0 a1) := by
  intro a0 a1; exact ⟨rfl, Nat.le_of_ble_eq_true rfl, rfl⟩
theorem dupCopyDone : ∀ a0 a1, Statement (.dupCopyDone a0 a1) := by
  intro a0 a1; exact ⟨rfl, Nat.le_of_ble_eq_true rfl, rfl⟩
theorem streamRequest : ∀ a0 a1, Statement (.streamRequest a0 a1) := by
  intro a0 a1; exact ⟨rfl, Nat.le_of_ble_eq_true rfl, rfl⟩
theorem streamDataReturn : ∀ a0 a1, Statement (.streamDataReturn a0 a1) := by
  intro a0 a1; exact ⟨rfl, Nat.le_of_ble_eq_true rfl, rfl⟩
theorem loadWordPerformed : ∀ a0, Statement (.loadWordPerformed a0) := by
  intro a0; exact ⟨rfl, Nat.le_of_ble_eq_true rfl, rfl⟩
theorem storeWordPerformed : ∀ a0 a1, Statement (.storeWordPerformed a0 a1) := by
  intro a0 a1; exact ⟨rfl, Nat.le_of_ble_eq_true rfl, rfl⟩
theorem vWordRetire : ∀ a0, Statement (.vWordRetire a0) := by
  intro a0; exact ⟨rfl, Nat.le_of_ble_eq_true rfl, rfl⟩
theorem mmulPanelComplete : ∀ a0, Statement (.mmulPanelComplete a0) := by
  intro a0; exact ⟨rfl, Nat.le_of_ble_eq_true rfl, rfl⟩
theorem tileOpPerformed : ∀ a0, Statement (.tileOpPerformed a0) := by
  intro a0; exact ⟨rfl, Nat.le_of_ble_eq_true rfl, rfl⟩
theorem sharedBRound : ∀ a0 a1, Statement (.sharedBRound a0 a1) := by
  intro a0 a1; exact ⟨rfl, Nat.le_of_ble_eq_true rfl, rfl⟩
theorem nmCommand : ∀ a0, Statement (.nmCommand a0) := by
  intro a0; exact ⟨rfl, Nat.le_of_ble_eq_true rfl, rfl⟩
theorem nmCommandEnd : ∀ a0, Statement (.nmCommandEnd a0) := by
  intro a0; exact ⟨rfl, Nat.le_of_ble_eq_true rfl, rfl⟩
theorem tlbWalkDone : ∀ a0 a1, Statement (.tlbWalkDone a0 a1) := by
  intro a0 a1; exact ⟨rfl, Nat.le_of_ble_eq_true rfl, rfl⟩
theorem tinv : Statement .tinv := by
  exact ⟨rfl, Nat.le_of_ble_eq_true rfl, rfl⟩
theorem tinvComplete : Statement .tinvComplete := by
  exact ⟨rfl, Nat.le_of_ble_eq_true rfl, rfl⟩
theorem migr : Statement .migr := by
  exact ⟨rfl, Nat.le_of_ble_eq_true rfl, rfl⟩
theorem migrResume : Statement .migrResume := by
  exact ⟨rfl, Nat.le_of_ble_eq_true rfl, rfl⟩
theorem migrCopyDone : ∀ a0, Statement (.migrCopyDone a0) := by
  intro a0; exact ⟨rfl, Nat.le_of_ble_eq_true rfl, rfl⟩
theorem hotPageEpoch : Statement .hotPageEpoch := by
  exact ⟨rfl, Nat.le_of_ble_eq_true rfl, rfl⟩
theorem subarrayRefresh : ∀ a0, Statement (.subarrayRefresh a0) := by
  intro a0; exact ⟨rfl, Nat.le_of_ble_eq_true rfl, rfl⟩
theorem timeBeacon : Statement .timeBeacon := by
  exact ⟨rfl, Nat.le_of_ble_eq_true rfl, rfl⟩
theorem timeLockLoss : Statement .timeLockLoss := by
  exact ⟨rfl, Nat.le_of_ble_eq_true rfl, rfl⟩
theorem timeLockRegain : Statement .timeLockRegain := by
  exact ⟨rfl, Nat.le_of_ble_eq_true rfl, rfl⟩
theorem dovetailLinkDegrade : ∀ a0, Statement (.dovetailLinkDegrade a0) := by
  intro a0; exact ⟨rfl, Nat.le_of_ble_eq_true rfl, rfl⟩
theorem dovetailLinkDown : ∀ a0, Statement (.dovetailLinkDown a0) := by
  intro a0; exact ⟨rfl, Nat.le_of_ble_eq_true rfl, rfl⟩
theorem peerAccess : ∀ a0, Statement (.peerAccess a0) := by
  intro a0; exact ⟨rfl, Nat.le_of_ble_eq_true rfl, rfl⟩
theorem peerWriteRefused : ∀ a0 a1, Statement (.peerWriteRefused a0 a1) := by
  intro a0 a1; exact ⟨rfl, Nat.le_of_ble_eq_true rfl, rfl⟩
theorem dovetailBeat : ∀ a0, Statement (.dovetailBeat a0) := by
  intro a0; exact ⟨rfl, Nat.le_of_ble_eq_true rfl, rfl⟩
theorem dovetailEntryStart : ∀ a0 a1, Statement (.dovetailEntryStart a0 a1) := by
  intro a0 a1; exact ⟨rfl, Nat.le_of_ble_eq_true rfl, rfl⟩
theorem dovetailReceive : ∀ a0, Statement (.dovetailReceive a0) := by
  intro a0; exact ⟨rfl, Nat.le_of_ble_eq_true rfl, rfl⟩
theorem dovetailEntryPerformed : ∀ a0 a1, Statement (.dovetailEntryPerformed a0 a1) := by
  intro a0 a1; exact ⟨rfl, Nat.le_of_ble_eq_true rfl, rfl⟩
theorem dovetailTimeout : ∀ a0 a1, Statement (.dovetailTimeout a0 a1) := by
  intro a0 a1; exact ⟨rfl, Nat.le_of_ble_eq_true rfl, rfl⟩
theorem unitEnd : ∀ a0, Statement (.unitEnd a0) := by
  intro a0; exact ⟨rfl, Nat.le_of_ble_eq_true rfl, rfl⟩
theorem taskComplete : ∀ a0, Statement (.taskComplete a0) := by
  intro a0; exact ⟨rfl, Nat.le_of_ble_eq_true rfl, rfl⟩
theorem submit : ∀ a0, Statement (.submit a0) := by
  intro a0; exact ⟨rfl, Nat.le_of_ble_eq_true rfl, rfl⟩
theorem hostEndGraph : ∀ a0, Statement (.hostEndGraph a0) := by
  intro a0; exact ⟨rfl, Nat.le_of_ble_eq_true rfl, rfl⟩
theorem dispatchTick : Statement .dispatchTick := by
  exact ⟨rfl, Nat.le_of_ble_eq_true rfl, rfl⟩
theorem continuationForward : Statement .continuationForward := by
  exact ⟨rfl, Nat.le_of_ble_eq_true rfl, rfl⟩
theorem fallbackForward : ∀ a0, Statement (.fallbackForward a0) := by
  intro a0; exact ⟨rfl, Nat.le_of_ble_eq_true rfl, rfl⟩
theorem guaranteedOverrun : ∀ a0, Statement (.guaranteedOverrun a0) := by
  intro a0; exact ⟨rfl, Nat.le_of_ble_eq_true rfl, rfl⟩
theorem curve : ∀ a0, Statement (.curve a0) := by
  intro a0; exact ⟨rfl, Nat.le_of_ble_eq_true rfl, rfl⟩
theorem curveEffective : Statement .curveEffective := by
  exact ⟨rfl, Nat.le_of_ble_eq_true rfl, rfl⟩
theorem curvePointStart : Statement .curvePointStart := by
  exact ⟨rfl, Nat.le_of_ble_eq_true rfl, rfl⟩
theorem curveHorizonEnd : Statement .curveHorizonEnd := by
  exact ⟨rfl, Nat.le_of_ble_eq_true rfl, rfl⟩
theorem underdraw : Statement .underdraw := by
  exact ⟨rfl, Nat.le_of_ble_eq_true rfl, rfl⟩
theorem relockDone : ∀ a0, Statement (.relockDone a0) := by
  intro a0; exact ⟨rfl, Nat.le_of_ble_eq_true rfl, rfl⟩
theorem voltageRampDone : ∀ a0, Statement (.voltageRampDone a0) := by
  intro a0; exact ⟨rfl, Nat.le_of_ble_eq_true rfl, rfl⟩
theorem preemptRequest : ∀ a0, Statement (.preemptRequest a0) := by
  intro a0; exact ⟨rfl, Nat.le_of_ble_eq_true rfl, rfl⟩
theorem preemptWithdraw : ∀ a0, Statement (.preemptWithdraw a0) := by
  intro a0; exact ⟨rfl, Nat.le_of_ble_eq_true rfl, rfl⟩
theorem forcedSave : ∀ a0, Statement (.forcedSave a0) := by
  intro a0; exact ⟨rfl, Nat.le_of_ble_eq_true rfl, rfl⟩
theorem parkDone : ∀ a0, Statement (.parkDone a0) := by
  intro a0; exact ⟨rfl, Nat.le_of_ble_eq_true rfl, rfl⟩
theorem parkResume : ∀ a0, Statement (.parkResume a0) := by
  intro a0; exact ⟨rfl, Nat.le_of_ble_eq_true rfl, rfl⟩
theorem unitResume : ∀ a0, Statement (.unitResume a0) := by
  intro a0; exact ⟨rfl, Nat.le_of_ble_eq_true rfl, rfl⟩
theorem dieGate : ∀ a0, Statement (.dieGate a0) := by
  intro a0; exact ⟨rfl, Nat.le_of_ble_eq_true rfl, rfl⟩
theorem dieUngate : ∀ a0, Statement (.dieUngate a0) := by
  intro a0; exact ⟨rfl, Nat.le_of_ble_eq_true rfl, rfl⟩
theorem dieUngateReady : ∀ a0, Statement (.dieUngateReady a0) := by
  intro a0; exact ⟨rfl, Nat.le_of_ble_eq_true rfl, rfl⟩
theorem leaseExpire : ∀ a0, Statement (.leaseExpire a0) := by
  intro a0; exact ⟨rfl, Nat.le_of_ble_eq_true rfl, rfl⟩
theorem pairThrottle : ∀ a0, Statement (.pairThrottle a0) := by
  intro a0; exact ⟨rfl, Nat.le_of_ble_eq_true rfl, rfl⟩
theorem pairThrottleRestore : ∀ a0, Statement (.pairThrottleRestore a0) := by
  intro a0; exact ⟨rfl, Nat.le_of_ble_eq_true rfl, rfl⟩
theorem pairThrottleLower : ∀ a0, Statement (.pairThrottleLower a0) := by
  intro a0; exact ⟨rfl, Nat.le_of_ble_eq_true rfl, rfl⟩
theorem boilingLimitUpdate : ∀ a0 a1, Statement (.boilingLimitUpdate a0 a1) := by
  intro a0 a1; exact ⟨rfl, Nat.le_of_ble_eq_true rfl, rfl⟩
theorem thermalEmergency : ∀ a0, Statement (.thermalEmergency a0) := by
  intro a0; exact ⟨rfl, Nat.le_of_ble_eq_true rfl, rfl⟩
theorem slowdownNotice : Statement .slowdownNotice := by
  exact ⟨rfl, Nat.le_of_ble_eq_true rfl, rfl⟩
theorem thermalCapBeat : ∀ a0, Statement (.thermalCapBeat a0) := by
  intro a0; exact ⟨rfl, Nat.le_of_ble_eq_true rfl, rfl⟩
theorem thermalEmergencyEnd : ∀ a0, Statement (.thermalEmergencyEnd a0) := by
  intro a0; exact ⟨rfl, Nat.le_of_ble_eq_true rfl, rfl⟩
theorem thermalSevere : ∀ a0, Statement (.thermalSevere a0) := by
  intro a0; exact ⟨rfl, Nat.le_of_ble_eq_true rfl, rfl⟩
theorem sensorFail : ∀ a0, Statement (.sensorFail a0) := by
  intro a0; exact ⟨rfl, Nat.le_of_ble_eq_true rfl, rfl⟩
theorem machineCheck : ∀ a0 a1 a2 a3 a4, Statement (.machineCheck a0 a1 a2 a3 a4) := by
  intro a0 a1 a2 a3 a4; exact ⟨rfl, Nat.le_of_ble_eq_true rfl, rfl⟩
theorem telemetryRecord : ∀ a0, Statement (.telemetryRecord a0) := by
  intro a0; exact ⟨rfl, Nat.le_of_ble_eq_true rfl, rfl⟩
theorem suspectConnection : ∀ a0, Statement (.suspectConnection a0) := by
  intro a0; exact ⟨rfl, Nat.le_of_ble_eq_true rfl, rfl⟩
theorem connectorMargin : Statement .connectorMargin := by
  exact ⟨rfl, Nat.le_of_ble_eq_true rfl, rfl⟩
theorem sillaneDegrade : ∀ a0, Statement (.sillaneDegrade a0) := by
  intro a0; exact ⟨rfl, Nat.le_of_ble_eq_true rfl, rfl⟩
theorem sillaneLinkDown : ∀ a0, Statement (.sillaneLinkDown a0) := by
  intro a0; exact ⟨rfl, Nat.le_of_ble_eq_true rfl, rfl⟩
theorem register : Statement .register := by
  exact ⟨rfl, Nat.le_of_ble_eq_true rfl, rfl⟩
theorem attest : Statement .attest := by
  exact ⟨rfl, Nat.le_of_ble_eq_true rfl, rfl⟩
theorem keyset : ∀ a0, Statement (.keyset a0) := by
  intro a0; exact ⟨rfl, Nat.le_of_ble_eq_true rfl, rfl⟩
theorem domain : Statement .domain := by
  exact ⟨rfl, Nat.le_of_ble_eq_true rfl, rfl⟩
theorem coldReset : Statement .coldReset := by
  exact ⟨rfl, Nat.le_of_ble_eq_true rfl, rfl⟩
theorem warmReset : Statement .warmReset := by
  exact ⟨rfl, Nat.le_of_ble_eq_true rfl, rfl⟩
theorem sillaneTrained : ∀ a0, Statement (.sillaneTrained a0) := by
  intro a0; exact ⟨rfl, Nat.le_of_ble_eq_true rfl, rfl⟩
theorem hbm4PhyTrained : ∀ a0 a1, Statement (.hbm4PhyTrained a0 a1) := by
  intro a0 a1; exact ⟨rfl, Nat.le_of_ble_eq_true rfl, rfl⟩
theorem dovetailTrained : ∀ a0, Statement (.dovetailTrained a0) := by
  intro a0; exact ⟨rfl, Nat.le_of_ble_eq_true rfl, rfl⟩
theorem taskStart : ∀ a0, Statement (.taskStart a0) := by
  intro a0; exact ⟨rfl, Nat.le_of_ble_eq_true rfl, rfl⟩
theorem tevtPerformed : ∀ a0, Statement (.tevtPerformed a0) := by
  intro a0; exact ⟨rfl, Nat.le_of_ble_eq_true rfl, rfl⟩
theorem dloadContextLoaded : ∀ a0, Statement (.dloadContextLoaded a0) := by
  intro a0; exact ⟨rfl, Nat.le_of_ble_eq_true rfl, rfl⟩
theorem ctxTransferDone : ∀ a0, Statement (.ctxTransferDone a0) := by
  intro a0; exact ⟨rfl, Nat.le_of_ble_eq_true rfl, rfl⟩
theorem scalarArithRetire : ∀ a0, Statement (.scalarArithRetire a0) := by
  intro a0; exact ⟨rfl, Nat.le_of_ble_eq_true rfl, rfl⟩
theorem hostMemoryAccess : ∀ a0, Statement (.hostMemoryAccess a0) := by
  intro a0; exact ⟨rfl, Nat.le_of_ble_eq_true rfl, rfl⟩
theorem cxlLinkDown : ∀ a0, Statement (.cxlLinkDown a0) := by
  intro a0; exact ⟨rfl, Nat.le_of_ble_eq_true rfl, rfl⟩
theorem mailboxBadcmd : Statement .mailboxBadcmd := by
  exact ⟨rfl, Nat.le_of_ble_eq_true rfl, rfl⟩
theorem translationBadcmd : Statement .translationBadcmd := by
  exact ⟨rfl, Nat.le_of_ble_eq_true rfl, rfl⟩
theorem curvePointLookahead : Statement .curvePointLookahead := by
  exact ⟨rfl, Nat.le_of_ble_eq_true rfl, rfl⟩

end Sys2Proof.Laws.Coded
end

