-- ==== Sys2Proof/Tests/Slice0.lean ====
section
/-! SUPPORT. Tests: an ill-formed term for each well-formedness check, words written out from the encodings of the spec,
single steps on small states with results taken from the spec, and for every statement of the Obligations file that has
hypotheses a concrete state and operands that meet them. -/

namespace Sys2Proof.Tests

/- Elaborate one theorem after another: each is decided by the kernel, and a thread for each would need more memory than
the check allows. -/
set_option Elab.async false

open Sys2Proof Sys2Proof.Machine

/-! ### Small states -/

/-- A unit that runs with the given x and k registers. -/
def unitWith (x : List (Nat × Nat)) (k : List (Nat × Cap)) : UnitSt :=
  { UnitSt.reset with
    run := .running
    regs := k.foldl (fun r q => r.setK q.1 q.2) (x.foldl (fun r q => r.setX q.1 (BitVec.ofNat 64 q.2)) Regs.reset) }

/-- Unit 0 is `U` in a module that is otherwise as after reset, and the engine of instruction `i` has `i` before it. -/
def before (U : UnitSt) (i : Instr) : State :=
  let ws := encode i
  let e := fld (ws.headD 0) 29 3
  let s := (State.reset.setUnit 0 U).placeWord (32 * ws.length) (ws.headD 0 + ws.getD 1 0 * 2 ^ 32)
  { s with agenda := [], who := (0, if e = 6 then .S else Eng.ofCode e) }

/-- Unit 0 is changed. -/
def tune (s : State) (f : UnitSt → UnitSt) : State := s.setUnit 0 (f (s.unit 0))

/-- The record of the word that S, or another engine, of unit 0 has before it. -/
def sRec (s : State) : PassRec := s.swordCheck.hereS 0
def eRec (s : State) (e : Eng) : PassRec := ((s.unit 0).nextRec e).getD (s.hereS 0)

/-- `Ready` as a test that can be run. -/
def readyB (s : State) (u : Nat) (e : Eng) (r : PassRec) (tk : Tok) (g : XP) (regs : List Nat) : Bool :=
  decide (s.who = (u, e)) && decide (u < 768) && s.runs u && decide (s.here u e = some r)
    && (!(s.unit u).inHandler || decide (e = .S) && decide (tk = .none)) && (decide (e ≠ .S) || !(s.unit u).sHeld)
    && (s.unit u).tokenThere e r tk && !(s.unit u).waitHeld e && (!(s.unit u).full e || isMeet r.hdr) && (decide (e ≠ .S) || (s.unit u).slipOk r.len)
    && (decide (e ≠ .S) || !(s.unit u).pending regs) && s.guardOf u e r g

theorem ready_of {s : State} {u : Nat} {e : Eng} {r : PassRec} {tk : Tok} {g : XP} {regs : List Nat}
    (h : readyB s u e r tk g regs = true) : Ready s u e r tk g regs := by
  simp only [readyB, Bool.and_eq_true, Bool.or_eq_true, Bool.not_eq_true', decide_eq_true_eq] at h
  obtain ⟨⟨⟨⟨⟨⟨⟨⟨⟨⟨⟨h1, h2⟩, h3⟩, h4⟩, h5⟩, h6⟩, h7⟩, hw⟩, h8⟩, h9⟩, h10⟩, h11⟩ := h
  refine ⟨h1, h2, h3, h4, fun hh => ?_, fun hh => ?_, h7, hw, h8, fun hh => ?_, fun hh => ?_, h11⟩
  · rcases h5 with h5 | h5
    · simp [h5] at hh
    · exact h5
  · rcases h6 with h6 | h6
    · exact absurd hh h6
    · exact h6
  · rcases h9 with h9 | h9
    · exact absurd hh h9
    · exact h9
  · rcases h10 with h10 | h10
    · exact absurd hh h10
    · exact h10

/-- The scratchpad check lets an access go on. -/
def spadOk : SpadChk → Bool
  | .ok => true
  | _ => false
theorem spadOk_of {x : SpadChk} (h : spadOk x = true) : x = .ok := by
  cases x with
  | ok => rfl
  | wait s => exact absurd h Bool.false_ne_true
  | trap c b => exact absurd h Bool.false_ne_true

/-- An access passes its checks, as a test that can be run. -/
def reachesB (s : State) (u : Nat) (c : Cap) (o n perm align : Nat) (kind : AccKind) (key a : Nat) : Bool :=
  c.tag && c.grants perm && decide (o + n ≤ c.len) && decide (a = c.base + o) && decide (a % align = 0)
    && decide (c.space ≠ 7) && (decide (c.space ≠ 1) || spadOk (s.spadChk u a n (kind ≠ .write)))
    && decide (s.translate u c.space a kind = .ok key)

theorem reaches_of {s : State} {u : Nat} {c : Cap} {o n perm align : Nat} {kind : AccKind} {key a : Nat}
    (h : reachesB s u c o n perm align kind key a = true) : Reaches s u c o n perm align kind key a := by
  simp only [reachesB, Bool.and_eq_true, Bool.or_eq_true, decide_eq_true_eq] at h
  obtain ⟨⟨⟨⟨⟨⟨⟨h1, h2⟩, h3⟩, h4⟩, h5⟩, h6⟩, h7⟩, h8⟩ := h
  refine ⟨h1, h2, h3, h4, h5, h6, fun hh => ?_, h8⟩
  rcases h7 with h7 | h7
  · exact absurd hh h7
  · exact spadOk_of h7

/-! ### Witnesses: what each statement supposes can hold -/

theorem witness_DecodeOfEncodeIsTheInstruction :
    (Instr.add .none 31 31 31 none).wf = true ∧ (Instr.add .none 31 31 31 none).eng ≠ none := by decide +kernel

theorem witness_AcceptedWordsAreTheEncoding : (0x10202140 : Nat) < 2 ^ 32 ∧ (1 : Nat) < 2 ^ 32 ∧
    decodeWords 0x10202140 (some 1) = .ok (.pcmp .none 4 5 0 1) := by decide +kernel

/-- Bits 31 to 29 all ones; a token rule broken by PEER with TK = 0; OP 0x7F of S; NOP.S with X set; BR without its
extension word. -/
theorem witness_UndecodableWords_named :
    fld 0xE0000000 29 3 = 7 ∧
    (fld 0x00800000 29 3 ≠ 7 ∧ tokOk (fld 0x00800000 29 3) (fld 0x00800000 26 2) (fld 0x00800000 23 3) = false) ∧
    (fld 0x007F0000 29 3 ≠ 7 ∧ tokOk (fld 0x007F0000 29 3) (fld 0x007F0000 26 2) (fld 0x007F0000 23 3) = true ∧
      opForm (fld 0x007F0000 29 3) (fld 0x007F0000 16 7) = none) ∧
    (fld 0x107C0000 29 3 ≠ 7 ∧ tokOk (fld 0x107C0000 29 3) (fld 0x107C0000 26 2) (fld 0x107C0000 23 3) = true ∧
      opForm (fld 0x107C0000 29 3) (fld 0x107C0000 16 7) = some .bare ∧ fld 0x107C0000 28 1 = 1) ∧
    (fld 0xD0002000 29 3 ≠ 7 ∧ tokOk (fld 0xD0002000 29 3) (fld 0xD0002000 26 2) (fld 0xD0002000 23 3) = true ∧
      opForm (fld 0xD0002000 29 3) (fld 0xD0002000 16 7) = some .ext ∧ fld 0xD0002000 28 1 = 1) := by decide +kernel

/-- S stands at the end of its text, and before a word with ENG = 7. -/
def wText : State := { tune State.reset fun _ => { unitWith [] [] with walk := Walk.reset } with agenda := [.engine 0 .S] }
def wUnd : State :=
  { tune State.reset fun _ => { unitWith [] [] with walk := { Walk.reset with text := [(0, 0xE0000000)], textLen := 1 } } with
    agenda := [.engine 0 .S] }
theorem witness_UndecodableWords_text : wText.agenda = .engine 0 .S :: [] ∧ 0 < 768 ∧ wText.runs 0 = true ∧
    (wText.unit 0).sHeld = false ∧ (wText.unit 0).tape.run ≠ 2 ∧ (wText.unit 0).tlen ≤ (wText.unit 0).pcOf .S := by decide +kernel
theorem witness_UndecodableWords_und : wUnd.agenda = .engine 0 .S :: [] ∧ 0 < 768 ∧ wUnd.runs 0 = true ∧
    (wUnd.unit 0).sHeld = false ∧ (wUnd.unit 0).tape.run ≠ 2 ∧ (wUnd.unit 0).pcOf .S < (wUnd.unit 0).tlen ∧
    decodeWords (wUnd.textAt (wUnd.unit 0) ((wUnd.unit 0).pcOf .S))
      (if (wUnd.unit 0).pcOf .S + 1 < (wUnd.unit 0).tlen then some (wUnd.textAt (wUnd.unit 0) ((wUnd.unit 0).pcOf .S + 1))
        else none) = .error .badEng := by decide +kernel

def wAdd : State := before (unitWith [(5, 7), (6, 3)] []) (.add .none 4 5 6 none)
def wAddStep : State := { wAdd with agenda := [.engine 0 .S] }
theorem witness_StepRunsTheDecodedInstruction_S : wAddStep.agenda = .engine 0 .S :: [] ∧ 0 < 768 ∧ wAddStep.runs 0 = true ∧
    (wAddStep.unit 0).sHeld = false ∧ (wAddStep.unit 0).tape.run ≠ 2 ∧
    (wAddStep.unit 0).pcOf .S < (wAddStep.unit 0).tlen ∧
    decodeWords (wAddStep.textAt (wAddStep.unit 0) ((wAddStep.unit 0).pcOf .S))
      (if (wAddStep.unit 0).pcOf .S + 1 < (wAddStep.unit 0).tlen then
        some (wAddStep.textAt (wAddStep.unit 0) ((wAddStep.unit 0).pcOf .S + 1)) else none) = .ok (.add .none 4 5 6 none) ∧
    slotOk ((wAddStep.unit 0).redirOf .S) (wAddStep.textAt (wAddStep.unit 0) ((wAddStep.unit 0).pcOf .S))
      (1 + fld (wAddStep.textAt (wAddStep.unit 0) ((wAddStep.unit 0).pcOf .S)) 28 1) = true ∧
    (fld (wAddStep.textAt (wAddStep.unit 0) ((wAddStep.unit 0).pcOf .S)) 29 3 = 0 ∨
      fld (wAddStep.textAt (wAddStep.unit 0) ((wAddStep.unit 0).pcOf .S)) 29 3 = 6) := by decide +kernel

def wNopV : State := before (unitWith [] []) (.nopV .none)
def wNopVStep : State := { wNopV with agenda := [.engine 0 .V] }
theorem witness_StepRunsTheDecodedInstruction_V : wNopVStep.agenda = .engine 0 .V :: [] ∧ Eng.V ≠ .S ∧ 0 < 768 ∧
    wNopVStep.runs 0 = true ∧ (wNopVStep.unit 0).inHandler = false ∧
    (({ wNopVStep with agenda := [], tick := wNopVStep.tick + 1 }.approach 0 .V).unit 0).nextRec .V = some (eRec wNopV .V) ∧
    decodeWords (eRec wNopV .V).hdr (if (eRec wNopV .V).len = 2 then some (eRec wNopV .V).ext else none) = .ok (.nopV .none) := by
  decide +kernel

def wBeacon : State := { State.reset with agenda := [.ev .timeBeacon] }
theorem witness_StepRunsTheDecodedInstruction_event : wBeacon.agenda = .ev .timeBeacon :: [] ∧ Instr.timeBeacon.eng = none := by
  decide +kernel

theorem witness_EveryStepKeepsMemoryCanonical : ∃ t, Inv State.reset ∧ step { State.reset with agenda := [.elapse 1] } = .next t ∧
    Inv { State.reset with agenda := [.elapse 1] } := ⟨_, rfl, rfl, rfl⟩

theorem witness_ScalarWordsWriteTheirValue : SReady wAdd 0 (sRec wAdd) .none none [5, 6] := ready_of (by decide +kernel)

def wDiv : State := before (unitWith [(5, 7), (6, 0)] []) (.div .none 4 5 6 none)
def wAdd128 : State := before (unitWith [(4, 2 ^ 64 - 1), (5, 1), (6, 1)] []) (.add128 .none 8 4 6 none)
theorem witness_LongArithmetic : SReady wDiv 0 (sRec wDiv) .none none [5, 6] ∧ ¬ (wDiv.swordCheck.unit 0).dividing :=
  ⟨ready_of (by decide +kernel), by decide +kernel⟩
theorem witness_PairArithmetic : SReady wAdd128 0 (sRec wAdd128) .none none [4, 5, 6, 7] := ready_of (by decide +kernel)

def wPcmp : State := before (unitWith [(5, 7)] []) (.pcmp .none 4 5 0 1)
def wXtop : State := before (unitWith [(5, 2 ^ 32 - 1)] []) (.xtop .none 5 none)
theorem witness_PredicateWords : SReady wPcmp 0 (sRec wPcmp) .none none [5, 0] ∧ SReady wXtop 0 (sRec wXtop) .none none [5] :=
  ⟨ready_of (by decide +kernel), ready_of (by decide +kernel)⟩

theorem witness_ScalarWordsWriteOnlyTheirDestination : Ready wAdd 0 .S (sRec wAdd) .none none [5, 6] ∧
    fld (sRec wAdd).hdr 29 3 = 0 ∧ (wAdd.unit 0).tape.run ≠ 1 ∧ (wAdd.unit 0).settled ∧
    (∀ f ∈ (wAdd.unit 0).work.fl, f.wait ≠ .done) :=
  ⟨ready_of (by decide +kernel), by decide +kernel, by decide +kernel, by
    intro f hf
    have h : (wAdd.unit 0).work.fl = [] := by decide +kernel
    simp [h] at hf, by decide +kernel⟩

/-- Device memory, 64 KiB from address 0x10000, with permissions R, W, A and C. -/
def capDev : Cap := Cap.mk' 0 (permR + permW + permA + permC) 0x10000 0x10000 true
def wKmov : State := before (unitWith [] [(2, capDev)]) (.kmov .none 3 2 none)
/-- KSUB to exactly the end of the range, one byte past it, and through an untagged capability. -/
def wKsub : State := before (unitWith [(5, 0x1000)] [(2, capDev)]) (.ksub .none 3 2 5 0xF000)
def wKsubLong : State := before (unitWith [(5, 0x1000)] [(2, capDev)]) (.ksub .none 3 2 5 0xF001)
def wKsubNull : State := before (unitWith [] []) (.ksub .none 3 2 5 1)
def wKperm : State := before (unitWith [] [(2, capDev)]) (.kperm .none 3 2 0x83)
def wKpermNull : State := before (unitWith [] []) (.kperm .none 3 2 3)
theorem witness_CapabilityWords : SReady wKmov 0 (sRec wKmov) .none none [34] ∧
    SReady wKsub 0 (sRec wKsub) .none none [34, 5] ∧ SReady wKsubLong 0 (sRec wKsubLong) .none none [34, 5] ∧
    SReady wKsubNull 0 (sRec wKsubNull) .none none [34, 5] ∧ SReady wKperm 0 (sRec wKperm) .none none [34] ∧
    SReady wKpermNull 0 (sRec wKpermNull) .none none [34] :=
  ⟨ready_of (by decide +kernel), ready_of (by decide +kernel), ready_of (by decide +kernel), ready_of (by decide +kernel),
    ready_of (by decide +kernel), ready_of (by decide +kernel)⟩
theorem witness_CapabilityWords_decode :
    decodeWords 0x102A188A (some 4096) = .ok (.ksub .none 3 2 5 4096) ∧
    decodeWords 0x102B1880 (some 3) = .ok (.kperm .none 3 2 3) ∧
    decodeWords 0x002C1880 (some 0) = .ok (.kmov .none 3 2 none) := by decide +kernel

/-- The state that a step leaves, for a state that some steps lead to. -/
def after (o : Out) : State := match o with | .next t => t | _ => State.reset

/-- A unit with x and k registers whose unit scratchpad banks 0 and 15 are Full, and a capability k2 of the first 4 KiB of
its scratchpad with permissions R, W, A and C. -/
def capSp : Cap := Cap.mk' 1 (permR + permW + permA + permC) 0x1000 0 true
def unitMem (x : List (Nat × Nat)) (k : List (Nat × Cap)) : UnitSt :=
  { unitWith x ((2, capSp) :: k) with sb := [(0, ⟨.full, .full, false, 0⟩), (15, ⟨.full, .full, false, 0⟩)] }

/-- An XM word of eight bytes, or four, at offset `off`, with scope die for the scoped words. -/
def xm (size sub off : Nat) : XM := ⟨0, 0, size, 0, 2, sub, off⟩

def wMem : State := tune State.reset fun _ => unitMem [] []
theorem witness_AccessChecksRunInOrder :
    Cap.null.tag = false ∧
    ((Cap.mk' 7 permN 64 0 true).tag = true ∧ (Cap.mk' 7 permN 64 0 true).space = 7) ∧
    (capSp.tag = true ∧ capSp.space ≠ 7 ∧ capSp.grants permN = false) ∧
    (capSp.tag = true ∧ capSp.space ≠ 7 ∧ capSp.grants permR = true ∧ capSp.len < 0xFF9 + 8) ∧
    (capSp.tag = true ∧ capSp.space ≠ 7 ∧ capSp.grants permR = true ∧ 0xFF7 + 8 ≤ capSp.len ∧ (capSp.base + 0xFF7) % 8 ≠ 0) := by
  decide +kernel
theorem witness_AccessChecks_reaches : Reaches wMem 0 capSp 0xFF8 8 permR 8 .read (keyOf 16 0xFF8) 0xFF8 :=
  reaches_of (by decide +kernel)

/-- An earlier write of W to the bytes that S is about to load through a capability with RC: S has popped no token that carries it, or
one that does. -/
def capRc : Cap := Cap.mk' 1 (permR + permW + 2 ^ 7) 0x1000 0 true
def accW : Access := ⟨1, keyOf 16 0xFF8, 8, true, 0, .W, 0, 0, none⟩
def wRace (know : List Nat) : State :=
  { before { unitMem [(5, 0xFF8)] [(3, capRc)] with hb := { Hb.reset with know := SMap.set [] [] 0 know } }
      (.ld .none 4 3 5 (xm 3 0 0)) with races := [accW], raceNext := 2 }
theorem witness_RaceFound : SReady (wRace []) 0 (sRec (wRace [])) .none (some ⟨0, 0⟩) [35, 5] ∧ checkedCap capRc = true ∧
    Reaches (wRace []).swordCheck 0 (((wRace []).swordCheck.unit 0).kS 3) 0xFF8 8 permR 8 .read (keyOf 16 0xFF8) 0xFF8 ∧
    (∃ s1, (wRace []).swordCheck.raceCheck 0 .S (keyOf 16 0xFF8) 8 false none = .inr (s1, accW)) :=
  ⟨ready_of (by decide +kernel), by decide +kernel, reaches_of (by decide +kernel), ⟨_, rfl⟩⟩
theorem witness_RaceOrdered : (wRace [1]).happened 0 .S (keyOf 16 0xFF8) 8 none = [1] ∧
    (∀ a ∈ (wRace [1]).races, a.id ∈ (wRace [1]).happened 0 .S (keyOf 16 0xFF8) 8 none) := by decide +kernel
/-- R414, R415: the token that a word of W posts carries its checked accesses to the word that pops it. -/
theorem test_tokens_carry_accesses :
    let U := (({ UnitSt.reset with hb := Hb.reset }).tell ⟨3, .W, 0, 0, 0, .done, none, true, [], [], [], [], [], [], 0, [7], []⟩).postKnow .W .S
    (SMap.get [] U.hb.toks (fifo .W .S)) = [[7]] := by decide +kernel

/-- LD at the last eight bytes of the range, AMO, and KST of a tagged capability into the unit scratchpad. -/
def wLd : State := before (unitMem [(5, 0x1000)] []) (.ld .none 4 2 5 (xm 3 0 0xFFF8))
def wAmo : State := before (unitMem [(5, 0x40), (4, 3)] []) (.amo .none 4 2 5 (xm 3 2 0))
def wKst : State := before (unitMem [(5, 0x40)] [(3, capDev)]) (.kst .none 3 2 5 ⟨0, 0, 0, 0, 0, 0, 0⟩)
def wKld : State := before (unitMem [(5, 0x40)] [(3, capDev)]) (.kld .none 3 2 5 ⟨0, 0, 0, 0, 0, 0, 0⟩)
def wSt : State := before (unitMem [(5, 0x40), (4, 0x1122334455667788)] []) (.st .none 4 2 5 (xm 2 0 4))
def wStrl : State := before (unitMem [(5, 0x40), (4, 0x1122334455667788)] []) (.strl .none 4 2 5 (xm 3 0 8))
def wLdaq : State := before (unitMem [(5, 0x40)] []) (.ldaq .none 4 2 5 (xm 1 0 2))
def wCas : State := before (unitMem [(5, 0x40), (8, 0), (9, 77)] []) (.cas .none 8 2 5 (xm 3 0 0))

theorem witness_MemoryWordsOfSIssue_ld : SReady wLd 0 (sRec wLd) .none (some ⟨0, 0⟩) [34, 5] ∧
    (wLd.swordCheck.unit 0).acquiring = false ∧ (wLd.swordCheck.unit 0).room true = true ∧
    Reaches wLd.swordCheck 0 ((wLd.swordCheck.unit 0).kS 2) (offsetOf (wLd.swordCheck.unit 0) 5 (xm 3 0 0xFFF8)) (2 ^ 3) permR (2 ^ 3)
      .read (keyOf 16 0xFF8) 0xFF8 ∧
    wLd.swordCheck.raceFree 0 .S ((wLd.swordCheck.unit 0).kS 2) (keyOf 16 0xFF8) 8 false none wLd.swordCheck :=
  ⟨ready_of (by decide +kernel), by decide +kernel, by decide +kernel, reaches_of (by decide +kernel), by decide +kernel⟩
theorem witness_MemoryWordsOfSIssue_amo : SReady wAmo 0 (sRec wAmo) .none (some ⟨0, 0⟩) [34, 5, 4] ∧
    (wAmo.swordCheck.unit 0).acquiring = false ∧ (wAmo.swordCheck.unit 0).room true = true ∧
    Reaches wAmo.swordCheck 0 ((wAmo.swordCheck.unit 0).kS 2) (offsetOf (wAmo.swordCheck.unit 0) 5 (xm 3 2 0)) (2 ^ 3)
      (permR + permW + permA) (2 ^ 3) .atomic (keyOf 16 0x40) 0x40 ∧
    wAmo.swordCheck.raceFree 0 .S ((wAmo.swordCheck.unit 0).kS 2) (keyOf 16 0x40) 8 true (some 2) wAmo.swordCheck :=
  ⟨ready_of (by decide +kernel), by decide +kernel, by decide +kernel, reaches_of (by decide +kernel), by decide +kernel⟩
theorem witness_MemoryWordsOfSIssue_kst : SReady wKst 0 (sRec wKst) .none (some ⟨0, 0⟩) [34, 5, 35] ∧
    (wKst.swordCheck.unit 0).acquiring = false ∧ (wKst.swordCheck.unit 0).room false = true ∧
    Reaches wKst.swordCheck 0 ((wKst.swordCheck.unit 0).kS 2) (offsetOf (wKst.swordCheck.unit 0) 5 ⟨0, 0, 0, 0, 0, 0, 0⟩) 16
      (permW + permC) 16 .write (keyOf 16 0x40) 0x40 ∧
    kstAllowed ((wKst.swordCheck.unit 0).kS 2) ((wKst.swordCheck.unit 0).kS 3) = true ∧
    wKst.swordCheck.raceFree 0 .S ((wKst.swordCheck.unit 0).kS 2) (keyOf 16 0x40) 16 true none wKst.swordCheck :=
  ⟨ready_of (by decide +kernel), by decide +kernel, by decide +kernel, reaches_of (by decide +kernel), by decide +kernel,
    by decide +kernel⟩

/-- The failing accesses: k9 is untagged, k4 of SPACE 7, k5 without R, an offset beyond the range, one that is not aligned, a
KST of a capability without G through device memory, and a page whose walk ended in a fault, at level 0 for reason 1 as the tables stand. -/
def unitTrap (x : List (Nat × Nat)) : UnitSt :=
  unitMem x [(3, capSp), (4, Cap.mk' 7 permN 64 0 true), (5, Cap.mk' 1 permW 64 0 true), (6, capDev)]
def wTrap (k off : Nat) : State := before (unitTrap [(5, off)]) (.ld .none 4 k 5 (xm 3 0 0))
def wKstDev : State := before (unitTrap []) (.kst .none 3 6 5 ⟨0, 0, 0, 0, 0, 0, 0⟩)
def wXlat : State :=
  (wTrap 6 0).setDie 0 { Die.reset with wfaults := [(0, 1, 1, 1)] }
theorem witness_MemoryWordsOfSTrap :
    (SReady (wTrap 9 0) 0 (sRec (wTrap 9 0)) .none (some ⟨0, 0⟩) [41, 5] ∧ (((wTrap 9 0).swordCheck.unit 0).kS 9).tag = false) ∧
    (SReady (wTrap 4 0) 0 (sRec (wTrap 4 0)) .none (some ⟨0, 0⟩) [36, 5] ∧ (((wTrap 4 0).swordCheck.unit 0).kS 4).space = 7) ∧
    (SReady (wTrap 5 0) 0 (sRec (wTrap 5 0)) .none (some ⟨0, 0⟩) [37, 5] ∧
      (((wTrap 5 0).swordCheck.unit 0).kS 5).grants permR = false) ∧
    (SReady (wTrap 2 0xFF9) 0 (sRec (wTrap 2 0xFF9)) .none (some ⟨0, 0⟩) [34, 5] ∧
      (((wTrap 2 0xFF9).swordCheck.unit 0).kS 2).len < offsetOf ((wTrap 2 0xFF9).swordCheck.unit 0) 5 (xm 3 0 0) + 2 ^ 3) ∧
    (SReady (wTrap 2 0xFF7) 0 (sRec (wTrap 2 0xFF7)) .none (some ⟨0, 0⟩) [34, 5] ∧
      offsetOf ((wTrap 2 0xFF7).swordCheck.unit 0) 5 (xm 3 0 0) + 2 ^ 3 ≤ (((wTrap 2 0xFF7).swordCheck.unit 0).kS 2).len ∧
      ((((wTrap 2 0xFF7).swordCheck.unit 0).kS 2).base + offsetOf ((wTrap 2 0xFF7).swordCheck.unit 0) 5 (xm 3 0 0)) % 2 ^ 3 ≠ 0) ∧
    (SReady wKstDev 0 (sRec wKstDev) .none (some ⟨0, 0⟩) [38, 5, 35] ∧
      kstAllowed ((wKstDev.swordCheck.unit 0).kS 6) ((wKstDev.swordCheck.unit 0).kS 3) = false) ∧
    (SReady wXlat 0 (sRec wXlat) .none (some ⟨0, 0⟩) [38, 5] ∧ wXlat.swordCheck.translate 0 0 0x10000 .read = .xlat 0 1) :=
  ⟨⟨ready_of (by decide +kernel), by decide +kernel⟩, ⟨ready_of (by decide +kernel), by decide +kernel⟩,
    ⟨ready_of (by decide +kernel), by decide +kernel⟩, ⟨ready_of (by decide +kernel), by decide +kernel⟩,
    ⟨ready_of (by decide +kernel), by decide +kernel⟩, ⟨ready_of (by decide +kernel), by decide +kernel⟩,
    ⟨ready_of (by decide +kernel), by decide +kernel⟩⟩

/-- Operations on their way: the first operation of unit 0. -/
def sop0 (s : State) : SOp := ((s.unit 0).work.sops.head?).getD ⟨0, .ld, ⟨0, 0, none⟩, 0, false, 0, 0, 0, 0, Cap.null, none, false⟩
def wLdOp : State := after (exec (.ld .none 4 2 5 (xm 3 0 0xFFF8)) wLd)
def wKldOp : State := after (exec (.kld .none 3 2 5 ⟨0, 0, 0, 0, 0, 0, 0⟩) wKld)
theorem witness_LoadsAreGivenTheirBytes : 0 < 768 ∧ wLdOp.halted 0 = false ∧
    findSop 0 [] (wLdOp.unit 0).work.sops = some (sop0 wLdOp, []) ∧ wLdOp.sopReady 0 (sop0 wLdOp) [] = true ∧
    wLdOp.replayHead 0 0 = true ∧ wLdOp.late 0 (sop0 wLdOp).place .read = .ok (keyOf 16 0xFF8) ∧
    wLdOp.mem.poisonFor (.unit 0) (keyOf 16 0xFF8) (sop0 wLdOp).n = false ∧ (sop0 wLdOp).kind = .ld ∧ (sop0 wLdOp).n ≤ 8 := by decide +kernel
theorem witness_LoadsAreGivenTheirBytes_kld : 0 < 768 ∧ wKldOp.halted 0 = false ∧
    findSop 0 [] (wKldOp.unit 0).work.sops = some (sop0 wKldOp, []) ∧ wKldOp.sopReady 0 (sop0 wKldOp) [] = true ∧
    wKldOp.replayHead 0 0 = true ∧ wKldOp.late 0 (sop0 wKldOp).place .read = .ok (keyOf 16 0x40) ∧
    wKldOp.mem.poisonFor (.unit 0) (keyOf 16 0x40) (sop0 wKldOp).n = false ∧ (sop0 wKldOp).kind = .kld := by decide +kernel

def wStOp : State := after (exec (.st .none 4 2 5 (xm 2 0 4)) wSt)
def wStrlOp : State := after (exec (.strl .none 4 2 5 (xm 3 0 8)) wStrl)
def wKstOp : State := after (exec (.kst .none 3 2 5 ⟨0, 0, 0, 0, 0, 0, 0⟩) wKst)
theorem witness_StoresWriteExactlyTheirBytes : 0 < 768 ∧ wStOp.halted 0 = false ∧
    findSop 0 [] (wStOp.unit 0).work.sops = some (sop0 wStOp, []) ∧
    ((sop0 wStOp).kind = .st ∨ (sop0 wStOp).kind = .strl ∨ (sop0 wStOp).kind = .kst) ∧ wStOp.sopReady 0 (sop0 wStOp) [] = true ∧
    wStOp.replayHead 0 0 = true ∧ wStOp.late 0 (sop0 wStOp).place .write = .ok (keyOf 16 0x44) := by
  decide +kernel
theorem witness_StoresWriteExactlyTheirBytes_strl : 0 < 768 ∧ wStrlOp.halted 0 = false ∧
    findSop 0 [] (wStrlOp.unit 0).work.sops = some (sop0 wStrlOp, []) ∧
    ((sop0 wStrlOp).kind = .st ∨ (sop0 wStrlOp).kind = .strl ∨ (sop0 wStrlOp).kind = .kst) ∧
    wStrlOp.sopReady 0 (sop0 wStrlOp) [] = true ∧ wStrlOp.replayHead 0 0 = true ∧
    wStrlOp.late 0 (sop0 wStrlOp).place .write = .ok (keyOf 16 0x48) := by decide +kernel
theorem witness_StoresWriteExactlyTheirBytes_kst : 0 < 768 ∧ wKstOp.halted 0 = false ∧
    findSop 0 [] (wKstOp.unit 0).work.sops = some (sop0 wKstOp, []) ∧
    ((sop0 wKstOp).kind = .st ∨ (sop0 wKstOp).kind = .strl ∨ (sop0 wKstOp).kind = .kst) ∧
    wKstOp.sopReady 0 (sop0 wKstOp) [] = true ∧ wKstOp.replayHead 0 0 = true ∧
    wKstOp.late 0 (sop0 wKstOp).place .write = .ok (keyOf 16 0x40) := by decide +kernel

/-- An AMO.ADD that has retired, a CAS whose first operand equals the old value 0, and one whose first operand does not. -/
def wAmoOp : State := after (exec (.amo .none 4 2 5 (xm 3 2 0)) wAmo)
def wCasOp : State := after (exec (.cas .none 8 2 5 (xm 3 0 0)) wCas)
def wCasNo : State := { wCasOp with mem := wCasOp.mem.write 0 4 (keyOf 16 0x40) [5] }
theorem witness_AtomicsReadAndWriteAtOnce_amo : 0 < 768 ∧ wAmoOp.halted 0 = false ∧
    findSop 0 [] (wAmoOp.unit 0).work.sops = some (sop0 wAmoOp, []) ∧ wAmoOp.sopReady 0 (sop0 wAmoOp) [] = true ∧
    wAmoOp.replayHead 0 0 = true ∧ wAmoOp.late 0 (sop0 wAmoOp).place .atomic = .ok (keyOf 16 0x40) ∧
    wAmoOp.mem.poisonFor (.unit 0) (keyOf 16 0x40) (sop0 wAmoOp).n = false ∧ 0 < (sop0 wAmoOp).n ∧ (sop0 wAmoOp).kind = .amo 2 ∧
    (∀ f ∈ (wAmoOp.unit 0).work.fl, f.id ≠ 0) ∧ (sop0 wAmoOp).d ≠ 0 := by decide +kernel
theorem witness_AtomicsReadAndWriteAtOnce_cas : 0 < 768 ∧ wCasOp.halted 0 = false ∧
    findSop 0 [] (wCasOp.unit 0).work.sops = some (sop0 wCasOp, []) ∧ wCasOp.sopReady 0 (sop0 wCasOp) [] = true ∧
    wCasOp.replayHead 0 0 = true ∧ wCasOp.late 0 (sop0 wCasOp).place .atomic = .ok (keyOf 16 0x40) ∧
    wCasOp.mem.poisonFor (.unit 0) (keyOf 16 0x40) (sop0 wCasOp).n = false ∧ 0 < (sop0 wCasOp).n ∧ (sop0 wCasOp).kind = .cas ∧
    wCasOp.mem.num (.unit 0) (keyOf 16 0x40) (sop0 wCasOp).n = (sop0 wCasOp).v.toNat % 2 ^ (8 * (sop0 wCasOp).n) := by decide +kernel
theorem witness_AtomicsReadAndWriteAtOnce_casNo : 0 < 768 ∧ wCasNo.halted 0 = false ∧
    findSop 0 [] (wCasNo.unit 0).work.sops = some (sop0 wCasNo, []) ∧ wCasNo.sopReady 0 (sop0 wCasNo) [] = true ∧
    wCasNo.replayHead 0 0 = true ∧ wCasNo.late 0 (sop0 wCasNo).place .atomic = .ok (keyOf 16 0x40) ∧
    wCasNo.mem.poisonFor (.unit 0) (keyOf 16 0x40) (sop0 wCasNo).n = false ∧ 0 < (sop0 wCasNo).n ∧ (sop0 wCasNo).kind = .cas ∧
    wCasNo.mem.num (.unit 0) (keyOf 16 0x40) (sop0 wCasNo).n ≠ (sop0 wCasNo).v.toNat % 2 ^ (8 * (sop0 wCasNo).n) ∧
    (∀ f ∈ (wCasNo.unit 0).work.fl, f.id ≠ 0) ∧ (sop0 wCasNo).d ≠ 0 := by decide +kernel
theorem witness_AtomicOperations : (8 = 4 ∨ 8 = 8) ∧ 2 ^ 64 - 1 < 2 ^ (8 * 8) ∧ 1 < 2 ^ (8 * 8) ∧
    decodeWords 0x1034208A (some 0x03220000) = .ok (.amo .none 4 2 5 ⟨0, 0, 3, 0, 2, 2, 0⟩) := by decide +kernel

def wNopS : State := before (unitWith [] []) (.nopS .none)
def wFence1 : State := before { unitWith [] [] with work := { Work.reset with
  sops := [⟨7, .st, ⟨1, 0, some (keyOf 16 0)⟩, 8, false, 0, 0, 0, 0, Cap.null, none, false⟩], stores := 1 } } (.fence .none 1 2)
theorem witness_FencesWaitsAndNopsIssue : SReady wNopS 0 (sRec wNopS) .none none [] ∧
    (wNopS.swordCheck.unit 0).work.under ⟨0, 0, 0, 0⟩ = true ∧ (wNopS.swordCheck.unit 0).sIdle ∧
    (wNopS.swordCheck.unit 0).work.sops = [] ∧ wNopS.swordCheck.mem.releasedAt 0 4 = true ∧
    (wNopS.swordCheck.unit 0).work.nmcs = [] ∧ (wNopS.swordCheck.unit 0).work.nmFail = [] :=
  ⟨ready_of (by decide +kernel), by decide +kernel⟩
theorem witness_FencesWaitsAndNops_acquire : SReady wFence1 0 (sRec wFence1) .none none [] ∧ (wFence1.swordCheck.unit 0).sIdle ∧
    (∀ o ∈ (wFence1.swordCheck.unit 0).work.sops, o.kind = .st ∨ o.kind = .strl ∨ o.kind = .kst) :=
  ⟨ready_of (by decide +kernel), by decide +kernel⟩
def wNopL : State := before (unitWith [] []) (.nopL .none)
theorem witness_FencesWaitsAndNops_engines : (Eng.L ≠ .S ∧ Ready wNopL 0 .L (eRec wNopL .L) .none none [] ∧
      ((wNopL.freshen 0 .L .none).unit 0).work.under ⟨0, 0, 0, 0⟩ = true) ∧
    (Eng.V ≠ .S ∧ Ready wNopV 0 .V (eRec wNopV .V) .none none []) :=
  ⟨⟨by decide, ready_of (by decide +kernel), by decide +kernel⟩, by decide, ready_of (by decide +kernel)⟩

/-! ### Queues, streams, the graph, tapes, leases, system registers -/

/-- An image without entries, a task of one unit, a graph with that task, a continuation template and an event. -/
def imageA : Image := ⟨0, 0x10000, 0x40, 0x1000, 64, 0, false, [(0, 8, false), (16, 16, true)], [], [⟨2, 0, 0, 0, 0⟩], [], false, false⟩
def taskA : Task :=
  { graph := 3, card := 0, cont := false, payload := [], hdr := 0x100, entry := 0, args := 0x10000, shape := [1, 2, 3, 4], deadline := 2 ^ 64 - 1, waitm := 0,
    sigm := 2, foots := [], opts := [⟨2, 0, 0, 0, 0⟩], ope := 0, image := imageA, st := .running, status := 0, units := [0],
    ranks := [0], ended := [], edges := [], va := 0, home := 0, dispatched := 0, admitted := 0, lease := none, frozen := false,
    preempt := false, took := false, reqAt := 0, bars := [], dur := 0, slot := 0, started := 0, ranFor := 0, doneCycles := 0,
    overrun := false, parkedUnits := [], parkedOn := [], parkStageq := [], parkCq := [], parkGroups := []
    parkStageRel := [], parkCqRel := [], roomAt := 0, after := [], fin := [], barKnow := [] }
def graphA : Graph :=
  { tag := 9, crec := 0, asid := 1, root := 0, peerMask := 0, grants := [capDev], cards := [taskA, { taskA with card := 1, hdr := 1 }],
    events := 5, unfinished := 1, ndone := 0, nlate := 0, failed := none, ending := false, contract := false, saved := [], evKnow := [], since := 0 }
/-- Unit 0 works on task 5 of graph 3, stage 1 of 4. -/
def identA : Ident := { Ident.reset with task := 5, tiles := 1, nstage := 4, stage := 1, graph := 3, args := 0x10000, argsize := 64 }
def inTask (x : List (Nat × Nat)) (k : List (Nat × Cap)) (i : Instr) : State :=
  ((before { unitMem x k with id := identA } i).setTask 5 taskA).setGraph 3 graphA

def wQpush : State := inTask [(4, 77)] [] (.qpush .none 4 4 none)
def wQpop : State := (inTask [] [] (.qpop .none 4 none)).setCluster 0 { Cluster.reset with stageq := [(41, [11, 12])] }
def wQpushOp : State := after (exec (.qpush .none 4 4 none) wQpush)
theorem witness_StageQueues : SReady wQpush 0 (sRec wQpush) .none none [4] ∧ SReady wQpop 0 (sRec wQpop) .none none [] ∧
    ((wQpush.swordCheck.unit 0).id.nstage ≠ 0 ∧ 4 ≤ (wQpush.swordCheck.unit 0).id.nstage ∧
      (wQpush.swordCheck.unit 0).acquiring = false ∧ (wQpush.swordCheck.unit 0).room false = true ∧
      wQpush.swordCheck.stageLoad 0 4 < 512) ∧
    ((wQpop.swordCheck.unit 0).id.nstage ≠ 0 ∧ (wQpop.swordCheck.unit 0).acquiring = false ∧
      (wQpop.swordCheck.unit 0).room true = true ∧ SMap.get [] (wQpop.swordCheck.cluster 0).stageq (5 * 8 + 1) = [11, 12]) ∧
    (findSop 0 [] (wQpushOp.unit 0).work.sops = some (sop0 wQpushOp, []) ∧ (sop0 wQpushOp).kind = .qpush ∧
      wQpushOp.sopReady 0 (sop0 wQpushOp) [] = true ∧ wQpushOp.halted 0 = false) :=
  ⟨ready_of (by decide +kernel), ready_of (by decide +kernel), by decide +kernel, by decide +kernel, by decide +kernel⟩

def wBar : State := inTask [] [] (.bar .none 2 1)
def wBarred : State := after (exec (.bar .none 2 1) wBar)
theorem witness_Barrier : SReady wBar 0 (sRec wBar) .none none [] ∧ wBar.swordCheck.scopeHolds 0 1 = true ∧
    (wBar.swordCheck.unit 0).work.sops = [] ∧ (wBar.swordCheck.unit 0).bar = none ∧ wBar.swordCheck.mem.releasedAt 0 1 = true :=
  ⟨ready_of (by decide +kernel), by decide +kernel⟩
theorem witness_BarrierComplete : wBarred.task 5 = some { taskA with bars := [(2, [0])] } ∧ taskA.units ≠ [] ∧
    (∀ u ∈ taskA.units, u ∈ SMap.get [] ([(2, [0])] : SMap (List Nat)) 2) ∧ (wBarred.unit 0).bar = some (2, 1, false) ∧
    (wBarred.unit 0).trap.saved.fl = [] := by decide +kernel

/-- The bytes of a descriptor of one FP32 row of 8 elements from offset 0 of k6. -/
def descBytes : List Byte :=
  [0, 0, 8, 6, 0, 0, 0, 0] ++ List.replicate 16 0 ++ [7, 0] ++ List.replicate 14 0 ++ [4, 0, 0, 0] ++ List.replicate 20 0
def wSset : State :=
  let s := inTask [(5, 0)] [(6, capSp)] (.sset .none 3 2 5 ⟨0, 0, 0, 0, 0, 0, 0⟩)
  { s with mem := s.mem.write 0 4 (keyOf 16 0) descBytes }
theorem witness_Sset : SReady wSset 0 (sRec wSset) .none (some ⟨0, 0⟩) [34, 5] ∧
    (wSset.swordCheck.unit 0).acquiring = false ∧ (wSset.swordCheck.unit 0).room true = true ∧
    Reaches wSset.swordCheck 0 ((wSset.swordCheck.unit 0).kS 2) (offsetOf (wSset.swordCheck.unit 0) 5 ⟨0, 0, 0, 0, 0, 0, 0⟩) 64 permR 64
      .read (keyOf 16 0) 0 ∧
    (wSset.swordCheck.unit 0).shadowRoom 3 = true ∧ wSset.swordCheck.mem.poisonFor (.unit 0) (keyOf 16 0) 64 = false ∧
    descOk (wSset.swordCheck.mem.read (.unit 0) (keyOf 16 0) 64) = true ∧ (wSset.swordCheck.unit 0).kPend 6 = false :=
  ⟨ready_of (by decide +kernel), by decide +kernel, by decide +kernel, reaches_of (by decide +kernel), by decide +kernel,
    by decide +kernel, by decide +kernel, by decide +kernel⟩

/-- A descriptor of `n` FP32 elements in a row through capability `c`, eight a step. -/
def descOf (c : Cap) (fmt n vlen : Nat) : Desc :=
  { fmt := fmt, widen := false, rnd := 0, vlen := vlen, kd := 6, ks := 0, scstr := 0, off := 0, scoff := 0, cnt := [n, 1, 1, 1, 1, 1],
    str := [if fmt = 2 then 0 else if fmt = 1 then 2 else 4, 0, 0, 0, 0, 0], p0 := 0, capD := c, capS := Cap.null, orgD := .clean, orgS := .clean }
def wSpos (x : Nat) : State :=
  inTask [(4, x)] [] (.spos .none 4 3 none)
def wSposShadow (x : Nat) : State :=
  tune (wSpos x) fun U => U.setStream 3 { Stream.reset with shadow := [descOf capSp 0 16 8] }
theorem witness_Spos : SReady (wSpos 3) 0 (sRec (wSpos 3)) .none none [4] ∧
    SReady (wSposShadow 15) 0 (sRec (wSposShadow 15)) .none none [4] ∧
    SReady (wSposShadow 16) 0 (sRec (wSposShadow 16)) .none none [4] ∧
    ((wSpos 3).swordCheck.unit 0).work.sops = [] ∧ (((wSpos 3).swordCheck.unit 0).stream 3).shadow = [] ∧
    ((wSposShadow 15).swordCheck.unit 0).work.sops = [] ∧
    (((wSposShadow 15).swordCheck.unit 0).stream 3).shadow = [] ++ [descOf capSp 0 16 8] ∧
    (((wSposShadow 15).swordCheck.unit 0).xS 4).toNat < (descOf capSp 0 16 8).total ∧
    (((wSposShadow 16).swordCheck.unit 0).xS 4).toNat = (descOf capSp 0 16 8).total :=
  ⟨ready_of (by decide +kernel), ready_of (by decide +kernel), ready_of (by decide +kernel), by decide +kernel⟩

def wTcont : State := inTask [(4, 1), (5, 7), (6, 8), (7, 9)] [(2, capDev)] (.tcont .none 4 2 8 ⟨0, 0, 0, 0, 0, 0, 16⟩)
/-- A TCONT whose POST finds its FIFO full, and one that has retired since. -/
def wTcontPost : State := tune (inTask [(4, 1), (5, 7), (6, 8), (7, 9)] [(2, capDev)] (.tcont (.post .V) 4 2 8 ⟨0, 0, 0, 0, 0, 0, 16⟩)) fun U =>
  U.setTokens .S .V 8
def wTcontLate : State := { wTcont with units := [(0, { wTcont.unit 0 with work := { Work.reset with late := [.tcont 3 1 0x10010 [7, 8, 9] []] } })] }
theorem witness_TcontNoRoom : SReady wTcontPost 0 (sRec wTcontPost) (.post .V) (some ⟨0, 0⟩) [34, 8, 4, 5, 6, 7] ∧
    (wTcontPost.swordCheck.unit 0).postRoom (wTcontPost.swordCheck.flight 0 .S (sRec wTcontPost) (.post .V)) = false ∧
    (wTcontPost.swordCheck.unit 0).sIdle ∧ wTcontPost.swordCheck.isTemplate 3 1 = true ∧
    (wTcontLate.stands 0 = false ∧ (wTcontLate.unit 0).work.late = [.tcont 3 1 0x10010 [7, 8, 9] []]) :=
  ⟨ready_of (by decide +kernel), by decide +kernel⟩
/-- The late record goes out and the count rises (R381). -/
theorem test_tcont_sent_at_retire : (wTcontLate.lateActs.hub.conts.length, (wTcontLate.lateActs.unit 0).work.late.length,
    (wTcontLate.lateActs.graph 3).map fun G => G.unfinished) = (1, 0, some 2) := by decide +kernel
def wTevt (act : Nat) : State := inTask [] [] (.tevt .none 4 act 6 none)
def wTevtOp (act : Nat) : State := after (exec (.tevt .none 4 act 6 none) (wTevt act))
def wTarg : State := (inTask [(5, 8)] [] (.targ .none 4 5 0 3 none)).setCluster 0
  { Cluster.reset with tlb := [⟨1, 1, 0, 0x3F⟩] }
def wTargR : State := tune wTarg fun U => { U with id := { U.id with asid := 1 } }
theorem witness_GraphWords : SReady wTcont 0 (sRec wTcont) .none (some ⟨0, 0⟩) [34, 8, 4, 5, 6, 7] ∧
    ((wTcont.swordCheck.unit 0).sIdle ∧ ((wTcont.swordCheck.unit 0).kS 2).tag = true ∧
      offsetOf (wTcont.swordCheck.unit 0) 8 ⟨0, 0, 0, 0, 0, 0, 16⟩ + 1 ≤ ((wTcont.swordCheck.unit 0).kS 2).len ∧
      wTcont.swordCheck.isTemplate 3 1 = true ∧ (wTcont.swordCheck.unit 0).work.sops = [] ∧
      wTcont.swordCheck.mem.releasedAt 0 3 = true ∧
      (wTcont.swordCheck.unit 0).postRoom (wTcont.swordCheck.flight 0 .S (sRec wTcont) .none) = true) ∧
    SReady (wTevt 1) 0 (sRec (wTevt 1)) .none none [] ∧ SReady wTargR 0 (sRec wTargR) .none none [5] :=
  ⟨ready_of (by decide +kernel), by decide +kernel, ready_of (by decide +kernel), ready_of (by decide +kernel)⟩
theorem witness_TevtPerformed : ∀ act < 3,
    (wTevtOp act).halted 0 = false ∧ ((wTevtOp act).unit 0).work.sops = [sop0 (wTevtOp act)] ∧ (sop0 (wTevtOp act)).kind = .tevt act ∧
      (sop0 (wTevtOp act)).v.toNat = 6 ∧ (wTevtOp act).mem.releasedAt 0 3 = true ∧ (wTevtOp act).graph 3 = some graphA ∧
      ((wTevtOp act).unit 0).id.graph = 3 ∧ (sop0 (wTevtOp act)).d = 4 := by decide +kernel
theorem witness_Targ : (8 : Nat) % 2 ^ 3 = 0 ∧ 8 + 2 ^ 3 ≤ (wTargR.swordCheck.unit 0).id.argsize ∧
    (wTargR.swordCheck.unit 0).acquiring = false ∧ wTargR.swordCheck.translate 0 0 0x10008 .read = .ok 0x8 ∧
    wTargR.swordCheck.mem.poisonFor (.unit 0) 0x8 8 = false := by decide +kernel

/-- Tape words: JGUARD of eight bytes at offset 56 of 64 bytes, of one byte past the block; JPATCH of a capability field and of
another offset. -/
def wJguard (x : Nat) : State := inTask [(5, x)] [] (.jguard .none 5 3)
def wJpatch (x : Nat) : State := inTask [(5, x)] [] (.jpatch .none 2 5)
def wJmark : State := inTask [] [] (.jmark .none 4)
def wJmarkH : State := tune wJmark fun U => { U with csr := { U.csr with uh := true }, trap := { U.trap with depth := 1 } }
def wJstat : State := inTask [] [] (.jstat .none 4 3)
theorem witness_TapeWords : SReady (wJguard 56) 0 (sRec (wJguard 56)) .none none [5] ∧
    SReady (wJguard 57) 0 (sRec (wJguard 57)) .none none [5] ∧ SReady (wJpatch 16) 0 (sRec (wJpatch 16)) .none none [5, 34] ∧
    SReady (wJpatch 0) 0 (sRec (wJpatch 0)) .none none [5, 34] ∧ SReady wJmark 0 (sRec wJmark) .none none [] ∧
    SReady wJmarkH 0 (sRec wJmarkH) .none none [] ∧ SReady wJstat 0 (sRec wJstat) .none none [] ∧
    ((wJguard 56).swordCheck.unit 0).tape.run ≠ 1 ∧ (wJpatch 16).swordCheck.task 5 = some taskA ∧
    (wJmarkH.swordCheck.unit 0).inHandler = true ∧ (wJmark.swordCheck.unit 0).inHandler = false :=
  ⟨ready_of (by decide +kernel), ready_of (by decide +kernel), ready_of (by decide +kernel), ready_of (by decide +kernel),
    ready_of (by decide +kernel), ready_of (by decide +kernel), ready_of (by decide +kernel), by decide +kernel⟩

/-- Leases: a task that has one, that asks for its own point, whose cluster another task shares, during a grade, and one that
only headroom can refuse. -/
def wOpreq (T : Task) : State := ((inTask [] [] (.opreq .none 4 3 100)).setTask 5 T)
def wOpreqShared : State := (wOpreq taskA).setTask 6 { taskA with units := [1] }
def wOpreqGrade : State := { wOpreq taskA with camp := { Campion.reset with grade := 1 } }
def taskL : Task := { taskA with lease := some (3, 500) }
def wOprel (T : Task) : State := ((inTask [] [] (.oprel .none)).setTask 5 T)
theorem witness_LeaseWords : SReady (wOpreq taskL) 0 (sRec (wOpreq taskL)) .none none [] ∧
    SReady (wOpreq taskA) 0 (sRec (wOpreq taskA)) .none none [] ∧ SReady wOpreqShared 0 (sRec wOpreqShared) .none none [] ∧
    SReady wOpreqGrade 0 (sRec wOpreqGrade) .none none [] ∧ SReady (wOprel taskA) 0 (sRec (wOprel taskA)) .none none [] ∧
    SReady (wOprel taskL) 0 (sRec (wOprel taskL)) .none none [] ∧
    ((wOpreq taskL).swordCheck.unit 0).sIdle ∧ ((wOpreq taskA).swordCheck.unit 0).sIdle ∧ (wOpreqShared.swordCheck.unit 0).sIdle ∧
    (wOpreqGrade.swordCheck.unit 0).sIdle ∧ ((wOprel taskA).swordCheck.unit 0).sIdle ∧ ((wOprel taskL).swordCheck.unit 0).sIdle ∧
    wOpreqShared.swordCheck.sharesCluster 5 taskA = true ∧ wOpreqGrade.swordCheck.sharesCluster 5 taskA = false ∧
    taskA.entryOp = 2 ∧ taskL.lease ≠ none ∧ taskA.lease = none :=
  ⟨ready_of (by decide +kernel), ready_of (by decide +kernel), ready_of (by decide +kernel), ready_of (by decide +kernel),
    ready_of (by decide +kernel), ready_of (by decide +kernel), by decide +kernel⟩
/-- An emergency on another die, a thermal cap, and OPMAX below the point; and the status with all of that absent, which is that of
the headroom alone: both values of the free answer make one of the last two clauses apply. -/
def wOpreqHot : State := (wOpreq taskA).setDie 5 { Die.reset with emerg := true }
def wOpreqCap : State := (wOpreq taskA).setCluster 0 { Cluster.reset with clk := { Clock.reset with therm := some 4, opmax := 4 } }
def wOpreqMax : State := (wOpreq taskA).setCluster 0 { Cluster.reset with clk := { Clock.reset with opmax := 2 } }
theorem witness_LeaseCurtailed : SReady wOpreqHot 0 (sRec wOpreqHot) .none none [] ∧ SReady wOpreqCap 0 (sRec wOpreqCap) .none none [] ∧
    SReady wOpreqMax 0 (sRec wOpreqMax) .none none [] ∧
    ((wOpreqHot.swordCheck.unit 0).sIdle ∧ wOpreqHot.swordCheck.sharesCluster 5 taskA = false ∧ (wOpreqHot.swordCheck.die 5).emerg = true) ∧
    (0 ∈ taskA.clusters ∧ (wOpreqCap.swordCheck.cluster 0).clk.therm = some 4) ∧
    ((wOpreqMax.swordCheck.cluster 0).clk.opmax < 6 ∧ (wOpreqMax.swordCheck.cluster 0).clk.opmax < 3) :=
  ⟨ready_of (by decide +kernel), ready_of (by decide +kernel), ready_of (by decide +kernel), by decide +kernel⟩
theorem witness_LeaseJudged : taskA.entryOp < 3 ∧ (wOpreq taskA).swordCheck.sharesCluster 5 taskA = false ∧
    (wOpreq taskA).swordCheck.camp.grade = 0 ∧ (∀ die < 8, ((wOpreq taskA).swordCheck.die die).emerg = false) ∧
    (∀ c ∈ taskA.clusters, ((wOpreq taskA).swordCheck.cluster c).clk.therm = none ∧
      6 ≤ ((wOpreq taskA).swordCheck.cluster c).clk.opmax) := by decide +kernel
theorem witness_LeaseStatus : (wOpreq taskA).swordCheck.leaseStatus 5 taskA 3 = if Config.freeBool 0 800 then 0 else 1 := by
  have e : (wOpreq taskA).swordCheck.tick = 0 := by decide +kernel
  have a : (wOpreq taskA).swordCheck.sharesCluster 5 taskA = false := by decide +kernel
  have b : ¬ ((wOpreq taskA).swordCheck.camp.grade ≠ 0 ∨ (wOpreq taskA).swordCheck.tooHotNow = true ∨ (taskA.clusters.any fun c =>
      ((wOpreq taskA).swordCheck.cluster c).clk.therm.isSome ||
        decide (((wOpreq taskA).swordCheck.cluster c).clk.limit < 3)) = true) := by decide +kernel
  have c : taskA.lease.isSome = false := by decide +kernel
  have d : ¬ (3 ≤ taskA.entryOp) := by decide +kernel
  unfold State.leaseStatus
  rw [if_neg (by simp [c]), if_neg d, if_neg (by simp [a]), if_neg b, e]
  cases Config.freeBool 0 800 <;> rfl
/-- A grant whose cluster stands at its point already, and one that must raise it; a lease given back in the same two ways. -/
def wOpreqAt : State := (wOpreq taskA).setCluster 0 { Cluster.reset with clk := { Clock.reset with op := 3, target := 3 } }
theorem witness_LeaseSteady :
    ((wOpreqAt.swordCheck.setTask 5 { taskA with lease := some (3, 0) }).aimTask taskA 3).steadyTask taskA = true ∧
    (((wOpreq taskA).swordCheck.setTask 5 { taskA with lease := some (3, 0) }).aimTask taskA 3).steadyTask taskA = false ∧
    ((wOprel taskL).swordCheck.dropLease 5).steadyTask taskL = false ∧
    (((wOprel taskL).setCluster 0 { Cluster.reset with clk := { Clock.reset with op := 2, target := 2 } }).swordCheck.dropLease 5).steadyTask taskL
      = true := by decide +kernel
def withClk (k : Clock) : State := State.reset.setCluster 0 { Cluster.reset with clk := k }
/-- A relock on the way up, one that ends at its target, a ramp that has ended, a cluster at rest. -/
def clkUp : Clock := { Clock.reset with op := 3, target := 3, relock := true, phase := 2 }
def clkEnd : Clock := { Clock.reset with op := 2, target := 3, relock := true, phase := 3 }
theorem witness_Clocks : (∃ k : Clock, k.relock = true ∧ k.phase < k.op) ∧
    (clkEnd.relock = true ∧ clkEnd.op ≤ clkEnd.phase ∧ clkEnd.ramp = false ∧ clkEnd.phase = clkEnd.target) ∧
    (∃ k : Clock, k.ramp = true ∧ k.op < k.phase) ∧ (Clock.reset.relock = false ∧ Clock.reset.ramp = false) :=
  ⟨⟨clkUp, by decide⟩, by decide, ⟨{ Clock.reset with ramp := true, phase := 1 }, by decide⟩, by decide⟩

/-- CSRW: PREQ's register from user mode, and SLIPW. -/
def wCsrw (csr v : Nat) : State := inTask [(4, v)] [] (.csrw .none 4 csr)
theorem witness_Csrw : SReady (wCsrw 0x011 300) 0 (sRec (wCsrw 0x011 300)) .none none [4] ∧
    SReady (wCsrw 0x010 5000) 0 (sRec (wCsrw 0x010 5000)) .none none [4] ∧ ((wCsrw 0x010 5000).swordCheck.unit 0).sIdle ∧
    ((wCsrw 0x011 300).swordCheck.unit 0).sIdle ∧ ((wCsrw 0x011 300).swordCheck.unit 0).csr.mode = false ∧
    ((wCsrw 0x011 300).swordCheck.unit 0).rwsChange 0x011 300 = true ∧
    ((wCsrw 0x010 5000).swordCheck.unit 0).rwsChange 0x010 5000 = false ∧
    frameTooLong ((wCsrw 0x010 5000).swordCheck.unit 0).csr.tframe (clampSlip (fld 5000 0 13)) = false :=
  ⟨ready_of (by decide +kernel), ready_of (by decide +kernel), by decide +kernel⟩
/-- A CSRW whose action waits for its word to retire (R452). -/
def wCsrwLate : State := { wCsrw 0 32 with units := [(0, { (wCsrw 0 32).unit 0 with work := { Work.reset with late := [.csract 0x000 32] } })] }
theorem witness_CsrwLate : wCsrwLate.stands 0 = false ∧ (wCsrwLate.unit 0).work.late = [.csract 0x000 32] ∧
    (wCsrwLate.lateActs.unit 0).run = .parked := by decide +kernel
theorem witness_CsrwEvents : (wCsrw 0x000 32).runs 0 = true ∧ (wCsrw 0x000 32).csrwHere 0 0x000 32 = some (.none, 4) ∧
    (wCsrw 0x000 16).csrwHere 0 0x000 16 = some (.none, 4) ∧ (wCsrw 0x070 (2 ^ 17)).csrwHere 0 0x070 (2 ^ 17) = some (.none, 4) ∧
    (wCsrw 0x070 (2 ^ 16)).csrwHere 0 0x070 (2 ^ 16) = some (.none, 4) ∧ (fld 32 4 1 = 0 ∧ fld 32 5 1 = 1) ∧ fld 16 4 1 = 1 ∧
    (wCsrw 0x000 16).task ((wCsrw 0x000 16).unit 0).id.task = some taskA ∧ taskA.status = 0 ∧
    (fld (2 ^ 17) 16 1 = 0 ∧ fld (2 ^ 17) 17 1 = 1 ∧ ((wCsrw 0x070 (2 ^ 17)).unit 0).tape.run ≠ 1) := by decide +kernel

/-! ### Traps, contexts, control words, rendezvous -/

/-- The first word of an instruction's encoding, as a word of the text. -/
def word1 (i : Instr) : Word32 := BitVec.ofNat 32 ((encode i).headD 0)
/-- Unit 0 in a handler of depth `n`, in the supervisor or at address 4 of its own text, with instruction `i` before S. -/
def userVec (U : UnitSt) : UnitSt := { U with csr := { U.csr with vecEn := true, vecU := 4 } }
def inHandlerAt (n : Nat) (super : Bool) (x : List (Nat × Nat)) (k : List (Nat × Cap)) (i : Instr) : State :=
  let s := inTask x k i
  { tune s fun U => { U with csr := { U.csr with mode := super, uh := !super }, trap := { U.trap with depth := n } } with
    supText := [(0, word1 i)] }
def inUser (x : List (Nat × Nat)) (i : Instr) : State := inHandlerAt 1 false x [] i
def inSuper (x : List (Nat × Nat)) (k : List (Nat × Cap)) (i : Instr) : State := inHandlerAt 1 true x k i

def wTrapWord : State := inTask [] [] (.trap .none 9)
def wDecline : State := inUser [] (.decline .none)
def wDeclineUnd : State := inTask [] [] (.decline .none)
theorem witness_TrapWord : SReady wTrapWord 0 (sRec wTrapWord) .none none [] ∧ (wTrapWord.swordCheck.unit 0).sIdle ∧
    (wTrapWord.swordCheck.unit 0).postRoom (wTrapWord.swordCheck.flight 0 .S (sRec wTrapWord) .none) = true :=
  ⟨ready_of (by decide +kernel), by decide +kernel⟩
theorem witness_Decline : SReady wDecline 0 (sRec wDecline) .none none [] ∧ SReady wDeclineUnd 0 (sRec wDeclineUnd) .none none [] ∧
    (wDecline.swordCheck.unit 0).sIdle ∧ (wDecline.swordCheck.unit 0).csr.uh = true ∧
    (wDecline.swordCheck.unit 0).csr.mode = false ∧ (wDecline.swordCheck.unit 0).trap.depth = 1 ∧
    (wDeclineUnd.swordCheck.unit 0).sIdle ∧ (wDeclineUnd.swordCheck.unit 0).csr.uh = false :=
  ⟨ready_of (by decide +kernel), ready_of (by decide +kernel), by decide +kernel⟩

/-- Task code that a user vector serves, and task code that none does. -/
def wTask : State := inTask [(24, 5), (31, 2 ^ 64 - 1)] [(14, capDev), (15, capSp)] .nopA
def wTaskV : State := tune wTask userVec
theorem settled_of {U : UnitSt} (h : U.work.fl = []) : U.settled := fun f hf => by rw [h] at hf; cases hf
theorem witness_Settled : (wTaskV.unit 0).settled ∧ (wTask.unit 0).settled ∧ (wDecline.unit 0).settled :=
  ⟨settled_of (by decide +kernel), settled_of (by decide +kernel), settled_of (by decide +kernel)⟩
theorem witness_TrapEntryFromTaskCode : (wTaskV.unit 0).trap.depth = 0 ∧ (wTask.unit 0).trap.depth = 0 ∧
    (wTaskV.unit 0).walk.arrived = [] ∧ (wTaskV.unit 0).walk.passes = [] ∧ (wTask.unit 0).walk.arrived = [] ∧
    (wTask.unit 0).walk.passes = [] ∧ (wTask.unit 0).csr.vecEn = false ∧ (wTaskV.unit 0).csr.vecEn = true := by decide +kernel
theorem witness_TrapsInHandlersNest : (wDecline.unit 0).trap.depth = 1 ∧
    ((wDecline.takeTrap 0 ⟨.und, 0, 4, 7⟩).unit 0).trap.depth = 2 ∧ (wDecline.takeTrap 0 ⟨.und, 0, 4, 7⟩).task 5 = some taskA ∧
    taskA.status = 0 ∧ ((wDecline.takeTrap 0 ⟨.und, 0, 4, 7⟩).unit 0).id.task = 5 := by decide +kernel

/-- A handler of depth `n` that stands at RETI, in the supervisor or in the task's own text, and the parts of its frame that are
not zero: its length, x24, and for depth 2 the cause of the interrupted handler. -/
def atReti (n : Nat) (super : Bool) : State :=
  let s := inHandlerAt n super [] [] (.reti .none)
  let k := frameKey 0 (s.unit 0)
  { s with mem := ((s.mem.write 0 4 (k + 0x20) (u32 (flen 1024))).write 0 4 (k + 0x900) [5]).write 0 4 (k + 0x980) [0x11] }
def wReti : State := atReti 1 false
def wRetiTask : State := inTask [] [] (.reti .none)
/-- A frame whose saved S PC is no header word. -/
def wRetiBad : State := { wReti with mem := wReti.mem.write 0 4 (frameKey 0 (wReti.unit 0) + 0x40) [200] }
def wReti2 : State := atReti 2 true
theorem witness_Reti : SReady wReti 0 (sRec wReti) .none none [] ∧ SReady wRetiTask 0 (sRec wRetiTask) .none none [] ∧
    SReady wRetiBad 0 (sRec wRetiBad) .none none [] ∧ SReady wReti2 0 (sRec wReti2) .none none [] ∧
    ((wReti.swordCheck.unit 0).sIdle ∧ (wReti.swordCheck.unit 0).inHandler = true ∧ wReti.swordCheck.frameOk 0 = true ∧
      (wReti.swordCheck.unit 0).trap.depth = 1) ∧
    ((wRetiTask.swordCheck.unit 0).sIdle ∧ (wRetiTask.swordCheck.unit 0).inHandler = false) ∧
    ((wRetiBad.swordCheck.unit 0).sIdle ∧ (wRetiBad.swordCheck.unit 0).inHandler = true ∧ wRetiBad.swordCheck.frameOk 0 = false) ∧
    ((wReti2.swordCheck.unit 0).sIdle ∧ (wReti2.swordCheck.unit 0).inHandler = true ∧ wReti2.swordCheck.frameOk 0 = true ∧
      (wReti2.swordCheck.unit 0).trap.depth = 2) :=
  ⟨ready_of (by decide +kernel), ready_of (by decide +kernel), ready_of (by decide +kernel), ready_of (by decide +kernel),
    by decide +kernel⟩

/-- A context image at 0x10000 of device memory in a page of 1 GiB. -/
def capCtx : Cap := Cap.mk' 0 (permR + permW + permC) 0x400000 0x10000 true
def mapped (s : State) : State :=
  tune (s.setCluster 0 { Cluster.reset with tlb := [⟨1, 0, 2, 0x1F⟩] }) fun U => { U with id := { U.id with asid := 1 } }
def wCtxsave : State := mapped (inSuper [(5, 0)] [(2, capCtx)] (.ctxsave .none 2 5))
def wCtxload : State :=
  let s := mapped (inSuper [(5, 0)] [(2, capCtx)] (.ctxload .none 2 5))
  { s with mem := s.mem.write 0 4 0x10000 (u32 0x31585443 ++ u32 1 ++ u32 ctxLen) }
def wCtxUser : State := inTask [(5, 0)] [(2, capCtx)] (.ctxsave .none 2 5)
def piecesFound (s : State) (save : Bool) : Bool := match s.ctxPieces 0 0x10000 save with | .inr _ => true | .inl _ => false
def ctxList (s : State) (save : Bool) : List (Nat × Nat) := match s.ctxPieces 0 0x10000 save with | .inr l => l | _ => []
theorem ctxList_eq {s : State} {save : Bool} (h : piecesFound s save = true) :
    s.ctxPieces 0 0x10000 save = .inr (ctxList s save) := by
  unfold piecesFound at h
  unfold ctxList
  split at h
  · next e => rw [e]
  · exact absurd h (by decide)
theorem witness_Ctxsave : SReady wCtxsave 0 (sRec wCtxsave) .none none [34, 5] ∧ (wCtxsave.swordCheck.unit 0).sIdle ∧
    (wCtxsave.swordCheck.unit 0).csr.mode = true ∧ ((wCtxsave.swordCheck.unit 0).kS 2).tag = true ∧
    ((wCtxsave.swordCheck.unit 0).kS 2).grants (permW + permC) = true ∧
    ((wCtxsave.swordCheck.unit 0).xS 5).toNat + ctxLen ≤ ((wCtxsave.swordCheck.unit 0).kS 2).len ∧
    (wCtxsave.swordCheck.unit 0).dove.status ≠ 2 ∧ (wCtxsave.swordCheck.unit 0).retainBanks = 0 ∧
    (∀ q ∈ allBanks, ((wCtxsave.swordCheck.unit 0).bank q.1 q.2).st ≠ .retain) ∧
    (wCtxsave.swordCheck.unit 0).dove.busy = false ∧ (wCtxsave.swordCheck.unit 0).work.nmcs = [] ∧
    (∀ q ∈ allBanks, (wCtxsave.swordCheck.unit 0).fallDue q.1 q.2 = false) ∧
    piecesFound wCtxsave.swordCheck true = true :=
  ⟨ready_of (by decide +kernel), by decide +kernel⟩
set_option maxRecDepth 100000 in
theorem witness_Ctxload : SReady wCtxload 0 (sRec wCtxload) .none none [34, 5] ∧ (wCtxload.swordCheck.unit 0).sIdle ∧
    (wCtxload.swordCheck.unit 0).csr.mode = true ∧ ((wCtxload.swordCheck.unit 0).kS 2).grants (permR + permC) = true ∧
    (wCtxload.swordCheck.unit 0).work.sops = [] ∧ (wCtxload.swordCheck.unit 0).work.wops = [] ∧
    (wCtxload.swordCheck.ctxHeadPoison 0 (ctxList wCtxload.swordCheck false)).isNone = true ∧
    piecesFound wCtxload.swordCheck false = true ∧ wCtxload.swordCheck.ctxOk 0 (ctxList wCtxload.swordCheck false) = true :=
  ⟨ready_of (by decide +kernel), by decide +kernel⟩
theorem witness_CtxUser : SReady wCtxUser 0 (sRec wCtxUser) .none none [34, 5] ∧ (wCtxUser.swordCheck.unit 0).sIdle ∧
    (wCtxUser.swordCheck.unit 0).csr.mode = false := ⟨ready_of (by decide +kernel), by decide +kernel⟩
def wCtxloadOp : State := after (exec (.ctxload .none 2 5) wCtxload)
def wCtxsaveOp : State := after (exec (.ctxsave .none 2 5) wCtxsave)
theorem witness_CtxTransfers :
    (wCtxloadOp.halted 0 = false ∧
      wCtxloadOp.stands 0 = false ∧ (wCtxloadOp.unit 0).work.sops = [sop0 wCtxloadOp] ∧ (wCtxloadOp.unit 0).work.wops = [] ∧
      wCtxloadOp.replayHead 0 (sop0 wCtxloadOp).id = true ∧
      (sop0 wCtxloadOp).kind = .ctxload ∧ (sop0 wCtxloadOp).place.addr = 0x10000 ∧ piecesFound wCtxloadOp false = true ∧
      (wCtxloadOp.ctxPoison 0 false (ctxList wCtxloadOp false)).isNone = true ∧
      (∀ f ∈ (wCtxloadOp.unit 0).work.fl, f.eng ≠ .S ∨ f.eff = [] ∧ f.post = none ∧ f.hints = [])) ∧
    (wCtxsaveOp.halted 0 = false ∧
      wCtxsaveOp.stands 0 = false ∧ (wCtxsaveOp.unit 0).work.sops = [sop0 wCtxsaveOp] ∧ (wCtxsaveOp.unit 0).work.wops = [] ∧
      wCtxsaveOp.replayHead 0 (sop0 wCtxsaveOp).id = true ∧
      (sop0 wCtxsaveOp).kind = .ctxsave ∧ (sop0 wCtxsaveOp).place.addr = 0x10000 ∧ piecesFound wCtxsaveOp true = true ∧
      (wCtxsaveOp.ctxPoison 0 true (ctxList wCtxsaveOp true)).isNone = true) := by decide +kernel

/-- A task whose unit is saved, a parked task, a task whose unit is about to resume. -/
def wParked : State := tune (inTask [] [] .nopA) fun U => { U with run := .parked }
def taskP : Task := { taskA with st := .parked, units := [], roomAt := 1 }
def wResume : State := { (inTask [] [] .nopA).setTask 5 taskP with time := 10000000 }
def savedUnit : UnitSt := { unitWith [(24, 5)] [] with id := { identA with superCap := capDev } }
def taskR : Task := { taskA with st := .dispatching, parkedUnits := [(0, savedUnit)] }
def wLoading : State := (tune (inTask [] [] .nopA) fun U => { U with run := .loading }).setTask 5 taskR
theorem witness_Parking : (wParked.task 5 = some taskA ∧ taskA.st = .running ∧ taskA.status = 0 ∧ wParked.allParked taskA = true) ∧
    (wResume.task 5 = some taskP ∧ taskP.st = .parked ∧ wResume.clusterDown (wResume.homeOf taskP.va) = false ∧
      wResume.camp.grade = 0 ∧ heldSince taskP.roomAt wResume.time.toNat 10000000 = true ∧
      ((wResume.cluster (wResume.homeOf taskP.va)).queue taskP.prio).length < 64) ∧
    heldSince taskP.roomAt 9999999 10000000 = false ∧
    (wLoading.halted 0 = false ∧ (wLoading.unit 0).run = .loading ∧ wLoading.task (wLoading.unit 0).id.task = some taskR ∧
      taskR.st = .dispatching ∧ wLoading.clocksReady taskR = true ∧ wLoading.migClear taskR = true ∧
      taskR.parkedUnits.find? (fun p => p.1 = (wLoading.unit 0).id.rank) = some (0, savedUnit)) := by decide +kernel

/-- Unit 0 with 8 words of text, instruction `i` first, before S; `engine e` has S past it instead. -/
def longText (s : State) : State := tune s fun U => { U with walk := { U.walk with textLen := 64 } }
def atS (x : List (Nat × Nat)) (i : Instr) : State := longText (inTask x [] i)
def atE (e : Eng) (l : List Outcome) (i : Instr) : State :=
  let s := atS [] i
  { tune s fun U => ({ U with walk := { U.walk with passes := [s.hereS 0], pc := [(0, 2)] } }).setOut e l with who := (0, e) }
def wBr : State := atS [] (.br 3 0 9)
def wRet (a : Nat) : State := atS [(5, a)] (.ret 5)
def wBrL : State := atE .L [.jump true 9, .yields false] (.br 3 0 9)
def hRec (s : State) : PassRec := s.hereS 0
theorem witness_ControlWords : Ready wBr 0 .S (hRec wBr) .none none [] ∧ Ready (wRet 63) 0 .S (hRec (wRet 63)) .none none [] ∧
    Ready (wRet 64) 0 .S (hRec (wRet 64)) .none none [] ∧ Ready wBrL 0 .L (eRec wBrL .L) .none none [] ∧
    ((wBr.unit 0).inHandler = false ∧ (wBr.unit 0).loopsOf .S = [] ∧ (wBr.unit 0).outRoom = true ∧
      branchTo (hRec wBr).addr 9 = (9 : Nat) ∧ 9 < (wBr.unit 0).tlen) ∧
    ((wRet 63).unit 0).xPend 5 = false ∧ (((wRet 63).unit 0).xS 5).toNat < ((wRet 63).unit 0).tlen ∧
    ((wRet 64).unit 0).tlen ≤ (((wRet 64).unit 0).xS 5).toNat ∧ ((wRet 64).unit 0).xPend 5 = false ∧
    ((wRet 63).unit 0).inHandler = false ∧ ((wRet 63).unit 0).loopsOf .S = [] ∧ ((wRet 63).unit 0).outRoom = true ∧
    ((wRet 64).unit 0).inHandler = false ∧ ((wRet 64).unit 0).loopsOf .S = [] ∧ ((wRet 64).unit 0).outRoom = true ∧
    (wBrL.unit 0).tape.run = 0 ∧ (wBrL.unit 0).outOf .L = [.jump true 9, .yields false] :=
  ⟨ready_of (by decide +kernel), ready_of (by decide +kernel), ready_of (by decide +kernel), ready_of (by decide +kernel),
    by decide +kernel⟩

def xl (ci trip : Nat) : XL := ⟨1, ci, 3, trip⟩
def wLoop (trip : Nat) : State := atS [] (.loop 0 (xl 1 trip))
def wLoopX (n : Nat) : State := atS [(5, n)] (.loop 5 (xl 0 0))
def wLoopV (t : Nat) : State := atE .V [.trip t] (.loop 0 (xl 1 t))
theorem witness_Loops : Ready (wLoop 4) 0 .S (hRec (wLoop 4)) .none none [] ∧ Ready (wLoop 0) 0 .S (hRec (wLoop 0)) .none none [] ∧
    Ready (wLoopX (2 ^ 32 - 1)) 0 .S (hRec (wLoopX (2 ^ 32 - 1))) .none none [] ∧
    Ready (wLoopV 4) 0 .V (eRec (wLoopV 4) .V) .none none [] ∧ Ready (wLoopV 0) 0 .V (eRec (wLoopV 0) .V) .none none [] ∧
    (∀ n < 5, ((wLoop n).unit 0).inHandler = false ∧ ((wLoop n).unit 0).loopsOf .S = [] ∧
      bodyEndsInHeader ((wLoop n).unit 0) 5 4097 2 = false ∧ 5 < ((wLoop n).unit 0).tlen ∧ ((wLoop n).unit 0).outRoom = true) ∧
    ((wLoopX (2 ^ 32 - 1)).unit 0).xPend 5 = false ∧ (((wLoopX (2 ^ 32 - 1)).unit 0).xS 5).toNat = 2 ^ 32 - 1 ∧
    ((wLoopV 4).unit 0).tape.run = 0 ∧ ((wLoopV 4).unit 0).outOf .V = [.trip 4] ∧ ((wLoopV 0).unit 0).outOf .V = [.trip 0] :=
  ⟨ready_of (by decide +kernel), ready_of (by decide +kernel), ready_of (by decide +kernel), ready_of (by decide +kernel),
    ready_of (by decide +kernel), by decide +kernel⟩
/-- The loop step inside the body, at its end with iterations left, and after the last one. -/
theorem witness_LoopStep : (5 + 1 ≠ 5) ∧ (5 + 1 = 6 ∧ 3 + 1 < 4 + 2 - 1) ∧ ¬ (4 + 1 < 4 + 2 - 1) := by decide

/-- A rendezvous word with the five engines there and S last, and one with L first. -/
def meeting (i : Instr) (f : UnitSt → UnitSt) : State :=
  let s := atS [] i
  tune s fun U => f { U with walk := { U.walk with passes := [s.hereS 0], arrived := others } }
def wNopA : State := atS [] .nopA
def wSyncL : State := atE .L [] .sync
def wSync : State := meeting .sync id
def wBlend (d : Nat) (alloc bind : BitVec 8) : State := meeting (.blend d) fun U => { U with alloc := alloc, bind := bind }
def wBret (d : Nat) (alloc bind : BitVec 8) : State := meeting (.bret d) fun U => { U with alloc := alloc, bind := bind }
theorem witness_Rendezvous : Ready wNopA 0 .S (hRec wNopA) .none none [] ∧ Ready wSyncL 0 .L (eRec wSyncL .L) .none none [] ∧
    Ready wSync 0 .S (hRec wSync) .none none [] ∧ Ready (wBlend 7 0x80 0) 0 .S (hRec (wBlend 7 0x80 0)) .none none [] ∧
    Ready (wBlend 7 0x7F 0) 0 .S (hRec (wBlend 7 0x7F 0)) .none none [] ∧
    Ready (wBret 7 0x80 0x80) 0 .S (hRec (wBret 7 0x80 0x80)) .none none [] ∧
    Ready (wBret 7 0x80 0x7F) 0 .S (hRec (wBret 7 0x80 0x7F)) .none none [] ∧
    ((wSyncL.unit 0).inHandler = false ∧ ((wSyncL.arrive 0 .L (eRec wSyncL .L)).unit 0).allArrived = false) ∧
    ((wSync.unit 0).inHandler = false ∧ ((wSync.arrive 0 .S (hRec wSync)).unit 0).allArrived = true ∧
      ((wSync.arrive 0 .S (hRec wSync)).unit 0).quiet = true) ∧
    (((wBlend 7 0x80 0).arrive 0 .S (hRec (wBlend 7 0x80 0))).unit 0).allArrived = true ∧
    (((wBlend 7 0x7F 0).arrive 0 .S (hRec (wBlend 7 0x7F 0))).unit 0).allArrived = true ∧
    (((wBret 7 0x80 0x80).arrive 0 .S (hRec (wBret 7 0x80 0x80))).unit 0).allArrived = true ∧
    (((wBret 7 0x80 0x7F).arrive 0 .S (hRec (wBret 7 0x80 0x7F))).unit 0).allArrived = true :=
  ⟨ready_of (by decide +kernel), ready_of (by decide +kernel), ready_of (by decide +kernel), ready_of (by decide +kernel),
    ready_of (by decide +kernel), ready_of (by decide +kernel), ready_of (by decide +kernel), by decide +kernel⟩

def wYield : State := atS [] .yield
def wYieldL : State := atE .L [.yields false] .yield
def wYieldP : State :=
  let s := atE .L [.yields true] .yield
  tune s fun U => { U with walk := { U.walk with arrived := [.V, .W, .M, .C, .S], outq := others.map fun e => (e.code, [.yields true]) } }
theorem witness_Yield : Ready wYield 0 .S (hRec wYield) .none none [] ∧ Ready wYieldL 0 .L (eRec wYieldL .L) .none none [] ∧
    Ready wYieldP 0 .L (eRec wYieldP .L) .none none [] ∧
    ((wYield.unit 0).inHandler = false ∧ (wYield.unit 0).tape.run = 0 ∧ (wYield.unit 0).walk.arrived = [] ∧
      (wYield.unit 0).outRoom = true ∧ (wYield.unit 0).csr.preq = false ∧ (wYield.unit 0).full .S = false) ∧
    ((wYieldL.unit 0).full .L = false ∧ (wYieldL.unit 0).tape.run = 0 ∧ (wYieldL.unit 0).outOf .L = [.yields false]) ∧
    ((wYieldP.unit 0).tape.run = 0 ∧ (wYieldP.unit 0).outOf .L = [.yields true] ∧
      ((wYieldP.arrive 0 .L (eRec wYieldP .L)).unit 0).allArrived = true ∧
      ((wYieldP.arrive 0 .L (eRec wYieldP .L)).unit 0).quiet = true) :=
  ⟨ready_of (by decide +kernel), ready_of (by decide +kernel), ready_of (by decide +kernel), by decide +kernel⟩

/-! ### Load, store and vector words, banks -/

/-- A unit whose eight register banks are allocated, bound to the vector side and Full; bank 1 row 0 holds 0, 1, 2, …, bank 2
row 0 holds 5 in lane 0 and 2^32 − 1 in lane 1. -/
def vecUnit (x : List (Nat × Nat)) (k : List (Nat × Cap)) : UnitSt :=
  { unitMem x k with
    id := identA, alloc := 0xFF
    rb := (List.range 8).map fun b => (b, ⟨.full, .full, false, 0⟩)
    elems := ((List.range 63).map fun j => (4097 + j, BitVec.ofNat 32 (j + 1))) ++ [(8192, 5), (8193, 0xFFFFFFFF)] }
def spec (bank row : Nat) : Nat := bank * 256 + row
/-- Engine `e` of unit `U` has `i` before it, with S past it. -/
def atEng (U : UnitSt) (i : Instr) : State := ((before U i).setTask 5 taskA).setGraph 3 graphA
def fv (vd ty : Nat) : FV := ⟨spec vd 0, 0, 0, ty⟩
def xv (va vb : Nat) : XV := ⟨spec va 0, spec vb 0, 0, 0, 0, 0, 0, 0⟩

/-- A Read stream over FP32 elements of the unit scratchpad whose first eight have returned. -/
def readStream (d : Desc) : Stream :=
  { Stream.reset with
    active := some d, mode := .read, ps := 8
    buf := [⟨0, 8, some ([0, 1, 2, 3, 4, 5, 6, 0x3F800000], []), none⟩] }
def withStream (U : UnitSt) (t : Stream) : UnitSt := U.setStream 3 t
def dRow : Desc := descOf capSp 0 16 8
def wLsv : State := atEng (withStream (vecUnit [] []) (readStream dRow)) (.lsv .none 3 (spec 4 0) none)
def wLbrd : State := atEng (withStream (vecUnit [] []) (readStream dRow)) (.lbrd .none 3 (spec 4 0) none)
def wLsvEnd : State :=
  atEng (withStream (vecUnit [] []) { readStream dRow with pc := 16, ps := 16, buf := [] }) (.lsv .none 3 (spec 4 0) none)
theorem witness_LoadWords : Ready wLsv 0 .L (eRec wLsv .L) .none none [] ∧ Ready wLbrd 0 .L (eRec wLbrd .L) .none none [] ∧
    Ready wLsvEnd 0 .L (eRec wLsvEnd .L) .none none [] ∧
    (∀ s ∈ [wLsv, wLbrd, wLsvEnd], ((s.freshen 0 .L .none).unit 0).bankChk false [(specBank (spec 4 0), false)] = .ok ∧
      ((s.freshen 0 .L .none).unit 0).room true = true ∧ (((s.freshen 0 .L .none).unit 0).stream 3).mode = .read ∧
      (((s.freshen 0 .L .none).unit 0).stream 3).active = some dRow ∧ (((s.freshen 0 .L .none).unit 0).stream 3).cons = 0) ∧
    dRow.checked = false ∧ dRow.step 0 = 8 ∧ dRow.total = 16 :=
  ⟨ready_of (by decide +kernel), ready_of (by decide +kernel), ready_of (by decide +kernel), by decide +kernel⟩
theorem witness_takeBuf : takeBuf 8 (readStream dRow).buf = .inl (some ([0, 1, 2, 3, 4, 5, 6, 0x3F800000], [], [])) ∧
    takeBuf 1 (readStream dRow).buf = .inl (some ([0], [], [⟨1, 7, some ([1, 2, 3, 4, 5, 6, 0x3F800000], []), none⟩])) ∧
    takeBuf 0 [] = .inl (some ([], [], [])) := ⟨rfl, rfl, rfl⟩

/-- What a read at once gives. -/
def isGot : Took → Bool
  | .got _ _ _ => true
  | _ => false
theorem got_of {t : Took} (h : isGot t = true) : ∃ s c e, t = .got s c e := by
  cases t with
  | got s c e => exact ⟨s, c, e, rfl⟩
  | stall s => exact absurd h Bool.false_ne_true
  | trap s c i j => exact absurd h Bool.false_ne_true
  | mcheck s => exact absurd h Bool.false_ne_true
def wLgath (pc : Nat) : State :=
  atEng (withStream (vecUnit [] []) { readStream dRow with
    pc := pc, ps := 16, buf := if pc = 0 then [⟨0, 16, some (List.range 16, []), none⟩] else [] })
    (.lgath .none 3 (spec 4 0) (xv 1 0))
theorem witness_Lgath : Ready (wLgath 0) 0 .L (eRec (wLgath 0) .L) .none (some ⟨0, 0⟩) [] ∧
    Ready (wLgath 16) 0 .L (eRec (wLgath 16) .L) .none (some ⟨0, 0⟩) [] ∧
    (∀ s ∈ [wLgath 0, wLgath 16], ((s.freshen 0 .L .none).unit 0).work.fl = [] ∧
      ((s.freshen 0 .L .none).unit 0).bankChk false [(1, true), (4, false)] = .ok ∧
      ((s.freshen 0 .L .none).unit 0).room true = true ∧ (((s.freshen 0 .L .none).unit 0).stream 3).mode = .read ∧
      (((s.freshen 0 .L .none).unit 0).stream 3).active = some dRow) ∧ dRow.c 0 = 16 ∧
    (∃ s1 c e, ((wLgath 0).freshen 0 .L .none).takeRow 0 3 dRow (((wLgath 0).freshen 0 .L .none).unit 0 |>.stream 3) (eRec (wLgath 0) .L) = .got s1 c e) :=
  ⟨ready_of (by decide +kernel), ready_of (by decide +kernel), by decide +kernel, by decide +kernel, got_of (by decide +kernel)⟩

/-- The LSV after its issue. -/
def wLsvOp : State := after (exec (.lsv .none 3 (spec 4 0) none) wLsv)
def lFlight : Flight := ((wLsvOp.unit 0).work.fl.head?).getD ⟨0, .S, 0, 0, 0, .done, none, false, [], [], [], [], [], [], 0, [], []⟩
theorem witness_LoadWordPerformed : wLsvOp.halted 0 = false ∧ (wLsvOp.unit 0).headOf .L = some lFlight ∧ lFlight.wait = .op ∧
    lFlight.eff = [laneWrites (spec 4 0) (padLanes [0, 1, 2, 3, 4, 5, 6, 0x3F800000])] ∧ lFlight.post = none ∧
    lFlight.hints = [] ∧ wLsvOp.stands 0 = false ∧ (wLsvOp.unit 0).work.fl = [lFlight] := by decide +kernel

/-- Streams that are started, moved, rewound and ended, by L and by W. -/
def wSgo (w : Bool) : State :=
  atEng (withStream (vecUnit [] []) { Stream.reset with shadow := [dRow] }) (if w then .sgoW .none 3 none else .sgoL .none 3 none)
def wCtl (w : Bool) (m : SMode) : State :=
  atEng (withStream (vecUnit [] []) { readStream dRow with mode := m, pc := 8, buf := [] })
    (if w then .srewW .none 3 none else .srewL .none 3 none)
def engOf (w : Bool) : Eng := if w then .W else .L
theorem witness_StreamControl (w : Bool) : Ready (wSgo w) 0 (engOf w) (eRec (wSgo w) (engOf w)) .none none [] ∧
    Ready (wCtl w .read) 0 (engOf w) (eRec (wCtl w .read) (engOf w)) .none none [] ∧
    Ready (wCtl w .write) 0 (engOf w) (eRec (wCtl w .write) (engOf w)) .none none [] ∧
    Ready (wCtl w .idle) 0 (engOf w) (eRec (wCtl w .idle) (engOf w)) .none none [] ∧
    sgoCheck dRow w (eRec (wSgo w) (engOf w)) = none := by
  cases w
  · exact ⟨ready_of (by decide +kernel), ready_of (by decide +kernel), ready_of (by decide +kernel), ready_of (by decide +kernel),
      by decide +kernel⟩
  · exact ⟨ready_of (by decide +kernel), ready_of (by decide +kernel), ready_of (by decide +kernel), ready_of (by decide +kernel),
      by decide +kernel⟩

/-- A Read stream that asks for its second step, and one whose step has not returned. -/
def wAhead : State := tune State.reset fun _ => withStream (vecUnit [] []) (readStream dRow)
def wReturn : State := tune State.reset fun _ => withStream (vecUnit [] []) { readStream dRow with buf := [⟨0, 8, none, none⟩] }
abbrev Keys : Type := (Nat × SAcc) ⊕ List (Nat × List (Nat × Nat))
def keysOf (x : Keys) : List (Nat × List (Nat × Nat)) := match x with | .inr l => l | .inl _ => []
def keysFound (x : Keys) : Bool := match x with | .inr _ => true | .inl _ => false
theorem keys_of {x : Keys} (h : keysFound x = true) : x = .inr (keysOf x) := by
  cases x with
  | inl a => exact absurd h Bool.false_ne_true
  | inr l => rfl
theorem witness_ReadAhead : (wAhead.halted 0 = false ∧ wAhead.stands 0 = false ∧ wReturn.stands 0 = false ∧ (wAhead.unit 0).inHandler = false ∧ dRow.checked = false ∧
      ((wAhead.unit 0).stream 3).ps < dRow.skip ((wAhead.unit 0).stream 3).pc 32 ∧ dRow.chunk 8 16 = 8 ∧ (∀ b ∈ ((wAhead.unit 0).stream 3).buf, b.mark = none)) ∧
    wAhead.elemKeys 0 dRow (runFrom 8 8) = .inr (keysOf (wAhead.elemKeys 0 dRow (runFrom 8 8))) ∧
    (((wReturn.unit 0).stream 3).buf.filter (fun b => b.data.isNone && b.mark.isNone) = [⟨0, 8, none, none⟩] ∧
      wReturn.replayHead 0 (streamId 3 0) = true ∧ wReturn.mem.poisonFor (.unit 0) (keyOf 16 0 / 64 * 64) 64 = false) ∧
    wReturn.elemKeys 0 dRow (runFrom 0 8) = .inr (keysOf (wReturn.elemKeys 0 dRow (runFrom 0 8))) ∧
    ((keysOf (wReturn.elemKeys 0 dRow (runFrom 0 8))).findSome? fun q =>
      (q.2.find? fun k => (((wReturn.unit 0).stream 3).lineBytes 0 k).isNone).map fun k => (q.1, k.1 / 64)) =
        some (0, keyOf 16 0 / 64) :=
  ⟨by decide +kernel, keys_of (by decide +kernel), by decide +kernel, keys_of (by decide +kernel), by decide +kernel⟩

/-- A Write stream; its words, and their places. -/
def writeUnit (d : Desc) : UnitSt := withStream (vecUnit [] []) { Stream.reset with active := some d, mode := .write, cons := 3 }
def wWsv : State := atEng (writeUnit dRow) (.wsv .none 3 (spec 1 0) 0 none)
def wWacc : State := atEng (writeUnit dRow) (.wacc .none 3 (spec 1 0) 0 none)
def wWscat : State := atEng (writeUnit dRow) (.wscat .none 3 (spec 1 0) 0 (xv 1 0))
def wWflush : State := atEng (vecUnit [] []) (.wflush .none 4)
def placesOf : WAcc → List (Place × List Byte)
  | .ok l => l
  | _ => []
def isOk : WAcc → Bool
  | .ok _ => true
  | _ => false
theorem ok_of {x : WAcc} (h : isOk x = true) : x = .ok (placesOf x) := by
  cases x with
  | ok l => rfl
  | wait s => exact absurd h Bool.false_ne_true
  | trap s c i j => exact absurd h Bool.false_ne_true
def wsvStores : List (Nat × List Byte) :=
  cutStores capSp (((stepElems dRow 0).map fun e => (dRow.addr e % 2 ^ 64).toNat).zip
    ((((wWsv.mixed .W (wWsv.unit 0)).laneNats (spec 1 0)).take 8).map fun v => toBytes 4 (dRow.encode v).1))
def wscatPairs : List (Nat × Nat) :=
  (((wWscat.mixed .W (wWscat.unit 0)).laneNats (spec 1 0)).zip ((wWscat.mixed .W (wWscat.unit 0)).laneNats (spec 1 0))).filter fun q =>
    decide (q.1 < dRow.c 0)
def wscatStores : List (Nat × List Byte) :=
  cutStores capSp ((wscatPairs.map fun q => (dRow.addr (dRow.row 0 * dRow.c 0 + q.1) % 2 ^ 64).toNat).zip
    (wscatPairs.map fun q => toBytes 4 (dRow.encode q.2).1))
def wsvPlaces : WAcc := wWsv.storePlaces 0 capSp wsvStores
def wscatPlaces : WAcc := wWscat.storePlaces 0 capSp wscatStores
/-- R209: the bytes of an element that reaches over the end of a page are two pieces. -/
theorem test_store_cut : cutStores (Cap.mk' 0 permW 0x100 0xFFFE true) [(0, [1, 2, 3, 4]), (4, [5])] = [(0, [1, 2]), (2, [3, 4]), (4, [5])] := by
  decide +kernel
theorem witness_StoreWords : Ready wWsv 0 .W (eRec wWsv .W) .none none [] ∧ Ready wWacc 0 .W (eRec wWacc .W) .none none [] ∧
    Ready wWscat 0 .W (eRec wWscat .W) .none (some ⟨0, 0⟩) [] ∧ Ready wWflush 0 .W (eRec wWflush .W) .none none [] ∧
    wsvPlaces = .ok (placesOf wsvPlaces) ∧ wscatPlaces = .ok (placesOf wscatPlaces) ∧
    ((placesOf wsvPlaces).all (fun p => p.1.key.isSome) = true ∧ (placesOf wscatPlaces).all (fun p => p.1.key.isSome) = true ∧
      capSp.space ≠ 0 ∧ (wWsv.parityChk 0 ((List.range 64).map (specKey (spec 1 0)))).isNone = true) ∧
    ((wWsv.unit 0).bankChk false [(1, true)] = .ok ∧ (wWscat.unit 0).bankChk false [(1, true), (1, true)] = .ok ∧
      (wWsv.unit 0).room false = true ∧ ((wWsv.unit 0).stream 3).mode = .write ∧ ((wWsv.unit 0).stream 3).active = some dRow ∧
      checkedCap capSp = false ∧ (wWflush.unit 0).work.wops = [] ∧ wWflush.mem.madePerformed 0 1 4 = true) ∧
    wsvStores.map (·.1) = (List.range 8).map (fun j => 4 * j) ∧ wscatStores.map (·.1) = (List.range 16).map (fun j => 4 * j) :=
  ⟨ready_of (by decide +kernel), ready_of (by decide +kernel), ready_of (by decide +kernel), ready_of (by decide +kernel),
    ok_of (by decide +kernel), ok_of (by decide +kernel), by decide +kernel⟩
/-- A W word with two writes of one byte. -/
def wopA : WOp := ⟨0, [(⟨1, 0, some (keyOf 16 0)⟩, [1, 2, 3, 4]), (⟨1, 2, some (keyOf 16 2)⟩, [7, 8, 9, 10])], none, false⟩
def wWop : State := tune State.reset fun _ => { unitMem [] [] with work := { Work.reset with wops := [wopA], stores := 1 } }
theorem witness_StoreWordPerformed : wWop.halted 0 = false ∧ (wWop.unit 0).work.wops = wopA :: [] ∧ wopA.id = 0 ∧ wopA.add = none ∧
    wWop.wopStands 0 0 = false ∧ wWop.replayHead 0 0 = true ∧
    wWop.lateAll 0 wopA.stores = .inl [keyOf 16 0, keyOf 16 2] := by decide +kernel

/-- A lane word and a word that does not work lane by lane. -/
def atV (i : Instr) (x : List (Nat × Nat)) : State := atEng (vecUnit x []) i
def wVadd : State := atV (.vadd .none (fv 4 1) (xv 1 2)) []
def wVidx : State := atV (.vidx .none (fv 4 0) ⟨0, 5, 0, 0, 0, 0, 1, 0⟩) [(5, 2 ^ 32 - 3)]
theorem witness_VectorWords : Ready wVadd 0 .V (eRec wVadd .V) .none (some ⟨0, 0⟩) [] ∧
    Ready wVidx 0 .V (eRec wVidx .V) .none (some ⟨0, 0⟩) [] ∧
    ((wVadd.unit 0).vHazard [1, 2] = false ∧ (wVadd.unit 0).bankChk false [(1, true), (2, true), (4, false)] = .ok) ∧
    ((wVidx.unit 0).vHazard [] = false ∧ (wVidx.unit 0).bankChk false [(4, false)] = .ok) :=
  ⟨ready_of (by decide +kernel), ready_of (by decide +kernel), by decide +kernel⟩
theorem witness_IntegerLanes : ((⟨1, 0, true, false⟩ : LMode).ty = 1 ∨ (⟨1, 0, true, false⟩ : LMode).ty = 2) ∧
    (⟨2, 0, false, false⟩ : LMode).ty = 2 ∧ (⟨1, 0, true, false⟩ : LMode).sat = true ∧
    (⟨2, 0, false, false⟩ : LMode).sat = false := by decide

/-- Conditional streams: VCPUSH selects by bank 2, VCPOP takes the two records that are there. -/
def wVcpush : State := atV (.vcpush .none ⟨3, 0, 0, 0⟩ (xv 1 2)) []
def wVcpop : State := (atV (.vcpop .none (fv 4 0) ⟨3, 5, 0, 0, 0, 0, 1, 0⟩) [(5, 2)]).setCluster 0
  { Cluster.reset with cq := [(3, [7, 8])] }
theorem witness_ConditionalStreams : Ready wVcpush 0 .V (eRec wVcpush .V) .none (some ⟨0, 0⟩) [] ∧
    Ready wVcpop 0 .V (eRec wVcpop .V) .none (some ⟨0, 0⟩) [] ∧
    (wVcpush.oneCluster 0 = true ∧ (wVcpush.unit 0).vHazard [1, 2] = false ∧
      (wVcpush.unit 0).bankChk false [(1, true), (2, true)] = .ok ∧ (wVcpush.cqOf 0 3).length + 2 ≤ 2048 ∧
      wVcpush.mem.releasedAt 0 1 = true ∧
      (((wVcpush.unit 0).lanes (spec 1 0)).zip ((wVcpush.unit 0).lanes (spec 2 0))).filterMap
        (fun p => if p.2 ≠ 0 then some p.1 else none) = [0, 1]) ∧
    (wVcpop.oneCluster 0 = true ∧ (wVcpop.unit 0).bankChk false [(4, false)] = .ok ∧
      ((eRec wVcpop .V).vals.headD 0).toNat = 2 ∧ (wVcpop.cqOf 0 3).length = 2) :=
  ⟨ready_of (by decide +kernel), ready_of (by decide +kernel), by decide +kernel, by decide +kernel⟩

/-- Bank words on a bank of the vector side and on one of the matrix engine. -/
def wBhint : State := atV (.bhint .none 7 2 0 none) []
def wBallocM : State := atEng { vecUnit [] [] with bind := 0x80 } (.balloc .none 7 0 none)
/-- R215: BHINT and BWAKE of a bank in the matrix slot, and of one that no BALLOC has taken. -/
def wBhintM (i : Instr) : State := atEng { vecUnit [] [] with bind := 0x80, alloc := 0xBF } i
theorem witness_BankWordsOwn : Ready (wBhintM (.bhint .none 7 2 0 none)) 0 .V (eRec (wBhintM (.bhint .none 7 2 0 none)) .V) .none none [] ∧
    Ready (wBhintM (.bwake .none 6 0 none)) 0 .V (eRec (wBhintM (.bwake .none 6 0 none)) .V) .none none [] ∧
    ((wBhintM (.bhint .none 7 2 0 none)).unit 0).inMatrix 7 = true ∧ ((wBhintM (.bwake .none 6 0 none)).unit 0).allocated 6 = false :=
  ⟨ready_of (by decide +kernel), ready_of (by decide +kernel), by decide +kernel⟩
theorem test_bhint_bankown : fld ((after (exec (.bhint .none 7 2 0 none) (wBhintM (.bhint .none 7 2 0 none)))).unit 0).csr.cause.toNat 0 8
    = Cause.code .bankown := by decide +kernel
theorem witness_BankWords : Ready wBhint 0 .V (eRec wBhint .V) .none none [] ∧ Ready wBallocM 0 .V (eRec wBallocM .V) .none none [] ∧
    ((wBhint.unit 0).allocated 7 = true ∧ (wBhint.unit 0).inMatrix 7 = false ∧ (wBhint.unit 0).bankChk false [(7, false)] = .ok) ∧ (wBallocM.unit 0).inMatrix 7 = true :=
  ⟨ready_of (by decide +kernel), ready_of (by decide +kernel), by decide +kernel⟩
/-- Banks that are to fall, whose wake is over, and whose copy is over. -/
def wFall (st : Supply) : State :=
  let s := tune State.reset fun _ =>
    { vecUnit [] [] with rb := [(1, ⟨.full, st, true, 0⟩)], sb := [(15, ⟨.full, st, true, 0⟩)] }
  { s with mem := s.mem.write 0 4 (keyOf 16 0xF0000) [1, 2] }
def wWakeOver : State := tune State.reset fun _ =>
  { vecUnit [] [] with rb := [(1, ⟨.waking, .full, false, 0⟩)], sb := [(15, ⟨.waking, .full, false, 0⟩)] }
def wDup : State := tune State.reset fun _ => { vecUnit [] [] with alloc := 0x0F, dup := true }
theorem witness_BankEvents : (∀ st ∈ [Supply.full, .retain, .off], (wFall st).halted 0 = false ∧
      (wFall st).stands 0 = false ∧ ((wFall st).unit 0).headOf .V = none ∧ ((wFall st).unit 0).bank 1 15 = ⟨.full, st, true, 0⟩ ∧ ((wFall st).unit 0).spadBusy 15 = false ∧
      ((wFall st).unit 0).bank 0 1 = ⟨.full, st, true, 0⟩ ∧ ((wFall st).unit 0).regBusy 1 = false) ∧
    (wWakeOver.unit 0).bank 1 15 = ⟨.waking, .full, false, 0⟩ ∧ (wWakeOver.unit 0).bank 0 1 = ⟨.waking, .full, false, 0⟩ ∧
    (wDup.unit 0).dupHolds 1 = true := by decide +kernel

/-! ### Matrix words, shared groups, moves, windows -/

/-- A tile operation on bank 7: a product of depth 32 of one row and one column, or a word on the whole bank. -/
def mopA (mr panel src : Nat) (scal : Option Word32) (steps : List (List Nat)) : MOp :=
  { id := 0, bf16 := false, bank := 7, s := 3, mode := 1, shr := false, mr := mr, k := 32, c0 := 32, bword := 0, nc := 1, fade := 0
    panel := panel, steps := steps, flags := 0, scal := scal, src := src, round := 0, seen := [], bus := [], rest := none }
/-- A unit with bank 7 bound to the matrix engine, a Read stream of 32 L6 or BF16 elements that have returned. -/
def matUnit (fmt : Nat) : UnitSt :=
  { withStream (vecUnit [] []) { Stream.reset with
      active := some (descOf capSp fmt 32 32), mode := .read, ps := 32
      buf := [⟨0, 32, some (List.replicate 32 1, if fmt = 2 then List.replicate 32 127 else []), none⟩] } with
    bind := 0x80, bsets := [(1, ⟨4091, 64, false⟩), (2, ⟨4088, 64, true⟩)] }
def xmm (mode shr bset : Nat) : XMM := ⟨0, 0, mode, shr, bset, 0, 31⟩
def wMmul : State := atEng (matUnit 2) (.mmul .none 3 7 0 (xmm 1 0 1))
def wMmulb : State := atEng (matUnit 1) (.mmulb .none 3 7 0 (xmm 0 0 2))
def wMmulS : State := tune (atEng (matUnit 2) (.mmul .none 3 7 0 (xmm 1 1 1))) fun U => { U with group := some (2, false) }
theorem witness_MatrixProducts :
    (∀ s ∈ [wMmul, wMmulb, wMmulS], (∀ o ∈ ((s.freshen 0 .M .none).unit 0).work.mops, o.stepsDone = true) ∧
      ((s.freshen 0 .M .none).unit 0).work.tiles < 1023 ∧ (((s.freshen 0 .M .none).unit 0).stream 3).mode = .read ∧
      (((s.freshen 0 .M .none).unit 0).stream 3).cons = 0 ∧ (((s.freshen 0 .M .none).unit 0).stream 3).pc = 0 ∧
      ((s.freshen 0 .M .none).unit 0).bankChk true [(7, true)] = .ok ∧ ((s.freshen 0 .M .none).unit 0).bankChk true [(7, false)] = .ok) ∧
    ((((wMmul.freshen 0 .M .none).unit 0).stream 3).active = some (descOf capSp 2 32 32) ∧
      ((wMmul.freshen 0 .M .none).unit 0).bset 1 = ⟨4091, 64, false⟩ ∧ bWords false 32 = 4) ∧
    ((((wMmulb.freshen 0 .M .none).unit 0).stream 3).active = some (descOf capSp 1 32 32) ∧
      ((wMmulb.freshen 0 .M .none).unit 0).bset 2 = ⟨4088, 64, true⟩ ∧ bWords true 32 = 8) ∧
    ((wMmulS.freshen 0 .M .none).unit 0).isMember = true ∧
    (∀ f, (descOf capSp f 32 32).c 0 = 32 ∧ (descOf capSp f 32 32).vlen = 32 ∧ (descOf capSp f 32 32).i0 0 = 0 ∧
      panels 32 32 = 1 ∧ (descOf capSp f 32 32).total = 32) :=
  ⟨by decide +kernel, by decide +kernel, by decide +kernel, by decide +kernel, fun _ => ⟨rfl, rfl, rfl, rfl, rfl⟩⟩
theorem witness_MatrixProducts_ready : Ready wMmul 0 .M (eRec wMmul .M) .none (xmm 1 0 1).grd [] ∧
    Ready wMmulb 0 .M (eRec wMmulb .M) .none (xmm 0 0 2).grd [] ∧ Ready wMmulS 0 .M (eRec wMmulS .M) .none (xmm 1 1 1).grd [] ∧
    (∃ s1 a e, (wMmul.freshen 0 .M .none).firstStep 0 3 (descOf capSp 2 32 32) 32 32 (eRec wMmul .M) = .got s1 a e) ∧
    (∃ s1 a e, (wMmulb.freshen 0 .M .none).firstStep 0 3 (descOf capSp 1 32 32) 32 32 (eRec wMmulb .M) = .got s1 a e) ∧
    (∃ s1 a e, (wMmulS.freshen 0 .M .none).firstStep 0 3 (descOf capSp 2 32 32) 32 32 (eRec wMmulS .M) = .got s1 a e) :=
  ⟨ready_of (by decide +kernel), ready_of (by decide +kernel), ready_of (by decide +kernel), got_of (by decide +kernel),
    got_of (by decide +kernel), got_of (by decide +kernel)⟩
def wMclr : State := atEng (matUnit 2) (.mclr .none 7 none)
def wMbset : State := atEng (matUnit 2) (.mbset .none 3 0x40FFF)
theorem witness_MatrixSettings : Ready wMclr 0 .M (eRec wMclr .M) .none none [] ∧ Ready wMbset 0 .M (eRec wMbset .M) .none none [] ∧
    ((wMclr.freshen 0 .M .none).unit 0).bankChk true [(7, false)] = .ok ∧
    ((wMclr.freshen 0 .M .none).unit 0).bankChk true [(7, true)] = .ok ∧
    ((wMclr.freshen 0 .M .none).unit 0).work.tiles < 1023 ∧ ((wMclr.freshen 0 .M .none).unit 0).work.mops = [] :=
  ⟨ready_of (by decide +kernel), ready_of (by decide +kernel), by decide +kernel⟩

/-- The tile operation `o` is the oldest of unit 0, whose bank 7 holds 3.0 in its first element. -/
def wTile (o : MOp) : State := tune State.reset fun _ =>
  { matUnit 2 with elems := [(28672, 0x40400000), (32767, 7)], work := { Work.reset with mops := [o], tiles := 1 } }
def mulDone : MOp := mopA 1 1 1 none []
def mulPanel : MOp := mopA 1 0 1 none [List.replicate 64 1]
theorem witness_TileOperations :
    (∀ o ∈ [mopA 0 0 0 none [], mopA 0 0 0 (some 0x40000000) [], mulDone], (wTile o).halted 0 = false ∧
      (wTile o).relocking 0 = false ∧ ((wTile o).parityChk 0 o.readKeys).isNone = true ∧ ((wTile o).unit 0).work.mops = o :: [] ∧ ((wTile o).unit 0).dcur = 0 ∧ ((wTile o).unit 0).work.fl = []) ∧
    (mulDone.isMul = true ∧ mulDone.panelsDone = true) ∧ (mopA 0 0 0 none []).isMul = false ∧
    ((wTile mulPanel).halted 0 = false ∧ ((wTile mulPanel).unit 0).work.mops = mulPanel :: [] ∧ mulPanel.isMul = true ∧
      mulPanel.panelsDone = false ∧ mulPanel.src ≠ 0 ∧ mulPanel.shr = false ∧ mulPanel.mr ≤ mulPanel.steps.length ∧
      ((wTile mulPanel).bPoison 0 mulPanel).isNone = true ∧ (wTile mulPanel).relocking 0 = false ∧
      ((wTile mulPanel).parityChk 0 mulPanel.readKeys).isNone = true ∧ ((wTile mulPanel).unit 0).dcur = 0 ∧ mulPanel.mr ≤ 64 ∧
      mulPanel.nc ≤ 64) := by decide +kernel

/-- Unit 1 has the same word before M as unit 0, and is in a trap handler or not. -/
def bothAt (s : State) (h : Bool) : State :=
  s.setUnit 1 { s.unit 0 with csr := { (s.unit 0).csr with uh := h }, trap := { (s.unit 0).trap with depth := if h then 1 else 0 } }
/-- Group 2 of cluster 0: unit 1 waits as a member; both units belong to it and unit 1 has left; both wait for a round. -/
def wJoin (src : Nat) (h : Bool) (G : Group) : State :=
  (bothAt (atEng (matUnit 2) (.mjoin .none 1 src 2)) h).setCluster 0 { Cluster.reset with groups := if G = Group.reset then [] else [(2, G)] }
def wLeave (h : Bool) (role : Option (Nat × Bool)) (G : Group) : State :=
  (tune (bothAt (atEng (matUnit 2) (.mleave .none 2)) h) fun U => { U with group := role }).setCluster 0
    { Cluster.reset with groups := [(2, G)] }
def groupA : Group := ⟨2, [(1, false)], false, [], []⟩
def groupB : Group := ⟨2, [(0, true), (1, false)], true, [1], []⟩
def mopS (nc : Nat) : MOp := { mopA 1 0 0 none [] with shr := true, nc := nc }
def wRound : State :=
  ((State.reset.setUnit 0 { matUnit 2 with work := { Work.reset with mops := [mopS 8], tiles := 1 } }).setUnit 1
    { matUnit 2 with work := { Work.reset with mops := [mopS 1], tiles := 1 } }).setCluster 0
    { Cluster.reset with groups := [(2, ⟨2, [(0, true), (1, false)], true, [], []⟩)] }
theorem joinReady (src : Nat) (h : src < 2) : (Ready (wJoin src false Group.reset) 0 .M (eRec (wJoin src false Group.reset) .M) .none none [] ∧
    Ready (wJoin src false groupA) 0 .M (eRec (wJoin src false groupA) .M) .none none [] ∧
    Ready (wJoin src true groupA) 0 .M (eRec (wJoin src true groupA) .M) .none none [] ∧
    Ready (wJoin src false { groupB with joining := [0] }) 0 .M (eRec (wJoin src false { groupB with joining := [0] }) .M) .none none []) := by
  have : src = 0 ∨ src = 1 := by omega
  rcases this with rfl | rfl <;>
    exact ⟨ready_of (by decide +kernel), ready_of (by decide +kernel), ready_of (by decide +kernel), ready_of (by decide +kernel)⟩
theorem witness_SharedGroups :
    (∀ s ∈ [wJoin 1 false Group.reset, wJoin 1 false groupA, wJoin 1 true groupA, wJoin 0 false groupA],
      ((s.freshen 0 .M .none).unit 0).group = none ∧ (s.freshen 0 .M .none).oneCluster 0 = true) ∧
    ((wJoin 1 false Group.reset).freshen 0 .M .none).groupOf 0 2 = Group.reset ∧
    (∀ src < 2, ∀ h, ((wJoin src h groupA).freshen 0 .M .none).groupOf 0 2 = groupA) ∧ 0 ∉ groupA.joining ∧
    ((wJoin 1 false groupA).freshen 0 .M .none).allWait 0 4 2 (groupA.members ++ [(0, true)]) = true ∧
    ((wJoin 0 false groupA).freshen 0 .M .none).allWait 0 4 2 (groupA.members ++ [(0, false)]) = true ∧
    ((wJoin 1 true groupA).freshen 0 .M .none).allWait 0 4 2 (groupA.members ++ [(0, true)]) = false ∧
    (groupB.members.map (·.1)).Nodup :=
  ⟨by decide +kernel, by decide +kernel, by decide +kernel, by decide, by decide +kernel, by decide +kernel, by decide +kernel, by decide⟩
theorem witness_GroupsDissolve : (∀ h, Ready (wLeave h (some (2, true)) groupB) 0 .M (eRec (wLeave h (some (2, true)) groupB) .M) .none none []) ∧
    Ready (wLeave false none { groupB with leaving := [0] }) 0 .M (eRec (wLeave false none { groupB with leaving := [0] }) .M) .none none [] ∧
    (∀ h, (((wLeave h (some (2, true)) groupB).freshen 0 .M .none).unit 0).group = some (2, true) ∧
      (((wLeave h (some (2, true)) groupB).freshen 0 .M .none).unit 0).work.mops = [] ∧
      ((wLeave h (some (2, true)) groupB).freshen 0 .M .none).groupOf 0 2 = groupB) ∧
    ((wLeave false (some (2, true)) groupB).freshen 0 .M .none).allWait 0 5 2 groupB.members = true ∧
    ((wLeave true (some (2, true)) groupB).freshen 0 .M .none).allWait 0 5 2 groupB.members = false ∧
    (((wLeave false none { groupB with leaving := [0] }).freshen 0 .M .none).unit 0).group = none :=
  ⟨fun h => by cases h <;> exact ready_of (by decide +kernel), ready_of (by decide +kernel),
    fun h => by cases h <;> decide +kernel, by decide +kernel, by decide +kernel, by decide +kernel⟩
/-- R272: no group without a source: unit 0's MJOIN and unit 1's raise UND together. -/
theorem test_mjoin_without_source : [((after (exec (.mjoin .none 1 0 2) (wJoin 0 false groupA))).unit 0).csr.cause.toNat % 256,
    ((after (exec (.mjoin .none 1 0 2) (wJoin 0 false groupA))).unit 1).csr.cause.toNat % 256] = [Cause.code .und, Cause.code .und] := by
  decide +kernel
theorem witness_SharedRound : (SMap.get Group.reset (wRound.cluster 0).groups 2).members = [(0, true), (1, false)] ∧
    (SMap.get Group.reset (wRound.cluster 0).groups 2).formed = true ∧ (wRound.unit 0).trap.depth = 0 ∧
    (wRound.unit 1).trap.depth = 0 ∧ (wRound.unit 0).run ≠ .loading ∧ (wRound.unit 1).run ≠ .loading ∧ (wRound.unit 0).waitingShr = some (mopS 8) ∧ (wRound.unit 1).waitingShr = some (mopS 1) := by
  decide +kernel

/-- The four moves, with two rows of 64 elements or bytes: from the start of the unit scratchpad to 0x400 of it, or to the
B-store; scales are at 0x800. -/
def capB : Cap := Cap.mk' 4 permW 0x200000 0 true
def xBlock : List (Nat × Nat) := [(8, 0), (9, 0x400), (10, 0x100 + 0x100 * 2 ^ 32), (11, 63 + 2 ^ 16 + 0x800 * 2 ^ 32), (12, 0x0807060504030201)]
def xc (sf df : Nat) : XC := ⟨0, 0, 0, sf, df, 2, 64⟩
def atC (i : Instr) : State := atEng { unitMem xBlock [(7, capB)] with id := identA } i
def movesOfC : List Instr :=
  [.cpy .none 2 2 8 (xc 0 0), .cfill .none 2 12 8 (xc 0 0), .ccvt .none 2 2 8 (xc 0 2), .ccvt .none 2 2 8 (xc 2 1), .ccvt .none 2 2 8 (xc 1 0),
    .bload .none 7 2 8 (xc 1 0), .bload .none 7 2 8 (xc 2 0)]
def moveHolds (i : Instr) : Bool :=
  match cForm i with
  | some F =>
    let s := atC i
    let r := eRec s .C
    let U := s.unit 0
    let cap := capAt U r
    let q := r.block
    readyB s 0 .C r F.tk F.g [] && (F.ks.all fun k => !capPending U r k) && F.ok cap q && decide (U.work.copies < 1023)
      && decide (U.inFlight < 32) && decide (U.tape.run = 0)
      && (match s.rangeChk 0 r ((F.src cap q).toList ++ (F.dst cap q).toList ++ (F.scale cap q).toList) with | .ok => true | _ => false)
  | none => false
theorem witness_MoveWords : ∀ i ∈ movesOfC, moveHolds i = true := by decide +kernel

/-- A move that is done, and a fill of 64 bytes that is not. -/
def moveA (kind done : Nat) : Move :=
  { Move.blank with id := 9, kind := kind, src := ⟨1, 0, none⟩, dst := ⟨1, 0x400, none⟩, rowb := 64, pat := 0x0807060504030201, done := done }
def wMove (m : Move) : State :=
  tune State.reset fun _ => { unitMem [] [] with work := { Work.reset with moves := [m], copies := 1 } }
theorem witness_FinishedMovesAndFills : (wMove (moveA 0 1)).stands 0 = false ∧ (wMove (moveA 0 1)).replayHead 0 9 = true ∧
    (wMove (moveA 2 0)).stands 0 = false ∧ (wMove (moveA 2 0)).replayHead 0 9 = true ∧ (moveA 2 0).overlap = false ∧ (moveA 2 0).rcD = false ∧
    (moveA 2 0).rows = 1 ∧ (wMove (moveA 0 1)).halted 0 = false ∧
    ((wMove (moveA 0 1)).unit 0).work.moves.find? (fun m => m.id = 9) = some (moveA 0 1) ∧ (moveA 0 1).total ≤ (moveA 0 1).done ∧
    (wMove (moveA 0 1)).mem.performedBy 0 (copyScope 1) = true ∧ (wMove (moveA 2 0)).halted 0 = false ∧
    ((wMove (moveA 2 0)).unit 0).work.moves.find? (fun m => m.id = 9) = some (moveA 2 0) ∧ (moveA 2 0).dst.addr % 64 = 0 := by
  decide +kernel

/-- Windows over 4 rows of 64 bytes of device memory, with a ring of 2 slots in the cluster scratchpad. -/
def capRing : Cap := Cap.mk' 2 permW 0x1000 0 true
def winA (act : Bool) (head next filled : Nat) : Win := ⟨act, capDev, 0, 64, 64, 4, capRing, 0, 2, head, next, filled, []⟩
def atW (W : Win) (i : Instr) : State :=
  mapped (tune (atEng { unitMem [(8, 0), (9, 0), (10, 64 + 4 * 2 ^ 32), (11, 63 + 2 ^ 16), (5, 4095)] [(6, capDev), (7, capRing)] with
    id := identA } i) fun U => U.setWin 2 W)
def xcw (ks : Nat) : XC := ⟨0, 0, 0, 0, 0, ks, 0⟩
def wWdef (act : Bool) : State :=
  tune (atW (winA act 0 2 0) (.wdef .none 2 6 8 (xcw 7))) fun U =>
    { U with regs := U.regs.setX 11 (BitVec.ofNat 64 (63 + 2 ^ 16)) }
def wWadv (act : Bool) (head next : Nat) : State := atW (winA act head next 0) (.wadv .none 2 5 1 none)
def wWrel (act : Bool) (filled : Nat) : State := atW (winA act 0 2 filled) (.wrel .none 2 none)
def chkOk : CChk → Bool
  | .ok => true
  | _ => false
theorem chkOk_of {x : CChk} (h : chkOk x = true) : x = .ok := by
  cases x with
  | ok => rfl
  | wait s => exact absurd h Bool.false_ne_true
  | trap s c i j => exact absurd h Bool.false_ne_true
theorem witness_WindowWords_ready (act : Bool) : Ready (wWdef act) 0 .C (eRec (wWdef act) .C) .none (xcw 7).grd [] ∧
    Ready (wWadv act 0 2) 0 .C (eRec (wWadv act 0 2) .C) .none none [] ∧
    Ready (wWadv act 4 4) 0 .C (eRec (wWadv act 4 4) .C) .none none [] ∧
    Ready (wWrel act 2) 0 .C (eRec (wWrel act 2) .C) .none none [] := by
  cases act
  · exact ⟨ready_of (by decide +kernel), ready_of (by decide +kernel), ready_of (by decide +kernel), ready_of (by decide +kernel)⟩
  · exact ⟨ready_of (by decide +kernel), ready_of (by decide +kernel), ready_of (by decide +kernel), ready_of (by decide +kernel)⟩
def wdefBlock : CBlock := (eRec (wWdef false) .C).block
theorem witness_WindowWords : (∀ act, ((wWdef act).unit 0).tape.run = 0 ∧ (((wWdef act).unit 0).win 2).act = act ∧
      capPending ((wWdef act).unit 0) (eRec (wWdef act) .C) 6 = false ∧ capPending ((wWdef act).unit 0) (eRec (wWdef act) .C) 7 = false ∧
      ((wWdef act).unit 0).inFlight < 32) ∧
    wdefBlock = ⟨0, 0, 64, 4, 64, 2, 0⟩ ∧ capAt ((wWdef false).unit 0) (eRec (wWdef false) .C) 0 6 = capDev ∧
    capAt ((wWdef false).unit 0) (eRec (wWdef false) .C) 1 7 = capRing ∧
    (wWdef false).rangeChk 0 (eRec (wWdef false) .C) [⟨6, capDev, 0, span 4 64 64, permR⟩, ⟨7, capRing, 0, 128, permW⟩] = .ok ∧
    (((eRec (wWadv true 0 2) .C).vals.headD 0).toNat + 1 = 4096 ∧ ((wWadv true 0 2).unit 0).win 2 = winA true 0 2 0 ∧
      ((wWadv true 4 4).unit 0).win 2 = winA true 4 4 0) ∧
    (((wWrel true 2).unit 0).win 2 = winA true 0 2 2 ∧ ∀ q ∈ ((wWrel true 2).unit 0).work.fl, winOf q.hdr ≠ some 2) :=
  ⟨by decide +kernel, by decide +kernel, by decide +kernel, by decide +kernel, chkOk_of (by decide +kernel), by decide +kernel,
    by decide +kernel⟩
def wFill (filled : Nat) : State :=
  mapped (tune State.reset fun _ => { unitMem [] [] with id := identA, wins := [(2, winA true 0 2 filled)] })
theorem witness_WindowFill : (∀ n < 3, (wFill n).halted 0 = false ∧ ((wFill n).unit 0).win 2 = winA true 0 2 n) ∧
    (wFill 1).stands 0 = false ∧ ((wFill 1).unit 0).mayFill (winA true 0 2 1) 1 = true ∧
    (wFill 1).replayHead 0 (((wFill 1).unit 0).winWord 2) = true ∧ (wFill 1).translate 0 0 0x10040 .read = .ok 0x10040 ∧ (wFill 1).translate 0 2 64 .write = .ok (keyOf 2048 64) ∧
    (wFill 1).mem.poisonFor (.unit 0) 0x10040 64 = false ∧ (wFill 2).mem.performedBy 0 (copyScope 2) = true := by decide +kernel

/-! ### Near memory, Dovetail, links and peers -/

/-- NMC.AXPBY on two granules at 0x10000, with its second operand 0x1000 further on; commands at the unit of stack 0. -/
def capNm : Cap := Cap.mk' 7 permN 0x10000 0x10000 true
def xNmc : XM := ⟨0, 0, 0, 0, 0, 1, 0⟩
def wNmc : State :=
  mapped (inTask [(5, 0), (8, 2 + 0xFFFF0 * 2 ^ 32), (9, 0x3F800000), (10, 0x1000), (11, 0)] [(6, capNm)] (.nmc .none 8 6 5 xNmc))
theorem witness_NearMemory : SReady wNmc 0 (sRec wNmc) .none xNmc.grd [38, 5, 8, 9, 10, 11] ∧
    (1 ≤ fld ((wNmc.swordCheck.unit 0).xS 8).toNat 0 32 ∧ fld ((wNmc.swordCheck.unit 0).xS 8).toNat 32 32 = 0xFFFF0 ∧
      (wNmc.swordCheck.unit 0).kS 6 = capNm ∧ capNm.grants permN = true ∧ capNm.space = 7 ∧ capNm.base % 64 = 0 ∧
      offsetOf (wNmc.swordCheck.unit 0) 5 xNmc = 0 ∧ ((wNmc.swordCheck.unit 0).xS 10).toNat + 128 ≤ capNm.len ∧
      wNmc.swordCheck.translate 0 7 0x10000 .read = .ok 0x10000 ∧ wNmc.swordCheck.translate 0 7 0x10000 .write = .ok 0x10000 ∧
      wNmc.swordCheck.translate 0 7 0x11000 .read = .ok 0x11000 ∧ wNmc.swordCheck.nmBlocked 0 = false ∧
      (wNmc.swordCheck.unit 0).work.nmcs.length < 16) := ⟨ready_of (by decide +kernel), by decide +kernel⟩
def nmcA (op res st dbits : Nat) : Nmc :=
  { id := 3, seq := 0, u := 0, op := op, ngran := 2, crec := 0x40, alpha := 0x3F800000, beta := 0x40000000, sva := 0x11000
    dva := 0x10000, skey := 0x11000, dkey := 0x10000, res := res, leaf := (dbits, 30), st := st, status := 0, flags := 0
    first := 0x10000 }
def wNm (c : Nmc) : State :=
  let s := (tune State.reset fun _ => { unitMem [] [] with work := { Work.reset with nmcs := [3] } }).setDie 0 { Die.reset with nm := [c] }
  { s with mem := s.mem.write 0 4 0x11000 (toBytes 4 0x40400000) }
theorem witness_NearMemoryUnit : (∀ op < 5, (∀ x ∈ ((wNm (nmcA op 0 0 30)).die 0).nm, x.st ≠ 2) ∧
      ((wNm (nmcA op 0 0 30)).die 0).nm.find? (fun c => c.st = 0 && nmFirst ((wNm (nmcA op 0 0 30)).die 0).nm c) = some (nmcA op 0 0 30) ∧
      (∀ i < 2, (nmcA op 0 0 30).meetsPoison (wNm (nmcA op 0 0 30)).mem i = false)) ∧
    ((wNm (nmcA 1 7 0 30)).die 0).nm.find? (fun c => c.st = 0 && nmFirst ((wNm (nmcA 1 7 0 30)).die 0).nm c) = some (nmcA 1 7 0 30) ∧
    (crossesPage 0x10000 30 128 = false ∧ crossesPage 0x10000 6 128 = true) ∧
    ((wNm (nmcA 1 0 1 30)).die 0).nm.find? (fun c => decide (c.st = 1) && !(wNm (nmcA 1 0 1 30)).stands c.u) = some (nmcA 1 0 1 30) ∧
    0 * 2 ^ 32 + 3 ∈ ((wNm (nmcA 1 0 1 30)).unit 0).work.nmcs := by decide +kernel

/-- An image of two entries at the start of the unit scratchpad: a SEND on link 1 in beat 0, a WRITE from link 2 in beat 1. -/
def doveImage : List Byte :=
  [2, 0, 1, 0, 64, 0, 0, 0, 1, 0, 0, 0, 0, 0, 0, 0] ++ [0, 0, 1, 1, 0, 0, 0, 0, 0, 8, 0, 0, 0, 0, 0, 0] ++
    [1, 0, 2, 2, 0, 0, 0, 0, 0x40, 8, 0, 0, 0, 0, 0, 0]
def atDove (D : Dctx) (i : Instr) : State :=
  let s := atEng { unitMem [(5, 0)] [] with id := { identA with dove := true }, dove := D } i
  { s with mem := s.mem.write 0 4 (keyOf 16 0) doveImage }
def dctxA (status beat st0 st1 : Nat) : Dctx :=
  { Dctx.reset with
    ents := [⟨0, 1, 1, 0, 1, 0x800, 0, st0⟩, ⟨1, 2, 2, 0, 1, 0x840, 0, st1⟩]
    caps := [capSp], beatns := 64, tout := 1, status := status, beat := beat }
def wDload (status : Nat) : State := atDove { Dctx.reset with status := status } (.dload .none 2 5 2)
def wDstart (status : Nat) : State := atDove (dctxA status 0 0 0) (.dstart .none 5)
def wDstop : State := atDove (dctxA 2 0 0 0) (.dstop .none)
def wDstat : State := atDove (dctxA 3 2 2 2) (.dstat .none 4 1 1 none)
def cOk {α : Type} (x : CStop ⊕ α) : Bool := match x with | .inr _ => true | .inl _ => false
theorem cOk_of {α : Type} {x : CStop ⊕ α} (h : cOk x = true) : ∃ q, x = .inr q := by
  cases x with
  | inl a => exact absurd h Bool.false_ne_true
  | inr q => exact ⟨q, rfl⟩
def cState (x : CStop ⊕ State × List Byte) (s : State) : State := match x with | .inr q => q.1 | .inl _ => s
def cBytes (x : CStop ⊕ State × List Byte) : List Byte := match x with | .inr q => q.2 | .inl _ => []
def dHead : CStop ⊕ State × List Byte := (wDload 0).cRead 0 ⟨1, 0, none⟩ none 0 16
def dBody : CStop ⊕ State × List Byte := (cState dHead (wDload 0)).cRead 0 ⟨1, 0, none⟩ none 16 32
theorem witness_DovetailWords_ready : Ready (wDload 2) 0 .C (eRec (wDload 2) .C) .none none [] ∧
    Ready (wDload 0) 0 .C (eRec (wDload 0) .C) .none none [] ∧ Ready (wDstart 0) 0 .C (eRec (wDstart 0) .C) .none none [] ∧
    Ready (wDstart 1) 0 .C (eRec (wDstart 1) .C) .none none [] ∧ Ready wDstop 0 .C (eRec wDstop .C) .none none [] ∧
    Ready wDstat 0 .C (eRec wDstat .C) .none none [] :=
  ⟨ready_of (by decide +kernel), ready_of (by decide +kernel), ready_of (by decide +kernel), ready_of (by decide +kernel),
    ready_of (by decide +kernel), ready_of (by decide +kernel)⟩
theorem witness_Dload : (∀ st < 3, ((wDload st).unit 0).tape.run = 0 ∧ capPending ((wDload st).unit 0) (eRec (wDload st) .C) 2 = false ∧
      (∀ i < 4, capPending ((wDload st).unit 0) (eRec (wDload st) .C) (doveK 2 i) = false) ∧ ((wDload st).unit 0).id.dove = true ∧
      ((wDload st).unit 0).dove.loading = none ∧ ((wDload st).unit 0).dove.busy = false ∧ ((wDload st).unit 0).dove.status = st) ∧
    (wDload 0).rangeChk 0 (eRec (wDload 0) .C) [⟨2, capSp, 0, 16, permR⟩] = .ok ∧ (∃ q, dHead = .inr q) ∧
    (CRange.capBad ⟨2, capSp, 16, 32, permR⟩ (eRec (wDload 0) .C) = none ∧ doveHeaderOk (cBytes dHead) = true ∧
      byteField (cBytes dHead) 0 2 = 2 ∧ byteField (cBytes dHead) 2 1 = 1) ∧
    (cState dHead (wDload 0)).rangeChk 0 (eRec (wDload 0) .C) [⟨2, capSp, 16, 32, permR⟩] = .ok ∧ (∃ q, dBody = .inr q) ∧
    (doveEntriesOk 1 2 0 (cBytes dBody) = true ∧
      doveBadRange ((wDload 0).unit 0) (eRec (wDload 0) .C) 2 (doveEntries 2 (cBytes dBody)) = none ∧
      ((cState dBody (wDload 0)).unit 0).tape.run = 0) :=
  ⟨by decide +kernel, chkOk_of (by decide +kernel), cOk_of (by decide +kernel), by decide +kernel, chkOk_of (by decide +kernel),
    cOk_of (by decide +kernel), by decide +kernel⟩
def wLinkBusy : State :=
  (wDstart 1).setUnit 1 { UnitSt.reset with dove := dctxA 2 0 0 0 }
def wNoLock : State := { wDstart 1 with hub := { Hub.reset with lock := false, graphs := [(3, some graphA)], tasks := [(5, some taskA)] } }
theorem witness_DstartAndOthers : (∀ s ∈ [wDstart 1, wLinkBusy, wNoLock], (s.unit 0).dove = dctxA 1 0 0 0 ∧ (s.unit 0).work.fl = []) ∧
    (dctxA 1 0 0 0).busy = false ∧ (wDstart 1).linkBusy 0 (dctxA 1 0 0 0) = false ∧ wLinkBusy.linkBusy 0 (dctxA 1 0 0 0) = true ∧
    (wDstart 1).hub.lock = true ∧ wNoLock.hub.lock = false ∧ (wDstop.unit 0).dove.busy = false ∧ (wDstat.unit 0).dove.status ≠ 2 ∧ (wDstat.unit 0).dove.busy = false ∧
    ((wDstart 0).unit 0).dove.status = 0 := by decide +kernel
def wDloadOp : State := after (exec (.dload .none 2 5 2) (wDload 0))
theorem witness_DloadLoaded : wDloadOp.halted 0 = false ∧ ((wDloadOp.unit 0).dove.loading.isSome = true) ∧
    ((wDloadOp.unit 0).work.fl.find? fun f => isDload f.hdr && f.wait == .op).isSome = true := by decide +kernel

/-- A run whose entries stand at the given places; link 2 holds data of `n` bytes for it; the time is `t`. -/
def wRun (D : Dctx) (held : List (Nat × List Byte)) (lanes t : Nat) : State :=
  let s := tune State.reset fun _ => { unitMem [] [] with id := identA, dove := D }
  { (s.setLink 2 { Link.reset with held := held }).setLink 1 { Link.reset with lanes := lanes } with time := BitVec.ofNat 64 t }
def dctxDev (beat st0 st1 : Nat) : Dctx := { dctxA 2 beat st0 st1 with caps := [capDev] }
theorem witness_DovetailRuns : (wRun (dctxA 2 1 0 0) [] 8 64).halted 0 = false ∧
    ((wRun (dctxA 2 1 0 0) [] 8 64).unit 0).dove = dctxA 2 1 0 0 ∧
    (dctxA 2 1 0 0).t0 + (dctxA 2 1 0 0).beat * (dctxA 2 1 0 0).beatns ≤ (wRun (dctxA 2 1 0 0) [] 8 64).time.toNat ∧
    ((wRun (dctxA 2 1 0 0) [] 0 64).link 1).lanes = 0 ∧ ((wRun (dctxA 2 1 0 0) [] 4 64).link 1).lanes ≠ 0 ∧
    (wRun (dctxA 2 1 0 0) [] 4 64).doveKeys 0 (dctxA 2 1 0 0) ⟨0, 0x800, 32, permR⟩ .read = .inr [(keyOf 16 0x800, 32)] ∧
    (wRun (dctxA 2 1 0 0) [] 4 64).dovePoison [(keyOf 16 0x800, 32)] = false ∧
    ((wRun (dctxA 2 2 2 1) [(0, List.replicate 31 7)] 4 64).link 2).held = ((dctxA 2 2 2 1).place 1, List.replicate 31 7) :: [] ∧
    (mapped (wRun (dctxDev 2 2 1) [(0, List.replicate 32 7)] 4 64)).doveKeys 0 (dctxDev 2 2 1) ⟨0, 0x840, 32, permW⟩ .write =
      .inr [(0x10840, 32)] ∧
    (dctxA 2 2 2 0).t0 + (1 + (dctxA 2 2 2 0).tout) * (dctxA 2 2 2 0).beatns ≤ (wRun (dctxA 2 2 2 0) [] 8 128).time.toNat := by
  decide +kernel
def wArrive : State := State.reset.setLink 3 { Link.reset with inbox := [(0, [1, 2])] }
theorem witness_DovetailReceive : (wArrive.link 3).inbox = (0, [1, 2]) :: [] ∧
    (((wArrive.link 3).held.map fun x => x.2.length).sum + 2 ≤ 2 ^ 20) ∧ wArrive.halted 0 = false := by decide +kernel

/-- The links of a module that trains again. -/
def wTrain (n : Nat) : State := { State.reset with hub := { Hub.reset with retrain := n } }
def wTwoRuns : State :=
  (tune State.reset fun _ => { UnitSt.reset with dove := dctxA 2 1 0 0 }).setUnit 5 { UnitSt.reset with dove := dctxA 1 1 0 0 }
theorem witness_Links : (wTwoRuns.link 1).lanes = 8 ∧ (wTwoRuns.unit 0).dove.status = 2 ∧
    (∃ e ∈ (wTwoRuns.unit 0).dove.ents, e.kind ≠ 4 ∧ e.link = 1) ∧ wTwoRuns.hub.module_ = 0 ∧ wTwoRuns.hub.lock = true ∧
    SMap.get 16 wTwoRuns.hub.silLanes 1 = 16 ∧ (wTrain 3).hub.retrain = 3 ∧ (wTrain 2).hub.retrain = 2 ∧
    (wTrain 2).hub.held = [] := by decide +kernel

/-- A page table with one pinned leaf of 1 GiB; a peer's read, write and refused write; a store to a peer. -/
def graphPin : Graph := { graphA with root := 0x100001 }
def wPeer (op key n : Nat) (bs : List Byte) : State :=
  let s := State.reset.setGraph 3 graphPin
  { s with
    mem := ((((s.mem.write 0 4 0x100000 (toBytes 8 0x101001)).write 0 4 0x101000 (toBytes 8 0x102001)).write 0 4 0x102000
      (toBytes 8 0x3F)).write 0 4 0x200 [9, 8, 7]).write 0 0 0x300 [5]
    inbox := { Inbox.reset with peer := [(7, op, key, n, bs)] } }
theorem witness_PeerAccess : (wPeer 0 0x200 3 []).inbox.peer.find? (fun q => q.1 = 7) = some (7, 0, 0x200, 3, []) ∧
    (wPeer 0 0x200 3 []).hub.retrain = 0 ∧ keyRegion 0x200 = 0 ∧ physOk 0 (keyOff 0x200 + 3 - 1) = true ∧
    (wPeer 0 0x200 3 []).mem.poisonFor .system 0x200 3 = false ∧ physOk 0 (keyOff 0x40000200 + 3 - 1) = true := by decide +kernel
theorem witness_PeerPin : (wPeer 1 0x300 3 []).pinned 0 0x300 3 = true ∧ (wPeer 1 0x40000200 3 []).pinned 0 0x40000200 3 = false := by
  decide +kernel
def sopPeer : SOp := ⟨0, .st, ⟨5, 0x500, some (keyOf 3 0x500)⟩, 8, false, 0, 0, 7, 0, Cap.null, none, false⟩
def wPeerSt : State := tune State.reset fun _ => { unitMem [] [] with work := { Work.reset with sops := [sopPeer], stores := 1 } }
theorem witness_PeerRefuses : wPeerSt.halted 0 = false ∧ findSop 0 [] (wPeerSt.unit 0).work.sops = some (sopPeer, []) ∧
    keyRegion (keyOf 3 0x500) = 3 ∧ wPeerSt.sopReady 0 sopPeer [] = true := by decide +kernel

/-! ### Words that retire, tokens, waits -/

def wVaddOp : State := after (exec (.vadd .none (fv 4 1) (xv 1 2)) wVadd)
def vFlight : Flight := ((wVaddOp.unit 0).work.fl.head?).getD lFlight
def wDivOp : State := after (exec (.div .none 4 5 6 none) wDiv)
def dFlight : Flight := ((wDivOp.unit 0).work.fl.head?).getD lFlight
def fPost : Flight := ⟨3, .L, 0, 0, 0, .done, some .V, true, [], [], [], [], [], [], 0, [], []⟩
def wPost : State := tune State.reset fun _ =>
  { (unitMem [] []).setTokens .L .V 7 with work := { Work.reset with fl := [fPost] } }
def wWait : State :=
  tune (atS [] (.add (.wait .V) 4 5 6 none)) fun U => ({ U with csr := { U.csr with tokwd := 100 } }).setWait .S 102
def wPend : State := tune State.reset fun _ => { unitMem [] [] with trap := { TrapSt.reset with pend := some ⟨.token, 0, 0, 0⟩ } }
/-- R385: a unit whose cluster relocks. -/
def wStands : State := (tune wPend fun U => { U with stopped := true }).setCluster 0 { Cluster.reset with clk := { Clock.reset with relock := true } }
theorem witness_Stands : (wStands.halted 0 = false ∧ wStands.stands 0 = true) ∧
    ∀ s ∈ [wVaddOp, wDivOp, wPost, wWait, wPend], s.stands 0 = false ∧ (s.unit 0).stopped = false := by decide +kernel
theorem witness_WordsRetire : (wVaddOp.halted 0 = false ∧
      (wVaddOp.unit 0).work.fl.find? (fun f => f.eng == .V && decide (f.wait = .op)) = some vFlight ∧
      (wVaddOp.unit 0).headOf .V = some vFlight ∧ vFlight.hints = [] ∧ vFlight.post = none ∧ (wVaddOp.unit 0).work.fl = [vFlight] ∧
      vFlight.eff.length = 1) ∧
    (wDivOp.halted 0 = false ∧ (wDivOp.unit 0).headOf .S = some dFlight ∧ dFlight.wait = .arith ∧ dFlight.eff.length = 1 ∧
      dFlight.hints = [] ∧ dFlight.post = none ∧ (wDivOp.unit 0).work.fl = [dFlight]) ∧
    (wPost.halted 0 = false ∧ (wPost.unit 0).headOf .L = some fPost ∧ (wPost.unit 0).tape.run = 0 ∧ (wPost.unit 0).tokens .L .V = 7) ∧
    (wWait.runs 0 = true ∧ (wWait.unit 0).csr.tokwd + 1 < (wWait.unit 0).waitOf .S ∧ wWait.tokenWait 0 .S = some (tokenInfo 2 0 0 0, 0)) ∧
    (wPend.unit 0).trap.pend = some ⟨.token, 0, 0, 0⟩ := by decide +kernel

/-! ### Walks and translation commands -/

/-- A five-level table for ASID 1 of which only the last level's leaf, at VA 0x10000, is a 64 KiB page: the leaf `leaf`. -/
def rootA : Nat := 0x1001
def tables (leaf : Nat) : Mem :=
  ((((Mem.reset.write 0 4 0x1000 (toBytes 8 0x2001)).write 0 4 0x2000 (toBytes 8 0x3001)).write 0 4 0x3000 (toBytes 8 0x4001)).write
    0 4 0x4000 (toBytes 8 0x5001)).write 0 4 0x5008 (toBytes 8 leaf)
def leafA : Nat := 0x2001F
def graphT : Graph := { graphA with root := rootA }
/-- A command ring in LPDDR-6 with one entry. -/
def cmdBytes (opc size : Nat) : List Byte :=
  [BitVec.ofNat 8 opc, BitVec.ofNat 8 size] ++ u16 1 ++ u32 0 ++ u64 0x10000 ++ u64 0x3001F ++ u64 0x10040
def wCmd (leaf : Nat) (b : List Byte) : State :=
  let s := State.reset.setGraph 3 graphT
  { s with
    mem := ((tables leaf).write 0 4 (keyOf 1 0x8000) (u32 1)).write 0 4 (keyOf 1 0x8040) b
    hub := { s.hub with regs := [⟨2, 2, 0x8000, 64, 0, 0, 0, 0, false⟩] }
    clusters := [(4, { Cluster.reset with tlb := [⟨1, 1, 4, 0x2001F⟩, ⟨1, 2, 4, 0x4001F⟩] })] }
def wWalk (root : Nat) : State :=
  { (State.reset.setDie 2 { Die.reset with walks := [⟨1, root, 1, [25]⟩] }) with mem := tables leafA }
def metA (root : Nat) : List (Nat × Nat × Nat × Nat) := (walkCached (tables leafA) [] 1 0x10000 5 0 0 (pteFrame root) []).2
theorem witness_Walks : ((wWalk rootA).die 2).walks[0]? = some ⟨1, rootA, 1, [25]⟩ ∧
    walkCached (wWalk rootA).mem ((wWalk rootA).die 2).pwc 1 (1 * 65536) 5 0 (pteTier rootA) (pteFrame rootA) [] =
      (.leaf 4 leafA 0x5008, metA rootA) ∧ pteMig leafA = false ∧ pteMig (leafA + 256) = true ∧
    walkCached (wWalk 0x9001).mem ((wWalk 0x9001).die 2).pwc 1 (1 * 65536) 5 0 (pteTier 0x9001) (pteFrame 0x9001) [] =
      (.bad 0 1, metA 0x9001) := by decide +kernel
def tcmdA (opc st : Nat) : TCmd := { TCmd.ofBytes (cmdBytes opc 0) with st := st, oldpte := leafA, ptekey := 0x5008 }
def wTook (c : TCmd) : State := { wCmd leafA [] with hub := { (wCmd leafA []).hub with regs := [], tcmds := [c] } }
theorem witness_Commands : (wCmd leafA (cmdBytes 1 0)).nextTCmd = some (cmdBytes 1 0) ∧ badTCmd (cmdBytes 1 0) = false ∧
    (wCmd leafA (cmdBytes 7 0)).nextTCmd = some (cmdBytes 7 0) ∧ badTCmd (cmdBytes 7 0) = true ∧
    (wTook (TCmd.ofBytes (cmdBytes 1 0))).drained (TCmd.ofBytes (cmdBytes 1 0)) = true ∧
    (wTook (TCmd.ofBytes (cmdBytes 1 0))).rootOf 1 = some rootA ∧
    walkVA (wTook (TCmd.ofBytes (cmdBytes 1 0))).mem rootA 0x10040 = .leaf 4 leafA 0x5008 ∧
    leafTr 4 leafA 0x10040 0 .write = .ok 0x20040 ∧ (∀ r ∈ State.reset.hub.regs, r.kind ≠ 3) := by decide +kernel
def wMigHeld : State := (wCmd leafA (cmdBytes 2 0)).setTask 5 { taskA with admitted := 1, foots := [⟨0x1FFFF, 1, true, false⟩] }
theorem witness_Migr : (wCmd leafA (cmdBytes 2 0)).nextTCmd = some (cmdBytes 2 0) ∧
    ((wCmd leafA (cmdBytes 2 0)).takeTCmd (TCmd.ofBytes (cmdBytes 2 0))).migLeaf (TCmd.ofBytes (cmdBytes 2 0)) =
      some (4, leafA, 0x5008) ∧ ptePin leafA = false ∧ (TCmd.ofBytes (cmdBytes 2 0)).size = 0 ∧
    ((wCmd leafA (cmdBytes 2 0)).takeTCmd (TCmd.ofBytes (cmdBytes 2 0))).held (TCmd.ofBytes (cmdBytes 2 0)) = false ∧
    (wMigHeld.takeTCmd (TCmd.ofBytes (cmdBytes 2 0))).held (TCmd.ofBytes (cmdBytes 2 0)) = true ∧
    ((wCmd 0x2003F (cmdBytes 2 0)).takeTCmd (TCmd.ofBytes (cmdBytes 2 0))).migLeaf (TCmd.ofBytes (cmdBytes 2 0)) =
      some (4, 0x2003F, 0x5008) ∧ ptePin 0x2003F = true ∧
    (wTook (tcmdA 2 1)).hub.tcmds.find? (fun c => c.opc = 2 ∧ c.st = 1 ∧ (wTook (tcmdA 2 1)).mayMig c) = some (tcmdA 2 1) ∧
    (wTook (tcmdA 2 2)).hub.tcmds.find? (fun c => c.opc = 2 ∧ c.st = 2) = some (tcmdA 2 2) ∧
    (wTook (tcmdA 2 2)).drained (tcmdA 2 2) = true ∧ (wTook (tcmdA 2 2)).mem.staged = [] ∧
    (wTook (tcmdA 2 2)).mem.poisonFor .device 0x20000 65536 = false := by decide +kernel

/-! ### Tasks -/

def wTaskOf (T : Task) (f : UnitSt → UnitSt) : State := tune ((inTask [] [] .nopA).setTask 5 T) f
def wStart : State := wTaskOf { taskA with st := .dispatching } fun U => { U with run := .loading }
def wUnitEnd : State := tune (meeting .endW id) fun U => { U with walk := { U.walk with arrived := others ++ [.S] } }
def taskE : Task := { taskA with ended := [0], deadline := 3 }
def wComplete : State := (wTaskOf taskE id).setGraph 3 { graphA with unfinished := 2 }
def taskO : Task := { taskA with admitted := 1, dur := 10 }
def wOver : State := { wTaskOf taskO id with time := 11 }
def taskQ : Task := { taskA with preempt := true }
def wForce : State := wTaskOf taskQ fun U => { U with csr := { U.csr with preq := true, pdRemain := 0 } }
/-- Five engines have arrived at a YIELD whose outcome is yield, and S has; L stands before it. -/
def wForceY : State := tune wYieldP fun U => { U with csr := { U.csr with preq := true, pdRemain := 0 } }
def wLease : State := { wTaskOf taskL id with time := 500 }
theorem witness_Tasks : (wStart.task 5 = some { taskA with st := .dispatching } ∧
      wStart.clocksReady { taskA with st := .dispatching } = true ∧ wStart.migClear { taskA with st := .dispatching } = true) ∧
    (wUnitEnd.halted 0 = false ∧ wUnitEnd.task (wUnitEnd.unit 0).id.task = some taskA ∧ wUnitEnd.endReady 0 taskA = true) ∧
    (wComplete.task 5 = some taskE ∧ (∀ r ∈ taskE.ranks, r ∈ taskE.ended) ∧ wComplete.graph 3 = some { graphA with unfinished := 2 }) ∧
    (wOver.task 5 = some taskO ∧ taskO.dur < taskO.ranFor + (wOver.time.toNat - taskO.started) ∧ wOver.graph 3 = some graphA) ∧
    ((wTaskOf taskQ id).task 5 = some taskQ ∧ taskQ.preempt = true ∧ taskQ.took = false ∧ taskQ.st = .running) ∧
    (wForce.halted 0 = false ∧ (wForce.unit 0).csr.preq = true ∧ (wForce.unit 0).csr.pdRemain = 0 ∧
      (wForce.unit 0).trap.took = false ∧ wForce.runs 0 = true ∧ wForce.yieldDue 0 = false) ∧
    ((wForceY.unit 0).csr.preq = true ∧ (wForceY.unit 0).csr.pdRemain = 0 ∧ wForceY.runs 0 = true ∧ wForceY.yieldDue 0 = true) ∧
    (wLease.task 5 = some taskL ∧ taskL.lease = some (3, 500) ∧ taskL.frozen = false ∧ 500 ≤ wLease.time.toNat) := by
  decide +kernel

/-! ### Entries and dispatch -/

/-- A container image of one END word and one operating point, its CRC computed by the rule of R72. -/
def part (o n : Nat) : List Byte := u32 o ++ u32 n
def imageBytesA : List Byte :=
  u32 0x00434D55 ++ u32 0x00010000 ++ u32 0 ++ u32 1 ++ u32 0 ++ u32 2136120784 ++ part 96 4 ++ part 112 0 ++ part 112 0 ++
    part 112 0 ++ part 112 0 ++ part 112 32 ++ part 144 0 ++ part 144 0 ++ part 144 0 ++ u32 0xC0060000 ++ List.replicate 12 0 ++
    [1] ++ List.replicate 15 0 ++ [2, 0, 1, 0] ++ u32 5 ++ u64 9
/-- One page of 1 GiB at VA 0. -/
def tablesG : Mem :=
  ((Mem.reset.write 0 4 0x1000 (toBytes 8 0x2001)).write 0 4 0x2000 (toBytes 8 0x3001)).write 0 4 0x3000 (toBytes 8 0x1F)
def entryBytes (opc ncard crec root : Nat) : List Byte :=
  [BitVec.ofNat 8 opc, 0, 0, 0] ++ u16 ncard ++ u16 1 ++ u64 0x3000 ++ u64 0x2000 ++ u64 crec ++ u64 0 ++ u64 9 ++ u64 root ++ u64 1
/-- A submission ring in host memory, one grant of the image, one card: `h` is its first word. -/
def wSub (e : List Byte) (h : Nat) : State :=
  { State.reset with
    mem := ((((tablesG.write 0 4 0x10000 imageBytesA).write 0 4 (keyOf 4 0x1040) e).write 0 4 (keyOf 4 0x2000)
      (toBytes 16 (Cap.mk' 0 (permR + permX) 0x1000 0x10000 false).bits.toNat)).write 0 4 (keyOf 4 0x3000) (u64 h))
    hub := { Hub.reset with regs := [⟨1, 0, 0x1000, 64, 0, 0, 0, 0, false⟩, ⟨7, 2, 0x100000, 0, 2 ^ 32, 0, 0, 0, false⟩] }
    inbox := { Inbox.reset with doorbell := [(0, 1)] } }
def ringA : Reg := ⟨1, 0, 0x1000, 64, 0, 0, 0, 0, false⟩
def entryA (ncard root : Nat) : List Byte := entryBytes 1 ncard 0x4000 root
def wSubS (ncard root h : Nat) : State := (wSub (entryA ncard root) h).takeEntry ringA
def headA : Nat := 2 ^ 16 + 2 ^ 24
theorem witness_Entries : (wSub (entryA 0 0x1001) headA).nextEntry 0 = some (ringA, entryA 0 0x1001) ∧
    (wSub (entryA 0 0x1001) headA).entryBad (entryA 0 0x1001) = some 3 ∧ byteField (entryA 0 0x1001) 0x18 8 = 0x4000 ∧
    (wSub (entryA 1 0x1001) headA).nextEntry 0 = some (ringA, entryA 1 0x1001) ∧
    (wSub (entryA 1 0x1001) headA).entryBad (entryA 1 0x1001) = none ∧
    (wSubS 1 0x1001 (headA + 2 ^ 12)).judge ((wSubS 1 0x1001 (headA + 2 ^ 12)).readSub (entryA 1 0x1001)) = some (2, 1, 0) := by
  decide +kernel
theorem witness_EntryAccepted : (wSubS 1 0x1001 headA).judge ((wSubS 1 0x1001 headA).readSub (entryA 1 0x1001)) = none := by
  decide +kernel
theorem witness_EntryAdmitted :
    (wSubS 1 0x1001 headA).admitAll ((wSubS 1 0x1001 headA).readSub (entryA 1 0x1001)).asid
      ((((wSubS 1 0x1001 headA).subTasks ((wSubS 1 0x1001 headA).readSub (entryA 1 0x1001)) 0).filter fun T => T.hdr % 256 = 0).map
        fun T => (T.card, T)) [] (wSubS 1 0x1001 headA).loads [] = .inr [] := by decide +kernel
def wEnd : State :=
  let e := entryBytes 2 0 0 0
  let s := wSub e 0
  ((s.setTask 5 taskA).setGraph 3 graphA).setUnit 0 { unitMem [] [] with id := identA }
theorem witness_HostEnd : wEnd.nextEntry 0 = some (ringA, entryBytes 2 0 0 0) ∧ wEnd.entryBad (entryBytes 2 0 0 0) = none ∧
    wEnd.graphOfTag (byteField (entryBytes 2 0 0 0) 0x28 8) = some 3 ∧ wEnd.graph 3 = some graphA ∧ wEnd.task 5 = some taskA := by
  decide +kernel

/-- Task 5, guaranteed, waits in the queues of cluster 0: its inputs are ready, or an event of its WAITM is missing, or every
cluster is down. -/
def taskG (w : Nat) : Task := { taskA with st := .queued, units := [], ranks := [], admitted := 1, waitm := BitVec.ofNat 64 w }
def wQueue (w : Nat) (down : Bool) : State :=
  let s := ((State.reset.setTask 5 (taskG w)).setGraph 3 graphA).setCluster 0 { Cluster.reset with queues := [(1, [5])] }
  { (if down then { s with dies := (List.range 8).map fun d => (d, { Die.reset with gated := true }) } else s) with time := 100 }
theorem witness_Dispatch : (∀ w down, (wQueue w down).time.toNat % 100 = 0 ∧ (wQueue w down).hub.graphs ≠ []) ∧
    (∀ q < 1, ((wQueue 1 false).cluster 0).queue q = []) ∧ ((wQueue 1 false).cluster 0).queue 1 = [5] ∧
    (wQueue 1 false).task 5 = some (taskG 1) ∧ (wQueue 1 false).graph 3 = some graphA ∧
    (wQueue 2 false).inputsReady (taskG 2) = false ∧ (wQueue 1 false).inputsReady (taskG 1) = true ∧
    (wQueue 1 true).inputsReady (taskG 1) = true ∧ ((wQueue 1 true).tryDispatch 5 (taskG 1) graphA).2 = false :=
  ⟨fun _ down => by cases down <;> exact ⟨(by decide : (100 : Word).toNat % 100 = 0), List.cons_ne_nil _ _⟩, by decide +kernel⟩
theorem witness_Dispatched : ((wQueue 1 false).tryDispatch 5 (taskG 1) graphA).2 = true := by decide +kernel
def taskF : Task := { taskA with st := .queued, units := [], hdr := 0x10000 }
def wCont : State :=
  let s := (State.reset.setTask 5 taskF).setDie 2 { Die.reset with fallback := [5, 6] }
  { s with hub := { s.hub with conts := [⟨3, 1, 0, [], 0, 5⟩] } }
def wContHeld : State := wCont.setTask 4 { taskF with st := .held, home := wCont.homeOf 0 }
theorem witness_Arrival : wCont.heldFor (wCont.homeOf 0) 1 5 = false ∧ wCont.recordFor (wCont.homeOf 0) 1 5 = false ∧
    wContHeld.heldFor (wCont.homeOf 0) 1 5 = true ∧ wContHeld.clusterDown (wCont.homeOf 0) = false ∧
    (wContHeld.die 2).fallback = 5 :: [6] ∧ wContHeld.task 5 = some taskF := by decide +kernel
/-- R368: the head of a fallback queue does not overtake a card that arrived before it. -/
theorem test_fallback_waits : (after (exec (.fallbackForward 2) wContHeld)).die 2 = wContHeld.die 2 ∧
    ((after (exec (.fallbackForward 2) wCont)).cluster (wCont.homeOf 0)).queue 1 = [5] := by decide +kernel
theorem witness_Forward : wCont.hub.conts = ⟨3, 1, 0, [], 0, 5⟩ :: [] ∧ wCont.task 5 = some taskF ∧
    wCont.clusterDown (wCont.homeOf 0) = false ∧ (wCont.cluster (wCont.homeOf 0)).ring 1 = [] ∧
    ((wCont.cluster (wCont.homeOf 0)).queue 1).length < 64 ∧ (wCont.die 2).fallback = 5 :: [6] ∧ taskF.prio = 1 := by decide +kernel

/-! ### Campion -/

/-- A curve of two points: CAP 4,000 W at once and 3,000 W after 2 ms, FLOOR 1,000 W, horizon 5 ms. -/
def curveRest : List Byte :=
  u64 7 ++ u64 1000000 ++ u64 5000000 ++ u16 2 ++ u16 0 ++ u32 1000 ++ (u32 0 ++ u16 4000 ++ u16 0) ++ (u32 2 ++ u16 3000 ++ u16 500) ++
    List.replicate 132 0
def curveBytes : List Byte := toBytes 8 Config.serial.toNat ++ curveRest
def wCurve (bs : List Byte) : State :=
  { State.reset with
    hub := { Hub.reset with facKey := some [1] }
    inbox := { Inbox.reset with mail := [(1, bs)] } }
theorem witness_CurveAccepted : (wCurve curveBytes).mailHead = some (1, curveBytes) ∧
    (wCurve curveBytes).hub.retrain = 0 ∧ (wCurve curveBytes).inbox.early = 0 ∧
    (wCurve curveBytes).curveStatus curveBytes =
      if Config.sigValid [1] (curveBytes.take (curveBytes.length - 132)) (curveBytes.drop (curveBytes.length - 132)) then 0 else 1 := by
  have f : curveForm curveBytes = true := by decide +kernel
  have e : byteField curveBytes 0 8 = Config.serial.toNat := by
    have h : ((curveBytes.drop 0).take 8) = toBytes 8 Config.serial.toNat := rfl
    rw [byteField, h, ofBytes_toBytes]
    exact Nat.mod_eq_of_lt Config.serial.isLt
  refine ⟨rfl, rfl, rfl, ?_⟩
  have g : (wCurve curveBytes).curveSigned curveBytes =
      Config.sigValid [1] (curveBytes.take (curveBytes.length - 132)) (curveBytes.drop (curveBytes.length - 132)) := rfl
  unfold State.curveStatus
  rw [g]
  cases Config.sigValid [1] (curveBytes.take (curveBytes.length - 132)) (curveBytes.drop (curveBytes.length - 132)) <;>
    simp [f, e, wCurve, State.reset, Campion.reset]
theorem witness_CurveRefused : (wCurve [1]).mailHead = some (1, [1]) ∧ (wCurve [1]).curveStatus [1] = 3 := by decide +kernel
/-- A module that retrains, and one that has done so since the command was sent. -/
def wRetrain (s : State) : State := { s with hub := { s.hub with retrain := 3 } }
def wEarly (s : State) : State := { s with inbox := { s.inbox with early := 1 } }
theorem witness_CurveWhileRetraining : (wRetrain (wCurve [1])).mailHead = some (1, [1]) ∧ (wRetrain (wCurve [1])).hub.retrain ≠ 0 ∧
    (wEarly (wCurve [1])).mailHead = some (1, [1]) ∧ (wEarly (wCurve [1])).inbox.early ≠ 0 := by decide +kernel
def curveC : Curve := ⟨7, 1000000, 5000000, 1000, [⟨1000000, 4000, 0⟩, ⟨3000000, 3000, 500⟩], 1000000⟩
def wCamp (t : Nat) (k : Campion) : State := { State.reset with camp := k, time := BitVec.ofNat 64 t }
def campC (cap band : Nat) : Campion := { Campion.reset with curve := some curveC, cap := cap, band := band }
theorem witness_Curves : (wCamp 1000000 { Campion.reset with pending := [curveC] }).nextCurve = some curveC ∧
    curveC.pointAt 3000000 = (3000, 500) ∧ (wCamp 3000000 (campC 4000 0)).camp.curve = some curveC ∧
    curveC.valid + curveC.horizon ≤ (wCamp 6000000 (campC 3000 500)).time.toNat ∧
    (∀ t ∈ [2900000, 2000000], (wCamp t (campC 4000 0)).lowerPoint = some (3000000, upperOf 3000 500 4600)) ∧
    (wCamp 0 { Campion.reset with pending := [{ curveC with eff := 9000000 }] }).lowerPoint = some (9000000, upperOf 1000 0 4600) ∧
    ((wCamp 100000000 { Campion.reset with lowAt := 1 }).camp.under = false ∧
      heldSince 1 (wCamp 100000000 { Campion.reset with lowAt := 1 }).time.toNat 100000000 = true) ∧
    heldSince Campion.reset.lowAt 0 100000000 = false := by decide +kernel
/-- The band of a CAP of 1,720 W is 34.4 W, and its upper edge 1,754.4 W (21_programs_curtailment_and_near_memory.md); at least 1 W
(R390). -/
theorem test_edges : upperOf 1720 0 4600 = 17544000 ∧ (wCamp 0 (campC 1720 0)).lowerEdge = 16856000 := by decide +kernel

/-- A die that is too hot and empty; a gated one that may come back; a pair that has lost its pulses. -/
def wHot : State := State.reset.setDie 1 { Die.reset with severe := true }
def wGated (t : Nat) (u : Option Nat) : State :=
  { (State.reset.setDie 1 { Die.reset with gated := true, ungating := u, rewrote := [12, 130] }) with
    time := BitVec.ofNat 64 t, camp := { Campion.reset with gates := [0, 1], gateAt := 5, roomAt := 1 } }
def wPair : State :=
  (State.reset.setCluster 94 { Cluster.reset with clk := { Clock.reset with throttle := 4, op := 3, target := 3 } }).setCluster 95
    { Cluster.reset with clk := { Clock.reset with throttle := 4 } }
theorem witness_Dies : (∀ u, u / 96 = 1 → (wHot.unit u).run = .free) ∧
    (∀ q T, (q, some T) ∈ wHot.hub.tasks → ∀ u ∈ T.units, u / 96 ≠ 1) ∧
    ((wHot.die 1).severe = true ∧ (wHot.die 1).gated = false ∧ (wHot.die 1).gating = false) ∧
    ((wGated 10000000 none).camp.gates.getLast? = some 1 ∧ (wGated 10000000 none).camp.grade = 0 ∧
      (wGated 10000000 none).camp.gateAt + 1000000 ≤ (wGated 10000000 none).time.toNat ∧
      heldSince (wGated 10000000 none).camp.roomAt (wGated 10000000 none).time.toNat 10000000 = true) ∧
    (((wGated 200007 (some 7)).die 1).ungating = some 7 ∧ 7 + 200000 ≤ (wGated 200007 (some 7)).time.toNat) ∧
    (wPair.hub.booted = true ∧ (wPair.cluster (2 * 47)).clk.throttle = 4 ∧ (wPair.cluster (2 * 47 + 1)).clk.throttle = 4) :=
  ⟨fun _ _ => rfl, fun _ _ h => absurd h List.not_mem_nil, by decide +kernel⟩

def wHeat : State :=
  let s := wTaskOf taskA id
  { s with camp := { Campion.reset with notices := [(3, 2, 50, true)] }, inbox := { Inbox.reset with notices := [(1, 2, 3, true)] }, time := 50 }
/-- A reading of cluster 0, a dry-out, an emergency that may end, an all-clear, and failed sensors of cluster 95. -/
def wRead (t : Int) : State := wHeat.setCluster 0 { Cluster.reset with clk := { Clock.reset with temps := [(3, t)] } }
def wDry : State := wHeat.setDie 0 { Die.reset with dryAt := 1 }
def wEmerg : State := { wHeat.setDie 0 { Die.reset with emerg := true, notified := [3], coolAt := 1 } with time := 10000000 }
def wClear : State :=
  { wHeat.setCluster 0 { Cluster.reset with clk := { Clock.reset with therm := some 2, opmax := 2 } } with
    camp := { Campion.reset with notices := [(3, 0, 50, false)] } }
def wSensor (l : List Nat) : State :=
  State.reset.setCluster 95 { Cluster.reset with clk := { Clock.reset with sensors := l, temps := [(0, 200000)] } }
theorem witness_Heat : ((wHeat.die 0).gated = false ∧ (wHeat.die 0).emerg = false ∧ (wHeat.die 0).severe = false) ∧
    (wEmerg.die 0).emerg = true ∧ wHeat.inbox.notices = (1, 2, 3, true) :: [] ∧
    (wHeat.anyAbove 0 105000 = false ∧ (wRead 105001).anyAbove 0 105000 = true ∧ (wDry.die 0).dryAt ≠ 0 ∧
      (wRead 115001).severeHeat 0 = true ∧ heldSince (wEmerg.die 0).coolAt wEmerg.time.toNat 10000000 = true) ∧
    (wClear.camp.notices[0]? = some (3, 0, 50, false) ∧ wClear.runsGraph 3 0 = true ∧ (wClear.die 0).emerg = false ∧
      (wClear.cluster 0).clk.therm ≠ none ∧ wClear.tasksOn 1 = []) ∧
    wHeat.camp.notices[0]? = some (3, 2, 50, true) ∧ 50 ≤ wHeat.time.toNat ∧ wHeat.runsGraph 3 0 = true ∧ wHeat.runsGraph 3 1 = false ∧
    (∀ l ∈ [[], [7, 2]], ((wSensor l).cluster 95).clk.sensors = l ∧ (wSensor l).sensorBad 95 0 = true) ∧
    (∀ i < 8, i ∈ ((wSensor (List.range 8)).cluster 95).clk.sensors) := by decide +kernel
/-- R409: the all-clear lifts the cap; R410: a failed sensor reads as the maximum of its neighbours plus 5 °C. -/
theorem test_heat : ((after (exec (.thermalCapBeat 0) wClear)).cluster 0).clk.therm = none ∧
    (wRead 60000).junction 0 3 = 60000 ∧
    ((wRead 60000).setCluster 0 { Cluster.reset with clk := { Clock.reset with temps := [(3, 60000), (5, 80000)], sensors := [5] } }).junction 0 5
      = 65000 := by decide +kernel

/-! ### The platform -/

def wRing : State := { State.reset with hub := { Hub.reset with regs := [⟨5, 0, 0x1000, 64, 0, 2 ^ 32 - 1, 0, 0, false⟩] } }
def wMcheck : State := wTaskOf taskA id
theorem witness_Checks : (wMcheck.halted 0 = false ∧ (wMcheck.unit 0).run = .running ∧ wMcheck.task (wMcheck.unit 0).id.task = some taskA) ∧
    (wRing.hub.regs.find? (fun r => r.kind = 5) = some ⟨5, 0, 0x1000, 64, 0, 2 ^ 32 - 1, 0, 0, false⟩ ∧
      wRing.memReady (keyOf 4 0x1000) = true ∧ wRing.hub.booted = true ∧ (2 ^ 32 - 1 + 2 ^ 32 - wRing.mem.num .system (keyOf 4 0x1000 + 4) 4) % 2 ^ 32 ≠ 64) ∧ 47 ∉ State.reset.camp.suspects := by
  decide +kernel
def wMail (cmd : Nat) (bs : List Byte) (key : Option (List Byte)) : State :=
  { State.reset with
    hub := { Hub.reset with facKey := key, regs := [⟨3, 0, 0, 64, 0, 0, 0, 0, false⟩] }
    inbox := { Inbox.reset with mail := [(cmd, bs)] } }
/-- A region to register: kind, memory, address, entries. -/
def regBytes (kind mem addr nent : Nat) : List Byte := u32 kind ++ u32 mem ++ u64 addr ++ u32 nent ++ u32 0 ++ u64 0
theorem witness_Mailbox : (∀ cmd < 7, (wMail cmd [5] none).mailHead = some (cmd, [5])) ∧
    (wMail 0 [] none).hub.retrain = 0 ∧ (wMail 0 [] none).inbox.early = 0 ∧ (wMail 4 [5] none).hub.facKey = none ∧
    (∀ cmd < 7, (wRetrain (wMail cmd [5] none)).mailHead = some (cmd, [5])) ∧
    (wMail 2 (regBytes 5 0 0x2000 64) none).regBad 5 0 0x2000 64 0 0 = false ∧
    (wMail 2 (regBytes 5 0 0x2001 64) none).regBad 5 0 0x2001 64 0 0 = true := by decide +kernel
/-- A key under the current one: what becomes of it is the signature's validity. -/
theorem witness_Keyset (h : Config.sigValid [1] [] [5] = false) :
    ¬ ∀ k, (wMail 4 [5] (some [1])).hub.facKey = some k → Config.sigValid k (([5] : List Byte).take (1 - 132)) (([5] : List Byte).drop (1 - 132)) = true := by
  intro g
  have e := g [1] rfl
  exact absurd (e.symm.trans h) (by decide)
def wHost (w : Bool) (key : Nat) : State :=
  let m := (Mem.reset.write 0 4 0x200 [9, 8, 7]).setPoison 0x400
  { State.reset with mem := m, inbox := { Inbox.reset with host := [(7, w, key, 3, [1, 2, 3, 4])] } }
def hostHolds (w : Bool) (key : Nat) : Bool :=
  decide ((wHost w key).inbox.host.find? (fun x => x.1 = 7) = some (7, w, key, 3, [1, 2, 3, 4])) && (wHost w key).hostReaches key
    && decide (keyRegion key ≤ 2) && physOk (keyRegion key) (keyOff key + 3 - 1)
    && ((wHost w key).mem.poisonFor .system key 3 == decide (key = 0x400))
theorem witness_Host : hostHolds true 0x200 = true ∧ hostHolds false 0x200 = true ∧ hostHolds true 0x400 = true ∧
    hostHolds false 0x400 = true := by decide +kernel


/-! ### Words written out bit by bit

One row for each major form of R51 to R57: the header's fields ENG, X, TK, PEER, OP and the fields of F (R29, R30, R37), then
the extension word's fields in the order of R39, R169, R261, R312 or of the instruction's own rule. -/

def words (l : List (Nat × Option Nat × Instr)) : Bool :=
  l.all fun r => (match decodeWords r.1 r.2.1 with | .ok i => decide (i = r.2.2) | .error _ => false)
    && decide (encode r.2.2 = r.1 :: r.2.1.toList) && r.2.2.wf

theorem test_words_of_S_1 : words [
    (0b000_0_01_010_0000000_00110_10010_00011_0, none, .add (.wait .V) 6 18 3 none),
    (0b000_1_10_011_0000001_00111_10011_00100_0, some 0b0000000000000000000000_00101_0_0000, .sub (.post .W) 7 19 4 (some ⟨5, 0⟩)),
    (0b000_0_11_100_0000010_01000_10100_00101_0, none, .and (.both .M) 8 20 5 none),
    (0b000_1_00_000_0000011_01001_10101_00110_0, some 0b0000000000000000000000_00111_1_0000, .or .none 9 21 6 (some ⟨7, 1⟩)),
    (0b000_0_01_001_0000100_01010_10110_00010_0, none, .xor (.wait .L) 10 22 2 none),
    (0b000_1_10_010_0000101_01011_10111_00011_0, some 0b0000000000000000000000_01001_0_0000, .sll (.post .V) 11 23 3 (some ⟨9, 0⟩)),
    (0b000_0_11_011_0000110_01100_10001_00100_0, none, .srl (.both .W) 12 17 4 none),
    (0b000_1_00_000_0000111_01101_10010_00101_0, some 0b0000000000000000000000_01011_0_0000, .sra .none 13 18 5 (some ⟨11, 0⟩)),
    (0b000_0_01_101_0001000_00101_10011_00110_0, none, .mul (.wait .C) 5 19 6 none),
    (0b000_1_10_001_0001001_00110_10100_00010_0, some 0b0000000000000000000000_01101_1_0000, .mulh (.post .L) 6 20 2 (some ⟨13, 1⟩)),
    (0b000_0_11_010_0001010_00111_10101_00011_0, none, .mulhu (.both .V) 7 21 3 none),
    (0b000_1_00_000_0001011_01000_10110_00100_0, some 0b0000000000000000000000_01111_0_0000, .div .none 8 22 4 (some ⟨15, 0⟩)),
    (0b000_0_01_100_0001100_01001_10111_00101_0, none, .divu (.wait .M) 9 23 5 none),
    (0b000_1_10_101_0001101_01010_10001_00110_0, some 0b0000000000000000000000_10001_0_0000, .rem (.post .C) 10 17 6 (some ⟨17, 0⟩)),
    (0b000_0_11_001_0001110_01011_10010_00010_0, none, .remu (.both .L) 11 18 2 none),
    (0b000_1_00_000_0001111_01100_10011_00011_0, some 0b0000000000000000000000_10011_1_0000, .min .none 12 19 3 (some ⟨19, 1⟩)),
    (0b000_0_01_011_0010000_01101_10100_00100_0, none, .max (.wait .W) 13 20 4 none),
    (0b000_1_10_100_0010001_00101_10101_00101_0, some 0b0000000000000000000000_10101_0_0000, .minu (.post .M) 5 21 5 (some ⟨21, 0⟩)),
    (0b000_0_11_101_0010010_00110_10110_00110_0, none, .maxu (.both .C) 6 22 6 none),
    (0b000_1_00_000_0010011_00111_10111_00010_0, some 0b0000000000000000000000_00011_0_0000, .slt .none 7 23 2 (some ⟨3, 0⟩)),
    (0b000_0_01_010_0010100_01000_10001_00011_0, none, .sltu (.wait .V) 8 17 3 none),
    (0b000_1_10_011_0010101_01001_10010_00100_0, some 0b0000000000000000000000_00101_1_0000, .seq (.post .W) 9 18 4 (some ⟨5, 1⟩)),
    (0b000_0_11_100_0010110_01010_10011_00000_0, none, .clz (.both .M) 10 19 none),
    (0b000_1_00_000_0010111_01011_10100_00000_0, some 0b0000000000000000000000_00111_0_0000, .popc .none 11 20 (some ⟨7, 0⟩))] = true := by decide +kernel

theorem test_words_of_S_2 : words [
    (0b000_1_01_001_0011000_01100_10101_00000_0, some 0b0000000000000000000_1_101000_010111, .ext (.wait .L) 12 21 1 40 23),
    (0b000_1_10_010_0011001_01101_10110_101100, some 0b0000000000000000000000_01001_0_0000, .addi (.post .V) 13 22 44 (some ⟨9, 0⟩)),
    (0b000_0_11_011_0011010_00101_10110100011, none, .liShort (.both .W) 5 1443),
    (0b000_1_00_000_0011010_00110_00000000000, some 0b11011110101011011011111011101111, .liLong .none 6 3735928559),
    (0b000_0_01_101_0011011_00111_10010_101100, none, .andi (.wait .C) 7 18 44 none),
    (0b000_1_10_001_0011100_01000_10011_101100, some 0b0000000000000000000000_01101_0_0000, .ori (.post .L) 8 19 44 (some ⟨13, 0⟩)),
    (0b000_0_11_010_0011101_01001_10100_101100, none, .xori (.both .V) 9 20 44 none),
    (0b000_1_00_000_0011110_01010_10101_100001, some 0b000000000000000000000000000000_10, .shi .none 10 21 33 2),
    (0b000_0_01_100_0011111_00110_10010_10100_0, none, .add128 (.wait .M) 6 18 20 none),
    (0b000_1_10_101_0100000_01100_10111_00110_0, some 0b00000000000000000000000000000_101, .pcmp (.post .C) 12 23 6 5),
    (0b000_0_11_001_0100001_01101_00000_000001, none, .pset (.both .L) 13 1 none),
    (0b000_1_00_000_0100010_00101_10010_00011_0, some 0b0000000000000000000000_10011_0_0000, .pand .none 5 18 3 (some ⟨19, 0⟩)),
    (0b000_0_01_011_0100011_00110_10011_00100_0, none, .por (.wait .W) 6 19 4 none),
    (0b000_1_10_100_0100100_00111_10100_00101_0, some 0b0000000000000000000000_10101_0_0000, .pxor (.post .M) 7 20 5 (some ⟨21, 0⟩)),
    (0b000_0_11_101_0100101_01000_10101_00000_0, none, .pnot (.both .C) 8 21 none),
    (0b000_1_00_000_0100110_01001_00000_00000_0, some 0b0000000000000000000000_00011_1_0000, .ptox .none 9 (some ⟨3, 1⟩)),
    (0b000_0_01_010_0100111_00000_10111_00000_0, none, .xtop (.wait .V) 23 none),
    (0b000_1_10_011_0101000_01011_01100_00100_0, some 0b00101_0_00_0_000_0000_1111111111001110, .kld (.post .W) 11 12 4 ⟨5, 0, 0, 0, 0, 0, 65486⟩),
    (0b000_1_11_100_0101001_01100_01101_00101_0, some 0b00110_1_00_0_000_0000_1111111111001101, .kst (.both .M) 12 13 5 ⟨6, 1, 0, 0, 0, 0, 65485⟩),
    (0b000_1_00_000_0101010_01101_00011_00110_0, some 0b00000000000000000001000000000000, .ksub .none 13 3 6 4096),
    (0b000_1_01_001_0101011_00101_00100_00000_0, some 0b000000000000000000000000_10100011, .kperm (.wait .L) 5 4 163),
    (0b000_1_10_010_0101100_00110_00101_00000_0, some 0b0000000000000000000000_01001_1_0000, .kmov (.post .V) 6 5 (some ⟨9, 1⟩)),
    (0b000_0_11_011_0101101_00111_00110_000100, none, .kget (.both .W) 7 6 4 none),
    (0b000_1_00_000_0101110_01000_00111_101011, some 0b0000000000000000000000_01011_0_0000, .ktest .none 8 7 43 (some ⟨11, 0⟩))] = true := by decide +kernel

theorem test_words_of_S_3 : words [
    (0b000_1_01_101_0110000_01001_01000_00110_0, some 0b01100_1_10_1_000_0000_1111111111000111, .ld (.wait .C) 9 8 6 ⟨12, 1, 2, 1, 0, 0, 65479⟩),
    (0b000_1_10_001_0110001_01010_01001_00010_0, some 0b01101_0_01_0_000_0000_1111111111000110, .st (.post .L) 10 9 2 ⟨13, 0, 1, 0, 0, 0, 65478⟩),
    (0b000_1_11_010_0110010_01011_01010_00011_0, some 0b01110_0_01_1_100_0000_1111111111000101, .ldaq (.both .V) 11 10 3 ⟨14, 0, 1, 1, 4, 0, 65477⟩),
    (0b000_1_00_000_0110011_01100_01011_00100_0, some 0b01111_1_11_0_010_0000_1111111111000100, .strl .none 12 11 4 ⟨15, 1, 3, 0, 2, 0, 65476⟩),
    (0b000_1_01_100_0110100_01101_01100_00101_0, some 0b10000_0_10_1_011_1001_1111111111000011, .amo (.wait .M) 13 12 5 ⟨16, 0, 2, 1, 3, 9, 65475⟩),
    (0b000_1_10_101_0110101_00110_01101_00110_0, some 0b10001_0_11_0_001_0000_1111111111000010, .cas (.post .C) 6 13 6 ⟨17, 0, 3, 0, 1, 0, 65474⟩),
    (0b000_0_11_001_0110110_00000_00000_010011, none, .fence (.both .L) 2 3),
    (0b000_1_00_000_0110111_01100_00100_00011_0, some 0b10011_0_00_0_000_0100_1111111111000000, .nmc .none 12 4 3 ⟨19, 0, 0, 0, 0, 4, 65472⟩),
    (0b000_0_01_011_0111000_0000000000000000, none, .nmfence (.wait .W)),
    (0b000_1_10_100_0111001_01001_00000_000101, some 0b0000000000000000000000_10101_1_0000, .qpush (.post .M) 9 5 (some ⟨21, 1⟩)),
    (0b000_0_11_101_0111010_01010_00000_000000, none, .qpop (.both .C) 10 none),
    (0b000_0_00_000_0111011_00000_00000_110010, none, .bar .none 6 2),
    (0b000_1_01_010_1000000_01100_01001_00011_0, some 0b00100_1_00_0_000_0000_1111111110111011, .sset (.wait .V) 12 9 3 ⟨4, 1, 0, 0, 0, 0, 65467⟩),
    (0b000_1_10_011_1000001_01101_01010_000100, some 0b0000000000000000000000_00101_0_0000, .sget (.post .W) 13 10 4 (some ⟨5, 0⟩)),
    (0b000_0_11_100_1000010_00101_01011_000000, none, .spos (.both .M) 5 11 none),
    (0b000_1_00_000_1001000_10100_01100_00110_0, some 0b00111_1_00_0_000_0000_1111111110111000, .tcont .none 20 12 6 ⟨7, 1, 0, 0, 0, 0, 65464⟩),
    (0b000_0_01_001_1001001_00111_000_10_100101, none, .tevt (.wait .L) 7 2 37 none),
    (0b000_1_10_010_1001010_01000_10100_000110, some 0b0000000000000000000000_01001_0_0000, .targ (.post .V) 8 20 1 2 (some ⟨9, 0⟩)),
    (0b000_0_11_011_1001100_00000_10101_000100, none, .jguard (.both .W) 21 4),
    (0b000_0_00_000_1001101_01010_10110_000000, none, .jpatch .none 10 22),
    (0b000_0_01_101_1001110_00000_00000_110101, none, .jmark (.wait .C) 53),
    (0b000_0_10_001_1001111_01100_00000_000011, none, .jstat (.post .L) 12 3),
    (0b000_1_11_010_1010000_01101_00000_000111, some 0b00000000000000000001001110001000, .opreq (.both .V) 13 7 5000),
    (0b000_0_00_000_1010001_0000000000000000, none, .oprel .none)] = true := by decide +kernel

theorem test_words_of_S_4 : words [
    (0b000_0_01_100_1010010_00110_00000_000101, none, .opget (.wait .M) 6 5 none),
    (0b000_0_10_101_1100000_00111_00001000010, none, .csrr (.post .C) 7 66),
    (0b000_0_11_001_1100001_01000_00001110001, none, .csrw (.both .L) 8 113),
    (0b000_0_00_000_1100010_00000_00000_110101, none, .trap .none 53),
    (0b000_0_01_011_1100011_0000000000000000, none, .reti (.wait .W)),
    (0b000_0_10_100_1100100_0000000000000000, none, .decline (.post .M)),
    (0b000_0_11_101_1100101_00000_00101_00110_0, none, .ctxsave (.both .C) 5 6),
    (0b000_0_00_000_1100110_00000_00110_00010_0, none, .ctxload .none 6 2),
    (0b000_0_01_010_1111100_0000000000000000, none, .nopS (.wait .V)),
    (0b000_1_10_011_1111110_0000000000000000, some 0b11111111_00000111_10000010_00000001, .waitS (.post .W) ⟨255, 7, 130, 1⟩)] = true := by decide +kernel

theorem test_words_of_L : words [
    (0b001_0_11_100_0000000_1001_101_10_110011_0, none, .lsv (.both .M) 9 1459 none),
    (0b001_1_00_000_0000001_1011_010_11_000111_0, some 0b10010011101_00000000000_00111_0_1_0_0_0, .lgath .none 11 711 ⟨1181, 0, 7, 0, 1, 0, 0, 0⟩),
    (0b001_0_01_000_0000010_1001_101_10_110011_0, none, .lbrd (.wait .S) 9 1459 none),
    (0b001_1_10_010_0000011_1101_000_00_000000_0, some 0b0000000000000000000000_01001_0_0000, .sgoL (.post .V) 13 (some ⟨9, 0⟩)),
    (0b001_1_11_011_0000100_1101_000_00_000000_0, some 0b00000000000000000000000001001101, .sskipL (.both .W) 13 77),
    (0b001_1_00_000_0000101_1101_000_00_000000_0, some 0b0000000000000000000000_01011_1_0000, .srewL .none 13 (some ⟨11, 1⟩)),
    (0b001_0_01_101_0000110_1101_000_00_000000_0, none, .sdropL (.wait .C) 13 none),
    (0b001_0_10_000_1111100_0000000000000000, none, .nopL (.post .S)),
    (0b001_1_11_010_1111110_0000000000000000, some 0b11111111_00000111_10000010_00000001, .waitL (.both .V) ⟨255, 7, 130, 1⟩)] = true := by decide +kernel

theorem test_words_of_V_1 : words [
    (0b010_1_10_011_0000000_010_11_000101_10_0_11, some 0b10010010011_11010100001_00101_0_1_1_0_0, .vadd (.post .W) ⟨709, 2, 0, 3⟩ ⟨1171, 1697, 5, 0, 1, 1, 0, 0⟩),
    (0b010_1_11_100_0000001_010_11_000101_00_1_01, some 0b10010010011_11010100001_00110_1_1_1_0_0, .vsub (.both .M) ⟨709, 0, 1, 1⟩ ⟨1171, 1697, 6, 1, 1, 1, 0, 0⟩),
    (0b010_1_00_000_0000010_010_11_000101_10_0_11, some 0b10010010011_11010100001_00111_0_1_1_0_0, .vmul .none ⟨709, 2, 0, 3⟩ ⟨1171, 1697, 7, 0, 1, 1, 0, 0⟩),
    (0b010_1_01_000_0000011_010_11_000101_00_1_01, some 0b10010010011_11010100001_01000_0_1_1_0_0, .vfma (.wait .S) ⟨709, 0, 1, 1⟩ ⟨1171, 1697, 8, 0, 1, 1, 0, 0⟩),
    (0b010_1_10_001_0000100_010_11_000101_10_0_11, some 0b10010010011_11010100001_01001_1_1_1_0_0, .vfms (.post .L) ⟨709, 2, 0, 3⟩ ⟨1171, 1697, 9, 1, 1, 1, 0, 0⟩),
    (0b010_1_11_011_0000101_010_11_000101_00_1_01, some 0b10010010011_11010100001_01010_0_1_1_0_0, .vfnma (.both .W) ⟨709, 0, 1, 1⟩ ⟨1171, 1697, 10, 0, 1, 1, 0, 0⟩),
    (0b010_1_00_000_0000110_010_11_000101_11_0_00, some 0b10010010011_11010100001_01011_0_1_1_0_0, .vdiv .none ⟨709, 3, 0, 0⟩ ⟨1171, 1697, 11, 0, 1, 1, 0, 0⟩),
    (0b010_1_01_101_0000111_010_11_000101_11_0_00, some 0b10010010011_00000000000_01100_1_1_0_0_0, .vsqrt (.wait .C) ⟨709, 3, 0, 0⟩ ⟨1171, 0, 12, 1, 1, 0, 0, 0⟩),
    (0b010_1_10_000_0001000_010_11_000101_11_0_00, some 0b10010010011_00000000000_01101_0_1_0_0_0, .vrcp (.post .S) ⟨709, 3, 0, 0⟩ ⟨1171, 0, 13, 0, 1, 0, 0, 0⟩),
    (0b010_1_11_001_0001001_010_11_000101_11_0_00, some 0b10010010011_00000000000_01110_0_1_0_0_0, .vrsq (.both .L) ⟨709, 3, 0, 0⟩ ⟨1171, 0, 14, 0, 1, 0, 0, 0⟩),
    (0b010_1_00_000_0001010_010_11_000101_11_0_00, some 0b10010010011_00000000000_01111_1_1_0_0_0, .vexp2 .none ⟨709, 3, 0, 0⟩ ⟨1171, 0, 15, 1, 1, 0, 0, 0⟩),
    (0b010_1_01_100_0001011_010_11_000101_11_0_00, some 0b10010010011_00000000000_10000_0_1_0_0_0, .vlog2 (.wait .M) ⟨709, 3, 0, 0⟩ ⟨1171, 0, 16, 0, 1, 0, 0, 0⟩),
    (0b010_1_10_101_0001100_010_11_000101_00_0_10, some 0b10010010011_11010100001_10001_0_1_1_0_0, .vmin (.post .C) ⟨709, 0, 0, 2⟩ ⟨1171, 1697, 17, 0, 1, 1, 0, 0⟩),
    (0b010_1_11_000_0001101_010_11_000101_00_0_10, some 0b10010010011_11010100001_10010_1_1_1_0_0, .vmax (.both .S) ⟨709, 0, 0, 2⟩ ⟨1171, 1697, 18, 1, 1, 1, 0, 0⟩),
    (0b010_1_00_000_0001110_010_11_000101_00_1_01, some 0b10010010011_00000000000_10011_0_1_0_0_0, .vabs .none ⟨709, 0, 1, 1⟩ ⟨1171, 0, 19, 0, 1, 0, 0, 0⟩),
    (0b010_1_01_011_0001111_010_11_000101_00_1_01, some 0b10010010011_00000000000_10100_0_1_0_0_0, .vneg (.wait .W) ⟨709, 0, 1, 1⟩ ⟨1171, 0, 20, 0, 1, 0, 0, 0⟩),
    (0b010_1_10_100_0010000_010_11_000101_00_0_00, some 0b10010010011_11010100001_10101_1_1_1_0_0, .vand (.post .M) ⟨709, 0, 0, 0⟩ ⟨1171, 1697, 21, 1, 1, 1, 0, 0⟩),
    (0b010_1_11_101_0010001_010_11_000101_00_0_00, some 0b10010010011_00000010011_10110_0_1_0_1_0, .vor (.both .C) ⟨709, 0, 0, 0⟩ ⟨1171, 19, 22, 0, 1, 0, 1, 0⟩),
    (0b010_1_00_000_0010010_010_11_000101_00_0_00, some 0b10010010011_11010100001_00011_0_1_1_0_0, .vxor .none ⟨709, 0, 0, 0⟩ ⟨1171, 1697, 3, 0, 1, 1, 0, 0⟩),
    (0b010_1_01_001_0010011_010_11_000101_00_0_00, some 0b10010010011_00000000000_00100_1_1_0_0_0, .vnot (.wait .L) ⟨709, 0, 0, 0⟩ ⟨1171, 0, 4, 1, 1, 0, 0, 0⟩),
    (0b010_1_10_011_0010100_010_11_000101_00_0_00, some 0b10010010011_00000010011_00101_0_1_0_1_0, .vshl (.post .W) ⟨709, 0, 0, 0⟩ ⟨1171, 19, 5, 0, 1, 0, 1, 0⟩),
    (0b010_1_11_100_0010101_010_11_000101_00_0_00, some 0b10010010011_11010100001_00110_0_1_1_0_0, .vshr (.both .M) ⟨709, 0, 0, 0⟩ ⟨1171, 1697, 6, 0, 1, 1, 0, 0⟩),
    (0b010_1_00_000_0010110_010_11_000101_00_0_00, some 0b10010010011_11010100001_00111_1_1_1_0_0, .vsra .none ⟨709, 0, 0, 0⟩ ⟨1171, 1697, 7, 1, 1, 1, 0, 0⟩),
    (0b010_1_01_000_0010111_010_11_000101_00_0_10, some 0b10010010011_11010100001_01000_0_1_1_0_0, .vmulh (.wait .S) ⟨709, 0, 0, 2⟩ ⟨1171, 1697, 8, 0, 1, 1, 0, 0⟩)] = true := by decide +kernel

theorem test_words_of_V_2 : words [
    (0b010_1_10_001_0011000_010_11_000101_01_0_10, some 0b10010010011_11010100001_01001_0_1_1_0_1, .vcmp (.post .L) ⟨709, 1, 0, 2⟩ ⟨1171, 1697, 9, 0, 1, 1, 0, 1⟩),
    (0b010_1_11_011_0011001_010_11_000101_00_0_00, some 0b10010010011_11010100001_01010_1_1_1_0_0, .vsel (.both .W) ⟨709, 0, 0, 0⟩ ⟨1171, 1697, 10, 1, 1, 1, 0, 0⟩),
    (0b010_1_00_000_0011010_010_11_000101_00_0_00, some 0b10010010011_00000000000_01011_0_1_0_0_0, .vmov .none ⟨709, 0, 0, 0⟩ ⟨1171, 0, 11, 0, 1, 0, 0, 0⟩),
    (0b010_1_01_101_0011011_010_11_000101_01_1_01, some 0b10010010011_00000000000_01100_0_1_0_0_1, .vcvt (.wait .C) ⟨709, 1, 1, 1⟩ ⟨1171, 0, 12, 0, 1, 0, 0, 1⟩),
    (0b010_1_10_000_0011100_010_11_000101_00_0_00, some 0b10010010011_00000000000_01101_1_1_0_0_0, .vclass (.post .S) ⟨709, 0, 0, 0⟩ ⟨1171, 0, 13, 1, 1, 0, 0, 0⟩),
    (0b010_1_11_001_0011101_010_11_000101_00_0_00, some 0b00000000000_00000010011_01110_0_0_0_1_0, .vidx (.both .L) ⟨709, 0, 0, 0⟩ ⟨0, 19, 14, 0, 0, 0, 1, 0⟩),
    (0b010_1_00_000_0011110_010_11_000101_00_0_00, some 0b10010010011_00000010011_01111_0_1_0_1_0, .vbcast .none ⟨709, 0, 0, 0⟩ ⟨1171, 19, 15, 0, 1, 0, 1, 0⟩),
    (0b010_1_01_100_0011111_010_11_000101_10_1_11, some 0b10010010011_11010100001_10000_1_1_1_0_1, .vextr (.wait .M) ⟨709, 2, 1, 3⟩ ⟨1171, 1697, 16, 1, 1, 1, 0, 1⟩),
    (0b010_1_10_101_0100000_010_11_000101_01_0_00, some 0b10010010011_00000000000_10001_0_1_0_0_0, .vred (.post .C) ⟨709, 1, 0, 0⟩ ⟨1171, 0, 17, 0, 1, 0, 0, 0⟩),
    (0b010_1_11_000_0100001_010_11_000101_00_1_10, some 0b10010010011_00000000000_10010_0_1_0_0_1, .vscan (.both .S) ⟨709, 0, 1, 2⟩ ⟨1171, 0, 18, 0, 1, 0, 0, 1⟩),
    (0b010_1_00_000_0100010_010_11_000101_00_0_00, some 0b10010010011_11010100001_10011_1_1_1_0_0, .vshuf .none ⟨709, 0, 0, 0⟩ ⟨1171, 1697, 19, 1, 1, 1, 0, 0⟩),
    (0b010_1_01_011_0100011_010_11_000101_10_1_11, some 0b10010010011_00000000000_10100_0_1_0_0_1, .vrot (.wait .W) ⟨709, 2, 1, 3⟩ ⟨1171, 0, 20, 0, 1, 0, 0, 1⟩),
    (0b010_1_10_100_0100100_000_00_000101_00_0_00, some 0b10010010011_11010100001_10101_0_1_1_0_0, .vcpush (.post .M) ⟨5, 0, 0, 0⟩ ⟨1171, 1697, 21, 0, 1, 1, 0, 0⟩),
    (0b010_1_11_101_0100101_010_11_000101_00_0_00, some 0b00000000110_00000010011_10110_1_0_0_1_0, .vcpop (.both .C) ⟨709, 0, 0, 0⟩ ⟨6, 19, 22, 1, 0, 0, 1, 0⟩),
    (0b010_1_00_000_0100110_010_11_000101_00_0_00, some 0b00000000110_00000000000_00011_0_0_0_0_0, .vccnt .none ⟨709, 0, 0, 0⟩ ⟨6, 0, 3, 0, 0, 0, 0, 0⟩),
    (0b010_1_01_001_0100111_010_11_000101_00_0_00, some 0b00000010110_00000010011_00100_0_0_0_1_0, .vrng (.wait .L) ⟨709, 0, 0, 0⟩ ⟨22, 19, 4, 0, 0, 0, 1, 0⟩),
    (0b010_1_10_011_0101000_010_11_000101_00_0_00, some 0b10010010011_00000010011_00101_1_1_0_1_0, .vql6 (.post .W) ⟨709, 0, 0, 0⟩ ⟨1171, 19, 5, 1, 1, 0, 1, 0⟩),
    (0b010_1_11_100_0101001_010_11_000101_00_0_00, some 0b10010010011_00000010011_00110_0_1_0_1_0, .vdl6 (.both .M) ⟨709, 0, 0, 0⟩ ⟨1171, 19, 6, 0, 1, 0, 1, 0⟩),
    (0b010_1_00_000_0101010_010_11_000101_10_0_00, some 0b10010010011_11010100001_00111_0_1_1_0_0, .vpack .none ⟨709, 2, 0, 0⟩ ⟨1171, 1697, 7, 0, 1, 1, 0, 0⟩),
    (0b010_1_01_000_0101011_010_11_000101_00_0_00, some 0b10010010011_00000000000_01000_1_1_0_0_1, .vunpk (.wait .S) ⟨709, 0, 0, 0⟩ ⟨1171, 0, 8, 1, 1, 0, 0, 1⟩),
    (0b010_1_10_001_0110000_01101_00000_101000, some 0b0000000000000000000000_01001_0_0000, .bhint (.post .L) 13 2 1 (some ⟨9, 0⟩)),
    (0b010_0_11_011_0110001_01101_00000_001000, none, .bwake (.both .W) 13 1 none),
    (0b010_1_00_000_0110010_00110_00000_000001, some 0b0000000000000000000000_01011_1_0000, .balloc .none 6 1 (some ⟨11, 1⟩)),
    (0b010_0_01_101_0110011_00110_00000_101001, none, .bstat (.wait .C) 6 41 none)] = true := by decide +kernel

theorem test_words_of_V_3 : words [
    (0b010_0_10_000_1111100_0000000000000000, none, .nopV (.post .S)),
    (0b010_1_11_001_1111110_0000000000000000, some 0b11111111_00000111_10000010_00000001, .waitV (.both .L) ⟨255, 7, 130, 1⟩)] = true := by decide +kernel

theorem test_words_of_W : words [
    (0b011_1_00_000_0000000_1001_101_10_110011_1, some 0b0000000000000000000000_01111_0_0000, .wsv .none 9 1459 1 (some ⟨15, 0⟩)),
    (0b011_1_01_100_0000001_1011_010_11_000111_1, some 0b10010011101_00000000000_10000_0_1_0_0_0, .wscat (.wait .M) 11 711 1 ⟨1181, 0, 16, 0, 1, 0, 0, 0⟩),
    (0b011_1_10_101_0000010_1001_101_10_110011_1, some 0b0000000000000000000000_10001_1_0000, .wacc (.post .C) 9 1459 1 (some ⟨17, 1⟩)),
    (0b011_0_11_000_0000011_1101_000_00_000000_0, none, .sgoW (.both .S) 13 none),
    (0b011_1_00_000_0000100_1101_000_00_000000_0, some 0b00000000000000000000000001001101, .sskipW .none 13 77),
    (0b011_0_01_010_0000101_1101_000_00_000000_0, none, .srewW (.wait .V) 13 none),
    (0b011_1_10_100_0000110_1101_000_00_000000_0, some 0b0000000000000000000000_10101_0_0000, .sdropW (.post .M) 13 (some ⟨21, 0⟩)),
    (0b011_0_11_101_0000111_00000_00000_000100, none, .wflush (.both .C) 4),
    (0b011_0_00_000_1111100_0000000000000000, none, .nopW .none),
    (0b011_1_01_001_1111110_0000000000000000, some 0b11111111_00000111_10000010_00000001, .waitW (.wait .L) ⟨255, 7, 130, 1⟩)] = true := by decide +kernel

theorem test_words_of_M : words [
    (0b100_1_00_000_0000000_1010_110_00000000_1, some 0b01111_0_10_1_11_101000_000_100110100101, .mmul .none 10 6 1 ⟨15, 0, 2, 1, 3, 40, 2469⟩),
    (0b100_1_01_011_0000001_1010_110_00000000_1, some 0b10000_0_10_1_11_101000_000_100110100101, .mmulb (.wait .W) 10 6 1 ⟨16, 0, 2, 1, 3, 40, 2469⟩),
    (0b100_1_10_101_0000010_00110_00000_000000, some 0b00111111000000000000000000000000, .mscal (.post .C) 6 1056964608),
    (0b100_0_11_000_0000011_00110_00000_000000, none, .mclr (.both .S) 6 none),
    (0b100_0_00_000_0000100_00000_00000_111110, none, .mjoin .none 7 1 2),
    (0b100_0_01_010_0000101_00000_00000_000010, none, .mleave (.wait .V) 2),
    (0b100_1_10_011_0000110_00000_00000_000011, some 0b0000000000000_1_101001_101010111100, .mbset (.post .W) 3 432828),
    (0b100_0_11_101_1111100_0000000000000000, none, .nopM (.both .C)),
    (0b100_1_00_000_1111110_0000000000000000, some 0b11111111_00000111_10000010_00000001, .waitM .none ⟨255, 7, 130, 1⟩)] = true := by decide +kernel

theorem test_words_of_C : words [
    (0b101_1_01_001_0000000_01101_01010_10000_0, some 0b00100_0_00_00_00_0000_0000000000000000, .cpy (.wait .L) 13 10 16 ⟨4, 0, 0, 0, 0, 0, 0⟩),
    (0b101_1_10_010_0000001_00101_01011_10000_0, some 0b00101_0_10_10_01_1011_0000110000000011, .ccvt (.post .V) 5 11 16 ⟨5, 0, 2, 2, 1, 11, 3075⟩),
    (0b101_1_11_011_0000010_00110_10011_10000_0, some 0b00110_1_00_00_00_0000_0000000000000000, .cfill (.both .W) 6 19 16 ⟨6, 1, 0, 0, 0, 0, 0⟩),
    (0b101_1_00_000_0000011_00111_01101_10000_0, some 0b00111_0_00_10_00_1011_0000110000000011, .bload .none 7 13 16 ⟨7, 0, 0, 2, 0, 11, 3075⟩),
    (0b101_1_01_000_0000100_00110_00011_11000_0, some 0b01000_0_00_00_00_1011_0000000000000000, .wdef (.wait .S) 6 3 24 ⟨8, 0, 0, 0, 0, 11, 0⟩),
    (0b101_1_10_001_0000101_00110_10110_110010, some 0b0000000000000000000000_01001_1_0000, .wadv (.post .L) 6 22 50 (some ⟨9, 1⟩)),
    (0b101_0_11_010_0000110_00110_00000_000000, none, .wrel (.both .V) 6 none),
    (0b101_1_00_000_0001000_00000_00110_00101_0, some 0b0000000000000000_0111011001010100, .dload .none 6 5 30292),
    (0b101_0_01_100_0001001_00000_10010_000000, none, .dstart (.wait .M) 18),
    (0b101_0_10_000_0001010_00000_00000_000000, none, .dstop (.post .S)),
    (0b101_0_11_001_0001011_00101_00000_000110, none, .dstat (.both .L) 5 1 2 none),
    (0b101_0_00_000_1111100_0000000000000000, none, .nopC .none),
    (0b101_1_01_011_1111110_0000000000000000, some 0b11111111_00000111_10000010_00000001, .waitC (.wait .W) ⟨255, 7, 130, 1⟩)] = true := by decide +kernel

theorem test_words_of_A : words [
    (0b110_1_00_000_0000000_01000_00001_000000, some 0b11111111111111111111111111110000, .br 8 1 4294967280),
    (0b110_1_00_000_0000001_0000000000000000, some 0b00000000000000000000000000001100, .jmp 12),
    (0b110_1_00_000_0000010_01010_00000_000000, some 0b00000000000000000000000000010000, .call 10 16),
    (0b110_0_00_000_0000011_00000_10011_000000, none, .ret 19),
    (0b110_1_00_000_0000100_01100_00000_000000, some 0b101_0_101010111100_0000000000000000, .loop 12 ⟨5, 0, 2748, 0⟩),
    (0b110_0_00_000_0000101_0000000000000000, none, .yield),
    (0b110_0_00_000_0000110_0000000000000000, none, .endW),
    (0b110_0_00_000_0000111_00101_00000_000000, none, .blend 5),
    (0b110_0_00_000_0001000_00101_00000_000000, none, .bret 5),
    (0b110_0_00_000_0001001_0000000000000000, none, .sync),
    (0b110_0_00_000_1111100_0000000000000000, none, .nopA)] = true := by decide +kernel

/-! ### An ill-formed term for each check -/

def refused (i : Instr) : Bool := !i.wf

/-- The operands: registers, immediates, kinds, scopes, banks, system registers, token actions, guards. -/
theorem test_wf_operands :
    refused (.add .none 32 0 0 none) ∧ refused (.kmov .none 16 0 none) ∧ refused (.qpush .none 1 8 none) ∧
    refused (.addi .none 1 1 64 none) ∧ refused (.liShort .none 1 2048) ∧ refused (.liLong .none 1 4294967296) ∧
    refused (.pset .none 4 2 none) ∧ refused (.mleave .none 4) ∧ refused (.fence .none 3 0) ∧
    refused (.fence .none 0 5) ∧ refused (.bar .none 0 0) ∧ refused (.bar .none 0 4) ∧ refused (.mjoin .none 0 0 0) ∧
    refused (.lsv .none 16 0 none) ∧ refused (.lsv .none 0 2048 none) ∧ refused (.csrr .none 1 0x005) ∧
    refused (.bwake .none 16 1 none) ∧ refused (.bwake .none 8 0 none) ∧ refused (.add (.wait .S) 1 1 1 none) ∧
    refused (.nopL (.post .L)) ∧ refused (.nopV (.both .V)) ∧ refused (.add .none 1 1 1 (some ⟨32, 0⟩)) ∧
    refused (.add .none 1 1 1 (some ⟨0, 2⟩)) := by decide

/-- The limits of single scalar instructions. -/
theorem test_wf_scalar :
    refused (.ext .none 1 1 0 40 24) ∧ refused (.shi .none 1 1 1 3) ∧ refused (.add128 .none 2 3 4 none) ∧
    refused (.pcmp .none 1 1 1 6) ∧ refused (.kperm .none 1 1 256) ∧ refused (.kget .none 1 1 7 none) ∧
    refused (.cas .none 3 1 1 ⟨0, 0, 3, 0, 0, 0, 0⟩) ∧ refused (.nmc .none 2 1 1 ⟨0, 0, 0, 0, 0, 1, 0⟩) ∧
    refused (.nmc .none 0 1 1 ⟨0, 0, 0, 0, 0, 1, 0⟩) ∧ refused (.nmc .none 4 1 1 ⟨0, 0, 0, 0, 0, 5, 0⟩) ∧
    refused (.sget .none 1 1 5 none) ∧ refused (.jstat .none 1 4) ∧ refused (.opreq .none 1 1 0) ∧
    refused (.opreq .none 1 1 10001) ∧ refused (.opget .none 1 6 none) ∧ refused (.tcont .none 6 1 1 ⟨0, 0, 0, 0, 0, 0, 0⟩) := by
  decide

/-- The extension word XM. -/
theorem test_wf_memory :
    refused (.ld .none 1 1 1 ⟨32, 0, 3, 0, 0, 0, 0⟩) ∧ refused (.ld .none 1 1 1 ⟨0, 0, 3, 0, 0, 0, 65536⟩) ∧
    refused (.kld .none 1 1 1 ⟨0, 0, 1, 0, 0, 0, 0⟩) ∧ refused (.st .none 1 1 1 ⟨0, 0, 1, 1, 0, 0, 0⟩) ∧
    refused (.ld .none 1 1 1 ⟨0, 0, 1, 0, 1, 0, 0⟩) ∧ refused (.ldaq .none 1 1 1 ⟨0, 0, 1, 0, 5, 0, 0⟩) ∧
    refused (.ldaq .none 1 1 1 ⟨0, 0, 1, 0, 1, 1, 0⟩) ∧ refused (.amo .none 1 1 1 ⟨0, 0, 1, 0, 1, 1, 0⟩) ∧
    refused (.amo .none 1 1 1 ⟨0, 0, 2, 0, 1, 0, 0⟩) ∧ refused (.amo .none 1 1 1 ⟨0, 0, 2, 0, 1, 10, 0⟩) := by decide

/-- The extension words XC, XMM, XL and XW. -/
theorem test_wf_engines :
    refused (.cpy .none 1 1 4 ⟨0, 0, 1, 0, 0, 0, 0⟩) ∧ refused (.cpy .none 1 1 5 ⟨0, 0, 0, 0, 0, 0, 0⟩) ∧
    refused (.ccvt .none 1 1 4 ⟨0, 0, 0, 1, 1, 0, 0⟩) ∧ refused (.ccvt .none 1 1 4 ⟨0, 0, 0, 3, 1, 0, 0⟩) ∧
    refused (.ccvt .none 1 1 4 ⟨0, 0, 0, 0, 1, 2, 0⟩) ∧ refused (.ccvt .none 1 1 4 ⟨0, 0, 1, 1, 2, 2, 0⟩) ∧
    refused (.bload .none 1 1 4 ⟨0, 0, 0, 0, 0, 0, 0⟩) ∧ refused (.wdef .none 1 1 4 ⟨0, 0, 0, 0, 0, 3, 1⟩) ∧
    refused (.mmul .none 0 0 0 ⟨0, 0, 3, 0, 0, 0, 0⟩) ∧ refused (.mbset .none 5 0) ∧ refused (.mbset .none 0 524288) ∧
    refused (.loop 1 ⟨0, 0, 0, 1⟩) ∧ refused (.loop 1 ⟨0, 1, 0, 1⟩) ∧ refused (.loop 1 ⟨8, 0, 0, 0⟩) ∧
    refused (.waitS .none ⟨256, 0, 0, 0⟩) ∧ refused (.dload .none 1 1 65536) := by decide

/-- The subfields of V words. -/
theorem test_wf_vector :
    refused (.vadd .none ⟨0, 1, 0, 1⟩ ⟨0, 0, 0, 0, 0, 0, 0, 0⟩) ∧ refused (.vadd .none ⟨0, 0, 1, 0⟩ ⟨0, 0, 0, 0, 0, 0, 0, 0⟩) ∧
    refused (.vadd .none ⟨0, 0, 0, 0⟩ ⟨0, 32, 0, 0, 0, 0, 1, 0⟩) ∧ refused (.vadd .none ⟨0, 0, 0, 0⟩ ⟨0, 1, 0, 0, 0, 1, 1, 0⟩) ∧
    refused (.vadd .none ⟨0, 0, 0, 0⟩ ⟨0, 0, 0, 0, 0, 0, 0, 1⟩) ∧ refused (.vdiv .none ⟨0, 0, 1, 1⟩ ⟨0, 0, 0, 0, 0, 0, 0, 0⟩) ∧
    refused (.vsqrt .none ⟨0, 0, 0, 1⟩ ⟨0, 0, 0, 0, 0, 0, 0, 0⟩) ∧ refused (.vsqrt .none ⟨0, 0, 0, 0⟩ ⟨0, 1, 0, 0, 0, 0, 0, 0⟩) ∧
    refused (.vmin .none ⟨0, 1, 0, 0⟩ ⟨0, 0, 0, 0, 0, 0, 0, 0⟩) ∧ refused (.vabs .none ⟨0, 0, 0, 2⟩ ⟨0, 0, 0, 0, 0, 0, 0, 0⟩) ∧
    refused (.vand .none ⟨0, 0, 0, 1⟩ ⟨0, 0, 0, 0, 0, 0, 0, 0⟩) ∧ refused (.vmulh .none ⟨0, 0, 0, 0⟩ ⟨0, 0, 0, 0, 0, 0, 0, 0⟩) ∧
    refused (.vcmp .none ⟨0, 2, 0, 1⟩ ⟨0, 0, 0, 0, 0, 0, 0, 1⟩) ∧ refused (.vcmp .none ⟨0, 3, 0, 0⟩ ⟨0, 0, 0, 0, 0, 0, 0, 1⟩) ∧
    refused (.vcvt .none ⟨0, 1, 1, 0⟩ ⟨0, 0, 0, 0, 0, 0, 0, 0⟩) ∧ refused (.vclass .none ⟨0, 0, 0, 1⟩ ⟨0, 0, 0, 0, 0, 0, 0, 0⟩) ∧
    refused (.vidx .none ⟨0, 0, 0, 0⟩ ⟨1, 0, 0, 0, 0, 0, 0, 0⟩) ∧ refused (.vbcast .none ⟨0, 0, 0, 0⟩ ⟨0, 0, 0, 0, 0, 0, 0, 0⟩) ∧
    refused (.vred .none ⟨0, 1, 0, 0⟩ ⟨0, 0, 0, 0, 0, 0, 0, 1⟩) ∧ refused (.vcpush .none ⟨8, 0, 0, 0⟩ ⟨0, 0, 0, 0, 0, 0, 0, 0⟩) ∧
    refused (.vcpop .none ⟨0, 0, 0, 0⟩ ⟨8, 1, 0, 0, 0, 0, 1, 0⟩) ∧ refused (.vccnt .none ⟨0, 0, 0, 0⟩ ⟨1, 1, 0, 0, 0, 0, 0, 0⟩) ∧
    refused (.vrng .none ⟨0, 0, 0, 0⟩ ⟨3, 1, 0, 0, 0, 0, 1, 0⟩) ∧ refused (.vpack .none ⟨0, 0, 1, 0⟩ ⟨0, 0, 0, 0, 0, 0, 0, 0⟩) ∧
    refused (.lgath .none 0 0 ⟨0, 1, 0, 0, 0, 0, 0, 0⟩) := by decide

/-- Encodings that the spec refuses: ENG 7, a token action with itself, an unassigned OP, a missing and an unwanted extension
word, a `res` bit (R33). -/
theorem test_words_refused :
    ((decodeWords 0b111_0_00_000_0000000_0000000000000000 none).toOption = none) ∧
    ((decodeWords 0b000_0_01_000_0000000_0000000000000000 none).toOption = none) ∧
    ((decodeWords 0b000_0_00_001_0000000_0000000000000000 none).toOption = none) ∧
    ((decodeWords 0b110_0_01_000_1111100_0000000000000000 none).toOption = none) ∧
    ((decodeWords 0b000_0_00_000_0101111_0000000000000000 none).toOption = none) ∧
    ((decodeWords 0b000_0_00_000_0110000_0000000000000000 none).toOption = none) ∧
    ((decodeWords 0b000_1_00_000_1111100_0000000000000000 (some 0)).toOption = none) ∧
    ((decodeWords 0b000_0_00_000_0000000_0000000000000001 none).toOption = none) := by decide
/-! ### The encodings that the spec writes out -/

/-- The encodings of chapters 2 and 6 to 8. -/
theorem test_worked_encodings_1 : words [
    (0x1000398A, some 0x00000060, .add .none 7 6 5 (some ⟨3, 0⟩)),
    (0x5A004000, some 0x00A41408, .vadd (.post .M) ⟨0x200, 0, 0, 0⟩ ⟨0x005, 0x105, 0, 0, 1, 0, 0, 0⟩),
    (0x307E0000, some 0x00FFFFFF, .waitL .none ⟨0, 255, 255, 255⟩),
    (0x1030208E, some 0x02800008, .ld .none 4 2 7 ⟨0, 0, 2, 1, 0, 0, 8⟩),
    (0x103328C0, some 0x03300040, .strl .none 5 3 0 ⟨0, 0, 3, 0, 3, 0, 0x40⟩),
    (0x1035408C, some 0x03300000, .cas .none 8 2 6 ⟨0, 0, 3, 0, 3, 0, 0⟩),
    (0x102A188A, some 0x00001000, .ksub .none 3 2 5 4096),
    (0x00392802, none, .qpush .none 5 2 none),
    (0x003A3000, none, .qpop .none 6 none),
    (0x003B0003, none, .bar .none 0 3),
    (0xB8802090, some 0x00000000, .cpy (.post .L) 4 2 8 ⟨0, 0, 0, 0, 0, 0, 0⟩),
    (0x10372198, some 0x00010000, .nmc .none 4 6 12 ⟨0, 0, 0, 0, 0, 1, 0⟩),
    (0x10401880, some 0x00000040, .sset .none 3 2 0 ⟨0, 0, 0, 0, 0, 0, 0x40⟩),
    (0x20033000, none, .sgoL .none 3 none),
    (0x30043000, some 5, .sskipL .none 3 5),
    (0x20053000, none, .srewL .none 3 none),
    (0x60064000, none, .sdropW .none 4 none),
    (0x2900340A, none, .lsv (.post .V) 3 0x205 none),
    (0x30013400, some 0xA0000000, .lgath .none 3 0x200 ⟨0x500, 0, 0, 0, 0, 0, 0, 0⟩),
    (0xC0071800, none, .blend 3), (0xC0081800, none, .bret 3),
    (0x40300820, none, .bhint .none 1 2 0 none),
    (0x40301010, none, .bhint .none 2 1 0 none),
    (0x40302818, none, .bhint .none 5 1 1 none),
    (0x40311800, none, .bwake .none 3 0 none),
    (0x40322800, none, .balloc .none 5 0 none),
    (0x40322801, none, .balloc .none 5 1 none),
    (0x40333009, none, .bstat .none 6 9 none)] = true := by decide +kernel

/-- The encodings of chapters 9 to 12. -/
theorem test_worked_encodings_2 : words [
    (0x500368E8, some 0x00240800, .vfma .none ⟨0x347, 1, 0, 0⟩ ⟨0x001, 0x102, 0, 0, 0, 0, 0, 0⟩),
    (0x50188011, some 0x20080000, .vcmp .none ⟨0x400, 2, 0, 1⟩ ⟨0x100, 0x200, 0, 0, 0, 0, 0, 0⟩),
    (0x501B2005, some 0x00000000, .vcvt .none ⟨0x100, 0, 1, 1⟩ ⟨0, 0, 0, 0, 0, 0, 0, 0⟩),
    (0x501B2004, some 0x00000000, .vcvt .none ⟨0x100, 0, 1, 0⟩ ⟨0, 0, 0, 0, 0, 0, 0, 0⟩),
    (0x50208000, some 0x20000000, .vred .none ⟨0x400, 0, 0, 0⟩ ⟨0x100, 0, 0, 0, 0, 0, 0, 0⟩),
    (0x50240040, some 0x20080004, .vcpush .none ⟨2, 0, 0, 0⟩ ⟨0x100, 0x200, 0, 0, 0, 1, 0, 0⟩),
    (0x50256000, some 0x00401C02, .vcpop .none ⟨0x300, 0, 0, 0⟩ ⟨2, 7, 0, 0, 0, 0, 1, 0⟩),
    (0x5026A000, some 0x00400000, .vccnt .none ⟨0x500, 0, 0, 0⟩ ⟨2, 0, 0, 0, 0, 0, 0, 0⟩),
    (0x5027A000, some 0x01000C02, .vrng .none ⟨0x500, 0, 0, 0⟩ ⟨8, 3, 0, 0, 0, 0, 1, 0⟩),
    (0x5028C000, some 0x20601002, .vql6 .none ⟨0x600, 0, 0, 0⟩ ⟨0x103, 4, 0, 0, 0, 0, 1, 0⟩),
    (0x90002600, some 0x011F80FF, .mmul .none 2 3 0 ⟨0, 0, 1, 0, 0, 63, 255⟩),
    (0x96802600, some 0x01008027, .mmul (.wait .C) 2 3 0 ⟨0, 0, 1, 0, 0, 1, 39⟩),
    (0x90011A01, some 0x02DF803F, .mmulb .none 1 5 1 ⟨0, 0, 2, 1, 2, 63, 63⟩),
    (0x90021800, some 0x3F000000, .mscal .none 3 0x3F000000),
    (0x80031800, none, .mclr .none 3 none),
    (0x90060000, some 0x0003F100, .mbset .none 0 0x3F100),
    (0x90060004, some 0x3F600000, .mbset .none 4 0x3F600000),
    (0x8004001D, none, .mjoin .none 3 1 1), (0x80040019, none, .mjoin .none 3 0 1), (0x80050001, none, .mleave .none 1),
    (0xB008008C, some 0x00000004, .dload .none 2 6 4),
    (0xA0090140, none, .dstart .none 5), (0xA00A0000, none, .dstop .none),
    (0xA00B2001, none, .dstat .none 4 0 1 none), (0xA00B2004, none, .dstat .none 4 1 0 none),
    (0xC0090000, none, .sync), (0xC0050000, none, .yield), (0xC0060000, none, .endW),
    (0x0008214C, none, .mul .none 4 5 6 none), (0x000C214C, none, .divu .none 4 5 6 none),
    (0x10182140, some 0x0000120F, .ext .none 4 5 1 8 15),
    (0x101E2143, some 2, .shi .none 4 5 3 2), (0x001F4298, none, .add128 .none 8 10 12 none),
    (0x1020214C, some 2, .pcmp .none 4 5 6 2), (0x00212001, none, .pset .none 4 1 none),
    (0x0022214C, none, .pand .none 4 5 6 none), (0x00252140, none, .pnot .none 4 5 none),
    (0x00262000, none, .ptox .none 4 none), (0x00270100, none, .xtop .none 4 none)] = true := by decide +kernel

/-- The encodings of chapters 13 to 20. -/
theorem test_worked_encodings_3 : words [
    (0x004C0143, none, .jguard .none 5 3), (0x004D1980, none, .jpatch .none 3 6),
    (0x004E0005, none, .jmark .none 5), (0x004F2000, none, .jstat .none 4 0),
    (0x1048208C, some 0, .tcont .none 4 2 6 ⟨0, 0, 0, 0, 0, 0, 0⟩),
    (0x00490045, none, .tevt .none 0 1 5 none), (0x00492005, none, .tevt .none 4 0 5 none),
    (0x004938BF, none, .tevt .none 7 2 63 none),
    (0x004A2146, none, .targ .none 4 5 1 2 none), (0x004A4803, none, .targ .none 9 0 0 3 none),
    (0x00510000, none, .oprel .none), (0x00630000, none, .reti .none), (0x00640000, none, .decline .none),
    (0x00620009, none, .trap .none 9), (0x0065038A, none, .ctxsave .none 14 5), (0x0066038A, none, .ctxload .none 14 5),
    (0x00602001, none, .csrr .none 4 1), (0x00612802, none, .csrw .none 5 2),
    (0x10325092, some 0x03100400, .ldaq .none 10 2 9 ⟨0, 0, 3, 0, 1, 0, 0x400⟩),
    (0xD0000800, some 0xFFFFFFFC, .br 1 0 0xFFFFFFFC),
    (0x10333892, some 0x27100800, .strl .none 7 2 9 ⟨4, 1, 3, 0, 1, 0, 0x800⟩),
    (0x10333892, some 0x23300800, .strl .none 7 2 9 ⟨4, 0, 3, 0, 3, 0, 0x800⟩),
    (0x00360004, none, .fence .none 0 4),
    (0xD000B800, some 0x00000013, .br 23 0 0x13),
    (0x5DA70000, some 0x01000C02, .vrng (.both .W) ⟨0, 0, 0, 0⟩ ⟨8, 3, 0, 0, 0, 0, 1, 0⟩),
    (0x60031000, none, .sgoW .none 1 none),
    (0x6D001000, none, .wsv (.both .V) 1 0 0 none),
    (0xD0010000, some 0xFFFFFFEB, .jmp 0xFFFFFFEB),
    (0x103470A4, some 0x03380008, .amo .none 14 2 18 ⟨0, 0, 3, 0, 3, 8, 8⟩),
    (0x003B0001, none, .bar .none 0 1),
    (0x96801800, some 0x0201801F, .mmul (.wait .C) 1 4 0 ⟨0, 0, 2, 0, 0, 3, 31⟩),
    (0x96803A00, some 0x01218003, .mmul (.wait .C) 3 5 0 ⟨0, 0, 1, 0, 1, 3, 3⟩),
    (0xBA032890, some 0x00820001, .bload (.post .M) 5 2 8 ⟨0, 0, 0, 2, 0, 2, 1⟩),
    (0x68802C07, none, .wsv (.post .L) 2 0x603 1 none),
    (0x25833000, none, .sgoL (.wait .W) 3 none), (0x26061000, none, .sdropL (.wait .M) 1 none),
    (0x501E2000, some 0x00003003, .vbcast .none ⟨0x100, 0, 0, 0⟩ ⟨0, 12, 0, 0, 0, 0, 1, 1⟩)] = true := by decide +kernel
/-! ### Values that the spec works out -/

/-- R96 and R97: with key 0 and counter 0, lane 0 returns 0x6627E8D5. -/
theorem test_philox : (vrngLanes 0 0).head? = some 0x6627E8D5 := by decide +kernel
/-- The packing example of R86 to R88. -/
theorem test_packing : packGroup [0x04, 0x3F] = 0x410410410FC4 ∧ toBytes 6 0x410410410FC4 = [0xC4, 0x0F, 0x41, 0x10, 0x04, 0x41] := by
  decide +kernel
/-- The worked block sum of chapter 3: the products, S, and FP32 0x3FFE6780 with no flag. -/
theorem test_block_sum :
    let a := [0x04, 0x3F] ++ List.replicate 30 0x10
    let b := [0x02, 0x00] ++ List.replicate 30 0x10
    l6Product 0x04 0x02 = 23726592 ∧ l6Product 0x3F 0x00 = -7053952 ∧
    roundEx 24 false 0 (l6BlockSum a b 127 127) = (0x3FFE6780, 0) := by decide +kernel
/-- The worked quantisation of R94: E, the codes, QZ and NX, and what the codes decode to. -/
theorem test_quantise :
    let r := quantL6 ([0x40400000, 0xBF800000, 0x3E800000, 0x3A83126F] ++ List.replicate 28 0)
    r.1 = 125 ∧ r.2.1 = [0x0E, 0x28, 0x00, 0x10] ++ List.replicate 28 0x10 ∧ r.2.2 = fNX + fQZ ∧
    (roundEx 24 false 0 (decodeL6 0x28 125)).1 = 0xBF800000 ∧ (roundEx 24 false 0 (decodeL6 0x00 125)).1 = 0x3E800000 := by
  decide +kernel
/-- Chapter 9's tree sum against running sum: 0x4B800001 exactly, and 0x4B800000 in every lane with NX. -/
theorem test_tree_and_scan :
    let a := [0x4B800000, 0, 0x3F800000, 0x3F800000] ++ List.replicate 60 0
    let m : LMode := ⟨0, 0, false, false⟩
    (vredLanes m false a).1.take 2 = [0x4B800001, 0] ∧ (vredLanes m false a).2 = 0 ∧
    scanFrom m false a 0 0 = (List.replicate 64 0x4B800000, fNX) := by decide +kernel
/-- The capability of chapter 4's worked translation grants R and W over 64 KiB. -/
theorem test_capability_fields :
    let c : Cap := ⟨0x00300000000100000001_0100C0850000, true⟩
    c.space = 0 ∧ c.perm = permR + permW ∧ c.len = 0x10000 ∧ c.base = 0x00010100C0850000 ∧
    c.check 0x1230 4 permR = .ok 0x00010100C0851230 ∧ c.check 0xFFFD 4 permR = .error .kbound ∧
    c.check 0 4 permX = .error .kperm := by decide +kernel

/-! ### Single steps -/

/-- Unit 0 after one word. -/
def unitAfter (U : UnitSt) (i : Instr) : UnitSt :=
  match exec i (before U i) with | .next t => t.unit 0 | _ => UnitSt.reset

/-- R325: the sum wraps. -/
theorem test_add_wraps : (unitAfter (unitWith [(5, 2 ^ 64 - 1), (6, 2)] []) (.add .none 4 5 6 none)).xS 4 = 1 := by
  decide +kernel
/-- R325: x0 reads as zero and a write to it is discarded. -/
theorem test_x0_stays_zero : (unitAfter (unitWith [(5, 7)] []) (.addi .none 0 5 1 none)).xS 0 = 0 := by decide +kernel
/-- R41, R42: a guard that is false leaves the register alone, and the PC moves past both words. -/
theorem test_guard_false :
    let U := unitAfter (unitWith [(4, 9), (5, 7)] []) (.add .none 4 5 5 (some ⟨3, 0⟩))
    U.xS 4 = 9 ∧ U.pcOf .S = 2 := by decide +kernel
/-- R76: division by zero gives all ones, and the most negative value by −1 gives itself. -/
theorem test_division_corners :
    sdivW 5 0 = 0xFFFFFFFFFFFFFFFF ∧ uremW 5 0 = 5 ∧ sdivW 0x8000000000000000 (-1) = 0x8000000000000000 ∧
    sremW 0x8000000000000000 (-1) = 0 ∧ sdivW (-7) 2 = -3 ∧ sremW (-7) 2 = -1 := by decide +kernel
/-- R326: ADD128 carries from the even register into the odd one. -/
theorem test_add128_carries :
    let U := unitAfter (unitWith [(10, 2 ^ 64 - 1), (12, 1)] []) (.add128 .none 8 10 12 none)
    U.xS 8 = 0 ∧ U.xS 9 = 1 := by decide +kernel
/-- R328: .LT compares signed values. -/
theorem test_pcmp_signed : (unitAfter (unitWith [(5, 2 ^ 64 - 1), (6, 0)] []) (.pcmp .none 4 5 6 2)).pS 4 = true := by
  decide +kernel
/-- R445, R433: TRAP 9 enters the supervisor handler with CAUSE SWTRAP. -/
theorem test_trap_enters :
    let U := unitAfter (unitWith [] []) (.trap .none 9)
    U.csr.mode = true ∧ U.trap.depth = 1 ∧ U.csr.cause.toNat % 256 = 0x11 := by decide +kernel

/-! ### Witnesses of single clauses

Where a clause of a statement has conditions of its own, a state that meets them. -/

theorem witness_Waits_clause : { (wNopS.swordCheck.unit 0).work with
      loads := (wNopS.swordCheck.unit 0).work.loads + wNopS.swordCheck.heldRequests 0 }.under ⟨0, 0, 0, 0⟩ = true ∧
    { ((wNopL.freshen 0 .L .none).unit 0).work with
      loads := ((wNopL.freshen 0 .L .none).unit 0).work.loads + (wNopL.freshen 0 .L .none).heldRequests 0 }.under ⟨0, 0, 0, 0⟩ =
        true := by decide +kernel
theorem witness_Sset_clause : wSset.swordCheck.sopReady 0 ⟨(wSset.swordCheck.flight 0 .S (sRec wSset) .none).id, .ld,
      ⟨1, 0, some (keyOf 16 0)⟩, 64, false, 0, 3, 0, 0, Cap.null, none, false⟩ (wSset.swordCheck.unit 0).work.sops = true ∧
    (wSset.swordCheck.unit 0).kPend 0 = false := by decide +kernel
theorem witness_Tcont_clause : ((wTcont.swordCheck.unit 0).kS 2).space = 0 ∧ ((wTcont.swordCheck.unit 0).xS 4).toNat = 1 ∧
    (((wTcont.swordCheck.graph (wTcont.swordCheck.unit 0).id.graph).map fun G => G.unfinished).getD 0) < 4096 ∧
    wTcont.swordCheck.hub.conts.length < 4096 := by decide +kernel

/-- A CSRW in the supervisor handler, as a step of its own and as the event of its opcode-table row; a CSRW whose token finds no
room. -/
def wCsrwSup (csr v : Nat) : State := inSuper [(4, v)] [] (.csrw .none 4 csr)
def wCsrwPost : State := tune (inTask [(4, 5000)] [] (.csrw (.post .V) 4 0x010)) fun U => U.setTokens .S .V 8
theorem witness_CsrwPost : SReady wCsrwPost 0 (sRec wCsrwPost) (.post .V) none [4] ∧ (wCsrwPost.swordCheck.unit 0).sIdle ∧
    (wCsrwPost.swordCheck.unit 0).postRoom (wCsrwPost.swordCheck.flight 0 .S (sRec wCsrwPost) (.post .V)) = false ∧
    (wCsrw 0x010 5000 |>.swordCheck.unit 0).postRoom ((wCsrw 0x010 5000).swordCheck.flight 0 .S (sRec (wCsrw 0x010 5000)) .none) =
      true :=
  ⟨ready_of (by decide +kernel), by decide +kernel⟩
theorem witness_CsrwEvents_supervisor : (∀ q ∈ [(0x000, 32), (0x000, 16), (0x070, 2 ^ 17), (0x070, 2 ^ 16)],
      (wCsrwSup q.1 q.2).csrwHere 0 q.1 q.2 = some (.none, 4) ∧ ((wCsrwSup q.1 q.2).swordCheck.unit 0).sIdle ∧
      ((wCsrwSup q.1 q.2).swordCheck.unit 0).csr.mode = true ∧
      ((wCsrwSup q.1 q.2).swordCheck.unit 0).postRoom
        ((wCsrwSup q.1 q.2).swordCheck.flight 0 .S (sRec (wCsrwSup q.1 q.2)) .none) = true) ∧
    { wCsrwSup 0x000 32 with who := (0, .S) } = wCsrwSup 0x000 32 := ⟨by decide +kernel, rfl⟩
theorem witness_CsrwEvents_ready : SReady (wCsrwSup 0x000 32) 0 (sRec (wCsrwSup 0x000 32)) .none none [4] ∧
    SReady (wCsrwSup 0x000 16) 0 (sRec (wCsrwSup 0x000 16)) .none none [4] ∧
    SReady (wCsrwSup 0x070 (2 ^ 17)) 0 (sRec (wCsrwSup 0x070 (2 ^ 17))) .none none [4] ∧
    SReady (wCsrwSup 0x070 (2 ^ 16)) 0 (sRec (wCsrwSup 0x070 (2 ^ 16))) .none none [4] :=
  ⟨ready_of (by decide +kernel), ready_of (by decide +kernel), ready_of (by decide +kernel), ready_of (by decide +kernel)⟩

theorem witness_TrapEntry_clause : (wTaskV.unit 0).settled ∧ (wTask.unit 0).settled ∧
    2 ≤ ((inHandlerAt 2 true [] [] .nopA).unit 0).trap.depth :=
  ⟨settled_of (by decide +kernel), settled_of (by decide +kernel), by decide +kernel⟩
theorem witness_Ctx_clause : (∀ q ∈ allBanks, (wCtxsave.swordCheck.unit 0).fallDue q.1 q.2 = false) ∧
    ((wCtxsave.swordCheck.unit 0).kS 2).space = 0 ∧
    (((wCtxsave.swordCheck.unit 0).kS 2).base + ((wCtxsave.swordCheck.unit 0).xS 5).toNat) % 4096 = 0 ∧
    ((wCtxload.swordCheck.unit 0).kS 2).tag = true ∧
    ((wCtxload.swordCheck.unit 0).xS 5).toNat + ctxLen ≤ ((wCtxload.swordCheck.unit 0).kS 2).len ∧
    (∀ s ∈ [wCtxloadOp, wCtxsaveOp], (s.unit 0).work.sops = [sop0 s] ∧ (s.unit 0).work.wops = [] ∧
      s.replayHead 0 (sop0 s).id = true) := by decide +kernel

/-- END with five engines there and S last: the unit ends. -/
def wEndMeet : State := meeting .endW id
theorem witness_EndCompletes : Ready wEndMeet 0 .S (hRec wEndMeet) .none none [] ∧ (wEndMeet.unit 0).inHandler = false ∧
    (wEndMeet.arrive 0 .S (hRec wEndMeet)).task ((wEndMeet.arrive 0 .S (hRec wEndMeet)).unit 0).id.task = some taskA ∧
    (wEndMeet.arrive 0 .S (hRec wEndMeet)).endReady 0 taskA = true :=
  ⟨ready_of (by decide +kernel), by decide +kernel⟩
theorem witness_Blend_pending : (((wBlend 7 0x80 0).arrive 0 .S (hRec (wBlend 7 0x80 0))).unit 0).writesPending 7 = false ∧
    (((wBret 7 0x80 0x80).arrive 0 .S (hRec (wBret 7 0x80 0x80))).unit 0).matrixPending 7 = false ∧
    (wYield.unit 0).full .S = false ∧ (wYieldL.unit 0).full .L = false := by decide +kernel

theorem witness_LoadWords_clause : (∀ s ∈ [wLsv, wLbrd, wLsvEnd], ((s.freshen 0 .L .none).unit 0).dropping 3 = false) ∧
    (∀ s ∈ [wLgath 0, wLgath 16], ((s.freshen 0 .L .none).unit 0).dropping 3 = false ∧
      (((s.freshen 0 .L .none).unit 0).stream 3).cons = 0 ∧
      ((s.freshen 0 .L .none).parityChk 0 ((List.range 64).map (specKey (spec 1 0)))).isNone = true) := by decide +kernel
/-- An LSV whose token finds the FIFO full when its data is there. -/
def wLsvPost : State :=
  tune (after (exec (.lsv (.post .V) 3 (spec 4 0) none)
    (atEng (withStream (vecUnit [] []) (readStream dRow)) (.lsv (.post .V) 3 (spec 4 0) none)))) fun U => U.setTokens .L .V 8
def postFlight : Flight := ((wLsvPost.unit 0).work.fl.head?).getD lFlight
theorem witness_LoadWordPerformed_post : wLsvPost.halted 0 = false ∧ (wLsvPost.unit 0).headOf .L = some postFlight ∧
    postFlight.wait = .op ∧ postFlight.eff = [laneWrites (spec 4 0) (padLanes [0, 1, 2, 3, 4, 5, 6, 0x3F800000])] ∧
    (wLsvPost.unit 0).postRoom postFlight = false := by decide +kernel

/-- A stream word before L or W, with a live stream beside an entry of the shadow queue. -/
def wSgoLive (w : Bool) : State :=
  atEng (withStream (vecUnit [] []) { readStream dRow with shadow := [dRow] }) (if w then .sgoW .none 3 none else .sgoL .none 3 none)
def ctlAt (w : Bool) (s : State) : UnitSt := if w then s.unit 0 else (s.freshen 0 .L .none).unit 0
theorem witness_StreamControl_clause : ∀ w,
    (∀ s ∈ [wSgo w, wSgoLive w, wCtl w .read, wCtl w .write, wCtl w .idle], (ctlAt w s).dropping 3 = false) ∧
    sgoDesc (ctlAt w (wSgo w)) (eRec (wSgo w) (engOf w)) 3 = some dRow ∧ ((ctlAt w (wSgo w)).stream 3).mode = .idle ∧
    sgoDesc (ctlAt w (wSgoLive w)) (eRec (wSgoLive w) (engOf w)) 3 = some dRow ∧ ((ctlAt w (wSgoLive w)).stream 3).mode ≠ .idle ∧
    (∀ m ∈ [SMode.read, .write, .idle], ((ctlAt w (wCtl w m)).stream 3).mode = m ∧
      ((ctlAt w (wCtl w m)).stream 3).active = some dRow) := by decide +kernel
theorem witness_StreamControl_live (w : Bool) :
    Ready (wSgoLive w) 0 (engOf w) (eRec (wSgoLive w) (engOf w)) .none none [] := by
  cases w
  · exact ready_of (by decide +kernel)
  · exact ready_of (by decide +kernel)
/-- A line that returns with poison. -/
def wReturnBad : State := { wReturn with mem := wReturn.mem.setPoison (keyOf 16 0) }
theorem witness_ReadAhead_poison : wReturnBad.halted 0 = false ∧ wReturnBad.replayHead 0 (streamId 3 0) = true ∧
    wReturnBad.mem.poisonFor (.unit 0) (keyOf 16 0 / 64 * 64) 64 = true ∧ ((wReturnBad.unit 0).stream 3).mode = .read := by
  decide +kernel

theorem witness_StoreWords_clause : (∀ s ∈ [wWsv, wWacc, wWscat], (s.unit 0).dropping 3 = false ∧
      (s.parityChk 0 ((List.range 64).map (specKey (spec 1 0)))).isNone = true ∧ (s.unit 0).room false = true ∧
      ((s.unit 0).stream 3).mode = .write ∧ ((s.unit 0).stream 3).active = some dRow) ∧
    (wWscat.parityChk 0 ((List.range 64).map (specKey (spec 1 0)) ++ (List.range 64).map (specKey (spec 1 0)))).isNone = true ∧
    capSp.space ≠ 0 ∧ wWflush.mem.madePerformed 0 1 4 = true ∧ wWop.replayHead 0 0 = true := by decide +kernel

theorem witness_VectorWords_clause : (wVadd.parityChk 0 (VUse.readKeys ⟨some (spec 1 0), some (spec 2 0), some (spec 4 0), false⟩)).isNone = true ∧
    (wVidx.parityChk 0 (VUse.readKeys ⟨none, none, some (spec 4 0), false⟩)).isNone = true ∧ (wVadd.unit 0).work.fl = [] := by
  decide +kernel
def wVcpushNone : State := atV (.vcpush .none ⟨3, 0, 0, 0⟩ (xv 1 3)) []
theorem witness_ConditionalStreams_clause :
    (wVcpush.parityChk 0 ((List.range 64).map (specKey (spec 1 0)) ++ (List.range 64).map (specKey (spec 2 0)))).isNone = true ∧
    (wVcpushNone.parityChk 0 ((List.range 64).map (specKey (spec 1 0)) ++ (List.range 64).map (specKey (spec 3 0)))).isNone = true ∧
    (wVcpushNone.oneCluster 0 = true ∧ (wVcpushNone.unit 0).vHazard [1, 3] = false ∧
      (wVcpushNone.unit 0).bankChk false [(1, true), (3, true)] = .ok ∧
      (((wVcpushNone.unit 0).lanes (spec 1 0)).zip ((wVcpushNone.unit 0).lanes (spec 3 0))).filterMap
        (fun p => if p.2 ≠ 0 then some p.1 else none) = []) := by decide +kernel
theorem witness_ConditionalStreams_none : Ready wVcpushNone 0 .V (eRec wVcpushNone .V) .none (some ⟨0, 0⟩) [] :=
  ready_of (by decide +kernel)

/-- A bank word in a handler, where S issues it. -/
def wBhintS : State :=
  let s := inSuper [] [] (.bhint .none 7 2 0 none)
  { s with who := (0, .S), supText := [((s.unit 0).pcOf .S, word1 (.bhint .none 7 2 0 none))] }
theorem witness_BankWords_handler : Ready wBhintS 0 .S (hRec wBhintS) .none none [] := ready_of (by decide +kernel)
theorem witness_BankEvents_clause : (∀ st ∈ [Supply.full, .retain, .off], ((wFall st).unit 0).headOf .V = none) ∧
    (wDup.unit 0).dcur.getLsbD 1 = false ∧ (∀ k, SMap.get false (wDup.unit 0).parity k = false) :=
  ⟨by decide +kernel, by decide +kernel, fun _ => rfl⟩

theorem witness_MatrixProducts_clause : (∀ s ∈ [wMmul, wMmulb, wMmulS], s.relocking 0 = false ∧ s.halted 0 = false) ∧
    ((wMmul.freshen 0 .M .none).unit 0).isMember = false ∧ ((wMmulS.freshen 0 .M .none).unit 0).group ≠ none := by decide +kernel
/-- A shared panel whose group is in no trap and in lockstep. -/
def sharedPanel : MOp := { mulPanel with shr := true, round := 7 }
def wSharedPanel : State :=
  ((tune (wTile sharedPanel) fun U => { U with group := some (4, true) }).setUnit 1
    { matUnit 2 with group := some (4, false), work := { Work.reset with mops := [{ sharedPanel with src := 1 }], tiles := 1 } }).setCluster 0
    { Cluster.reset with groups := [(4, ⟨2, [(0, true), (1, false)], true, [], []⟩)] }
theorem witness_TileOperations_clause :
    (∀ o ∈ [mopA 0 0 0 none [], mopA 0 0 0 (some 0x40000000) [], mulDone, mulPanel], (wTile o).relocking 0 = false ∧
      ((wTile o).parityChk 0 o.readKeys).isNone = true) ∧
    wSharedPanel.roundHeld 0 = false ∧ wSharedPanel.inLockstep 0 sharedPanel = true ∧ wSharedPanel.relocking 0 = false ∧
    (wSharedPanel.unit 0).work.mops = sharedPanel :: [] ∧ (wSharedPanel.bPoison 0 sharedPanel).isNone = true ∧
    (wSharedPanel.parityChk 0 sharedPanel.readKeys).isNone = true := by decide +kernel

theorem witness_SharedGroups_clause : ∀ src < 2, 0 ∈ (((wJoin src false { groupB with joining := [0] }).freshen 0 .M .none).groupOf 0 2).joining ∧
    0 ∈ (((wLeave false none { groupB with leaving := [0] }).freshen 0 .M .none).groupOf 0 2).leaving := by decide +kernel

theorem witness_Moves_clause : (∀ i ∈ movesOfC, ((atC i).unit 0).inFlight < 32) ∧ (wMove (moveA 0 1)).replayHead 0 9 = true ∧
    (wMove (moveA 2 0)).replayHead 0 9 = true ∧ (moveA 2 0).overlap = false ∧ (moveA 2 0).rcD = false ∧ (moveA 2 0).dst.space = 1 ∧
    (moveA 2 0).rowb = 64 ∧ (moveA 2 0).dst.addr + 64 ≤ 0x100000 := by decide +kernel
theorem witness_Windows_clause : (∀ act, ((wWdef act).unit 0).inFlight < 32 ∧ ((wWdef act).unit 0).work.copies < 1023 ∧
      ((wWadv act 0 2).unit 0).inFlight < 32 ∧ ((wWadv act 0 2).unit 0).tape.run = 0 ∧ ((wWrel act 2).unit 0).work.fl = []) ∧
    (∀ n < 3, (wFill n).replayHead 0 (((wFill n).unit 0).winWord 2) = true ∧ (((wFill n).unit 0).win 2).parts = []) ∧
    checkedCap capDev = false ∧ checkedCap capRing = false := by decide +kernel

theorem witness_NearMemory_clause : (wNmc.swordCheck.unit 0).acquiring = false ∧
    (∀ op < 5, (∀ x ∈ ((wNm (nmcA op 0 0 30)).die 0).nm, x.st ≠ 2) ∧
      ((wNm (nmcA op 0 0 30)).die 0).nm.find? (fun c => c.st = 0 && nmFirst ((wNm (nmcA op 0 0 30)).die 0).nm c) =
        some (nmcA op 0 0 30)) ∧
    (wNm (nmcA 1 7 0 30)).die 0 = { Die.reset with nm := [nmcA 1 7 0 30] } ∧
    ((wNm (nmcA 1 0 0 6)).die 0).nm.find? (fun c => c.st = 0 && nmFirst ((wNm (nmcA 1 0 0 6)).die 0).nm c) =
      some (nmcA 1 0 0 6) := by decide +kernel

theorem witness_Dovetail_clause : (∀ st < 3, ((wDload st).unit 0).id.dove = true ∧ ((wDload st).unit 0).dove.loading = none) ∧
    (((wDload 0).unit 0).kS 2).base = 0 ∧ ((eRec (wDload 0) .C).vals.headD 0).toNat = 0 ∧
    (∀ st < 3, ((wDstart st).unit 0).work.fl = [] ∧ ((wDstart st).unit 0).dove.status = st) := by decide +kernel
theorem witness_Dstart_running : Ready (wDstart 2) 0 .C (eRec (wDstart 2) .C) .none none [] := ready_of (by decide +kernel)
/-- The places of the entries of a run: the SEND of beat 0 on link 1, the WRITE of beat 1 from link 2. -/
theorem witness_DovetailRuns_clause :
    (dctxA 2 1 0 0).ents[0]? = some ⟨0, 1, 1, 0, 1, 0x800, 0, 0⟩ ∧ (dctxA 2 2 2 1).ents[1]? = some ⟨1, 2, 2, 0, 1, 0x840, 0, 1⟩ ∧
    (∀ q ∈ (dctxA 2 1 0 0).ents.take 0, q.st = 2) ∧ (∀ q ∈ (dctxA 2 2 2 1).ents.take 1, q.st = 2) ∧
    (dctxDev 2 2 1).place 1 = 0 ∧ ((dctxDev 2 2 1).caps.getD 0 Cap.null).space = 0 ∧
    (wRun (dctxA 2 2 2 1) [] 4 64).time.toNat ≤ (dctxA 2 2 2 1).t0 + (1 + (dctxA 2 2 2 1).tout) * (dctxA 2 2 2 1).beatns ∧
    (dctxA 2 2 1 0).ents[0]? = some ⟨0, 1, 1, 0, 1, 0x800, 0, 1⟩ := by decide +kernel

/-- S at a QPOP of an empty stage queue, and L at a word whose token finds no room, both beyond TOKWD. -/
def wOwnWait : State :=
  tune (inTask [] [] (.qpop .none 4 none)) fun U => ({ U with csr := { U.csr with tokwd := 100 } }).setOwnWait .S 102
def wPushWait : State :=
  tune wPost fun U => (({ U with csr := { U.csr with tokwd := 100 } }).setTokens .L .V 8).setPushWait .L 102
theorem witness_TokenTimeout : (wOwnWait.halted 0 = false ∧ wOwnWait.runs 0 = true ∧
      (wOwnWait.unit 0).waitOf .S ≤ (wOwnWait.unit 0).csr.tokwd + 1 ∧ (wOwnWait.unit 0).csr.tokwd + 1 < (wOwnWait.unit 0).ownWaitOf .S ∧
      wOwnWait.ownWait 0 .S = some (tokenInfo 0 0 1 1, 0)) ∧
    (wPushWait.halted 0 = false ∧ wPushWait.runs 0 = true ∧ (wPushWait.unit 0).waitOf .L ≤ (wPushWait.unit 0).csr.tokwd + 1 ∧
      (wPushWait.unit 0).ownWaitOf .L ≤ (wPushWait.unit 0).csr.tokwd + 1 ∧
      (wPushWait.unit 0).csr.tokwd + 1 < (wPushWait.unit 0).pushWaitOf .L ∧
      (wPushWait.unit 0).pushWait .L = some (tokenInfo 1 2 0 0, 0)) ∧ wPend.halted 0 = false := by decide +kernel

/-! The clauses about translation, tasks, the host and machine checks. -/

theorem witness_Commands_clause : ((wCmd leafA (cmdBytes 7 0)).takeTCmd (TCmd.ofBytes (cmdBytes 7 0))).caddrTr
      (TCmd.ofBytes (cmdBytes 7 0)) ≠ .mig ∧ (wCmd leafA (cmdBytes 7 0)).hub.tcmds = [] ∧
    ({ State.reset with time := 1000000 }).hub.hotAt + 1000000 ≤ ({ State.reset with time := 1000000 }).time.toNat := by decide +kernel
theorem witness_Migr_clause : ((wCmd leafA (cmdBytes 2 0)).takeTCmd (TCmd.ofBytes (cmdBytes 2 0))).migBusy 0x5008 = false ∧
    leafA < 2 ^ 64 ∧ ((wCmd (leafA + 256) (cmdBytes 2 0)).takeTCmd (TCmd.ofBytes (cmdBytes 2 0))).migLeaf (TCmd.ofBytes (cmdBytes 2 0)) =
      some (4, leafA + 256, 0x5008) ∧
    (wTook (tcmdA 2 1)).hub.tcmds.find? (fun c => c.opc = 2 ∧ c.st = 1 ∧ (wTook (tcmdA 2 1)).mayMig c) = some (tcmdA 2 1) ∧
    (wTook (tcmdA 2 2)).mem.stagedIn 0x20000 65536 = false ∧ (wTook (tcmdA 2 2)).mem.stagedIn 0x30000 65536 = false ∧
    (wTook (tcmdA 2 2)).mem.poisonFor .device 0x20000 65536 = false := by decide +kernel
/-- A page that another MIGR of the same leaf migrates, and a source page with a poisoned granule. -/
def wMigBusy : State :=
  let s := wCmd leafA (cmdBytes 2 0)
  { s with hub := { s.hub with tcmds := [tcmdA 2 2] } }
def wMigPoison : State := { wTook (tcmdA 2 2) with mem := (wTook (tcmdA 2 2)).mem.setPoison 0x20000 }
theorem witness_Migr_busy : (wMigBusy.takeTCmd (TCmd.ofBytes (cmdBytes 2 0))).migBusy 0x5008 = true ∧
    wMigPoison.mem.poisonFor .device 0x20000 65536 = true ∧ wMigPoison.drained (tcmdA 2 2) = true ∧
    wMigPoison.mem.stagedIn 0x20000 65536 = false ∧ wMigPoison.mem.stagedIn 0x30000 65536 = false := by decide +kernel
theorem witness_Tasks_clause : (∀ u ∈ taskE.units, wComplete.mem.releasedAt u 3 = true) ∧ taskE.late wComplete.time.toNat = false ∧
    { taskE with deadline := 3 }.late 7 = true := by decide +kernel
theorem witness_Forward_clause : wCont.heldFor (wCont.homeOf 0) taskF.prio 5 = false ∧ wCont.heldFor (wCont.homeOf taskF.va) taskF.prio 5 = false := by
  decide +kernel
theorem witness_HostEnd_task : taskA.graph = 3 ∧ taskA.st ≠ .done ∧ (wEnd.setTask 6 taskF).task 6 = some taskF ∧
    taskF.units = [] ∧ taskF.graph = 3 := by decide +kernel
theorem witness_Checks_clause : (wMcheck.unit 0).dcur.getLsbD 3 = false ∧ (wHost false 0x200).mem.poisonFor .system 0x200 3 = false ∧
    (wHost false 0x400).mem.poisonFor .system 0x400 3 = true := by decide +kernel

/-! The clauses about fetching, stepping and the memory words of S. -/

/-- S before LI.LONG whose second word would stand beyond the text, and before a control word in a delay slot. -/
def wNoExt : State :=
  { tune State.reset fun _ => { unitWith [] [] with walk := { Walk.reset with text := [(0, 0x10202140)], textLen := 1 } } with
    agenda := [.engine 0 .S] }
def wSlot : State :=
  { tune (before { unitWith [] [] with walk := Walk.reset } (.jmp 5)) fun U => U.setRedir .S (some ⟨9, true, 2, none⟩) with
    agenda := [.engine 0 .S] }
theorem witness_UndecodableWords_noExt : wNoExt.runs 0 = true ∧ (wNoExt.unit 0).sHeld = false ∧ (wNoExt.unit 0).tape.run ≠ 2 ∧
    (wNoExt.unit 0).pcOf .S < (wNoExt.unit 0).tlen ∧
    decodeWords (wNoExt.textAt (wNoExt.unit 0) ((wNoExt.unit 0).pcOf .S)) none = .error .noExt ∧
    ¬ (wNoExt.unit 0).pcOf .S + 1 < (wNoExt.unit 0).tlen := by decide +kernel
theorem witness_UndecodableWords_slot : wSlot.runs 0 = true ∧ (wSlot.unit 0).sHeld = false ∧ (wSlot.unit 0).tape.run ≠ 2 ∧
    (wSlot.unit 0).pcOf .S + 1 < (wSlot.unit 0).tlen ∧
    (let h := wSlot.textAt (wSlot.unit 0) ((wSlot.unit 0).pcOf .S)
     decodeWords h (some (wSlot.textAt (wSlot.unit 0) ((wSlot.unit 0).pcOf .S + 1))) = .ok (.jmp 5) ∧ fld h 29 3 = 6 ∧
       slotOk ((wSlot.unit 0).redirOf .S) h (1 + fld h 28 1) = false) := by decide +kernel

/-- RETI outside a handler, which raises UND. -/
def wReti0 : State := inTask [] [] (.reti .none)
theorem witness_StepRuns_late : ∀ q ∈ wAddStep.units, (wAddStep.unit q.1).work.late = [] := by decide +kernel
theorem witness_StepRuns_faulted : faulted wReti0 (after (exec (.reti .none) wReti0)) 0 = true ∧
    ((wReti0.approach 0 .S).here 0 .S).isSome = true := by decide +kernel

/-- A load of eight bytes from bank 1 of the scratchpad, which is Off. -/
def capWide : Cap := Cap.mk' 1 permR 0x100000 0 true
def wOff : State := before (unitMem [(5, 0xFFF8)] [(3, capWide)]) (.ld .none 4 3 5 (xm 3 0 8))
theorem witness_MemoryWordsOfSTrap_off : SReady wOff 0 (sRec wOff) .none (some ⟨0, 0⟩) [35, 5] ∧
    ((wOff.swordCheck.unit 0).kS 3).tag = true ∧ ((wOff.swordCheck.unit 0).kS 3).space = 1 ∧
    ((wOff.swordCheck.unit 0).kS 3).grants permR = true ∧ (wOff.swordCheck.unit 0).acquiring = false ∧
    (wOff.swordCheck.unit 0).room true = true ∧
    ((wOff.swordCheck.unit 0).kS 3).base + offsetOf (wOff.swordCheck.unit 0) 5 (xm 3 0 8) = 0x10000 ∧
    0x10000 + 8 ≤ ((wOff.swordCheck.unit 0).kS 3).len ∧ (0x10000 : Nat) % 8 = 0 ∧ 0x10000 < 2 ^ 20 ∧ 0x10000 % 65536 + 8 ≤ 65536 ∧
    (wOff.swordCheck.unit 0).fallDue 1 1 = false ∧ ((wOff.swordCheck.unit 0).bank 1 1).st = .off :=
  ⟨ready_of (by decide +kernel), by decide +kernel⟩
theorem witness_Operations_clause : (∀ s ∈ [wLdOp, wKldOp, wStOp, wStrlOp, wKstOp, wAmoOp, wCasOp, wCasNo, wQpushOp], s.sopStands 0 0 = false) ∧
    (∀ s ∈ [wAmoOp, wCasOp, wCasNo], (s.unit 0).stopped = false) ∧ wFence1.swordCheck.mem.madePerformed 0 3 2 = true ∧
    (∀ s ∈ [wNopS, wNopL], { (s.unit 0).work with loads := (s.unit 0).work.loads + s.heldRequests 0 }.under ⟨0, 0, 0, 0⟩ = true) := by
  decide +kernel
theorem witness_TrapsInHandlersNest_settled : ((inHandlerAt 1 true [] [] .nopA).unit 0).settled ∧
    ((inHandlerAt 1 true [] [] .nopA).unit 0).trap.depth = 1 := ⟨settled_of (by decide +kernel), by decide +kernel⟩

end Sys2Proof.Tests
end

section
/-! O15. What a memory word of S does when its access fails a check (R107, R163): the checks of an access in their order, the
rule of the memory words that reduces each of them to one request, and the trap that follows from the first check that fails. -/

namespace Sys2Proof.Machine

/-! ### The checks of an access before its banks and its translation (R107) -/

/-- An access passes the checks of R107 that look at its capability and its address alone. -/
structure PassesChecks (c : Cap) (o n perm align : Nat) : Prop where
  tag : c.tag = true
  space : c.space ≠ 7
  grants : c.grants perm = true
  bound : o + n ≤ c.len
  aligned : (c.base + o) % align = 0

/-- The first of these checks that an access fails, by its cause. -/
inductive FirstFail (c : Cap) (o n perm align : Nat) : Cause → Prop where
  | untagged (tag : c.tag = false) : FirstFail c o n perm align .ktag
  | denied (tag : c.tag = true) (deny : c.space = 7 ∨ c.grants perm = false) : FirstFail c o n perm align .kperm
  | beyond (tag : c.tag = true) (space : c.space ≠ 7) (grants : c.grants perm = true) (past : c.len < o + n) :
      FirstFail c o n perm align .kbound
  | misaligned (tag : c.tag = true) (space : c.space ≠ 7) (grants : c.grants perm = true) (bound : o + n ≤ c.len)
      (odd : (c.base + o) % align ≠ 0) : FirstFail c o n perm align .align

/-- Cap.Check of R48 gives the address exactly where tag, permissions and range are in order. -/
theorem Cap.check_eq_ok_iff {c : Cap} {o n perm a : Nat} :
    c.check o n perm = .ok a ↔ c.tag = true ∧ c.grants perm = true ∧ o + n ≤ c.len ∧ c.base + o = a := by
  unfold Cap.check
  split_ifs with ht hg hl
  · simp_all
  · simp_all
  · simp [Nat.not_le.2 hl]
  · simp_all

theorem PassesChecks.check {c : Cap} {o n perm align : Nat} (h : PassesChecks c o n perm align) :
    c.check o n perm = .ok (c.base + o) :=
  Cap.check_eq_ok_iff.2 ⟨h.tag, h.grants, h.bound, rfl⟩

theorem FirstFail.not_passesChecks {c : Cap} {o n perm align : Nat} {cause : Cause} (h : FirstFail c o n perm align cause) :
    ¬ PassesChecks c o n perm align := by
  rintro ⟨tag, space, grants, bound, aligned⟩
  cases h with
  | untagged tag' => simp [tag] at tag'
  | denied _ deny => simp [space, grants] at deny
  | beyond _ _ _ past => omega
  | misaligned _ _ _ _ odd => exact odd aligned

/-- An access that fails one of these checks takes that check's trap. -/
theorem State.access_of_firstFail {c : Cap} {o n perm align : Nat} {cause : Cause} (h : FirstFail c o n perm align cause)
    (s : State) (u k text : Nat) (kind : AccKind) :
    s.access u c k o n perm align text kind = .trap s cause o (capInfo k n text) := by
  cases h with
  | untagged tag => simp [State.access, Cap.check, tag]
  | denied tag deny =>
    by_cases space : c.space = 7
    · simp [State.access, tag, space]
    · simp [State.access, Cap.check, tag, space, deny.resolve_left space]
  | beyond tag space grants past => simp [State.access, Cap.check, tag, space, grants, past]
  | misaligned tag space grants bound odd => simp [State.access, Cap.check, tag, space, grants, Nat.not_lt.2 bound, odd]

/-- An access to the unit scratchpad that passes them and meets a bank which cannot supply it takes the banks' trap (R135). -/
theorem State.access_of_spadChk_trap {s : State} {u : Nat} {c : Cap} {o n perm align j : Nat} {kind : AccKind} {cause : Cause}
    (h : PassesChecks c o n perm align) (hs : c.space = 1)
    (hb : s.spadChk u (c.base + o) n (kind ≠ .write) = .trap cause j) (k text : Nat) :
    s.access u c k o n perm align text kind = .trap s cause (firstIn j (c.base + o)) (15 + text % 65536 * 2 ^ 32) := by
  simp only [State.access, OfNat.one_ne_ofNat, h.check, h.aligned, hs, hb, and_false, ne_eq, not_true_eq_false, if_false, if_true]

/-- An access that passes them and its banks and whose translation fails takes XLAT, and the fault found is forgotten. -/
theorem State.access_of_xlat {s : State} {u : Nat} {c : Cap} {o n perm align l reason : Nat} {kind : AccKind}
    (h : PassesChecks c o n perm align)
    (hb : c.space = 1 → s.spadChk u (c.base + o) n (kind ≠ .write) = .ok)
    (ht : s.translate u c.space (c.base + o) kind = .xlat l reason) (k text : Nat) :
    s.access u c k o n perm align text kind = .trap (s.dropFault u (c.base + o)) .xlat (c.base + o)
      (l + reason * 16 + (if kind = .read then 0 else 256)) := by
  have hsp : (if c.space = 1 then s.spadChk u (c.base + o) n (kind ≠ .write) else .ok) = .ok := by
    split
    · exact hb ‹_›
    · rfl
  simp only [State.access, h.space, h.check, h.aligned, hsp, ht, and_false, ne_eq, not_true_eq_false, if_false]

/-! ### The banks of the unit scratchpad (R134, R135) -/

/-- A range inside one bank of the unit scratchpad meets that bank alone. -/
theorem spadBanks_of_inside {a n : Nat} (ha : a < 2 ^ 20) (hin : a % 65536 + n ≤ 65536) (hn : 0 < n) :
    spadBanks a n = [a / 65536] := by
  have hlast : (a + n - 1) / 65536 = a / 65536 := by omega
  have hlt : a / 65536 < 16 := by omega
  rw [spadBanks, if_neg (by omega), hlast]
  generalize a / 65536 = j at hlt
  revert j
  decide

/-- A read inside one bank that is Off, and whose fall is not due, traps. -/
theorem State.spadChk_of_off {s : State} {u a n : Nat} (ha : a < 2 ^ 20) (hin : a % 65536 + n ≤ 65536) (hn : 0 < n)
    (hfall : (s.unit u).fallDue 1 (a / 65536) = false) (hoff : ((s.unit u).bank 1 (a / 65536)).st = .off) :
    s.spadChk u a n true = .trap .spaddrop (a / 65536) := by
  simp [State.spadChk, spadBanks_of_inside ha hin hn, hfall, UnitSt.supplyChk, hoff]

theorem firstIn_own_bank (a : Nat) : firstIn (a / 65536) a = a := by
  rw [firstIn]
  omega

/-! ### A memory word of S that can issue makes its request (R150 to R158, R163) -/

/-- The flight of a memory word of S before its operation is made. -/
def MForm.flight (F : MForm) (s : State) (u : Nat) (r : PassRec) : Flight :=
  { s.flight u .S r F.tk with wr := F.wr, wait := F.wait }

/-- The scope through SPACE 5 and 6 stays system scope when the rule of R154 is applied again. -/
theorem effScope_effScope (space sc : Nat) : effScope space (effScope space sc) = effScope space sc := by
  unfold effScope
  split <;> rfl

/-- A word of S that only makes a memory request, where it is ready. -/
theorem State.sWord_memIssue {s : State} {u : Nat} {r : PassRec} {tk : Tok} {g : XP} {rd : List Nat} (h : SReady s u r tk g rd)
    (fl : Flight → Flight) (req : UnitSt → MemReq) {q : MemReq} (hq : req (s.swordCheck.unit u) = q) :
    (s.sWord tk g rd fun s U r f => s.memIssue s.who.1 r (fl f) (req U)) =
      s.swordCheck.settle u .S r tk ⟨none, []⟩ (s.swordCheck.memIssue u r (fl (s.swordCheck.flight u .S r tk)) q) := by
  rw [State.sWord_of_ready h, who_of_sready h, hq]

/-- The refusal of a KST as its word tests it, beside the form of the statements (R103, R163). -/
theorem kstAllowed_eq_false_iff (c v : Cap) : kstAllowed c v = false ↔
    (v.tag && !v.g && decide (c.space ≠ 1)) = true ∨ c.space = 5 ∨ c.space = 6 := by
  grind [kstAllowed]

theorem exec_kst (tk : Tok) (d a b : Nat) (m : XM) (s : State) : exec (.kst tk d a b m) s = execKst tk d a b m s := rfl

/-- A KST whose store of the capability is allowed, or whose access fails an earlier check, makes its request. -/
theorem exec_kst_of_allowed {s : State} {u : Nat} {r : PassRec} {tk : Tok} {d a b : Nat} {m : XM} {F : MForm}
    (hF : memForm (.kst tk d a b m) = some F) (h : SReady s u r F.tk F.g F.rd)
    (hk : let U := s.swordCheck.unit u
      let q := F.req U
      PassesChecks (U.kS q.k) q.o q.n q.perm q.n → kstAllowed (U.kS q.k) q.cap = true) :
    exec (.kst tk d a b m) s = s.swordCheck.settle u .S r F.tk ⟨none, []⟩
      (s.swordCheck.memIssue u r (F.flight s.swordCheck u r) (F.req (s.swordCheck.unit u))) := by
  cases hF
  simp only [exec_kst, execKst, State.sWord_of_ready h, who_of_sready h, memOff_eq]
  split
  · next addr hc =>
    obtain ⟨tag, grants, bound, rfl⟩ := Cap.check_eq_ok_iff.1 hc
    rw [if_neg]
    · rfl
    · rintro ⟨space, aligned, deny⟩
      exact Bool.false_ne_true
        (((kstAllowed_eq_false_iff _ _).2 deny).symm.trans (hk ⟨tag, space, grants, bound, aligned⟩))
  · rfl

/-- A KST of a capability that may not be stored there takes KPERM, where its access passes the earlier checks. -/
theorem exec_kst_of_refused {s : State} {u : Nat} {r : PassRec} {tk : Tok} {d a b : Nat} {m : XM} {F : MForm}
    (hF : memForm (.kst tk d a b m) = some F) (h : SReady s u r F.tk F.g F.rd) :
    let U := s.swordCheck.unit u
    let q := F.req U
    PassesChecks (U.kS q.k) q.o q.n q.perm q.n → kstAllowed (U.kS q.k) q.cap = false →
    exec (.kst tk d a b m) s = .next (s.swordCheck.takeTrap u ⟨.kperm, 0, q.o, capInfo q.k q.n r.addr⟩) := by
  cases hF
  intro U q hp hk
  have deny := (kstAllowed_eq_false_iff _ _).1 hk
  simp only [exec_kst, execKst, State.sWord_of_ready h, who_of_sready h, memOff_eq]
  rw [hp.check]
  dsimp only
  rw [if_pos ⟨hp.space, hp.aligned, deny⟩]
  rfl

/-- Every memory word of S that is ready makes the request of its form; a KST makes it unless its access passes the checks
before its own and the capability may not be stored there. -/
theorem exec_of_memForm {i : Instr} {F : MForm} (hF : memForm i = some F) {s : State} {u : Nat} {r : PassRec}
    (h : SReady s u r F.tk F.g F.rd)
    (hk : let U := s.swordCheck.unit u
      let q := F.req U
      isKst i = true → PassesChecks (U.kS q.k) q.o q.n q.perm q.n → kstAllowed (U.kS q.k) q.cap = true) :
    exec i s = s.swordCheck.settle u .S r F.tk ⟨none, []⟩
      (s.swordCheck.memIssue u r (F.flight s.swordCheck u r) (F.req (s.swordCheck.unit u))) := by
  unfold memForm at hF
  split at hF <;> cases hF
  case h_1 tk d a b m =>
    exact State.sWord_memIssue h (·.loading [d]) (ldReq · d a b m .ld none) (by rw [ldReq, memOff_eq]; rfl)
  case h_2 tk d a b m =>
    exact State.sWord_memIssue h (·.loading [d])
      (fun U => ldReq U d a b m .ldaq (some (effScope (U.kS a).space m.scope))) (by rw [ldReq, memOff_eq]; rfl)
  case h_3 tk d a b m =>
    exact State.sWord_memIssue h id (stReq · d a b m .st none) (by rw [stReq, memOff_eq]; rfl)
  case h_4 tk d a b m =>
    exact State.sWord_memIssue h id
      (fun U => stReq U d a b m .strl (some (effScope (U.kS a).space m.scope)))
      (by rw [stReq, memOff_eq, Option.getD_some, effScope_effScope]; rfl)
  case h_5 tk d a b m =>
    exact State.sWord_memIssue h ({ · with wr := [d] }) (atomReq · d a b m (.amo m.sub) 0) (by rw [atomReq, memOff_eq]; rfl)
  case h_6 tk d a b m =>
    exact State.sWord_memIssue h ({ · with wr := [d] }) (fun U => atomReq U d a b m .cas (U.xS (d + 1)))
      (by rw [atomReq, memOff_eq]; rfl)
  case h_7 tk d a b m =>
    exact State.sWord_memIssue h (·.loading [32 + d])
      (fun U => ⟨a, U.memOff b m, 16, permR + permC, .read, none, true, .kld, false, 0, d, 0, 0, Cap.null⟩)
      (by rw [memOff_eq])
  case h_8 tk d a b m => exact exec_kst_of_allowed rfl h (hk rfl)

/-! ### The trap of a memory word whose access fails a check -/

/-- A memory word of S that is ready takes the trap that its access comes to. -/
theorem exec_of_access_trap {i : Instr} {F : MForm} (hF : memForm i = some F) {s s1 : State} {u : Nat} {r : PassRec}
    {cause : Cause} {i0 i1 : Nat} (h : SReady s u r F.tk F.g F.rd) :
    let s0 := s.swordCheck
    let U := s0.unit u
    let q := F.req U
    let c := U.kS q.k
    U.acquiring = false → U.room q.isLoad = true →
    (isKst i = true → PassesChecks c q.o q.n q.perm q.n → kstAllowed c q.cap = true) →
    s0.access u c q.k q.o q.n q.perm q.n r.addr q.kind = .trap s1 cause i0 i1 →
    exec i s = .next (s1.takeTrap u ⟨cause, 0, i0, i1⟩) := by
  intro s0 U q c hq hr hk ht
  rw [exec_of_memForm hF h hk, State.memIssue_of_trap hq hr ht]
  rfl

/-- The access of a memory word has the size that its word names. -/
theorem memForm_size {i : Instr} {F : MForm} (hF : memForm i = some F) (U : UnitSt) : (F.req U).n = accessBytes i := by
  unfold memForm at hF
  split at hF <;> cases hF <;> rfl

/-- Only KST stores a capability that may be refused. -/
theorem isKst_eq {i : Instr} (h : isKst i = true) : ∃ tk d a b m, i = .kst tk d a b m := by
  unfold isKst at h
  split at h
  · exact ⟨_, _, _, _, _, rfl⟩
  · cases h

/-- A KST only writes. -/
theorem memForm_kst_writes {i : Instr} {F : MForm} (hF : memForm i = some F) (hi : isKst i = true) (U : UnitSt) :
    (F.req U).kind = .write := by
  obtain ⟨tk, d, a, b, m, rfl⟩ := isKst_eq hi
  cases hF
  rfl

/-- Settles O15: each clause names the first check that the access fails, and `exec_of_access_trap` turns what the checks of
the access come to into the trap of the word; the KST's own check stands after these and before its banks. -/
theorem memoryWordsOfSTrap : Obligations.MemoryWordsOfSTrap := by
  unfold Obligations.MemoryWordsOfSTrap
  intro i F hF s u r h s0 U q c hq hr
  have fails : ∀ cause, FirstFail c q.o q.n q.perm q.n cause →
      exec i s = .next (s0.takeTrap u ⟨cause, 0, q.o, capInfo q.k q.n r.addr⟩) := fun cause hf =>
    exec_of_access_trap hF h hq hr (fun _ hp => absurd hp hf.not_passesChecks)
      (State.access_of_firstFail hf s0 u q.k r.addr q.kind)
  refine ⟨fun tag => fails _ (.untagged tag), fun tag deny => fails _ (.denied tag deny),
    fun tag space grants past => fails _ (.beyond tag space grants past),
    fun tag space grants bound odd => fails _ (.misaligned tag space grants bound odd), ?kst, ?off, ?xlat, memForm_size hF U⟩
  case kst =>
    intro hi tag space grants bound aligned refused
    obtain ⟨tk, d, a, b, m, rfl⟩ := isKst_eq hi
    exact exec_kst_of_refused hF h ⟨tag, space, grants, bound, aligned⟩ refused
  case off =>
    intro a tag hs grants bound aligned ha hin hn hread hfall hoff
    have hp : PassesChecks c q.o q.n q.perm q.n := ⟨tag, by omega, grants, bound, aligned⟩
    have hb : s0.spadChk u a q.n (q.kind ≠ .write) = .trap .spaddrop (a / 65536) := by
      rw [decide_eq_true hread]
      exact State.spadChk_of_off ha hin hn hfall hoff
    have ht := State.access_of_spadChk_trap hp hs hb q.k r.addr
    rw [firstIn_own_bank] at ht
    exact exec_of_access_trap hF h hq hr (fun hi _ => absurd (memForm_kst_writes hF hi U) hread) ht
  case xlat =>
    intro l reason tag space grants bound aligned allowed hb ht
    exact exec_of_access_trap hF h hq hr (fun hi _ => allowed hi)
      (State.access_of_xlat ⟨tag, space, grants, bound, aligned⟩ hb ht q.k r.addr)

end Sys2Proof.Machine
end

section
/-! O12. The capability words KSUB, KPERM and KMOV (R164 to R166): the fields of the capability that each derives, the words
on top of the rule of a ready S word, and the headers that decode to them. -/

namespace Sys2Proof

/-! ### The fields of a word that decodes to KSUB, KPERM or KMOV -/

/-- A field of a word's low bits is the same field of the word. -/
theorem fld_fld {w lo n : Nat} (hw : lo + n ≤ w) (h : Nat) : fld (fld h 0 w) lo n = fld h lo n := by
  refine Nat.eq_of_testBit_eq fun i => ?_
  simp only [fld, Nat.testBit_mod_two_pow, Nat.testBit_div_two_pow, Nat.add_zero]
  grind

/-- The engine, opcode and operand fields of KSUB, KPERM and KMOV, in `F` and the extension word `e` (R164 to R166). -/
def CapFields (eng op F e : Nat) : Instr → Prop
  | .ksub _ d a b imm32 =>
    eng = 0 ∧ op = 0x2A ∧ d = fld F 11 5 ∧ a = fld F 6 5 ∧ b = fld F 1 5 ∧ fld F 0 1 = 0 ∧ imm32 = e
  | .kperm _ d a perm =>
    eng = 0 ∧ op = 0x2B ∧ d = fld F 11 5 ∧ a = fld F 6 5 ∧ fld F 0 6 = 0 ∧ perm = fld e 0 8 ∧ fld e 8 24 = 0
  | .kmov _ d a _ => eng = 0 ∧ op = 0x2C ∧ d = fld F 11 5 ∧ a = fld F 6 5 ∧ fld F 0 6 = 0
  | _ => True

/-- They lie in the low half of the header word. -/
theorem capFields_low_iff {eng op h e : Nat} {i : Instr} : CapFields eng op (fld h 0 16) e i ↔ CapFields eng op h e i := by
  cases i <;> simp only [CapFields, fld_fld, Nat.reduceAdd, Nat.reduceLeDiff]

/-- Only three rows of the parser's tables, all of engine S, give KSUB, KPERM or KMOV. -/
theorem parseEng_capFields {eng op x tk peer F e : Nat} {i : Instr} (h : parseEng eng op x tk peer F e = some i) :
    CapFields eng op F e i := by
  unfold parseEng at h
  split at h
  case h_1 => unfold parseS at h; split at h <;> grind [CapFields]
  case h_2 => unfold parseL at h; split at h <;> grind [CapFields]
  case h_3 => unfold parseV at h; split at h <;> grind [CapFields]
  case h_4 => unfold parseW at h; split at h <;> grind [CapFields]
  case h_5 => unfold parseM at h; split at h <;> grind [CapFields]
  case h_6 => unfold parseC at h; split at h <;> grind [CapFields]
  case h_7 => unfold parseA at h; split at h <;> grind [CapFields]
  case h_8 => cases h

/-- A word that has passed checks 1 to 4 and must have an extension word has one (R33, R41). -/
theorem headerCheck_ext {h : Nat} {f : Form} (hc : headerCheck h = .ok f) (hf : opForm (fld h 29 3) (fld h 16 7) = some .ext) :
    fld h 28 1 = 1 := by
  unfold headerCheck at hc
  simp only [hf] at hc
  split_ifs at hc
  assumption

/-- A word that passes check 5 is well formed and its fields parse (R33). -/
theorem fieldCheck_eq_ok {h e : Nat} {i : Instr} (hf : fieldCheck h e = .ok i) : i.wf = true ∧
    parseEng (fld h 29 3) (fld h 16 7) (fld h 28 1) (fld h 26 2) (fld h 23 3) (fld h 0 16) e = some i := by
  unfold fieldCheck at hf
  grind

/-- A word that decodes has passed checks 1 to 4 on its header and check 5 with the extension word that X = 1 announces. -/
theorem decodeWords_eq_ok {h e : Nat} {i : Instr} (hd : decodeWords h (some e) = .ok i) :
    (∃ f, headerCheck h = .ok f) ∧ fieldCheck h (if fld h 28 1 = 0 then 0 else e) = .ok i := by
  unfold decodeWords at hd
  split at hd
  · cases hd
  · next f hc =>
    refine ⟨⟨f, hc⟩, ?_⟩
    split_ifs at hd ⊢ <;> exact hd

/-- What the decoder says of KSUB, KPERM and KMOV: their fields and their limits, and X = 1 where the form needs it. -/
theorem decodeWords_capFields {h e : Nat} {i : Instr} (hd : decodeWords h (some e) = .ok i) :
    CapFields (fld h 29 3) (fld h 16 7) h (if fld h 28 1 = 0 then 0 else e) i ∧ i.wf = true ∧
      (opForm (fld h 29 3) (fld h 16 7) = some .ext → fld h 28 1 = 1) := by
  obtain ⟨⟨f, hc⟩, hf⟩ := decodeWords_eq_ok hd
  obtain ⟨hwf, hp⟩ := fieldCheck_eq_ok hf
  exact ⟨capFields_low_iff.1 (parseEng_capFields hp), hwf, headerCheck_ext hc⟩

end Sys2Proof

namespace Sys2Proof.Machine

/-! ### The fields of a capability (R101) -/

theorem Cap.space_lt (c : Cap) : c.space < 16 := Nat.mod_lt _ (by decide)
theorem Cap.perm_lt (c : Cap) : c.perm < 256 := Nat.mod_lt _ (by decide)
theorem Cap.len_lt (c : Cap) : c.len < 2 ^ 48 := Nat.mod_lt _ (by decide)
theorem Cap.base_lt (c : Cap) : c.base < 2 ^ 64 := Nat.mod_lt _ (by decide)

section
variable (space perm len base : Nat) (tag : Bool)

@[simp] theorem Cap.mk'_tag : (Cap.mk' space perm len base tag).tag = tag := rfl
@[simp] theorem Cap.mk'_space : (Cap.mk' space perm len base tag).space = space % 16 := by
  simp only [Cap.space, Cap.f, Cap.mk', BitVec.toNat_ofNat]
  omega
@[simp] theorem Cap.mk'_perm : (Cap.mk' space perm len base tag).perm = perm % 256 := by
  simp only [Cap.perm, Cap.f, Cap.mk', BitVec.toNat_ofNat]
  omega
@[simp] theorem Cap.mk'_len : (Cap.mk' space perm len base tag).len = len % 2 ^ 48 := by
  simp only [Cap.len, Cap.f, Cap.mk', BitVec.toNat_ofNat]
  omega
@[simp] theorem Cap.mk'_base : (Cap.mk' space perm len base tag).base = base % 2 ^ 64 := by
  simp only [Cap.base, Cap.f, Cap.mk', BitVec.toNat_ofNat]
  omega

end

/-! ### KSUB (R164) -/

@[simp] theorem Cap.withRange_tag (c : Cap) (base len : Nat) : (c.withRange base len).tag = true := rfl
@[simp] theorem Cap.withRange_space (c : Cap) (base len : Nat) : (c.withRange base len).space = c.space := by
  rw [Cap.withRange, Cap.mk'_space, Nat.mod_eq_of_lt c.space_lt]
@[simp] theorem Cap.withRange_perm (c : Cap) (base len : Nat) : (c.withRange base len).perm = c.perm := by
  rw [Cap.withRange, Cap.mk'_perm, Nat.mod_eq_of_lt c.perm_lt]
@[simp] theorem Cap.withRange_len (c : Cap) (base len : Nat) : (c.withRange base len).len = len % 2 ^ 48 := by
  rw [Cap.withRange, Cap.mk'_len]
@[simp] theorem Cap.withRange_base (c : Cap) (base len : Nat) : (c.withRange base len).base = base % 2 ^ 64 := by
  rw [Cap.withRange, Cap.mk'_base]

/-- The length of the range that KSUB asks for. -/
def ksubLen (c : Cap) (o imm : Nat) : Nat := if imm = 0 then c.len - o else imm

theorem ksub_of_untagged {c : Cap} (tag : c.tag = false) (o imm : Nat) : ksub c o imm = .error .ktag := by
  simp [ksub, tag]

theorem ksub_of_beyond {c : Cap} {o imm : Nat} (tag : c.tag = true) (past : c.len < o + ksubLen c o imm) :
    ksub c o imm = .error .kbound := by
  unfold ksubLen at past
  simp [ksub, tag, past]

theorem ksub_of_inside {c : Cap} {o imm : Nat} (tag : c.tag = true) (inside : o + ksubLen c o imm ≤ c.len) :
    ksub c o imm = .ok (c.withRange (c.base + o) (ksubLen c o imm)) := by
  have hoff : ¬ (imm = 0 ∧ c.len < o) := by omega
  unfold ksubLen at inside ⊢
  simp [ksub, tag, hoff, Nat.not_lt.2 inside]

theorem exec_ksub_of_error {s : State} {u : Nat} {r : PassRec} {tk : Tok} {d a b imm : Nat} {cause : Cause}
    (h : SReady s u r tk none [32 + a, b])
    (hk : ksub ((s.swordCheck.unit u).kS a) ((s.swordCheck.unit u).xS b).toNat imm = .error cause) :
    exec (.ksub tk d a b imm) s =
      .next (s.swordCheck.takeTrap u ⟨cause, 0, ((s.swordCheck.unit u).xS b).toNat, capInfo a 1 r.addr⟩) := by
  change execKsub tk d a b imm s = _
  rw [execKsub, State.sWord_of_ready h, hk]
  rfl

theorem exec_ksub_of_ok {s : State} {u : Nat} {r : PassRec} {tk : Tok} {d a b imm : Nat} {k : Cap}
    (h : SReady s u r tk none [32 + a, b])
    (hk : ksub ((s.swordCheck.unit u).kS a) ((s.swordCheck.unit u).xS b).toNat imm = .ok k) :
    exec (.ksub tk d a b imm) s = .next (s.swordCheck.leavesK u r tk d k) := by
  change execKsub tk d a b imm s = _
  rw [execKsub, State.sWord_of_ready h, hk]
  rfl

/-! ### KPERM (R165) -/

@[simp] theorem kpermOf_tag (c : Cap) (imm : Nat) : (kpermOf c imm).tag = c.tag := by
  rw [kpermOf, Cap.mk'_tag]
@[simp] theorem kpermOf_space (c : Cap) (imm : Nat) : (kpermOf c imm).space = c.space := by
  rw [kpermOf, Cap.mk'_space, Nat.mod_eq_of_lt c.space_lt]
@[simp] theorem kpermOf_len (c : Cap) (imm : Nat) : (kpermOf c imm).len = c.len := by
  rw [kpermOf, Cap.mk'_len, Nat.mod_eq_of_lt c.len_lt]
@[simp] theorem kpermOf_base (c : Cap) (imm : Nat) : (kpermOf c imm).base = c.base := by
  rw [kpermOf, Cap.mk'_base, Nat.mod_eq_of_lt c.base_lt]

/-- The permissions that KPERM gives: bits 0 to 6 are kept where both have them, and bit 7, RC, is set where either has it. -/
theorem kpermOf_perm (c : Cap) (imm : Nat) : (kpermOf c imm).perm =
    2 ^ 7 * max (c.perm / 128) (imm / 128 % 2) + (c.perm % 128 &&& imm % 128) := by
  have hc := c.perm_lt
  have hand : c.perm % 128 &&& imm % 128 < 2 ^ 7 := Nat.and_lt_two_pow _ (Nat.mod_lt _ (by decide))
  rw [kpermOf, Cap.mk'_perm]
  omega

theorem kpermOf_perm_testBit (c : Cap) (imm : Nat) {i : Nat} (hi : i < 7) :
    (kpermOf c imm).perm.testBit i = (c.perm.testBit i && imm.testBit i) := by
  have hand : c.perm % 128 &&& imm % 128 < 2 ^ 7 := Nat.and_lt_two_pow _ (Nat.mod_lt _ (by decide))
  rw [kpermOf_perm, Nat.testBit_two_pow_mul_add _ hand, if_pos hi, Nat.testBit_and,
    Nat.testBit_mod_two_pow (j := 7), Nat.testBit_mod_two_pow (j := 7)]
  simp [hi]

theorem kpermOf_perm_testBit_rc (c : Cap) (imm : Nat) :
    (kpermOf c imm).perm.testBit 7 = (c.perm.testBit 7 || imm.testBit 7) := by
  have hc := c.perm_lt
  have hand : c.perm % 128 &&& imm % 128 < 2 ^ 7 := Nat.and_lt_two_pow _ (Nat.mod_lt _ (by decide))
  rw [Bool.eq_iff_iff, kpermOf_perm]
  simp only [Nat.testBit_eq_decide_div_mod_eq, Bool.or_eq_true, decide_eq_true_eq]
  omega

theorem exec_kperm_of_untagged {s : State} {u : Nat} {r : PassRec} {tk : Tok} {d a perm : Nat}
    (h : SReady s u r tk none [32 + a]) (tag : ((s.swordCheck.unit u).kS a).tag = false) :
    exec (.kperm tk d a perm) s = .next (s.swordCheck.takeTrap u ⟨.ktag, 0, 0, capInfo a 1 r.addr⟩) := by
  change execKperm tk d a perm s = _
  rw [execKperm, State.sWord_of_ready h, tag]
  rfl

theorem exec_kperm_of_tagged {s : State} {u : Nat} {r : PassRec} {tk : Tok} {d a perm : Nat}
    (h : SReady s u r tk none [32 + a]) (tag : ((s.swordCheck.unit u).kS a).tag = true) :
    exec (.kperm tk d a perm) s =
      .next (s.swordCheck.leavesK u r tk d (kpermOf ((s.swordCheck.unit u).kS a) perm)) := by
  change execKperm tk d a perm s = _
  rw [execKperm, State.sWord_of_ready h, tag]
  rfl

/-! ### KMOV (R166) -/

theorem exec_kmov {s : State} {u : Nat} {r : PassRec} {tk : Tok} {d a : Nat} {g : XP} (h : SReady s u r tk g [32 + a]) :
    exec (.kmov tk d a g) s = .next (s.swordCheck.leavesK u r tk d ((s.swordCheck.unit u).kS a)) := by
  change execKmov tk d a g s = _
  rw [execKmov, State.sWord_of_ready h]
  rfl

/-! ### The words that decode to them -/

theorem decodeWords_ksub {h e d a b imm32 : Nat} {tk : Tok} (hd : decodeWords h (some e) = .ok (.ksub tk d a b imm32)) :
    fld h 16 7 = 0x2A ∧ fld h 28 1 = 1 ∧ d = fld h 11 5 ∧ a = fld h 6 5 ∧ b = fld h 1 5 ∧ fld h 0 1 = 0 ∧ imm32 = e ∧
      d < 16 ∧ a < 16 := by
  obtain ⟨⟨heng, hop, hd, ha, hb, hv, hi⟩, hwf, hext⟩ := decodeWords_capFields hd
  have hx : fld h 28 1 = 1 := hext (by rw [heng, hop]; rfl)
  rw [if_neg (by omega)] at hi
  simp only [Instr.wf, okK, Bool.and_eq_true, decide_eq_true_eq] at hwf
  obtain ⟨⟨⟨⟨-, hd16⟩, ha16⟩, -⟩, -⟩ := hwf
  exact ⟨hop, hx, hd, ha, hb, hv, hi, hd16, ha16⟩

theorem decodeWords_kperm {h e d a perm : Nat} {tk : Tok} (hd : decodeWords h (some e) = .ok (.kperm tk d a perm)) :
    fld h 16 7 = 0x2B ∧ fld h 28 1 = 1 ∧ d = fld h 11 5 ∧ a = fld h 6 5 ∧ fld h 0 6 = 0 ∧ perm = fld e 0 8 ∧
      fld e 8 24 = 0 ∧ d < 16 ∧ a < 16 := by
  obtain ⟨⟨heng, hop, hd, ha, hv, hi, hres⟩, hwf, hext⟩ := decodeWords_capFields hd
  have hx : fld h 28 1 = 1 := hext (by rw [heng, hop]; rfl)
  rw [if_neg (by omega)] at hi hres
  simp only [Instr.wf, okK, Bool.and_eq_true, decide_eq_true_eq] at hwf
  obtain ⟨⟨⟨-, hd16⟩, ha16⟩, -⟩ := hwf
  exact ⟨hop, hx, hd, ha, hv, hi, hres, hd16, ha16⟩

theorem decodeWords_kmov {h e d a : Nat} {tk : Tok} {g : XP} (hd : decodeWords h (some e) = .ok (.kmov tk d a g)) :
    fld h 16 7 = 0x2C ∧ d = fld h 11 5 ∧ a = fld h 6 5 ∧ fld h 0 6 = 0 ∧ d < 16 ∧ a < 16 := by
  obtain ⟨⟨-, hop, hd, ha, hv⟩, hwf, -⟩ := decodeWords_capFields hd
  simp only [Instr.wf, okK, Bool.and_eq_true, decide_eq_true_eq] at hwf
  obtain ⟨⟨⟨-, hd16⟩, ha16⟩, -⟩ := hwf
  exact ⟨hop, hd, ha, hv, hd16, ha16⟩

/-- Settles O12: each word is the rule of a ready S word on top of the capability that `ksub` or `kpermOf` gives, or that is
copied, and the clauses of the decoder read the three rows of its table. -/
theorem capabilityWordsDeriveOrTrap : Obligations.CapabilityWordsDeriveOrTrap := by
  unfold Obligations.CapabilityWordsDeriveOrTrap
  refine ⟨fun tk d a g s u r h => exec_kmov h, ?ksub, ?kperm,
    fun h e d a b imm32 perm tk g _ _ => ⟨decodeWords_ksub, decodeWords_kperm, decodeWords_kmov⟩⟩
  case ksub =>
    intro tk d a b imm32 s u r h c o n
    split_ifs with tag past
    · exact exec_ksub_of_error h (ksub_of_untagged tag o imm32)
    · exact exec_ksub_of_error h (ksub_of_beyond (eq_true_of_ne_false tag) past)
    · exact ⟨c.withRange (c.base + o) n, c.withRange_tag _ _, c.withRange_space _ _, c.withRange_perm _ _,
        c.withRange_len _ _, c.withRange_base _ _,
        exec_ksub_of_ok h (ksub_of_inside (eq_true_of_ne_false tag) (Nat.not_lt.1 past))⟩
  case kperm =>
    intro tk d a perm s u r h c
    split_ifs with tag
    · exact exec_kperm_of_untagged h tag
    · have tagged : c.tag = true := eq_true_of_ne_false tag
      exact ⟨kpermOf c perm, (kpermOf_tag c perm).trans tagged, kpermOf_space c perm, kpermOf_len c perm, kpermOf_base c perm,
        fun _ => kpermOf_perm_testBit c perm, kpermOf_perm_testBit_rc c perm, exec_kperm_of_tagged h tagged⟩

end Sys2Proof.Machine
end

section
/-! Where an engine stands (R298, R308, R313): its PC, its redirect and its loops change only where the engine goes past a word,
not by what the word records, what it pops, what memory's order makes of it, or what retires with it. -/

namespace Sys2Proof.Machine

/-! ### The course of a unit's engines -/

/-- The course of a unit's engines: their PCs, their redirects and their loop stacks. -/
def UnitSt.course (U : UnitSt) : SMap Nat × SMap (Option Redirect) × SMap (List LoopEnt) :=
  (U.walk.pc, U.walk.redir, U.walk.loops)

theorem UnitSt.course_of_walk {U V : UnitSt} (h : V.walk = U.walk) : V.course = U.course := by
  unfold UnitSt.course
  rw [h]

theorem UnitSt.course_eq_iff {U V : UnitSt} : V.course = U.course ↔
    V.walk.pc = U.walk.pc ∧ V.walk.redir = U.walk.redir ∧ V.walk.loops = U.walk.loops := by
  simp [UnitSt.course]

theorem UnitSt.pcOf_of_course {U V : UnitSt} (h : V.course = U.course) (e : Eng) : V.pcOf e = U.pcOf e := by
  obtain ⟨hpc, -, -⟩ := UnitSt.course_eq_iff.1 h
  rw [UnitSt.pcOf, UnitSt.pcOf, hpc]

theorem UnitSt.redirOf_of_course {U V : UnitSt} (h : V.course = U.course) (e : Eng) : V.redirOf e = U.redirOf e := by
  obtain ⟨-, hredir, -⟩ := UnitSt.course_eq_iff.1 h
  rw [UnitSt.redirOf, UnitSt.redirOf, hredir]

theorem UnitSt.loopsOf_of_course {U V : UnitSt} (h : V.course = U.course) (e : Eng) : V.loopsOf e = U.loopsOf e := by
  obtain ⟨-, -, hloops⟩ := UnitSt.course_eq_iff.1 h
  rw [UnitSt.loopsOf, UnitSt.loopsOf, hloops]

/-- What every step of a fold keeps, the fold keeps. -/
theorem foldl_keeps {σ α τ : Type} (g : σ → τ) {f : σ → α → σ} (keeps : ∀ s a, g (f s a) = g s) (l : List α) (s : σ) :
    g (l.foldl f s) = g s :=
  List.foldlRecOn (motive := fun t => g t = g s) l f rfl fun t ht a _ => (keeps t a).trans ht

/-! ### Retirement keeps it (R12, R300, R303) -/

@[simp] theorem UnitSt.fallRegIfDue_walk (U : UnitSt) (b : Nat) : (U.fallRegIfDue b).walk = U.walk := by
  simp only [UnitSt.fallRegIfDue, UnitSt.fallReg, apply_ite UnitSt.walk, UnitSt.fixDup_walk, UnitSt.setBank_walk, ite_self]

@[simp] theorem UnitSt.csrSet_walk (U : UnitSt) (csr v : Nat) : (U.csrSet csr v).walk = U.walk := by
  unfold UnitSt.csrSet
  split <;> rfl

@[simp] theorem UnitSt.applyEff_walk (U : UnitSt) (eff : Eff) : (U.applyEff eff).walk = U.walk := by
  cases eff with
  | x | k | p | ps | bank | vstat | balloc | sidle | csract | tcont => rfl
  | bhint k b st => simp only [UnitSt.applyEff, UnitSt.setBank_walk]; split_ifs <;> simp
  | bwake k b => simp only [UnitSt.applyEff, UnitSt.setBank_walk]; split_ifs <;> simp
  | mset sel v => simp only [UnitSt.applyEff]; split_ifs <;> rfl
  | sdrop bs => exact foldl_keeps UnitSt.walk (fun V b => UnitSt.setBank_walk V 1 b _) bs U
  | csrw n v => exact UnitSt.csrSet_walk U n v

@[simp] theorem UnitSt.applyHint_walk (U : UnitSt) (b : Nat) : (U.applyHint b).walk = U.walk := UnitSt.setBank_walk U 0 b _

@[simp] theorem UnitSt.tell_walk (U : UnitSt) (f : Flight) : (U.tell f).walk = U.walk := by
  unfold UnitSt.tell
  split_ifs <;> rfl

@[simp] theorem UnitSt.postKnow_walk (U : UnitSt) (e p : Eng) : (U.postKnow e p).walk = U.walk := by
  unfold UnitSt.postKnow
  dsimp only
  split_ifs <;> rfl

@[simp] theorem UnitSt.pushPost_course (U : UnitSt) (f : Flight) : (U.pushPost f).course = U.course := by
  unfold UnitSt.pushPost
  cases f.post with
  | none => rfl
  | some p =>
    refine Eq.trans ?_ (UnitSt.course_of_walk (UnitSt.postKnow_walk U f.eng p))
    dsimp only
    split_ifs <;> rfl

@[simp] theorem UnitSt.retireFlight_course (U : UnitSt) (f : Flight) : (U.retireFlight f).course = U.course := by
  unfold UnitSt.retireFlight
  rw [UnitSt.pushPost_course]
  refine UnitSt.course_of_walk ?_
  rw [UnitSt.tell_walk, foldl_keeps UnitSt.walk UnitSt.applyHint_walk, foldl_keeps UnitSt.walk UnitSt.applyEff_walk]

@[simp] theorem UnitSt.drain_course (e : Eng) (n : Nat) (U : UnitSt) : (U.drain e n).course = U.course := by
  induction n generalizing U with
  | zero => rfl
  | succ n ih =>
    unfold UnitSt.drain
    cases U.headOf e with
    | none => rfl
    | some f =>
      dsimp only
      split_ifs
      · rw [ih, UnitSt.retireFlight_course]
      · rfl

@[simp] theorem UnitSt.retire_course (U : UnitSt) (e : Eng) : (U.retire e).course = U.course := UnitSt.drain_course _ _ _

/-! ### What a word pops and posts keeps it (R303, R332) -/

@[simp] theorem UnitSt.popToken_course (U : UnitSt) (e : Eng) (tk : Tok) : (U.popToken e tk).course = U.course := by
  unfold UnitSt.popToken
  cases tk.waits with
  | none => rfl
  | some p =>
    dsimp only
    split_ifs
    · rfl
    · exact UnitSt.retire_course _ _
    · exact UnitSt.retire_course _ _

@[simp] theorem UnitSt.relayPost_course (U : UnitSt) (e : Eng) (tk : Tok) : (U.relayPost e tk).course = U.course := by
  unfold UnitSt.relayPost
  cases tk.posts with
  | none => rfl
  | some p => dsimp only; split_ifs <;> rfl

/-! ### The order of memory keeps it (R414 to R416) -/

@[simp] theorem UnitSt.learn_walk (U : UnitSt) (e : Eng) (ids : List Nat) : (U.learn e ids).walk = U.walk := by
  unfold UnitSt.learn
  split_ifs <;> rfl

@[simp] theorem UnitSt.count_walk (U : UnitSt) (i : Nat) (ids : List Nat) : (U.count i ids).walk = U.walk := by
  unfold UnitSt.count
  split_ifs <;> rfl

@[simp] theorem UnitSt.setDeps_walk (U : UnitSt) (f : Flight) (ids : List Nat) : (U.setDeps f ids).walk = U.walk := by
  unfold UnitSt.setDeps
  split_ifs <;> rfl

@[simp] theorem UnitSt.popKnow_walk (U : UnitSt) (e : Eng) (r : PassRec) : (U.popKnow e r).walk = U.walk := by
  unfold UnitSt.popKnow
  dsimp only
  split_ifs <;> exact UnitSt.learn_walk _ _ _

@[simp] theorem UnitSt.orderMem_walk (U : UnitSt) (u : Nat) (f : Flight) (o : SOp) (key : Nat) :
    (U.orderMem u f o key).1.walk = U.walk := by
  unfold UnitSt.orderMem
  simp only [UnitSt.setDeps_walk, UnitSt.count_walk, apply_ite UnitSt.walk, UnitSt.learn_walk, ite_self]

@[simp] theorem UnitSt.orderS_walk (U : UnitSt) (u : Nat) (f : Flight) (at_ : Place → Nat) :
    (U.orderS u f at_).1.walk = U.walk := by
  unfold UnitSt.orderS
  dsimp only
  split
  · rfl
  split
  · simp only [apply_ite UnitSt.walk, UnitSt.learn_walk, ite_self]
  split
  · rfl
  split
  · exact UnitSt.learn_walk _ _ _
  split
  · exact UnitSt.orderMem_walk _ _ _ _ _
  · exact UnitSt.setDeps_walk _ _ _

@[simp] theorem UnitSt.order_walk (U : UnitSt) (u : Nat) (e : Eng) (r : PassRec) (f : Flight) (at_ : Place → Nat) :
    (U.order u e r f at_).1.walk = U.walk := by
  unfold UnitSt.order
  simp only [apply_ite UnitSt.walk, apply_ite Prod.fst, UnitSt.orderS_walk, UnitSt.count_walk, UnitSt.learn_walk,
    UnitSt.popKnow_walk, ite_self]

@[simp] theorem UnitSt.forgetRaces_walk (U : UnitSt) (e : Eng) (addr : Nat) : (U.forgetRaces e addr).walk = U.walk := by
  unfold UnitSt.forgetRaces
  split_ifs <;> rfl

@[simp] theorem UnitSt.orderEvent_walk (U : UnitSt) (u : Nat) (f : Flight) (ids : List Nat) :
    (U.orderEvent u f ids).1.walk = U.walk := by
  unfold UnitSt.orderEvent
  simp only [apply_ite UnitSt.walk, apply_ite Prod.fst, UnitSt.setDeps_walk, ite_self]

@[simp] theorem State.barTell_unit (s : State) (u n v : Nat) : (s.barTell u n).unit v = s.unit v := by
  unfold State.barTell
  dsimp only
  split
  · split_ifs <;> rfl
  · rfl

@[simp] theorem State.orderWord_walk (s : State) (u : Nat) (e : Eng) (r : PassRec) (f : Flight) :
    ((s.orderWord u e r f).1.unit u).walk = (s.unit u).walk := by
  unfold State.orderWord
  simp only [apply_ite Prod.fst, apply_ite (State.unit · u), apply_ite UnitSt.walk, State.barTell_unit,
    State.unit_setUnit_same, UnitSt.orderEvent_walk, UnitSt.learn_walk, UnitSt.forgetRaces_walk, UnitSt.order_walk, ite_self]

/-! ### What a recording marks keeps it (R334, R335, R339, R347) -/

@[simp] theorem UnitSt.markX_walk (U : UnitSt) (n : Nat) (o : Origin) : (U.markX n o).walk = U.walk := by
  unfold UnitSt.markX
  split_ifs <;> rfl

@[simp] theorem UnitSt.markP_walk (U : UnitSt) (n : Nat) (o : Origin) : (U.markP n o).walk = U.walk := rfl
@[simp] theorem UnitSt.markK_walk (U : UnitSt) (n : Nat) (o : KOrigin) : (U.markK n o).walk = U.walk := rfl

@[simp] theorem State.abandon_walk (s : State) (t reason v : Nat) : ((s.abandon t reason).unit v).walk = (s.unit v).walk := by
  unfold State.abandon
  cases s.task t with
  | none => rfl
  | some T =>
    refine foldl_keeps (fun q : State => (q.unit v).walk) (fun q w => ?_) T.units s
    dsimp only
    split_ifs
    · rw [State.unit_setUnit]
      split_ifs with hv
      · rw [hv]
      · rfl
    · rfl

@[simp] theorem State.addGuard_walk (s : State) (t off n v : Nat) : ((s.addGuard t off n).unit v).walk = (s.unit v).walk := by
  unfold State.addGuard
  refine foldl_keeps (fun q : State => (q.unit v).walk) (fun q p => ?_) _ s
  split
  · rfl
  · split_ifs
    · rfl
    · exact State.abandon_walk _ _ _ _
    · rfl

@[simp] theorem State.useMark_walk (s : State) (u : Nat) (o : Origin) (v : Nat) :
    ((s.useMark u o).unit v).walk = (s.unit v).walk := by
  unfold State.useMark
  dsimp only
  split_ifs
  · rfl
  · cases o with
    | clean => rfl
    | volatile => exact State.abandon_walk _ _ _ _
    | args l => exact foldl_keeps (fun q : State => (q.unit v).walk) (fun q p => State.addGuard_walk q _ _ _ v) l s

@[simp] theorem State.firstIssue_walk (s : State) (u v : Nat) : ((s.firstIssue u).unit v).walk = (s.unit v).walk := by
  unfold State.firstIssue
  dsimp only
  split_ifs
  · rfl
  · split
    · split_ifs <;> rfl
    · rfl

@[simp] theorem State.markWord_walk (s : State) (u h e : Nat) : ((s.markWord u h e).unit u).walk = (s.unit u).walk := by
  unfold State.markWord
  simp only [apply_ite (State.unit · u), apply_ite UnitSt.walk, State.unit_setUnit_same, UnitSt.markX_walk, UnitSt.markP_walk,
    UnitSt.markK_walk, foldl_keeps UnitSt.walk (fun V i => UnitSt.markP_walk V (i + 1) _), ite_self,
    ite_eq_left_iff, ite_eq_right_iff]
  intros
  split <;> simp only [State.unit_setUnit_same, UnitSt.markK_walk, State.useMark_walk]

/-! ### Where S stands after a word (R298, R308) -/

/-- In sequence: no redirect, and no loop body that could end here. -/
theorem UnitSt.pcOf_advance_in_sequence {U : UnitSt} {e : Eng} (redir : U.redirOf e = none) (loops : U.loopsOf e = [])
    (addr len : Nat) : (U.advance e addr len).pcOf e = addr + len := by
  unfold UnitSt.advance UnitSt.seqTo
  rw [redir]
  dsimp only
  split_ifs
  · exact UnitSt.pcOf_setPc_same _ _ _
  · rw [UnitSt.pcOf_setPc_same, loops]
    rfl

@[simp] theorem UnitSt.addRec_course (U : UnitSt) (r : PassRec) : (U.addRec r).course = U.course := by
  unfold UnitSt.addRec
  split_ifs <;> rfl

theorem UnitSt.pcOf_sPast_in_sequence {U : UnitSt} {r : PassRec} (redir : U.redirOf .S = none) (loops : U.loopsOf .S = []) :
    (U.sPast r).pcOf .S = r.addr + r.len :=
  UnitSt.pcOf_advance_in_sequence ((UnitSt.redirOf_of_course (U.addRec_course r) .S).trans redir)
    ((UnitSt.loopsOf_of_course (U.addRec_course r) .S).trans loops) _ _

/-- What a recording notes as an S word issues: the first issue, and the marks that a word with a true guard leaves (R334, R351). -/
def State.noteS (s : State) (u : Nat) (r : PassRec) (f : Flight) : State :=
  if !(s.unit u).recording then s else if f.guard then (s.firstIssue u).markWord u r.hdr r.ext else s.firstIssue u

/-- The unit with an engine's word in flight, its token popped, before the engine has gone past the word. -/
def UnitSt.takesUp (V : UnitSt) (e : Eng) (tk : Tok) (f : Flight) : UnitSt :=
  let U := if e = .S ∧ f.wr ≠ [] then V.cancelDstat f.wr else V
  let U1 := { U with work := { U.work with
    fl := U.work.fl ++ [f], nextId := f.id + 1
    sops := if e = Eng.S then U.work.sops.map (fun o => SOp.overwritten o f) else U.work.sops } }
  let U2 := (((U1.popToken e tk).relayPost e tk).setWait e 0).setOwnWait e 0
  { U2 with walk := { U2.walk with fresh := U2.walk.fresh.erase e } }

/-- What an S word leaves: its unit has taken the word up, S has gone past it, and what could retire has retired. -/
theorem State.leaves_unit (s : State) (u : Nat) (r : PassRec) (tk : Tok) (f : Flight) :
    let q := (s.noteS u r f).orderWord u .S r f
    (s.leaves u .S r tk f).unit u = (((q.1.unit u).takesUp .S tk q.2).sPast r).retire .S := by
  unfold State.leaves State.issue
  rw [State.unit_setUnit_same]
  rfl

@[simp] theorem State.noteS_walk (s : State) (u : Nat) (r : PassRec) (f : Flight) :
    ((s.noteS u r f).unit u).walk = (s.unit u).walk := by
  unfold State.noteS
  split_ifs
  · rfl
  · rw [State.markWord_walk, State.firstIssue_walk]
  · exact State.firstIssue_walk s u u

@[simp] theorem UnitSt.takesUp_course (V : UnitSt) (e : Eng) (tk : Tok) (f : Flight) : (V.takesUp e tk f).course = V.course := by
  have pops (U : UnitSt) : ((((U.popToken e tk).relayPost e tk).setWait e 0).setOwnWait e 0).course = U.course :=
    (UnitSt.relayPost_course _ e tk).trans (UnitSt.popToken_course U e tk)
  refine (pops _).trans ?_
  change UnitSt.course (if e = .S ∧ f.wr ≠ [] then V.cancelDstat f.wr else V) = _
  split_ifs <;> rfl

/-- Where no redirect of S is pending and S runs in no loop, S stands after the word that has issued (R298). -/
theorem State.leaves_pcOf_in_sequence {s : State} {u : Nat} (redir : (s.unit u).redirOf .S = none)
    (loops : (s.unit u).loopsOf .S = []) (r : PassRec) (tk : Tok) (f : Flight) :
    ((s.leaves u .S r tk f).unit u).pcOf .S = r.addr + r.len := by
  rw [State.leaves_unit, UnitSt.pcOf_of_course (UnitSt.retire_course _ _)]
  have course (g : Flight) : (UnitSt.takesUp _ .S tk g).course = (s.unit u).course :=
    (UnitSt.takesUp_course _ .S tk g).trans
      (UnitSt.course_of_walk ((State.orderWord_walk (s.noteS u r f) u .S r f).trans (State.noteS_walk s u r f)))
  exact UnitSt.pcOf_sPast_in_sequence ((UnitSt.redirOf_of_course (course _) .S).trans redir)
    ((UnitSt.loopsOf_of_course (course _) .S).trans loops)

end Sys2Proof.Machine
end

section
/-! O26. TRAP and DECLINE (R444, R445): the fields of a header that decodes to TRAP, and what each word does where it can
issue. -/

namespace Sys2Proof

/-! ### The fields of a word that decodes to TRAP -/

/-- The engine, opcode and operand fields of TRAP, in `F` (R445). -/
def TrapFields (eng op F : Nat) : Instr → Prop
  | .trap _ imm => eng = 0 ∧ op = 0x62 ∧ fld F 6 10 = 0 ∧ imm = fld F 0 6
  | _ => True

/-- Only one row of the parser's tables, of engine S, gives TRAP. -/
theorem parseEng_trapFields {eng op x tk peer F e : Nat} {i : Instr} (h : parseEng eng op x tk peer F e = some i) :
    TrapFields eng op F i := by
  unfold parseEng at h
  split at h
  case h_1 => unfold parseS at h; split at h <;> grind [TrapFields]
  case h_2 => unfold parseL at h; split at h <;> grind [TrapFields]
  case h_3 => unfold parseV at h; split at h <;> grind [TrapFields]
  case h_4 => unfold parseW at h; split at h <;> grind [TrapFields]
  case h_5 => unfold parseM at h; split at h <;> grind [TrapFields]
  case h_6 => unfold parseC at h; split at h <;> grind [TrapFields]
  case h_7 => unfold parseA at h; split at h <;> grind [TrapFields]
  case h_8 => cases h

/-- A header that decodes with no word after it announces none, and passes check 5 by itself (R33). -/
theorem decodeWords_none_eq_ok {h : Nat} {i : Instr} (hd : decodeWords h none = .ok i) :
    fld h 28 1 = 0 ∧ fieldCheck h 0 = .ok i := by
  unfold decodeWords at hd
  split at hd
  · cases hd
  · split_ifs at hd with hx
    exact ⟨hx, hd⟩

theorem decodeWords_trap {h imm : Nat} {tk : Tok} (hd : decodeWords h none = .ok (.trap tk imm)) :
    fld h 29 3 = 0 ∧ fld h 28 1 = 0 ∧ fld h 16 7 = 0x62 ∧ fld h 6 10 = 0 ∧ imm = fld h 0 6 := by
  obtain ⟨hx, hf⟩ := decodeWords_none_eq_ok hd
  obtain ⟨heng, hop, hres, himm⟩ := parseEng_trapFields (fieldCheck_eq_ok hf).2
  rw [fld_fld (by decide)] at hres himm
  exact ⟨heng, hx, hop, hres, himm⟩

end Sys2Proof

namespace Sys2Proof.Machine

/-- TRAP may stand in no delay slot (R309). -/
theorem slotOk_trap {h : Nat} (heng : fld h 29 3 = 0) (hop : fld h 16 7 = 0x62) (q : Redirect) (len : Nat) :
    slotOk (some q) h len = false := by
  simp [slotOk, heng, hop]

/-! ### TRAP (R445) -/

theorem exec_trap_of_room {s : State} {u : Nat} {r : PassRec} {tk : Tok} {imm : Nat} (h : SReady s u r tk none [])
    (idle : (s.swordCheck.unit u).sIdle)
    (room : (s.swordCheck.unit u).postRoom (s.swordCheck.flight u .S r tk) = true) :
    exec (.trap tk imm) s =
      .next ((s.swordCheck.leaves u .S r tk (s.swordCheck.flight u .S r tk)).takeTrap u
        ⟨.swtrap, 0, r.addr, r.hdr + imm * 2 ^ 32⟩) := by
  change execTrap tk imm s = _
  rw [execTrap, State.sSerial_of_ready h idle, room, who_of_sready h]
  rfl

/-! ### DECLINE (R444) -/

/-- A user handler, not nested: where DECLINE passes the trap on. -/
abbrev UnitSt.mayDecline (U : UnitSt) : Prop := U.csr.uh = true ∧ U.csr.mode = false ∧ U.trap.depth = 1

/-- The unit after DECLINE: DECLINED stands in CAUSE, no redirect is left, and the supervisor is entered. -/
def UnitSt.declined (U : UnitSt) : UnitSt :=
  ({ U with csr := { U.csr with cause := U.csr.cause ||| 0x4000 } }.setRedir .S none).enterSuper

theorem exec_decline_in_user_handler {s : State} {u : Nat} {r : PassRec} {tk : Tok} (h : SReady s u r tk none [])
    (idle : (s.swordCheck.unit u).sIdle) (user : (s.swordCheck.unit u).mayDecline) :
    exec (.decline tk) s = .next (s.swordCheck.setUnit u (s.swordCheck.unit u).declined) := by
  obtain ⟨uh, mode, depth⟩ := user
  change execDecline tk s = _
  rw [execDecline, State.sSerial_of_ready h idle, if_pos (by simp [uh, mode, depth]), who_of_sready h]
  rfl

theorem exec_decline_elsewhere {s : State} {u : Nat} {r : PassRec} {tk : Tok} (h : SReady s u r tk none [])
    (idle : (s.swordCheck.unit u).sIdle) (other : ¬ (s.swordCheck.unit u).mayDecline) :
    exec (.decline tk) s = .next (s.swordCheck.takeTrap u ⟨.und, 0, r.addr, r.hdr⟩) := by
  change execDecline tk s = _
  rw [execDecline, State.sSerial_of_ready h idle, if_neg (by simpa [UnitSt.mayDecline] using other)]
  rfl

theorem UnitSt.declined_pcOf (U : UnitSt) : U.declined.pcOf .S = U.csr.vecS := UnitSt.pcOf_setPc_same _ _ _

theorem UnitSt.declined_getK_supervisor (U : UnitSt) : U.declined.regs.getK 14 = U.id.superCap := by
  change (U.regs.setK 14 U.id.superCap).getK 14 = _
  rw [Regs.getK_setK, if_pos rfl]

theorem UnitSt.declined_getK_other (U : UnitSt) {n : Nat} (hn : n ≠ 14) : U.declined.regs.getK n = U.regs.getK n := by
  change (U.regs.setK 14 U.id.superCap).getK n = _
  rw [Regs.getK_setK, if_neg hn]

/-! ### TRAP and DECLINE -/

/-- Settles O26: TRAP and DECLINE are words of S that act alone, so each is its own part where it can issue; S stands after
TRAP as after any word of one text word that nothing redirects; and the decoder's row of TRAP gives its fields. -/
theorem trapWordEntersAndDeclinePassesOn : Obligations.TrapWordEntersAndDeclinePassesOn := by
  unfold Obligations.TrapWordEntersAndDeclinePassesOn
  refine ⟨fun tk imm s u r h => exec_trap_of_room h, ?decline, ?fields, ?next, rfl, rfl⟩
  case decline =>
    intro tk s u r h s0 U idle
    refine ⟨fun uh mode depth => ?_, exec_decline_elsewhere h idle⟩
    refine ⟨s0.setUnit u U.declined, exec_decline_in_user_handler h idle ⟨uh, mode, depth⟩, ?_⟩
    rw [State.unit_setUnit_same]
    exact ⟨rfl, rfl, rfl, U.declined_pcOf, U.declined_getK_supervisor, fun _ hn => U.declined_getK_other hn, rfl, depth, rfl⟩
  case fields =>
    intro h tk imm _ hd
    obtain ⟨heng, hx, hop, hres, himm⟩ := decodeWords_trap hd
    exact ⟨heng, hx, hop, hres, himm, fun q => slotOk_trap heng hop q 1⟩
  case next =>
    intro tk s u r _ redir loops len
    rw [State.leaves_pcOf_in_sequence redir loops, len]

end Sys2Proof.Machine
end

section
/-! O1, O2.  The decoder and the encoder (R29 to R58).  Reading back: what an opcode's fields parse as has the words that
  they were
read from (`parseEng_encode`).  Writing: the fields of each well-formed instruction's words parse as it (`IsRead`),
  by the layout of
its operands. -/
namespace Sys2Proof
/-- The extension word `e`, where the X bit says that there is one. -/
def extWords (x e : Nat) : List Nat := if x = 0 then [] else [e]
@[simp] theorem extWords_zero (e : Nat) : extWords 0 e = [] := rfl
@[simp] theorem extWords_one (e : Nat) : extWords 1 e = [e] := rfl

/-- The X bit agrees with the form of an assigned opcode (check 4 of R33). -/
def Form.fits (x : Nat) : Form → Prop
  | .bare => x = 0
  | .ext => x = 1
  | .opt => x < 2

theorem hdr_inj {eng x op F F' : Nat} {tk : Tok} : hdr eng x tk op F = hdr eng x tk op F' ↔ F = F' := by
  simp [hdr]

theorem xpOf_bit {x : Nat} (hx : x < 2) (e : Nat) : (xpOf x e).bit = x := by
  unfold xpOf XP.bit
  split <;> simp <;> omega
theorem xpOf_words {x e : Nat} (he : e < 2 ^ 32) (h : xpRes x e) : (xpOf x e).words = extWords x e := by
  unfold xpOf extWords
  split_ifs with hx
  · rfl
  · obtain ⟨h1, h2⟩ := h.resolve_left hx
    simp only [XP.words, fld] at *
    congr 1; omega
theorem fld_cat {w lo m n mid : Nat} (h : lo + m = mid) :
    fld w mid n * 2 ^ mid + fld w lo m * 2 ^ lo = fld w lo (m + n) * 2 ^ lo := by
  subst h
  simp only [fld]
  rw [Nat.pow_add 2 m n, Nat.mod_mul, Nat.pow_add 2 lo m, ← Nat.div_div_eq_div_mul]
  ring

theorem fld_whole {w n : Nat} (h : w < 2 ^ n) : fld w 0 n = w := by
  simp [fld, Nat.mod_eq_of_lt h]

theorem fvOf_word {F : Nat} (hF : F < 2 ^ 16) : (fvOf F).word = F := by
  calc (fvOf F).word = fld F 5 11 * 2 ^ 5 + fld F 3 2 * 2 ^ 3 + fld F 2 1 * 2 ^ 2 + fld F 0 2 * 2 ^ 0 := by
        simp [fvOf, FV.word]
    _ = fld F 0 16 * 2 ^ 0 := by rw [fld_cat, fld_cat, fld_cat] <;> rfl
    _ = F := by rw [fld_whole hF, Nat.pow_zero, Nat.mul_one]

theorem xvOf_word {e : Nat} (he : e < 2 ^ 32) : (xvOf e).word = e := by
  calc (xvOf e).word = fld e 21 11 * 2 ^ 21 + fld e 10 11 * 2 ^ 10 + fld e 5 5 * 2 ^ 5 + fld e 4 1 * 2 ^ 4 + fld e 3 1 * 2 ^ 3
          + fld e 2 1 * 2 ^ 2 + fld e 1 1 * 2 ^ 1 + fld e 0 1 * 2 ^ 0 := by simp [xvOf, XV.word]
    _ = fld e 0 32 * 2 ^ 0 := by rw [fld_cat, fld_cat, fld_cat, fld_cat, fld_cat, fld_cat, fld_cat] <;> rfl
    _ = e := by rw [fld_whole he, Nat.pow_zero, Nat.mul_one]

theorem xmOf_word {e : Nat} (he : e < 2 ^ 32) : (xmOf e).word = e := by
  calc (xmOf e).word = fld e 27 5 * 2 ^ 27 + fld e 26 1 * 2 ^ 26 + fld e 24 2 * 2 ^ 24 + fld e 23 1 * 2 ^ 23 + fld e 20 3 * 2
    ^ 20
          + fld e 16 4 * 2 ^ 16 + fld e 0 16 * 2 ^ 0 := by simp [xmOf, XM.word]
    _ = fld e 0 32 * 2 ^ 0 := by rw [fld_cat, fld_cat, fld_cat, fld_cat, fld_cat, fld_cat] <;> rfl
    _ = e := by rw [fld_whole he, Nat.pow_zero, Nat.mul_one]

theorem xcOf_word {e : Nat} (he : e < 2 ^ 32) : (xcOf e).word = e := by
  calc (xcOf e).word = fld e 27 5 * 2 ^ 27 + fld e 26 1 * 2 ^ 26 + fld e 24 2 * 2 ^ 24 + fld e 22 2 * 2 ^ 22 + fld e 20 2 * 2
    ^ 20 + fld e 16 4 * 2 ^ 16 + fld e 0 16 * 2 ^ 0 := by simp [xcOf, XC.word]
    _ = fld e 0 32 * 2 ^ 0 := by rw [fld_cat, fld_cat, fld_cat, fld_cat, fld_cat, fld_cat] <;> rfl
    _ = e := by rw [fld_whole he, Nat.pow_zero, Nat.mul_one]

theorem xmmOf_word {e : Nat} (he : e < 2 ^ 32) (h : fld e 12 3 = 0) : (xmmOf e).word = e := by
  calc (xmmOf e).word = fld e 27 5 * 2 ^ 27 + fld e 26 1 * 2 ^ 26 + fld e 24 2 * 2 ^ 24 + fld e 23 1 * 2 ^ 23 + fld e 21 2 *
    2 ^ 21 + fld e 15 6 * 2 ^ 15 + fld e 12 3 * 2 ^ 12 + fld e 0 12 * 2 ^ 0 := by simp [xmmOf, XMM.word, h]
    _ = fld e 0 32 * 2 ^ 0 := by rw [fld_cat, fld_cat, fld_cat, fld_cat, fld_cat, fld_cat, fld_cat] <;> rfl
    _ = e := by rw [fld_whole he, Nat.pow_zero, Nat.mul_one]

theorem xlOf_word {e : Nat} (he : e < 2 ^ 32) : (xlOf e).word = e := by
  calc (xlOf e).word = fld e 29 3 * 2 ^ 29 + fld e 28 1 * 2 ^ 28 + fld e 16 12 * 2 ^ 16 + fld e 0 16 * 2 ^ 0 := by simp
    [xlOf, XL.word]
    _ = fld e 0 32 * 2 ^ 0 := by rw [fld_cat, fld_cat, fld_cat] <;> rfl
    _ = e := by rw [fld_whole he, Nat.pow_zero, Nat.mul_one]

theorem xwOf_word {e : Nat} (he : e < 2 ^ 32) : (xwOf e).word = e := by
  calc (xwOf e).word = fld e 24 8 * 2 ^ 24 + fld e 16 8 * 2 ^ 16 + fld e 8 8 * 2 ^ 8 + fld e 0 8 * 2 ^ 0 := by simp [xwOf,
    XW.word]
    _ = fld e 0 32 * 2 ^ 0 := by rw [fld_cat, fld_cat, fld_cat] <;> rfl
    _ = e := by rw [fld_whole he, Nat.pow_zero, Nat.mul_one]

theorem layout_dab {F : Nat} (hF : F < 2 ^ 16) (h0 : fld F 0 1 = 0) : sh (fld F 11 5) 11 + sh (fld F 6 5) 6 + sh (fld F 1 5)
    1 = F := by
  simp only [sh, fld] at *; omega

theorem layout_da {F : Nat} (hF : F < 2 ^ 16) (h0 : fld F 0 6 = 0) : sh (fld F 11 5) 11 + sh (fld F 6 5) 6 = F := by
  simp only [sh, fld] at *; omega

theorem layout_dai {F : Nat} (hF : F < 2 ^ 16)  : sh (fld F 11 5) 11 + sh (fld F 6 5) 6 + fld F 0 6 = F := by
  simp only [sh, fld] at *; omega

theorem layout_d {F : Nat} (hF : F < 2 ^ 16) (h0 : fld F 0 11 = 0) : sh (fld F 11 5) 11 = F := by
  simp only [sh, fld] at *; omega

theorem layout_stream {F : Nat} (hF : F < 2 ^ 16) (h0 : fld F 0 12 = 0) : sh (fld F 12 4) 12 = F := by
  simp only [sh, fld] at *; omega
theorem layout_empty {F : Nat} (hF : F < 2 ^ 16) (h0 : fld F 0 16 = 0) : F = 0 := by
  rwa [fld_whole hF] at h0

theorem parseS_encode {op x tk peer F e : Nat} {i : Instr} {f : Form} (h : parseS op x tk peer F e = some i) (hF : F < 2 ^ 16)
    (he : e < 2 ^ 32) (hf : opFormS op = some f) (hx : f.fits x) :
    encode i = hdr 0 x (tokOf tk peer) op F :: extWords x e := by
  unfold parseS at h
  split at h
  case h_27 =>
    obtain hx | hx : x = 0 ∨ x = 1 := by cases hf; simp only [Form.fits] at hx; omega
    · subst hx; rw [if_pos rfl] at h; cases h;
      simp only [encode, extWords_zero, List.cons.injEq, hdr_inj, and_true, true_and]
      simp only [sh, fld] at *; omega
    · subst hx; simp at h; obtain ⟨hc, rfl⟩ := h
      simp only [encode, extWords_one, layout_d hF hc]
  all_goals
    simp only [Option.ite_none_right_eq_some, Option.some.injEq, reduceCtorEq] at h
  all_goals
    cases hf
    simp only [Form.fits] at hx
    try cases_type* And
    subst_vars
    simp (disch := assumption) only [encode, xpOf_bit, xpOf_words, fvOf_word, xvOf_word, xmOf_word, xcOf_word, xmmOf_word,
      xlOf_word, xwOf_word, layout_dab, layout_da, layout_dai, layout_d, layout_stream, layout_empty, extWords_zero,
      extWords_one, List.cons.injEq, hdr_inj, and_true, true_and]
  all_goals
    simp only [sh, fld] at *
    omega

theorem parseL_encode {op x tk peer F e : Nat} {i : Instr} {f : Form} (h : parseL op x tk peer F e = some i) (hF : F < 2 ^ 16)
    (he : e < 2 ^ 32) (hf : opFormL op = some f) (hx : f.fits x) :
    encode i = hdr 1 x (tokOf tk peer) op F :: extWords x e := by
  unfold parseL at h
  split at h
  all_goals
    simp only [Option.ite_none_right_eq_some, Option.some.injEq, reduceCtorEq] at h
  all_goals
    cases hf
    simp only [Form.fits] at hx
    try cases_type* And
    subst_vars
    simp (disch := assumption) only [encode, xpOf_bit, xpOf_words, fvOf_word, xvOf_word, xmOf_word, xcOf_word, xmmOf_word,
      xlOf_word, xwOf_word, layout_dab, layout_da, layout_dai, layout_d, layout_stream, layout_empty, extWords_zero,
      extWords_one, List.cons.injEq, hdr_inj, and_true, true_and]
  all_goals
    simp only [sh, fld] at *
    omega

theorem parseV_encode {op x tk peer F e : Nat} {i : Instr} {f : Form} (h : parseV op x tk peer F e = some i) (hF : F < 2 ^ 16)
    (he : e < 2 ^ 32) (hf : opFormV op = some f) (hx : f.fits x) :
    encode i = hdr 2 x (tokOf tk peer) op F :: extWords x e := by
  unfold parseV at h
  split at h
  all_goals
    simp only [Option.ite_none_right_eq_some, Option.some.injEq, reduceCtorEq] at h
  all_goals
    cases hf
    simp only [Form.fits] at hx
    try cases_type* And
    subst_vars
    simp (disch := assumption) only [encode, xpOf_bit, xpOf_words, fvOf_word, xvOf_word, xmOf_word, xcOf_word, xmmOf_word,
      xlOf_word, xwOf_word, layout_dab, layout_da, layout_dai, layout_d, layout_stream, layout_empty, extWords_zero,
      extWords_one, List.cons.injEq, hdr_inj, and_true, true_and]
  all_goals
    simp only [sh, fld] at *
    omega

theorem parseW_encode {op x tk peer F e : Nat} {i : Instr} {f : Form} (h : parseW op x tk peer F e = some i) (hF : F < 2 ^ 16)
    (he : e < 2 ^ 32) (hf : opFormW op = some f) (hx : f.fits x) :
    encode i = hdr 3 x (tokOf tk peer) op F :: extWords x e := by
  unfold parseW at h
  split at h
  all_goals
    simp only [Option.ite_none_right_eq_some, Option.some.injEq, reduceCtorEq] at h
  all_goals
    cases hf
    simp only [Form.fits] at hx
    try cases_type* And
    subst_vars
    simp (disch := assumption) only [encode, xpOf_bit, xpOf_words, fvOf_word, xvOf_word, xmOf_word, xcOf_word, xmmOf_word,
      xlOf_word, xwOf_word, layout_dab, layout_da, layout_dai, layout_d, layout_stream, layout_empty, extWords_zero,
      extWords_one, List.cons.injEq, hdr_inj, and_true, true_and]
  all_goals
    simp only [sh, fld] at *
    omega

theorem parseM_encode {op x tk peer F e : Nat} {i : Instr} {f : Form} (h : parseM op x tk peer F e = some i) (hF : F < 2 ^ 16)
    (he : e < 2 ^ 32) (hf : opFormM op = some f) (hx : f.fits x) :
    encode i = hdr 4 x (tokOf tk peer) op F :: extWords x e := by
  unfold parseM at h
  split at h
  all_goals
    simp only [Option.ite_none_right_eq_some, Option.some.injEq, reduceCtorEq] at h
  all_goals
    cases hf
    simp only [Form.fits] at hx
    try cases_type* And
    subst_vars
    simp (disch := assumption) only [encode, xpOf_bit, xpOf_words, fvOf_word, xvOf_word, xmOf_word, xcOf_word, xmmOf_word,
      xlOf_word, xwOf_word, layout_dab, layout_da, layout_dai, layout_d, layout_stream, layout_empty, extWords_zero,
      extWords_one, List.cons.injEq, hdr_inj, and_true, true_and]
  all_goals
    simp only [sh, fld] at *
    omega

theorem parseC_encode {op x tk peer F e : Nat} {i : Instr} {f : Form} (h : parseC op x tk peer F e = some i) (hF : F < 2 ^ 16)
    (he : e < 2 ^ 32) (hf : opFormC op = some f) (hx : f.fits x) :
    encode i = hdr 5 x (tokOf tk peer) op F :: extWords x e := by
  unfold parseC at h
  split at h
  all_goals
    simp only [Option.ite_none_right_eq_some, Option.some.injEq, reduceCtorEq] at h
  all_goals
    cases hf
    simp only [Form.fits] at hx
    try cases_type* And
    subst_vars
    simp (disch := assumption) only [encode, xpOf_bit, xpOf_words, fvOf_word, xvOf_word, xmOf_word, xcOf_word, xmmOf_word,
      xlOf_word, xwOf_word, layout_dab, layout_da, layout_dai, layout_d, layout_stream, layout_empty, extWords_zero,
      extWords_one, List.cons.injEq, hdr_inj, and_true, true_and]
  all_goals
    simp only [sh, fld] at *
    omega

theorem parseA_encode {op x tk peer F e : Nat} {i : Instr} {f : Form} (h : parseA op x tk peer F e = some i) (hF : F < 2 ^ 16)
    (he : e < 2 ^ 32) (hf : opFormA op = some f) (hx : f.fits x) :
    encode i = hdr 6 x .none op F :: extWords x e := by
  unfold parseA at h
  split at h
  all_goals
    simp only [Option.ite_none_right_eq_some, Option.some.injEq, reduceCtorEq] at h
  all_goals
    cases hf
    simp only [Form.fits] at hx
    try cases_type* And
    subst_vars
    simp (disch := assumption) only [encode, xpOf_bit, xpOf_words, fvOf_word, xvOf_word, xmOf_word, xcOf_word, xmmOf_word,
      xlOf_word, xwOf_word, layout_dab, layout_da, layout_dai, layout_d, layout_stream, layout_empty, extWords_zero,
      extWords_one, List.cons.injEq, hdr_inj, and_true, true_and]
  all_goals
    simp only [sh, fld] at *
    omega

theorem tokOf_code_peer (tk : Tok) : tokOf tk.code tk.peer = tk := by
  cases tk with
  | none => rfl
  | wait p => cases p <;> rfl
  | post p => cases p <;> rfl
  | both p => cases p <;> rfl

/-- A field below the lowest bit of a summand does not see it. -/
theorem fld_skip {v r k lo n : Nat} (h : lo + n ≤ k) : fld (v * 2 ^ k + r) lo n = fld r lo n := by
  obtain ⟨j, rfl⟩ := Nat.exists_eq_add_of_le h
  simp only [fld]
  rw [Nat.pow_add, Nat.pow_add, Nat.mul_assoc (2 ^ lo), Nat.mul_left_comm, Nat.mul_add_div (by positivity), ]
  rw [Nat.mul_left_comm, Nat.mul_add_mod]

theorem fld_here {v r lo n : Nat} (hr : r < 2 ^ lo) (hv : v < 2 ^ n) : fld (v * 2 ^ lo + r) lo n = v := by
  rw [fld, Nat.mul_comm, Nat.mul_add_div (by positivity), Nat.div_eq_of_lt hr, Nat.add_zero, Nat.mod_eq_of_lt hv]

theorem fld_here_alone {v lo n : Nat} (hv : v < 2 ^ n) : fld (v * 2 ^ lo) lo n = v := fld_here (r := 0) (by positivity) hv

theorem fld_over {r lo n : Nat} (hr : r < 2 ^ lo) : fld r lo n = 0 := by
  rw [fld, Nat.div_eq_of_lt hr, Nat.zero_mod]

theorem fld_under {v k lo n : Nat} (h : lo + n ≤ k) : fld (v * 2 ^ k) lo n = 0 := by
  have := fld_skip (v := v) (r := 0) h
  simpa [fld] using this

/-- The extension word of a guard (0 where there is none). -/
def XP.ext : XP → Nat
  | none => 0
  | some g => g.pr * 2 ^ 5 + g.sense * 2 ^ 4

theorem XP.words_eq (g : XP) : g.words = extWords g.bit g.ext := by cases g <;> rfl
theorem XP.bit_lt (g : XP) : g.bit < 2 := by cases g <;> simp [XP.bit]
theorem XP.ext_lt {g : XP} (h : okXP g = true) : g.ext < 2 ^ 32 := by
  cases g with
  | none => decide
  | some g => simp only [okXP, okX, okBit, Bool.and_eq_true, decide_eq_true_eq] at h; simp only [XP.ext]; omega
theorem xpRes_ext {g : XP} (h : okXP g = true) : xpRes g.bit g.ext := by
  cases g with
  | none => exact .inl rfl
  | some g =>
    simp only [okXP, okX, okBit, Bool.and_eq_true, decide_eq_true_eq] at h
    right
    simp only [XP.ext, fld]; omega
theorem xpOf_ext {g : XP} (h : okXP g = true) : xpOf g.bit g.ext = g := by
  cases g with
  | none => rfl
  | some g =>
    simp only [okXP, okX, okBit, Bool.and_eq_true, decide_eq_true_eq] at h
    obtain ⟨p, s⟩ := g
    simp only at h
    simp (disch := omega) only [xpOf, XP.bit, XP.ext, Option.isSome_some, if_true, fld_here, fld_skip, fld_here_alone,
      one_ne_zero, if_false]

structure Reads (i : Instr) (eng x op : Nat) (tk : Tok) (F e : Nat) : Prop where
  words : encode i = hdr eng x tk op F :: extWords x e
  engine : i.eng = some eng
  tok : okTok eng tk = true
  form : ∃ f, opForm eng op = some f ∧ f.fits x
  F_lt : F < 2 ^ 16
  e_lt : e < 2 ^ 32
  e_zero : x = 0 → e = 0
  parse : parseEng eng op x tk.code tk.peer F e = some i

theorem Reads.guarded {i : Instr} {eng op F : Nat} {tk : Tok} {g : XP} (words : encode i = hdr eng g.bit tk op F :: g.words)
    (engine : i.eng = some eng) (tok : okTok eng tk = true) (form : opForm eng op = some .opt) (F_lt : F < 2 ^ 16)
    (guard : okXP g = true) (parse : parseEng eng op g.bit tk.code tk.peer F g.ext = some i) :
    Reads i eng g.bit op tk F g.ext where
  words := g.words_eq ▸ words
  engine := engine
  tok := tok
  form := ⟨.opt, form, g.bit_lt⟩
  F_lt := F_lt
  e_lt := XP.ext_lt guard
  e_zero h := by cases g with | none => rfl | some g => cases h
  parse := parse

theorem Reads.extended {i : Instr} {eng op F e : Nat} {tk : Tok} {f : Form} (words : encode i = [hdr eng 1 tk op F, e])
    (engine : i.eng = some eng) (tok : okTok eng tk = true) (form : opForm eng op = some f) (fits : f.fits 1) (F_lt : F < 2 ^
      16)
    (e_lt : e < 2 ^ 32) (parse : parseEng eng op 1 tk.code tk.peer F e = some i) :
    Reads i eng 1 op tk F e :=
  ⟨words, engine, tok, ⟨f, form, fits⟩, F_lt, e_lt, nofun, parse⟩

theorem Reads.bare {i : Instr} {eng op F : Nat} {tk : Tok} {f : Form} (words : encode i = [hdr eng 0 tk op F])
    (engine : i.eng = some eng) (tok : okTok eng tk = true) (form : opForm eng op = some f) (fits : f.fits 0) (F_lt : F < 2 ^
      16)
    (parse : parseEng eng op 0 tk.code tk.peer F 0 = some i) :
    Reads i eng 0 op tk F 0 :=
  ⟨words, engine, tok, ⟨f, form, fits⟩, F_lt, by decide, fun _ => rfl, parse⟩

theorem FV.word_lt {w : FV} (h : w.bounds = true) : w.word < 2 ^ 16 := by
  simp only [FV.bounds, okX, okK, okI6, okSpec, okBit, okSize, okW, okKind3, Bool.and_eq_true, decide_eq_true_eq] at h
  simp only [FV.word]; omega

theorem fvOf_of_word {w : FV} (h : w.bounds = true) : fvOf w.word = w := by
  simp only [FV.bounds, okX, okK, okI6, okSpec, okBit, okSize, okW, okKind3, Bool.and_eq_true, decide_eq_true_eq] at h
  simp (disch := omega) only [fvOf, FV.word, Nat.add_assoc, fld_here, fld_skip, fld_whole]

theorem XV.word_lt {w : XV} (h : w.bounds = true) : w.word < 2 ^ 32 := by
  simp only [XV.bounds, okX, okK, okI6, okSpec, okBit, okSize, okW, okKind3, Bool.and_eq_true, decide_eq_true_eq] at h
  simp only [XV.word]; omega

theorem xvOf_of_word {w : XV} (h : w.bounds = true) : xvOf w.word = w := by
  simp only [XV.bounds, okX, okK, okI6, okSpec, okBit, okSize, okW, okKind3, Bool.and_eq_true, decide_eq_true_eq] at h
  rw [XV.word, show w.bx * 2 = w.bx * 2 ^ 1 from rfl]
  simp (disch := omega) only [xvOf, Nat.add_assoc, fld_here, fld_skip, fld_whole]

theorem XM.word_lt {w : XM} (h : w.bounds = true) : w.word < 2 ^ 32 := by
  simp only [XM.bounds, okX, okK, okI6, okSpec, okBit, okSize, okW, okKind3, Bool.and_eq_true, decide_eq_true_eq] at h
  simp only [XM.word]; omega

theorem xmOf_of_word {w : XM} (h : w.bounds = true) : xmOf w.word = w := by
  simp only [XM.bounds, okX, okK, okI6, okSpec, okBit, okSize, okW, okKind3, Bool.and_eq_true, decide_eq_true_eq] at h
  simp (disch := omega) only [xmOf, XM.word, Nat.add_assoc, fld_here, fld_skip, fld_whole]

theorem XC.word_lt {w : XC} (h : w.bounds = true) : w.word < 2 ^ 32 := by
  simp only [XC.bounds, okX, okK, okI6, okSpec, okBit, okSize, okW, okKind3, Bool.and_eq_true, decide_eq_true_eq] at h
  simp only [XC.word]; omega

theorem xcOf_of_word {w : XC} (h : w.bounds = true) : xcOf w.word = w := by
  simp only [XC.bounds, okX, okK, okI6, okSpec, okBit, okSize, okW, okKind3, Bool.and_eq_true, decide_eq_true_eq] at h
  simp (disch := omega) only [xcOf, XC.word, Nat.add_assoc, fld_here, fld_skip, fld_whole]

theorem XMM.word_lt {w : XMM} (h : w.bounds = true) : w.word < 2 ^ 32 := by
  simp only [XMM.bounds, okX, okK, okI6, okSpec, okBit, okSize, okW, okKind3, Bool.and_eq_true, decide_eq_true_eq] at h
  simp only [XMM.word]; omega

theorem xmmOf_of_word {w : XMM} (h : w.bounds = true) : xmmOf w.word = w := by
  simp only [XMM.bounds, okX, okK, okI6, okSpec, okBit, okSize, okW, okKind3, Bool.and_eq_true, decide_eq_true_eq] at h
  simp (disch := omega) only [xmmOf, XMM.word, Nat.add_assoc, fld_here, fld_skip, fld_whole]

theorem XL.word_lt {w : XL} (h : w.bounds = true) : w.word < 2 ^ 32 := by
  simp only [XL.bounds, okX, okK, okI6, okSpec, okBit, okSize, okW, okKind3, Bool.and_eq_true, decide_eq_true_eq] at h
  simp only [XL.word]; omega

theorem xlOf_of_word {w : XL} (h : w.bounds = true) : xlOf w.word = w := by
  simp only [XL.bounds, okX, okK, okI6, okSpec, okBit, okSize, okW, okKind3, Bool.and_eq_true, decide_eq_true_eq] at h
  simp (disch := omega) only [xlOf, XL.word, Nat.add_assoc, fld_here, fld_skip, fld_whole]

theorem XW.word_lt {w : XW} (h : w.bounds = true) : w.word < 2 ^ 32 := by
  simp only [XW.bounds, okX, okK, okI6, okSpec, okBit, okSize, okW, okKind3, Bool.and_eq_true, decide_eq_true_eq] at h
  simp only [XW.word]; omega

theorem xwOf_of_word {w : XW} (h : w.bounds = true) : xwOf w.word = w := by
  simp only [XW.bounds, okX, okK, okI6, okSpec, okBit, okSize, okW, okKind3, Bool.and_eq_true, decide_eq_true_eq] at h
  simp (disch := omega) only [xwOf, XW.word, Nat.add_assoc, fld_here, fld_skip, fld_whole]

theorem XMM.word_res {w : XMM} (h : w.bounds = true) : fld w.word 12 3 = 0 := by
  simp only [XMM.bounds, okX, okI6, okBit, okSize, okKind3, Bool.and_eq_true, decide_eq_true_eq] at h
  simp (disch := omega) only [XMM.word, Nat.add_assoc, fld_skip, fld_over]

/-- Some opcode and some fields of engine `eng` stand for `i`. -/
def IsRead (i : Instr) (eng : Nat) : Prop := ∃ x op tk F e, Reads i eng x op tk F e

/-- A word with an optional guard and the operands `d, a, b` is read back. -/
theorem Reads.dab {C : Tok → Nat → Nat → Nat → XP → Instr} {eng op d a b : Nat} {tk : Tok} {g : XP}
    (words : encode (C tk d a b g) = hdr eng g.bit tk op (sh d 11 + sh a 6 + sh b 1) :: g.words) (engine : (C tk d a b g).eng
      = some eng)
    (form : opForm eng op = some .opt) (tok : okTok eng tk = true) (hd : d < 32) (ha : a < 32) (hb : b < 32) (guard : okXP g
      = true)
    (parse : ∀ x t p F e, parseEng eng op x t p F e =
      if fld F 0 1 = 0 ∧ xpRes x e then some (C (tokOf t p) (fld F 11 5) (fld F 6 5) (fld F 1 5) (xpOf x e)) else none) :
    IsRead (C tk d a b g) eng := by
  refine ⟨_, _, _, _, _, .guarded words engine tok form (by simp only [sh]; omega) guard ?_⟩
  rw [parse, if_pos ⟨by simp only [sh, fld]; omega, xpRes_ext guard⟩, tokOf_code_peer, xpOf_ext guard]
  simp (disch := omega) only [sh, Nat.add_assoc, fld_here, fld_skip, fld_here_alone, fld_whole]

/-- A word with an optional guard and the operands `d, a` is read back. -/
theorem Reads.da {C : Tok → Nat → Nat → XP → Instr} {eng op d a : Nat} {tk : Tok} {g : XP}
    (words : encode (C tk d a g) = hdr eng g.bit tk op (sh d 11 + sh a 6) :: g.words) (engine : (C tk d a g).eng = some eng)
    (form : opForm eng op = some .opt) (tok : okTok eng tk = true) (hd : d < 32) (ha : a < 32) (guard : okXP g = true)
    (parse : ∀ x t p F e, parseEng eng op x t p F e =
      if fld F 0 6 = 0 ∧ xpRes x e then some (C (tokOf t p) (fld F 11 5) (fld F 6 5) (xpOf x e)) else none) :
    IsRead (C tk d a g) eng := by
  refine ⟨_, _, _, _, _, .guarded words engine tok form (by simp only [sh]; omega) guard ?_⟩
  rw [parse, if_pos ⟨by simp only [sh, fld]; omega, xpRes_ext guard⟩, tokOf_code_peer, xpOf_ext guard]
  simp (disch := omega) only [sh, Nat.add_assoc, fld_here, fld_skip, fld_here_alone, fld_whole]

/-- A word with an optional guard and the operands `d, a, i` is read back. -/
theorem Reads.dai {C : Tok → Nat → Nat → Nat → XP → Instr} {eng op d a i : Nat} {tk : Tok} {g : XP}
    (words : encode (C tk d a i g) = hdr eng g.bit tk op (sh d 11 + sh a 6 + i) :: g.words) (engine : (C tk d a i g).eng =
      some eng)
    (form : opForm eng op = some .opt) (tok : okTok eng tk = true) (hd : d < 32) (ha : a < 32) (hi : i < 64) (guard : okXP g
      = true)
    (parse : ∀ x t p F e, parseEng eng op x t p F e =
      if xpRes x e then some (C (tokOf t p) (fld F 11 5) (fld F 6 5) (fld F 0 6) (xpOf x e)) else none) :
    IsRead (C tk d a i g) eng := by
  refine ⟨_, _, _, _, _, .guarded words engine tok form (by simp only [sh]; omega) guard ?_⟩
  rw [parse, if_pos (xpRes_ext guard), tokOf_code_peer, xpOf_ext guard]
  simp (disch := omega) only [sh, Nat.add_assoc, fld_here, fld_skip, fld_here_alone, fld_whole]

/-- A word with an optional guard and the operands `s` is read back. -/
theorem Reads.stream {C : Tok → Nat → XP → Instr} {eng op s : Nat} {tk : Tok} {g : XP}
    (words : encode (C tk s g) = hdr eng g.bit tk op (sh s 12) :: g.words) (engine : (C tk s g).eng = some eng)
    (form : opForm eng op = some .opt) (tok : okTok eng tk = true) (hs : s < 16) (guard : okXP g = true)
    (parse : ∀ x t p F e, parseEng eng op x t p F e =
      if fld F 0 12 = 0 ∧ xpRes x e then some (C (tokOf t p) (fld F 12 4) (xpOf x e)) else none) :
    IsRead (C tk s g) eng := by
  refine ⟨_, _, _, _, _, .guarded words engine tok form (by simp only [sh]; omega) guard ?_⟩
  rw [parse, if_pos ⟨by simp only [sh, fld]; omega, xpRes_ext guard⟩, tokOf_code_peer, xpOf_ext guard]
  simp (disch := omega) only [sh, Nat.add_assoc, fld_here, fld_skip, fld_here_alone, fld_whole]

/-- A word with the operands `d, a, b` and an `XM` word is read back. -/
theorem Reads.dabM {C : Tok → Nat → Nat → Nat → XM → Instr} {eng op d a b : Nat} {tk : Tok} {w : XM}
    (words : encode (C tk d a b w) = [hdr eng 1 tk op (sh d 11 + sh a 6 + sh b 1),
      w.word]) (engine : (C tk d a b w).eng = some eng)
    (form : opForm eng op = some .ext) (tok : okTok eng tk = true) (hd : d < 32) (ha : a < 32) (hb : b < 32) (hw : w.bounds =
      true)
    (parse : ∀ t p F e, parseEng eng op 1 t p F e =
      if fld F 0 1 = 0 then some (C (tokOf t p) (fld F 11 5) (fld F 6 5) (fld F 1 5) (xmOf e)) else none) :
    IsRead (C tk d a b w) eng := by
  refine ⟨_, _, _, _, _, .extended words engine tok form rfl (by simp only [sh]; omega) (XM.word_lt hw) ?_⟩
  rw [parse, if_pos (by simp only [sh, fld]; omega), tokOf_code_peer, xmOf_of_word hw]
  simp (disch := omega) only [sh, Nat.add_assoc, fld_here, fld_skip, fld_here_alone]

/-- A word with the operands `d, a, b` and an `XC` word is read back. -/
theorem Reads.dabC {C : Tok → Nat → Nat → Nat → XC → Instr} {eng op d a b : Nat} {tk : Tok} {w : XC}
    (words : encode (C tk d a b w) = [hdr eng 1 tk op (sh d 11 + sh a 6 + sh b 1),
      w.word]) (engine : (C tk d a b w).eng = some eng)
    (form : opForm eng op = some .ext) (tok : okTok eng tk = true) (hd : d < 32) (ha : a < 32) (hb : b < 32) (hw : w.bounds =
      true)
    (parse : ∀ t p F e, parseEng eng op 1 t p F e =
      if fld F 0 1 = 0 then some (C (tokOf t p) (fld F 11 5) (fld F 6 5) (fld F 1 5) (xcOf e)) else none) :
    IsRead (C tk d a b w) eng := by
  refine ⟨_, _, _, _, _, .extended words engine tok form rfl (by simp only [sh]; omega) (XC.word_lt hw) ?_⟩
  rw [parse, if_pos (by simp only [sh, fld]; omega), tokOf_code_peer, xcOf_of_word hw]
  simp (disch := omega) only [sh, Nat.add_assoc, fld_here, fld_skip, fld_here_alone]

/-- A lane word is read back. -/
theorem Reads.lanes {C : Tok → FV → XV → Instr} {op : Nat} {tk : Tok} {f : FV} {w : XV}
    (words : encode (C tk f w) = [hdr 2 1 tk op f.word, w.word]) (engine : (C tk f w).eng = some 2)
    (form : opForm 2 op = some .ext) (tok : okTok 2 tk = true) (hf : f.bounds = true) (hw : w.bounds = true)
    (parse : ∀ t p F e, parseEng 2 op 1 t p F e = some (C (tokOf t p) (fvOf F) (xvOf e))) :
    IsRead (C tk f w) 2 := by
  refine ⟨_, _, _, _, _, .extended words engine tok form rfl (FV.word_lt hf) (XV.word_lt hw) ?_⟩
  rw [parse, tokOf_code_peer, fvOf_of_word hf, xvOf_of_word hw]

/-- A WAIT of any engine is read back. -/
theorem Reads.wait {C : Tok → XW → Instr} {eng op : Nat} {tk : Tok} {w : XW}
    (words : encode (C tk w) = [hdr eng 1 tk op 0, w.word]) (engine : (C tk w).eng = some eng)
    (form : opForm eng op = some .ext) (tok : okTok eng tk = true) (hw : w.bounds = true)
    (parse : ∀ t p e, parseEng eng op 1 t p 0 e = some (C (tokOf t p) (xwOf e))) :
    IsRead (C tk w) eng := by
  refine ⟨_, _, _, _, _, .extended words engine tok form rfl (by decide) (XW.word_lt hw) ?_⟩
  rw [parse, tokOf_code_peer, xwOf_of_word hw]

/-- A word without operands is read back. -/
theorem Reads.alone {C : Tok → Instr} {eng op : Nat} {tk : Tok} {f : Form}
    (words : encode (C tk) = [hdr eng 0 tk op 0]) (engine : (C tk).eng = some eng)
    (form : opForm eng op = some f) (fits : f.fits 0) (tok : okTok eng tk = true)
    (parse : ∀ t p, parseEng eng op 0 t p 0 0 = some (C (tokOf t p))) :
    IsRead (C tk) eng :=
  ⟨_, _, _, _, _, .bare words engine tok form fits (by decide) (by rw [parse, tokOf_code_peer])⟩

theorem okCsr_lt {csr : Nat} (h : okCsr csr = true) : csr < 2 ^ 11 := by
  simp only [okCsr, List.contains_eq_mem, List.mem_cons, List.not_mem_nil, or_false, decide_eq_true_eq] at h
  omega

theorem reads_S {i : Instr} (hwf : i.wf = true) (heng : i.eng = some 0) : IsRead i 0 := by
  cases i
  case add tk d a b g | sub tk d a b g | and tk d a b g | or tk d a b g | xor tk d a b g | sll tk d a b g | srl tk d a b g |
      sra tk d a b g | mul tk d a b g | mulh tk d a b g | mulhu tk d a b g | div tk d a b g | divu tk d a b g | rem tk d a b
      g | remu tk d a b g | min tk d a b g | max tk d a b g | minu tk d a b g | maxu tk d a b g | slt tk d a b g | sltu tk d
      a b g | seq tk d a b g | add128 tk d a b g | pand tk d a b g | por tk d a b g | pxor tk d a b g =>
    simp only [Instr.wf, Bool.and_eq_true, okX, okK, okW, okBit, okI6, okI11, okI32, okSize, okKind3, okScope, okBarScope,
      okNz3, okSt, okSpec, decide_eq_true_eq] at hwf
    try casesm* _ ∧ _
    exact Reads.dab (tk := tk) (d := d) (a := a) (b := b) (g := g) rfl rfl rfl ‹_› ‹_› ‹_› ‹_› ‹_› fun _ _ _ _ _ => rfl
  case clz tk d a g | popc tk d a g | pnot tk d a g | kmov tk d a g | spos tk d a g =>
    simp only [Instr.wf, Bool.and_eq_true, okX, okK, okW, okBit, okI6, okI11, okI32, okSize, okKind3, okScope, okBarScope,
      okNz3, okSt, okSpec, decide_eq_true_eq] at hwf
    try casesm* _ ∧ _
    exact Reads.da (tk := tk) (d := d) (a := a) (g := g) rfl rfl rfl ‹_› (by omega) (by omega) ‹_› fun _ _ _ _ _ => rfl
  case addi tk d a imm g | andi tk d a imm g | ori tk d a imm g | xori tk d a imm g | kget tk d a imm g | ktest tk d a imm g
      | sget tk d a imm g =>
    simp only [Instr.wf, Bool.and_eq_true, okX, okK, okW, okBit, okI6, okI11, okI32, okSize, okKind3, okScope, okBarScope,
      okNz3, okSt, okSpec, decide_eq_true_eq] at hwf
    try casesm* _ ∧ _
    exact Reads.dai (tk := tk) (d := d) (a := a) (i := imm) (g := g) rfl rfl rfl ‹_› (by omega) (by omega) ‹_› ‹_› fun _ _ _
      _ _ => rfl
  case kld tk d a b m | kst tk d a b m | ld tk d a b m | st tk d a b m | ldaq tk d a b m | strl tk d a b m | amo tk d a b m |
      cas tk d a b m | nmc tk d a b m | sset tk d a b m | tcont tk d a b m =>
    simp only [Instr.wf, Bool.and_eq_true, okX, okK, okW, okBit, okI6, okI11, okI32, okSize, okKind3, okScope, okBarScope,
      okNz3, okSt, okSpec, decide_eq_true_eq] at hwf
    try casesm* _ ∧ _
    exact Reads.dabM (tk := tk) (d := d) (a := a) (b := b) (w := m) rfl rfl rfl ‹_› (by omega) (by omega) (by omega) ‹_› fun
      _ _ _ _ => rfl
  case waitS tk w =>
    simp only [Instr.wf, Bool.and_eq_true, okX, okK, okW, okBit, okI6, okI11, okI32, okSize, okKind3, okScope, okBarScope,
      okNz3, okSt, okSpec, decide_eq_true_eq] at hwf
    try casesm* _ ∧ _
    exact Reads.wait (tk := tk) (w := w) rfl rfl rfl ‹_› ‹_› fun _ _ _ => rfl
  case nmfence tk | oprel tk | reti tk | decline tk | nopS tk =>
    simp only [Instr.wf, Bool.and_eq_true, okX, okK, okW, okBit, okI6, okI11, okI32, okSize, okKind3, okScope, okBarScope,
      okNz3, okSt, okSpec, decide_eq_true_eq] at hwf
    try casesm* _ ∧ _
    exact Reads.alone (tk := tk) rfl rfl rfl rfl ‹_› fun _ _ => rfl
  case pset tk d v g | ptox tk d g | xtop tk a g | qpush tk d stage g | qpop tk d g | tevt tk d act ev g | targ tk d a sx
      size g | opget tk d imm g =>
    simp only [Instr.wf, Bool.and_eq_true, okX, okK, okW, okBit, okI6, okI11, okI32, okSize, okKind3, okScope, okBarScope,
      okNz3, okSt, okSpec, decide_eq_true_eq] at hwf
    try casesm* _ ∧ _
    refine ⟨_, _, _, _, _, .guarded rfl rfl ‹_› rfl (by simp only [sh]; omega) ‹_› ?_⟩
    change @ite _ _ _ _ _ = _
    simp only [sh, tokOf_code_peer, xpRes_ext ‹_›, xpOf_ext ‹_›]
    simp (disch := omega) only [Nat.add_assoc, fld_here, fld_skip, fld_here_alone, fld_under, fld_over, fld_whole, and_self,
      if_true]
  case liLong tk d imm32 | shi tk d a imm kind | pcmp tk d a b cond | ksub tk d a b imm32 | kperm tk d a perm | opreq tk d q
      imm32 =>
    simp only [Instr.wf, Bool.and_eq_true, okX, okK, okW, okBit, okI6, okI11, okI32, okSize, okKind3, okScope, okBarScope,
      okNz3, okSt, okSpec, decide_eq_true_eq] at hwf
    try casesm* _ ∧ _
    refine ⟨_, _, _, _, _, .extended rfl rfl ‹_› rfl (by simp [Form.fits]) (by simp only [sh]; omega) (by omega) ?_⟩
    change @ite _ _ _ _ _ = _
    simp only [sh, tokOf_code_peer]
    simp (disch := omega) only [Nat.add_assoc, fld_here, fld_skip, fld_here_alone, fld_under, fld_over, fld_whole,
      xvOf_of_word, xmmOf_of_word, xlOf_of_word, XMM.word_res, and_self, one_ne_zero, if_true, if_false]
  case ext tk d a sx pos wm1 =>
    simp only [Instr.wf, Bool.and_eq_true, okX, okK, okW, okBit, okI6, okI11, okI32, okSize, okKind3, okScope, okBarScope,
      okNz3, okSt, okSpec, decide_eq_true_eq] at hwf
    try casesm* _ ∧ _
    refine ⟨_, _, _, _, _,
      .extended rfl rfl ‹_› rfl (by simp [Form.fits]) (by simp only [sh]; omega) (by simp only [sh]; omega) ?_⟩
    change @ite _ _ _ _ _ = _
    simp only [sh, tokOf_code_peer]
    simp (disch := omega) only [Nat.add_assoc, fld_here, fld_skip, fld_here_alone, fld_under, fld_over, fld_whole,
      xvOf_of_word, xmmOf_of_word, xlOf_of_word, XMM.word_res, and_self, one_ne_zero, if_true, if_false]
  case fence tk kind scope | bar tk num scope | jguard tk a size | jpatch tk d a | jstat tk d imm | ctxsave tk a b | ctxload
      tk a b =>
    simp only [Instr.wf, Bool.and_eq_true, okX, okK, okW, okBit, okI6, okI11, okI32, okSize, okKind3, okScope, okBarScope,
      okNz3, okSt, okSpec, decide_eq_true_eq] at hwf
    try casesm* _ ∧ _
    refine ⟨_, _, _, _, _, .bare rfl rfl ‹_› rfl (by simp [Form.fits]) (by simp only [sh]; omega) ?_⟩
    change @ite _ _ _ _ _ = _
    simp only [sh, tokOf_code_peer]
    simp (disch := omega) only [Nat.add_assoc, fld_here, fld_skip, fld_here_alone, fld_under, fld_over, fld_whole, and_self,
      if_true]
  case jmark tk imm | trap tk imm =>
    simp only [Instr.wf, Bool.and_eq_true, okX, okK, okW, okBit, okI6, okI11, okI32, okSize, okKind3, okScope, okBarScope,
      okNz3, okSt, okSpec, decide_eq_true_eq] at hwf
    try casesm* _ ∧ _
    refine ⟨_, _, _, _, _, .bare rfl rfl ‹_› rfl (by simp [Form.fits]) (by omega) ?_⟩
    change @ite _ _ _ _ _ = _
    simp only [sh, tokOf_code_peer]
    simp (disch := omega) only [Nat.add_assoc, fld_here, fld_skip, fld_here_alone, fld_under, fld_over, fld_whole, and_self,
      if_true]
  case liShort tk d imm =>
    simp only [Instr.wf, Bool.and_eq_true, okX, okK, okW, okBit, okI6, okI11, okI32, okSize, okKind3, okScope, okBarScope,
      okNz3, okSt, okSpec, decide_eq_true_eq] at hwf
    try casesm* _ ∧ _
    refine ⟨_, _, _, _, _, .bare rfl rfl ‹_› rfl (by simp [Form.fits]) (by simp only [sh]; omega) ?_⟩
    change some _ = _
    simp only [sh, tokOf_code_peer]
    simp (disch := omega) only [Nat.add_assoc, fld_here, fld_skip, fld_here_alone, fld_under, fld_over, fld_whole, and_self,
      if_true]
  case csrr tk d csr | csrw tk d csr =>
    simp only [Instr.wf, Bool.and_eq_true, okX, okK, okW, okBit, okI6, okI11, okI32, okSize, okKind3, okScope, okBarScope,
      okNz3, okSt, okSpec, decide_eq_true_eq] at hwf
    try casesm* _ ∧ _
    have := okCsr_lt ‹okCsr csr = true›
    refine ⟨_, _, _, _, _, .bare rfl rfl ‹_› rfl (by simp [Form.fits]) (by simp only [sh]; omega) ?_⟩
    change some _ = _
    simp only [sh, tokOf_code_peer]
    simp (disch := omega) only [Nat.add_assoc, fld_here, fld_skip, fld_here_alone, fld_under, fld_over, fld_whole, and_self,
      if_true]
  all_goals cases heng

theorem reads_L {i : Instr} (hwf : i.wf = true) (heng : i.eng = some 1) : IsRead i 1 := by
  cases i
  case sgoL tk s g | srewL tk s g | sdropL tk s g =>
    simp only [Instr.wf, Bool.and_eq_true, okX, okK, okW, okBit, okI6, okI11, okI32, okSize, okKind3, okScope, okBarScope,
      okNz3, okSt, okSpec, decide_eq_true_eq] at hwf
    try casesm* _ ∧ _
    exact Reads.stream (tk := tk) (s := s) (g := g) rfl rfl rfl ‹_› ‹_› ‹_› fun _ _ _ _ _ => rfl
  case waitL tk w =>
    simp only [Instr.wf, Bool.and_eq_true, okX, okK, okW, okBit, okI6, okI11, okI32, okSize, okKind3, okScope, okBarScope,
      okNz3, okSt, okSpec, decide_eq_true_eq] at hwf
    try casesm* _ ∧ _
    exact Reads.wait (tk := tk) (w := w) rfl rfl rfl ‹_› ‹_› fun _ _ _ => rfl
  case nopL tk =>
    simp only [Instr.wf, Bool.and_eq_true, okX, okK, okW, okBit, okI6, okI11, okI32, okSize, okKind3, okScope, okBarScope,
      okNz3, okSt, okSpec, decide_eq_true_eq] at hwf
    try casesm* _ ∧ _
    exact Reads.alone (tk := tk) rfl rfl rfl rfl ‹_› fun _ _ => rfl
  case lsv tk s sp g | lbrd tk s sp g =>
    simp only [Instr.wf, Bool.and_eq_true, okX, okK, okW, okBit, okI6, okI11, okI32, okSize, okKind3, okScope, okBarScope,
      okNz3, okSt, okSpec, decide_eq_true_eq] at hwf
    try casesm* _ ∧ _
    refine ⟨_, _, _, _, _, .guarded rfl rfl ‹_› rfl (by simp only [sh]; omega) ‹_› ?_⟩
    change @ite _ _ _ _ _ = _
    simp only [sh, tokOf_code_peer, xpRes_ext ‹_›, xpOf_ext ‹_›]
    simp (disch := omega) only [Nat.add_assoc, fld_here, fld_skip, fld_here_alone, fld_under, fld_over, fld_whole, and_self,
      if_true]
  case sskipL tk s imm32 =>
    simp only [Instr.wf, Bool.and_eq_true, okX, okK, okW, okBit, okI6, okI11, okI32, okSize, okKind3, okScope, okBarScope,
      okNz3, okSt, okSpec, decide_eq_true_eq] at hwf
    try casesm* _ ∧ _
    refine ⟨_, _, _, _, _, .extended rfl rfl ‹_› rfl (by simp [Form.fits]) (by simp only [sh]; omega) (by omega) ?_⟩
    change @ite _ _ _ _ _ = _
    simp only [sh, tokOf_code_peer]
    simp (disch := omega) only [Nat.add_assoc, fld_here, fld_skip, fld_here_alone, fld_under, fld_over, fld_whole,
      xvOf_of_word, xmmOf_of_word, xlOf_of_word, XMM.word_res, and_self, one_ne_zero, if_true, if_false]
  case lgath tk s sp x =>
    simp only [Instr.wf, Bool.and_eq_true, okX, okK, okW, okBit, okI6, okI11, okI32, okSize, okKind3, okScope, okBarScope,
      okNz3, okSt, okSpec, decide_eq_true_eq] at hwf
    try casesm* _ ∧ _
    refine ⟨_, _, _, _, _, .extended rfl rfl ‹_› rfl (by simp [Form.fits]) (by simp only [sh]; omega) (XV.word_lt ‹_›) ?_⟩
    change @ite _ _ _ _ _ = _
    simp only [sh, tokOf_code_peer]
    simp (disch := first | assumption | omega) only [Nat.add_assoc, fld_here, fld_skip, fld_here_alone, fld_under, fld_over,
      fld_whole, xvOf_of_word, xmmOf_of_word, xlOf_of_word, XMM.word_res, and_self, one_ne_zero, if_true, if_false]
  all_goals cases heng

theorem reads_V {i : Instr} (hwf : i.wf = true) (heng : i.eng = some 2) : IsRead i 2 := by
  cases i
  case vadd tk f x | vsub tk f x | vmul tk f x | vfma tk f x | vfms tk f x | vfnma tk f x | vdiv tk f x | vsqrt tk f x | vrcp
      tk f x | vrsq tk f x | vexp2 tk f x | vlog2 tk f x | vmin tk f x | vmax tk f x | vabs tk f x | vneg tk f x | vand tk f
      x | vor tk f x | vxor tk f x | vnot tk f x | vshl tk f x | vshr tk f x | vsra tk f x | vmulh tk f x | vcmp tk f x |
      vsel tk f x | vmov tk f x | vcvt tk f x | vclass tk f x | vidx tk f x | vbcast tk f x | vextr tk f x | vred tk f x |
      vscan tk f x | vshuf tk f x | vrot tk f x | vcpush tk f x | vcpop tk f x | vccnt tk f x | vrng tk f x | vql6 tk f x |
      vdl6 tk f x | vpack tk f x | vunpk tk f x =>
    simp only [Instr.wf, Bool.and_eq_true, okX, okK, okW, okBit, okI6, okI11, okI32, okSize, okKind3, okScope, okBarScope,
      okNz3, okSt, okSpec, decide_eq_true_eq] at hwf
    try casesm* _ ∧ _
    exact Reads.lanes (tk := tk) (f := f) (w := x) rfl rfl rfl ‹_› ‹_› ‹_› fun _ _ _ _ => rfl
  case waitV tk w =>
    simp only [Instr.wf, Bool.and_eq_true, okX, okK, okW, okBit, okI6, okI11, okI32, okSize, okKind3, okScope, okBarScope,
      okNz3, okSt, okSpec, decide_eq_true_eq] at hwf
    try casesm* _ ∧ _
    exact Reads.wait (tk := tk) (w := w) rfl rfl rfl ‹_› ‹_› fun _ _ _ => rfl
  case nopV tk =>
    simp only [Instr.wf, Bool.and_eq_true, okX, okK, okW, okBit, okI6, okI11, okI32, okSize, okKind3, okScope, okBarScope,
      okNz3, okSt, okSpec, decide_eq_true_eq] at hwf
    try casesm* _ ∧ _
    exact Reads.alone (tk := tk) rfl rfl rfl rfl ‹_› fun _ _ => rfl
  case bhint tk d fall kind g | bwake tk d kind g | balloc tk d take g | bstat tk d imm g =>
    simp only [Instr.wf, Bool.and_eq_true, okX, okK, okW, okBit, okI6, okI11, okI32, okSize, okKind3, okScope, okBarScope,
      okNz3, okSt, okSpec, decide_eq_true_eq] at hwf
    try casesm* _ ∧ _
    refine ⟨_, _, _, _, _, .guarded rfl rfl ‹_› rfl (by simp only [sh]; omega) ‹_› ?_⟩
    change @ite _ _ _ _ _ = _
    simp only [sh, tokOf_code_peer, xpRes_ext ‹_›, xpOf_ext ‹_›]
    simp (disch := omega) only [Nat.add_assoc, fld_here, fld_skip, fld_here_alone, fld_under, fld_over, fld_whole, and_self,
      if_true]
  all_goals cases heng

theorem reads_W {i : Instr} (hwf : i.wf = true) (heng : i.eng = some 3) : IsRead i 3 := by
  cases i
  case sgoW tk s g | srewW tk s g | sdropW tk s g =>
    simp only [Instr.wf, Bool.and_eq_true, okX, okK, okW, okBit, okI6, okI11, okI32, okSize, okKind3, okScope, okBarScope,
      okNz3, okSt, okSpec, decide_eq_true_eq] at hwf
    try casesm* _ ∧ _
    exact Reads.stream (tk := tk) (s := s) (g := g) rfl rfl rfl ‹_› ‹_› ‹_› fun _ _ _ _ _ => rfl
  case waitW tk w =>
    simp only [Instr.wf, Bool.and_eq_true, okX, okK, okW, okBit, okI6, okI11, okI32, okSize, okKind3, okScope, okBarScope,
      okNz3, okSt, okSpec, decide_eq_true_eq] at hwf
    try casesm* _ ∧ _
    exact Reads.wait (tk := tk) (w := w) rfl rfl rfl ‹_› ‹_› fun _ _ _ => rfl
  case nopW tk =>
    simp only [Instr.wf, Bool.and_eq_true, okX, okK, okW, okBit, okI6, okI11, okI32, okSize, okKind3, okScope, okBarScope,
      okNz3, okSt, okSpec, decide_eq_true_eq] at hwf
    try casesm* _ ∧ _
    exact Reads.alone (tk := tk) rfl rfl rfl rfl ‹_› fun _ _ => rfl
  case wsv tk s sp last g | wacc tk s sp last g =>
    simp only [Instr.wf, Bool.and_eq_true, okX, okK, okW, okBit, okI6, okI11, okI32, okSize, okKind3, okScope, okBarScope,
      okNz3, okSt, okSpec, decide_eq_true_eq] at hwf
    try casesm* _ ∧ _
    refine ⟨_, _, _, _, _, .guarded rfl rfl ‹_› rfl (by simp only [sh]; omega) ‹_› ?_⟩
    change @ite _ _ _ _ _ = _
    simp only [sh, tokOf_code_peer, xpRes_ext ‹_›, xpOf_ext ‹_›]
    simp (disch := omega) only [Nat.add_assoc, fld_here, fld_skip, fld_here_alone, fld_under, fld_over, fld_whole, and_self,
      if_true]
  case sskipW tk s imm32 =>
    simp only [Instr.wf, Bool.and_eq_true, okX, okK, okW, okBit, okI6, okI11, okI32, okSize, okKind3, okScope, okBarScope,
      okNz3, okSt, okSpec, decide_eq_true_eq] at hwf
    try casesm* _ ∧ _
    refine ⟨_, _, _, _, _, .extended rfl rfl ‹_› rfl (by simp [Form.fits]) (by simp only [sh]; omega) (by omega) ?_⟩
    change @ite _ _ _ _ _ = _
    simp only [sh, tokOf_code_peer]
    simp (disch := omega) only [Nat.add_assoc, fld_here, fld_skip, fld_here_alone, fld_under, fld_over, fld_whole,
      xvOf_of_word, xmmOf_of_word, xlOf_of_word, XMM.word_res, and_self, one_ne_zero, if_true, if_false]
  case wscat tk s sp last x =>
    simp only [Instr.wf, Bool.and_eq_true, okX, okK, okW, okBit, okI6, okI11, okI32, okSize, okKind3, okScope, okBarScope,
      okNz3, okSt, okSpec, decide_eq_true_eq] at hwf
    try casesm* _ ∧ _
    refine ⟨_, _, _, _, _, .extended rfl rfl ‹_› rfl (by simp [Form.fits]) (by simp only [sh]; omega) (XV.word_lt ‹_›) ?_⟩
    change some _ = _
    simp only [sh, tokOf_code_peer]
    simp (disch := first | assumption | omega) only [Nat.add_assoc, fld_here, fld_skip, fld_here_alone, fld_under, fld_over,
      fld_whole, xvOf_of_word, xmmOf_of_word, xlOf_of_word, XMM.word_res, and_self, one_ne_zero, if_true, if_false]
  case wflush tk scope =>
    simp only [Instr.wf, Bool.and_eq_true, okX, okK, okW, okBit, okI6, okI11, okI32, okSize, okKind3, okScope, okBarScope,
      okNz3, okSt, okSpec, decide_eq_true_eq] at hwf
    try casesm* _ ∧ _
    refine ⟨_, _, _, _, _, .bare rfl rfl ‹_› rfl (by simp [Form.fits]) (by omega) ?_⟩
    change @ite _ _ _ _ _ = _
    simp only [sh, tokOf_code_peer]
    simp (disch := omega) only [Nat.add_assoc, fld_here, fld_skip, fld_here_alone, fld_under, fld_over, fld_whole, and_self,
      if_true]
  all_goals cases heng

theorem reads_M {i : Instr} (hwf : i.wf = true) (heng : i.eng = some 4) : IsRead i 4 := by
  cases i
  case waitM tk w =>
    simp only [Instr.wf, Bool.and_eq_true, okX, okK, okW, okBit, okI6, okI11, okI32, okSize, okKind3, okScope, okBarScope,
      okNz3, okSt, okSpec, decide_eq_true_eq] at hwf
    try casesm* _ ∧ _
    exact Reads.wait (tk := tk) (w := w) rfl rfl rfl ‹_› ‹_› fun _ _ _ => rfl
  case nopM tk =>
    simp only [Instr.wf, Bool.and_eq_true, okX, okK, okW, okBit, okI6, okI11, okI32, okSize, okKind3, okScope, okBarScope,
      okNz3, okSt, okSpec, decide_eq_true_eq] at hwf
    try casesm* _ ∧ _
    exact Reads.alone (tk := tk) rfl rfl rfl rfl ‹_› fun _ _ => rfl
  case mclr tk d g =>
    simp only [Instr.wf, Bool.and_eq_true, okX, okK, okW, okBit, okI6, okI11, okI32, okSize, okKind3, okScope, okBarScope,
      okNz3, okSt, okSpec, decide_eq_true_eq] at hwf
    try casesm* _ ∧ _
    refine ⟨_, _, _, _, _, .guarded rfl rfl ‹_› rfl (by simp only [sh]; omega) ‹_› ?_⟩
    change @ite _ _ _ _ _ = _
    simp only [sh, tokOf_code_peer, xpRes_ext ‹_›, xpOf_ext ‹_›]
    simp (disch := omega) only [Nat.add_assoc, fld_here, fld_skip, fld_here_alone, fld_under, fld_over, fld_whole, and_self,
      if_true]
  case mscal tk d imm32 =>
    simp only [Instr.wf, Bool.and_eq_true, okX, okK, okW, okBit, okI6, okI11, okI32, okSize, okKind3, okScope, okBarScope,
      okNz3, okSt, okSpec, decide_eq_true_eq] at hwf
    try casesm* _ ∧ _
    refine ⟨_, _, _, _, _, .extended rfl rfl ‹_› rfl (by simp [Form.fits]) (by simp only [sh]; omega) (by omega) ?_⟩
    change @ite _ _ _ _ _ = _
    simp only [sh, tokOf_code_peer]
    simp (disch := omega) only [Nat.add_assoc, fld_here, fld_skip, fld_here_alone, fld_under, fld_over, fld_whole,
      xvOf_of_word, xmmOf_of_word, xlOf_of_word, XMM.word_res, and_self, one_ne_zero, if_true, if_false]
  case mmul tk s bk last m | mmulb tk s bk last m =>
    simp only [Instr.wf, Bool.and_eq_true, okX, okK, okW, okBit, okI6, okI11, okI32, okSize, okKind3, okScope, okBarScope,
      okNz3, okSt, okSpec, decide_eq_true_eq] at hwf
    try casesm* _ ∧ _
    refine ⟨_, _, _, _, _, .extended rfl rfl ‹_› rfl (by simp [Form.fits]) (by simp only [sh]; omega) (XMM.word_lt ‹_›) ?_⟩
    change @ite _ _ _ _ _ = _
    simp only [sh, tokOf_code_peer]
    simp (disch := first | assumption | omega) only [Nat.add_assoc, fld_here, fld_skip, fld_here_alone, fld_under, fld_over,
      fld_whole, xvOf_of_word, xmmOf_of_word, xlOf_of_word, XMM.word_res, and_self, one_ne_zero, if_true, if_false]
  case mbset tk imm imm32 =>
    simp only [Instr.wf, Bool.and_eq_true, okX, okK, okW, okBit, okI6, okI11, okI32, okSize, okKind3, okScope, okBarScope,
      okNz3, okSt, okSpec, decide_eq_true_eq] at hwf
    try casesm* _ ∧ _
    refine ⟨_, _, _, _, _, .extended rfl rfl ‹_› rfl (by simp [Form.fits]) (by omega) (by omega) ?_⟩
    change @ite _ _ _ _ _ = _
    simp only [sh, tokOf_code_peer]
    simp (disch := omega) only [Nat.add_assoc, fld_here, fld_skip, fld_here_alone, fld_under, fld_over, fld_whole,
      xvOf_of_word, xmmOf_of_word, xlOf_of_word, XMM.word_res, and_self, one_ne_zero, if_true, if_false]
  case mjoin tk sz src g =>
    simp only [Instr.wf, Bool.and_eq_true, okX, okK, okW, okBit, okI6, okI11, okI32, okSize, okKind3, okScope, okBarScope,
      okNz3, okSt, okSpec, decide_eq_true_eq] at hwf
    try casesm* _ ∧ _
    refine ⟨_, _, _, _, _, .bare rfl rfl ‹_› rfl (by simp [Form.fits]) (by simp only [sh]; omega) ?_⟩
    change @ite _ _ _ _ _ = _
    simp only [sh, tokOf_code_peer]
    simp (disch := omega) only [Nat.add_assoc, fld_here, fld_skip, fld_here_alone, fld_under, fld_over, fld_whole, and_self,
      if_true]
  case mleave tk g =>
    simp only [Instr.wf, Bool.and_eq_true, okX, okK, okW, okBit, okI6, okI11, okI32, okSize, okKind3, okScope, okBarScope,
      okNz3, okSt, okSpec, decide_eq_true_eq] at hwf
    try casesm* _ ∧ _
    refine ⟨_, _, _, _, _, .bare rfl rfl ‹_› rfl (by simp [Form.fits]) (by omega) ?_⟩
    change @ite _ _ _ _ _ = _
    simp only [sh, tokOf_code_peer]
    simp (disch := omega) only [Nat.add_assoc, fld_here, fld_skip, fld_here_alone, fld_under, fld_over, fld_whole, and_self,
      if_true]
  all_goals cases heng

theorem reads_C {i : Instr} (hwf : i.wf = true) (heng : i.eng = some 5) : IsRead i 5 := by
  cases i
  case wadv tk d a imm g =>
    simp only [Instr.wf, Bool.and_eq_true, okX, okK, okW, okBit, okI6, okI11, okI32, okSize, okKind3, okScope, okBarScope,
      okNz3, okSt, okSpec, decide_eq_true_eq] at hwf
    try casesm* _ ∧ _
    exact Reads.dai (tk := tk) (d := d) (a := a) (i := imm) (g := g) rfl rfl rfl ‹_› (by omega) (by omega) ‹_› ‹_› fun _ _ _
      _ _ => rfl
  case cpy tk d a b c | ccvt tk d a b c | cfill tk d a b c | bload tk d a b c | wdef tk d a b c =>
    simp only [Instr.wf, Bool.and_eq_true, okX, okK, okW, okBit, okI6, okI11, okI32, okSize, okKind3, okScope, okBarScope,
      okNz3, okSt, okSpec, decide_eq_true_eq] at hwf
    try casesm* _ ∧ _
    exact Reads.dabC (tk := tk) (d := d) (a := a) (b := b) (w := c) rfl rfl rfl ‹_› (by omega) (by omega) (by omega) ‹_› fun
      _ _ _ _ => rfl
  case waitC tk w =>
    simp only [Instr.wf, Bool.and_eq_true, okX, okK, okW, okBit, okI6, okI11, okI32, okSize, okKind3, okScope, okBarScope,
      okNz3, okSt, okSpec, decide_eq_true_eq] at hwf
    try casesm* _ ∧ _
    exact Reads.wait (tk := tk) (w := w) rfl rfl rfl ‹_› ‹_› fun _ _ _ => rfl
  case dstop tk | nopC tk =>
    simp only [Instr.wf, Bool.and_eq_true, okX, okK, okW, okBit, okI6, okI11, okI32, okSize, okKind3, okScope, okBarScope,
      okNz3, okSt, okSpec, decide_eq_true_eq] at hwf
    try casesm* _ ∧ _
    exact Reads.alone (tk := tk) rfl rfl rfl rfl ‹_› fun _ _ => rfl
  case wrel tk d g | dstat tk d wt sel g =>
    simp only [Instr.wf, Bool.and_eq_true, okX, okK, okW, okBit, okI6, okI11, okI32, okSize, okKind3, okScope, okBarScope,
      okNz3, okSt, okSpec, decide_eq_true_eq] at hwf
    try casesm* _ ∧ _
    refine ⟨_, _, _, _, _, .guarded rfl rfl ‹_› rfl (by simp only [sh]; omega) ‹_› ?_⟩
    change @ite _ _ _ _ _ = _
    simp only [sh, tokOf_code_peer, xpRes_ext ‹_›, xpOf_ext ‹_›]
    simp (disch := omega) only [Nat.add_assoc, fld_here, fld_skip, fld_here_alone, fld_under, fld_over, fld_whole, and_self,
      if_true]
  case dload tk a b ks =>
    simp only [Instr.wf, Bool.and_eq_true, okX, okK, okW, okBit, okI6, okI11, okI32, okSize, okKind3, okScope, okBarScope,
      okNz3, okSt, okSpec, decide_eq_true_eq] at hwf
    try casesm* _ ∧ _
    refine ⟨_, _, _, _, _, .extended rfl rfl ‹_› rfl (by simp [Form.fits]) (by simp only [sh]; omega) (by omega) ?_⟩
    change @ite _ _ _ _ _ = _
    simp only [sh, tokOf_code_peer]
    simp (disch := omega) only [Nat.add_assoc, fld_here, fld_skip, fld_here_alone, fld_under, fld_over, fld_whole,
      xvOf_of_word, xmmOf_of_word, xlOf_of_word, XMM.word_res, and_self, one_ne_zero, if_true, if_false]
  case dstart tk a =>
    simp only [Instr.wf, Bool.and_eq_true, okX, okK, okW, okBit, okI6, okI11, okI32, okSize, okKind3, okScope, okBarScope,
      okNz3, okSt, okSpec, decide_eq_true_eq] at hwf
    try casesm* _ ∧ _
    refine ⟨_, _, _, _, _, .bare rfl rfl ‹_› rfl (by simp [Form.fits]) (by simp only [sh]; omega) ?_⟩
    change @ite _ _ _ _ _ = _
    simp only [sh, tokOf_code_peer]
    simp (disch := omega) only [Nat.add_assoc, fld_here, fld_skip, fld_here_alone, fld_under, fld_over, fld_whole, and_self,
      if_true]
  all_goals cases heng

theorem reads_A {i : Instr} (hwf : i.wf = true) (heng : i.eng = some 6) : IsRead i 6 := by
  cases i
  case yield  | endW  | sync  | nopA  =>
    simp only [Instr.wf, Bool.and_eq_true, okX, okK, okW, okBit, okI6, okI11, okI32, okSize, okKind3, okScope, okBarScope,
      okNz3, okSt, okSpec, decide_eq_true_eq] at hwf
    try casesm* _ ∧ _
    exact ⟨_, _, _, _, _, .bare rfl rfl rfl rfl (by simp [Form.fits]) (by decide) rfl⟩
  case br d sense imm32 | call d imm32 =>
    simp only [Instr.wf, Bool.and_eq_true, okX, okK, okW, okBit, okI6, okI11, okI32, okSize, okKind3, okScope, okBarScope,
      okNz3, okSt, okSpec, decide_eq_true_eq] at hwf
    try casesm* _ ∧ _
    refine ⟨_, _, _, _, _, .extended rfl rfl rfl rfl (by simp [Form.fits]) (by simp only [sh]; omega) (by omega) ?_⟩
    change @ite _ _ _ _ _ = _
    simp only [sh, tokOf_code_peer]
    simp (disch := omega) only [Nat.add_assoc, fld_here, fld_skip, fld_here_alone, fld_under, fld_over, fld_whole,
      xvOf_of_word, xmmOf_of_word, xlOf_of_word, XMM.word_res, and_self, one_ne_zero, if_true, if_false]
  case loop d l =>
    simp only [Instr.wf, Bool.and_eq_true, okX, okK, okW, okBit, okI6, okI11, okI32, okSize, okKind3, okScope, okBarScope,
      okNz3, okSt, okSpec, decide_eq_true_eq] at hwf
    try casesm* _ ∧ _
    refine ⟨_, _, _, _, _, .extended rfl rfl rfl rfl (by simp [Form.fits]) (by simp only [sh]; omega) (XL.word_lt ‹_›) ?_⟩
    change @ite _ _ _ _ _ = _
    simp only [sh, tokOf_code_peer]
    simp (disch := first | assumption | omega) only [Nat.add_assoc, fld_here, fld_skip, fld_here_alone, fld_under, fld_over,
      fld_whole, xvOf_of_word, xmmOf_of_word, xlOf_of_word, XMM.word_res, and_self, one_ne_zero, if_true, if_false]
  case jmp imm32 =>
    simp only [Instr.wf, Bool.and_eq_true, okX, okK, okW, okBit, okI6, okI11, okI32, okSize, okKind3, okScope, okBarScope,
      okNz3, okSt, okSpec, decide_eq_true_eq] at hwf
    try casesm* _ ∧ _
    exact ⟨_, _, _, _, _, .extended rfl rfl rfl rfl (by simp [Form.fits]) (by decide) (by omega) rfl⟩
  case ret a | blend d | bret d =>
    simp only [Instr.wf, Bool.and_eq_true, okX, okK, okW, okBit, okI6, okI11, okI32, okSize, okKind3, okScope, okBarScope,
      okNz3, okSt, okSpec, decide_eq_true_eq] at hwf
    try casesm* _ ∧ _
    refine ⟨_, _, _, _, _, .bare rfl rfl rfl rfl (by simp [Form.fits]) (by simp only [sh]; omega) ?_⟩
    change @ite _ _ _ _ _ = _
    simp only [sh, tokOf_code_peer]
    simp (disch := omega) only [Nat.add_assoc, fld_here, fld_skip, fld_here_alone, fld_under, fld_over, fld_whole, and_self,
      if_true]
  all_goals cases heng

/-- The words of an instruction are as many as its length in words says. -/
theorem encode_length {i : Instr} (h : i.eng ≠ none) : (encode i).length = i.len := by
  have hg (g : XP) : g.words.length + 1 = XPlen g := by cases g <;> rfl
  cases i
  all_goals solve | rfl | exact hg _ | exact absurd rfl h

theorem parseEng_eng {eng op x tk peer F e : Nat} {i : Instr} (h : parseEng eng op x tk peer F e = some i) : i.eng = some eng
    := by
  unfold parseEng at h
  split at h
  · unfold parseS at h
    split at h
    case h_27 => split_ifs at h <;> cases h <;> rfl
    all_goals simp only [Option.ite_none_right_eq_some, Option.some.injEq, reduceCtorEq] at h
    all_goals try cases_type* And
    all_goals subst_vars; rfl
  · unfold parseL at h
    split at h
    all_goals simp only [Option.ite_none_right_eq_some, Option.some.injEq, reduceCtorEq] at h
    all_goals try cases_type* And
    all_goals subst_vars; rfl
  · unfold parseV at h
    split at h
    all_goals simp only [Option.ite_none_right_eq_some, Option.some.injEq, reduceCtorEq] at h
    all_goals try cases_type* And
    all_goals subst_vars; rfl
  · unfold parseW at h
    split at h
    all_goals simp only [Option.ite_none_right_eq_some, Option.some.injEq, reduceCtorEq] at h
    all_goals try cases_type* And
    all_goals subst_vars; rfl
  · unfold parseM at h
    split at h
    all_goals simp only [Option.ite_none_right_eq_some, Option.some.injEq, reduceCtorEq] at h
    all_goals try cases_type* And
    all_goals subst_vars; rfl
  · unfold parseC at h
    split at h
    all_goals simp only [Option.ite_none_right_eq_some, Option.some.injEq, reduceCtorEq] at h
    all_goals try cases_type* And
    all_goals subst_vars; rfl
  · unfold parseA at h
    split at h
    all_goals simp only [Option.ite_none_right_eq_some, Option.some.injEq, reduceCtorEq] at h
    all_goals try cases_type* And
    all_goals subst_vars; rfl
  · cases h

/-- A header that passes checks 1 to 4 of R33, and only such a one: its token fields and its X bit agree with its opcode. -/
theorem headerCheck_eq_ok {h : Nat} {f : Form} : headerCheck h = .ok f ↔
    fld h 29 3 ≠ 7 ∧ tokOk (fld h 29 3) (fld h 26 2) (fld h 23 3) = true ∧ opForm (fld h 29 3) (fld h 16 7) = some f ∧
      f.fits (fld h 28 1) := by
  have hx : fld h 28 1 < 2 := Nat.mod_lt _ (by decide)
  by_cases h7 : fld h 29 3 = 7
  · simp [headerCheck, h7]
  cases htok : tokOk (fld h 29 3) (fld h 26 2) (fld h 23 3) with
  | false => simp [headerCheck, h7, htok]
  | true =>
    simp only [headerCheck, if_neg h7, htok, Bool.true_eq_false, if_false, ne_eq, h7, not_false_eq_true, true_and]
    cases opForm (fld h 29 3) (fld h 16 7) with
    | none => simp
    | some k => cases k <;> cases f <;> simp [Form.fits, hx] <;> split_ifs <;> simp

theorem tokOf_of_ok {eng tk peer : Nat} (htk : tk < 4) (h : tokOk eng tk peer = true) :
    (tokOf tk peer).code = tk ∧ (tokOf tk peer).peer = peer := by
  unfold tokOk at h
  obtain rfl | rfl | rfl | rfl : tk = 0 ∨ tk = 1 ∨ tk = 2 ∨ tk = 3 := by omega
  · exact ⟨rfl, (of_decide_eq_true h).symm⟩
  all_goals
    rw [if_neg (by decide)] at h
    simp only [Bool.and_eq_true, decide_eq_true_eq] at h
    refine ⟨rfl, ?_⟩
    obtain ⟨⟨hp, -⟩, -⟩ := h
    interval_cases peer <;> rfl

theorem tokOk_of_okTok {eng : Nat} {tk : Tok} (h : okTok eng tk = true) (h6 : eng ≠ 6) : tokOk eng tk.code tk.peer = true := by
  have hc (p : Eng) : p.code < 6 := by cases p <;> decide
  cases tk with
  | none => rfl
  | wait p | post p | both p =>
    simp only [okTok, decide_eq_true_eq] at h
    simp [tokOk, Tok.code, Tok.peer, hc p, h6, h]

/-- What an opcode's fields are read as has these words for its encoding. -/
theorem parseEng_encode {eng op x tk peer F e : Nat} {i : Instr} {f : Form} (h : parseEng eng op x tk peer F e = some i)
    (hF : F < 2 ^ 16) (he : e < 2 ^ 32) (hf : opForm eng op = some f) (hx : f.fits x) :
    encode i = hdr eng x (if eng = 6 then .none else tokOf tk peer) op F :: extWords x e := by
  unfold parseEng at h
  split at h
  · exact parseS_encode h hF he hf hx
  · exact parseL_encode h hF he hf hx
  · exact parseV_encode h hF he hf hx
  · exact parseW_encode h hF he hf hx
  · exact parseM_encode h hF he hf hx
  · exact parseC_encode h hF he hf hx
  · exact parseA_encode h hF he hf hx
  · cases h

theorem tokOk_control {tk peer : Nat} (h : tokOk 6 tk peer = true) : tk = 0 ∧ peer = 0 := by
  unfold tokOk at h
  split_ifs at h with htk
  · exact ⟨htk, of_decide_eq_true h⟩
  · simp at h

/-- A header is made of its fields. -/
theorem hdr_of_fields {h : Nat} (hh : h < 2 ^ 32) {tk : Tok} (hc : tk.code = fld h 26 2) (hp : tk.peer = fld h 23 3) :
    hdr (fld h 29 3) (fld h 28 1) tk (fld h 16 7) (fld h 0 16) = h := by
  calc hdr (fld h 29 3) (fld h 28 1) tk (fld h 16 7) (fld h 0 16)
      = fld h 29 3 * 2 ^ 29 + fld h 28 1 * 2 ^ 28 + fld h 26 2 * 2 ^ 26 + fld h 23 3 * 2 ^ 23 + fld h 16 7 * 2 ^ 16
          + fld h 0 16 * 2 ^ 0 := by rw [hdr, hc, hp, Nat.pow_zero, Nat.mul_one]
    _ = fld h 0 32 * 2 ^ 0 := by rw [fld_cat, fld_cat, fld_cat, fld_cat, fld_cat] <;> rfl
    _ = h := by rw [fld_whole hh, Nat.pow_zero, Nat.mul_one]

/-- Settles O2: a word that decodes passes the header check, so its token and its X bit agree with its opcode; the fields of
each opcode that parse make up the whole of its operand field and extension word. -/
theorem acceptedWordsAreTheEncoding : Obligations.AcceptedWordsAreTheEncoding := by
  unfold Obligations.AcceptedWordsAreTheEncoding
  intro h e i hh he hd
  obtain ⟨⟨f, hhead⟩, hfield⟩ := decodeWords_eq_ok hd
  obtain ⟨hwf, hparse⟩ := fieldCheck_eq_ok hfield
  obtain ⟨-, htok, hform, hfits⟩ := headerCheck_eq_ok.mp hhead
  have htk : fld h 26 2 < 4 := Nat.mod_lt _ (by decide)
  obtain ⟨hcode, hpeer⟩ := tokOf_of_ok htk htok
  have hF : fld h 0 16 < 2 ^ 16 := Nat.mod_lt _ (by decide)
  have hx : fld h 28 1 < 2 := Nat.mod_lt _ (by decide)
  refine ⟨hwf, parseEng_eng hparse, ?_⟩
  rw [parseEng_encode hparse hF (by split_ifs <;> omega) hform hfits, hdr_of_fields hh]
  · obtain h0 | h1 : fld h 28 1 = 0 ∨ fld h 28 1 = 1 := by omega
    · simp [h0]
    · simp [h1]
  · split_ifs with h6
    · exact (tokOk_control (h6 ▸ htok)).1.symm
    · exact hcode
  · split_ifs with h6
    · exact (tokOk_control (h6 ▸ htok)).2.symm
    · exact hpeer

theorem Reads.tokOk {i : Instr} {eng x op F e : Nat} {tk : Tok} (r : Reads i eng x op tk F e) : tokOk eng tk.code tk.peer =
    true := by
  by_cases h6 : eng = 6
  · subst h6
    obtain ⟨f, hform, hfits⟩ := r.form
    have hw := r.words.symm.trans (parseEng_encode r.parse r.F_lt r.e_lt hform hfits)
    simp only [hdr, List.cons.injEq, and_true, if_true, show Tok.none.code = 0 from rfl, show Tok.none.peer = 0 from rfl] at hw
    have : tk.code = 0 ∧ tk.peer = 0 := by omega
    rw [this.1, this.2]; rfl
  · exact tokOk_of_okTok r.tok h6

theorem isRead_of_wf {i : Instr} {eng : Nat} (hwf : i.wf = true) (heng : i.eng = some eng) (hlt : eng < 7) : IsRead i eng := by
  interval_cases eng
  · exact reads_S hwf heng
  · exact reads_L hwf heng
  · exact reads_V hwf heng
  · exact reads_W hwf heng
  · exact reads_M hwf heng
  · exact reads_C hwf heng
  · exact reads_A hwf heng

theorem Instr.eng_lt {i : Instr} {eng : Nat} (h : i.eng = some eng) : eng < 7 := by
  cases i <;> cases h <;> decide

theorem Form.fits_lt {f : Form} {x : Nat} (h : f.fits x) : x < 2 := by
  cases f <;> simp only [Form.fits] at h <;> omega

theorem opForm_lt {eng op : Nat} {f : Form} (h : opForm eng op = some f) : op < 128 := by
  by_contra hlt
  unfold opForm at h
  split at h
  · unfold opFormS at h; split at h <;> first | omega | cases h
  · unfold opFormL at h; split at h <;> first | omega | cases h
  · unfold opFormV at h; split at h <;> first | omega | cases h
  · unfold opFormW at h; split at h <;> first | omega | cases h
  · unfold opFormM at h; split at h <;> first | omega | cases h
  · unfold opFormC at h; split at h <;> first | omega | cases h
  · unfold opFormA at h; split at h <;> first | omega | cases h
  · cases h

theorem Tok.code_lt (tk : Tok) : tk.code < 4 := by cases tk <;> simp [Tok.code]
theorem Tok.peer_lt (tk : Tok) : tk.peer < 8 := by
  have hc (p : Eng) : p.code < 8 := by cases p <;> decide
  cases tk with
  | none => decide
  | wait p | post p | both p => exact hc p

/-- A header whose fields are in range, and what is read back from it. -/
theorem hdr_fields {eng x op F : Nat} (tk : Tok) (heng : eng < 7) (hx : x < 2) (hop : op < 128) (hF : F < 2 ^ 16) :
    hdr eng x tk op F < 2 ^ 32 ∧ fld (hdr eng x tk op F) 29 3 = eng ∧ fld (hdr eng x tk op F) 28 1 = x ∧
      fld (hdr eng x tk op F) 26 2 = tk.code ∧ fld (hdr eng x tk op F) 23 3 = tk.peer ∧ fld (hdr eng x tk op F) 16 7 = op ∧
      fld (hdr eng x tk op F) 0 16 = F := by
  have hc := tk.code_lt
  have hp := tk.peer_lt
  refine ⟨by simp only [hdr]; omega, ?_⟩
  simp (disch := omega) only [hdr, Nat.add_assoc, fld_here, fld_skip, fld_whole, and_self]

/-- The fields of a header that parse as a well-formed instruction pass check 5. -/
theorem fieldCheck_of_parse {w e x op F eng tk peer : Nat} {i : Instr} (hwf : i.wf = true) (heng : fld w 29 3 = eng)
    (hx : fld w 28 1 = x) (hcode : fld w 26 2 = tk) (hpeer : fld w 23 3 = peer) (hop : fld w 16 7 = op) (hF : fld w 0 16 = F)
    (hp : parseEng eng op x tk peer F e = some i) : fieldCheck w e = .ok i := by
  simp only [fieldCheck, heng, hx, hcode, hpeer, hop, hF, hp, hwf, if_true]

theorem Reads.header {i : Instr} {eng x op F e : Nat} {tk : Tok} (r : Reads i eng x op tk F e) :
    hdr eng x tk op F < 2 ^ 32 ∧ fld (hdr eng x tk op F) 29 3 = eng ∧ fld (hdr eng x tk op F) 28 1 = x ∧
      ∃ f, headerCheck (hdr eng x tk op F) = .ok f := by
  obtain ⟨f, hform, hfits⟩ := r.form
  have heng := Instr.eng_lt r.engine
  obtain ⟨hlt, heng', hx, hcode, hpeer, hop, -⟩ := hdr_fields tk heng (Form.fits_lt hfits) (opForm_lt hform) r.F_lt
  refine ⟨hlt, heng', hx, f, ?_⟩
  rw [headerCheck_eq_ok, heng', hx, hcode, hpeer, hop]
  exact ⟨by omega, r.tokOk, hform, hfits⟩

theorem Reads.fields {i : Instr} {eng x op F e : Nat} {tk : Tok} (r : Reads i eng x op tk F e) (hwf : i.wf = true) :
    fieldCheck (hdr eng x tk op F) e = .ok i := by
  obtain ⟨f, hform, hfits⟩ := r.form
  have h := hdr_fields tk (Instr.eng_lt r.engine) (Form.fits_lt hfits) (opForm_lt hform) r.F_lt
  obtain ⟨-, heng, hx, hcode, hpeer, hop, hF⟩ := h
  exact fieldCheck_of_parse hwf heng hx hcode hpeer hop hF r.parse

/-- A word that passes its checks decodes, with the extension word that its X bit announces. -/
theorem decodeWords_of_checks {w x e : Nat} {f : Form} {i : Instr} (hhead : headerCheck w = .ok f) (hx : fld w 28 1 = x)
    (h0 : x = 0 → e = 0) (hfield : fieldCheck w e = .ok i) : decodeWords w (extWords x e)[0]? = .ok i := by
  unfold decodeWords
  simp only [hhead, hx]
  split_ifs with hx0
  · rw [← hfield, h0 hx0]
  · rw [extWords, if_neg hx0]
    exact hfield

theorem Reads.decode {i : Instr} {eng x op F e : Nat} {tk : Tok} (r : Reads i eng x op tk F e) (hwf : i.wf = true) :
    decodeWords (hdr eng x tk op F) (extWords x e)[0]? = .ok i := by
  obtain ⟨-, -, hx, f, hhead⟩ := r.header
  exact decodeWords_of_checks hhead hx r.e_zero (r.fields hwf)

/-- Settles O1: every well-formed instruction is what the parser reads from the fields of its words, and the header holds these
fields. -/
theorem decodeOfEncodeIsTheInstruction : Obligations.DecodeOfEncodeIsTheInstruction := by
  unfold Obligations.DecodeOfEncodeIsTheInstruction
  intro i hwf hne
  obtain ⟨eng, heng⟩ := Option.ne_none_iff_exists'.mp hne
  obtain ⟨x, op, tk, F, e, r⟩ := isRead_of_wf hwf heng (Instr.eng_lt heng)
  obtain ⟨f, -, hfits⟩ := r.form
  obtain ⟨hlt, heng', hx, -⟩ := r.header
  have hlen := encode_length hne
  have hx2 := Form.fits_lt hfits
  refine ⟨_, ?_, hlt, by rw [heng', heng], ?_⟩
  · rw [← hlen, r.words, hx]
    obtain rfl | rfl : x = 0 ∨ x = 1 := by omega
    · exact .inl ⟨rfl, rfl, rfl⟩
    · exact .inr ⟨e, rfl, rfl, rfl, r.e_lt⟩
  · rw [r.words]
    exact r.decode hwf

end Sys2Proof
end

section
/-! O4, O6, O60.  Decoded words written out, and the state that reset leaves. -/
namespace Sys2Proof.Machine

/-- Settles O4: each word is decoded by evaluation. -/
theorem wordsOfTheCountdownDecode : Obligations.WordsOfTheCountdownDecode := by
  unfold Obligations.WordsOfTheCountdownDecode
  decide

/-- Settles O6: the memory after reset lists no byte, tag or poison. -/
theorem resetMemoryIsCanonical : Obligations.ResetMemoryIsCanonical := by
  unfold Obligations.ResetMemoryIsCanonical
  rfl

theorem State.reset_unit (u : Nat) : State.reset.unit u = UnitSt.reset := rfl

/-- Settles O60: reset lists no unit, byte or tag, so each value is the default that an unlisted key reads as. -/
theorem resetLeavesTheStatedValues : Obligations.ResetLeavesTheStatedValues := by
  unfold Obligations.ResetLeavesTheStatedValues
  intro u _ s U
  have hp (n : Nat) (h1 : 1 ≤ n) (h23 : n ≤ 23) : U.pS n = false := by
    unfold UnitSt.pS UnitSt.predAt
    rw [if_neg (by omega)]
    split_ifs with h22 h3
    · exact BitVec.getLsbD_zero
    · rfl
    · omega
    · omega
  have hx (n : Nat) : U.xS n = 0 := by
    simp [U, s, State.reset_unit, UnitSt.xS, UnitSt.reset, Work.reset, Regs.reset, fwdX, Regs.getX, SMap.get]
  have htframe : 0xC0 * 4096 = 0xC0000 := by norm_num
  have hop : fld (s.opstate u) 0 16 = 0 := by
    simp [fld, s, State.opstate, State.cluster, State.leaseOf, State.reset_unit, State.task, State.reset, Cluster.reset,
      Clock.reset,
      Hub.reset, Campion.reset, SMap.get]
  have hdead : fld (s.csr u 0x011) 0 32 = 65536 := (by decide : fld UnitSt.reset.pdeadline 0 32 = 65536)
  have halloc : UnitSt.reset.afterFalls.bankalloc = 0 := by decide
  exact ⟨hx, fun _ => rfl, hp, fun _ _ => rfl, fun _ _ => rfl, fun _ _ => ⟨rfl, rfl⟩, fun _ _ => rfl, rfl, rfl, htframe, rfl,
    hdead, halloc,
    rfl, rfl, rfl, rfl, hop, fun _ _ => rfl, fun _ _ => rfl, fun _ _ => rfl, fun _ _ => rfl⟩

end Sys2Proof.Machine
end


section
/-! O3, O5.  One step: what an act of the agenda comes to, S's fetch and its traps, and what a step adds to an act. -/
namespace Sys2Proof.Machine

/-- A step takes the first act of the agenda. -/
theorem step_of_agenda {s : State} {a : Act} {acts : List Act} (h : s.agenda = a :: acts) :
    step s = stepAfter { s with agenda := acts, tick := s.tick + 1 } a
      ((({ s with agenda := acts, tick := s.tick + 1 } : State).plan a).out exec) := by
  have next : s.nextAct = (a, { s with agenda := acts, tick := s.tick + 1 }) := by simp only [State.nextAct, h]
  rw [step, next]
  rfl

/-- What a fetch comes to. -/
def Fetch.plan (s : State) (u : Nat) : Fetch → Plan
  | .word i => .run i s
  | .trap t => .done (s.takeTrap u t)
  | .pass => .done (s.sPass u)
  | .idle => .done s

/-- S's act on a unit that runs, outside a replay and a context transfer, is its fetch. -/
theorem State.planEngine_S {s : State} {u : Nat} (hu : u < 768) (hr : s.runs u = true) (hh : (s.unit u).sHeld = false)
    (ht : (s.unit u).tape.run ≠ 2) :
    s.planEngine u .S = (({ s with who := (u, .S) } : State).fetchS u).plan { s with who := (u, .S) } u := by
  simp [State.planEngine, State.approach, State.fetch, hr, hh, ht, Nat.not_le.mpr hu]
  rfl

/-- Another engine's act on a unit that runs, outside a handler, is its fetch, once it has passed over foreign words. -/
theorem State.planEngine_of_ne {s : State} {u : Nat} {e : Eng} (he : e ≠ .S) (hu : u < 768) (hr : s.runs u = true)
    (hh : (s.unit u).inHandler = false) :
    s.planEngine u e = ((s.approach u e).fetchE u e).plan (s.approach u e) u := by
  simp [State.planEngine, State.fetch, he, hr, hh, Nat.not_le.mpr hu]
  rfl

/-- A word of S, or of every engine, that decodes and may stand where it does is what S fetches. -/
theorem State.fetchS_word {s : State} {u : Nat} {i : Instr} (hlen : (s.unit u).pcOf .S < (s.unit u).tlen)
    (hd : decodeWords (s.textAt (s.unit u) ((s.unit u).pcOf .S))
      (if (s.unit u).pcOf .S + 1 < (s.unit u).tlen then some (s.textAt (s.unit u) ((s.unit u).pcOf .S + 1)) else none) = .ok i)
    (hslot : slotOk ((s.unit u).redirOf .S) (s.textAt (s.unit u) ((s.unit u).pcOf .S))
      (1 + fld (s.textAt (s.unit u) ((s.unit u).pcOf .S)) 28 1) = true)
    (heng : fld (s.textAt (s.unit u) ((s.unit u).pcOf .S)) 29 3 = 0 ∨ fld (s.textAt (s.unit u) ((s.unit u).pcOf .S)) 29 3 = 6) :
    s.fetchS u = .word i := by
  unfold State.fetchS
  rw [if_neg (Nat.not_le.mpr hlen)]
  simp only [hd, hslot]
  obtain h0 | h6 := heng
  · simp [h0]
  · simp [h6]

/-- What S fetches where the words at its PC do not decode: TEXT where the text ends before them, else UND. -/
theorem State.fetchS_of_reject {s : State} {u : Nat} {q : Reject} (hlen : (s.unit u).pcOf .S < (s.unit u).tlen)
    (hd : decodeWords (s.textAt (s.unit u) ((s.unit u).pcOf .S))
      (if (s.unit u).pcOf .S + 1 < (s.unit u).tlen then some (s.textAt (s.unit u) ((s.unit u).pcOf .S + 1)) else none) =
        .error q) :
    s.fetchS u = .trap ⟨if q = .noExt ∨ q = .noHeader then .text else .und, fld (s.textAt (s.unit u) ((s.unit u).pcOf .S)) 29 3,
      (s.unit u).pcOf .S, s.textAt (s.unit u) ((s.unit u).pcOf .S)⟩ := by
  unfold State.fetchS
  rw [if_neg (Nat.not_le.mpr hlen)]
  simp only [hd]
  cases q <;> rfl

/-- A word of S, or of every engine, that may not stand in its delay slot. -/
theorem State.fetchS_of_slot {s : State} {u : Nat} {i : Instr} (hlen : (s.unit u).pcOf .S < (s.unit u).tlen)
    (hd : decodeWords (s.textAt (s.unit u) ((s.unit u).pcOf .S))
      (if (s.unit u).pcOf .S + 1 < (s.unit u).tlen then some (s.textAt (s.unit u) ((s.unit u).pcOf .S + 1)) else none) = .ok i)
    (hslot : slotOk ((s.unit u).redirOf .S) (s.textAt (s.unit u) ((s.unit u).pcOf .S))
      (1 + fld (s.textAt (s.unit u) ((s.unit u).pcOf .S)) 28 1) = false)
    (heng : fld (s.textAt (s.unit u) ((s.unit u).pcOf .S)) 29 3 = 0 ∨ fld (s.textAt (s.unit u) ((s.unit u).pcOf .S)) 29 3 = 6) :
    s.fetchS u = .trap ⟨.slot, fld (s.textAt (s.unit u) ((s.unit u).pcOf .S)) 29 3, (s.unit u).pcOf .S,
      s.textAt (s.unit u) ((s.unit u).pcOf .S)⟩ := by
  unfold State.fetchS
  rw [if_neg (Nat.not_le.mpr hlen)]
  simp only [hd, hslot]
  obtain h0 | h6 := heng
  · simp [h0]
  · simp [h6]

theorem State.lateActs_of_none {s : State} (h : ∀ q ∈ s.units, (s.unit q.1).work.late = []) : s.lateActs = s := by
  unfold State.lateActs
  refine List.foldlRecOn (motive := fun t => t = s) s.units _ rfl fun t ht q hq => ?_
  subst ht
  rw [if_pos (.inl (h q hq))]

/-- The least of a list of faults, the first among equals. -/
theorem foldl_least {α : Type} (l : List (Nat × α)) (b : Nat × α) :
    (l.foldl (fun b q => if q.1 < b.1 then q else b) b = b ∨ l.foldl (fun b q => if q.1 < b.1 then q else b) b ∈ l) ∧
      (l.foldl (fun b q => if q.1 < b.1 then q else b) b).1 ≤ b.1 ∧
      ∀ q ∈ l, (l.foldl (fun b q => if q.1 < b.1 then q else b) b).1 ≤ q.1 := by
  induction l generalizing b with
  | nil => simp
  | cons x xs ih =>
    rw [List.foldl_cons]
    by_cases hx : x.1 < b.1
    · obtain ⟨hm, hle, hall⟩ := ih x
      rw [if_pos hx]
      exact ⟨.inr (List.mem_cons.mpr hm), by omega, List.forall_mem_cons.mpr ⟨hle, hall⟩⟩
    · obtain ⟨hm, hle, hall⟩ := ih b
      rw [if_neg hx]
      exact ⟨hm.imp_right (List.mem_cons_of_mem x), hle, List.forall_mem_cons.mpr ⟨by omega, hall⟩⟩

theorem mem_engs (e : Eng) : e ∈ engs := by cases e <;> decide

/-- Settles O5. -/
theorem stepRunsTheDecodedInstruction : Obligations.StepRunsTheDecodedInstruction := by
  unfold Obligations.StepRunsTheDecodedInstruction
  refine ⟨?_, ?_, ?_, ?_, ?_⟩
  · intro s u acts i ha hu hr hh ht hlen hd hslot heng
    have hp := State.planEngine_S (s := { s with agenda := acts, tick := s.tick + 1 }) hu hr hh ht
    have hf : ({ s with agenda := acts, tick := s.tick + 1, who := (u, .S) } : State).fetchS u = .word i :=
      State.fetchS_word hlen hd hslot heng
    rw [step_of_agenda ha, State.plan, hp.trans (congrArg (Fetch.plan _ u) hf)]
    rfl
  · intro s u e acts r i ha he hu hr hh hrec hd
    have hp := State.planEngine_of_ne (s := { s with agenda := acts, tick := s.tick + 1 }) he hu hr hh
    rw [step_of_agenda ha, State.plan, hp, State.fetchE]
    simp only [hrec, hd]
    rfl
  · intro s acts i ha hi
    rw [step_of_agenda ha, State.plan, if_pos hi]
    rfl
  · intro s t a hlate hf
    cases a with
    | engine u e =>
      rw [State.afterAct, State.firstFault, hf u e rfl]
      exact State.lateActs_of_none hlate
    | _ => exact State.lateActs_of_none hlate
  · intro s t u e r hf hr
    obtain ⟨hm, hle, hall⟩ :=
      foldl_least ((engs.filter fun x => x != e).filterMap (s.faultOf exec u)) (r.addr, t)
    generalize hleast : List.foldl _ _ _ = m at hm hle hall
    refine ⟨m.1, m.2, ?_, ?_, hle, ?_⟩
    · unfold State.firstFault
      simp only [hf, hr, ← hleast]
      rfl
    · refine hm.imp (fun h => ⟨congrArg Prod.fst h, congrArg Prod.snd h⟩) fun h => ?_
      obtain ⟨e', he', hq⟩ := List.mem_filterMap.mp h
      exact ⟨e', by simpa using (List.mem_filter.mp he').2, hq⟩
    · intro e' b t2 he' hq
      exact hall (b, t2) (List.mem_filterMap.mpr ⟨e', List.mem_filter.mpr ⟨mem_engs e', by simpa using he'⟩, hq⟩)

/-- Settles O3: the checks of the header in their order; S's fetch is a trap, and the step takes it. -/
theorem undecodableWordsAreNamedAndTrap : Obligations.UndecodableWordsAreNamedAndTrap := by
  unfold Obligations.UndecodableWordsAreNamedAndTrap
  refine ⟨?_, ?_⟩
  · intro h x
    refine ⟨?_, ?_, ?_, ?_, ?_⟩
    · intro h7; simp [decodeWords, headerCheck, h7]
    · intro h7 ht; simp [decodeWords, headerCheck, h7, ht]
    · intro h7 ht ho; simp [decodeWords, headerCheck, h7, ht, ho]
    · rintro h7 ht (⟨ho, hx⟩ | ⟨ho, hx⟩) <;> simp [decodeWords, headerCheck, h7, ht, ho, hx]
    · rintro h7 ht (ho | ho) hx <;> simp [decodeWords, headerCheck, h7, ht, ho, hx]
  · intro s u acts ha hu hr hh ht s0 U a h x meets
    have traps {t : Trap} (hf : ({ s0 with who := (u, .S) } : State).fetchS u = .trap t) : meets t := by
      have hp := State.planEngine_S (s := s0) hu hr hh ht
      change step s = _
      rw [step_of_agenda ha, State.plan, hp.trans (congrArg (Fetch.plan _ u) hf)]
      rfl
    refine ⟨fun hlen => traps (if_pos hlen), ?_, ?_, ?_⟩
    · intro q hlen hext hhead hd
      have hf : ({ s0 with who := (u, .S) } : State).fetchS u = _ := State.fetchS_of_reject hlen hd
      rw [if_neg (by simp [hext, hhead])] at hf
      exact traps hf
    · intro hlen hd
      exact traps (State.fetchS_of_reject hlen hd)
    · intro i hlen hd heng hslot
      exact traps (State.fetchS_of_slot hlen hd hslot heng)

end Sys2Proof.Machine
end


section
/-! O8, O9, O10.  Scalar and predicate words: each is a word that writes one register, with the value of its rule. -/
namespace Sys2Proof.Machine

theorem boolWord_decide (p : Prop) [Decidable p] : boolWord (decide p) = if p then 1 else 0 := by
  by_cases h : p <;> simp [boolWord, h]

/-- What KGET selects, by the fields' places in the capability (R167). -/
theorem kget_eq (c : Cap) (imm : Nat) : kget c imm =
    if imm = 0 then c.bits.extractLsb' 0 64
    else if imm = 1 then (c.bits.extractLsb' 64 48).setWidth 64
    else if imm = 2 then (c.bits.extractLsb' 116 8).setWidth 64
    else if imm = 3 then (c.bits.extractLsb' 124 4).setWidth 64
    else if imm = 4 then (if c.tag then 1 else 0)
    else if imm = 5 then c.bits.extractLsb' 0 64
    else c.bits.extractLsb' 64 64 := by
  have hf (lo n : Nat) (hn : n ≤ 64) : BitVec.ofNat 64 (c.f lo n) = (c.bits.extractLsb' lo n).setWidth 64 := by
    apply BitVec.eq_of_toNat_eq
    simp [Cap.f, fld, Nat.shiftRight_eq_div_pow]
  have hw (lo : Nat) : BitVec.ofNat 64 (c.f lo 64) = c.bits.extractLsb' lo 64 := by
    rw [hf lo 64 le_rfl, BitVec.setWidth_eq]
  match imm with
  | 0 => exact hw 0
  | 1 => exact hf 64 48 (by decide)
  | 2 => exact hf 116 8 (by decide)
  | 3 => exact hf 124 4 (by decide)
  | 4 => by_cases ht : c.tag = true <;> simp [kget, ht]
  | 5 => exact hw 0
  | n + 6 => exact hw 64

/-- Settles O8. -/
theorem scalarWordsWriteTheirValue : Obligations.ScalarWordsWriteTheirValue := by
  unfold Obligations.ScalarWordsWriteTheirValue
  intro i F hF s u r h
  cases i
  case add | sub | and | or | xor | sll | srl | sra | min | max | slt | minu | maxu | sltu | seq | clz | popc | addi | andi |
    ori | xori |
      liShort | liLong | ptox | kget =>
    cases hF
    dsimp only at h
    delta exec
    simp only [execAdd, execSub, execAnd, execOr, execXor, execSll, execSrl, execSra, shCount, execMin, execMax, execSlt,
      execMinu,
      execMaxu, execSltu, execSeq, execClz, execPopc, execAddi, execAndi, execOri, execXori, execLiShort, execLiLong,
        execPtox, execKget,
      UnitSt.predsWord,
      State.xWord_of_ready h, BitVec.slt, BitVec.ult, boolWord_decide, decide_eq_true_eq, clz_eq, popFrom_eq, preds_eq,
        kget_eq,
      sxWord_eq_sx _ 6 (by decide) (by decide), sxWord_eq_sx _ 11 (by decide) (by decide),
        sxWord_eq_sx _ 32 (by decide) (by decide)]
  case ext tk d a sgn pos wm1 =>
    cases hF
    dsimp only at h
    delta exec
    simp only [execExt, State.xWord_of_ready h, extField_eq_any _ _ _ _ (Nat.succ_pos _)]
  case shi tk d a imm kind =>
    cases hF
    dsimp only at h
    delta exec
    simp only [execShi, State.xWord_of_ready h]
    match kind with
    | 0 => rfl
    | 1 => rfl
    | k + 2 => rfl
  case sget tk d a imm g =>
    cases hF
    dsimp only at h
    delta exec
    simp only [execSget, State.xWord_of_ready h]
    match imm with
    | 0 => rfl
    | 1 => rfl
    | 2 => cases hm : ((s.swordCheck.unit u).stream a).mode <;> cases ha : ((s.swordCheck.unit u).stream a).active <;> simp
      [hm, ha]
    | 3 => rfl
    | k + 4 => rfl
  case opget | csrr =>
    cases hF
    dsimp only at h
    delta exec
    simp only [execOpget, execCsrr, State.sWord_of_ready h, who_of_sready h]
    rfl
  all_goals cases hF

theorem sdivW_eq (a b : Word) : sdivW a b = if b = 0 then -1 else a.sdiv b := by
  unfold sdivW
  split_ifs
  · rfl
  · apply BitVec.eq_of_toInt_eq
    rw [BitVec.toInt_ofInt, BitVec.toInt_sdiv]

theorem udivW_eq (a b : Word) : udivW a b = if b = 0 then -1 else a.udiv b := by
  unfold udivW
  split_ifs
  · rfl
  · apply BitVec.eq_of_toNat_eq
    simp [Nat.mod_eq_of_lt (Nat.lt_of_le_of_lt (Nat.div_le_self _ _) a.isLt)]

theorem sremW_eq (a b : Word) : sremW a b = if b = 0 then a else a.srem b := by
  unfold sremW
  split_ifs
  · rfl
  · apply BitVec.eq_of_toInt_eq
    rw [BitVec.toInt_ofInt, ← BitVec.toInt_srem, BitVec.toInt_bmod_cancel]

theorem uremW_eq (a b : Word) : uremW a b = if b = 0 then a else a.umod b := by
  unfold uremW
  split_ifs
  · rfl
  · apply BitVec.eq_of_toNat_eq
    simp [Nat.mod_eq_of_lt (Nat.lt_of_le_of_lt (Nat.mod_le _ _) a.isLt)]

theorem hiProd_natCast (n : Nat) : hiProd (n : Int) = BitVec.ofNat 64 (n / 2 ^ 64) := by
  unfold hiProd
  exact BitVec.ofInt_natCast 64 (n / 2 ^ 64)

theorem UnitSt.dividing_iff (U : UnitSt) : (U.work.fl.any fun q =>
    q.eng == .S && decide (q.wait = .arith) && decide (0x0B ≤ fld q.hdr 16 7)) = true ↔ U.dividing := by
  simp [UnitSt.dividing, and_assoc]

/-- A word of S whose x result takes several cycles. -/
theorem State.xLong_of_ready {s : State} {u : Nat} {r : PassRec} {tk : Tok} {g : XP} {rd : List Nat} (h : SReady s u r tk g rd)
    (d : Nat) (alone : Bool) (v : UnitSt → Word) (hdiv : alone = true → ¬ (s.swordCheck.unit u).dividing) :
    s.xLong tk g d rd alone v = .next (s.swordCheck.leaves u .S r tk { s.swordCheck.flight u .S r tk with
      eff := [.x d (v (s.swordCheck.unit u))], wr := [d], wait := .arith }) := by
  rw [State.xLong, State.sWord_of_ready h, if_neg]
  · rfl
  · rw [Bool.and_eq_true, UnitSt.dividing_iff]
    exact fun hd => hdiv hd.1 hd.2

theorem UnitSt.pairS_toNat (U : UnitSt) (a : Nat) : (U.pairS a).toNat = (U.xS a).toNat + 2 ^ 64 * (U.xS (a + 1)).toNat := by
  rw [UnitSt.pairS, BitVec.toNat_ofNat, Nat.mod_eq_of_lt (by omega), Nat.mul_comm]

/-- Settles O9. -/
theorem longAndPairArithmeticIssues : Obligations.LongAndPairArithmeticIssues := by
  unfold Obligations.LongAndPairArithmeticIssues
  refine ⟨?_, ?_⟩
  · intro i F alone hF s u r h hdiv
    cases i
    case mul | mulhu | div | divu | rem | remu =>
      cases hF
      dsimp only at h
      delta exec
      simp only [execMul, execMulhu, execDiv, execDivu, execRem, execRemu, State.xLong_of_ready h _ _ _ hdiv, sdivW_eq,
        udivW_eq,
        sremW_eq, uremW_eq, ← Int.natCast_mul, hiProd_natCast]
    case mulh =>
      cases hF
      delta exec
      simp only [execMulh, State.xLong_of_ready h _ _ _ hdiv]
      rfl
    all_goals cases hF
  · intro tk d a b g s u r h
    have hsum (v : Word128) : (v.truncate 64 : Word).toNat + 2 ^ 64 * ((v >>> 64).truncate 64 : Word).toNat = v.toNat := by
      simp only [BitVec.truncate_eq_setWidth, BitVec.toNat_setWidth, BitVec.toNat_ushiftRight, Nat.shiftRight_eq_div_pow]
      omega
    refine ⟨_, _, (hsum ((s.swordCheck.unit u).pairS a + (s.swordCheck.unit u).pairS b)).trans ?_, ?_⟩
    · rw [BitVec.toNat_add, UnitSt.pairS_toNat, UnitSt.pairS_toNat, ← Nat.add_assoc]
    · delta exec
      simp only [execAdd128, State.sWord_of_ready h]
      rfl

/-- Settles O10. -/
theorem predicateWordsWriteTheirValue : Obligations.PredicateWordsWriteTheirValue := by
  unfold Obligations.PredicateWordsWriteTheirValue
  refine ⟨?_, ?_⟩
  · intro i tk g d rd v hF s u r h
    cases i
    case pset | pand | por | pxor | pnot | ktest =>
      cases hF
      delta exec
      simp only [execPset, execPand, execPor, execPxor, execPnot, execKtest, State.pWord_of_ready h, bne]
    case pcmp tk d a b cond =>
      cases hF
      delta exec
      simp only [execPcmp, State.pWord_of_ready h]
      match cond with
      | 0 => rfl
      | 1 => simp [condHolds]
      | 2 => simp [condHolds, BitVec.slt]
      | 3 => simp [condHolds, BitVec.slt, ← decide_not]
      | 4 => simp [condHolds, BitVec.ult]
      | k + 5 => simp [condHolds, BitVec.ult, ← decide_not]
    all_goals cases hF
  · intro tk a g s u r h
    delta exec
    simp only [execXtop, State.sWord_of_ready h]
    rfl

end Sys2Proof.Machine
end


section
/-! O11.  The frame of a scalar word fails for a record whose header is another word's: the order of memory goes by the
  header, and a
QPOP's takes what a release has told the stage queue. -/
namespace Sys2Proof.Machine

/-- Unit 0 runs; the word at its PC has the header of a QPOP, and its cluster keeps what a release has told its stage queue. -/
def qpopHeaderState : State :=
  { State.reset with
    units := [(0, { UnitSt.reset with run := .running, walk := { Walk.reset with text := [(0, 0x003A0000)], textLen := 1 } })]
    clusters := [(0, { Cluster.reset with stageRel := [(0, [[7]])] })] }

theorem qpopHeaderState_ready : Ready qpopHeaderState 0 .S (qpopHeaderState.hereS 0) .none none [] where
  who := rfl
  unit := by decide
  runs := by decide
  here := rfl
  handler h := absurd h (by decide)
  free _ := by decide
  token := rfl
  wait := by decide
  room := .inl (by decide)
  slip _ := by decide
  regs _ := rfl
  guard := rfl

/-- What the step leaves of the clusters' stage queues. -/
def stageRelAfter : Out → Option (List (List Nat))
  | .next t => some (SMap.get [] (t.cluster 0).stageRel 0)
  | _ => none

/-- Refutes O11: `exec` of LI in a state whose word at the PC has the header of a QPOP takes the record of the stage queue,
  which
changes the cluster. -/
theorem not_scalarWordsWriteOnlyTheirDestination : ¬ Obligations.ScalarWordsWriteOnlyTheirDestination := by
  unfold Obligations.ScalarWordsWriteOnlyTheirDestination
  intro h
  obtain ⟨t, hexec, -, -, -, -, -, -, -, -, -, -, -, -, hclusters, -⟩ := h (.liShort .none 0 0) _ rfl qpopHeaderState 0
    (qpopHeaderState.hereS 0) qpopHeaderState_ready (by decide) (by decide) (fun f hf => absurd hf (List.not_mem_nil)) (fun f
      hf => absurd hf (List.not_mem_nil))
  have hbefore : stageRelAfter (exec (.liShort .none 0 0) qpopHeaderState) = some [] := by decide
  have hafter : stageRelAfter (.next t) = some [[7]] := by
    rw [stageRelAfter, State.cluster, hclusters]
    rfl
  rw [hexec, hafter] at hbefore
  cases hbefore

end Sys2Proof.Machine
end


section
/-! O13, O14.  The checks of a scalar access, the race check, and the issue of a memory word whose access reaches its bytes. -/
namespace Sys2Proof.Machine

theorem PassesChecks.of_reaches {s : State} {u : Nat} {c : Cap} {o n perm align key a : Nat} {kind : AccKind}
    (h : Reaches s u c o n perm align kind key a) : PassesChecks c o n perm align :=
  ⟨h.tag, h.space, h.grants, h.bound, h.addr ▸ h.aligned⟩

/-- Settles O14. -/
theorem memoryWordsOfSIssue : Obligations.MemoryWordsOfSIssue := by
  unfold Obligations.MemoryWordsOfSIssue
  intro i F hF s u r key a s1 h s0 U q c hq hr hreach hk hrace
  rw [exec_of_memForm hF h fun hi _ => hk hi, State.memIssue_of_reaches hq hr hreach hrace]
  rfl

/-! ### The race check -/

theorem mem_of_lowestRace {key : Nat} {l : List Access} {a : Access} (h : lowestRace key l = some a) : a ∈ l := by
  induction l generalizing a with
  | nil => cases h
  | cons x xs ih =>
    unfold lowestRace at h
    cases hx : lowestRace key xs with
    | none => simp_all
    | some b =>
      simp only [hx] at h
      split_ifs at h
      · cases h; exact List.mem_cons_of_mem x (ih hx)
      · cases h; exact List.mem_cons_self

theorem lowestRace_eq_none_iff {key : Nat} {l : List Access} : lowestRace key l = none ↔ l = [] := by
  cases l with
  | nil => simp [lowestRace]
  | cons x xs =>
    unfold lowestRace
    cases lowestRace key xs with
    | none => simp
    | some b => by_cases hb : b.meetsAt key < x.meetsAt key <;> simp [hb]

/-- The earlier access `a` does not race with `b`: it does not conflict, both are scoped, the race has been reported,
  or it happens
before `b`. -/
def Access.freeOf (a b : Access) (skip pre : List Nat) : Prop :=
  a.conflicts b = false ∨ a.scopedPair b = true ∨ a.id ∈ skip ∨ a.id ∈ pre

theorem Access.not_freeOf_iff {a b : Access} {skip pre : List Nat} : ¬ a.freeOf b skip pre ↔
    (a.conflicts b && !a.scopedPair b && !skip.contains a.id && !pre.contains a.id) = true := by
  simp [Access.freeOf, and_assoc]

theorem State.raceOf_eq_none {s : State} {pre skip : List Nat} {b : Access} (h : ∀ a ∈ s.races, a.freeOf b skip pre) :
    s.raceOf pre skip b = none := by
  rw [State.raceOf, lowestRace_eq_none_iff, List.filter_eq_nil_iff]
  intro a ha hrace
  rw [Bool.and_eq_true] at hrace
  exact Access.not_freeOf_iff.mpr hrace.1 (h a ha)

theorem State.not_freeOf_of_raceOf {s : State} {pre skip : List Nat} {a b : Access} (h : s.raceOf pre skip b = some a) :
    a ∈ s.races ∧ ¬ a.freeOf b skip pre := by
  obtain ⟨hmem, hrace⟩ := List.mem_filter.mp (mem_of_lowestRace h)
  rw [Bool.and_eq_true] at hrace
  exact ⟨hmem, Access.not_freeOf_iff.mpr hrace.1⟩

theorem State.raceOf_ne_none {s : State} {pre skip : List Nat} {a b : Access} (ha : a ∈ s.races) (hrace : ¬ a.freeOf b skip pre)
    (hsince : ∀ T G, s.task b.task = some T → s.graph T.graph = some G → G.since ≤ a.id) : s.raceOf pre skip b ≠ none := by
  rw [State.raceOf, ne_eq, lowestRace_eq_none_iff]
  refine List.ne_nil_of_mem (a := a) (List.mem_filter.mpr ⟨ha, ?_⟩)
  rw [Bool.and_eq_true]
  refine ⟨Access.not_freeOf_iff.mp hrace, ?_⟩
  rw [Bool.or_eq_true]
  left
  rw [decide_eq_true_eq]
  cases hT : s.task b.task with
  | none => exact Nat.zero_le _
  | some T =>
    cases hG : s.graph T.graph with
    | none => simp [hG]
    | some G => simpa [hG] using hsince T G hT hG

/-- A memory word of S whose access reaches its bytes and is in a race takes RACE. -/
theorem State.memIssue_of_race {s s1 : State} {u : Nat} {r : PassRec} {f : Flight} {q : MemReq} {key a : Nat} {b : Access}
    (hq : (s.unit u).acquiring = false) (hr : (s.unit u).room q.isLoad = true)
    (h : Reaches s u ((s.unit u).kS q.k) q.o q.n q.perm q.n q.kind key a) (hc : checkedCap ((s.unit u).kS q.k) = true)
    (hrace : s.raceCheck u .S key q.n (decide (q.kind ≠ .read)) q.scope = .inr (s1, b)) :
    s.memIssue u r f q = .trapAt s1 .race (raceInfo key a q.n b).1 (raceInfo key a q.n b).2 := by
  dsimp only [State.memIssue]
  rw [State.access_of_reaches h]
  simp only [hq, hr, hc, hrace, Bool.not_true, Bool.false_eq_true, or_self, if_false, if_true]

/-- Settles O13: each check by the first that fails; an access that is free of every earlier one joins the history,
  and one that is
not finds a race with some earlier access that it is not free of. -/
theorem accessChecksRunInOrder : Obligations.AccessChecksRunInOrder := by
  unfold Obligations.AccessChecksRunInOrder
  refine ⟨?checks, ?races, ?issue⟩
  case checks =>
    intro s u c k o n perm align text kind
    have fails {cause : Cause} (h : FirstFail c o n perm align cause) := State.access_of_firstFail h s u k text kind
    exact ⟨fun tag => fails (.untagged tag), fun tag space => fails (.denied tag (.inl space)),
      fun tag _ grants => fails (.denied tag (.inr grants)), fun tag space grants past => fails (.beyond tag space grants past),
      fun tag space grants bound odd => fails (.misaligned tag space grants bound odd),
        fun key a h => State.access_of_reaches h⟩
  case races =>
    intro s u e key n write scope U b free
    refine ⟨fun hfree => ?_, ?_⟩
    · have hnone : s.raceAt u e key n write scope none = none := State.raceOf_eq_none hfree
      refine ⟨_, by rw [State.raceCheck, hnone], ?_, ?_⟩
      · simp [State.raceNote]; rfl
      · simp [State.raceNote]
    · rintro ⟨a, ha, hrace, hsince⟩
      obtain ⟨a', ha'⟩ := Option.ne_none_iff_exists'.mp (State.raceOf_ne_none (b := b) ha hrace hsince)
      obtain ⟨hmem, hfree⟩ := State.not_freeOf_of_raceOf ha'
      have hsome : s.raceAt u e key n write scope none = some a' := ha'
      refine ⟨_, a', by rw [State.raceCheck, hsome], hmem, hfree, ?_, ?_⟩
      · simp [State.raceReport]
      · simp [State.raceReport]
  case issue =>
    intro i F hF s u r key a s1 b h s0 U q c hq hr hreach hk hcheck hrace
    rw [exec_of_memForm hF h fun hi _ => hk hi, State.memIssue_of_race hq hr hreach hcheck hrace]
    rfl

end Sys2Proof.Machine
end


section
/-! O16, O17.  A performed load and a performed store of S. -/
namespace Sys2Proof.Machine

@[simp] theorem State.acquire_mem (s : State) (u : Nat) (o : SOp) (key : Nat) : (s.acquire u o key).mem = s.mem := by
  simp only [State.acquire]
  split_ifs <;> rfl

@[simp] theorem State.touch_mem (s : State) (key : Nat) : (s.touch key).mem = s.mem := by
  unfold State.touch
  split_ifs <;> rfl

@[simp] theorem State.quitReplay_mem (s : State) (u id : Nat) : (s.quitReplay u id).mem = s.mem := by
  simp only [State.quitReplay]
  split_ifs <;> rfl

@[simp] theorem State.dropSop_mem (s : State) (u id : Nat) (isLoad : Bool) : (s.dropSop u id isLoad).mem = s.mem := by
  simp [State.dropSop]

theorem unitEvent_of_live {u : Nat} {s t : State} (hu : u < 768) (hh : s.halted u = false) : unitEvent u s t = .next t := by
  simp [unitEvent, Nat.not_le.mpr hu, hh]

theorem State.poisonCheck_of_clean {s : State} {u key n : Nat} (h : s.mem.poisonFor (.unit u) key n = false) :
    s.poisonCheck u key n = none := by
  simp [State.poisonCheck, State.poisonAt, h]

theorem sxWord_zero (v : Nat) : sxWord v 0 = sx v 0 := by
  rw [sx, Subsingleton.elim (BitVec.ofNat 0 v) 0#0]
  simp [sxWord, signExt]

/-- The value that a load of at most 8 bytes gives. -/
theorem loaded_eq {v n : Nat} {b : Bool} (hn : n ≤ 8) : loaded v n b = if b then sx v (8 * n) else BitVec.ofNat 64 v := by
  cases b with
  | false => rfl
  | true =>
    obtain rfl | h0 := Nat.eq_zero_or_pos n
    · exact sxWord_zero v
    · exact sxWord_eq_sx v (8 * n) (by omega) (by omega)

/-- What a performed load gives its word. -/
def SOp.loadEff (o : SOp) (s : State) (u key : Nat) : Eff :=
  match o.kind with
  | .kld => .k o.d ⟨BitVec.ofNat 128 (s.mem.num (.unit u) key o.n),
      s.mem.tagAt (.unit u) key && decide (o.place.space ≠ 5) && decide (o.place.space ≠ 6)⟩
  | _ => .x o.d (loaded (s.mem.num (.unit u) key o.n) o.n o.sx)

theorem exec_loadPerformed {s : State} {u id key : Nat} {o : SOp} {before : List SOp} (hu : u < 768) (hh : s.halted u = false)
    (hfind : findSop id [] (s.unit u).work.sops = some (o, before)) (hstand : s.sopStands u id = false)
    (hready : s.sopReady u o before = true) (hhead : s.replayHead u id = true) (hlate : s.late u o.place .read = .ok key)
    (hclean : s.mem.poisonFor (.unit u) key o.n = false) (hk : o.kind = .ld ∨ o.kind = .ldaq ∨ o.kind = .kld) :
    exec (.scalarLoadPerformed u id) s = .next ((((s.acquire u o key).touch key).dropSop u id true).setUnit u
      (((((s.acquire u o key).touch key).dropSop u id true).unit u).give id [o.loadEff s u key])) := by
  change execScalarLoadPerformed u id s = _
  rw [execScalarLoadPerformed, hstand, unitEvent_of_live hu hh, State.performLoad]
  simp only [hfind, hready, hhead, hlate, State.poisonCheck_of_clean hclean]
  obtain hk | hk | hk := hk <;> simp [hk, SOp.loadEff, Mem.num]

/-- Settles O16. -/
theorem loadsAreGivenTheirBytes : Obligations.LoadsAreGivenTheirBytes := by
  unfold Obligations.LoadsAreGivenTheirBytes
  intro s u id key o before hu hh hfind hstand hready hhead hlate hclean s1 v
  have performed := exec_loadPerformed hu hh hfind hstand hready hhead hlate hclean
  refine ⟨?_, ?_, ?_⟩
  · intro hk hn
    rw [performed (hk.elim .inl (.inr ∘ .inl))]
    have heff : o.loadEff s u key = .x o.d (if o.sx then sx v (8 * o.n) else BitVec.ofNat 64 v) := by
      rw [← loaded_eq hn]
      obtain hk | hk := hk <;> simp [SOp.loadEff, hk, v]
    rw [heff]
  · intro hk
    rw [performed (.inr (.inr hk)), SOp.loadEff, hk]
  · intro t ht hk
    rw [performed hk] at ht
    cases ht
    simp

end Sys2Proof.Machine
end


section
/-! O17.  A performed store: what a write leaves beside the bytes, and the bytes themselves. -/
namespace Sys2Proof.Machine

/-- `V` is `U` up to the state of its tape. -/
def UnitSt.SameButTape (U V : UnitSt) : Prop := ∃ T, V = { U with tape := T }

theorem UnitSt.SameButTape.refl (U : UnitSt) : U.SameButTape U := ⟨U.tape, rfl⟩

theorem UnitSt.SameButTape.trans {U V W : UnitSt} (h : U.SameButTape V) (h' : V.SameButTape W) : U.SameButTape W := by
  obtain ⟨T, rfl⟩ := h
  obtain ⟨T', rfl⟩ := h'
  exact ⟨T', rfl⟩

theorem UnitSt.SameButTape.work {U V : UnitSt} (h : U.SameButTape V) : V.work = U.work := by
  obtain ⟨T, rfl⟩ := h; rfl

theorem UnitSt.SameButTape.regs {U V : UnitSt} (h : U.SameButTape V) : V.regs = U.regs := by
  obtain ⟨T, rfl⟩ := h; rfl

/-- A relation that each step of a fold keeps is kept by the fold. -/
theorem foldl_rel {σ α : Type} {R : σ → σ → Prop} (refl : ∀ s, R s s) (trans : ∀ {a b c}, R a b → R b c → R a c)
    {f : σ → α → σ} (step : ∀ s a, R s (f s a)) (l : List α) (s : σ) : R s (l.foldl f s) :=
  List.foldlRecOn (motive := fun t => R s t) l f (refl s) fun t ht a _ => trans ht (step t a)

theorem State.abandon_unit (s : State) (t reason v : Nat) : (s.unit v).SameButTape ((s.abandon t reason).unit v) := by
  unfold State.abandon
  split
  · exact .refl _
  · refine foldl_rel (R := fun s s' : State => (s.unit v).SameButTape (s'.unit v)) (fun _ => .refl _) .trans (fun s u => ?_) _ s
    by_cases hr : (s.unit u).tape.run = 1
    · simp only [hr, if_true]
      obtain rfl | hv := eq_or_ne v u
      · exact ⟨_, State.unit_setUnit_same _ _ _⟩
      · rw [State.unit_setUnit_other _ _ hv]
        exact .refl _
    · simp only [hr, if_false]
      exact .refl _

@[simp] theorem State.abandon_mem (s : State) (t reason : Nat) : (s.abandon t reason).mem = s.mem := by
  unfold State.abandon
  split
  · rfl
  · refine foldl_keeps State.mem (fun s u => ?_) _ s
    by_cases hr : (s.unit u).tape.run = 1 <;> simp [hr]

theorem State.invalidTapes_unit (s : State) (p : Tape →
    Bool) (v : Nat) : (s.unit v).SameButTape ((s.invalidTapes p).unit v) := by
  unfold State.invalidTapes
  exact foldl_rel (R := fun s s' : State => (s.unit v).SameButTape (s'.unit v)) (fun _ => .refl _) .trans
    (fun s r => s.abandon_unit _ 9 v) _ _

@[simp] theorem State.invalidTapes_mem (s : State) (p : Tape → Bool) : (s.invalidTapes p).mem = s.mem := by
  unfold State.invalidTapes
  exact foldl_keeps State.mem (fun s r => s.abandon_mem _ 9) _ _

theorem State.tapeWrite_unit (s : State) (k n v : Nat) : (s.unit v).SameButTape ((s.tapeWrite k n).unit v) := by
  unfold State.tapeWrite
  split_ifs
  · exact .refl _
  · exact s.invalidTapes_unit _ v

@[simp] theorem State.tapeWrite_mem (s : State) (k n : Nat) : (s.tapeWrite k n).mem = s.mem := by
  unfold State.tapeWrite
  split_ifs <;> simp

@[simp] theorem State.touch_unit (s : State) (k v : Nat) : (s.touch k).unit v = s.unit v := by
  unfold State.touch
  split_ifs <;> rfl

@[simp] theorem State.touchRange_unit (s : State) (k n v : Nat) : (s.touchRange k n).unit v = s.unit v := by
  unfold State.touchRange
  split_ifs
  · rfl
  · exact foldl_keeps (State.unit · v) (fun s i => s.touch_unit _ v) _ s

@[simp] theorem State.touchRange_mem (s : State) (k n : Nat) : (s.touchRange k n).mem = s.mem := by
  unfold State.touchRange
  split_ifs
  · rfl
  · exact foldl_keeps State.mem (fun s i => s.touch_mem _) _ s

theorem State.noteWrite_unit (s : State) (lvl k n v : Nat) : (s.unit v).SameButTape ((s.noteWrite lvl k n).unit v) := by
  unfold State.noteWrite
  split_ifs
  · simpa using (s.touchRange k n).tapeWrite_unit k n v
  · rw [State.touchRange_unit]
    exact .refl _

theorem State.store_unit (s : State) (checked : Bool) (u lvl k : Nat) (bs : List Byte) (tag : Bool) (v : Nat) :
    (s.unit v).SameButTape ((s.store checked u lvl k bs tag).unit v) := by
  unfold State.store State.writeMem
  split_ifs <;> exact s.noteWrite_unit lvl k bs.length v

@[simp] theorem State.store_mem (s : State) (checked : Bool) (u lvl k : Nat) (bs : List Byte) (tag : Bool) :
    (s.store checked u lvl k bs tag).mem = s.mem.writeTag u lvl k bs tag := by
  unfold State.store State.writeMem
  split_ifs <;> rfl

@[simp] theorem Mem.byte_noteBy (m : Mem) (id maker : Nat) (v : Viewer) (a : Nat) : (m.noteBy id maker).byte v a = m.byte v a
  := by
  refine stagedByte_map v a _ ?_ ?_ ?_ m.staged _
  all_goals (intro w; by_cases h : w.id = id <;> simp [h, Staged.seenBy])

theorem stagedTag_map (v : Viewer) (g : Nat) (f : Staged → Staged) (hk : ∀ w, touchesGranule (f w) g = touchesGranule w g)
    (ht : ∀ w, (f w).tag = w.tag) (hs : ∀ w, (f w).seenBy v = w.seenBy v) :
    ∀ (l : List Staged) (b : Bool), stagedTag v g b (l.map f) = stagedTag v g b l := by
  intro l
  induction l with
  | nil => intro b; rfl
  | cons w r ih => intro b; simp only [List.map_cons, stagedTag, ih, hk, ht, hs]

@[simp] theorem Mem.tagAt_noteBy (m : Mem) (id maker : Nat) (v : Viewer) (a : Nat) : (m.noteBy id maker).tagAt v a = m.tagAt
  v a := by
  refine stagedTag_map v _ _ ?_ ?_ ?_ m.staged _
  all_goals (intro w; by_cases h : w.id = id <;> simp [h, Staged.seenBy, touchesGranule])

@[simp] theorem Mem.tagAt_noteRels (m : Mem) (id k n : Nat) (l : List Rel) (v : Viewer) (a : Nat) :
    (m.noteRels id k n l).tagAt v a = m.tagAt v a := by
  unfold Mem.noteRels
  split
  · rfl
  · split
    · refine stagedTag_map v _ _ ?_ ?_ ?_ m.staged _
      all_goals (intro w; by_cases h : w.id = id <;> simp [h, Staged.seenBy, touchesGranule])
    · rfl

@[simp] theorem State.byte_release (s : State) (u id wid key n : Nat) (old : List Rel) (v : Viewer) (a : Nat) :
    (s.release u id wid key n old).mem.byte v a = s.mem.byte v a := by
  simp only [State.release]
  split_ifs <;> simp

@[simp] theorem State.tagAt_release (s : State) (u id wid key n : Nat) (old : List Rel) (v : Viewer) (a : Nat) :
    (s.release u id wid key n old).mem.tagAt v a = s.mem.tagAt v a := by
  simp only [State.release]
  split_ifs <;> simp

@[simp] theorem UnitSt.dropRel_work (U : UnitSt) (id : Nat) : (U.dropRel id).work = U.work := by
  unfold UnitSt.dropRel
  split_ifs <;> rfl

@[simp] theorem UnitSt.dropRel_regs (U : UnitSt) (id : Nat) : (U.dropRel id).regs = U.regs := by
  unfold UnitSt.dropRel
  split_ifs <;> rfl

@[simp] theorem State.release_unit_work (s : State) (u id wid key n : Nat) (old : List Rel) :
    ((s.release u id wid key n old).unit u).work = (s.unit u).work := by
  simp only [State.release]
  split_ifs <;> simp

@[simp] theorem State.release_unit_regs (s : State) (u id wid key n : Nat) (old : List Rel) :
    ((s.release u id wid key n old).unit u).regs = (s.unit u).regs := by
  simp only [State.release]
  split_ifs <;> simp

@[simp] theorem State.quitReplay_unit (s : State) (u id v : Nat) : (s.quitReplay u id).unit v = s.unit v := by
  simp only [State.quitReplay]
  split_ifs <;> rfl

theorem UnitSt.xS_congr {U V : UnitSt} (hfl : V.work.fl = U.work.fl) (hregs : V.regs = U.regs) (n : Nat) : V.xS n = U.xS n := by
  unfold UnitSt.xS
  rw [hfl, hregs]

/-- What a store writes: a KST's capability, or the value's bytes. -/
def SOp.storeBytes (o : SOp) : List Byte := if o.kind = .kst then toBytes 16 o.cap.bits.toNat else toBytes o.n o.v.toNat

theorem exec_storePerformed {s : State} {u id key : Nat} {o : SOp} {before : List SOp} (hu : u < 768) (hh : s.halted u = false)
    (hfind : findSop id [] (s.unit u).work.sops = some (o, before)) (hk : o.kind = .st ∨ o.kind = .strl ∨ o.kind = .kst)
    (hstand : s.sopStands u id = false) (hready : s.sopReady u o before = true) (hhead : s.replayHead u id = true)
    (hlate : s.late u o.place .write = .ok key) :
    let w := s.store o.rc u (effScope o.place.space o.scope) key o.storeBytes (decide (o.kind = .kst) && o.cap.tag)
    exec (.scalarStorePerformed u id) s =
      .next ((({ w with mem := w.mem.noteBy s.mem.nextId 2 } : State).release u id s.mem.nextId key o.n []).dropSop u id
        false) := by
  change execScalarStorePerformed u id s = _
  rw [execScalarStorePerformed, hstand, unitEvent_of_live hu hh, State.performStore]
  simp only [hfind, hready, hhead, hlate, SOp.storeBytes]
  obtain hk | hk | hk := hk <;> simp [hk]

/-- Settles O17. -/
theorem storesWriteExactlyTheirBytes : Obligations.StoresWriteExactlyTheirBytes := by
  unfold Obligations.StoresWriteExactlyTheirBytes
  intro s u id key o before hu hh hfind hk hstand hready hhead hlate bs
  have hbs : bs = o.storeBytes := rfl
  refine ⟨_, exec_storePerformed hu hh hfind hk hstand hready hhead hlate, ?_, ?_, ?_, ?_, ?_⟩
  · intro j hj
    simp only [State.dropSop_mem, State.byte_release, Mem.byte_noteBy, State.store_mem, ← hbs]
    rw [Mem.byte_writeTag_self _ _ _ _ _ _ (by omega), Nat.add_sub_cancel_left]
  · intro v a ha
    simp only [State.dropSop_mem, State.byte_release, Mem.byte_noteBy, State.store_mem, ← hbs]
    exact Mem.byte_writeTag_outside _ _ _ _ _ _ _ ha
  · intro hne
    simp only [State.dropSop_mem, State.tagAt_release, Mem.tagAt_noteBy, State.store_mem, ← hbs]
    rw [Mem.tagAt_writeTag, seenBy_self, if_pos]
    have := List.length_pos_iff.mpr hne
    simp only [touchesGranule, Bool.true_and, Bool.and_eq_true, decide_eq_true_eq]
    exact ⟨⟨le_rfl, by omega⟩, hne⟩
  · intro x hx
    simp only [State.dropSop, State.unit_setUnit_same, List.mem_filter, decide_eq_true_eq] at hx
    exact hx.2
  · intro n
    have hstore := s.store_unit o.rc u (effScope o.place.space o.scope) key o.storeBytes (decide (o.kind = .kst) && o.cap.tag) u
    have hwork := hstore.work
    have hregs := hstore.regs
    refine UnitSt.xS_congr ?_ ?_ n
    · simp only [State.dropSop, State.unit_setUnit_same, State.quitReplay_unit, State.release_unit_work]
      exact congrArg Work.fl hwork
    · simp only [State.dropSop, State.unit_setUnit_same, State.quitReplay_unit, State.release_unit_regs]
      exact hregs

end Sys2Proof.Machine
end


section
/-! O19.  FENCE, WAIT, NMFENCE and NOP. -/
namespace Sys2Proof.Machine

/-- A WAIT of S whose counters are low enough. -/
theorem waitBody_S {s : State} {u : Nat} {w : XW} (hwho : s.who = (u, .S)) (r : PassRec) (f : Flight)
    (hlow : { (s.unit u).work with loads := (s.unit u).work.loads + s.heldRequests u }.under w = true) :
    waitBody w s (s.unit u) r f = .go s f := by
  simp [waitBody, hwho, hlow]

/-- A WAIT of another engine whose counters are low enough: L's and M's read-ahead is emptied. -/
theorem waitBody_of_ne {s : State} {u : Nat} {e : Eng} {w : XW} (hwho : s.who = (u, e)) (r : PassRec) (f : Flight)
    (hlow : { (s.unit u).work with loads := (s.unit u).work.loads + s.heldRequests u }.under w = true) :
    waitBody w s (s.unit u) r f = .go (if e = .L ∨ e = .M then s.setUnit u ((s.unit u).dropAhead e) else s) f := by
  simp only [waitBody, hwho, hlow]
  split_ifs <;> simp_all

/-- Settles O19. -/
theorem fencesWaitsAndNopsIssue : Obligations.FencesWaitsAndNopsIssue := by
  unfold Obligations.FencesWaitsAndNopsIssue
  refine ⟨?_, ?_⟩
  · intro tk s u r h
    have hwho : s.swordCheck.who = (u, .S) := h.who
    dsimp only
    refine ⟨?_, ?_, ?_, ?_, ?_⟩
    · change execNopS tk s = _
      rw [execNopS, State.sWord_of_ready h]
      rfl
    · intro w hlow
      change execWaitS tk w s = _
      rw [execWaitS, State.sWord_of_ready h, waitBody_S hwho _ _ hlow]
      rfl
    · intro kind scope hk hidle hsops hrel
      change execFence tk kind scope s = _
      rw [execFence, State.sSerial_of_ready h hidle]
      simp only [if_neg hk, hwho, hsops, hrel]
      rfl
    · intro scope hidle hsops hmade
      change execFence tk 1 scope s = _
      rw [execFence, State.sSerial_of_ready h hidle]
      simp only [if_true, hwho]
      rw [if_neg]
      · rfl
      · rintro (hload | hopen)
        · obtain ⟨o, ho, hread⟩ := List.any_eq_true.mp hload
          obtain hk | hk | hk := hsops o ho <;> simp [hk] at hread
        · simp [hmade] at hopen
    · intro hidle hcmds hfail
      change execNmfence tk s = _
      rw [execNmfence, State.sSerial_of_ready h hidle]
      simp only [hcmds, hfail]
      rfl
  · intro tk s u e r w he h s0 s1 f
    have hwho : s0.who = (u, e) := (State.freshen_who s u e tk).trans h.who
    have nop : s.eWord tk none nopBody = .next (s0.leaves u e r tk f) := State.eWord_of_ready h nopBody
    refine ⟨fun _ => nop, fun _ => nop, fun _ => nop, fun _ => nop, fun _ => nop, fun hlow => ?_⟩
    have wait : s.eWord tk none (waitBody w) = .next (s1.leaves u e r tk f) := by
      rw [State.eWord_of_ready h, waitBody_of_ne hwho _ _ hlow]
      rfl
    exact ⟨fun _ => wait, fun _ => wait, fun _ => wait, fun _ => wait, fun _ => wait⟩

end Sys2Proof.Machine
end


section
/-! What retirement leaves as it is: all of a unit but its registers, banks, streams, system registers, work,
  tokens and order. -/
namespace Sys2Proof.Machine

/-- The fields of a unit that no retirement changes. -/
def UnitSt.still (U : UnitSt) : Run × Ident × TrapSt × BitVec 8 × SMap Win × Option (Nat × Bool) × Dctx
    × Option (Nat × Nat × Bool) × List Nat × Nat × Bool × Bool :=
  (U.run, U.id, U.trap, U.bind, U.wins, U.group, U.dove, U.bar, U.mchecks, U.mcCount, U.retiredMark, U.stopped)

theorem UnitSt.still_eq_iff {U V : UnitSt} : V.still = U.still ↔
    V.run = U.run ∧ V.id = U.id ∧ V.trap = U.trap ∧ V.bind = U.bind ∧ V.wins = U.wins ∧ V.group = U.group ∧ V.dove = U.dove
      ∧ V.bar = U.bar ∧ V.mchecks = U.mchecks ∧ V.mcCount = U.mcCount ∧ V.retiredMark = U.retiredMark
      ∧ V.stopped = U.stopped := by
  simp [UnitSt.still]

@[simp] theorem UnitSt.setBank_still (U : UnitSt) (k b : Nat) (B : Bank) : (U.setBank k b B).still = U.still := by
  unfold UnitSt.setBank
  split_ifs <;> rfl

@[simp] theorem UnitSt.fixDup_still (U : UnitSt) : U.fixDup.still = U.still := rfl

@[simp] theorem UnitSt.fallRegIfDue_still (U : UnitSt) (b : Nat) : (U.fallRegIfDue b).still = U.still := by
  simp only [UnitSt.fallRegIfDue, UnitSt.fallReg, apply_ite UnitSt.still, UnitSt.fixDup_still, UnitSt.setBank_still, ite_self]
  simp [UnitSt.still]

@[simp] theorem UnitSt.csrSet_still (U : UnitSt) (csr v : Nat) : (U.csrSet csr v).still = U.still := by
  unfold UnitSt.csrSet
  split <;> rfl

@[simp] theorem UnitSt.applyEff_still (U : UnitSt) (eff : Eff) : (U.applyEff eff).still = U.still := by
  cases eff with
  | x | k | p | ps | bank | vstat | balloc | sidle | csract | tcont => rfl
  | bhint k b st => simp only [UnitSt.applyEff, UnitSt.setBank_still]; split_ifs <;> simp
  | bwake k b => simp only [UnitSt.applyEff, UnitSt.setBank_still]; split_ifs <;> simp
  | mset sel v => simp only [UnitSt.applyEff]; split_ifs <;> rfl
  | sdrop bs => exact foldl_keeps UnitSt.still (fun V b => UnitSt.setBank_still V 1 b _) bs U
  | csrw n v => exact UnitSt.csrSet_still U n v

@[simp] theorem UnitSt.applyHint_still (U : UnitSt) (b : Nat) : (U.applyHint b).still = U.still := UnitSt.setBank_still U 0 b _

@[simp] theorem UnitSt.tell_still (U : UnitSt) (f : Flight) : (U.tell f).still = U.still := by
  unfold UnitSt.tell
  split_ifs <;> rfl

@[simp] theorem UnitSt.postKnow_still (U : UnitSt) (e p : Eng) : (U.postKnow e p).still = U.still := by
  unfold UnitSt.postKnow
  dsimp only
  split_ifs <;> rfl

@[simp] theorem UnitSt.pushPost_still (U : UnitSt) (f : Flight) : (U.pushPost f).still = U.still := by
  unfold UnitSt.pushPost
  cases f.post with
  | none => rfl
  | some p =>
    refine Eq.trans ?_ (UnitSt.postKnow_still U f.eng p)
    dsimp only
    split_ifs <;> rfl

@[simp] theorem UnitSt.retireFlight_still (U : UnitSt) (f : Flight) : (U.retireFlight f).still = U.still := by
  unfold UnitSt.retireFlight
  rw [UnitSt.pushPost_still, UnitSt.tell_still, foldl_keeps UnitSt.still UnitSt.applyHint_still,
    foldl_keeps UnitSt.still UnitSt.applyEff_still]
  rfl

/-- What the retirement of one word keeps, the retirement of all an engine can retire keeps. -/
theorem UnitSt.retire_keeps {τ : Type} (g : UnitSt → τ) (keeps : ∀ U f,
    g (UnitSt.retireFlight U f) = g U) (U : UnitSt) (e : Eng) :
    g (U.retire e) = g U := by
  unfold UnitSt.retire
  generalize U.work.fl.length = n
  induction n generalizing U with
  | zero => rfl
  | succ n ih =>
    unfold UnitSt.drain
    cases U.headOf e with
    | none => rfl
    | some f =>
      dsimp only
      split_ifs
      · rw [ih, keeps]
      · rfl

@[simp] theorem UnitSt.retire_still (U : UnitSt) (e : Eng) : (U.retire e).still = U.still :=
  UnitSt.retire_keeps UnitSt.still UnitSt.retireFlight_still U e

@[simp] theorem UnitSt.retire_bar (U : UnitSt) (e : Eng) : (U.retire e).bar = U.bar := by
  obtain ⟨-, -, -, -, -, -, -, h, -⟩ := UnitSt.still_eq_iff.1 (U.retire_still e)
  exact h
@[simp] theorem UnitSt.retire_trap (U : UnitSt) (e : Eng) : (U.retire e).trap = U.trap := by
  obtain ⟨-, -, h, -⟩ := UnitSt.still_eq_iff.1 (U.retire_still e)
  exact h
@[simp] theorem UnitSt.retire_id (U : UnitSt) (e : Eng) : (U.retire e).id = U.id := by
  obtain ⟨-, h, -⟩ := UnitSt.still_eq_iff.1 (U.retire_still e)
  exact h

end Sys2Proof.Machine
end


section
/-! O20.  QPUSH, QPOP, and the barrier. -/
namespace Sys2Proof.Machine

@[simp] theorem State.quitReplay_cluster (s : State) (u id c : Nat) : (s.quitReplay u id).cluster c = s.cluster c := by
  simp only [State.quitReplay]
  split_ifs <;> rfl

/-- A pushed record joins its queue. -/
theorem State.performStore_qpush {s : State} {u id : Nat} {o : SOp} {before : List SOp}
    (hfind : findSop id [] (s.unit u).work.sops = some (o,
      before)) (hk : o.kind = .qpush) (hready : s.sopReady u o before = true) :
    SMap.get [] ((s.performStore u id).cluster (u / 8)).stageq ((s.unit u).id.task * 8 + o.d)
      = SMap.get [] (s.cluster (u / 8)).stageq ((s.unit u).id.task * 8 + o.d) ++ [o.v] ∧ (s.performStore u id).mem = s.mem := by
  have hcl : clusterOf u = u / 8 := rfl
  simp [State.performStore, hfind, hk, hready, State.dropSop, hcl]

/-- Arrivals of a barrier that are in a list stay in it. -/
theorem mem_bars_grow {l : List Nat} {u w : Nat} (h : w ∈ l) : w ∈ if l.contains u then l else l ++ [u] := by
  split_ifs
  · exact h
  · exact List.mem_append_left _ h

/-- What the arrival of units after a RETI keeps of a task `t` whose barrier `n` has all its units. -/
def State.Gathered (t n : Nat) (units : List Nat) (s s' : State) : Prop :=
  s'.mem = s.mem ∧ (∀ w, s'.unit w = s.unit w) ∧
    ∃ T, s'.task t = some T ∧ T.units = units ∧ ∀ u ∈ units, u ∈ SMap.get [] T.bars n

theorem State.barTell_gathered {t n : Nat} {units : List Nat} {s s' : State} (h : s.Gathered t n units s') (u m : Nat) :
    s.Gathered t n units (s'.barTell u m) := by
  obtain ⟨hmem, hunit, T, hT, hunits, hbars⟩ := h
  unfold State.barTell
  dsimp only
  split
  next T' hT' =>
    split_ifs
    · exact ⟨hmem, hunit, T, hT, hunits, hbars⟩
    · refine ⟨by simpa using hmem, by simpa using hunit, ?_⟩
      by_cases ht : t = (s'.unit u).id.task
      · subst ht
        obtain rfl : T' = T := by simpa [hT] using hT'.symm
        exact ⟨_, State.task_setTask_same _ _ _, hunits, hbars⟩
      · exact ⟨T, by rw [State.task_setTask_other _ _ ht]; exact hT, hunits, hbars⟩
  next => exact ⟨hmem, hunit, T, hT, hunits, hbars⟩

theorem State.barArrive_gathered {t n : Nat} {units : List Nat} {s s' : State} (h : s.Gathered t n units s') (u m : Nat) :
    s.Gathered t n units (s'.barArrive u m) := by
  obtain ⟨hmem, hunit, T, hT, hunits, hbars⟩ := h
  unfold State.barArrive
  dsimp only
  split
  next T' hT' =>
    refine ⟨by simpa using hmem, by simpa using hunit, ?_⟩
    by_cases ht : t = (s'.unit u).id.task
    · subst ht
      obtain rfl : T' = T := by simpa [hT] using hT'.symm
      refine ⟨_, State.task_setTask_same _ _ _, hunits, fun w hw => ?_⟩
      obtain rfl | hm := eq_or_ne n m
      · rw [SMap.get_modify_same]
        exact mem_bars_grow (hbars w hw)
      · rw [SMap.get_modify_other _ _ _ hm]
        exact hbars w hw
    · exact ⟨T, by rw [State.task_setTask_other _ _ ht]; exact hT, hunits, hbars⟩
  next => exact ⟨hmem, hunit, T, hT, hunits, hbars⟩

theorem State.barAgain_gathered {t n : Nat} {units : List Nat} {s s' : State} (h : s.Gathered t n units s') (u m : Nat) :
    s.Gathered t n units (s'.barAgain u m) := by
  unfold State.barAgain
  split
  · split_ifs
    · exact State.barArrive_gathered (State.barTell_gathered h u m) u m
    · exact h
  · exact h

@[simp] theorem UnitSt.barLearn_bar (U : UnitSt) (ids : List Nat) : (U.barLearn ids).bar = U.bar := by
  unfold UnitSt.barLearn UnitSt.learn
  split_ifs <;> rfl

theorem UnitSt.barLearn_saved {U : UnitSt} (h : U.trap.saved.fl = []) (ids : List Nat) :
    (U.barLearn ids).trap.saved.fl = [] := by
  unfold UnitSt.barLearn UnitSt.learn
  split_ifs <;> simp [h]

/-- A unit without a BAR stays without one when a barrier completes. -/
theorem UnitSt.barDone_of_none {U : UnitSt} (h : U.bar = none) (n : Nat) : (U.barDone n).bar = none := by
  unfold UnitSt.barDone
  rw [h]
  exact h

/-- The completion of its barrier ends a unit's wait, where no trap has put words aside. -/
theorem UnitSt.barDone_of_waiting {U : UnitSt} {n sc : Nat} (h : U.bar = some (n, sc, false)) (hsaved : U.trap.saved.fl = []) :
    (U.barDone n).bar = none := by
  unfold UnitSt.barDone
  rw [h]
  simp [hsaved]

/-- A completion of barrier `n` at one unit. -/
def State.endBar (know : List Nat) (n : Nat) (s : State) (u : Nat) : State :=
  s.setUnit u (((s.unit u).barLearn know).barDone n)

/-- Where a unit's wait has ended, further completions leave it ended. -/
theorem State.endBar_none {know : List Nat} {n w : Nat} (us : List Nat) {s : State} (h : (s.unit w).bar = none) :
    ((us.foldl (State.endBar know n) s).unit w).bar = none := by
  induction us generalizing s with
  | nil => exact h
  | cons u us ih =>
    refine ih ?_
    unfold State.endBar
    obtain rfl | hw := eq_or_ne w u
    · rw [State.unit_setUnit_same]
      exact UnitSt.barDone_of_none (by rw [UnitSt.barLearn_bar, h]) n
    · rw [State.unit_setUnit_other _ _ hw]
      exact h

/-- The completion ends the wait of each of its units. -/
theorem State.endBar_waiting {know : List Nat} {n w sc : Nat} (us : List Nat) {s : State} (hw : w ∈ us)
    (hbar : (s.unit w).bar = some (n, sc, false)) (hsaved : (s.unit w).trap.saved.fl = []) :
    ((us.foldl (State.endBar know n) s).unit w).bar = none := by
  induction us generalizing s with
  | nil => cases hw
  | cons u us ih =>
    obtain rfl | hne := eq_or_ne w u
    · refine State.endBar_none us ?_
      rw [State.endBar, State.unit_setUnit_same]
      exact UnitSt.barDone_of_waiting ((UnitSt.barLearn_bar _ _).trans hbar) (UnitSt.barLearn_saved hsaved _)
    · have same : (State.endBar know n s u).unit w = s.unit w := State.unit_setUnit_other _ _ hne
      exact ih (List.mem_of_ne_of_mem hne hw) (same ▸ hbar) (same ▸ hsaved)

/-- The completion reaches only its units. -/
theorem State.endBar_other {know : List Nat} {n w : Nat} (us : List Nat) {s : State} (hw : w ∉ us) :
    (us.foldl (State.endBar know n) s).unit w = s.unit w := by
  induction us generalizing s with
  | nil => rfl
  | cons u us ih =>
    rw [List.foldl_cons, ih (List.not_mem_of_not_mem_cons hw)]
    exact State.unit_setUnit_other _ _ (List.ne_of_not_mem_cons hw)

/-- A barrier that every unit of its task has reached, as the last of them arrive and it completes. -/
theorem State.barComplete_of_gathered {s : State} {t n : Nat} {T : Task} (hT : s.task t = some T) (hne : T.units ≠ [])
    (hall : ∀ u ∈ T.units, u ∈ SMap.get [] T.bars n) :
    ∃ s' T' know, s.Gathered t n T.units s' ∧ T'.bars = SMap.erase T'.bars n ∧
      s.barComplete t n = T.units.foldl (State.endBar know n) (s'.setTask t T') := by
  have gathered : s.Gathered t n T.units (T.units.foldl (fun (s : State) u => s.barAgain u n) s) :=
    List.foldlRecOn (motive := fun s' => s.Gathered t n T.units s') T.units _ ⟨rfl, fun _ => rfl, T, hT, rfl, hall⟩
      fun _ h u _ => State.barAgain_gathered h u n
  obtain ⟨-, -, T', hT', hunits, hbars⟩ := id gathered
  refine ⟨_, { T' with bars := SMap.erase T'.bars n, barKnow := SMap.erase T'.barKnow n }, SMap.get [] T'.barKnow n,
    gathered, ?_, ?_⟩
  · simp [SMap.erase]
  · have hc : T'.units ≠ [] ∧ (T'.units.all fun u => (SMap.get [] T'.bars n).contains u) = true := by
      rw [hunits]
      exact ⟨hne, by simpa using hbars⟩
    simp only [State.barComplete, hT, hT']
    rw [if_pos hc, hunits]
    rfl

/-- Settles O20. -/
theorem stageQueuesAndBarriersAct : Obligations.StageQueuesAndBarriersAct := by
  unfold Obligations.StageQueuesAndBarriersAct
  refine ⟨⟨?_, ?_, ?_⟩, ?_, ?_⟩
  · intro tk d stage g s u r h
    have hwho : s.swordCheck.who = (u, .S) := h.who
    dsimp only
    intro hn hst hacq hroom hload
    change execQpush tk d stage g s = _
    rw [execQpush, State.sWord_of_ready h]
    simp only [hwho, hn, Nat.not_lt.2 hst, hacq, hroom, Nat.not_le.2 hload]
    rfl
  · intro tk d g s u r v q h
    have hwho : s.swordCheck.who = (u, .S) := h.who
    dsimp only
    intro hn hacq hroom hq
    change execQpop tk d g s = _
    rw [execQpop, State.sWord_of_ready h]
    have hk : SMap.get [] (s.swordCheck.cluster (clusterOf u)).stageq
        (stageKey (s.swordCheck.unit u).id.task (s.swordCheck.unit u).id.stage) = v :: q := hq
    simp only [hwho, hn, hacq, hroom, hk]
    rfl
  · intro s u id o before hu hhalt hfind hk hst hready
    refine ⟨_, unitEvent_of_live hu hhalt, ?_⟩
    simpa [hst] using State.performStore_qpush hfind hk hready
  · intro tk num scope s u r h
    have hwho : s.swordCheck.who = (u, .S) := h.who
    dsimp only
    intro hscope hsops hbar hrel
    change execBar tk num scope s = _
    rw [execBar, State.sWord_of_ready h]
    simp only [hwho, hscope, hsops, hbar, hrel]
    rfl
  · intro s t n T hT hne hall
    obtain ⟨s', T', know, ⟨hmem, hunit, -⟩, herase, hstep⟩ := State.barComplete_of_gathered hT hne hall
    refine ⟨_, T', congrArg Host.Outcome.next hstep, ?_, ?_, ?_, ?_, ?_⟩
    · refine (foldl_keeps (fun s : State => s.task t) (fun s u => ?_) _ _).trans (State.task_setTask_same _ _ _)
      rfl
    · rw [herase, SMap.get_erase]; simp
    · exact (foldl_keeps State.mem (f := State.endBar know n) (fun _ _ => rfl) _ _).trans hmem
    · intro w hw
      rw [State.endBar_other _ hw]
      exact hunit w
    · rintro u hu m sc hbar rfl hsaved
      refine State.endBar_waiting (sc := sc) _ hu ?_ ?_
      · exact (congrArg UnitSt.bar (hunit u)).trans hbar
      · exact (congrArg (fun U : UnitSt => U.trap.saved.fl) (hunit u)).trans hsaved

end Sys2Proof.Machine
end


section
/-! O21.  SSET and SPOS. -/
namespace Sys2Proof.Machine

/-- An SSET on its way keeps SPOS waiting; without one SPOS looks at its stream's newest entry. -/
theorem sset_any_eq_false {U : UnitSt} {a : Nat} (h : ∀ o ∈ U.work.sops, o.kind ≠ .sset) :
    (U.work.sops.any fun o => o.kind == .sset && o.d == a) = false := by
  rw [List.any_eq_false]
  intro o ho
  simp [h o ho]

/-- Settles O21. -/
theorem streamSetupWordsIssue : Obligations.StreamSetupWordsIssue := by
  unfold Obligations.StreamSetupWordsIssue
  refine ⟨?sset, ?spos⟩
  case sset =>
    intro tk d a b m s u r key addr h
    have hwho : s.swordCheck.who = (u, .S) := h.who
    dsimp only
    intro hacq hroom hreach hready hshadow hclean hok hkd hks
    change execSset tk d a b m s = _
    rw [execSset, State.sWord_of_ready h]
    simp only [hwho, hacq, hroom, memOff_eq, State.access_of_reaches hreach, hready, State.poisonCheck_of_clean hclean, hok,
      hkd,
      hks, hshadow]
    rfl
  case spos =>
    intro tk d a g s u r h
    have hwho : s.swordCheck.who = (u, .S) := h.who
    dsimp only
    intro hsset
    have run : exec (.spos tk d a g) s = _ := (State.sWord_of_ready h _ : execSpos tk d a g s = _)
    rw [run]
    simp only [hwho, sset_any_eq_false hsset]
    refine ⟨fun hnone => ?_, fun l D hl => ⟨fun hlt => ?_, fun hle => ?_⟩⟩
    · simp only [hnone]
      rfl
    · simp only [hl, List.getLast?_concat, List.dropLast_concat, hlt]
      rfl
    · simp only [hl, List.getLast?_concat, Nat.not_lt.2 hle]
      rfl

end Sys2Proof.Machine
end


section
/-! O22.  TCONT, TEVT and TARG. -/
namespace Sys2Proof.Machine

/-- The event bit that a TEVT names is set, cleared or kept; every other is kept. -/
theorem getLsbD_eventBit (E : BitVec 64) (ev act i : Nat) (hi : i < 64) :
    (if act = 1 then E ||| BitVec.ofNat 64 (2 ^ ev) else if act = 2 then E &&& ~~~(BitVec.ofNat 64 (2 ^ ev)) else E).getLsbD i
      = if i = ev then (if act = 1 then true else if act = 2 then false else E.getLsbD i) else E.getLsbD i := by
  have hbit : (BitVec.ofNat 64 (2 ^ ev)).getLsbD i = decide (ev = i) := by
    rw [BitVec.getLsbD_ofNat, Nat.testBit_two_pow, decide_eq_true hi, Bool.true_and]
  have hset : (E ||| BitVec.ofNat 64 (2 ^ ev)).getLsbD i = (E.getLsbD i || decide (ev = i)) := by rw [BitVec.getLsbD_or, hbit]
  have hclear : (E &&& ~~~(BitVec.ofNat 64 (2 ^ ev))).getLsbD i = (E.getLsbD i && !decide (ev = i)) := by
    rw [BitVec.getLsbD_and, BitVec.getLsbD_not, hbit, decide_eq_true hi, Bool.true_and]
  simp only [apply_ite (BitVec.getLsbD · i), hset, hclear]
  obtain rfl | hne := eq_or_ne i ev
  · simp
  · simp [hne, hne.symm]

/-- A TCONT that names a template, with room for its record, once its release is performed. -/
theorem exec_tcont {tk : Tok} {d a b : Nat} {m : XM} {s : State} {u : Nat} {r : PassRec}
    (h : SReady s u r tk m.grd [32 + a, b, d, d + 1, d + 2, d + 3]) (hidle : (s.swordCheck.unit u).sIdle)
    (htag : ((s.swordCheck.unit u).kS a).tag = true) (hspace : ((s.swordCheck.unit u).kS a).space = 0)
    (hlen : offsetOf (s.swordCheck.unit u) b m + 1 ≤ ((s.swordCheck.unit u).kS a).len)
    (hn : ((s.swordCheck.unit u).xS d).toNat < 4096)
    (htempl : s.swordCheck.isTemplate (s.swordCheck.unit u).id.graph ((s.swordCheck.unit u).xS d).toNat = true)
    (hgraph : (((s.swordCheck.graph (s.swordCheck.unit u).id.graph).map fun G => G.unfinished).getD 0) < 4096)
    (hconts : s.swordCheck.hub.conts.length < 4096) (hsops : (s.swordCheck.unit u).work.sops = [])
    (hrel : s.swordCheck.mem.releasedAt u 3 = true) :
    let s0 := s.swordCheck
    let U := s0.unit u
    let f := s0.flight u .S r tk
    let va := ((U.kS a).base + offsetOf U b m) % 2 ^ 64
    let pay := [U.xS (d + 1), U.xS (d + 2), U.xS (d + 3)]
    exec (.tcont tk d a b m) s = s0.settle u .S r tk ⟨none, []⟩
      (if U.postRoom f then .go (s0.sendCont U.id.graph (U.xS d).toNat va u pay (s0.contKnow u)) f
        else .go s0 { f with eff := [.tcont U.id.graph (U.xS d).toNat va pay (s0.contKnow u)] }) := by
  have hwho : s.swordCheck.who = (u, .S) := h.who
  have hcheck : ((s.swordCheck.unit u).kS a).check (offsetOf (s.swordCheck.unit u) b m) 1 0
      = .ok (((s.swordCheck.unit u).kS a).base + offsetOf (s.swordCheck.unit u) b m) := by
    simp [Cap.check, Cap.grants, htag, hspace, Nat.not_lt.2 hlen]
  dsimp only
  change execTcont tk d a b m s = _
  rw [execTcont, State.sSerial_of_ready h hidle]
  simp only [hwho, memOff_eq, hcheck, hspace, htempl, hsops, hrel]
  simp only [ne_eq, not_true_eq_false, if_false, Bool.not_true, Bool.false_eq_true, or_false, Nat.not_le.2 hn,
    Nat.not_le.2 hgraph, Nat.not_le.2 hconts]

/-- Settles O22. -/
theorem graphWordsIssue : Obligations.GraphWordsIssue := by
  unfold Obligations.GraphWordsIssue
  refine ⟨?tcont, ?late, ?tevt, ?performed, ?targ⟩
  case tcont =>
    intro tk d a b m s u r h
    dsimp only
    intro hidle htag hspace hlen hn htempl hgraph hconts hsops hrel
    rw [exec_tcont h hidle htag hspace hlen hn htempl hgraph hconts hsops hrel]
    refine ⟨fun hroom => ?_, fun hroom => ?_⟩
    · rw [if_pos hroom]; rfl
    · rw [if_neg (by simp [hroom])]; rfl
  case late =>
    intro s u g n va pay know U hunits hstands hlate
    have hU : s.unit u = U := by simp [State.unit, hunits, SMap.get]
    simp only [State.lateActs, hunits, List.foldl_cons, List.foldl_nil, hU, hlate, hstands]
    rfl
  case tevt =>
    intro tk d act ev g s u r h
    have hwho : s.swordCheck.who = (u, .S) := h.who
    dsimp only
    change execTevt tk d act ev g s = _
    rw [execTevt, State.sWord_of_ready h]
    simp only [hwho]
    rfl
  case performed =>
    intro s u o rest act G hu hhalt hsops hk hev hrel hG
    have hbefore : ((o :: rest).takeWhile fun x => x.id ≠ o.id) = [] := by simp
    have hgo : ¬ (act = 1 ∧ (([] : List SOp) ≠ [] ∨ (!s.mem.releasedAt u 3) = true)) := by
      rintro ⟨hact, hne | hopen⟩
      · exact hne rfl
      · simp [hrel hact] at hopen
    refine ⟨_, { G with
      events := if act = 1 then G.events ||| BitVec.ofNat 64 (2 ^ o.v.toNat)
        else if act = 2 then G.events &&& ~~~(BitVec.ofNat 64 (2 ^ o.v.toNat)) else G.events
      evKnow := if act = 1 then G.tellEvent o.v.toNat ((s.unit u).relIds o.id)
        else if act = 2 then SMap.erase G.evKnow o.v.toNat else G.evKnow }, unitEvent_of_live hu hhalt, ?_⟩
    unfold State.performTevt
    dsimp only
    rw [hsops, List.find?_cons_of_pos (by rw [hk])]
    simp only [hk, hbefore, hG, if_neg hgo]
    refine ⟨?_, fun i hi => getLsbD_eventBit _ _ _ _ hi, ?_, ?_⟩
    · simp [State.forgetSop]
    · simp [State.forgetSop, boolWord]
    · simp [State.forgetSop]
  case targ =>
    intro tk d a sgn size g s u r key h
    have hwho : s.swordCheck.who = (u, .S) := h.who
    dsimp only
    intro halign hbound hacq htr hclean
    change execTarg tk d a sgn size g s = _
    rw [execTarg, State.sWord_of_ready h]
    simp only [hwho, halign, Nat.not_lt.2 hbound, hacq, htr, State.poisonCheck_of_clean hclean]
    rfl

end Sys2Proof.Machine
end


section
/-! O23.  JGUARD, JPATCH, JMARK and JSTAT. -/
namespace Sys2Proof.Machine

theorem UnitSt.not_recording {U : UnitSt} (h : U.tape.run ≠ 1) : U.recording = false := by
  simp [UnitSt.recording, h]

/-- Settles O23. -/
theorem tapeWordsIssue : Obligations.TapeWordsIssue := by
  unfold Obligations.TapeWordsIssue
  intro tk s u r regs h
  have hwho : s.swordCheck.who = (u, .S) := h.who
  dsimp only
  refine ⟨?guard, ?guardOut, ?patch, ?patchOut, ?markIn, ?mark, ?stat⟩
  case guard =>
    rintro a size rfl hsize halign hin hrun
    change execJguard tk a size s = _
    rw [execJguard, State.sWord_of_ready h]
    simp only [halign, Nat.not_lt.2 hsize, Nat.not_lt.2 hin, UnitSt.not_recording hrun]
    rfl
  case guardOut =>
    rintro a size rfl hout
    change execJguard tk a size s = _
    rw [execJguard, State.sWord_of_ready h]
    simp only [hout, or_true, if_true]
    rfl
  case patch =>
    rintro d a T rfl hT ⟨q, hq, hoff, hcap⟩ hrun
    have hany : (T.image.layout.any fun q => decide (q.1 = ((s.swordCheck.unit u).xS a).toNat) && q.2.2) = true :=
      List.any_eq_true.2 ⟨q, hq, by simp [hoff, hcap]⟩
    change execJpatch tk d a s = _
    rw [execJpatch, State.sWord_of_ready h]
    simp only [hT, Option.map_some, Option.getD_some, hany, UnitSt.not_recording hrun]
    rfl
  case patchOut =>
    rintro d a T rfl hT hno
    have hany : (T.image.layout.any fun q => decide (q.1 = ((s.swordCheck.unit u).xS a).toNat) && q.2.2) = false := by
      rw [List.any_eq_false]
      intro q hq hfield
      obtain ⟨hoff, hcap⟩ : q.1 = ((s.swordCheck.unit u).xS a).toNat ∧ q.2.2 = true := by simpa using hfield
      simp [hno q hq hoff] at hcap
    change execJpatch tk d a s = _
    rw [execJpatch, State.sWord_of_ready h]
    simp only [hT, Option.map_some, Option.getD_some, hany]
    rfl
  case markIn =>
    rintro imm rfl hin
    change execJmark tk imm s = _
    rw [execJmark, State.sWord_of_ready h]
    simp only [hin]
    rfl
  case mark =>
    rintro imm rfl hout
    change execJmark tk imm s = _
    rw [execJmark, State.sWord_of_ready h]
    simp only [hout, hwho]
    rfl
  case stat =>
    rintro d imm rfl
    change execJstat tk d imm s = _
    rw [execJstat, State.sWord_of_ready h]
    simp only [hwho]
    match imm with
    | 0 | 1 | 2 => rfl
    | _ + 3 => rfl

end Sys2Proof.Machine
end


section
/-! O31 and O32.  Control words and loops: S resolves, the other engines follow. -/
namespace Sys2Proof.Machine

/-- An A-tagged word of S that is ready does S's part. -/
theorem State.aWord_S {s : State} {u : Nat} {r : PassRec} (h : Ready s u .S r .none none [])
    (sPart : State → UnitSt → PassRec → Flight → Res) (ePart : State → UnitSt → Eng → PassRec → Flight → Res) :
    s.aWord sPart ePart = s.settle u .S r .none ⟨none, []⟩ (sPart s (s.unit u) r (s.flight u .S r .none)) := by
  rw [State.aWord, State.word_of_ready h, State.freshen_none]
  simp only [h.who]
  rfl

/-- An A-tagged word of another engine that is ready does the follower's part, where no tape is replayed. -/
theorem State.aWord_of_ne {s : State} {u : Nat} {e : Eng} {r : PassRec} (h : Ready s u e r .none none []) (he : e ≠ .S)
    (hrun : (s.unit u).tape.run ≠ 2) (sPart : State → UnitSt → PassRec → Flight → Res)
    (ePart : State → UnitSt → Eng → PassRec → Flight → Res) :
    s.aWord sPart ePart = s.settle u e r .none ⟨none, []⟩ (ePart s (s.unit u) e r (s.flight u e r .none)) := by
  rw [State.aWord, State.word_of_ready h, State.freshen_none]
  simp only [h.who, if_neg he, if_neg hrun]

/-- Where nothing is recorded, an engine only takes its outcome. -/
theorem State.popOut_of_not_recording {s : State} {u : Nat} (h : (s.unit u).tape.run = 0) (e : Eng) (r : PassRec) (o :
    Outcome) :
    s.popOut u e r o = s.setUnit u ((s.unit u).setOut e ((s.unit u).outOf e).tail) := by
  have hrec : ∀ l, ((s.setUnit u ((s.unit u).setOut e ((s.unit u).outOf e).tail)).tapeAppend u e l)
      = s.setUnit u ((s.unit u).setOut e ((s.unit u).outOf e).tail) := by
    intro l
    simp [State.tapeAppend, UnitSt.setOut, UnitSt.recording, h]
  cases o <;> exact hrec _

/-- S resolves a control word outside loop bodies, with room in the outcome queues. -/
theorem State.jumpS_of_room {s : State} {u : Nat} (hwho : s.who = (u, .S)) {r : PassRec} {f : Flight} {taken inLoop : Bool}
    {tgt : Nat} {brp : Option Nat} (hin : (s.unit u).inHandler = false) (hloops : (s.unit u).loopsOf .S = [])
    (hroom : (s.unit u).outRoom = true) (ht : taken = true → tgt < (s.unit u).tlen) :
    s.jumpS (s.unit u) r f taken (tgt : Int) inLoop brp =
      .go ((s.passMarks u r.hdr r.ext).setUnit u ((((s.passMarks u r.hdr r.ext).unit u).pushOut (.jump taken (tgt % 2 ^
        64))).setRedir
        .S (some ⟨tgt, taken, r.len + 2, brp⟩))) f := by
  have hin' : ¬ (taken = true ∧ ((tgt : Int) < 0 ∨ ((s.unit u).tlen : Int) ≤ tgt)) := by
    rintro ⟨htaken, hout⟩
    have := ht htaken
    omega
  have hstay : ¬ (taken = true ∧ false = true) := fun hh => by cases hh.2
  simp only [State.jumpS, hin, hloops, Bool.false_eq_true, if_false, List.head?_nil, if_neg hin', and_false, hroom,
    Bool.not_true,
    hwho, Int.toNat_natCast, redirectFrom]

/-- A target beyond the text. -/
theorem State.jumpS_beyond_text {s : State} {u : Nat} {r : PassRec} {f : Flight} {inLoop : Bool}
    {tgt : Nat} {brp : Option Nat} (hin : (s.unit u).inHandler = false) (hloops : (s.unit u).loopsOf .S = [])
    (ht : (s.unit u).tlen ≤ tgt) :
    s.jumpS (s.unit u) r f true (tgt : Int) inLoop brp = .trap .text r.addr r.hdr := by
  have hout : (tgt : Int) < 0 ∨ ((s.unit u).tlen : Int) ≤ tgt := .inr (by exact_mod_cast ht)
  simp only [State.jumpS, hin, hloops, Bool.false_eq_true, if_false, List.head?_nil, true_and, if_pos hout]

/-- Another engine follows the outcome that S has left for it. -/
theorem State.jumpE_of_outcome {s : State} {u : Nat} {e e' : Eng} (hwho : s.who = (u,
    e')) {r : PassRec} {f : Flight} {taken : Bool}
    {g : Nat} {rest : List Outcome} (hrun : (s.unit u).tape.run = 0) (hout : (s.unit u).outOf e = .jump taken g :: rest) :
    s.jumpE (s.unit u) e r f =
      .go ((s.setUnit u ((s.unit u).setOut e rest)).setUnit u
        (((s.setUnit u ((s.unit u).setOut e rest)).unit u).setRedir e (some ⟨g, taken, r.len + 2, none⟩))) f := by
  simp only [State.jumpE, hout, List.head?_cons, hwho, State.popOut_of_not_recording hrun, List.tail_cons, redirectFrom]

/-- Settles O31. -/
theorem controlWordsResolveAndAreFollowed : Obligations.ControlWordsResolveAndAreFollowed := by
  unfold Obligations.ControlWordsResolveAndAreFollowed
  refine ⟨?resolve, ?follow⟩
  case resolve =>
    intro s u r h
    dsimp only
    intro hin hloops hroom
    refine ⟨fun imm32 tgt htgt hlt => ⟨?_, fun d => ?_, fun d sense => ?_⟩, fun a hp hlt => ?_, fun a hp hle => ?_⟩
    · change execJmp imm32 s = _
      rw [execJmp, State.aWord_S h, htgt, State.jumpS_of_room h.who hin hloops hroom fun _ => hlt]
      rfl
    · change execCall d imm32 s = _
      rw [execCall, State.aWord_S h, htgt]
      dsimp only
      rw [State.jumpS_of_room h.who hin hloops hroom fun _ => hlt]
      simp only [Res.link, h.who]
      rfl
    · change execBr d sense imm32 s = _
      rw [execBr, State.aWord_S h, htgt, State.jumpS_of_room h.who hin hloops hroom fun _ => hlt]
      rfl
    · change execRet a s = _
      rw [execRet, State.aWord_S h, if_neg (by simp [hp]), State.jumpS_of_room h.who hin hloops hroom fun _ => hlt]
      rfl
    · change execRet a s = _
      rw [execRet, State.aWord_S h, if_neg (by simp [hp]), State.jumpS_beyond_text hin hloops hle]
      rfl
  case follow =>
    intro s u e r taken g rest he h hrun hout
    dsimp only
    have run2 : (s.unit u).tape.run ≠ 2 := by rw [hrun]; decide
    rintro i (⟨d, sense, imm32, rfl⟩ | ⟨imm32, rfl⟩ | ⟨d, imm32, rfl⟩ | ⟨a, rfl⟩)
    · change execBr d sense imm32 s = _
      rw [execBr, State.aWord_of_ne h he run2, State.jumpE_of_outcome h.who hrun hout]
      rfl
    · change execJmp imm32 s = _
      rw [execJmp, State.aWord_of_ne h he run2, State.jumpE_of_outcome h.who hrun hout]
      rfl
    · change execCall d imm32 s = _
      rw [execCall, State.aWord_of_ne h he run2, State.jumpE_of_outcome h.who hrun hout]
      rfl
    · change execRet a s = _
      rw [execRet, State.aWord_of_ne h he run2, State.jumpE_of_outcome h.who hrun hout]
      rfl

end Sys2Proof.Machine
end


section
/-! O32.  LOOP. -/
namespace Sys2Proof.Machine

/-- An engine with iterations to make enters the body. -/
theorem State.enterLoop_of_trips {s : State} {u : Nat} {e : Eng} {f : Flight} {addr body n t : Nat} (ht : t ≠ 0) :
    s.enterLoop u e f addr (body + 1) n t =
      .go (s.setUnit u ((s.unit u).setLoops e (⟨addr + 2, addr + 2 + body, n, t, 0⟩ :: (s.unit u).loopsOf e))) f := by
  have hb : addr + 1 + (body + 1) = addr + 2 + body := by omega
  simp only [State.enterLoop, if_neg ht, hb]

/-- With no iterations it goes on past the body. -/
theorem State.enterLoop_zero {s : State} {u : Nat} {e : Eng} {f : Flight} {addr body n : Nat} :
    s.enterLoop u e f addr (body + 1) n 0 = .goTo s f (addr + 2 + body + 1) := by
  have hb : addr + 1 + (body + 1) = addr + 2 + body := by omega
  simp only [State.enterLoop, if_true, hb]

/-- S passes every check of a LOOP. -/
theorem State.loopS_of_checks {s : State} {u : Nat} (hwho : s.who = (u, .S)) {r : PassRec} {f : Flight} {d t : Nat} {l : XL}
    (ht : (if l.ci = 1 then l.trip else ((s.unit u).xS d).toNat) = t)
    (hin : (s.unit u).inHandler = false) (hpend : l.ci = 0 → (s.unit u).xPend d = false)
    (hnest : ∀ q ∈ ((s.unit u).loopsOf .S).head?, r.addr + 2 + l.body ≤ q.b1)
    (hbody : bodyEndsInHeader (s.unit u) (r.addr + 2 + l.body) 4097 (r.addr + 2) = false) (hlt : t < 2 ^ 32)
    (htext : r.addr + 2 + l.body < (s.unit u).tlen) (hdepth : ((s.unit u).loopsOf .S).length < 4)
    (hroom : (s.unit u).outRoom = true) :
    s.loopS (s.unit u) r f d l = ((s.passMarks u r.hdr r.ext).setUnit u (((s.passMarks u r.hdr r.ext).unit u).pushOut
      (.trip t))).enterLoop u .S f r.addr (l.body + 1) (l.nst + 1) t := by
  have hb : r.addr + 1 + (l.body + 1) = r.addr + 2 + l.body := by omega
  have hp : ¬ (l.ci = 0 ∧ (s.unit u).xPend d = true) := by
    rintro ⟨hci, hpd⟩
    simp [hpend hci] at hpd
  have hn : (match ((s.unit u).loopsOf .S).head? with
      | some q => decide (q.b1 < r.addr + 2 + l.body)
      | none => false) = false := by
    cases hq : ((s.unit u).loopsOf .S).head? with
    | none => rfl
    | some q => simpa using hnest q (by simp [hq])
  have hd : ¬ (4 ≤ ((s.unit u).loopsOf .S).length ∧ t ≠ 0) := by omega
  unfold State.loopS
  simp only [hb, ht, hin, if_neg hp, hbody, Nat.not_le.2 hlt, Nat.not_le.2 htext, if_neg hd, hroom, hwho]
  rw [if_neg (by simp), if_neg]
  · simp
  · rintro (h | h)
    · exact Bool.false_ne_true (hn.symm.trans h)
    · cases h

/-- Settles O32. -/
theorem loopsEnterCountAndLeave : Obligations.LoopsEnterCountAndLeave := by
  unfold Obligations.LoopsEnterCountAndLeave
  refine ⟨⟨?atS, ?atOther⟩, ?counts⟩
  case atS =>
    intro s u r d l h
    dsimp only
    intro hin hpend hnest hbody hlt htext hdepth hroom
    have run : exec (.loop d l) s = _ := (State.aWord_S h _ _ : execLoop d l s = _)
    rw [run, State.loopS_of_checks h.who rfl hin hpend hnest hbody hlt htext hdepth hroom]
    refine ⟨fun ht => ?_, fun ht => ?_⟩
    · rw [State.enterLoop_of_trips ht]
      rfl
    · rw [ht, State.enterLoop_zero]
      rfl
  case atOther =>
    intro s u e r d l t rest he h hrun hout
    dsimp only
    have run : exec (.loop d l) s = _ := (State.aWord_of_ne h he (by rw [hrun]; decide) _ _ : execLoop d l s = _)
    rw [run]
    simp only [hout, List.head?_cons, h.who, State.popOut_of_not_recording hrun, List.tail_cons]
    refine ⟨fun ht => ?_, ?_⟩
    · rw [State.enterLoop_of_trips ht]
      rfl
    · rintro rfl
      rw [State.enterLoop_zero]
      rfl
  case counts =>
    intro l rest n
    refine ⟨fun h => ?_, fun h hlt => ?_, fun h hge => ?_, fun sg => ?_⟩
    · simp [loopStep, h]
    · simp [loopStep, h, hlt]
    · simp [loopStep, h, hge]
    · simp [stagePred]
      omega

end Sys2Proof.Machine
end


section
/-! What a recording writes (R331 to R339): the tapes and what the units keep of them, and nothing else. -/
namespace Sys2Proof.Machine

/-- `s'` is `s` up to the tapes: those of the hub, those in recording, and each unit's own state of them. -/
structure State.SameButTapes (s s' : State) : Prop where
  unit : ∀ v, (s.unit v).SameButTape (s'.unit v)
  rest : ∃ us ts rs, s' = { s with units := us, hub := { s.hub with tapes := ts, recording := rs } }

namespace State.SameButTapes

theorem refl (s : State) : s.SameButTapes s := ⟨fun _ => .refl _, s.units, s.hub.tapes, s.hub.recording, rfl⟩

theorem trans {s t r : State} (h : s.SameButTapes t) (h' : t.SameButTapes r) : s.SameButTapes r := by
  obtain ⟨hu, us, ts, rs, rfl⟩ := h
  obtain ⟨hu', us', ts', rs', rfl⟩ := h'
  exact ⟨fun v => (hu v).trans (hu' v), us', ts', rs', rfl⟩

section
variable {s s' : State} (h : s.SameButTapes s')
include h
theorem mem : s'.mem = s.mem := by obtain ⟨-, us, ts, rs, rfl⟩ := h; rfl
theorem who : s'.who = s.who := by obtain ⟨-, us, ts, rs, rfl⟩ := h; rfl
theorem task (t : Nat) : s'.task t = s.task t := by obtain ⟨-, us, ts, rs, rfl⟩ := h; rfl
theorem graph (g : Nat) : s'.graph g = s.graph g := by obtain ⟨-, us, ts, rs, rfl⟩ := h; rfl
theorem cluster (c : Nat) : s'.cluster c = s.cluster c := by obtain ⟨-, us, ts, rs, rfl⟩ := h; rfl
theorem die (d : Nat) : s'.die d = s.die d := by obtain ⟨-, us, ts, rs, rfl⟩ := h; rfl
theorem id (v : Nat) : (s'.unit v).id = (s.unit v).id := by
  obtain ⟨T, hT⟩ := h.unit v
  rw [hT]
theorem csr (v : Nat) : (s'.unit v).csr = (s.unit v).csr := by
  obtain ⟨T, hT⟩ := h.unit v
  rw [hT]
theorem work (v : Nat) : (s'.unit v).work = (s.unit v).work := (h.unit v).work
theorem walk (v : Nat) : (s'.unit v).walk = (s.unit v).walk := by
  obtain ⟨T, hT⟩ := h.unit v
  rw [hT]
end

/-- A unit's own state of its tape changes. -/
theorem setTape (s : State) (u : Nat) (T : TapeSt) : s.SameButTapes (s.setUnit u { s.unit u with tape := T }) := by
  refine ⟨fun v => ?_, _, s.hub.tapes, s.hub.recording, rfl⟩
  obtain rfl | hv := eq_or_ne v u
  · exact ⟨T, State.unit_setUnit_same _ _ _⟩
  · rw [State.unit_setUnit_other _ _ hv]
    exact .refl _

/-- The hub's tapes change. -/
theorem setTapes (s : State) (ts : List Tape) (rs : List (Nat × Tape)) :
    s.SameButTapes { s with hub := { s.hub with tapes := ts, recording := rs } } := ⟨fun _ => .refl _, s.units, ts, rs, rfl⟩

theorem foldl {α : Type} {f : State → α → State} (step : ∀ (s : State) a, s.SameButTapes (f s a)) (l : List α) (s : State) :
    s.SameButTapes (l.foldl f s) := foldl_rel refl trans step l s

end State.SameButTapes

theorem State.setRecTape_same (s : State) (t : Nat) (T : Tape) : s.SameButTapes (s.setRecTape t T) :=
  ⟨fun _ => .refl _, s.units, s.hub.tapes, _, rfl⟩

theorem State.abandon_same (s : State) (t reason : Nat) : s.SameButTapes (s.abandon t reason) := by
  unfold State.abandon
  cases s.task t with
  | none => exact .refl s
  | some T =>
    refine (State.SameButTapes.foldl (fun s u => ?_) T.units s).trans ⟨fun _ => .refl _, _, _, _, rfl⟩
    by_cases hr : (s.unit u).tape.run = 1
    · simp only [hr, if_true]
      exact .setTape s u _
    · simp only [hr, if_false]
      exact .refl s

theorem State.invalidTapes_same (s : State) (p : Tape → Bool) : s.SameButTapes (s.invalidTapes p) := by
  unfold State.invalidTapes
  refine .trans (.setTapes s _ s.hub.recording) (State.SameButTapes.foldl (fun s r => ?_) _ _)
  exact s.abandon_same r.1 9

theorem State.addGuard_same (s : State) (t off n : Nat) : s.SameButTapes (s.addGuard t off n) := by
  refine State.SameButTapes.foldl (fun s q => ?_) _ s
  cases s.recTape t with
  | none => exact .refl s
  | some T =>
    dsimp only
    split_ifs
    · exact .refl s
    · exact s.abandon_same t 2
    · exact s.setRecTape_same t _

theorem State.useMark_same (s : State) (u : Nat) (o : Origin) : s.SameButTapes (s.useMark u o) := by
  unfold State.useMark
  dsimp only
  split_ifs
  · exact .refl s
  · cases o with
    | clean => exact .refl s
    | volatile => exact s.abandon_same _ 5
    | args l => exact State.SameButTapes.foldl (fun s p => s.addGuard_same _ p.1 p.2) l s

theorem State.firstIssue_same (s : State) (u : Nat) : s.SameButTapes (s.firstIssue u) := by
  unfold State.firstIssue
  dsimp only
  split_ifs
  · exact .refl s
  · cases s.recTape (s.unit u).id.task with
    | none => exact .refl s
    | some T =>
      dsimp only
      split_ifs
      · exact s.setRecTape_same _ _
      · exact .refl s

theorem State.makeRoom_same {c need n : Nat} {s s' : State} (h : s.makeRoom c need n = some s') : s.SameButTapes s' := by
  induction n generalizing s with
  | zero =>
    unfold State.makeRoom at h
    split_ifs at h
    cases h
    exact .refl _
  | succ n ih =>
    unfold State.makeRoom at h
    split_ifs at h
    · cases h
      exact .refl _
    · cases he : s.evictable c with
      | none => rw [he] at h; cases h
      | some T =>
        rw [he] at h
        exact (State.SameButTapes.setTapes s _ _).trans (ih h)

theorem State.tapeAppend_same (s : State) (u : Nat) (e : Eng) (es : List Word128) : s.SameButTapes (s.tapeAppend u e es) := by
  unfold State.tapeAppend
  dsimp only
  split_ifs
  · exact .refl s
  · split
    · exact s.abandon_same _ 1
    next s1 h => exact (State.makeRoom_same h).trans (.setTape s1 u _)

theorem State.meetEntry_same (s : State) (u : Nat) (e : Eng) (r : PassRec) : s.SameButTapes (s.meetEntry u e r) :=
  s.tapeAppend_same u e _

theorem State.recordCaps_same (u : Nat) (l : List (Cap × KOrigin)) (s : State) : s.SameButTapes (s.recordCaps u l).1 := by
  induction l generalizing s with
  | nil => exact .refl s
  | cons q r ih =>
    obtain ⟨c, o⟩ := q
    cases o with
    | clean => exact ih s
    | volatile => exact (s.abandon_same _ 5).trans (ih _)
    | field off => exact (s.addGuard_same _ off 16).trans (ih _)
    | slot i dl =>
      refine .trans ?_ (ih _)
      cases s.recTape (s.unit u).id.task with
      | none => exact .refl s
      | some T => exact s.setRecTape_same _ _

theorem State.recordIssue_same (s : State) (u : Nat) (e : Eng) (r : PassRec) (g : Bool) (desc : Option Desc)
    (caps : List (Cap × KOrigin)) : s.SameButTapes (s.recordIssue u e r g desc caps) := by
  unfold State.recordIssue
  dsimp only
  by_cases hrun : (s.unit u).tape.run ≠ 1
  · rw [if_pos hrun]
    exact .refl s
  · rw [if_neg hrun]
    have recorded := fun l => (s.firstIssue_same u).trans (State.recordCaps_same u l (s.firstIssue u))
    by_cases hS : fld r.hdr 26 2 % 2 = 1 ∧ fld r.hdr 23 3 = 0 ∧ fld r.hdr 29 3 ≠ 6
    · simp only [if_pos hS]
      exact ((recorded _).trans (.setTape _ u _)).trans (State.tapeAppend_same _ u e _)
    · simp only [if_neg hS]
      exact ((recorded _).trans (.setTape _ u (State.unit _ u).tape)).trans (State.tapeAppend_same _ u e _)

theorem State.recordEnd_same (s : State) (u : Nat) : s.SameButTapes (s.recordEnd u) := by
  refine (s.firstIssue_same u).trans (State.SameButTapes.foldl (fun s e => ?_) _ _)
  cases (s.unit u).nextRec e with
  | none => exact .refl s
  | some r => exact s.meetEntry_same u e r

end Sys2Proof.Machine
end


section
/-! O33.  Rendezvous words, YIELD and END. -/
namespace Sys2Proof.Machine

@[simp] theorem State.arrive_who (s : State) (u : Nat) (e : Eng) (r : PassRec) : (s.arrive u e r).who = s.who := by
  simp only [State.arrive]
  split_ifs <;> rfl

section
variable {s : State} {u : Nat} {e : Eng} {r : PassRec}

/-- Only S issues in a handler. -/
theorem not_inHandler_of_ne {tk : Tok} {g : XP} {regs : List Nat} (h : Ready s u e r tk g regs) (he : e ≠ .S) :
    (s.unit u).inHandler = false := by
  by_contra hin
  exact he (h.handler (by simpa using hin)).1

/-- A rendezvous word that is ready comes to its meeting. -/
theorem State.rendezvous_of_ready (h : Ready s u e r .none none []) (hin : (s.unit u).inHandler = false)
    (ready : UnitSt → Bool) (act : State → PassRec → State ⊕ Trap) :
    s.rendezvous ready act = s.settle u e r .none ⟨none, []⟩ (s.meet r false ready fun t => act t r) := by
  rw [State.rendezvous, State.word_of_ready h, State.freshen_none]
  simp only [hin, Bool.false_eq_true, if_false]

/-- Until the meeting is complete an engine only arrives. -/
theorem State.rendezvous_waits (h : Ready s u e r .none none []) (hin : (s.unit u).inHandler = false)
    {ready : UnitSt → Bool} (act : State → PassRec → State ⊕ Trap)
    (hno : ¬ (((s.arrive u e r).unit u).allArrived = true ∧ ready ((s.arrive u e r).unit u) = true)) :
    s.rendezvous ready act = .next (s.arrive u e r) := by
  rw [State.rendezvous_of_ready h hin, State.meet]
  simp only [h.who, if_neg hno]
  rfl

/-- With the last arrival the word acts, and every engine goes past it. -/
theorem State.rendezvous_acts (h : Ready s u e r .none none []) (hin : (s.unit u).inHandler = false)
    {ready : UnitSt → Bool} {act : State → PassRec → State ⊕ Trap} {s2 : State}
    (hall : ((s.arrive u e r).unit u).allArrived = true) (hready : ready ((s.arrive u e r).unit u) = true)
    (hact : act (s.arrive u e r) r = .inl s2) :
    s.rendezvous ready act = .next (s2.meetPast u r false) := by
  rw [State.rendezvous_of_ready h hin, State.meet]
  simp only [h.who, hall, hready, and_self, if_true, hact]
  rfl

/-- With the last arrival the word traps. -/
theorem State.rendezvous_traps (h : Ready s u e r .none none []) (hin : (s.unit u).inHandler = false)
    {ready : UnitSt → Bool} {act : State → PassRec → State ⊕ Trap} {t : Trap}
    (hall : ((s.arrive u e r).unit u).allArrived = true) (hready : ready ((s.arrive u e r).unit u) = true)
    (hact : act (s.arrive u e r) r = .inr t) :
    s.rendezvous ready act = .next ((s.arrive u e r).takeTrap u t) := by
  rw [State.rendezvous_of_ready h hin, State.meet]
  simp only [h.who, hall, hready, and_self, if_true, hact]
  rfl

/-- An A-tagged word whose two parts are one. -/
theorem exec_nopA (h : Ready s u e r .none none []) :
    exec .nopA s = .next (s.leaves u e r .none (s.flight u e r .none)) := by
  change execNopA s = _
  rw [execNopA, State.aWord, State.word_of_ready h, State.freshen_none]
  simp only [ite_self]
  rfl

end

/-- A unit that has ended counts its rank. -/
theorem exec_unitEnd {s : State} {u : Nat} {T : Task} (hu : u < 768) (hT : s.task (s.unit u).id.task = some T)
    (hend : s.endReady u T = true) :
    ∃ t T1, exec (.unitEnd u) s = .next t ∧ (t.unit u).run = .ended ∧ t.task (s.unit u).id.task = some T1 ∧
      T1.ended = T.ended ++ [(s.unit u).id.rank] ∧ t.mem = s.mem := by
  have hhalt : s.halted u = false := by
    have hruns : s.runs u = true := by
      simp only [State.endReady, Bool.and_eq_true] at hend
      tauto
    have hrun : (s.unit u).run = .running := by
      simp only [State.runs, Bool.and_eq_true, decide_eq_true_eq] at hruns
      tauto
    simp [State.halted, hrun]
  have same := s.recordEnd_same u
  refine ⟨_, { T with ended := T.ended ++ [(s.unit u).id.rank] }, unitEvent_of_live hu hhalt, ?_⟩
  simp only [State.endUnit, hT, hend, same.id]
  simp [same.mem]

/-- Settles O33. -/
theorem rendezvousWordsMeet : Obligations.RendezvousWordsMeet := by
  unfold Obligations.RendezvousWordsMeet
  refine ⟨?meet, ?yieldS, ?follow, ?asked⟩
  case meet =>
    intro s u e r h hin
    have hwho : (s.arrive u e r).who = (u, e) := (s.arrive_who u e r).trans h.who
    dsimp only
    refine ⟨exec_nopA h, State.rendezvous_waits h hin _ (by simp), fun T hu hT hend => exec_unitEnd hu hT hend,
      fun hno => ⟨?_, fun d => ?_, fun d => ?_⟩, fun hall hquiet => ?_, fun hall d => ⟨?_, ?_, ?_, ?_⟩⟩
    · exact State.rendezvous_waits h hin _ (by simp [hno])
    · exact State.rendezvous_waits h hin _ (by simp [hno])
    · exact State.rendezvous_waits h hin _ (by simp [hno])
    · exact State.rendezvous_acts h hin hall hquiet (by simp only [hwho])
    · intro hal hmx hwr
      refine State.rendezvous_acts h hin hall rfl ?_
      simp only [hwho, hal, hmx, hwr]
      rfl
    · intro hbad
      refine State.rendezvous_traps h hin hall rfl ?_
      simp only [hwho]
      exact if_pos (by simpa using hbad)
    · intro hal hmx hwr
      refine State.rendezvous_acts h hin hall rfl ?_
      simp only [hwho, hal, hmx, hwr]
      rfl
    · intro hbad
      refine State.rendezvous_traps h hin hall rfl ?_
      simp only [hwho]
      exact if_pos (by simpa using hbad)
  case yieldS =>
    intro s u r h hin hrun harr hroom hpreq hfull
    change execYield s = _
    rw [execYield, State.word_of_ready h, State.freshen_none]
    simp only [h.who, hin, hrun, harr, hroom, hpreq, hfull]
    rfl
  case follow =>
    intro s u e r rest he h hrun hfull hout
    have hin := not_inHandler_of_ne h he
    change execYield s = _
    rw [execYield, State.word_of_ready h, State.freshen_none]
    simp only [h.who, hin, hrun, he, hfull, hout, List.head?_cons, State.popOut_of_not_recording hrun, List.tail_cons]
    rfl
  case asked =>
    intro s u e r rest he h hrun hout hall hquiet
    have hin := not_inHandler_of_ne h he
    change execYield s = _
    rw [execYield, State.word_of_ready h, State.freshen_none]
    simp only [h.who, hin, hrun, he, hout, List.head?_cons, State.yieldMeet, hall, hquiet]
    rfl

end Sys2Proof.Machine
end


section
/-! O37.  The vector words. -/
namespace Sys2Proof.Machine

/-! ### Lanes -/

theorem UnitSt.laneNats_eq (U : UnitSt) (sp : Nat) : U.laneNats sp = (List.range 64).map (U.laneAt sp) := by
  rw [UnitSt.laneNats, UnitSt.lanes, List.map_map]
  refine List.map_congr_left fun j hj => ?_
  have hj : j < 64 := List.mem_range.1 hj
  simp [UnitSt.laneAt, UnitSt.lanes, hj]

theorem bLanes_eq (U : UnitSt) (x : XV) (r : PassRec) : bLanes U x r = (List.range 64).map (bAt U x r) := by
  unfold bLanes
  split_ifs with h
  · refine List.eq_replicate_iff.2 ⟨by simp, fun v hv => ?_⟩ |>.symm
    obtain ⟨j, -, rfl⟩ := List.mem_map.1 hv
    simp [bAt, h]
  · rw [UnitSt.laneNats_eq]
    exact List.map_congr_left fun j _ => by simp [bAt, h]

theorem getD_range_map (g : Nat → Nat) {n j : Nat} (h : j < n) : ((List.range n).map g).getD j 0 = g j := by
  simp [List.getD_eq_getElem?_getD, h]

theorem UnitSt.laneNats_getD (U : UnitSt) (sp : Nat) {j : Nat} (h : j < 64) : (U.laneNats sp).getD j 0 = U.laneAt sp j := by
  rw [UnitSt.laneNats_eq, getD_range_map _ h]

/-- The lanes of va and then those of b, shifted. -/
theorem extractLanes_getD (U : UnitSt) (x : XV) (r : PassRec) (n : Nat) {j : Nat} (hj : j < 64) :
    (((U.laneNats x.va ++ bLanes U x r).drop n).take 64).getD j 0
      = if j + n < 64 then U.laneAt x.va (j + n) else if j + n < 128 then bAt U x r (j + n - 64) else 0 := by
  have hlen : (U.laneNats x.va).length = 64 := by simp [UnitSt.laneNats_eq]
  have hshift : (((U.laneNats x.va ++ bLanes U x r).drop n).take 64).getD j 0 = (U.laneNats x.va ++ bLanes U x r).getD (j +
    n) 0 := by
    simp [List.getD_eq_getElem?_getD, hj, List.getElem?_take, Nat.add_comm]
  rw [hshift]
  by_cases ha : j + n < 64
  · rw [if_pos ha, List.getD_append _ _ _ _ (by rw [hlen]; exact ha), UnitSt.laneNats_getD _ _ ha]
  · rw [if_neg ha, List.getD_append_right _ _ _ _ (by rw [hlen]; omega), hlen, bLanes_eq]
    by_cases hb : j + n < 128
    · rw [if_pos hb, getD_range_map _ (by omega)]
    · rw [if_neg hb]
      exact List.getD_eq_default _ _ (by simp; omega)

/-- Two results have the same flags and agree in every one of the 64 lanes. -/
def SameLanes (p q : List Nat × Nat) : Prop := (∀ j < 64, p.1.getD j 0 = q.1.getD j 0) ∧ p.2 = q.2

theorem SameLanes.refl (q : List Nat × Nat) : SameLanes q q := ⟨fun _ _ => rfl, rfl⟩

theorem SameLanes.of_eq {p q : List Nat × Nat} (h : p = q) : SameLanes p q := h ▸ .refl p

/-- A list of lanes by a function of the lane. -/
theorem SameLanes.of_getD {l : List Nat} {g : Nat → Nat} (h : ∀ j < 64, l.getD j 0 = g j) : SameLanes (l, 0) (lanes64 g) :=
  ⟨fun j hj => by rw [h j hj, lanes64, getD_range_map g hj], rfl⟩

/-- Only the 64 lanes are written. -/
theorem laneWrites_of_same {p q : List Nat × Nat} (h : SameLanes p q) (sp : Nat) :
    laneWrites sp (p.1.map (BitVec.ofNat 32)) = laneWrites sp (q.1.map (BitVec.ofNat 32)) := by
  unfold laneWrites
  refine congrArg _ (List.map_congr_left fun j hj => ?_)
  have hd : ∀ l : List Nat, (l.map (BitVec.ofNat 32)).getD j 0 = BitVec.ofNat 32 (l.getD j 0) := fun l => List.getD_map ..
  rw [hd, hd, h.1 j (List.mem_range.1 hj)]

@[simp] theorem State.mixed_csr (s : State) (e : Eng) (U : UnitSt) : (s.mixed e U).csr = U.csr := by
  simp only [State.mixed]
  split_ifs <;> rfl

/-- Where no word of another engine has elements to write, V reads the banks as they stand. -/
theorem State.mixed_of_settled {s : State} {U : UnitSt} (h : ∀ f ∈ U.work.fl, f.eng ≠ .V → f.eff = []) : s.mixed .V U = U := by
  have hw : (((U.work.fl.filter fun f => f.eng != .V).map fun f =>
      (f.eff.map fun x => match x with | .bank _ l => l | _ => []).flatten).flatten : List (Nat × Word32)) = [] := by
    rw [List.flatten_eq_nil_iff]
    intro l hl
    obtain ⟨f, hf, rfl⟩ := List.mem_map.1 hl
    obtain ⟨hmem, hne⟩ := List.mem_filter.1 hf
    rw [h f hmem (by simpa using hne)]
    rfl
  unfold State.mixed
  exact if_pos hw

/-! ### Issue -/

section
variable {s : State} {u : Nat} {r : PassRec} {tk : Tok} {g : XP} {v : VUse} {d : Nat}

/-- A V word that meets no hazard, whose banks are Full and whose operands have right parity, issues with its lanes. -/
theorem State.vIssue_of_clear {e : Eng} (hwho : s.who = (u, e)) (hd : v.vd = some d)
    (hhaz : (s.unit u).vHazard v.reads = false) (hbank : (s.unit u).bankChk false v.banks = .ok)
    (hpar : s.parityChk u v.readKeys = none) (f : Flight) (lanes : UnitSt → List Nat × Nat) :
    s.vIssue (s.unit u) r f v lanes = .go s { f with
      wait := .op, rd := v.reads, wr := [specBank d]
      eff := laneWrites d ((lanes (s.mixed .V (s.unit u))).1.map (BitVec.ofNat 32)) :: flagEff (lanes (s.mixed .V (s.unit
        u))).2 } := by
  simp only [State.vIssue, hhaz, hbank, hwho, hpar, hd, VUse.writes]
  rfl

/-- The vector word, with any result that agrees with its lanes. -/
theorem State.vWord_of_ready {x : XV} (h : Ready s u .V r tk x.grd []) (hd : v.vd = some d)
    (hhaz : (s.unit u).vHazard v.reads = false) (hbank : (s.unit u).bankChk false v.banks = .ok)
    (hpar : s.parityChk u v.readKeys = none) {lanes : UnitSt → PassRec → List Nat × Nat} {q : List Nat × Nat}
    (hq : SameLanes (lanes (s.mixed .V (s.unit u)) r) q) :
    s.vWord tk x v lanes = .next (s.leaves u .V r tk { s.flight u .V r tk with
      wait := .op, rd := v.reads, wr := [specBank d]
      eff := laneWrites d (q.1.map (BitVec.ofNat 32)) :: flagEff q.2 }) := by
  rw [State.vWord, State.eWord_of_ready h, State.freshen_V, State.vIssue_of_clear h.who hd hhaz hbank hpar,
    laneWrites_of_same hq, hq.2]
  rfl

end

/-! ### The forms -/

theorem exec_of_laneForm {i : Instr} {tk : Tok} {f : FV} {x : XV} {useB useD : Bool} {op : LMode → Nat → Nat → Nat → Nat × Nat}
    (h : laneForm i = some (tk, f, x, useB, useD, op)) (s : State) : exec i s = s.laneWord tk f x useB useD op := by
  unfold laneForm at h
  split at h <;> cases h
  all_goals rfl

/-- Every other vector word is a vector word with the lanes of its form. -/
theorem exec_of_vForm {i : Instr} {F : VForm} (h : vForm i = some F) (s : State) :
    F.use.vd = some F.f.vd ∧ ∃ lanes, exec i s = s.vWord F.tk F.x F.use lanes ∧ ∀ U r, SameLanes (lanes U r) (F.lanes U r) := by
  unfold vForm at h
  split at h <;> cases h
  case h_1 tk f x => exact ⟨rfl, _, rfl, fun U r => .refl _⟩
  case h_2 tk f x =>
    refine ⟨rfl, _, rfl, fun U r => .of_getD fun j hj => ?_⟩
    rw [List.getD_replicate (h := hj)]
    split_ifs
    · exact UnitSt.laneNats_getD _ _ (Nat.mod_lt _ (by decide))
    · rfl
  case h_3 tk f x =>
    refine ⟨rfl, _, rfl, fun U r => .of_getD fun j hj => ?_⟩
    exact extractLanes_getD U x r _ hj
  case h_4 tk f x =>
    refine ⟨rfl, _, rfl, fun U r => .of_getD fun j hj => ?_⟩
    rw [getD_range_map _ hj, UnitSt.laneNats_getD _ _ (Nat.mod_lt _ (by decide)), laneShift]
    simp only [Nat.add_assoc]
  case h_5 tk f x =>
    refine ⟨rfl, _, rfl, fun U r => .of_getD fun j hj => ?_⟩
    rw [bLanes_eq, List.map_map, getD_range_map _ hj, Function.comp_apply]
    split_ifs with ht
    · exact UnitSt.laneNats_getD _ _ ht
    · rfl
  case h_6 tk f x => exact ⟨rfl, _, rfl, fun U r => by rw [UnitSt.laneNats_eq]; exact .refl _⟩
  case h_7 tk f x => exact ⟨rfl, _, rfl, fun U r => by rw [UnitSt.laneNats_eq]; exact .refl _⟩
  case h_8 tk f x => exact ⟨rfl, _, rfl, fun U r => .refl _⟩
  case h_9 tk f x => exact ⟨rfl, _, rfl, fun U r => by rw [UnitSt.laneNats_eq]; exact .refl _⟩
  case h_10 tk f x => exact ⟨rfl, _, rfl, fun U r => by rw [UnitSt.laneNats_eq]; exact .refl _⟩
  case h_11 tk f x => exact ⟨rfl, _, rfl, fun U r => by rw [UnitSt.laneNats_eq, bLanes_eq]; exact .refl _⟩
  case h_12 tk f x => exact ⟨rfl, _, rfl, fun U r => by rw [UnitSt.laneNats_eq]; exact .refl _⟩

/-- Lane `j` of a lane word: its operation on the operands that it names, in the mode of unit `U`, read in `W`. -/
def laneOf (U W : UnitSt) (f : FV) (x : XV) (r : PassRec) (useB useD : Bool) (op : LMode → Nat → Nat → Nat →
    Nat × Nat) (j : Nat) :
    Nat × Nat :=
  op (modeOf U f) (W.laneAt x.va j) (if useB then bAt W x r j else 0) (if useD then W.laneAt f.vd j else 0)

/-- The lanes of a lane word. -/
theorem lanes3_eq {U W : UnitSt} (hcsr : W.csr = U.csr) (f : FV) (x : XV) (r : PassRec) (useB useD : Bool)
    (op : LMode → Nat → Nat → Nat → Nat × Nat) :
    lanes3 (op (fvMode f W.ftz)) (W.laneNats x.va) (if useB then bLanes W x r else []) (if useD then W.laneNats f.vd else [])
      = ((List.range 64).map fun j => (laneOf U W f x r useB useD op j).1,
          orFlags ((List.range 64).map fun j => (laneOf U W f x r useB useD op j).2)) := by
  have hr : ((List.range 64).map fun i => op (fvMode f W.ftz) ((W.laneNats x.va).getD i 0)
        ((if useB then bLanes W x r else []).getD i 0) ((if useD then W.laneNats f.vd else []).getD i 0))
      = (List.range 64).map (laneOf U W f x r useB useD op) := by
    refine List.map_congr_left fun j hj => ?_
    have hj : j < 64 := List.mem_range.1 hj
    have hm : fvMode f W.ftz = modeOf U f := by rw [modeOf, ← hcsr]; rfl
    rw [hm, UnitSt.laneNats_eq, UnitSt.laneNats_eq, bLanes_eq, getD_range_map _ hj]
    cases useB <;> cases useD <;> simp [hj, laneOf]
  simp only [lanes3, hr, List.map_map]
  rfl

/-- Settles O37. -/
theorem vectorWordsCompute : Obligations.VectorWordsCompute := by
  unfold Obligations.VectorWordsCompute
  refine ⟨?lane, ?other, fun s U => State.mixed_of_settled⟩
  case lane =>
    intro i tk f x useB useD op hF s u r h
    dsimp only
    intro hhaz hbank hpar
    rw [exec_of_laneForm hF, State.laneWord]
    have step := State.vWord_of_ready (lanes := fun U r => lanes3 (op (fvMode f U.ftz)) (U.laneNats x.va)
      (if useB then bLanes U x r else []) (if useD then U.laneNats f.vd else [])) h rfl hhaz hbank hpar
      (SameLanes.of_eq (lanes3_eq (s.mixed_csr .V (s.unit u)) f x r useB useD op))
    rw [step]
    simp only [List.map_map, Function.comp_def, laneOf]
    rfl
  case other =>
    intro i F hF s u r h
    dsimp only
    intro hhaz hbank hpar
    obtain ⟨hd, lanes, hexec, hsame⟩ := exec_of_vForm hF s
    rw [hexec]
    exact State.vWord_of_ready h hd hhaz hbank hpar (hsame _ _)

end Sys2Proof.Machine
end


section
/-! O39.  Conditional streams. -/
namespace Sys2Proof.Machine

/-- A V word that writes no bank and meets no hazard issues without a result. -/
theorem State.vIssue_of_reads {s : State} {u : Nat} {e : Eng} {r : PassRec} {v : VUse} (hwho : s.who = (u,
    e)) (hd : v.vd = none)
    (hhaz : (s.unit u).vHazard v.reads = false) (hbank : (s.unit u).bankChk false v.banks = .ok)
    (hpar : s.parityChk u v.readKeys = none) (f : Flight) (lanes : UnitSt → List Nat × Nat) :
    s.vIssue (s.unit u) r f v lanes =
      .go s { f with wait := .op, rd := v.reads, wr := [], eff := flagEff (lanes (s.mixed .V (s.unit u))).2 } := by
  simp only [State.vIssue, hhaz, hbank, hwho, hpar, hd, VUse.writes]
  rfl

/-- A word that reads no bank meets no hazard. -/
theorem UnitSt.vHazard_nil (U : UnitSt) : U.vHazard [] = false := by
  simp [UnitSt.vHazard]

/-- No parity is checked where nothing is read. -/
theorem State.parityChk_nil (s : State) (u : Nat) : s.parityChk u [] = none := by
  simp [State.parityChk]

/-- Settles O39. -/
theorem conditionalStreamWordsMoveRecords : Obligations.ConditionalStreamWordsMoveRecords := by
  unfold Obligations.ConditionalStreamWordsMoveRecords
  intro tk f x s u r h hone
  refine ⟨fun hhaz hbank hpar => ⟨fun hnone => ?_, fun hroom hrel hsome => ?_⟩, fun hbank => ⟨fun hk => ?_, ?_⟩⟩
  · have issue := State.vIssue_of_reads (v := ⟨some x.va, some x.vb, none, false⟩) (r := r) h.who rfl hhaz hbank
      (by simpa [VUse.readKeys] using hpar) (s.flight u .V r tk) fun _ => ([], 0)
    have picked : s.vcPicked (s.unit u) x = [] := hnone
    change execVcpush tk f x s = _
    rw [execVcpush, State.eWord_of_ready h, State.freshen_V]
    simp only [h.who, hone, issue, picked]
    rfl
  · have issue := State.vIssue_of_reads (v := ⟨some x.va, some x.vb, none, false⟩) (r := r) h.who rfl hhaz hbank
      (by simpa [VUse.readKeys] using hpar) (s.flight u .V r tk) fun _ => ([], 0)
    have picked : s.vcPicked (s.unit u) x ≠ [] := hsome
    have room : ¬ 2048 < (s.cqOf u (f.vd % 8)).length + (s.vcPicked (s.unit u) x).length := Nat.not_lt.2 hroom
    change execVcpush tk f x s = _
    rw [execVcpush, State.eWord_of_ready h, State.freshen_V]
    simp only [h.who, hone, issue, if_neg picked, if_neg room, hrel]
    rfl
  · have issue := fun lanes => State.vIssue_of_clear (v := ⟨none, none, some f.vd, false⟩) (r := r) h.who rfl
      (UnitSt.vHazard_nil _) hbank (s.parityChk_nil u) (s.flight u .V r tk) lanes
    change execVcpop tk f x s = _
    rw [execVcpop, State.eWord_of_ready h, State.freshen_V]
    simp only [h.who, hone, issue, Nat.not_lt.2 hk]
    rfl
  · have issue := fun lanes => State.vIssue_of_clear (v := ⟨none, none, some f.vd, false⟩) (r := r) h.who rfl
      (UnitSt.vHazard_nil _) hbank (s.parityChk_nil u) (s.flight u .V r tk) lanes
    change execVccnt tk f x s = _
    rw [execVccnt, State.eWord_of_ready h, State.freshen_V]
    simp only [h.who, hone, issue]
    rfl

end Sys2Proof.Machine
end


section
/-! O41.  The words of the matrix engine. -/
namespace Sys2Proof.Machine

/-- No tile operation has steps to take. -/
theorem UnitSt.steps_taken {U : UnitSt} (h : ∀ o ∈ U.work.mops, o.stepsDone = true) :
    (U.work.mops.any fun o => !o.stepsDone) = false := by
  rw [List.any_eq_false]
  intro o ho
  simp [h o ho]

section
variable {tk : Tok} {s : State} {u : Nat} {r : PassRec}

/-- MSCAL or MCLR of a bank of the matrix engine that is free. -/
theorem State.wholeBank_of_ready {g : XP} {b : Nat} {scal : Option Word32} (h : Ready s u .M r tk g [])
    (hroom : ((s.freshen u .M tk).unit u).work.tiles < 1023)
    (hsteps : ∀ o ∈ ((s.freshen u .M tk).unit u).work.mops, o.stepsDone = true)
    (hbank : ((s.freshen u .M tk).unit u).bankChk true [(b, scal.isSome)] = .ok) :
    let s0 := s.freshen u .M tk
    s.wholeBank tk g b scal = .next ((s0.setUnit u ((s0.unit u).addMOp
      { id := (s.flight u .M r tk).id, bf16 := false, bank := b, s := 0, mode := 0, shr := false, mr := 0, k := 0, c0 := 1,
        bword := 0
        nc := 0, fade := 0, panel := 0, steps := [], flags := 0, scal := scal, src := 0, round := 0, seen := []
        bus := [], rest := none })).leaves u .M r tk
          { s.flight u .M r tk with wait := .op, wr := [b], rd := if scal.isSome then [b] else [] }) := by
  have hwho : (s.freshen u .M tk).who = (u, .M) := (State.freshen_who s u .M tk).trans h.who
  dsimp only
  rw [State.wholeBank, State.eWord_of_ready h]
  simp only [hwho, hbank, UnitSt.steps_taken hsteps, Nat.not_le.2 hroom]
  rfl

/-- An MMUL or MMULB that passes the checks of R263 takes its first step and joins the tile operations. -/
theorem State.mmul_of_ready {bf16 : Bool} {i bk : Nat} {x : XMM} {d : Desc} {s1 : State} {a e : List Nat}
    (h : Ready s u .M r tk x.grd []) :
    let s0 := s.freshen u .M tk
    let U := s0.unit u
    let t := U.stream i
    let f := s.flight u .M r tk
    let bs := U.bset x.bset
    let k := x.k + 1
    let mr := x.mr + 1
    let c0 := d.c 0
    let shr := decide (x.shr = 1)
    t.mode = .read → t.active = some d → (t.cons = 0 ∨ t.cons = 2) → d.fmt = (if bf16 then 1 else 2) →
    (¬ (shr = true ∧ U.isMember = true) → bs.bf16 = bf16 ∧ bs.bword + bWords bf16 k ≤ 4096) →
    c0 ≤ d.vlen → d.i0 t.pc = 0 → (1 < panels k c0 → c0 % (if bf16 then 8 else 32) = 0) →
    t.pc + mr * panels k c0 * c0 ≤ d.total → (shr = true → U.group ≠ none) →
    U.bankChk true [(bk, decide (x.mode ≠ 1))] = .ok → (∀ o ∈ U.work.mops, o.stepsDone = true) → U.work.tiles < 1023 →
    s0.firstStep u i d c0 (mr * panels k c0 * c0) r = .got s1 a e →
    s.mmul tk i bk x bf16 = .next ((s1.setUnit u ((s1.unit u).addMOp
      { id := f.id, bf16 := bf16, bank := bk, s := i, mode := x.mode, shr := shr, mr := mr, k := k, c0 := c0
        bword := bs.bword, nc := bs.nc, fade := U.fade, panel := 0, steps := [a ++ e], flags := 0, scal := none
        src := if shr then 0 else u + 1, round := 0, seen := [], bus := [], rest := none })).leaves u .M r tk
      { f with wait := .op, wr := [bk], rd := if x.mode = 1 then [] else [bk] }) := by
  dsimp only
  intro hmode hact hcons hfmt hb hvlen hrow hpan htotal hgroup hbank hsteps hroom hstep
  have hwho : (s.freshen u .M tk).who = (u, .M) := (State.freshen_who s u .M tk).trans h.who
  have c1 : ¬ (((s.freshen u .M tk).unit u |>.stream i).cons ≠ 0 ∧
    ((s.freshen u .M tk).unit u |>.stream i).cons ≠ 2) := by tauto
  have hmem : ∀ P : Prop, ((!(decide (x.shr = 1) && ((s.freshen u .M tk).unit u).isMember)) = true ∧ P) →
      ¬ (decide (x.shr = 1) = true ∧ ((s.freshen u .M tk).unit u).isMember = true) := by
    rintro P ⟨hm, -⟩ ⟨h1, h2⟩
    rw [h1, h2] at hm
    cases hm
  have c2 : ¬ (d.fmt ≠ (if bf16 then 1 else 2) ∨
      ((!(decide (x.shr = 1) && ((s.freshen u .M tk).unit u).isMember)) = true ∧
        (((s.freshen u .M tk).unit u).bset x.bset).bf16 ≠ bf16)) := by
    rintro (hne | hne)
    · exact hne hfmt
    · exact hne.2 (hb (hmem _ hne)).1
  have c3 : ¬ (d.vlen < d.c 0 ∨ d.i0 (((s.freshen u .M tk).unit u).stream i).pc ≠ 0 ∨
      (1 < panels (x.k + 1) (d.c 0) ∧ d.c 0 % (if bf16 then 8 else 32) ≠ 0)) := by
    rintro (hlt | hne | ⟨hp, hne⟩)
    · exact absurd hvlen (Nat.not_le.2 hlt)
    · exact hne hrow
    · exact hne (hpan hp)
  have c4 : ¬ (decide (x.shr = 1) = true ∧ ((s.freshen u .M tk).unit u).group.isNone = true) := by
    rintro ⟨hs, hn⟩
    exact hgroup hs (by simpa using hn)
  have c5 : ¬ ((!(decide (x.shr = 1) && ((s.freshen u .M tk).unit u).isMember)) = true ∧
      4096 < (((s.freshen u .M tk).unit u).bset x.bset).bword + bWords bf16 (x.k + 1)) := by
    intro hh
    exact absurd (hb (hmem _ hh)).2 (Nat.not_le.2 hh.2)
  rw [State.mmul, State.eWord_of_ready h]
  simp only [hwho, hmode, hact, if_neg c1, if_neg c2, if_neg c3, Nat.not_lt.2 htotal, if_neg c4, if_neg c5, hbank,
    UnitSt.steps_taken hsteps, Nat.not_le.2 hroom, hstep]
  rfl

end

/-- Settles O41. -/
theorem matrixWordsIssue : Obligations.MatrixWordsIssue := by
  unfold Obligations.MatrixWordsIssue
  refine ⟨?mul, ?whole⟩
  case mul =>
    intro bf16 tk i bk last x s u r d s1 a e h
    dsimp only
    intro hmode hact hcons hfmt hb hvlen hrow hpan htotal hgroup hbank hsteps hroom hstep
    have step := State.mmul_of_ready (bf16 := bf16) (bk := bk) h hmode hact hcons hfmt hb hvlen hrow hpan htotal hgroup hbank
      hsteps
      hroom hstep
    refine ⟨?_, ?_⟩
    · rintro rfl
      exact step
    · rintro rfl
      exact step
  case whole =>
    intro tk d g s u r h
    have hwho : (s.freshen u .M tk).who = (u, .M) := (State.freshen_who s u .M tk).trans h.who
    dsimp only
    refine ⟨fun hroom hsteps => ⟨fun hbank => ?_, ?_⟩, ?_⟩
    · exact State.wholeBank_of_ready (scal := none) h hroom hsteps hbank
    · rintro imm32 rfl hbank
      exact State.wholeBank_of_ready (scal := some (BitVec.ofNat 32 imm32)) h hroom hsteps hbank
    · rintro imm imm32 rfl
      have run : exec (.mbset tk imm imm32) s = _ := (State.eWord_of_ready h _ : execMbset tk imm imm32 s = _)
      rw [run]
      simp only [hwho, UnitSt.applyEff]
      refine ⟨?_, fun hlt => ?_⟩
      · rintro rfl
        rfl
      · rw [if_neg (by omega)]
        rfl

end Sys2Proof.Machine
end


section
/-! O44.  The words that join the copy engine's moves. -/
namespace Sys2Proof.Machine

/-- A word of C that waits for no capability does its part; a recording keeps the capabilities that it used. -/
theorem State.cWord_of_ready {s : State} {u : Nat} {r : PassRec} {tk : Tok} {g : XP} {ks : List Nat} (h : Ready s u .C r tk g
    [])
    (hcaps : (s.unit u).tape.run ≠ 2 → ∀ k ∈ ks, capPending (s.unit u) r k = false)
    (body : State → UnitSt → PassRec → Flight → Res) :
    s.cWord tk g ks body = s.settle u .C r tk ⟨none, ks.map fun k => ((s.unit u).kS k, (s.unit u).kMark k)⟩
      (body s (s.unit u) r (s.flight u .C r tk)) := by
  have hno : ¬ ((s.unit u).tape.run ≠ 2 ∧ (ks.any fun k => capPending (s.unit u) r k) = true) := by
    rintro ⟨hrun, hany⟩
    obtain ⟨k, hk, hpend⟩ := List.any_eq_true.1 hany
    simp [hcaps hrun k hk] at hpend
  rw [State.cWord, State.word_of_ready h, State.freshen_C]
  simp only [h.who, if_neg hno]

/-- Every word of `cForm` that is within its own limits issues the move of its form. -/
theorem exec_of_cForm {i : Instr} {F : CForm} (hF : cForm i = some F) {s : State} {u : Nat} {r : PassRec}
    (h : Ready s u .C r F.tk F.g [])
    (hcaps : (s.unit u).tape.run ≠ 2 → ∀ k ∈ F.ks, capPending (s.unit u) r k = false)
    (hok : F.ok (capAt (s.unit u) r) r.block = true) :
    let cap := capAt (s.unit u) r
    exec i s = s.settle u .C r F.tk ⟨none, F.ks.map fun k => ((s.unit u).kS k, (s.unit u).kMark k)⟩
      (s.moveIssue (s.unit u) r (s.flight u .C r F.tk) (F.src cap r.block) (F.dst cap r.block) (F.scale cap r.block)
        (F.shape r r.block)) := by
  dsimp only
  unfold cForm at hF
  split at hF <;> cases hF
  case h_1 tk d a b c =>
    change execCpy tk d a b c s = _
    rw [execCpy, State.cWord_of_ready h hcaps]
    refine congrArg _ (if_neg ?_)
    simpa using hok
  case h_2 tk d a b c =>
    change execCfill tk d a b c s = _
    rw [execCfill, State.cWord_of_ready h hcaps]
    refine congrArg _ (if_neg ?_)
    simpa using hok
  case h_3 tk d a b c =>
    change execCcvt tk d a b c s = _
    rw [execCcvt, State.cWord_of_ready h hcaps]
    refine congrArg _ (if_neg ?_)
    simpa using hok
  case h_4 tk d a b c =>
    simp only [Bool.and_eq_true, decide_eq_true_eq] at hok
    obtain ⟨⟨⟨hspace, hrows⟩, hoff⟩, hend⟩ := hok
    have hlim : ¬ ((capAt (s.unit u) r 0 d).space ≠ 4 ∨ 64 < r.block.rows ∨ r.block.doff % 512 ≠ 0) := by omega
    change execBload tk d a b c s = _
    rw [execBload, State.cWord_of_ready h hcaps]
    refine congrArg _ ?_
    dsimp only
    rw [if_neg hlim, if_neg (Nat.not_lt.2 hend)]
    rfl

/-- The move that a word of C leaves with the copy engine. -/
def moveOf (f : Flight) (src dst scale : Option CRange) (m : Move) : Move :=
  { m with
    id := f.id
    src := (src.map CRange.place).getD ⟨8, 0, none⟩, dst := (dst.map CRange.place).getD ⟨8, 0, none⟩
    scale := (scale.map CRange.place).getD ⟨8, 0, none⟩
    rcS := (src.map fun q => checkedCap q.c).getD false, rcD := (dst.map fun q => checkedCap q.c).getD false
    rcK := (scale.map fun q => checkedCap q.c).getD false
    overlap := match src, dst with | some a, some b => a.meets b | _, _ => false }

/-- A move whose ranges pass the checks joins the engine, where it has room. -/
theorem State.moveIssue_of_ok {s : State} {u : Nat} {e : Eng} (hwho : s.who = (u, e)) {r : PassRec} {f : Flight}
    {src dst scale : Option CRange} {m : Move} (hchk : s.rangeChk u r (src.toList ++ dst.toList ++ scale.toList) = .ok)
    (hcopies : (s.unit u).work.copies < 1023) (hfree : (s.unit u).inFlight < 32) :
    s.moveIssue (s.unit u) r f src dst scale m =
      .go (s.setUnit u { s.unit u with work := { (s.unit u).work with
        moves := (s.unit u).work.moves ++ [moveOf f src dst scale m], copies := (s.unit u).work.copies + 1 } })
        { f with wait := .op } := by
  have hroom : ¬ (1023 ≤ (s.unit u).work.copies ∨ 32 ≤ (s.unit u).inFlight) := by omega
  unfold State.moveIssue
  simp only [hwho, hchk, if_neg hroom]
  rfl

/-- Settles O44. -/
theorem moveWordsJoinTheCopyEngine : Obligations.MoveWordsJoinTheCopyEngine := by
  unfold Obligations.MoveWordsJoinTheCopyEngine
  intro i F hF s u r h
  dsimp only
  intro hcaps hok hchk hcopies hfree
  refine ⟨moveOf (s.flight u .C r F.tk) (F.src (capAt (s.unit u) r) r.block) (F.dst (capAt (s.unit u) r) r.block)
    (F.scale (capAt (s.unit u) r) r.block) (F.shape r r.block), rfl, rfl, rfl, rfl, rfl, rfl, rfl, rfl, rfl, rfl, rfl, ?_,
      ?_, ?_, ?_, ?_⟩
  · unfold cForm at hF
    split at hF <;> cases hF <;> rfl
  · intro p hp
    simp only [moveOf, hp]
    rfl
  · intro p hp
    simp only [moveOf, hp]
    rfl
  · intro p hp
    simp only [moveOf, hp]
    rfl
  · rw [exec_of_cForm hF h hcaps hok, State.moveIssue_of_ok h.who hchk hcopies hfree]
    rfl

end Sys2Proof.Machine
end


section
/-! O46, its lemmas: a word of C that records nothing; the request of one line that a fill makes. -/
namespace Sys2Proof.Machine

/-! ### Where nothing is recorded -/

/-- What a word would record plays no part where nothing is recorded. -/
theorem State.issue_of_not_recording {s : State} {u : Nat} (hrun : (s.unit u).tape.run ≠ 1) (e : Eng) (r : PassRec) (tk : Tok)
    (f : Flight) (rc : Rec) (dst : Option Nat) : s.issue u e r tk f rc dst = s.issue u e r tk f ⟨none, []⟩ dst := by
  have hrec : ∀ g desc caps, s.recordIssue u e r g desc caps = s := fun g desc caps => if_pos hrun
  simp only [State.issue, hrec]

/-- A word of C that issues where nothing is recorded leaves what its own part has done. -/
theorem State.cWord_go {s s1 : State} {u : Nat} {r : PassRec} {tk : Tok} {g : XP} {ks : List Nat} {f : Flight}
    {body : State → UnitSt → PassRec → Flight → Res} (h : Ready s u .C r tk g [])
    (hcaps : (s.unit u).tape.run ≠ 2 → ∀ k ∈ ks, capPending (s.unit u) r k = false)
    (hbody : body s (s.unit u) r (s.flight u .C r tk) = .go s1 f) (hrun : (s1.unit u).tape.run ≠ 1) :
    s.cWord tk g ks body = .next (s1.leaves u .C r tk f) := by
  rw [State.cWord_of_ready h hcaps, hbody]
  exact congrArg Host.Outcome.next (State.issue_of_not_recording hrun .C r tk f _ none)

/-- A word of C that raises UND. -/
theorem State.cWord_und {s : State} {u : Nat} {r : PassRec} {tk : Tok} {g : XP} {ks : List Nat}
    {body : State → UnitSt → PassRec → Flight → Res} (h : Ready s u .C r tk g [])
    (hcaps : (s.unit u).tape.run ≠ 2 → ∀ k ∈ ks, capPending (s.unit u) r k = false)
    (hbody : body s (s.unit u) r (s.flight u .C r tk) = r.trapHere .und) :
    s.cWord tk g ks body = .next (s.takeTrap u ⟨.und, 5, r.addr, r.hdr⟩) := by
  rw [State.cWord_of_ready h hcaps, hbody]
  rfl

/-! ### Window words -/

@[simp] theorem UnitSt.retire_wins (U : UnitSt) (e : Eng) : (U.retire e).wins = U.wins := by
  obtain ⟨-, -, -, -, h, -⟩ := UnitSt.still_eq_iff.1 (U.retire_still e)
  exact h

/-- Settling a window's words changes no window. -/
@[simp] theorem UnitSt.winSettle_win (U : UnitSt) (w v : Nat) : (U.winSettle w).win v = U.win v :=
  congrArg (SMap.get Win.reset · v) (UnitSt.retire_wins _ .C)


/-- A window word that starts fills joins the engine, where it has room. -/
theorem State.winIssue_fills {s : State} {u : Nat} (hwho : s.who = (u, .C)) {w : Nat} {W : Win} {f : Flight} {fills : Bool}
    (hfills : fills = true) (hcopies : (s.unit u).work.copies < 1023) (hfree : (s.unit u).inFlight < 32) :
    s.winIssue (s.unit u) w W f fills =
      .go (s.setUnit u { (s.unit u).setWin w W with work := { (s.unit u).work with copies := (s.unit u).work.copies + 1 } })
        { f with wait := .op, progress := W.next } := by
  have hroom : ¬ (1023 ≤ (s.unit u).work.copies ∨ 32 ≤ (s.unit u).inFlight) := by omega
  unfold State.winIssue
  rw [if_pos hfills, if_neg hroom, hwho]
  rfl

theorem State.winIssue_noFills {s : State} {u : Nat} (hwho : s.who = (u, .C)) {w : Nat} {W : Win} {f : Flight} {fills : Bool}
    (hfills : fills = false) : s.winIssue (s.unit u) w W f fills = .go (s.setUnit u ((s.unit u).setWin w W)) f := by
  unfold State.winIssue
  rw [if_neg (by simp [hfills]), hwho]

/-! ### Requests of one piece -/

/-- `s'` is `s` up to the hub's access counts. -/
def State.SameButHot (s s' : State) : Prop := ∃ hot, s' = { s with hub := { s.hub with hot := hot } }

theorem State.touch_same (s : State) (k : Nat) : s.SameButHot (s.touch k) := by
  unfold State.touch
  split_ifs
  · exact ⟨_, rfl⟩
  · exact ⟨s.hub.hot, rfl⟩

/-- Accesses are counted in the hub only. -/
theorem State.touchRange_same (s : State) (k n : Nat) : s.SameButHot (s.touchRange k n) := by
  unfold State.touchRange
  split_ifs
  · exact ⟨s.hub.hot, rfl⟩
  · refine foldl_rel (R := State.SameButHot) (fun s => ⟨s.hub.hot, rfl⟩) ?_ (fun s i => s.touch_same _) _ s
    rintro _ _ _ ⟨_, rfl⟩ ⟨hot, rfl⟩
    exact ⟨hot, rfl⟩

theorem State.touchRange_translate (s : State) (k n u space a : Nat) (kind : AccKind) :
    (s.touchRange k n).translate u space a kind = s.translate u space a kind := by
  obtain ⟨hot, h⟩ := s.touchRange_same k n
  rw [h]
  rfl

/-- The pieces of a range within one page. -/
theorem State.pieces_of_page {s : State} {u space a n fuel key : Nat} {kind : AccKind} (hn : n ≠ 0) (hpage : a % 65536 + n ≤
    65536)
    (htr : s.translate u space a kind = .ok key) : s.pieces u space kind a n (fuel + 2) = .inr [(key, n)] := by
  have hlen : min n (65536 - a % 65536) = n := by omega
  unfold State.pieces
  simp only [hn, if_false, hlen, htr, Nat.sub_self]
  unfold State.pieces
  simp

end Sys2Proof.Machine
end


section
/-! O45 and O46, their lemmas: what retirement leaves of the work, and moves of one line. -/
namespace Sys2Proof.Machine

/-! ### What retirement leaves of a unit's work -/

/-- The work of a unit that no retirement changes. -/
def UnitSt.workKept (U : UnitSt) : Nat × List SOp × List WOp × List Move × Nat × Nat × Nat × Nat × List Nat × List Nat :=
  (U.work.nextId, U.work.sops, U.work.wops, U.work.moves, U.work.loads, U.work.stores, U.work.copies, U.work.tiles,
    U.work.nmcs, U.work.nmFail)

theorem UnitSt.workKept_of_work {U V : UnitSt} (h : V.work = U.work) : V.workKept = U.workKept := by
  unfold UnitSt.workKept
  rw [h]

@[simp] theorem UnitSt.fallRegIfDue_work (U : UnitSt) (b : Nat) : (U.fallRegIfDue b).work = U.work := by
  simp only [UnitSt.fallRegIfDue, UnitSt.fallReg, UnitSt.fixDup]
  split_ifs <;> simp

@[simp] theorem UnitSt.csrSet_work (U : UnitSt) (csr v : Nat) : (U.csrSet csr v).work = U.work := by
  unfold UnitSt.csrSet
  split <;> rfl

/-- What an effect changes in the work: the tile operations, and what is still to be made elsewhere. -/
theorem UnitSt.applyEff_workKept (U : UnitSt) (eff : Eff) :
    (U.applyEff eff).workKept = U.workKept ∧ (U.applyEff eff).work.fl = U.work.fl := by
  have of_work : ∀ {V : UnitSt}, V.work = U.work → V.workKept = U.workKept ∧ V.work.fl = U.work.fl :=
    fun h => ⟨UnitSt.workKept_of_work h, congrArg Work.fl h⟩
  cases eff with
  | x | k | p | ps | bank | vstat | balloc | csract | tcont => exact ⟨rfl, rfl⟩
  | sidle i => simp only [UnitSt.applyEff]; split_ifs <;> exact ⟨rfl, rfl⟩
  | bhint k b st => refine of_work ?_; simp only [UnitSt.applyEff, UnitSt.setBank_work]; split_ifs <;> simp
  | bwake k b => refine of_work ?_; simp only [UnitSt.applyEff, UnitSt.setBank_work]; split_ifs <;> simp
  | mset sel v => refine of_work ?_; simp only [UnitSt.applyEff]; split_ifs <;> rfl
  | sdrop bs => exact of_work (foldl_keeps UnitSt.work (fun V b => UnitSt.setBank_work V 1 b _) bs U)
  | csrw n v => exact of_work (UnitSt.csrSet_work U n v)

@[simp] theorem UnitSt.tell_work (U : UnitSt) (f : Flight) : (U.tell f).work = U.work := by
  unfold UnitSt.tell
  split_ifs <;> rfl

@[simp] theorem UnitSt.postKnow_work (U : UnitSt) (e p : Eng) : (U.postKnow e p).work = U.work := by
  unfold UnitSt.postKnow
  dsimp only
  split_ifs <;> rfl

@[simp] theorem UnitSt.pushPost_work (U : UnitSt) (f : Flight) : (U.pushPost f).work = U.work := by
  unfold UnitSt.pushPost
  cases f.post with
  | none => rfl
  | some p =>
    refine Eq.trans ?_ (UnitSt.postKnow_work U f.eng p)
    dsimp only
    split_ifs <;> rfl

theorem UnitSt.applyHint_work (U : UnitSt) (b : Nat) : (U.applyHint b).work = U.work := UnitSt.setBank_work U 0 b _

/-- A word that retires leaves the list of flights, and changes none that stays. -/
theorem UnitSt.retireFlight_workKept (U : UnitSt) (f : Flight) :
    (U.retireFlight f).workKept = U.workKept ∧ (U.retireFlight f).work.fl.Sublist U.work.fl := by
  have hints : ∀ (l : List Nat) (V : UnitSt), (l.foldl UnitSt.applyHint V).work = V.work := fun l V =>
    foldl_keeps UnitSt.work UnitSt.applyHint_work l V
  unfold UnitSt.retireFlight
  refine ⟨?_, ?_⟩
  · rw [UnitSt.workKept_of_work ((UnitSt.pushPost_work _ f).trans ((UnitSt.tell_work _ f).trans (hints _ _))),
      foldl_keeps UnitSt.workKept fun V e => (UnitSt.applyEff_workKept V e).1]
    rfl
  · rw [UnitSt.pushPost_work, UnitSt.tell_work, hints,
      foldl_keeps (fun V : UnitSt => V.work.fl) fun V e => (UnitSt.applyEff_workKept V e).2]
    exact List.filter_sublist

@[simp] theorem UnitSt.retire_workKept (U : UnitSt) (e : Eng) : (U.retire e).workKept = U.workKept :=
  UnitSt.retire_keeps UnitSt.workKept (fun U f => (UnitSt.retireFlight_workKept U f).1) U e

theorem UnitSt.retire_fl (U : UnitSt) (e : Eng) : (U.retire e).work.fl.Sublist U.work.fl := by
  unfold UnitSt.retire
  generalize U.work.fl.length = n
  induction n generalizing U with
  | zero => exact List.Sublist.refl _
  | succ n ih =>
    unfold UnitSt.drain
    cases U.headOf e with
    | none => exact List.Sublist.refl _
    | some f =>
      dsimp only
      split_ifs
      · exact (ih _).trans (UnitSt.retireFlight_workKept U f).2
      · exact List.Sublist.refl _

theorem UnitSt.retire_moves (U : UnitSt) (e : Eng) : (U.retire e).work.moves = U.work.moves := by
  have h := U.retire_workKept e
  simp only [UnitSt.workKept, Prod.mk.injEq] at h
  tauto

theorem UnitSt.retire_copies (U : UnitSt) (e : Eng) : (U.retire e).work.copies = U.work.copies := by
  have h := U.retire_workKept e
  simp only [UnitSt.workKept, Prod.mk.injEq] at h
  tauto

/-- A word that has finished waits no more, whatever retires with it. -/
theorem UnitSt.finish_retire_done {U : UnitSt} {id : Nat} {effs : List Eff} {e : Eng} {f : Flight}
    (hf : f ∈ ((U.finish id effs).retire e).work.fl) (hid : f.id = id) : f.wait = .done := by
  obtain ⟨g, -, rfl⟩ := List.mem_map.1 ((UnitSt.retire_fl _ e).subset hf)
  by_cases hg : g.id = id
  · rw [if_pos hg]
  · rw [if_neg hg] at hid
    exact absurd hid hg

/-! ### Moves of one line -/

/-- A plain copy or a fill of one row that lies in one line of its destination, none of it performed,
  that does not meet itself. -/
structure Move.OneLine (m : Move) : Prop where
  kind : m.kind = 0 ∨ m.kind = 2
  rows : m.rows = 1
  align : m.dst.addr % 64 = 0
  nonempty : 1 ≤ m.rowb
  fits : m.rowb ≤ 64
  fresh : m.done = 0
  apart : m.overlap = false

namespace Move.OneLine
variable {m : Move} (h : m.OneLine)
include h

theorem dstRow : m.dstRow = m.rowb := by
  obtain hk | hk := h.kind <;> simp [Move.dstRow, hk]

theorem total : m.total = 1 := by
  have hk : m.kind ≠ 3 := by rcases h.kind with hk | hk <;> simp [hk]
  have ha := h.align
  have h1 := h.nonempty
  have h2 := h.fits
  have hcount : lineCount m.dst.addr m.rowb = 1 := by
    unfold lineCount
    split_ifs <;> omega
  simp [Move.total, hk, h.rows, h.dstRow, hcount]

theorem find : m.find 0 0 m.rows = some (0, 0, m.rowb) := by
  have ha := h.align
  have h1 := h.nonempty
  have h2 := h.fits
  have hcount : ¬ lineCount m.dst.addr m.rowb ≤ 0 := by
    unfold lineCount
    split_ifs <;> omega
  rw [h.rows]
  simp only [Move.find, h.dstRow, Nat.zero_mul, Nat.add_zero, if_neg hcount, if_true, Nat.sub_zero]
  rw [Nat.min_eq_left (by omega)]

theorem reads_copy (hk : m.kind = 0) : m.reads 0 = [(false, 0, m.rowb)] := by
  simp [Move.reads, hk, h.find]

theorem reads_fill (hk : m.kind = 2) : m.reads 0 = [] := by
  simp [Move.reads, hk, h.find]

theorem result_copy (hk : m.kind = 0) (bs : List Byte) : m.result 0 [bs] = ([(false, 0, bs)], 0) := by
  simp [Move.result, hk, h.find]

theorem result_fill (hk : m.kind = 2) (l : List (List Byte)) :
    m.result 0 l = ([(false, 0, (List.range m.rowb).map fun j => BitVec.ofNat 8 (m.pat / 2 ^ (8 * (j % 8))))], 0) := by
  simp [Move.result, hk, h.find]

end Move.OneLine

/-- Bytes within one page of their destination are written there. -/
theorem Move.put_one {m : Move} {s : State} {u key : Nat} {bs : List Byte} (hbs : bs ≠ []) (hfit : m.dst.addr < 2 ^ 64)
    (hpage : m.dst.addr % 65536 + bs.length ≤ 65536) (htr : s.translate u m.dst.space m.dst.addr .write = .ok key) :
    m.where_ s u [(false, 0, bs)] = .inr [(key, bs.length)] ∧
      m.put u false (false, false) [(false, 0, bs)] s = .inr (s.store m.rcD u 0 key bs false) := by
  have hlen : bs.length ≠ 0 := by simpa using hbs
  have hpieces : s.pieces u m.dst.space .write ((m.dst.addr + 0) % 2 ^ 64) bs.length 70000 = .inr [(key, bs.length)] := by
    rw [Nat.add_zero, Nat.mod_eq_of_lt hfit]
    exact State.pieces_of_page hlen hpage htr
  constructor
  · simp only [Move.where_, List.foldr_cons, List.foldr_nil, Bool.false_eq_true, if_false, hpieces]
    rfl
  · simp only [Move.put, Bool.false_eq_true, if_false, State.cWrite, hpieces, State.putPieces, List.take_length]

/-- A move with no check point issues as it is. -/
theorem Move.issueTo_unchecked {m : Move} (h : m.checked = false) (s : State) (u k n : Nat) : m.issueTo u k n s = .inr (s,
    m) := by
  cases n with
  | zero => rfl
  | succ n => exact if_pos (.inl (by simp [h]))

/-- The one request of a move of one line, whose bytes it has. -/
theorem Move.OneLine.request_of_bytes {m : Move} (h : m.OneLine) {s s1 : State} {u key : Nat} {l : List (List Byte)} {bs :
    List Byte}
    (hfetch : m.fetch u (m.reads 0) s = .inr (s1, l)) (hresult : m.result 0 l = ([(false, 0, bs)],
      0)) (hlen : bs.length = m.rowb)
    (hfit : m.dst.addr < 2 ^ 64) (htr : s1.translate u m.dst.space m.dst.addr .write = .ok key) :
    m.request s u 0 false = .inr (s1.store m.rcD u 0 key bs false, 0) := by
  have ha := h.align
  have h1 := h.nonempty
  have h2 := h.fits
  obtain ⟨hwhere, hput⟩ := Move.put_one (m := m) (bs := bs) (by intro hnil; simp [hnil] at hlen; omega) hfit (by omega) htr
  simp only [Move.request, hfetch, hresult, hwhere, hput]

/-- Its request performed, the move is finished. -/
theorem Move.OneLine.finish_of_request {m m0 : Move} (h : m.OneLine) (h0 : m0.OneLine) {s s0 s1 : State} {u : Nat}
    (hissue : m.issueTo u 0 1 s = .inr (s0, m0)) (hreq : m0.request s0 u 0 false = .inr (s1, 0)) :
    ∃ m1, m.finish s u 1 = .inr (s1, m1) ∧ m1.id = m0.id ∧ m1.dst = m0.dst := by
  have hready : m0.ready s0 u = m0 := if_neg (by simp [h0.apart])
  have hleft : ¬ m.total ≤ 0 := by rw [h.total]; decide
  refine ⟨{ m0.note 0 with flags := m0.flags ||| 0 }, ?_, rfl, rfl⟩
  simp only [Move.finish, if_neg hleft, h.fresh, Nat.zero_add, hissue, h0.fresh, Move.perform, hready, hreq]

end Sys2Proof.Machine
end


section
/-! O46.  Windows. -/
namespace Sys2Proof.Machine

/-! ### The fill of a row of one line -/

/-- A fill of which no request has been performed. -/
theorem Win.fill_of_untouched {W : Win} {i : Nat} (h : ∀ k ∈ W.parts, k / 1024 ≠ i) :
    W.fill i = { Move.blank with
      src := ⟨W.src.space, (W.src.base + W.soff + i * W.sstr) % 2 ^ 64, none⟩
      dst := ⟨W.ring.space, W.ring.base + W.roff + i % W.depth * W.rowb, none⟩, rowb := W.rowb } := by
  have hnone : (W.parts.filter fun k => decide (k / 1024 = i)) = [] :=
    List.filter_eq_nil_iff.2 fun k hk => by simpa using h k hk
  rw [Win.fill, hnone]
  rfl

/-- Such a fill of a row of 64 bytes is a move of one line. -/
theorem Win.fill_oneLine {W : Win} {i : Nat} (h : ∀ k ∈ W.parts, k / 1024 ≠ i) (hrow : W.rowb = 64)
    (halign : (W.ring.base + W.roff + i % W.depth * 64) % 64 = 0) : (W.fill i).OneLine := by
  rw [Win.fill_of_untouched h, hrow]
  exact ⟨.inl rfl, rfl, halign, Nat.le_add_left 1 63, le_rfl, rfl, rfl⟩

/-- The bytes of a range within one page that holds no poison. -/
theorem State.cRead_of_page {s : State} {u key n : Nat} {p : Place} (hn : n ≠ 0) (hfit : p.addr < 2 ^ 64)
    (hpage : p.addr % 65536 + n ≤ 65536) (htr : s.translate u p.space p.addr .read = .ok key)
    (hclean : s.mem.poisonFor (.unit u) key n = false) :
    s.cRead u p none 0 n = .inr (s.touchRange key n, s.mem.read (.unit u) key n) := by
  have hpieces : s.pieces u p.space .read ((p.addr + 0) % 2 ^ 64) n 70000 = .inr [(key, n)] := by
    rw [Nat.add_zero, Nat.mod_eq_of_lt hfit]
    exact State.pieces_of_page hn hpage htr
  have hpoison : s.poisonAt u key n = none := by simp [State.poisonAt, hclean]
  simp only [State.cRead, hpieces, List.findSome?_cons, List.findSome?_nil, State.piecePoison, hpoison, State.pieceBytes,
    List.foldl_cons, List.foldl_nil, List.map_cons, List.map_nil, List.flatten_cons, List.flatten_nil, List.append_nil]

/-- A plain copy of one line, not race-checked, writes the bytes of its source. -/
theorem Move.OneLine.finish_copy {m : Move} (h : m.OneLine) (hk : m.kind = 0) (hchk : m.checked = false) (hsnap : m.snap = none)
    {s : State} {u k1 k2 : Nat} (hsfit : m.src.addr < 2 ^ 64) (hspage : m.src.addr % 65536 + m.rowb ≤ 65536)
    (hsrc : s.translate u m.src.space m.src.addr .read = .ok k1) (hdfit : m.dst.addr < 2 ^ 64)
    (hdst : s.translate u m.dst.space m.dst.addr .write = .ok k2) (hclean : s.mem.poisonFor (.unit u) k1 m.rowb = false) :
    ∃ m1, m.finish s u 1 = .inr ((s.touchRange k1 m.rowb).store m.rcD u 0 k2 (s.mem.read (.unit u) k1 m.rowb) false, m1) ∧
      m1.id = m.id ∧ m1.dst = m.dst := by
  have hrow : m.rowb ≠ 0 := by have := h.nonempty; omega
  have hread := State.cRead_of_page hrow hsfit hspage hsrc hclean
  have hfetch : m.fetch u (m.reads 0) s = .inr (s.touchRange k1 m.rowb, [s.mem.read (.unit u) k1 m.rowb]) := by
    simp only [h.reads_copy hk, Move.fetch, Bool.false_eq_true, if_false, hsnap, hread]
  exact h.finish_of_request h (Move.issueTo_unchecked hchk s u 0 1)
    (h.request_of_bytes hfetch (h.result_copy hk _) (by simp [Mem.read]) hdfit ((State.touchRange_translate ..).trans hdst))

/-- The fill of a row of one line copies it. -/
theorem Win.finish_fill {s : State} {u k1 k2 : Nat} {W : Win} (hparts : ∀ k ∈ W.parts, k / 1024 ≠ W.filled) (hrow : W.rowb = 64)
    (halign : (W.ring.base + W.roff + W.filled % W.depth * 64) % 64 = 0)
    (hfit : W.ring.base + W.roff + W.filled % W.depth * 64 + 64 ≤ 2 ^ 64)
    (hpage : (W.src.base + W.soff + W.filled * W.sstr) % 2 ^ 64 % 65536 + 64 ≤ 65536)
    (hsrc : s.translate u W.src.space ((W.src.base + W.soff + W.filled * W.sstr) % 2 ^ 64) .read = .ok k1)
    (hdst : s.translate u W.ring.space (W.ring.base + W.roff + W.filled % W.depth * 64) .write = .ok k2)
    (hclean : s.mem.poisonFor (.unit u) k1 64 = false) :
    ∃ m1, (W.fill W.filled).finish s u (W.fill W.filled).total =
      .inr ((s.touchRange k1 64).store false u 0 k2 (s.mem.read (.unit u) k1 64) false, m1) ∧
      m1.id = (W.fill W.filled).id ∧ m1.dst = (W.fill W.filled).dst := by
  have hone := Win.fill_oneLine hparts hrow halign
  rw [hone.total]
  have hm := Win.fill_of_untouched hparts
  rw [hrow] at hm
  have := Move.OneLine.finish_copy (s := s) (u := u) (k1 := k1) (k2 := k2) hone
  rw [hm] at this ⊢
  exact this rfl rfl rfl (Nat.mod_lt _ (by norm_num)) hpage hsrc (by dsimp only; omega) hdst hclean

/-- A window's words settle where the writes of its fills are performed at the ring's scope. -/
def State.settleWin (s : State) (u w scope : Nat) : State :=
  if s.mem.performedBy u scope then s.setUnit u ((s.unit u).winSettle w) else s

@[simp] theorem State.settleWin_mem (s : State) (u w scope : Nat) : (s.settleWin u w scope).mem = s.mem := by
  unfold State.settleWin
  split_ifs <;> rfl

theorem State.settleWin_unit (s : State) (u w scope v : Nat) : ((s.settleWin u w scope).unit u).win v = (s.unit u).win v := by
  unfold State.settleWin
  split_ifs <;> simp

/-- The next fill of a window is made, and the count of filled rows goes up. -/
theorem State.windowFill_of_finish {s s1 : State} {u w : Nat} {m1 : Move} (hact : ((s.unit u).win w).act = true)
    (hlt : ((s.unit u).win w).filled < ((s.unit u).win w).next) (hhead : s.replayHead u ((s.unit u).winWord w) = true)
    (hmay : (s.unit u).mayFill ((s.unit u).win w) ((s.unit u).win w).filled = true)
    (hfin : (((s.unit u).win w).fill ((s.unit u).win w).filled).finish s u
      (((s.unit u).win w).fill ((s.unit u).win w).filled).total = .inr (s1, m1)) :
    let W := (s.unit u).win w
    s.windowFill u w = ((s1.setUnit u ((s1.unit u).setWin w { W with
      filled := W.filled + 1, parts := W.parts.filter fun k => decide (k / 1024 ≠ W.filled) })).quitReplay u
        ((s.unit u).winWord w)).settleWin u w (copyScope W.ring.space) := by
  simp only [State.windowFill, hact, Nat.not_le.2 hlt, hhead, hmay, hfin]
  rfl

/-- The event of a window, on a cluster whose clock runs. -/
theorem exec_windowFill {s : State} {u w : Nat} (hu : u < 768) (hhalt : s.halted u = false) (hstands : s.stands u = false) :
    exec (.windowFillPerformed u w) s = .next (s.windowFill u w) := by
  change clockEvent u s (s.windowFill u w) = _
  rw [clockEvent, hstands]
  exact unitEvent_of_live hu hhalt

/-- Settles O46. -/
theorem windowWordsActAndFill : Obligations.WindowWordsActAndFill := by
  unfold Obligations.WindowWordsActAndFill
  refine ⟨?words, ?fills⟩
  case words =>
    intro tk d s u r g h hrun
    have run2 : (s.unit u).tape.run ≠ 2 → ∀ k ∈ ([] : List Nat), capPending (s.unit u) r k = false := fun _ k hk => by cases hk
    have run1 : ∀ U : UnitSt, U.tape = (s.unit u).tape → ((s.setUnit u U).unit u).tape.run ≠ 1 := by
      intro U hU
      rw [State.unit_setUnit_same, hU, hrun]
      decide
    dsimp only
    refine ⟨?defn, ?adv, ?relIdle, ?rel⟩
    case defn =>
      rintro a b c rfl hka hkr
      have hcaps : (s.unit u).tape.run ≠ 2 → ∀ k ∈ [a, c.ks], capPending (s.unit u) r k = false := by
        simp [hka, hkr]
      have run : exec (.wdef tk d a b c) s = s.cWord tk c.grd [a, c.ks] _ := (rfl : execWdef tk d a b c s = _)
      rw [run]
      refine ⟨fun hact => ?_, ?_⟩
      · exact State.cWord_und h hcaps (if_pos hact)
      · intro hact hts htr hsp hrow hstr hle hn hrsp hoff h2 h4096 hlen hchk hcopies hfree
        have hlim : ¬ (((capAt (s.unit u) r 0 a).space ≠ 0 ∧ (capAt (s.unit u) r 0 a).space ≠ 5 ∧
          (capAt (s.unit u) r 0 a).space ≠ 7)
            ∨ r.block.row % 64 ≠ 0 ∨ r.block.sstr % 64 ≠ 0 ∨ r.block.sstr < r.block.row ∨ r.block.dstr = 0
            ∨ ((capAt (s.unit u) r 1 c.ks).space ≠ 2 ∧ (capAt (s.unit u) r 1 c.ks).space ≠ 3 ∧
              (capAt (s.unit u) r 1 c.ks).space ≠ 7)
            ∨ r.block.doff % 64 ≠ 0 ∨ r.block.rows < 2 ∨ 4096 < r.block.rows
            ∨ (capAt (s.unit u) r 1 c.ks).len < r.block.rows * r.block.row) := by omega
        refine State.cWord_go h hcaps ?_ (run1 _ ?_)
        · dsimp only
          rw [if_neg (by simp [hact]), if_neg hlim]
          simp only [h.who, hchk]
          exact State.winIssue_fills h.who rfl hcopies hfree
        · rfl
    case adv =>
      intro a imm
      have run : exec (.wadv tk d a imm g) s = s.cWord tk g [] _ := (rfl : execWadv tk d a imm g s = _)
      rw [run]
      refine ⟨fun hact => ?_, fun hact hn => ⟨fun hle => ?_, fun hlt hcopies hfree => ?_⟩⟩
      · refine State.cWord_und h run2 (if_pos (.inr ?_))
        simp [hact]
      · have hgo : ¬ (4096 < (r.vals.headD 0).toNat + imm ∨ (!((s.unit u).win d).act) = true) := by
          rintro (hlt | hno)
          · exact absurd hn (Nat.not_le.2 hlt)
          · simp [hact] at hno
        refine State.cWord_go h run2 ?_ (run1 _ ?_)
        · dsimp only
          rw [if_neg hgo]
          exact State.winIssue_noFills h.who (decide_eq_false (Nat.not_lt.2 hle))
        · rfl
      · have hgo : ¬ (4096 < (r.vals.headD 0).toNat + imm ∨ (!((s.unit u).win d).act) = true) := by
          rintro (hlt | hno)
          · exact absurd hn (Nat.not_le.2 hlt)
          · simp [hact] at hno
        refine State.cWord_go h run2 ?_ (run1 _ ?_)
        · dsimp only
          rw [if_neg hgo]
          exact State.winIssue_fills h.who (decide_eq_true hlt) hcopies hfree
        · rfl
    case relIdle =>
      intro hact
      change execWrel tk d g s = _
      rw [execWrel]
      refine State.cWord_go h run2 (if_pos ?_) ?_
      · simp [hact]
      · rw [hrun]; decide
    case rel =>
      intro hact hle hno
      change execWrel tk d g s = _
      rw [execWrel]
      have hgo : ¬ (((s.unit u).win d).filled < ((s.unit u).win d).next
          ∨ ((s.unit u).work.fl.any fun q => decide (winOf q.hdr = some d)) = true) := by
        rintro (hlt | hany)
        · omega
        · obtain ⟨q, hq, hw⟩ := List.any_eq_true.1 hany
          exact hno q hq (by simpa using hw)
      refine State.cWord_go h run2 ?_ (run1 _ ?_)
      · dsimp only
        rw [if_neg (by simp [hact]), if_neg hgo, h.who]
      · rfl
  case fills =>
    intro s u w hu hhalt hstands
    dsimp only
    intro hact
    refine ⟨?_, ?_⟩
    · intro k1 k2 hlt hparts hmay hhead hrow ha2 hfit ha1 htr1 htr2 hclean
      obtain ⟨m1, hfin, hid, hdst⟩ := Win.finish_fill (s := s) (u := u) hparts hrow ha2 hfit ha1 htr1 htr2 hclean
      have hfill := State.windowFill_of_finish hact hlt hhead hmay hfin
      refine ⟨_, (exec_windowFill hu hhalt hstands).trans (congrArg Host.Outcome.next hfill), ?_, ?_, ?_⟩
      · rw [State.settleWin_unit]
        simp [UnitSt.win, UnitSt.setWin]
      · intro j hj
        rw [State.settleWin_mem, State.quitReplay_mem, State.setUnit_mem, State.store_mem,
          Mem.byte_writeTag_self _ _ _ _ _ _ (by simp [Mem.read]; omega)]
        simp [Mem.read, hj]
      · intro v a ha
        rw [State.settleWin_mem, State.quitReplay_mem, State.setUnit_mem, State.store_mem,
          Mem.byte_writeTag_outside _ _ _ _ _ _ _ (by simpa [Mem.read] using ha), State.touchRange_mem]
    · intro hle hperf
      refine (exec_windowFill hu hhalt hstands).trans (congrArg Host.Outcome.next ?_)
      simp only [State.windowFill, hact, hle, hperf]
      rfl

end Sys2Proof.Machine
end


section
/-! O45.  Moves that are finished, and fills. -/
namespace Sys2Proof.Machine

/-- The event of a move, on a cluster whose clock runs. -/
theorem exec_copyDone {s : State} {u id : Nat} (hu : u < 768) (hhalt : s.halted u = false) (hstands : s.stands u = false) :
    exec (.copyMovePerformed u id) s = .next (s.copyDone u id) := by
  change clockEvent u s (s.copyDone u id) = _
  rw [clockEvent, hstands]
  exact unitEvent_of_live hu hhalt

/-- A move with no request left. -/
theorem Move.finish_of_total_le {m : Move} (h : m.total ≤ m.done) (s : State) (u : Nat) : m.finish s u (m.total - m.done) =
    .inr (s, m) := by
  rw [Nat.sub_eq_zero_of_le h]
  rfl

/-- What is left of the unit once a move is performed. -/
def UnitSt.moveDone (V : UnitSt) (id fl : Nat) : UnitSt :=
  let rest : Work := { V.work with moves := V.work.moves.filter fun x => x.id ≠ id, copies := V.work.copies - 1 }
  (({ V with work := rest } : UnitSt).finish id (flagEff fl)).retire .C

/-- The end of a move whose requests are all made. -/
theorem State.copyDone_of_finish {s s1 : State} {u id : Nat} {m m1 : Move}
    (hfind : (s.unit u).work.moves.find? (fun m => m.id = id) = some m) (hhead : s.replayHead u id = true)
    (hfin : m.finish s u (m.total - m.done) = .inr (s1, m1)) :
    let s2 := s1.quitReplay u id
    let V := (s2.unit u).setMove m1
    s.copyDone u id = s2.setUnit u (if s2.mem.performedBy u (copyScope m.dst.space) then V.moveDone id m1.flags else V) := by
  simp only [State.copyDone, hfind, hhead, hfin, Bool.not_true, Bool.false_eq_true, if_false]
  by_cases hperf : (s1.quitReplay u id).mem.performedBy u (copyScope m.dst.space) = true
  · simp only [hperf]
    rfl
  · simp only [hperf]
    rfl

/-- A fill into memory that is not race-checked issues without a check: it reads nothing. -/
theorem Move.OneLine.issue_fill {m : Move} (h : m.OneLine) (hk : m.kind = 2) (hrc : m.rcD = false) (s : State) (u : Nat) :
    ∃ n, m.issueTo u 0 1 s = .inr (s, { m with issued := n }) := by
  by_cases hgo : (!m.checked) = true ∨ 0 < m.issued
  · exact ⟨m.issued, if_pos hgo⟩
  · have h0 : m.issued = 0 := by omega
    have hreads : m.checkedReads s u 0 = [] := by simp [Move.checkedReads, h.reads_fill hk]
    have hwrites : m.checkedWrites s u 0 = [] := by simp [Move.checkedWrites, h.result_fill hk, hrc]
    have hrace : ∀ w, s.raceAll u .C w (some m.id) [] = .inl s := fun w => rfl
    have hcheck : m.check s u 0 = .inr s := by simp only [Move.check, hreads, hwrites, hrace]
    refine ⟨1, ?_⟩
    rw [h0] at hgo
    simp only [Move.issueTo, h0, if_neg hgo, hcheck]

/-- A fill of one row in one line writes its pattern over and over. -/
theorem Move.OneLine.finish_fill {m : Move} (h : m.OneLine) (hk : m.kind = 2) (hrc : m.rcD = false) {s : State} {u k : Nat}
    (hfit : m.dst.addr < 2 ^ 64) (hdst : s.translate u m.dst.space m.dst.addr .write = .ok k) :
    ∃ m1, m.finish s u 1 = .inr (s.store false u 0 k
      ((List.range m.rowb).map fun j => BitVec.ofNat 8 (m.pat / 2 ^ (8 * (j % 8)))) false, m1) := by
  obtain ⟨n, hissue⟩ := h.issue_fill hk hrc s u
  have h0 : ({ m with issued := n } : Move).OneLine := { h with }
  obtain ⟨m1, hfin, -⟩ := h.finish_of_request h0 hissue (h0.request_of_bytes (s := s) (u := u) (key := k) (l := []) (by
    rw [h0.reads_fill hk]; rfl) (h0.result_fill hk []) (by simp) hfit hdst)
  refine ⟨m1, hfin.trans ?_⟩
  rw [show ({ m with issued := n } : Move).rcD = false from hrc]

/-- Settles O45. -/
theorem finishedMovesAndFills : Obligations.FinishedMovesAndFills := by
  unfold Obligations.FinishedMovesAndFills
  refine ⟨?done, ?fill⟩
  case done =>
    intro s u id m hu hhalt hstands hfind htotal hhead hperf
    have step := State.copyDone_of_finish hfind hhead (Move.finish_of_total_le htotal s u)
    dsimp only at step
    rw [State.quitReplay_mem, hperf, if_pos rfl] at step
    refine ⟨_, (exec_copyDone hu hhalt hstands).trans (congrArg Host.Outcome.next step), ?_, ?_, ?_, ?_⟩
    · intro x hx
      rw [State.unit_setUnit_same, UnitSt.moveDone, UnitSt.retire_moves] at hx
      simpa using (List.mem_filter.1 hx).2
    · rw [State.unit_setUnit_same, UnitSt.moveDone, UnitSt.retire_copies]
      simp [UnitSt.finish, UnitSt.setMove]
    · simp
    · intro f hf hid
      rw [State.unit_setUnit_same] at hf
      exact UnitSt.finish_retire_done hf hid
  case fill =>
    intro s u id m hu hhalt hstands hfind hk hrows hdone hover hrc hhead hspace halign h1 h64 hend
    have hone : m.OneLine := ⟨.inr hk, hrows, halign, h1, h64, hdone, hover⟩
    have htr : s.translate u m.dst.space m.dst.addr .write = .ok (keyOf (16 + u) m.dst.addr) := by
      simp [State.translate, hspace, localKey, regUsp]
    obtain ⟨m1, hfin⟩ := hone.finish_fill hk hrc (by omega) htr
    have step := State.copyDone_of_finish hfind hhead (by rw [hone.total, hdone]; exact hfin)
    refine ⟨_, (exec_copyDone hu hhalt hstands).trans (congrArg Host.Outcome.next step), ?_, ?_⟩
    · intro j hj
      rw [State.setUnit_mem, State.quitReplay_mem, State.store_mem,
        Mem.byte_writeTag_self _ _ _ _ _ _ (by simp [keyOf]; omega)]
      rw [show keyOf (16 + u) (m.dst.addr + j) - keyOf (16 + u) m.dst.addr = j by simp only [keyOf]; omega]
      simp [hj]
    · intro v a ha
      rw [State.setUnit_mem, State.quitReplay_mem, State.store_mem,
        Mem.byte_writeTag_outside _ _ _ _ _ _ _ (by simpa [keyOf, Nat.add_assoc] using ha)]

end Sys2Proof.Machine
end


section
/-! O48.  The Dovetail words. -/
namespace Sys2Proof.Machine

/-- What keeps a state up to its access counts keeps the acting engine. -/
theorem State.cRead_who {s s1 : State} {u off n : Nat} {p : Place} {old : Option Snap} {bs : List Byte}
    (h : s.cRead u p old off n = .inr (s1, bs)) : s1.who = s.who := by
  unfold State.cRead at h
  split at h
  · cases h
  · split at h
    · cases h
    · cases h
      refine foldl_keeps State.who (fun s q => ?_) _ s
      obtain ⟨hot, hs⟩ := s.touchRange_same q.1 q.2
      rw [hs]

@[simp] theorem UnitSt.retire_dove (U : UnitSt) (e : Eng) : (U.retire e).dove = U.dove := by
  obtain ⟨-, -, -, -, -, -, h, -⟩ := UnitSt.still_eq_iff.1 (U.retire_still e)
  exact h

section
variable {tk : Tok} {s : State} {u : Nat} {r : PassRec}

/-- A word of C on its own state: what its part gives is what it leaves. -/
theorem State.word_C_go {g : XP} {f : Flight} {s1 : State} {rc : State → PassRec → Rec}
    {body : State → UnitSt → PassRec → Flight → Res} (h : Ready s u .C r tk g []) (hrun : (s1.unit u).tape.run ≠ 1)
    (hbody : body s (s.unit u) r (s.flight u .C r tk) = .go s1 f) :
    State.word s tk g [] rc body = .next (s1.leaves u .C r tk f) := by
  rw [State.word_of_ready h, State.freshen_C, hbody]
  exact congrArg Host.Outcome.next (State.issue_of_not_recording hrun .C r tk f _ none)

/-- A DLOAD that waits for no capability. -/
theorem exec_dload {a b ks : Nat} (h : Ready s u .C r tk none []) (hka : capPending (s.unit u) r a = false)
    (hks : ∀ i, i < 4 → capPending (s.unit u) r (doveK ks i) = false) :
    exec (.dload tk a b ks) s =
      s.settle u .C r tk (doveRec a ks s r) (s.doveLoad (s.unit u) r (s.flight u .C r tk) a ks) := by
  have hno : ((a :: (List.range 4).map (doveK ks)).any fun k => capPending (s.unit u) r k) = false := by
    rw [List.any_eq_false]
    intro k hk
    obtain rfl | hk := List.mem_cons.1 hk
    · simp [hka]
    · obtain ⟨i, hi, rfl⟩ := List.mem_map.1 hk
      simp [hks i (List.mem_range.1 hi)]
  change execDload tk a b ks s = _
  rw [execDload, State.word_of_ready h, State.freshen_C]
  simp only [hno, Bool.false_eq_true, and_false, if_false]

/-- A DLOAD of an image that passes its checks starts to load the context. -/
theorem State.doveLoad_of_checks {f : Flight} {a ks : Nat} {s1 s2 : State} {h body : List Byte} (hwho : s.who = (u, .C)) :
    let U := s.unit u
    let c := capAt U r 0 a
    let o := (r.vals.headD 0).toNat
    let p : Place := ⟨c.space, (c.base + o) % 2 ^ 64, none⟩
    let n := 16 * byteField h 0 2
    let es := doveEntries (byteField h 0 2) body
    U.id.dove = true → U.dove.status ≠ 2 → U.dove.loading = none → U.dove.busy = false →
    s.rangeChk u r [⟨a, c, o, 16, permR⟩] = .ok → s.cRead u p none 0 16 = .inr (s1, h) →
    CRange.capBad ⟨a, c, o + 16, n, permR⟩ r = none → o % 64 = 0 → doveHeaderOk h = true →
    s1.rangeChk u r [⟨a, c, o + 16, n, permR⟩] = .ok → s1.cRead u p none 16 n = .inr (s2, body) →
    doveEntriesOk (byteField h 2 1) (byteField h 0 2) 0 body = true → doveBadRange U r ks es = none →
    s.doveLoad U r f a ks = .go (s2.setUnit u { s2.unit u with dove := { (s2.unit u).dove with
      loading := some (es, (List.range (byteField h 2 1)).map (fun i => capAt U r (i + 1) (doveK ks i)), byteField h 4 4,
        byteField h 8 2) } }) { f with wait := .op } := by
  dsimp only
  intro hdove hst hload hbusy hchk hread hbad halign hhdr hchk2 hread2 hok hrange
  have hwho2 : s2.who = (u, .C) := (State.cRead_who hread2).trans ((State.cRead_who hread).trans hwho)
  simp only [State.doveLoad, hwho, hdove, hst, hload, hbusy, hchk, hread, hbad, halign, hhdr, hchk2, hread2, State.doveTake,
    hok,
    hrange, hwho2]
  rfl

/-- The context of a DSTART: fresh, and running unless a link is busy or the time lock is lost. -/
def State.startedDove (s : State) (u : Nat) (r : PassRec) : Dctx :=
  let D := (s.unit u).dove
  let D1 := D.fresh (max (r.vals.headD 0).toNat s.time.toNat)
  if s.linkBusy u D then D1.endRun 9 0 s.time.toNat else if !s.hub.lock then D1.endRun 10 0 s.time.toNat else D1

theorem State.startedDove_eq (s : State) (u : Nat) (r : PassRec) : ∃ st el et, s.startedDove u r =
    { (s.unit u).dove.fresh (max (r.vals.headD 0).toNat s.time.toNat) with status := st, elink := el, endTime := et } := by
  simp only [State.startedDove]
  split_ifs
  · exact ⟨_, _, _, rfl⟩
  · exact ⟨_, _, _, rfl⟩
  · exact ⟨_, _, _, rfl⟩

/-- Every earlier word of C has acted. -/
theorem earlier_acted {U : UnitSt} (h : ∀ g ∈ U.work.fl, g.eng = .C → g.wait = .done) :
    (U.work.fl.any fun g => g.eng == .C && g.wait != .done) = false := by
  rw [List.any_eq_false]
  intro g hg
  simpa using h g hg

/-- A word of C that records nothing does its part. -/
theorem State.word_C {g : XP} {body : State → UnitSt → PassRec → Flight → Res} (h : Ready s u .C r tk g []) :
    State.word s tk g [] (fun _ _ => ⟨none, []⟩) body = s.settle u .C r tk ⟨none, []⟩
      (body s (s.unit u) r (s.flight u .C r tk)) := by
  rw [State.word_of_ready h, State.freshen_C]

/-- A DSTART that is ready. -/
theorem exec_dstart {a : Nat} (h : Ready s u .C r tk none []) :
    exec (.dstart tk a) s = s.settle u .C r tk ⟨none, []⟩
      (if (s.unit u).work.fl.any fun g => g.eng == .C && g.wait != .done then .stall s
        else if (s.unit u).dove.status = 0 ∨ (s.unit u).dove.status = 2 then r.trapHere .und
        else if (s.unit u).dove.busy then .stall s
        else .go (s.setUnit u { s.unit u with dove := s.startedDove u r }) (s.flight u .C r tk)) := by
  change execDstart tk a s = _
  rw [execDstart, State.word_C h]
  simp only [h.who]
  rfl

end

/-- Settles O48. -/
theorem dovetailWordsAct : Obligations.DovetailWordsAct := by
  unfold Obligations.DovetailWordsAct
  refine ⟨?words, ?stat, ?loaded⟩
  case words =>
    intro tk s u r h
    dsimp only
    refine ⟨?load, ?start, ?stop⟩
    case load =>
      intro a b ks s1 s2 hd body hrun hka hks
      rw [exec_dload h hka hks]
      refine ⟨fun hst => ?_, fun hdove hst hload hbusy hchk hread hbad halign hhdr hchk2 hread2 hok hrange hrun2 => ?_⟩
      · rw [State.doveLoad, if_pos (.inr hst)]
        rfl
      · rw [State.doveLoad_of_checks h.who hdove hst hload hbusy hchk hread hbad halign hhdr hchk2 hread2 hok hrange]
        refine congrArg Host.Outcome.next (State.issue_of_not_recording ?_ .C r tk _ _ none)
        rw [State.unit_setUnit_same, hrun2]
        decide
    case start =>
      intro a hacted
      have run := exec_dstart (a := a) h
      simp only [earlier_acted hacted, Bool.false_eq_true, if_false] at run
      rw [run]
      refine ⟨fun hst => ?_, fun h0 h2 hbusy => ?_⟩
      · rw [if_pos hst]
        rfl
      · obtain ⟨st, el, et, hD⟩ := s.startedDove_eq u r
        have ents : (s.startedDove u r).ents = (s.unit u).dove.ents.map fun e => { e with st := 0 } := by rw [hD]; rfl
        rw [if_neg (by omega), if_neg (by simp [hbusy])]
        refine ⟨s.startedDove u r, by rw [hD]; rfl, by rw [ents]; simp, by rw [ents]; simp, by rw [hD]; rfl, by rw [hD]; rfl,
          by rw [hD]; rfl, by rw [hD]; rfl, by rw [hD]; rfl, by rw [hD]; rfl, by rw [hD]; rfl, by rw [hD]; rfl, ?_, ?_, ?_, ?_⟩
        · intro hb
          simp [State.startedDove, hb, Dctx.endRun, Dctx.fresh]
        · intro hb hl
          simp [State.startedDove, hb, hl, Dctx.endRun, Dctx.fresh]
        · intro hb hl
          simp [State.startedDove, hb, hl, Dctx.fresh]
        · rfl
    case stop =>
      intro hbusy
      have run : exec (.dstop tk) s = _ := (State.word_C h : execDstop tk s = _)
      have hno : ¬ (((s.unit u).dove.endRun 4 0 s.time.toNat).status = 4 ∧
          ((s.unit u).dove.endRun 4 0 s.time.toNat).busy = true) := by
        rintro ⟨-, hb⟩
        have same : ((s.unit u).dove.endRun 4 0 s.time.toNat).busy = (s.unit u).dove.busy := by
          unfold Dctx.endRun
          split_ifs <;> rfl
        rw [same, hbusy] at hb
        cases hb
      rw [run]
      simp only [if_neg hno, h.who]
      rfl
  case stat =>
    intro tk d wt sel g s u r h
    dsimp only
    intro hwt hbusy
    have hno : ¬ ((wt = 1 ∧ (s.unit u).dove.status = 2) ∨ (3 ≤ (s.unit u).dove.status ∧ (s.unit u).dove.busy = true)) := by
      rintro (⟨hw, hst⟩ | ⟨hst, hb⟩)
      · exact hwt hw hst
      · rw [hbusy hst] at hb
        cases hb
    have run : exec (.dstat tk d wt sel g) s = _ := (State.word_C h : execDstat tk d wt sel g s = _)
    rw [run]
    simp only [if_neg hno, h.who]
    rfl
  case loaded =>
    intro s u es cs bn tmo f hu hhalt hload hfind
    refine ⟨_, unitEvent_of_live hu hhalt, ?_⟩
    simp only [State.doveLoaded, hload, hfind]
    simp [UnitSt.finish, Dctx.reset]

end Sys2Proof.Machine
end


section
/-! What the measures of Campion leave as it is. -/
namespace Sys2Proof.Machine

/-- What Campion's measures (R395 to R398, R402) leave as it is: memory,
  Yarrow's service requests and what Campion holds but the flag of
the floor; of the events to the host they only add. -/
structure State.Steers (s t : State) : Prop where
  mem : t.mem = s.mem
  service : t.hub.service = s.hub.service
  events : s.hub.events <+: t.hub.events
  camp : ∃ flag, t.camp = { s.camp with floorFlag := flag }

namespace State.Steers
variable {s t r : State}

theorem refl (s : State) : s.Steers s := ⟨rfl, rfl, List.prefix_refl _, _, rfl⟩

theorem trans (h : s.Steers t) (h' : t.Steers r) : s.Steers r := by
  obtain ⟨hm, hs, he, flag, hc⟩ := h
  obtain ⟨hm', hs', he', flag', hc'⟩ := h'
  exact ⟨hm'.trans hm, hs'.trans hs, he.trans he', flag', by rw [hc', hc]⟩

theorem foldl {α : Type} {f : State → α → State} (step : ∀ (s : State) a, s.Steers (f s a)) (l : List α) (s : State) :
    s.Steers (l.foldl f s) := foldl_rel (R := State.Steers) refl trans step l s

/-- A step that keeps memory, the requests, the events and Campion. -/
theorem of_kept (hm : t.mem = s.mem) (hs : t.hub.service = s.hub.service) (he : t.hub.events = s.hub.events) (hc : t.camp =
    s.camp) :
    s.Steers t := ⟨hm, hs, he ▸ List.prefix_refl _, _, hc⟩

end State.Steers

theorem State.setUnit_steers (s : State) (u : Nat) (U : UnitSt) : s.Steers (s.setUnit u U) := .of_kept rfl rfl rfl rfl
theorem State.setCluster_steers (s : State) (c : Nat) (C : Cluster) : s.Steers (s.setCluster c C) := .of_kept rfl rfl rfl rfl
theorem State.setTask_steers (s : State) (t : Nat) (T : Task) : s.Steers (s.setTask t T) := .of_kept rfl rfl rfl rfl
theorem State.setDie_steers (s : State) (d : Nat) (D : Die) : s.Steers (s.setDie d D) := .of_kept rfl rfl rfl rfl

theorem State.tellHost_steers (s : State) (code a b c : Nat) : s.Steers (s.tellHost code a b c) :=
  ⟨rfl, rfl, List.prefix_append _ _, _, rfl⟩

theorem State.clockUnits_steers (s : State) (c : Nat) (stop : Bool) : s.Steers (s.clockUnits c stop) :=
  .foldl (fun s u => by
    split_ifs
    · exact .refl s
    · exact s.setUnit_steers ..) _ s

theorem State.setClock_steers (s : State) (c : Nat) (k : Clock) : s.Steers (s.setClock c k) := by
  unfold State.setClock
  dsimp only
  split_ifs
  · exact s.setCluster_steers ..
  · exact (s.setCluster_steers ..).trans (State.clockUnits_steers ..)

theorem State.aimCluster_steers (s : State) (c q : Nat) : s.Steers (s.aimCluster c q) := s.setClock_steers ..

theorem State.lower_steers (s : State) (c q : Nat) : s.Steers (s.lower c q) := by
  unfold State.lower
  split_ifs
  · exact s.aimCluster_steers c q
  · exact .refl s

theorem State.powerCap_steers (s : State) (c : Nat) : s.Steers (s.powerCap c) :=
  (s.setClock_steers ..).trans (State.lower_steers ..)

theorem State.aimTask_steers (s : State) (T : Task) (q : Nat) : s.Steers (s.aimTask T q) :=
  .foldl (fun s c => s.aimCluster_steers ..) _ s

theorem State.dropLease_steers (s : State) (t : Nat) : s.Steers (s.dropLease t) := by
  unfold State.dropLease
  split
  · split_ifs
    · exact (s.setTask_steers ..).trans (State.aimTask_steers ..)
    · exact .refl s
  · exact .refl s

theorem State.returnLeases_steers (s : State) : s.Steers s.returnLeases :=
  .foldl (fun s (q : Nat × Option Task) => s.dropLease_steers q.1) _ s

theorem State.lowerBest_steers (s : State) (full : Bool) : s.Steers (s.lowerBest full) :=
  .foldl (fun s c => by
    split_ifs
    · exact .refl s
    · exact s.lower_steers ..
    · exact s.lower_steers ..) _ s

theorem State.lowerGuar_steers (s : State) : s.Steers s.lowerGuar :=
  .foldl (fun s q => by
    split_ifs
    · exact .foldl (fun s c => s.lower_steers ..) _ s
    · exact .refl s) _ s

theorem State.askTask_steers (s : State) (t : Nat) : s.Steers (s.askTask t) := by
  unfold State.askTask
  split
  · exact s.setTask_steers ..
  · exact .refl s

theorem State.failTask_steers (s : State) (t status : Nat) : s.Steers (s.failTask t status) := by
  unfold State.failTask
  split
  · exact .refl s
  · exact (State.Steers.foldl (fun s u => s.setUnit_steers ..) _ s).trans (State.setTask_steers ..)

theorem State.floorPark_steers (n : Nat) : ∀ (s : State) (stage : Nat), s.Steers (s.floorPark stage n) := by
  induction n with
  | zero => exact fun s _ => .refl s
  | succ n ih =>
    intro s stage
    rw [State.floorPark]
    split
    · exact .refl s
    · dsimp only
      split_ifs
      · exact s.askTask_steers _
      · exact (s.askTask_steers _).trans (ih ..)

theorem State.floorMeasure_steers (s : State) : s.Steers s.floorMeasure := by
  unfold State.floorMeasure
  dsimp only
  split_ifs
  · exact .refl s
  · have flag : s.Steers { s with camp := { s.camp with floorFlag := true } } := ⟨rfl, rfl, List.prefix_refl _, true, rfl⟩
    exact (flag.trans (State.floorPark_steers ..)).trans (State.tellHost_steers ..)

theorem State.measures_steers (s : State) (edge : Nat) (whole : Bool) : s.Steers (s.measures edge whole).1 := by
  have s2 : s.Steers (s.returnLeases.lowerBest true).lowerGuar :=
    (s.returnLeases_steers.trans (State.lowerBest_steers ..)).trans (State.lowerGuar_steers _)
  unfold State.measures
  dsimp only
  split
  · exact .refl s
  split
  · dsimp only
    exact s.returnLeases_steers.trans (State.lowerBest_steers ..)
  split
  · dsimp only
    exact s2
  split
  · dsimp only
    exact s2
  split
  · exact s2.trans (.foldl (fun s (q : Nat × Task) => s.askTask_steers q.1) _ _)
  · have s3 := s2.trans (.foldl (fun s (q : Nat × Task) => s.failTask_steers q.1 stShed) s.parkOrder _)
    dsimp only
    split
    · exact s3.trans (State.floorMeasure_steers _)
    · exact s3

/-- A curtailment changes, beside what its measures do, only the grade in force and since when. -/
theorem State.judgeCap_eq (s : State) : s.judgeCap.mem = s.mem ∧ s.judgeCap.hub.service = s.hub.service ∧
    s.hub.events <+: s.judgeCap.hub.events ∧
    ∃ flag g at_, s.judgeCap.camp = { s.camp with floorFlag := flag, grade := g, gradeAt := at_ } := by
  obtain ⟨hm, hs, he, flag, hc⟩ := s.measures_steers s.upperEdge true
  unfold State.judgeCap
  dsimp only
  split_ifs
  · exact ⟨hm, hs, he, flag, _, _, hc⟩
  · refine ⟨hm, hs, he.trans (List.prefix_append _ _), flag, (s.measures s.upperEdge true).2,
      if (s.measures s.upperEdge true).1.camp.grade = 0 then (s.measures s.upperEdge true).1.time.toNat
        else (s.measures s.upperEdge true).1.camp.gradeAt, ?_⟩
    simp only [State.setGrade, State.tellHost, hc]

end Sys2Proof.Machine
end


section
/-! O58.  Machine checks, telemetry, connections. -/
namespace Sys2Proof.Machine

/-- `s'` is `s` but for what an unchecked write changes: memory, the race histories, the access counts and the tapes. -/
structure State.Written (s s' : State) : Prop where
  unit : ∀ v, (s.unit v).SameButTape (s'.unit v)
  rest : ∃ us m rc ts rs hot, s' = { s with
    units := us, mem := m, races := rc, hub := { s.hub with tapes := ts, recording := rs, hot := hot } }

namespace State.Written

theorem refl (s : State) : s.Written s := ⟨fun _ => .refl _, s.units, s.mem, s.races, s.hub.tapes, s.hub.recording,
    s.hub.hot, rfl⟩

theorem trans {s t r : State} (h : s.Written t) (h' : t.Written r) : s.Written r := by
  obtain ⟨hu, us, m, rc, ts, rs, hot, rfl⟩ := h
  obtain ⟨hu', us', m', rc', ts', rs', hot', rfl⟩ := h'
  exact ⟨fun v => (hu v).trans (hu' v), us', m', rc', ts', rs', hot', rfl⟩

theorem of_tapes {s t : State} (h : s.SameButTapes t) : s.Written t := by
  obtain ⟨hu, us, ts, rs, rfl⟩ := h
  exact ⟨hu, us, s.mem, s.races, ts, rs, s.hub.hot, rfl⟩

theorem of_hot {s t : State} (h : s.SameButHot t) : s.Written t := by
  obtain ⟨hot, rfl⟩ := h
  exact ⟨fun _ => .refl _, s.units, s.mem, s.races, s.hub.tapes, s.hub.recording, hot, rfl⟩

section
variable {s s' : State} (h : s.Written s')
include h
theorem task (t : Nat) : s'.task t = s.task t := by obtain ⟨-, us, m, rc, ts, rs, hot, rfl⟩ := h; rfl
theorem answers : s'.hub.answers = s.hub.answers := by obtain ⟨-, us, m, rc, ts, rs, hot, rfl⟩ := h; rfl
theorem events : s'.hub.events = s.hub.events := by obtain ⟨-, us, m, rc, ts, rs, hot, rfl⟩ := h; rfl
end

end State.Written

theorem State.tapeWrite_same (s : State) (k n : Nat) : s.SameButTapes (s.tapeWrite k n) := by
  unfold State.tapeWrite
  split_ifs
  · exact .refl s
  · exact s.invalidTapes_same _

theorem State.noteWrite_written (s : State) (lvl k n : Nat) : s.Written (s.noteWrite lvl k n) := by
  unfold State.noteWrite
  split_ifs
  · exact (State.Written.of_hot (s.touchRange_same k n)).trans (.of_tapes (State.tapeWrite_same ..))
  · exact .of_hot (s.touchRange_same k n)

theorem State.writeMem_written (s : State) (u lvl k : Nat) (bs : List Byte) (tag : Bool) : s.Written (s.writeMem u lvl k bs
    tag) := by
  obtain ⟨hu, us, m, rc, ts, rs, hot, h⟩ := s.noteWrite_written lvl k bs.length
  rw [State.writeMem, h]
  rw [h] at hu
  exact ⟨hu, us, _, _, ts, rs, hot, rfl⟩

@[simp] theorem State.writeMem_mem (s : State) (u lvl k : Nat) (bs : List Byte) (tag : Bool) :
    (s.writeMem u lvl k bs tag).mem = s.mem.writeTag u lvl k bs tag := rfl

/-! ### A record in a ring -/

/-- A record in a ring leaves the tasks, and the units but for their tapes. -/
theorem State.ringPut_kept (s : State) (kind : Nat) (rec : List Byte) :
    (∀ t, (s.ringPut kind rec).task t = s.task t) ∧ ∀ v, (s.unit v).SameButTape ((s.ringPut kind rec).unit v) := by
  unfold State.ringPut
  split
  · exact ⟨fun _ => rfl, fun _ => .refl _⟩
  rename_i r _
  dsimp only
  split
  · exact ⟨fun _ => rfl, fun _ => .refl _⟩
  split
  · obtain ⟨hu, us, m, rc, ts, rs, hot, h⟩ := s.writeMem_written 0 4 (keyOf r.region r.addr + 8) (toBytes 4 (r.drop + 1)) false
    rw [h] at hu ⊢
    split <;> exact ⟨fun _ => rfl, hu⟩
  · obtain ⟨hu, us, m, rc, ts, rs, hot, h⟩ := (s.writeMem_written 0 4
      (keyOf r.region r.addr + 64 + r.prod % r.nent * entrySize kind) rec false).trans
        (State.writeMem_written _ 0 4 (keyOf r.region r.addr) (toBytes 4 ((r.prod + 1) % 2 ^ 32)) false)
    rw [h] at hu ⊢
    exact ⟨fun _ => rfl, hu⟩

theorem maxLevel_le (region : Nat) : maxLevel region ≤ 4 := by
  unfold maxLevel
  split_ifs <;> omega

/-- A write at the widest scope is seen by every party. -/
theorem Mem.byte_writeTag_widest (m : Mem) (u k : Nat) (bs : List Byte) (tag : Bool) (v : Viewer) {a : Nat}
    (h : k ≤ a ∧ a < k + bs.length) : (m.writeTag u 4 k bs tag).byte v a = bs.getD (a - k) 0 := by
  rw [Mem.byte_writeTag, seenBy_of_widest (maxLevel_le _), if_pos]
  simpa using h

theorem Mem.read_writeTag_widest (m : Mem) (u k : Nat) (bs : List Byte) (tag : Bool) (v : Viewer) :
    (m.writeTag u 4 k bs tag).read v k bs.length = bs := by
  apply List.ext_getElem
  · simp [Mem.read]
  · intro i h1 h2
    simp only [Mem.read, List.getElem_map, List.getElem_range]
    rw [Mem.byte_writeTag_widest _ _ _ _ _ _ (by omega)]
    simp [List.getD_eq_getElem?_getD, h2]

/-- A ring with room takes the record and counts it. -/
theorem State.ringPut_of_room {s : State} {kind : Nat} {r : Reg} (rec : List Byte)
    (hr : s.hub.regs.find? (fun r => r.kind = kind) = some r) (hready : s.memReady (keyOf r.region r.addr) = true)
    (hroom : (r.prod + 2 ^ 32 - s.mem.num .system (keyOf r.region r.addr + 4) 4) % 2 ^ 32 ≠ r.nent) :
    (s.ringPut kind rec).mem = (s.mem.writeTag 0 4 (keyOf r.region r.addr + 64 + r.prod % r.nent * entrySize kind) rec
      false).writeTag 0 4
      (keyOf r.region r.addr) (toBytes 4 ((r.prod + 1) % 2 ^ 32)) false := by
  rw [State.ringPut, hr]
  simp only [hready, Bool.not_true, Bool.false_eq_true, if_false, if_neg hroom]
  rfl

/-! ### Machine checks -/

theorem State.failTask_task {s : State} {t status : Nat} {T : Task} (h : s.task t = some T) :
    (s.failTask t status).task t = some { T with status := if T.status = 0 then status else T.status } := by
  simp only [State.failTask, h, State.task_setTask_same]

theorem UnitSt.halt_run (U : UnitSt) : U.halt.run = .halted := rfl

/-- Halting units halts them, and changes no more of a unit than whether it runs. -/
theorem haltAll_unit (l : List Nat) (s : State) (v : Nat) :
    (l.foldl (fun s u => s.setUnit u (s.unit u).halt) s).unit v = if v ∈ l then (s.unit v).halt else s.unit v := by
  induction l generalizing s with
  | nil => rfl
  | cons u l ih =>
    rw [List.foldl_cons, ih]
    obtain rfl | hv := eq_or_ne v u
    · simp only [State.unit_setUnit_same, List.mem_cons, true_or, if_true]
      split_ifs <;> rfl
    · simp only [State.unit_setUnit_other _ _ hv, List.mem_cons, hv, false_or]

theorem State.failTask_unit (s : State) (t status v : Nat) :
    (s.failTask t status).unit v = s.unit v ∨ (s.failTask t status).unit v = (s.unit v).halt := by
  unfold State.failTask
  split
  · exact .inl rfl
  · rename_i T _
    change (T.units.foldl _ s).unit v = _ ∨ (T.units.foldl _ s).unit v = _
    rw [haltAll_unit]
    split_ifs
    · exact .inr rfl
    · exact .inl rfl

theorem State.failTask_halts {s : State} {t status : Nat} {T : Task} (h : s.task t = some T) {w : Nat} (hw : w ∈ T.units) :
    ((s.failTask t status).unit w).run = .halted := by
  unfold State.failTask
  rw [h]
  change ((T.units.foldl _ s).unit w).run = _
  rw [haltAll_unit, if_pos hw]
  rfl

/-- A unit that has met a machine check of source `src` at `now`: halted and counted. -/
def UnitSt.checked (U : UnitSt) (src now : Nat) : UnitSt :=
  { U with
    run := .halted, mcCount := if decide (src ≠ 6) then U.mcCount + 1 else U.mcCount
    mchecks := if decide (src ≠ 6) then now :: U.mchecks else U.mchecks, trap := { U.trap with pend := none } }

theorem UnitSt.checked_mcCount (U : UnitSt) (src now : Nat) :
    (U.checked src now).mcCount = if src = 6 then U.mcCount else U.mcCount + 1 := by
  by_cases h : src = 6 <;> simp [UnitSt.checked, h]

/-- A machine check is the end of the task by MCHECK after the unit has been halted and counted; beyond it,
  the host may be told and the
unit marked. -/
theorem State.mcheck_eq (s : State) (u src bank synd addr : Nat) : ∃ rec : List Byte,
    let s2 := ((s.setUnit u ((s.unit u).checked src s.time.toNat)).ringPut 4 rec).failTask (s.unit u).id.task stMcheck
    (∀ w, ((s.mcheck u src bank synd addr).unit w).run = (s2.unit w).run ∧
      ((s.mcheck u src bank synd addr).unit w).mcCount = (s2.unit w).mcCount) ∧
    ∀ q, (s.mcheck u src bank synd addr).task q = s2.task q := by
  refine ⟨u16 u ++ u8 src ++ u8 bank ++ u32 synd ++ u64 addr ++ u64 s.time.toNat ++ u16 (s.unit u).id.graph ++ u16 (s.unit
    u).id.card
    ++ u16 (if decide (src ≠ 6) then (s.unit u).mcCount + 1 else (s.unit u).mcCount) ++ u16 0, ?_⟩
  unfold State.mcheck
  dsimp only
  rw [← UnitSt.checked]
  generalize State.failTask _ _ _ = s2
  have told : ∀ s3 : State, s3.units = s2.units → (∀ q, s3.task q = s2.task q) →
      ∀ retire : Bool, let t := if retire then (s3.setUnit u { s3.unit u with retiredMark := true }).service 1 u else s3
      (∀ w, (t.unit w).run = (s2.unit w).run ∧ (t.unit w).mcCount = (s2.unit w).mcCount) ∧ ∀ q, t.task q = s2.task q := by
    intro s3 hu hq retire
    have hs : ∀ w, s3.unit w = s2.unit w := fun w => congrArg (SMap.get UnitSt.reset · w) hu
    dsimp only
    split_ifs
    · refine ⟨fun w => ?_, hq⟩
      change ((s3.setUnit u _).unit w).run = _ ∧ ((s3.setUnit u _).unit w).mcCount = _
      obtain rfl | hw := eq_or_ne w u
      · rw [State.unit_setUnit_same]
        exact ⟨by rw [hs], by rw [hs]⟩
      · rw [State.unit_setUnit_other _ _ hw, hs]
        exact ⟨rfl, rfl⟩
    · exact ⟨fun w => by rw [hs]; exact ⟨rfl, rfl⟩, hq⟩
  refine told _ ?_ ?_ _
  · split
    · split_ifs <;> rfl
    · rfl
  · intro q
    split
    · split_ifs <;> rfl
    · rfl

/-- A unit that meets an uncorrectable error takes a machine check. -/
theorem exec_machineCheck {s : State} {u src bank synd addr : Nat} (hu : u < 768) (hh : s.halted u = false) (h1 : 1 ≤ src)
    (h8 : src < 8)
    (hrun : (s.unit u).run ≠ .free) (hbank : src = 1 → (s.unit u).dcur.getLsbD bank = false) :
    ∃ s0 : State, s0.units = s.units ∧ s0.hub.tasks = s.hub.tasks ∧
      exec (.machineCheck u src bank synd addr) s = .next (s0.mcheck u src bank synd addr) := by
  refine ⟨if 2 ≤ src ∧ src ≤ 5 then { s with mem := s.mem.setPoison (localKey u (sourceSpace src) addr) } else s, ?_, ?_, ?_⟩
  · split_ifs <;> rfl
  · split_ifs <;> rfl
  · change execMachineCheck u src bank synd addr s = _
    rw [execMachineCheck, unitEvent_of_live hu hh, if_neg (by omega), State.errorMet, if_neg, if_neg hrun]
    rintro ⟨h, hd⟩
    rw [hbank h] at hd
    cases hd

theorem machineCheck_ends {s : State} {u src bank synd addr : Nat} (hu : u < 768) (hh : s.halted u = false) (h1 : 1 ≤ src)
    (h8 : src < 8)
    (hrun : (s.unit u).run ≠ .free) (hbank : src = 1 → (s.unit u).dcur.getLsbD bank = false) :
    ∃ t, exec (.machineCheck u src bank synd addr) s = .next t ∧ (t.unit u).run = .halted ∧
      (t.unit u).mcCount = (if src = 6 then (s.unit u).mcCount else (s.unit u).mcCount + 1) ∧
      (∀ T, s.task (s.unit u).id.task = some T → ∃ T1, t.task (s.unit u).id.task = some T1 ∧
        T1.status = (if T.status = 0 then stMcheck else T.status) ∧ ∀ w ∈ T.units, (t.unit w).run = .halted) := by
  obtain ⟨s0, hs0, ht0, run⟩ := exec_machineCheck (synd := synd) (addr := addr) hu hh h1 h8 hrun hbank
  have hU : s0.unit u = s.unit u := congrArg (SMap.get UnitSt.reset · u) hs0
  obtain ⟨rec, hunits, htask⟩ := s0.mcheck_eq u src bank synd addr
  have hr : ((s0.unit u).checked src s0.time.toNat).run = .halted := rfl
  have hm := (s0.unit u).checked_mcCount src s0.time.toNat
  generalize (s0.unit u).checked src s0.time.toNat = U1 at hunits htask hr hm
  rw [hU] at hm hunits htask
  obtain ⟨kept, same⟩ := (s0.setUnit u U1).ringPut_kept 4 rec
  have mine : (((s0.setUnit u U1).ringPut 4 rec).unit u).run = .halted ∧
    (((s0.setUnit u U1).ringPut 4 rec).unit u).mcCount = U1.mcCount := by
    obtain ⟨T, h⟩ := same u
    rw [h, State.unit_setUnit_same]
    exact ⟨hr, rfl⟩
  refine ⟨_, run, ?_, ?_, fun T hT => ?_⟩
  · rw [(hunits u).1]
    rcases State.failTask_unit ((s0.setUnit u U1).ringPut 4 rec) (s.unit u).id.task stMcheck u with h | h <;> rw [h]
    · exact mine.1
    · rfl
  · rw [(hunits u).2, ← hm]
    rcases State.failTask_unit ((s0.setUnit u U1).ringPut 4 rec) (s.unit u).id.task stMcheck u with h | h <;> rw [h]
    · exact mine.2
    · exact mine.2
  · have hT1 : ((s0.setUnit u U1).ringPut 4 rec).task (s.unit u).id.task = some T := by
      rw [kept, ← hT]
      exact congrArg (SMap.get none · _) ht0
    exact ⟨_, (htask _).trans (State.failTask_task hT1), rfl,
      fun w hw => by rw [(hunits w).1]; exact State.failTask_halts hT1 hw⟩

/-! ### Connections -/

/-- A change of a clock is a change of its cluster's clock. -/
theorem State.setClock_cluster (s : State) (c : Nat) (k : Clock) (x : Nat) :
    (s.setClock c k).cluster x = if x = c then { s.cluster c with clk := k } else s.cluster x := by
  have kept : ∀ s : State, ∀ stop, (s.clockUnits c stop).cluster x = s.cluster x := fun s stop =>
    foldl_keeps (State.cluster · x) (fun s u => by split_ifs <;> rfl) _ s
  unfold State.setClock
  dsimp only
  split_ifs with h hx hx
  · rw [hx, State.cluster_setCluster_same]
  · rw [State.cluster_setCluster_other _ _ hx]
  · rw [kept, hx, State.cluster_setCluster_same]
  · rw [kept, State.cluster_setCluster_other _ _ hx]

@[simp] theorem Clock.start_scap (k : Clock) : k.start.scap = k.scap := by
  unfold Clock.start
  split_ifs <;> rfl

theorem State.lower_scap (s : State) (c q x : Nat) : ((s.lower c q).cluster x).clk.scap = (s.cluster x).clk.scap := by
  unfold State.lower State.aimCluster
  split_ifs
  · rw [State.setClock_cluster]
    split_ifs with h
    · rw [h]
      exact Clock.start_scap _
    · rfl
  · rfl

/-- A cluster capped in power has SCAP; of no other does it change. -/
theorem State.powerCap_scap (s : State) (c x : Nat) : ((s.powerCap c).cluster x).clk.scap = if x = c then true else
    (s.cluster x).clk.scap := by
  rw [State.powerCap, State.lower_scap, State.setClock_cluster]
  split_ifs <;> rfl

theorem exec_suspectConnection {s : State} {p : Nat} (hp : p < 48) (hb : s.hub.booted = true) (hnew : p ∉ s.camp.suspects) :
    ∃ t, exec (.suspectConnection p) s = .next t ∧
      t.camp.suspects = s.camp.suspects ++ [p] ∧ (t.cluster (2 * p)).clk.scap = true ∧
      (t.cluster (2 * p + 1)).clk.scap = true ∧ t.hub.service = s.hub.service ++ [⟨4, p, 0, 0⟩] ∧ t.mem = s.mem := by
  let s1 : State := { s with camp := { s.camp with suspects := s.camp.suspects ++ [p] } }
  have steers := (s1.powerCap_steers (2 * p)).trans (State.powerCap_steers _ (2 * p + 1))
  have low : (((s1.powerCap (2 * p)).powerCap (2 * p + 1)).cluster (2 * p)).clk.scap = true := by
    rw [State.powerCap_scap, State.powerCap_scap, if_pos rfl, ite_self]
  have high : (((s1.powerCap (2 * p)).powerCap (2 * p + 1)).cluster (2 * p + 1)).clk.scap = true := by
    rw [State.powerCap_scap, if_pos rfl]
  have run : exec (.suspectConnection p) s = .next (((s1.powerCap (2 * p)).powerCap (2 * p + 1)).service 4 p) :=
    congrArg Host.Outcome.next (if_neg (by simp [hnew, hb]; omega))
  obtain ⟨flag, hc⟩ := steers.camp
  generalize (s1.powerCap (2 * p)).powerCap (2 * p + 1) = s2 at steers low high run hc
  exact ⟨_, run, congrArg Campion.suspects hc, low, high, congrArg (· ++ [_]) steers.service, steers.mem⟩

/-- The margin of the connector is told to the host, and acts by its size. -/
theorem exec_connectorMargin {s : State} (hb : s.hub.booted = true) : ∃ (r : Nat) (t : State),
    exec .connectorMargin s = .next t ∧
    let m := (BitVec.ofInt 64 (1000 - (r : Int))).toNat
    ⟨15, m, 0, 0⟩ ∈ t.hub.events ∧ (800 < r → ⟨5, m, 0, 0⟩ ∈ t.hub.service) ∧
    t.camp.inputCap = (if 1000 < r then 3600 else s.camp.inputCap) ∧ t.mem = s.mem := by
  let r := Config.freeNat s.tick 980
  let m := (BitVec.ofInt 64 (1000 - (r : Int))).toNat
  let s2 := if 800 < r then (s.tellHost 15 m 0 0).service 5 m else s.tellHost 15 m 0 0
  let s3 : State := { s2 with camp := { s2.camp with inputCap := 3600 } }
  have run : exec .connectorMargin s = .next (if 1000 < r then s3.judgeCap else s2) :=
    congrArg Host.Outcome.next (if_neg (by simp [hb]))
  have told : ⟨15, m, 0, 0⟩ ∈ s2.hub.events ∧ (800 < r → ⟨5, m, 0, 0⟩ ∈ s2.hub.service) ∧ s2.camp = s.camp ∧
    s2.mem = s.mem := by
    have last : (⟨15, m, 0, 0⟩ : HostEv) ∈ s.hub.events ++ [⟨15, m, 0, 0⟩] := List.mem_append_right _ (List.mem_singleton.2 rfl)
    unfold s2
    split_ifs with h
    · exact ⟨last, fun _ => List.mem_append_right _ (List.mem_singleton.2 rfl), rfl, rfl⟩
    · exact ⟨last, fun h' => absurd h' h, rfl, rfl⟩
  obtain ⟨hev, hsv, hcamp, hmem⟩ := told
  refine ⟨r, _, run, ?_⟩
  by_cases h : 1000 < r
  · obtain ⟨jm, js, je, flag, g, since, jc⟩ := s3.judgeCap_eq
    simp only [if_pos h]
    exact ⟨je.subset hev, fun h' => js ▸ hsv h', congrArg Campion.inputCap jc, jm.trans hmem⟩
  · simp only [if_neg h]
    exact ⟨hev, hsv, congrArg Campion.inputCap hcamp, hmem⟩

/-- The bytes of a record and the count of the ring it joins, in the host's memory. -/
theorem State.ringPut_bytes {s : State} {kind : Nat} {rec : List Byte} {r : Reg}
    (hr : s.hub.regs.find? (fun r => r.kind = kind) = some r) (hmem : r.mem = 0) (hready : s.memReady (keyOf 4 r.addr) = true)
    (hroom : (r.prod + 2 ^ 32 - s.mem.num .system (keyOf 4 r.addr + 4) 4) % 2 ^ 32 ≠ r.nent) :
    (∀ v j, j < rec.length →
      (s.ringPut kind rec).mem.byte v (keyOf 4 r.addr + 64 + r.prod % r.nent * entrySize kind + j) = rec.getD j 0) ∧
      (s.ringPut kind rec).mem.num .system (keyOf 4 r.addr) 4 = (r.prod + 1) % 2 ^ 32 := by
  have hreg : r.region = 4 := if_pos hmem
  have hm := State.ringPut_of_room (s := s) (r := r) rec hr (by rw [hreg]; exact hready) (by rw [hreg]; exact hroom)
  rw [hreg] at hm
  rw [hm]
  constructor
  · intro v j hj
    rw [Mem.byte_writeTag_outside _ _ _ _ _ _ _ (.inr (by rw [toBytes_length]; omega)),
      Mem.byte_writeTag_widest _ _ _ _ _ _ (by omega), Nat.add_sub_cancel_left]
  · have h := Mem.read_writeTag_widest (s.mem.writeTag 0 4 (keyOf 4 r.addr + 64 + r.prod % r.nent * entrySize kind) rec false) 0
      (keyOf 4 r.addr) (toBytes 4 ((r.prod + 1) % 2 ^ 32)) false .system
    rw [toBytes_length] at h
    rw [Mem.num, h, ofBytes_toBytes]
    omega

/-- Settles O58: machine checks, records and connections as their events leave them. -/
theorem checksAndTelemetryAreReported : Obligations.ChecksAndTelemetryAreReported := by
  unfold Obligations.ChecksAndTelemetryAreReported
  intro s
  refine ⟨?_, ?_, ?_, ?_, exec_connectorMargin⟩
  · intro u src bank synd addr hu hh h1 h8 hrun hbank
    exact machineCheck_ends hu hh h1 h8 hrun hbank
  · intro src hsrc hb
    exact ⟨_, by simp, congrArg Host.Outcome.next (if_neg (by simp [hb]; omega))⟩
  · intro kind rec r hr hmem _ base hready hroom t
    exact State.ringPut_bytes hr hmem hready hroom
  · intro p hp hb hnew
    exact exec_suspectConnection hp hb hnew

end Sys2Proof.Machine
end


section
/-! O55.  Budget curves. -/
namespace Sys2Proof.Machine

/-! ### The mailbox -/

section
variable {s : State} {c : Nat} {bs : List Byte}

/-- A command that may run does so, and is answered. -/
theorem State.mailbox_runs (h : s.mailHead = some (c,
    bs)) {always : Bool} (hfree : ¬((s.hub.retrain ≠ 0 ∨ s.inbox.early ≠ 0) ∧ !always))
    (run : List Byte → State × Nat × List Byte) :
    s.mailbox c always run = (run bs).1.mailAnswer c 0 (run bs).2.1 (run bs).2.2 := by
  simp only [State.mailbox, h, ne_eq, not_true, if_false]
  rw [if_neg hfree]

/-- While the module retrains, a command is only answered. -/
theorem State.mailbox_retrains (h : s.mailHead = some (c, bs)) (hbusy : s.hub.retrain ≠ 0 ∨ s.inbox.early ≠ 0)
    (run : List Byte → State × Nat × List Byte) : s.mailbox c false run = s.mailAnswer c 1 0 [] := by
  simp only [State.mailbox, h, ne_eq, not_true, if_false]
  rw [if_pos ⟨hbusy, rfl⟩]

theorem not_retraining (hr : s.hub.retrain = 0) (he : s.inbox.early = 0) (always : Bool) :
    ¬((s.hub.retrain ≠ 0 ∨ s.inbox.early ≠ 0) ∧ !always) := by
  rintro ⟨h | h, -⟩
  · exact h hr
  · exact h he

end

theorem answer_zero : u16 0 ++ u16 0 ++ u32 0 ++ [] = List.replicate 8 (0 : Byte) := by decide

/-! ### A curve that arrives -/

section
variable {s : State} {bs : List Byte}

theorem exec_curve_taken (ok : Bool) (h : s.mailHead = some (1, bs)) (hr : s.hub.retrain = 0) (he : s.inbox.early = 0)
    (hst : s.curveStatus bs = 0) : ∃ t, exec (.curve ok) s = .next t ∧ t.camp.maxSeq = some (byteField bs 8 8) ∧
      t.camp.pending = s.camp.pending ++ [{ Curve.ofBytes bs with eff := max (byteField bs 16 8) s.time.toNat }] ∧
      t.hub.answers = s.hub.answers ++ [(0, 1, List.replicate 8 0)] ∧ t.inbox.mail = s.inbox.mail.tail := by
  refine ⟨_, congrArg Host.Outcome.next (State.mailbox_runs h (not_retraining hr he false) s.takeCurve), ?_⟩
  have zero := answer_zero
  unfold State.takeCurve
  simp only [hst, ne_eq, not_true, if_false]
  split_ifs <;> exact ⟨rfl, rfl, congrArg (fun x => s.hub.answers ++ [(0, 1, x)]) zero, rfl⟩

theorem exec_curve_refused (ok : Bool) (h : s.mailHead = some (1, bs)) (hr : s.hub.retrain = 0) (he : s.inbox.early = 0)
    (hst : s.curveStatus bs ≠ 0) : ∃ t, exec (.curve ok) s = .next t ∧ t.camp = s.camp ∧
      t.hub.events = s.hub.events ++ [⟨12, s.curveStatus bs, byteField bs 8 8, 0⟩] ∧
      t.hub.answers = s.hub.answers ++ [(0, 1, u16 0 ++ u16 0 ++ u32 (s.curveStatus bs))] := by
  refine ⟨_, congrArg Host.Outcome.next (State.mailbox_runs h (not_retraining hr he false) s.takeCurve), ?_⟩
  unfold State.takeCurve
  rw [if_pos hst]
  exact ⟨rfl, rfl, congrArg (fun x => s.hub.answers ++ [(0, 1, x)]) (List.append_nil _)⟩

theorem exec_curve_retrains (ok : Bool) (h : s.mailHead = some (1, bs)) (hbusy : s.hub.retrain ≠ 0 ∨ s.inbox.early ≠ 0) :
    ∃ t, exec (.curve ok) s = .next t ∧ t.camp = s.camp ∧
      t.hub.events = s.hub.events ∧ t.hub.answers = s.hub.answers ++ [(0, 1, u16 1 ++ u16 0 ++ u32 0)] :=
  ⟨_, congrArg Host.Outcome.next (State.mailbox_retrains h hbusy s.takeCurve), rfl, rfl,
    congrArg (fun x => s.hub.answers ++ [(0, 1, x)]) (List.append_nil _)⟩

end

/-! ### The curve in force -/

section
variable {s : State} {c : Curve}

/-- The point of the curve in force becomes CAP and BAND. -/
theorem State.setPoint_camp (h : s.camp.curve = some c) : s.setPoint.camp = { s.camp with
    cap := (c.pointAt s.time.toNat).1, band := (c.pointAt s.time.toNat).2 } := by
  simp only [State.setPoint, h]

theorem State.setPoint_mem (s : State) : s.setPoint.mem = s.mem := by
  unfold State.setPoint
  split <;> rfl

theorem exec_curveEffective (h : s.nextCurve = some c) : ∃ t, exec .curveEffective s = .next t ∧ t.camp.curve = some c ∧
    t.camp.pending = s.camp.pending.erase c ∧ (t.camp.cap, t.camp.band) = c.pointAt s.time.toNat ∧ t.mem = s.mem := by
  let s1 : State := { s with camp := { s.camp with curve := some c, pending := s.camp.pending.erase c, past := false } }
  have run : exec .curveEffective s = .next s1.setPoint.judgeCap := by
    change execCurveEffective s = _
    rw [execCurveEffective, h]
  obtain ⟨jm, -, -, flag, g, since, jc⟩ := s1.setPoint.judgeCap_eq
  have sc := State.setPoint_camp (s := s1) (c := c) rfl
  refine ⟨_, run, ?_, ?_, ?_, jm.trans s1.setPoint_mem⟩ <;> rw [jc, sc]

theorem exec_curvePointStart (h : s.camp.curve = some c) (hnew : c.pointAt s.time.toNat ≠ (s.camp.cap, s.camp.band)) :
    ∃ t, exec .curvePointStart s = .next t ∧
      (t.camp.cap, t.camp.band) = c.pointAt s.time.toNat ∧ t.camp.curve = some c ∧ t.mem = s.mem := by
  have run : exec .curvePointStart s = .next s.setPoint.judgeCap := by
    change execCurvePointStart s = _
    rw [execCurvePointStart, h]
    exact congrArg Host.Outcome.next (if_neg hnew)
  obtain ⟨jm, -, -, flag, g, since, jc⟩ := s.setPoint.judgeCap_eq
  have sc := State.setPoint_camp h
  refine ⟨_, run, ?_, ?_, jm.trans s.setPoint_mem⟩ <;> rw [jc, sc]
  exact h

theorem exec_curveHorizonEnd (h : s.camp.curve = some c) (hpast : s.camp.past = false) (hend : c.valid + c.horizon ≤
    s.time.toNat) :
    ∃ t, exec .curveHorizonEnd s = .next t ∧
      t.camp.past = true ∧ t.camp.cap = c.floor ∧ t.camp.band = 0 ∧ ⟨13, c.seq, 0, 0⟩ ∈ t.hub.events ∧ t.mem = s.mem := by
  let s1 : State := { s with camp := { s.camp with past := true } }
  have run : exec .curveHorizonEnd s = .next (s1.setPoint.tellHost 13 c.seq 0 0).judgeCap := by
    change execCurveHorizonEnd s = _
    rw [execCurveHorizonEnd, h]
    exact congrArg Host.Outcome.next (if_neg (by simp [hpast, hend]))
  obtain ⟨jm, -, je, flag, g, since, jc⟩ := (s1.setPoint.tellHost 13 c.seq 0 0).judgeCap_eq
  have sc : (s1.setPoint.tellHost 13 c.seq 0 0).camp = { s1.camp with cap := c.floor, band := 0 } := by
    change s1.setPoint.camp = _
    rw [State.setPoint_camp (s := s1) h, show c.pointAt s1.time.toNat = (c.floor, 0) from if_pos hend]
  refine ⟨_, run, ?_, ?_, ?_, je.subset (List.mem_append_right _ (List.mem_singleton.2 rfl)),
    jm.trans s1.setPoint_mem⟩ <;> rw [jc, sc]

end

/-! ### Ahead of a lower point -/

/-- The earlier of the point kept and a further one. -/
def earlier (b : Option (Nat × Nat)) (p : Nat × Nat) : Option (Nat × Nat) :=
  match b with | none => some p | some q => if p.1 < q.1 then some p else some q

theorem foldl_earlier {l : List (Nat × Nat)} : ∀ {b : Option (Nat × Nat)} {p : Nat × Nat}, l.foldl earlier b = some p →
    (p ∈ l ∨ b = some p) ∧ (∀ q ∈ l, p.1 ≤ q.1) ∧ ∀ q, b = some q → p.1 ≤ q.1 := by
  induction l with
  | nil =>
    intro b p h
    obtain rfl : b = some p := h
    exact ⟨.inr rfl, by simp, fun q hq => by cases hq; exact Nat.le_refl _⟩
  | cons x l ih =>
    intro b p h
    obtain ⟨hmem, hall, hkept⟩ := ih (b := earlier b x) h
    rcases b with _ | q
    · have hx := hkept x rfl
      refine ⟨?_, List.forall_mem_cons.2 ⟨hx, hall⟩, by simp⟩
      rcases hmem with h | h
      · exact .inl (List.mem_cons_of_mem x h)
      · cases h; exact .inl (List.mem_cons_self ..)
    · by_cases hq : x.1 < q.1
      · have e : earlier (some q) x = some x := if_pos hq
        rw [e] at hmem hkept
        have hx := hkept x rfl
        refine ⟨?_, List.forall_mem_cons.2 ⟨hx, hall⟩, fun q' h' => by cases h'; omega⟩
        rcases hmem with h | h
        · exact .inl (List.mem_cons_of_mem x h)
        · cases h; exact .inl (List.mem_cons_self ..)
      · have e : earlier (some q) x = some q := if_neg hq
        rw [e] at hmem hkept
        have hx := hkept q rfl
        exact ⟨hmem.imp_left (List.mem_cons_of_mem x), List.forall_mem_cons.2 ⟨by omega, hall⟩,
          fun q' h' => by cases h'; exact hx⟩

/-- The next lower point is the first point of the schedule below the edge in force. -/
theorem State.lowerPoint_first {s : State} {start edge : Nat} (h : s.lowerPoint = some (start, edge)) :
    (start, edge) ∈ s.schedule ∧ edge < s.upperEdge ∧ ∀ q ∈ s.schedule, q.2 < s.upperEdge → start ≤ q.1 := by
  obtain ⟨hmem, hall, -⟩ := foldl_earlier (b := none) (p := (start, edge)) h
  obtain ⟨hs, hlt⟩ := List.mem_filter.1 (hmem.resolve_right (by simp))
  exact ⟨hs, of_decide_eq_true hlt, fun q hq hlow => hall q (List.mem_filter.2 ⟨hq, decide_eq_true hlow⟩)⟩

theorem exec_curvePointLookahead {s : State} {start edge : Nat} (h : s.lowerPoint = some (start, edge)) :
    exec .curvePointLookahead s = .next (if s.time.toNat + 5000000 < start then s
      else if start ≤ s.time.toNat + 100000 then
        (if (s.measures edge true).2 = 3 then (s.measures edge false).1 else (s.measures edge true).1)
      else if (s.measures edge true).2 = 2 then s.askSame (s.measures edge true).1 else s) := by
  change execCurvePointLookahead s = _
  rw [execCurvePointLookahead, h]

/-- Settles O55: curves are judged, come into force, and are looked ahead to. -/
theorem curvesComeIntoForce : Obligations.CurvesComeIntoForce := by
  unfold Obligations.CurvesComeIntoForce
  intro s
  refine ⟨?_, ?_, fun c h => exec_curveEffective h, fun c h => ⟨exec_curvePointStart h, exec_curveHorizonEnd h⟩, ?_, ?_, ?_⟩
  · intro bs ok h hr he
    exact ⟨exec_curve_taken ok h hr he, exec_curve_refused ok h hr he⟩
  · intro bs ok h hbusy
    exact exec_curve_retrains ok h hbusy
  · intro start edge h
    refine ⟨State.lowerPoint_first h, ?_, ?_, ?_, fun w => ?_⟩
    · intro hfar
      rw [exec_curvePointLookahead h, if_pos hfar]
    · intro hpark hnear
      rw [exec_curvePointLookahead h, if_neg (by omega), if_neg (by omega)]
    · intro hlower
      rw [exec_curvePointLookahead h, if_neg (by omega), if_pos hlower]
    · have steers := s.measures_steers edge w
      obtain ⟨flag, hc⟩ := steers.camp
      exact ⟨by rw [hc], steers.mem⟩
  · intro hunder hlow
    exact ⟨_, congrArg Host.Outcome.next (if_neg (by simp [hunder, hlow])), rfl, rfl⟩
  · intro h
    exact congrArg Host.Outcome.next (if_pos (by simpa using h))

end Sys2Proof.Machine
end


section
/-! O57.  Heat. -/
namespace Sys2Proof.Machine

/-! ### Folds over clusters -/

/-- A fold whose step `f` changes only the cluster it is at, by `g`, changes each cluster of its list once. -/
theorem foldl_cluster {P : State → Prop} {f : State → Nat → State} {g : Nat → Cluster → Cluster} (keep : ∀ s c, P s → P (f s c))
    (step : ∀ s c x, P s → (f s c).cluster x = if x = c then g c (s.cluster c) else s.cluster x) (x : Nat) :
    ∀ (l : List Nat) (s : State), l.Nodup → P s →
      (l.foldl f s).cluster x = if x ∈ l then g x (s.cluster x) else s.cluster x := by
  intro l
  induction l with
  | nil => exact fun s _ _ => rfl
  | cons c l ih =>
    intro s hl hs
    obtain ⟨hc, hl⟩ := List.nodup_cons.1 hl
    rw [List.foldl_cons, ih _ hl (keep s c hs), step s c x hs]
    obtain rfl | hx := eq_or_ne x c
    · simp [hc]
    · simp [hx]

theorem mem_dieClusters {d c : Nat} : c ∈ dieClusters d ↔ c / 12 = d := by
  simp only [dieClusters, List.mem_map, List.mem_range]
  constructor
  · rintro ⟨i, hi, rfl⟩
    omega
  · intro h
    exact ⟨c % 12, Nat.mod_lt _ (by omega), by omega⟩

theorem dieClusters_nodup (d : Nat) : (dieClusters d).Nodup :=
  List.nodup_range.map fun _ _ h => Nat.add_left_cancel h

/-! ### Caps of clusters -/

section
variable (k : Clock)
@[simp] theorem Clock.start_therm : k.start.therm = k.therm := by unfold Clock.start; split_ifs <;> rfl
@[simp] theorem Clock.start_opmax : k.start.opmax = k.opmax := by unfold Clock.start; split_ifs <;> rfl
@[simp] theorem Clock.start_sensors : k.start.sensors = k.sensors := by unfold Clock.start; split_ifs <;> rfl
end

/-- What a thermal cap to point `p` makes of a clock. -/
def Clock.capped (k : Clock) (p : Nat) : Clock :=
  ({ k with therm := some (min p (k.therm.getD p)), opmax := min k.opmax p }).aim (min k.target p)

theorem Clock.capped_therm (k : Clock) (p : Nat) : (k.capped p).therm ≠ none := by
  rw [Clock.capped, Clock.aim, Clock.start_therm]
  exact Option.some_ne_none _

theorem Clock.capped_opmax (k : Clock) (p : Nat) : (k.capped p).opmax = min k.opmax p := by
  rw [Clock.capped, Clock.aim, Clock.start_opmax]

theorem State.capCluster_cluster (s : State) (c p x : Nat) :
    (s.capCluster c p).cluster x = if x = c then { s.cluster c with clk := (s.cluster c).clk.capped p } else s.cluster x :=
  s.setClock_cluster c _ x

theorem State.capCluster_kept (s : State) (c p : Nat) : (s.capCluster c p).hub = s.hub ∧ (s.capCluster c p).camp = s.camp ∧
    (s.capCluster c p).mem = s.mem ∧ (s.capCluster c p).dies = s.dies :=
  ⟨s.setClock_hub .., s.setClock_camp .., s.setClock_mem .., s.setClock_dies ..⟩

/-- The point to which a lifted cap lets a clock go back, with no curtailment in force. -/
def State.lifted (s : State) (c : Nat) (k : Clock) : Clock :=
  match (s.tasksOn c).head? with
  | some T => if s.camp.grade = 0 then ({ k with therm := none, opmax := 6 } : Clock).aim (max k.target T.entryOp)
    else { k with therm := none, opmax := 6 }
  | none => { k with therm := none, opmax := 6 }

theorem State.lifted_therm (s : State) (c : Nat) (k : Clock) : (s.lifted c k).therm = none ∧ (s.lifted c k).opmax = 6 := by
  unfold State.lifted
  split
  · split_ifs
    · exact ⟨Clock.start_therm _, Clock.start_opmax _⟩
    · exact ⟨rfl, rfl⟩
  · exact ⟨rfl, rfl⟩

theorem State.uncapCluster_eq (s : State) (c : Nat) : s.uncapCluster c =
    if (s.cluster c).clk.therm.isNone ∨ (s.die (c / 12)).emerg then s else s.setClock c (s.lifted c (s.cluster c).clk) := rfl

theorem State.uncapCluster_cluster (s : State) (c x : Nat) : (s.uncapCluster c).cluster x =
    if x = c then (if (s.cluster c).clk.therm.isNone ∨ (s.die (c / 12)).emerg then s.cluster c
      else { s.cluster c with clk := s.lifted c (s.cluster c).clk }) else s.cluster x := by
  rw [State.uncapCluster_eq]
  split_ifs with h hx hx
  · rw [hx]
  · rfl
  · rw [State.setClock_cluster, if_pos hx]
  · rw [State.setClock_cluster, if_neg hx]

theorem State.uncapCluster_kept (s : State) (c : Nat) : (s.uncapCluster c).hub = s.hub ∧ (s.uncapCluster c).camp = s.camp ∧
    (s.uncapCluster c).mem = s.mem ∧ (s.uncapCluster c).dies = s.dies := by
  rw [State.uncapCluster_eq]
  split_ifs
  · exact ⟨rfl, rfl, rfl, rfl⟩
  · exact ⟨s.setClock_hub .., s.setClock_camp .., s.setClock_mem .., s.setClock_dies ..⟩

/-! ### Notices -/

theorem State.sendOn_kept (s : State) (l kind place : Nat) (bs : List Byte) : (s.sendOn l kind place bs).clusters = s.clusters ∧
    (s.sendOn l kind place bs).dies = s.dies ∧ (s.sendOn l kind place bs).mem = s.mem := by
  unfold State.sendOn
  dsimp only
  split_ifs <;> exact ⟨rfl, rfl, rfl⟩

/-- A notice changes links and what Campion keeps of notices. -/
theorem State.sendNotice_kept (s : State) (g p : Nat) (on : Bool) : (s.sendNotice g p on).clusters = s.clusters ∧
    (s.sendNotice g p on).dies = s.dies ∧ (s.sendNotice g p on).mem = s.mem := by
  unfold State.sendNotice
  split
  · exact ⟨rfl, rfl, rfl⟩
  · exact foldl_rel (R := fun s t : State => t.clusters = s.clusters ∧ t.dies = s.dies ∧ t.mem = s.mem) (fun _ => ⟨rfl, rfl,
      rfl⟩)
      (fun ⟨h1, h2, h3⟩ ⟨k1, k2, k3⟩ => ⟨k1.trans h1, k2.trans h2, k3.trans h3⟩) (fun s m => s.sendOn_kept ..) _ s

theorem sendNotices_kept (l : List Nat) (p : Nat → State → Nat) (on : Bool) (s : State) :
    let t := l.foldl (fun s g => s.sendNotice g (p g s) on) s
    t.clusters = s.clusters ∧ t.dies = s.dies ∧ t.mem = s.mem :=
  foldl_rel (R := fun s t : State => t.clusters = s.clusters ∧ t.dies = s.dies ∧ t.mem = s.mem) (fun _ => ⟨rfl, rfl, rfl⟩)
    (fun ⟨h1, h2, h3⟩ ⟨k1, k2, k3⟩ => ⟨k1.trans h1, k2.trans h2, k3.trans h3⟩) (fun s g => s.sendNotice_kept ..) l s

/-! ### The emergency of a die -/

section
variable {s : State} {d : Nat}

/-- Every cluster of the die is capped two points below where it is or is going. -/
theorem capDie_cluster (x : Nat) : ((dieClusters d).foldl (fun t c => t.capCluster c (min (s.cluster c).clk.op (s.cluster
    c).clk.target - 2)) s).cluster x =
    if x / 12 = d then { s.cluster x with clk := (s.cluster x).clk.capped (min (s.cluster x).clk.op (s.cluster x).clk.target
      - 2) }
    else s.cluster x := by
  rw [foldl_cluster (P := fun _ => True) (g := fun c C => { C with clk := C.clk.capped (min (s.cluster c).clk.op (s.cluster
    c).clk.target - 2) })
    (fun _ _ _ => trivial) (fun t c x _ => t.capCluster_cluster c _ x) x _ s (dieClusters_nodup d) trivial]
  simp only [mem_dieClusters]

theorem capDie_mem : ((dieClusters d).foldl (fun t c => t.capCluster c (min (s.cluster c).clk.op (s.cluster c).clk.target -
    2)) s).mem = s.mem :=
  foldl_keeps State.mem (fun t c => (t.capCluster_kept c _).2.2.1) _ s

theorem exec_thermalEmergency (hd : d < 8) (hb : s.hub.booted = true) (hg : (s.die d).gated = false) (he : (s.die d).emerg =
    false)
    (hhot : s.anyAbove d 105000 = true ∨ (s.die d).dryAt ≠ 0) :
    ∃ t, exec (.thermalEmergency d) s = .next t ∧ (t.die d).emerg = true ∧ t.mem = s.mem ∧
      (∀ c, c / 12 = d → let k := (s.cluster c).clk
        (t.cluster c).clk.therm ≠ none ∧ (t.cluster c).clk.opmax = min k.opmax (min k.op k.target - 2)) ∧
      (∀ c, c / 12 ≠ d → t.cluster c = s.cluster c) := by
  have hnot : ¬((s.die d).gated ∨ (s.die d).emerg ∨ !(s.anyAbove d 105000 || decide ((s.die d).dryAt ≠ 0))) := by
    rcases hhot with h | h <;> simp [hg, he, h]
  let s1 := (dieClusters d).foldl (fun t c => t.capCluster c (min (s.cluster c).clk.op (s.cluster c).clk.target - 2)) s
  have told := sendNotices_kept (s.graphsOn d) (fun g t => ((dieClusters d).filter fun c => t.runsGraph g c).foldl
    (fun p c => min p (min (s.cluster c).clk.op (s.cluster c).clk.target - 2)) 7) true s1
  obtain ⟨t, run, hem, hcl, hm⟩ : ∃ t, exec (.thermalEmergency d) s = .next t ∧ (t.die d).emerg = true ∧
    t.clusters = s1.clusters ∧
      t.mem = s1.mem := by
    refine ⟨s.tooHot d, congrArg Host.Outcome.next (if_pos ⟨hd, hb⟩), ?_⟩
    unfold State.tooHot
    rw [if_neg hnot]
    dsimp only
    split_ifs
    · exact ⟨congrArg Die.emerg (State.die_setDie_same _ d _), told.1, told.2.2⟩
    · exact ⟨congrArg Die.emerg (State.die_setDie_same _ d _), told.1, told.2.2⟩
  have clusters (x : Nat) : t.cluster x = s1.cluster x := congrArg (SMap.get Cluster.reset · x) hcl
  refine ⟨t, run, hem, hm.trans capDie_mem, fun c hc => ?_, fun c hc => ?_⟩
  · dsimp only
    rw [clusters, capDie_cluster, if_pos hc]
    exact ⟨Clock.capped_therm _ _, Clock.capped_opmax _ _⟩
  · rw [clusters, capDie_cluster, if_neg hc]

/-- A fold that lifts caps changes no die, and no byte of memory. -/
theorem uncaps_kept (l : List Nat) (p : Nat → State → Bool) (s : State) :
    let t := l.foldl (fun s c => if p c s then s else s.uncapCluster c) s
    t.dies = s.dies ∧ t.mem = s.mem :=
  foldl_rel (R := fun s t : State => t.dies = s.dies ∧ t.mem = s.mem) (fun _ => ⟨rfl, rfl⟩)
    (fun ⟨h1, h2⟩ ⟨k1, k2⟩ => ⟨k1.trans h1, k2.trans h2⟩) (fun s c => by
      split_ifs
      · exact ⟨rfl, rfl⟩
      · exact ⟨(s.uncapCluster_kept c).2.2.2, (s.uncapCluster_kept c).2.2.1⟩) l s

theorem exec_thermalEmergencyEnd (hd : d < 8) (he : (s.die d).emerg = true)
    (hcool : heldSince (s.die d).coolAt s.time.toNat 10000000 = true) :
    ∃ t, exec (.thermalEmergencyEnd d) s = .next t ∧ (t.die d).emerg = false ∧ (t.die d).notified = [] ∧ t.mem = s.mem := by
  let calm : State := s.setDie d { s.die d with emerg := false, notified := [] }
  have notices := sendNotices_kept (s.die d).notified (fun _ _ => 0) false calm
  obtain ⟨hdies, hmem⟩ := uncaps_kept (dieClusters d) (fun c t => (s.die d).notified.any fun g => t.runsGraph g c)
    ((s.die d).notified.foldl (fun s g => s.sendNotice g 0 false) calm)
  have hnot : ¬(!(s.die d).emerg ∨ !heldSince (s.die d).coolAt s.time.toNat 10000000) := by simp [he, hcool]
  have run : exec (.thermalEmergencyEnd d) s = .next (s.coolAgain d) := congrArg Host.Outcome.next (if_pos hd)
  have die : (s.coolAgain d).die d = { s.die d with emerg := false, notified := [] } := by
    rw [State.coolAgain, if_neg hnot]
    exact (congrArg (SMap.get Die.reset · d) (hdies.trans notices.2.1)).trans (State.die_setDie_same s d _)
  have mem : (s.coolAgain d).mem = s.mem := by
    rw [State.coolAgain, if_neg hnot]
    exact hmem.trans notices.2.2
  exact ⟨_, run, by rw [die], by rw [die], mem⟩

end

/-! ### Severe heat -/

/-- What asking a task to park makes of the tasks. -/
theorem State.askTask_task (s : State) (t q : Nat) :
    (s.askTask t).task q = if q = t then (s.task q).map fun T => { T with preempt := true } else s.task q := by
  unfold State.askTask
  split
  · rename_i T h
    rw [State.task_setTask]
    split_ifs with hq
    · rw [hq, h]; rfl
    · rfl
  · rename_i h
    split_ifs with hq
    · rw [hq, h]; rfl
    · rfl

/-- Of a list of tasks asked to park, each is asked. -/
theorem askAll_task (l : List (Nat × Task)) : ∀ (s : State) (q : Nat) (T : Task), s.task q = some T →
    (T.preempt = true ∨ ∃ x ∈ l, x.1 = q) → ∃ T1, (l.foldl (fun s x => s.askTask x.1) s).task q = some T1 ∧
      T1.preempt = true := by
  induction l with
  | nil => exact fun s q T h hp => ⟨T, h, hp.resolve_right (by simp)⟩
  | cons x l ih =>
    intro s q T h hp
    have hx := s.askTask_task x.1 q
    rw [h] at hx
    by_cases hq : q = x.1
    · rw [if_pos hq] at hx
      exact ih _ q _ hx (.inl rfl)
    · rw [if_neg hq] at hx
      refine ih _ q T hx (hp.imp_right ?_)
      rintro ⟨y, hy, rfl⟩
      rcases List.mem_cons.1 hy with rfl | hy
      · exact absurd rfl hq
      · exact ⟨y, hy, rfl⟩

/-- What a key reads as, where it is not the default, is listed. -/
theorem SMap.mem_of_get {α : Type} {d v : α} {m : SMap α} {k : Nat} (h : SMap.get d m k = v) (hv : v ≠ d) : (k, v) ∈ m := by
  induction m with
  | nil => exact absurd h.symm hv
  | cons e m ih =>
    obtain ⟨k', v'⟩ := e
    rw [SMap.get] at h
    split_ifs at h with hk
    · rw [hk, h]
      exact List.mem_cons_self ..
    · exact List.mem_cons_of_mem _ (ih h)

theorem State.mem_tasks {s : State} {q : Nat} {T : Task} (h : s.task q = some T) : (q, some T) ∈ s.hub.tasks :=
  SMap.mem_of_get h (Option.some_ne_none T)

theorem State.mem_tasksOnDie {s : State} {d q : Nat} {T : Task} (h : s.task q = some T) (hd : ∃ u ∈ T.units, u / 96 = d) :
    (q, T) ∈ s.tasksOnDie d := by
  obtain ⟨u, hu, hd⟩ := hd
  refine List.mem_filterMap.2 ⟨_, State.mem_tasks h, if_pos ?_⟩
  exact List.any_eq_true.2 ⟨u, hu, decide_eq_true hd⟩

theorem exec_thermalSevere {s : State} {d : Nat} (hd : d < 8) (hb : s.hub.booted = true) (hg : (s.die d).gated = false)
    (hsv : (s.die d).severe = false) (hheat : s.severeHeat d = true) :
    ∃ t, exec (.thermalSevere d) s = .next t ∧ (t.die d).severe = true ∧ t.mem = s.mem ∧
      t.hub.service = s.hub.service ++ [⟨3, d, 0, 0⟩] ∧
      (∀ q T, s.task q = some T → (∃ u ∈ T.units, u / 96 = d) → ∃ T1, t.task q = some T1 ∧ T1.preempt = true) := by
  have run : exec (.thermalSevere d) s = .next _ := congrArg Host.Outcome.next (if_neg (by simp [hg, hsv, hheat, hb]; omega))
  have steers : s.Steers ((s.tasksOnDie d).foldl (fun s q => s.askTask q.1) s) :=
    .foldl (fun s (q : Nat × Task) => s.askTask_steers q.1) _ s
  refine ⟨_, run, congrArg Die.severe (State.die_setDie_same _ d _), steers.mem, congrArg (· ++ [_]) steers.service, ?_⟩
  intro q T hq hT
  exact askAll_task (s.tasksOnDie d) s q T hq (.inr ⟨_, State.mem_tasksOnDie hq hT, rfl⟩)

/-! ### Notices at their beat -/

/-- A notice that begins a cap, at one cluster. -/
def State.beginCap (g p : Nat) (s : State) (c : Nat) : State :=
  if s.runsGraph g c then (if s.guarOn c then (s.capCluster c p).tellHost 10 (c / 12) c 0 else s.capCluster c p) else s

/-- A notice that ends a cap, at one cluster. -/
def State.endCap (g : Nat) (s : State) (c : Nat) : State :=
  if s.runsGraph g c = true ∨ s.tasksOn c = [] then s.uncapCluster c else s

theorem exec_thermalCapBeat {s : State} {i g p beat : Nat} {on : Bool} (h : s.camp.notices[i]? = some (g, p, beat, on))
    (hbeat : beat ≤ s.time.toNat) : exec (.thermalCapBeat i) s = .next ((List.range 96).foldl
      (if on then State.beginCap g p else State.endCap g) { s with camp := { s.camp with notices := s.camp.notices.eraseIdx i
        } }) := by
  have run : exec (.thermalCapBeat i) s = .next (s.capBeat i) := rfl
  rw [run, State.capBeat, h]
  dsimp only
  rw [if_neg (by omega)]
  cases on
  · congr 2
    funext s c
    by_cases hg : s.runsGraph g c = true <;> simp [State.endCap, hg]
  · congr 2

/-- What both leave of the state: the hub's tasks, the dies, memory and Campion. -/
def State.BeatKept (s t : State) : Prop := t.hub.tasks = s.hub.tasks ∧ t.camp = s.camp ∧ t.mem = s.mem ∧ t.dies = s.dies

theorem State.beginCap_kept (g p : Nat) (s : State) (c : Nat) : s.BeatKept (s.beginCap g p c) := by
  obtain ⟨hh, hc, hm, hd⟩ := s.capCluster_kept c p
  unfold State.beginCap
  split_ifs
  · exact ⟨by rw [← hh]; rfl, hc, hm, hd⟩
  · exact ⟨congrArg Hub.tasks hh, hc, hm, hd⟩
  · exact ⟨rfl, rfl, rfl, rfl⟩

theorem State.endCap_kept (g : Nat) (s : State) (c : Nat) : s.BeatKept (s.endCap g c) := by
  obtain ⟨hh, hc, hm, hd⟩ := s.uncapCluster_kept c
  unfold State.endCap
  split_ifs
  · exact ⟨congrArg Hub.tasks hh, hc, hm, hd⟩
  · exact ⟨rfl, rfl, rfl, rfl⟩

theorem State.BeatKept.trans {s t r : State} (h : s.BeatKept t) (k : t.BeatKept r) : s.BeatKept r :=
  ⟨k.1.trans h.1, k.2.1.trans h.2.1, k.2.2.1.trans h.2.2.1, k.2.2.2.trans h.2.2.2⟩

theorem State.BeatKept.foldl {f : State → Nat → State} (step : ∀ s c, State.BeatKept s (f s c)) (l : List Nat) (s : State) :
    s.BeatKept (l.foldl f s) := foldl_rel (R := State.BeatKept) (fun _ => ⟨rfl, rfl, rfl, rfl⟩) .trans step l s

theorem State.BeatKept.tasksOn {s t : State} (h : s.BeatKept t) (c : Nat) : t.tasksOn c = s.tasksOn c := by
  unfold State.tasksOn; rw [h.1]

theorem State.BeatKept.runsGraph {s t : State} (h : s.BeatKept t) (g c : Nat) : t.runsGraph g c = s.runsGraph g c := by
  unfold State.runsGraph; rw [h.tasksOn]

theorem State.BeatKept.emerg {s t : State} (h : s.BeatKept t) (d : Nat) : (t.die d).emerg = (s.die d).emerg :=
  congrArg (fun m => (SMap.get Die.reset m d).emerg) h.2.2.2

/-- The clusters after a notice begins its cap. -/
theorem beginCaps_cluster (g p : Nat) (s : State) {c : Nat} (hc : c < 96) : ((List.range 96).foldl (State.beginCap g p)
    s).cluster c =
    if s.runsGraph g c then { s.cluster c with clk := (s.cluster c).clk.capped p } else s.cluster c := by
  rw [foldl_cluster (P := s.BeatKept) (g := fun c C => if s.runsGraph g c then { C with clk := C.clk.capped p } else C)
    (fun t c h => h.trans (State.beginCap_kept g p t c)) ?_ c _ s List.nodup_range ⟨rfl, rfl, rfl, rfl⟩,
      if_pos (List.mem_range.2 hc)]
  intro t c x h
  unfold State.beginCap
  rw [h.runsGraph]
  split_ifs with hg hgu hx hx hx
  · exact (t.capCluster_cluster c p x).trans (if_pos hx)
  · exact (t.capCluster_cluster c p x).trans (if_neg hx)
  · exact (t.capCluster_cluster c p x).trans (if_pos hx)
  · exact (t.capCluster_cluster c p x).trans (if_neg hx)
  · rw [hx]
  · rfl

/-- The clusters after a notice ends its cap. -/
theorem endCaps_cluster (g : Nat) (s : State) {c : Nat} (hc : c < 96) : ((List.range 96).foldl (State.endCap g) s).cluster c =
    if (s.runsGraph g c = true ∨ s.tasksOn c = []) ∧ ¬((s.cluster c).clk.therm.isNone ∨ (s.die (c / 12)).emerg) then
      { s.cluster c with clk := s.lifted c (s.cluster c).clk } else s.cluster c := by
  rw [foldl_cluster (P := s.BeatKept) (g := fun c C =>
    if (s.runsGraph g c = true ∨ s.tasksOn c = []) ∧ ¬(C.clk.therm.isNone ∨ (s.die (c / 12)).emerg) then
      { C with clk := s.lifted c C.clk } else C)
    (fun t c h => h.trans (State.endCap_kept g t c)) ?_ c _ s List.nodup_range ⟨rfl, rfl, rfl, rfl⟩,
      if_pos (List.mem_range.2 hc)]
  intro t c x h
  have hl : t.lifted c (t.cluster c).clk = s.lifted c (t.cluster c).clk := by
    unfold State.lifted
    rw [h.tasksOn, h.2.1]
  unfold State.endCap
  rw [h.runsGraph, h.tasksOn]
  by_cases hg : s.runsGraph g c = true ∨ s.tasksOn c = []
  · rw [if_pos hg, t.uncapCluster_cluster, h.emerg, hl]
    simp only [hg, true_and, ite_not]
  · rw [if_neg hg]
    obtain rfl | hx := eq_or_ne x c
    · exact ((if_pos rfl).trans (if_neg fun k => hg k.1)).symm
    · exact (if_neg hx).symm

/-! ### Sensors -/

theorem State.lower_clk (s : State) (c q x : Nat) : ((s.lower c q).cluster x).clk.sensors = (s.cluster x).clk.sensors := by
  unfold State.lower State.aimCluster
  split_ifs
  · rw [State.setClock_cluster]
    split_ifs with h
    · rw [h]
      exact Clock.start_sensors _
    · rfl
  · rfl

theorem State.powerCap_sensors (s : State) (c x : Nat) : ((s.powerCap c).cluster x).clk.sensors = (s.cluster x).clk.sensors
    := by
  rw [State.powerCap, State.lower_clk, State.setClock_cluster]
  split_ifs with h
  · rw [h]
  · rfl

section
variable {s : State} {c : Nat}

theorem exec_sensorFail (hc : c < 96) (hb : s.hub.booted = true) : exec (.sensorFail c) s = .next (s.sensorFails c) :=
  congrArg Host.Outcome.next (if_pos ⟨hc, hb⟩)

theorem sensorFails_none (h : ∀ i, i < 8 → i ∈ (s.cluster c).clk.sensors ∨ s.sensorBad c i = false) : s.sensorFails c = s := by
  unfold State.sensorFails
  have none_ : (List.range 8).find? (fun i => !(s.cluster c).clk.sensors.contains i && s.sensorBad c i) = none := by
    rw [List.find?_eq_none]
    intro i hi
    rcases h i (List.mem_range.1 hi) with h | h <;> simp [h]
  dsimp only
  rw [none_]

/-- The first sensor of a list of numbers below `n` that a test finds. -/
theorem find?_range_first {n i : Nat} {p : Nat → Bool} (hi : i < n) (hp : p i = true) (hno : ∀ j, j < i → p j = false) :
    (List.range n).find? p = some i := by
  rw [List.find?_range_eq_some]
  exact ⟨hp, List.mem_range.2 hi, fun j hj => by simp [hno j hj]⟩

theorem sensorFails_first {i : Nat} (hi : i < 8) (hnew : i ∉ (s.cluster c).clk.sensors) (hbad : s.sensorBad c i = true)
    (hfirst : ∀ j, j < i → j ∈ (s.cluster c).clk.sensors ∨ s.sensorBad c j = false) :
    let s1 := s.setClock c { (s.cluster c).clk with sensors := (s.cluster c).clk.sensors ++ [i] }
    s.sensorFails c = if (s.cluster c).clk.sensors.length = 2 then (s1.powerCap c).service 6 c else s1 := by
  unfold State.sensorFails
  dsimp only
  rw [find?_range_first hi (by simp [hnew, hbad]) (fun j hj => by rcases hfirst j hj with h | h <;> simp [h])]

theorem sensorFail_marks {i : Nat} (hc : c < 96) (hb : s.hub.booted = true) (hi : i < 8) (hnew : i ∉ (s.cluster c).clk.sensors)
    (hbad : s.sensorBad c i = true) (hfirst : ∀ j, j < i → j ∈ (s.cluster c).clk.sensors ∨ s.sensorBad c j = false) :
    let k := (s.cluster c).clk
    ∃ t, exec (.sensorFail c) s = .next t ∧ (t.cluster c).clk.sensors = k.sensors ++ [i] ∧ t.mem = s.mem ∧
      (k.sensors.length ≠ 2 → (t.cluster c).clk.scap = k.scap ∧ t.hub.service = s.hub.service) ∧
      (k.sensors.length = 2 → (t.cluster c).clk.scap = true ∧ t.hub.service = s.hub.service ++ [⟨6, c, 0, 0⟩]) := by
  intro k
  have run := (exec_sensorFail hc hb).trans (congrArg Host.Outcome.next (sensorFails_first hi hnew hbad hfirst))
  have mine : ((s.setClock c { k with sensors := k.sensors ++ [i] }).cluster c).clk = { k with sensors := k.sensors ++ [i] }
    := by
    rw [State.setClock_cluster, if_pos rfl]
  have st := s.setClock_steers c { k with sensors := k.sensors ++ [i] }
  dsimp only at run
  change exec (.sensorFail c) s = .next (if k.sensors.length = 2 then
    ((s.setClock c { k with sensors := k.sensors ++ [i] }).powerCap c).service 6 c
      else s.setClock c { k with sensors := k.sensors ++ [i] }) at run
  generalize s.setClock c { k with sensors := k.sensors ++ [i] } = s1 at run mine st
  by_cases hlen : k.sensors.length = 2
  · rw [if_pos hlen] at run
    have st2 := s1.powerCap_steers c
    have hs := s1.powerCap_sensors c c
    have hcap := s1.powerCap_scap c c
    rw [mine] at hs
    rw [if_pos rfl] at hcap
    generalize s1.powerCap c = s2 at run st2 hs hcap
    exact ⟨_, run, hs, st2.mem.trans st.mem, fun h => absurd hlen h,
      fun _ => ⟨hcap, congrArg (· ++ [_]) (st2.service.trans st.service)⟩⟩
  · rw [if_neg hlen] at run
    exact ⟨_, run, by rw [mine], st.mem, fun _ => ⟨by rw [mine], st.service⟩, fun h => absurd h hlen⟩

end

/-- Settles O57: emergencies, notices and failed sensors, cluster by cluster. -/
theorem heatCapsClusters : Obligations.HeatCapsClusters := by
  unfold Obligations.HeatCapsClusters
  intro s
  refine ⟨?_, ?_, ?_, ?_, ?_, ?_, ?_, ?_⟩
  · intro d lim hd hb
    exact congrArg Host.Outcome.next (if_pos ⟨hd, hb⟩)
  · intro d hd hb hg he hhot
    exact exec_thermalEmergency hd hb hg he hhot
  · intro d hd he hcool
    exact exec_thermalEmergencyEnd hd he hcool
  · intro d hd hb hg hsv hheat
    exact exec_thermalSevere hd hb hg hsv hheat
  · intro n rest h
    change ∃ t, execSlowdownNotice s = .next t ∧ _
    rw [execSlowdownNotice, h]
    exact ⟨_, rfl, rfl, rfl, rfl⟩
  · intro i g p beat h hbeat
    have kept := State.BeatKept.foldl (State.beginCap_kept g p) (List.range 96)
      { s with camp := { s.camp with notices := s.camp.notices.eraseIdx i } }
    have run := exec_thermalCapBeat h hbeat
    rw [if_pos rfl] at run
    refine ⟨_, run, by rw [kept.2.1], kept.2.2.1, fun c hc hg => ?_, fun c hc hg => ?_⟩
    · have hcl := (beginCaps_cluster g p { s with camp := { s.camp with notices := s.camp.notices.eraseIdx i } } hc).trans
        (if_pos hg)
      rw [hcl]
      exact ⟨Clock.capped_therm _ _, Clock.capped_opmax _ _⟩
    · exact (beginCaps_cluster g p _ hc).trans (if_neg (by rw [Bool.not_eq_true]; exact hg))
  · intro i g p beat h hbeat
    have kept := State.BeatKept.foldl (State.endCap_kept g) (List.range 96)
      { s with camp := { s.camp with notices := s.camp.notices.eraseIdx i } }
    have run := exec_thermalCapBeat h hbeat
    rw [if_neg Bool.false_ne_true] at run
    refine ⟨_, run, by rw [kept.2.1], kept.2.2.1, fun c hc hg hem => ?_, fun c hc hg => ?_⟩
    · have hcl := endCaps_cluster g { s with camp := { s.camp with notices := s.camp.notices.eraseIdx i } } hc
      by_cases hno : (s.cluster c).clk.therm = none
      · have same := hcl.trans (if_neg (by rintro ⟨-, h⟩; exact h (.inl (Option.isNone_iff_eq_none.2 hno))))
        rw [same]
        exact ⟨hno, fun h => absurd hno h⟩
      · have lift := hcl.trans (if_pos ⟨hg, by
          rintro (h | h)
          · exact hno (Option.isNone_iff_eq_none.1 h)
          · exact absurd (hem.symm.trans h) (by decide)⟩)
        obtain ⟨h1, h2⟩ := State.lifted_therm { s with camp := { s.camp with notices := s.camp.notices.eraseIdx i } } c
          (s.cluster c).clk
        rw [lift]
        exact ⟨h1, fun _ => h2⟩
    · refine (endCaps_cluster g _ hc).trans (if_neg ?_)
      rintro ⟨h1, h2⟩
      rcases hg with ⟨hr, ht⟩ | hem
      · rcases h1 with h1 | h1
        · exact absurd (h1.symm.trans hr) (by decide)
        · exact ht h1
      · exact h2 (.inr hem)
  · intro c hc hb k
    refine ⟨fun h => (exec_sensorFail hc hb).trans (congrArg Host.Outcome.next (sensorFails_none h)), ?_⟩
    intro i hi hnew hbad hfirst
    exact sensorFail_marks hc hb hi hnew hbad hfirst

end Sys2Proof.Machine
end


section
/-! O59.  The mailbox, the host and the resets. -/
namespace Sys2Proof.Machine

/-! ### Mailbox commands -/

section
variable {s : State} {bs : List Byte}

/-- A command without data that leaves the answers is answered with its status. -/
theorem mailAnswer_answers (s : State) (cmd mbst status : Nat) :
    (s.mailAnswer cmd mbst status []).hub.answers = s.hub.answers ++ [(0, cmd, u16 mbst ++ u16 0 ++ u32 status)] := by
  change s.hub.answers ++ [(0, cmd, u16 mbst ++ u16 0 ++ u32 status ++ [])] = _
  rw [List.append_nil]

theorem exec_register (h : s.mailHead = some (2, bs)) :
    exec .register s = .next ((s.registerCmd bs).1.mailAnswer 2 0 (s.registerCmd bs).2.1 (s.registerCmd bs).2.2) :=
  congrArg Host.Outcome.next (State.mailbox_runs h (by simp) s.registerCmd)

/-- What REGISTER makes of a description. -/
theorem registerCmd_cases (s : State) (bs : List Byte) :
    let kind := byteField bs 0 4
    let full := (if kind = 1 then 16 else 1) ≤ (s.hub.regs.filter fun r => decide (r.kind = kind)).length
    let bad := s.regBad kind (byteField bs 4 4) (byteField bs 8 8) (byteField bs 0x10 4) (byteField bs 0x14 4) (byteField bs
      0x18 8)
    ((kind = 0 ∨ 8 ≤ kind) → s.registerCmd bs = (s, 3, [])) ∧
    (1 ≤ kind → kind < 8 → full → s.registerCmd bs = (s, 1, [])) ∧
    (1 ≤ kind → kind < 8 → ¬ full → bad = true → s.registerCmd bs = (s, 2, [])) ∧
    (1 ≤ kind → kind < 8 → ¬ full → bad = false → s.registerCmd bs = ({ s with hub := { s.hub with regs := s.hub.regs ++
      [⟨kind, byteField bs 4 4, byteField bs 8 8, byteField bs 0x10 4, byteField bs 0x18 8, 0, 0, 0, false⟩] } }, 0, [])) := by
  refine ⟨fun h => ?_, fun h1 h8 hf => ?_, fun h1 h8 hf hb => ?_,
    fun h1 h8 hf hb => ?_⟩ <;> unfold State.registerCmd <;> dsimp only
  · rw [if_pos h]
  · rw [if_neg (by omega), if_pos hf]
  · rw [if_neg (by omega), if_neg hf, if_pos hb]
  · rw [if_neg (by omega), if_neg hf, if_neg (by rw [hb]; exact Bool.false_ne_true)]

/-- The parts of the report. -/
theorem attestCmd_eq (s : State) (bs : List Byte) : ∃ seq retired sig : Nat, s.attestCmd bs =
    (s, 0, u64 Config.serial.toNat ++ toBytes 64 Config.firmwareDigest ++ u64 seq ++ u32 retired ++ toBytes 16 (byteField bs
      0 16)
      ++ toBytes 132 sig) := ⟨_, _, _, rfl⟩

/-- The bytes behind a first part and before the rest. -/
theorem take_drop_middle {α : Type} {a b c : List α} {n m : Nat} (ha : a.length = n) (hb : b.length = m) :
    ((a ++ (b ++ c)).drop n).take m = b := by
  rw [List.drop_left' ha, List.take_left' hb]

theorem exec_attest (h : s.mailHead = some (3, bs)) : ∃ t rep, exec .attest s = .next t ∧
    t.hub.answers = s.hub.answers ++ [(0, 3, rep)] ∧ rep.length = 240 ∧
    (rep.drop 92).take 16 = toBytes 16 (byteField bs 0 16) ∧ t.mem = s.mem ∧ t.inbox.mail = s.inbox.mail.tail := by
  obtain ⟨seq, retired, sig, hcmd⟩ := attestCmd_eq s bs
  have run : exec .attest s = .next _ := congrArg Host.Outcome.next (State.mailbox_runs h (by simp) s.attestCmd)
  rw [hcmd] at run
  refine ⟨_, _, run, rfl, by simp [u16, u32, u64], ?_, rfl, rfl⟩
  rw [show ∀ a b c d e f g i j : List Byte,
    a ++ b ++ c ++ (d ++ e ++ f ++ g ++ i ++ j) = (a ++ b ++ c ++ d ++ e ++ f ++ g) ++ (i ++ j) by
    intros; simp only [List.append_assoc]]
  exact take_drop_middle (by simp [u16, u32, u64]) (toBytes_length _ _)

theorem exec_keyset_good {ok : Bool} (h : s.mailHead = some (4, bs)) (hr : s.hub.retrain = 0) (he : s.inbox.early = 0)
    (good : ∀ k, s.hub.facKey = some k → Config.sigValid k (bs.take (bs.length - 132)) (bs.drop (bs.length - 132)) = true) :
    ∃ t, exec (.keyset ok) s = .next t ∧ t.hub.facKey = some (bs.take (bs.length - 132)) ∧ t.mem = s.mem ∧
      t.hub.answers = s.hub.answers ++ [(0, 4, List.replicate 8 0)] := by
  have cmd : s.keysetCmd bs = ({ s with hub := { s.hub with facKey := some (bs.take (bs.length - 132)) } }, 0, []) := by
    unfold State.keysetCmd
    split
    · rename_i k hk
      exact if_pos (good k hk)
    · rfl
  have run : exec (.keyset ok) s = .next _ := congrArg Host.Outcome.next (State.mailbox_runs h (not_retraining hr he false)
    s.keysetCmd)
  rw [cmd] at run
  exact ⟨_, run, rfl, rfl, congrArg (fun x => s.hub.answers ++ [(0, 4, x)]) answer_zero⟩

theorem exec_keyset_bad {ok : Bool} (h : s.mailHead = some (4, bs)) (hr : s.hub.retrain = 0) (he : s.inbox.early = 0)
    (bad : ¬ ∀ k, s.hub.facKey = some k → Config.sigValid k (bs.take (bs.length - 132)) (bs.drop (bs.length - 132)) = true) :
    ∃ t, exec (.keyset ok) s = .next t ∧ t.hub.facKey = s.hub.facKey ∧ t.mem = s.mem := by
  have cmd : s.keysetCmd bs = (s, 1, []) := by
    unfold State.keysetCmd
    split
    · rename_i k hk
      refine if_neg fun hv => bad fun k' hk' => ?_
      rw [hk] at hk'
      cases hk'
      exact hv
    · rename_i hk
      exact absurd (fun k hk' => by rw [hk] at hk'; cases hk') bad
  have run : exec (.keyset ok) s = .next _ := congrArg Host.Outcome.next (State.mailbox_runs h (not_retraining hr he false)
    s.keysetCmd)
  rw [cmd] at run
  exact ⟨_, run, rfl, rfl⟩

end

/-! ### Host accesses -/

section
variable {s : State} {id key n : Nat} {w : Bool} {bs : List Byte}

/-- A host access that reaches its memory. -/
theorem State.hostAccess_of_reaches (h : s.inbox.host.find? (fun q => q.1 = id) = some (id, w, key, n,
    bs)) (hr : s.hostReaches key = true)
    (hreg : keyRegion key ≤ 2) (hok : physOk (keyRegion key) (keyOff key + n - 1) = true) :
    let s0 : State := { s with inbox := { s.inbox with host := s.inbox.host.filter fun q => q.1 ≠ id } }
    s.hostAccess id = if w then (s0.writeMem 0 4 key (bs.take n) false).answer 1 id []
      else if s.mem.poisonFor .system key n then s0.answer 4 id [] else (s0.touch key).answer 1 id (s.mem.read .system key n)
        := by
  intro s0
  rw [State.hostAccess, h]
  dsimp only
  rw [if_neg (by rw [hr]; decide), if_neg (by simp [hok, hreg])]

theorem exec_hostWrite (h : s.inbox.host.find? (fun q => q.1 = id) = some (id, true, key, n,
    bs)) (hr : s.hostReaches key = true)
    (hreg : keyRegion key ≤ 2) (hok : physOk (keyRegion key) (keyOff key + n - 1) = true) :
    ∃ t, exec (.hostMemoryAccess id) s = .next t ∧
      (∀ v j, j < min n bs.length → t.mem.byte v (key + j) = bs.getD j 0) ∧
      (∀ v a, (a < key ∨ key + n ≤ a) → t.mem.byte v a = s.mem.byte v a) ∧
      t.hub.answers = s.hub.answers ++ [(1, id, [])] := by
  have run : exec (.hostMemoryAccess id) s = .next _ :=
    congrArg Host.Outcome.next ((State.hostAccess_of_reaches h hr hreg hok).trans (if_pos rfl))
  refine ⟨_, run, fun v j hj => ?_, fun v a ha => ?_, congrArg (· ++ [_]) (State.writeMem_written ..).answers⟩
  · change (s.mem.writeTag 0 4 key (bs.take n) false).byte v (key + j) = _
    rw [Mem.byte_writeTag_widest _ _ _ _ _ _ (by rw [List.length_take]; omega), Nat.add_sub_cancel_left]
    simp only [List.getD_eq_getElem?_getD, List.getElem?_take]
    rw [if_pos (by omega)]
  · change (s.mem.writeTag 0 4 key (bs.take n) false).byte v a = _
    exact Mem.byte_writeTag_outside _ _ _ _ _ _ _ (by rw [List.length_take]; omega)

theorem exec_hostRead (h : s.inbox.host.find? (fun q => q.1 = id) = some (id, false, key, n,
    bs)) (hr : s.hostReaches key = true)
    (hreg : keyRegion key ≤ 2) (hok : physOk (keyRegion key) (keyOff key + n - 1) = true) :
    ∃ t, exec (.hostMemoryAccess id) s = .next t ∧ t.mem = s.mem ∧ t.hub.answers = s.hub.answers ++
      [if s.mem.poisonFor .system key n then (4, id, []) else (1, id, s.mem.read .system key n)] := by
  have run : exec (.hostMemoryAccess id) s = .next _ :=
    congrArg Host.Outcome.next ((State.hostAccess_of_reaches h hr hreg hok).trans (if_neg Bool.false_ne_true))
  refine ⟨_, run, ?_⟩
  split_ifs
  · exact ⟨rfl, rfl⟩
  · exact ⟨State.touch_mem _ _, congrArg (· ++ [_]) (State.Written.of_hot (State.touch_same _ key)).answers⟩

end

/-! ### Resets -/

/-- What holds of the default and of every value listed holds of what a key reads as. -/
theorem SMap.get_of_all {α : Type} {P : α → Prop} {d : α} {m : SMap α} (hd : P d) (h : ∀ e ∈ m,
    P e.2) (k : Nat) : P (SMap.get d m k) := by
  induction m with
  | nil => exact hd
  | cons e m ih =>
    rw [SMap.get]
    split_ifs
    · exact h e (List.mem_cons_self ..)
    · exact ih fun x hx => h x (List.mem_cons_of_mem e hx)

/-- A unit that a reset has kept is as after reset, but for its mark and its counts. -/
theorem keptUnits_get (warm : Bool) (m : SMap UnitSt) (u : Nat) : ∃ b n l, (warm = false → n = 0 ∧ l = []) ∧
    SMap.get UnitSt.reset (keptUnits warm m) u = { UnitSt.reset with retiredMark := b, mcCount := n, mchecks := l } := by
  refine SMap.get_of_all (P := fun U => ∃ b n l, (warm = false → n = 0 ∧ l = []) ∧
    U = { UnitSt.reset with retiredMark := b, mcCount := n, mchecks := l }) ⟨false, 0, [], fun _ => ⟨rfl, rfl⟩, rfl⟩ ?_ u
  intro e he
  obtain ⟨q, -, rfl⟩ := List.mem_map.1 he
  refine ⟨_, _, _, ?_, rfl⟩
  rintro rfl
  exact ⟨rfl, rfl⟩

theorem exec_coldReset (s : State) : ∃ t, exec .coldReset s = .next t ∧ t.time = 0 ∧ t.clusters = [] ∧ t.dies = [] ∧
    t.hub.graphs = [] ∧
    t.hub.tasks = [] ∧ t.hub.regs = [] ∧ t.hub.tapes = [] ∧ t.camp = Campion.reset ∧
    (∀ u, ∃ b, t.unit u = { UnitSt.reset with retiredMark := b }) ∧
    (∀ v a, keyRegion a ≠ 3 → keyRegion a ≠ 4 → t.mem.byte v a = 0) := by
  refine ⟨s.coldReset, rfl, rfl, rfl, rfl, rfl, rfl, rfl, rfl, rfl, fun u => ?_, fun v a h3 h4 => ?_⟩
  · obtain ⟨b, n, l, hz, h⟩ := keptUnits_get false s.units u
    obtain ⟨rfl, rfl⟩ := hz rfl
    exact ⟨b, h⟩
  · change SMap.get 0 (s.mem.bytes.filter fun e => decide (keyRegion e.1 = 3) || decide (keyRegion e.1 = 4)) a = 0
    rw [SMap.get_filter 0 s.mem.bytes (fun k => decide (keyRegion k = 3) || decide (keyRegion k = 4)), if_neg (by simp [h3,
      h4])]

theorem exec_warmReset (s : State) : ∃ t, exec .warmReset s = .next t ∧ t.time = s.time ∧ t.hub.lock = false ∧
    t.hub.retrain = 1 ∧
    t.hub.graphs = [] ∧ t.hub.tasks = [] ∧ t.hub.events = s.hub.events ++ [⟨18, 0, 0, 0⟩] ∧ t.camp.grade = 0 ∧
    (∀ u, (t.unit u).run = .free ∧ (t.unit u).regs = Regs.reset) ∧ (∀ l, l < 16 → (t.link l).lanes = 0) := by
  refine ⟨s.warmReset, rfl, rfl, rfl, rfl, rfl, rfl, rfl, rfl, fun u => ?_, ?_⟩
  · obtain ⟨b, n, l, -, h⟩ := keptUnits_get true s.units u
    have hu : s.warmReset.unit u = _ := h
    rw [hu]
    exact ⟨rfl, rfl⟩
  · change ∀ l, l < 16 → (SMap.get Link.reset ((List.range 16).map fun l => (l, { Link.reset with lanes := 0 })) l).lanes = 0
    decide

/-- Settles O59: what the mailbox answers, what a host access does, and what the resets leave. -/
theorem mailboxAndHostAreAnswered : Obligations.MailboxAndHostAreAnswered := by
  unfold Obligations.MailboxAndHostAreAnswered
  refine ⟨fun s => ⟨?_, fun bs h => exec_attest h, ?_, ?_, ?_, ?_⟩, ?_, exec_coldReset, exec_warmReset⟩
  · intro bs h kind full bad answer
    obtain ⟨c3, c1, c2, c0⟩ := registerCmd_cases s bs
    have mem : (s.registerCmd bs).1.mem = s.mem ∧ (s.registerCmd bs).1.inbox = s.inbox := by
      unfold State.registerCmd
      dsimp only
      split_ifs <;> exact ⟨rfl, rfl⟩
    refine ⟨_, exec_register h, mem.1, congrArg (fun x => x.mail.tail) mem.2, fun hk => ?_, fun h1 h8 hf => ?_,
      fun h1 h8 hf hb => ?_,
      fun h1 h8 hf hb => ?_⟩
    · rw [c3 hk]
      exact ⟨rfl, mailAnswer_answers ..⟩
    · rw [c1 h1 h8 hf]
      exact ⟨rfl, mailAnswer_answers ..⟩
    · rw [c2 h1 h8 hf hb]
      exact ⟨rfl, mailAnswer_answers ..⟩
    · rw [c0 h1 h8 hf hb]
      exact ⟨mailAnswer_answers .., rfl⟩
  · intro bs ok h hr he key good
    exact ⟨fun hg => exec_keyset_good h hr he hg, fun hb => exec_keyset_bad h hr he hb⟩
  · intro bs h hr he
    exact ⟨_, congrArg Host.Outcome.next (State.mailbox_runs h (not_retraining hr he false) s.domainCmd), rfl, rfl, rfl⟩
  · intro c bs i ok h hi hbusy
    rcases List.mem_cons.1 hi with hi | hi
    · cases hi
      exact ⟨_, congrArg Host.Outcome.next (State.mailbox_retrains h hbusy s.keysetCmd), rfl, rfl, rfl, mailAnswer_answers ..⟩
    · cases List.mem_singleton.1 hi
      exact ⟨_, congrArg Host.Outcome.next (State.mailbox_retrains h hbusy s.domainCmd), rfl, rfl, rfl, mailAnswer_answers ..⟩
  · intro c bs h hc
    have run : exec .mailboxBadcmd s = .next (s.mailAnswer c (if s.hub.retrain ≠ 0 ∨ s.inbox.early ≠ 0 then 1 else 2) 0 [])
      := by
      change execMailboxBadcmd s = _
      rw [execMailboxBadcmd, h]
      exact congrArg Host.Outcome.next (if_neg (by omega))
    exact ⟨_, run, rfl, mailAnswer_answers ..⟩
  · intro s id key n w bs h hr hreg hok
    refine ⟨?_, ?_, ?_⟩
    · rintro rfl
      exact exec_hostWrite h hr hreg hok
    · rintro rfl hp
      have run := exec_hostRead h hr hreg hok
      rwa [if_neg (by rw [hp]; exact Bool.false_ne_true)] at run
    · rintro rfl hp
      have run := exec_hostRead h hr hreg hok
      rwa [if_pos hp] at run

end Sys2Proof.Machine
end


section
/-! O24.  Leases and clocks. -/
namespace Sys2Proof.Machine

/-! ### The status of a request -/

section
variable {s : State} {t q : Nat} {T : Task}

theorem leaseStatus_held (h : T.lease ≠ none) : s.leaseStatus t T q = 5 := if_pos (Option.isSome_iff_ne_none.2 h)

theorem not_isSome {α : Type} {o : Option α} (h : o = none) : ¬ o.isSome = true := by simp [h]

theorem leaseStatus_notAbove (h : T.lease = none) (hq : q ≤ T.entryOp) : s.leaseStatus t T q = 4 := by
  rw [State.leaseStatus, if_neg (not_isSome h), if_pos hq]

theorem leaseStatus_shared (h : T.lease = none) (hq : T.entryOp < q) (hs : s.sharesCluster t T = true) : s.leaseStatus t T q
    = 2 := by
  rw [State.leaseStatus, if_neg (not_isSome h), if_neg (by omega), if_pos hs]

/-- A point lies above what the cap of a clock lets a lease reach. -/
theorem Clock.limit_lt_iff (k : Clock) (q : Nat) : k.limit < q ↔ (k.opmax < 6 ∧ k.opmax < q ∨ 7 < q) := by
  unfold Clock.limit
  split_ifs <;> omega

/-- What refuses a request with status 3 (R402, R403). -/
theorem leaseCapped_iff : (s.camp.grade ≠ 0 ∨ s.tooHotNow = true ∨ (T.clusters.any fun c =>
      (s.cluster c).clk.therm.isSome || decide ((s.cluster c).clk.limit < q)) = true) ↔
    (s.camp.grade ≠ 0 ∨ (∃ die, die < 8 ∧ (s.die die).emerg = true) ∨
      (∃ c ∈ T.clusters, (s.cluster c).clk.therm ≠ none ∨
        (s.cluster c).clk.opmax < 6 ∧ (s.cluster c).clk.opmax < q ∨ 7 < q)) := by
  simp only [State.tooHotNow, List.any_eq_true, List.mem_range, Bool.or_eq_true, decide_eq_true_eq, Clock.limit_lt_iff,
    Option.isSome_iff_ne_none]

theorem leaseStatus_capped (h : T.lease = none) (hq : T.entryOp < q) (hs : s.sharesCluster t T = false)
    (hc : s.camp.grade ≠ 0 ∨ (∃ die, die < 8 ∧ (s.die die).emerg = true) ∨
      (∃ c ∈ T.clusters, (s.cluster c).clk.therm ≠ none ∨
        (s.cluster c).clk.opmax < 6 ∧ (s.cluster c).clk.opmax < q ∨ 7 < q)) : s.leaseStatus t T q = 3 := by
  rw [State.leaseStatus, if_neg (not_isSome h), if_neg (by omega), if_neg (by rw [hs]; exact Bool.false_ne_true),
    if_pos (leaseCapped_iff.2 hc)]

theorem leaseStatus_refused (h : T.lease = none) (hq : T.entryOp < q) (hs : s.sharesCluster t T = false) (hg : s.camp.grade = 0)
    (hd : ∀ die, die < 8 → (s.die die).emerg = false)
    (hc : ∀ c ∈ T.clusters, (s.cluster c).clk.therm = none ∧ q ≤ 7 ∧
      (6 ≤ (s.cluster c).clk.opmax ∨ q ≤ (s.cluster c).clk.opmax))
    (hne : s.leaseStatus t T q ≠ 0) : s.leaseStatus t T q = 1 := by
  have free : ¬(s.camp.grade ≠ 0 ∨ s.tooHotNow = true ∨ (T.clusters.any fun c =>
      (s.cluster c).clk.therm.isSome || decide ((s.cluster c).clk.limit < q)) = true) := by
    rw [leaseCapped_iff]
    rintro (h | ⟨die, h8, h⟩ | ⟨c, hc', h⟩)
    · exact h hg
    · exact absurd ((hd die h8).symm.trans h) (by decide)
    · obtain ⟨h1, h2, h3⟩ := hc c hc'
      rcases h with h | h | h
      · exact h h1
      · omega
      · omega
  rw [State.leaseStatus, if_neg (not_isSome h), if_neg (by omega), if_neg (by rw [hs]; exact Bool.false_ne_true),
    if_neg free] at hne ⊢
  split_ifs at hne ⊢ with hb
  · rfl
  · exact absurd rfl hne

end

/-! ### Clocks and the units they stop -/

/-- Every unit of `t` is that of `s` but for whether its clock is stopped. -/
def State.SameButStopped (s t : State) : Prop := ∀ v, { t.unit v with stopped := (s.unit v).stopped } = s.unit v

theorem State.SameButStopped.refl (s : State) : s.SameButStopped s := fun _ => rfl

theorem State.SameButStopped.trans {s t r : State} (h : s.SameButStopped t) (k : t.SameButStopped r) : s.SameButStopped r := by
  intro v
  rw [← h v, ← k v]

theorem State.SameButStopped.nextId {s t : State} (h : s.SameButStopped t) (v : Nat) : (t.unit v).work.nextId = (s.unit
    v).work.nextId :=
  congrArg (fun U => U.work.nextId) (h v)

theorem State.setStopped_same (s : State) (u : Nat) (b : Bool) : s.SameButStopped (s.setUnit u
    { s.unit u with stopped := b }) := by
  intro v
  rw [State.unit_setUnit]
  split_ifs with h
  · rw [h]
  · rfl

theorem State.clockUnits_same (s : State) (c : Nat) (stop : Bool) : s.SameButStopped (s.clockUnits c stop) :=
  foldl_rel (R := State.SameButStopped) .refl .trans (fun s u => by
    split_ifs
    · exact .refl s
    · exact s.setStopped_same u stop) _ s

theorem State.setClock_same (s : State) (c : Nat) (k : Clock) : s.SameButStopped (s.setClock c k) := by
  unfold State.setClock
  dsimp only
  split_ifs
  · exact .refl s
  · exact State.clockUnits_same (s.setCluster c { s.cluster c with clk := k }) c k.relock

theorem State.aimTask_same (s : State) (T : Task) (q : Nat) : s.SameButStopped (s.aimTask T q) :=
  foldl_rel (R := State.SameButStopped) .refl .trans (fun s c => s.setClock_same c _) _ s

theorem mem_clusterUnits {c w : Nat} : w ∈ clusterUnits c ↔ w / 8 = c := by
  simp only [clusterUnits, List.mem_map, List.mem_range]
  constructor
  · rintro ⟨i, hi, rfl⟩
    omega
  · intro h
    exact ⟨w % 8, Nat.mod_lt _ (by omega), by omega⟩

/-- A unit that holds a task stops or goes on with its clock; a unit beside the list does not. -/
theorem stopAll_unit (stop : Bool) (w : Nat) : ∀ (l : List Nat) (s : State),
    (l.foldl (fun s u => if (s.unit u).run = .free then s else s.setUnit u { s.unit u with stopped := stop }) s).unit w =
      if w ∈ l ∧ (s.unit w).run ≠ .free then { s.unit w with stopped := stop } else s.unit w := by
  intro l
  induction l with
  | nil => intro s; exact (if_neg (by simp)).symm
  | cons u l ih =>
    intro s
    rw [List.foldl_cons, ih]
    obtain rfl | hw := eq_or_ne w u
    · by_cases hr : (s.unit w).run = .free
      · simp [hr]
      · simp [hr]
    · have other : (if (s.unit u).run = .free then s else s.setUnit u { s.unit u with stopped := stop }).unit w = s.unit w := by
        split_ifs
        · rfl
        · exact State.unit_setUnit_other _ _ hw
      rw [other]
      simp [hw]

theorem State.setClock_unit (s : State) (c : Nat) (k : Clock) (w : Nat) : (s.setClock c k).unit w =
    if k.relock ≠ (s.cluster c).clk.relock ∧ w / 8 = c ∧ (s.unit w).run ≠ .free then { s.unit w with stopped := k.relock }
      else s.unit w := by
  unfold State.setClock
  dsimp only
  by_cases hk : k.relock = (s.cluster c).clk.relock
  · rw [if_pos hk, if_neg (fun h => h.1 hk)]
    rfl
  · rw [if_neg hk, State.clockUnits, stopAll_unit]
    simp only [mem_clusterUnits, ne_eq, hk, not_false_iff, true_and]
    rfl

/-! ### OPREQ and OPREL -/

section
variable {tk : Tok} {s : State} {u : Nat} {r : PassRec} {T : Task}

/-- OPREQ of a legal length. -/
theorem exec_opreq (h : SReady s u r tk none []) (hi : (s.swordCheck.unit u).sIdle)
    (hT : s.swordCheck.task (s.swordCheck.unit u).id.task = some T) {d q imm32 : Nat} (h1 : 1 ≤ imm32) (h2 : imm32 ≤ 10000) :
    let s0 := s.swordCheck
    let f := s0.flight u .S r tk
    let s1 := (s0.setTask (s0.unit u).id.task { T with lease := some (q, 0) }).aimTask T q
    exec (.opreq tk d q imm32) s = if s0.leaseStatus (s0.unit u).id.task T q ≠ 0 then
        .next (s0.leavesX u r tk d (BitVec.ofNat 64 (s0.leaseStatus (s0.unit u).id.task T q)))
      else if s1.steadyTask T then
        .next ((s1.setTask (s0.unit u).id.task { T with lease := some (q, s0.time.toNat + imm32 * 1000) }).leavesX u r tk d 0)
      else .next ((s1.setUnit u { s1.unit u with work := { (s1.unit u).work with
        sops := (s1.unit u).work.sops ++ [leaseOp f.id .opreq d (BitVec.ofNat 64 (imm32 * 1000))] } }).leaves u .S r tk
        { f with wait := .op, wr := [d] }) := by
  intro s0 f s1
  have hwho : s0.who = (u, .S) := h.who
  change execOpreq tk d q imm32 s = _
  rw [execOpreq, State.sSerial_of_ready h hi]
  dsimp only
  rw [hT]
  dsimp only
  rw [if_neg (by omega)]
  by_cases hst : s0.leaseStatus (s0.unit u).id.task T q ≠ 0
  · rw [if_pos hst, if_pos hst]
    rfl
  · rw [if_neg hst, if_neg hst, hwho]
    by_cases hsteady : s1.steadyTask T = true
    · rw [if_pos hsteady, if_pos hsteady]
      have same : (s1.setTask (s0.unit u).id.task { T with lease := some (q, s0.time.toNat + imm32 * 1000) }).flight u .S r
        tk = f := by
        have hid := (State.aimTask_same (s0.setTask (s0.unit u).id.task { T with lease := some (q, 0) }) T q).nextId u
        change (s1.unit u).flightOf .S r tk true = (s0.unit u).flightOf .S r tk true
        rw [UnitSt.flightOf, UnitSt.flightOf, show (s1.unit u).work.nextId = (s0.unit u).work.nextId from hid]
      rw [State.leavesX, same]
      rfl
    · rw [if_neg hsteady, if_neg hsteady]
      rfl

theorem exec_oprel (h : SReady s u r tk none []) (hi : (s.swordCheck.unit u).sIdle)
    (hT : s.swordCheck.task (s.swordCheck.unit u).id.task = some T) :
    let s0 := s.swordCheck
    let f := s0.flight u .S r tk
    let s1 := s0.dropLease (s0.unit u).id.task
    exec (.oprel tk) s = if T.lease = none then .next (s0.leaves u .S r tk f)
      else if s1.steadyTask T then .next (s1.leaves u .S r tk f)
      else .next ((s1.setUnit u { s1.unit u with work := { (s1.unit u).work with
        sops := (s1.unit u).work.sops ++ [leaseOp f.id .oprel 0 0] } }).leaves u .S r tk { f with wait := .op, wr := [] }) := by
  intro s0 f s1
  have hwho : s0.who = (u, .S) := h.who
  change execOprel tk s = _
  rw [execOprel, State.sSerial_of_ready h hi]
  dsimp only
  rw [hT, Option.bind_some]
  cases hl : T.lease with
  | none => rfl
  | some l =>
    rw [if_neg (Option.some_ne_none l), Option.map_some]
    dsimp only
    rw [hwho]
    by_cases hsteady : s1.steadyTask T = true
    · rw [if_pos hsteady, if_pos hsteady]
      rfl
    · rw [if_neg hsteady, if_neg hsteady]
      rfl

end

/-! ### Relocks and ramps -/

theorem State.leaseSettle_kept (s : State) (u : Nat) : (s.leaseSettle u).clusters = s.clusters ∧
    (s.leaseSettle u).mem = s.mem := by
  unfold State.leaseSettle
  dsimp only
  split
  · split
    · exact ⟨rfl, rfl⟩
    · split <;> exact ⟨rfl, rfl⟩
  · exact ⟨rfl, rfl⟩

theorem Clock.start_op (k : Clock) : k.start.op = k.op := by
  unfold Clock.start
  split_ifs <;> rfl

/-- A fold over states that keeps clusters and memory at each step. -/
theorem foldl_clusters_mem {α : Type} {f : State → α → State} (step : ∀ s a, (f s a).clusters = s.clusters ∧
    (f s a).mem = s.mem)
    (l : List α) (s : State) : (l.foldl f s).clusters = s.clusters ∧ (l.foldl f s).mem = s.mem :=
  ⟨foldl_keeps State.clusters (fun s a => (step s a).1) l s, foldl_keeps State.mem (fun s a => (step s a).2) l s⟩

theorem State.abandon_clusters_mem (s : State) (t reason : Nat) :
    (s.abandon t reason).clusters = s.clusters ∧ (s.abandon t reason).mem = s.mem := by
  obtain ⟨-, us, ts, rs, h⟩ := s.abandon_same t reason
  rw [h]
  exact ⟨rfl, rfl⟩

/-- The end of a relock changes clusters and memory as the change of the clock does. -/
theorem State.relocked_clusters_mem {s : State} {c : Nat} (h : (s.cluster c).clk.relock = true) :
    (s.relocked c).clusters = (s.setClock c (s.cluster c).clk.relockDone).clusters ∧
      (s.relocked c).mem = (s.setClock c (s.cluster c).clk.relockDone).mem := by
  have hnot : ¬(!(s.cluster c).clk.relock) = true := by rw [h]; decide
  unfold State.relocked
  dsimp only
  rw [if_neg hnot]
  generalize s.setClock c (s.cluster c).clk.relockDone = s1
  have abandons := foldl_clusters_mem (f := fun s u =>
      if (s.unit u).tape.run = 1 ∧ (s.unit u).run ≠ .loading then s.abandon (s.unit u).id.task 6 else s) (fun s u => by
    split_ifs
    · exact s.abandon_clusters_mem ..
    · exact ⟨rfl, rfl⟩) (clusterUnits c) s1
  generalize (clusterUnits c).foldl _ s1 = s2 at abandons ⊢
  have retires := foldl_clusters_mem (f := fun s u =>
      if (s.unit u).run = .free then s else s.setUnit u (engs.foldl (fun U e => U.retire e) (s.unit u))) (fun s u => by
    split_ifs
    · exact ⟨rfl, rfl⟩
    · exact ⟨State.setUnit_clusters .., State.setUnit_mem ..⟩) (clusterUnits c) s2
  generalize (clusterUnits c).foldl _ s2 = s3 at retires ⊢
  have settles := foldl_clusters_mem (fun s (q : Nat × UnitSt) => s.leaseSettle_kept q.1) s3.units s3
  exact ⟨settles.1.trans (retires.1.trans abandons.1), settles.2.trans (retires.2.trans abandons.2)⟩

/-- The end of a relock leaves the cluster's clock at its new point. -/
theorem State.relocked_kept {s : State} {c : Nat} (h : (s.cluster c).clk.relock = true) :
    ((s.relocked c).cluster c).clk = (s.cluster c).clk.relockDone ∧ (s.relocked c).mem = s.mem := by
  obtain ⟨hc, hm⟩ := State.relocked_clusters_mem h
  have same : (s.relocked c).cluster c = (s.setClock c (s.cluster c).clk.relockDone).cluster c := congrArg (SMap.get
    Cluster.reset · c) hc
  rw [same, State.setClock_cluster, if_pos rfl]
  exact ⟨rfl, hm.trans (s.setClock_mem ..)⟩

section
variable (k : Clock)

theorem Clock.relockDone_op (h : k.relock = true) : k.relockDone.op = k.phase := by
  unfold Clock.relockDone
  rw [if_neg (by rw [h]; decide)]
  split_ifs
  · rfl
  · exact Clock.start_op _

theorem Clock.relockDone_ramps (h : k.relock = true) (hlow : k.phase < k.op) : k.relockDone.ramp = true ∧
    k.relockDone.relock = false := by
  unfold Clock.relockDone
  rw [if_neg (by rw [h]; decide), if_pos hlow]
  exact ⟨rfl, rfl⟩

theorem Clock.relockDone_steady (h : k.relock = true) (hup : k.op ≤ k.phase) (hr : k.ramp = false) (hp : k.phase = k.target) :
    k.relockDone.steady = true := by
  unfold Clock.relockDone
  rw [if_neg (by rw [h]; decide), if_neg (by omega)]
  simp [Clock.start, Clock.steady, hr, hp]

theorem Clock.rampDone_up (h : k.ramp = true) (hup : k.op < k.phase) : k.rampDone = { k with ramp := false, relock := true }
    := by
  unfold Clock.rampDone
  rw [if_neg (by rw [h]; decide), if_pos hup]

theorem Clock.aim_cases (q : Nat) (h : k.relock = false) (hr : k.ramp = false) :
    (k.op < q → (k.aim q).ramp = true ∧ (k.aim q).relock = false) ∧
      (q < k.op → (k.aim q).relock = true ∧ (k.aim q).ramp = false) ∧ (k.aim k.op).steady = true := by
  refine ⟨fun hq => ?_, fun hq => ?_, ?_⟩
  · simp [Clock.aim, Clock.start, h, hr, hq]
  · simp [Clock.aim, Clock.start, h, hr, hq, Nat.not_lt.2 hq.le]
  · simp [Clock.aim, Clock.start, Clock.steady, h, hr]

end

theorem exec_voltageRampDone {s : State} {c : Nat} (h : (s.cluster c).clk.ramp = true) (hup : (s.cluster c).clk.op <
    (s.cluster c).clk.phase) :
    let k := (s.cluster c).clk
    ∃ t, exec (.voltageRampDone c) s = .next t ∧ (t.cluster c).clk.relock = true ∧
      (t.cluster c).clk.ramp = false ∧ (t.cluster c).clk.op = k.op ∧ t.mem = s.mem ∧
      (∀ w, w / 8 ≠ c → t.unit w = s.unit w) ∧ (∀ w, { t.unit w with stopped := (s.unit w).stopped } = s.unit w) ∧
      (k.relock = false → ∀ w, w / 8 = c → (s.unit w).run ≠ .free → (t.unit w).stopped = true) := by
  intro k
  have run : exec (.voltageRampDone c) s = .next (s.setClock c { k with ramp := false, relock := true }) :=
    congrArg (fun K => Host.Outcome.next (s.setClock c K)) (k.rampDone_up h hup)
  have clk : ((s.setClock c { k with ramp := false, relock := true }).cluster c).clk =
    { k with ramp := false, relock := true } :=
    congrArg Cluster.clk ((s.setClock_cluster c _ c).trans (if_pos rfl))
  refine ⟨_, run, by rw [clk], by rw [clk], by rw [clk], s.setClock_mem .., fun w hw => ?_, s.setClock_same c _,
    fun hk w hw hr => ?_⟩
  · rw [State.setClock_unit, if_neg (fun h => hw h.2.1)]
  · rw [State.setClock_unit, if_pos ⟨fun h => Bool.false_ne_true (hk.symm.trans h.symm), hw, hr⟩]

/-- Settles O24: what OPREQ answers, what a grant and OPREL do, and how a clock changes. -/
theorem leaseWordsIssueAndClocksChange : Obligations.LeaseWordsIssueAndClocksChange := by
  unfold Obligations.LeaseWordsIssueAndClocksChange
  refine ⟨?_, ?_⟩
  · intro tk s u r T h s0 U f hi hT
    refine ⟨fun d q imm32 h1 h2 => ?_, fun hl => ?_, fun hl => ?_⟩
    · have run := exec_opreq (d := d) (q := q) h hi hT h1 h2
      have refused {n : Nat} (hn : s0.leaseStatus U.id.task T q = n) (hne : n ≠ 0) :
          exec (.opreq tk d q imm32) s = .next (s0.leavesX u r tk d (BitVec.ofNat 64 n)) := by
        dsimp only at run
        rw [run, show s.swordCheck.leaseStatus (s.swordCheck.unit u).id.task T q = n from hn, if_pos hne]
      refine ⟨fun hl => refused (leaseStatus_held hl) (by decide),
        fun hl hq => refused (leaseStatus_notAbove hl hq) (by decide),
        fun hl hq hs => refused (leaseStatus_shared hl hq hs) (by decide),
        fun hl hq hs hc => refused (leaseStatus_capped hl hq hs hc) (by decide),
        fun hl hq hs hg hd hc hne => refused (leaseStatus_refused hl hq hs hg hd hc hne) (by decide), fun hgrant => ?_⟩
      intro s1
      have granted := run.trans (if_neg fun hne => hne hgrant)
      exact ⟨fun hs => granted.trans (if_pos hs), fun hs => granted.trans (if_neg (by rw [Bool.not_eq_true]; exact hs))⟩
    · exact (exec_oprel h hi hT).trans (if_pos hl)
    · intro s1
      have leased := (exec_oprel h hi hT).trans (if_neg hl)
      exact ⟨fun hs => leased.trans (if_pos hs), fun hs => leased.trans (if_neg (by rw [Bool.not_eq_true]; exact hs))⟩
  · intro s c k
    refine ⟨fun hk => ?_, fun hr hup => exec_voltageRampDone hr hup, fun q hk hr => k.aim_cases q hk hr⟩
    obtain ⟨hclk, hmem⟩ := State.relocked_kept hk
    have run : exec (.relockDone c) s = .next (s.relocked c) := rfl
    refine ⟨_, run, ?_, fun hlow => ?_, fun hup hr hp => ?_, hmem⟩ <;> rw [hclk]
    · exact k.relockDone_op hk
    · exact k.relockDone_ramps hk hlow
    · exact k.relockDone_steady hk hup hr hp

end Sys2Proof.Machine
end


section
/-! O53.  Tasks start, end, and are asked to park. -/
namespace Sys2Proof.Machine

/-! ### One change of every unit of a list -/

/-- A change that is made of every unit of a list, and made twice is made once. -/
theorem foldUnits_unit {g : UnitSt → UnitSt} (twice : ∀ U, g (g U) = g U) (v : Nat) : ∀ (l : List Nat) (s : State),
    (l.foldl (fun s u => s.setUnit u (g (s.unit u))) s).unit v = if v ∈ l then g (s.unit v) else s.unit v := by
  intro l
  induction l with
  | nil => exact fun s => rfl
  | cons u l ih =>
    intro s
    rw [List.foldl_cons, ih]
    obtain rfl | hv := eq_or_ne v u
    · simp [twice]
    · simp [State.unit_setUnit_other _ _ hv, hv]

/-- What such a fold leaves of the state. -/
theorem foldUnits_rest (g : UnitSt → UnitSt) (l : List Nat) (s : State) : ∃ us,
    l.foldl (fun s u => s.setUnit u (g (s.unit u))) s =
    { s with units := us } :=
  foldl_rel (R := fun s t : State => ∃ us, t = { s with units := us }) (fun s => ⟨s.units, rfl⟩)
    (by rintro _ _ _ ⟨us, rfl⟩ ⟨us', rfl⟩; exact ⟨us', rfl⟩) (fun s u => ⟨_, rfl⟩) l s

/-! ### Starts and requests -/

section
variable {s : State} {t : Nat} {T : Task}

theorem exec_taskStart (hT : s.task t = some T) (hst : T.st = .dispatching) (hp : T.parkedUnits = []) (hc : s.clocksReady T =
    true)
    (hm : s.migClear T = true) (h0 : T.status = 0) :
    ∃ s1 T1, exec (.taskStart t) s = .next s1 ∧ s1.task t = some T1 ∧ T1.st = .running ∧ T1.started = s.time.toNat ∧
      (∀ u ∈ T.units, (s1.unit u).run = .running) ∧ (∀ u, u ∉ T.units → s1.unit u = s.unit u) ∧ s1.mem = s.mem := by
  have units := foldUnits_unit (g := fun U => { U with run := .running }) (fun _ => rfl)
  obtain ⟨us, hrest⟩ := foldUnits_rest (fun U => { U with run := .running }) T.units s
  have run : exec (.taskStart t) s = .next (s.startTask t) := rfl
  rw [State.startTask, hT] at run
  dsimp only at run
  rw [if_neg (by simp [hst, hp, hc, hm, h0])] at run
  refine ⟨_, _, run, State.task_setTask_same .., rfl, rfl, fun u hu => ?_, fun u hu => ?_, ?_⟩
  · exact congrArg UnitSt.run ((units u T.units s).trans (if_pos hu))
  · exact (units u T.units s).trans (if_neg hu)
  · rw [State.setTask_mem, hrest]

theorem UnitSt.request_twice (U : UnitSt) : U.request.request = U.request := by
  unfold UnitSt.request
  by_cases h : U.run ≠ .running ∨ U.csr.preq = true ∨ U.resuming = true
  · rw [if_pos h, if_pos h]
  · rw [if_neg h, if_pos (.inr (.inl rfl))]

theorem exec_preemptRequest (hT : s.task t = some T) (hp : T.preempt = true) (hst : T.st = .running) :
    ∃ s1, exec (.preemptRequest t) s = .next s1 ∧ s1.mem = s.mem ∧ (∀ u, u ∉ T.units → s1.unit u = s.unit u) ∧
      (∀ u ∈ T.units, (s.unit u).run = .running → (s.unit u).csr.preq = false → (s.unit u).resuming = false →
        (s1.unit u).csr.preq = true ∧ (s1.unit u).csr.pdRemain = (s.unit u).csr.pdLimit ∧
          (s1.unit u).regs = (s.unit u).regs) := by
  have units := foldUnits_unit UnitSt.request_twice
  obtain ⟨us, hrest⟩ := foldUnits_rest UnitSt.request T.units s
  have run : exec (.preemptRequest t) s = .next (s.preemptSet t) := rfl
  rw [State.preemptSet, hT] at run
  dsimp only at run
  rw [if_neg (by simp [hst, hp])] at run
  refine ⟨_, run, ?_, fun u hu => (units u T.units s).trans (if_neg hu), fun u hu hr hq hs => ?_⟩
  · rw [State.setTask_mem, hrest]
  · have asked : (s.unit u).request =
      { s.unit u with csr := { (s.unit u).csr with preq := true, pdRemain := (s.unit u).csr.pdLimit } } :=
      if_neg (by simp [hr, hq, hs])
    have mine := ((units u T.units s).trans (if_pos hu)).trans asked
    rw [State.setTask_unit, mine]
    exact ⟨rfl, rfl, rfl⟩

theorem exec_preemptWithdraw (hT : s.task t = some T) (hp : T.preempt = true) (htook : T.took = false) :
    ∃ s1 T1, exec (.preemptWithdraw t) s = .next s1 ∧ s1.task t = some T1 ∧ T1.preempt = false ∧ s1.mem = s.mem ∧
      (∀ u ∈ T.units, (s1.unit u).csr.preq = false ∧ (s1.unit u).csr.pdRemain = 0) := by
  have units := foldUnits_unit (g := fun U => { U with csr := { U.csr with preq := false, pdRemain := 0 } }) (fun _ => rfl)
  obtain ⟨us, hrest⟩ := foldUnits_rest (fun U => { U with csr := { U.csr with preq := false, pdRemain := 0 } }) T.units s
  have run : exec (.preemptWithdraw t) s = .next (s.withdraw t) := rfl
  rw [State.withdraw, hT] at run
  dsimp only at run
  rw [if_neg (by simp [hp, htook])] at run
  refine ⟨_, _, run, State.task_setTask_same .., rfl, ?_, fun u hu => ?_⟩
  · rw [State.setTask_mem, hrest]
  · rw [State.setTask_unit, (units u T.units s).trans (if_pos hu)]
    exact ⟨rfl, rfl⟩

theorem exec_leaseExpire {q e : Nat} (hT : s.task t = some T) (hl : T.lease = some (q, e)) (hf : T.frozen = false) (he : e ≠ 0)
    (hnow : e ≤ s.time.toNat) : ∃ s1 T1, exec (.leaseExpire t) s = .next s1 ∧ s1.task t = some T1 ∧ T1.lease = none ∧
      s1.mem = s.mem ∧
      (∀ u, { s1.unit u with stopped := (s.unit u).stopped } = s.unit u) := by
  have run : exec (.leaseExpire t) s = .next (s.leaseOver t) := rfl
  rw [State.leaseOver, hT] at run
  dsimp only at run
  rw [hl] at run
  dsimp only at run
  rw [if_neg (by simp [hf, he]; omega), State.dropLease, hT] at run
  dsimp only at run
  rw [if_pos (by rw [hl]; rfl)] at run
  refine ⟨_, { T with lease := none, frozen := false }, run, ?_, rfl, ?_, ?_⟩
  · exact (foldl_keeps (State.task · t) (fun s c => s.setClock_task ..) T.clusters _).trans (State.task_setTask_same ..)
  · exact (State.aimTask_steers ..).mem
  · exact State.aimTask_same (s.setTask t { T with lease := none, frozen := false }) T T.entryOp

/-! ### Overruns -/

theorem exec_guaranteedOverrun {G : Graph} (hT : s.task t = some T) (ha : T.admitted ≠ 0) (hst : T.st = .running) (ho :
    T.overrun = false)
    (hlong : T.dur < T.ranFor + (s.time.toNat - T.started)) (hG : s.graph T.graph = some G) :
    ∃ s1 T1 G1, exec (.guaranteedOverrun t) s = .next s1 ∧ s1.task t = some T1 ∧ T1.overrun = true ∧
      s1.graph T.graph = some G1 ∧ G1.contract = false ∧
      s1.hub.events = s.hub.events ++ [⟨9, T.graph, T.card, 0⟩] ∧ s1.mem = s.mem ∧ s1.units = s.units := by
  let s1 := s.setTask t { T with overrun := true }
  let s2 : State := { s1 with hub := { s1.hub with log := s1.hub.log ++ [(⟨3, T.graph, T.card, 0⟩ : HostEv)] } }
  have run : exec (.guaranteedOverrun t) s = .next ((s2.tellHost 9 T.graph T.card 0).setGraph T.graph
    { G with contract := false }) := by
    have run : exec (.guaranteedOverrun t) s = .next (s.overran t) := rfl
    rw [run, State.overran, hT]
    dsimp only
    rw [if_neg (by simp [ha, hst, ho]; omega), show ((s2.tellHost 9 T.graph T.card 0).graph T.graph) = some G from hG]
  exact ⟨_, { T with overrun := true }, _, run, State.task_setTask_same s t _, rfl, State.graph_setGraph_same _ _ _, rfl,
    rfl, rfl, rfl⟩

end

/-! ### Forced saves -/

theorem exec_forcedSave {s : State} {u : Nat} (hu : u < 768) (hh : s.halted u = false) (hp : (s.unit u).csr.preq = true)
    (hr : (s.unit u).csr.pdRemain = 0) (ht : (s.unit u).trap.took = false) (hruns : s.runs u = true) :
    exec (.forcedSave u) s = .next (if s.yieldDue u then s else
      s.takeTrap u ⟨.preempt, 0, if (s.unit u).inHandler then 2 else 0, 0⟩) := by
  have hstands : s.stands u = false := by
    simp only [State.runs, Bool.and_eq_true, Bool.not_eq_true'] at hruns
    exact hruns.1.2
  change clockEvent u s (s.forceSave u) = _
  rw [clockEvent, hstands, unitEvent_of_live hu hh, if_neg Bool.false_ne_true, State.forceSave]
  cases hy : s.yieldDue u <;> simp [hp, hr, ht, hruns, hy]

/-! ### What a move of queue entries leaves -/

/-- `t` is `s` after entries of queues have moved: graphs, every task that was not held,
  and every unit but for its tape are the same. -/
structure State.Requeued (s t : State) : Prop where
  unit : ∀ v, (s.unit v).SameButTape (t.unit v)
  graph : t.hub.graphs = s.hub.graphs
  task : ∀ q T, s.task q = some T → T.st ≠ .held → t.task q = some T

namespace State.Requeued

theorem refl (s : State) : s.Requeued s := ⟨fun _ => .refl _, rfl, fun _ _ h _ => h⟩

theorem trans {s t r : State} (h : s.Requeued t) (k : t.Requeued r) : s.Requeued r :=
  ⟨fun v => (h.unit v).trans (k.unit v), k.graph.trans h.graph, fun q T hq hT => k.task q T (h.task q T hq hT) hT⟩

theorem of_written {s t : State} (h : s.Written t) : s.Requeued t := by
  obtain ⟨hu, us, m, rc, ts, rs, hot, rfl⟩ := h
  exact ⟨hu, rfl, fun _ _ h _ => h⟩

/-- A change of clusters, dies or other parts of the hub. -/
theorem of_kept {s t : State} (hu : t.units = s.units) (hg : t.hub.graphs = s.hub.graphs) (ht : t.hub.tasks = s.hub.tasks) :
    s.Requeued t := by
  refine ⟨fun v => ?_, hg, fun q T hq _ => ?_⟩
  · rw [show t.unit v = s.unit v from congrArg (SMap.get UnitSt.reset · v) hu]
    exact .refl _
  · rw [← hq]
    exact congrArg (SMap.get none · q) ht

/-- A held task changes. -/
theorem setTask {s : State} {t : Nat} {T : Task} (h : s.task t = some T) (hst : T.st = .held) (V : Task) : s.Requeued
    (s.setTask t V) := by
  refine ⟨fun _ => .refl _, rfl, fun q T' hq hT' => ?_⟩
  rw [State.task_setTask_other]
  · exact hq
  · rintro rfl
    rw [h] at hq
    cases hq
    exact hT' hst

theorem foldl {α : Type} {f : State → α → State} (step : ∀ (s : State) a, s.Requeued (f s a)) (l : List α) (s : State) :
    s.Requeued (l.foldl f s) := foldl_rel refl trans step l s

end State.Requeued

theorem State.spillWrite_written (s : State) (c p i : Nat) : s.Written (s.spillWrite c p i) := by
  unfold State.spillWrite
  split
  · exact s.writeMem_written ..
  · exact .refl s

theorem State.Written.tasks {s t : State} (h : s.Written t) : t.hub.tasks = s.hub.tasks := by
  obtain ⟨-, us, m, rc, ts, rs, hot, rfl⟩ := h
  rfl

theorem State.putQueue_requeued {s s1 : State} {c p t : Nat} (h : s.putQueue c p t = some s1) : s.Requeued s1 := by
  unfold State.putQueue at h
  dsimp only at h
  split_ifs at h
  · cases h
    exact .of_kept rfl rfl rfl
  · cases h
    exact (State.Requeued.of_written (s.spillWrite_written ..)).trans (.of_kept rfl rfl rfl)

theorem State.pushQueue_requeued {s s1 : State} {c p t : Nat} (h : s.pushQueue c p t = some s1) : s.Requeued s1 := by
  unfold State.pushQueue at h
  split_ifs at h
  exact State.putQueue_requeued h

/-- What enters a queue leaves the tasks beside it. -/
theorem State.Requeued.task_of_pushQueue {s s1 : State} {c p t : Nat} (h : s.pushQueue c p t = some s1) : s1.hub.tasks =
    s.hub.tasks := by
  unfold State.pushQueue State.putQueue at h
  dsimp only at h
  split_ifs at h
  · cases h; rfl
  · cases h
    exact (s.spillWrite_written ..).tasks

theorem State.enqueueAt_requeued {s : State} {t c : Nat} {T : Task} (h : s.task t = some T) (hst : T.st = .held) :
    s.Requeued (s.enqueueAt t c T) := by
  unfold State.enqueueAt
  dsimp only
  split_ifs
  · refine .trans (t := s.setDie (c / 12) { s.die (c / 12) with fallback := (s.die (c / 12)).fallback ++ [t] }) (.of_kept rfl
      rfl rfl) ?_
    refine State.Requeued.setTask ?_ hst _
    exact h
  · split
    · rename_i s1 hs1
      have same : s1.task t = some T := by
        rw [← h]
        exact congrArg (SMap.get none · t) (State.Requeued.task_of_pushQueue hs1)
      exact (State.pushQueue_requeued hs1).trans (.setTask same hst _)
    · exact .setTask h hst _

theorem State.releaseHeld_requeued (s : State) : s.Requeued s.releaseHeld := by
  refine .foldl (fun s q => ?_) _ s
  split
  · rename_i T hT
    split_ifs with hc hd
    · exact .refl s
    · exact State.enqueueAt_requeued hT (by tauto)
    · split
      · rename_i s1 hs1
        have same : s1.task q.1 = some T := by
          rw [← hT]
          exact congrArg (SMap.get none · q.1) (State.Requeued.task_of_pushQueue hs1)
        exact (State.pushQueue_requeued hs1).trans (.setTask same (by tauto) _)
      · exact .refl s
  · exact .refl s

theorem State.unqueue_requeued (s : State) (t : Nat) : s.Requeued (s.unqueue t) := by
  refine .trans (.trans ?_ (.foldl (fun s (q : Nat × Cluster) => ?_) _ _)) (State.releaseHeld_requeued _)
  · exact .of_kept rfl rfl rfl
  · refine .foldl (fun s p => ?_) _ s
    exact .of_kept rfl rfl rfl

/-! ### The end of a task -/

theorem State.recordDone_same (s : State) (t : Nat) (T : Task) : s.SameButTapes (s.recordDone t T) := by
  unfold State.recordDone
  split
  · exact .refl s
  · rename_i P _
    dsimp only
    have first := State.SameButTapes.trans (.setTapes s s.hub.tapes (s.hub.recording.filter fun r => r.1 ≠ t))
      (State.invalidTapes_same _ fun x => decide (x.id = P.id) && decide (x.asid = P.asid))
    split
    · exact first.trans (.setTapes _ _ _)
    · split <;> exact first.trans (.setTapes _ _ _)

/-- Giving a task's units back leaves the hub; the units are free. -/
theorem State.freeTask_kept (s : State) (t : Nat) (T : Task) : (s.freeTask t T).hub = s.hub ∧
    ∀ u ∈ T.units, ((s.freeTask t T).unit u).run = .free := by
  obtain ⟨us, hrest⟩ := foldUnits_rest UnitSt.released T.units s
  have units := foldUnits_unit (g := UnitSt.released) (fun _ => rfl)
  have clusters : ∀ s : State, ∀ c C,
    (if (s.setCluster c C).busyUnits c = 0 then (s.setCluster c C).aimCluster c 0 else s.setCluster c C).hub
      = s.hub ∧ s.SameButStopped (if (s.setCluster c C).busyUnits c = 0 then (s.setCluster c C).aimCluster c 0 else
        s.setCluster c C) := by
    intro s c C
    split_ifs
    · exact ⟨State.setClock_hub .., State.setClock_same (s.setCluster c C) c _⟩
    · exact ⟨rfl, .refl s⟩
  have second := foldl_rel (R := fun s t : State => t.hub = s.hub ∧ s.SameButStopped t) (fun s => ⟨rfl, .refl s⟩)
    (fun h k => ⟨k.1.trans h.1, h.2.trans k.2⟩) (fun s c => clusters s c { s.cluster c with
      stageq := (s.cluster c).stageq.filter fun q => decide (q.1 / 8 ≠ t)
      stageRel := (s.cluster c).stageRel.filter fun q => decide (q.1 / 8 ≠ t)
      cq := if T.image.usesCq then [] else (s.cluster c).cq
      cqRel := if T.image.usesCq then [] else (s.cluster c).cqRel
      groups := if T.image.usesGroups then [] else (s.cluster c).groups }) T.clusters
    (T.units.foldl (fun s u => s.setUnit u (s.unit u).released) s)
  refine ⟨second.1.trans (by rw [hrest]), fun u hu => ?_⟩
  have run := congrArg UnitSt.run (second.2 u)
  exact run.trans (congrArg UnitSt.run ((units u T.units s).trans (if_pos hu)))

/-- A task that leaves its queues is done, with its status. -/
theorem State.finishAs_kept {s : State} {status t : Nat} {T : Task} (h : s.task t = some T) (hst : T.st ≠ .held) :
    (s.finishAs status t).task t = some { T with st := .done, status := status, units := [], lease := none, frozen := false } ∧
      (s.finishAs status t).hub.graphs = s.hub.graphs ∧ ∀ v, ((s.finishAs status t).unit v).run = (s.unit v).run := by
  have q := s.unqueue_requeued t
  have task : ((s.unqueue t).releaseTapes t).task t = some T := q.task t T h hst
  unfold State.finishAs
  dsimp only
  rw [task]
  refine ⟨State.task_setTask_same .., q.graph, fun v => ?_⟩
  obtain ⟨T', hT'⟩ := q.unit v
  change ((s.unqueue t).unit v).run = _
  rw [hT']

theorem State.aimTask_hub (s : State) (T : Task) (q : Nat) : (s.aimTask T q).hub = s.hub :=
  foldl_keeps State.hub (fun s c => s.setClock_hub ..) T.clusters s

/-- A lease given back leaves its task otherwise as it is, and the graphs. -/
theorem State.dropLease_task {s : State} {t : Nat} {T : Task} (h : s.task t = some T) : ∃ T2, (s.dropLease t).task t = some T2 ∧
    T2.st = T.st ∧ (s.dropLease t).hub.graphs = s.hub.graphs := by
  unfold State.dropLease
  rw [h]
  dsimp only
  split_ifs
  · have kept := (s.setTask t { T with lease := none, frozen := false }).aimTask_hub T T.entryOp
    exact ⟨_, (congrArg (fun h : Hub => SMap.get none h.tasks t) kept).trans (State.task_setTask_same s t _), rfl,
      (congrArg Hub.graphs kept).trans rfl⟩
  · exact ⟨T, h, rfl, rfl⟩

/-- What a task covers when it ends changes nothing else of it. -/
theorem State.coverTask_task {s : State} {t : Nat} {T : Task} {fin : List Nat} (h : s.task t = some T) :
    (s.coverTask t fin).task t = some { T with fin := if fin = [] then T.fin else fin } ∧
      (s.coverTask t fin).hub.graphs = s.hub.graphs ∧ (s.coverTask t fin).units = s.units := by
  unfold State.coverTask
  by_cases hf : fin = []
  · simp only [if_pos hf]
    exact ⟨h, trivial, trivial⟩
  · simp only [if_neg hf, h]
    exact ⟨State.task_setTask_same .., rfl, rfl⟩

section
variable {s : State} {t : Nat} {T : Task} {G : Graph}

/-- The completion of a running task,
  as far as its graph's count: what follows is the end of a graph none of whose tasks is left. -/
theorem State.endDone_parts (hT : s.task t = some T) (hst : T.st = .running) (hG : s.graph T.graph = some G) : ∃ (s2 : State)
    (T1 : Task) (ev : SMap (List Nat)),
    s2.task t = some T1 ∧ T1.st = .done ∧ T1.status = stDone ∧ T1.units = [] ∧ (∀ u ∈ T.units, (s2.unit u).run = .free) ∧
    s.endDone t T = (s2.setGraph T.graph { G with
      events := if G.ending then G.events else G.events ||| T.sigm
      evKnow := ev
      unfinished := G.unfinished - 1, ndone := G.ndone + 1,
        nlate := if T.late s.time.toNat then G.nlate + 1 else G.nlate }).endIfDone T.graph := by
  let s0 := if (T.units.any fun u => decide ((s.unit u).tape.run = 1)) then s.recordDone t T else s
  have same : s.SameButTapes s0 := by
    unfold s0
    split_ifs
    · exact s.recordDone_same t T
    · exact .refl s
  have hT0 : (s0.releaseTapes t).task t = some T := (same.task t).trans hT
  have hG0 : (s0.releaseTapes t).hub.graphs = s.hub.graphs := by
    obtain ⟨-, us, ts, rs, h⟩ := same
    rw [h]
    rfl
  obtain ⟨T2, hT2, hst2, hG2⟩ := State.dropLease_task (s := s0.releaseTapes t) hT0
  obtain ⟨hhub, hfree⟩ := ((s0.releaseTapes t).dropLease t).freeTask_kept t T
  have hT3 : (((s0.releaseTapes t).dropLease t).freeTask t T).task t = some T2 :=
    (congrArg (fun h : Hub => SMap.get none h.tasks t) hhub).trans hT2
  obtain ⟨htask, hgraphs, hrun⟩ := State.finishAs_kept (status := stDone) hT3 (by rw [hst2, hst]; decide)
  obtain ⟨hT1, hgr, hun⟩ := State.coverTask_task (fin := s.taskFin T) htask
  have graphs : (((((s0.releaseTapes t).dropLease t).freeTask t T).finishAs stDone t).coverTask t (s.taskFin T)).hub.graphs =
    s.hub.graphs :=
    hgr.trans (hgraphs.trans ((congrArg Hub.graphs hhub).trans (hG2.trans hG0)))
  refine ⟨((((s0.releaseTapes t).dropLease t).freeTask t T).finishAs stDone t).coverTask t (s.taskFin T), _,
    if G.ending then G.evKnow else G.signal T.sigm (s.taskFin T), hT1, rfl, rfl, rfl, fun u hu => ?_, ?_⟩
  · exact (congrArg (fun us => (SMap.get UnitSt.reset us u).run) hun).trans ((hrun u).trans (hfree u hu))
  · have found := (congrArg (fun gs => SMap.get none gs T.graph) graphs).trans hG
    unfold State.endDone
    dsimp only
    split
    · rename_i hno
      cases hno.symm.trans found
    · rename_i G' hG'
      cases hG'.symm.trans found
      rfl

theorem exec_taskComplete (hT : s.task t = some T) (hst : T.st = .running) (h0 : T.status = 0) (hr : ∀ r ∈ T.ranks, r ∈ T.ended)
    (hrel : ∀ u ∈ T.units, s.mem.releasedAt u 3 = true) (hG : s.graph T.graph = some G) (hmore : 2 ≤ G.unfinished) :
    ∃ s1 T1 G1, exec (.taskComplete t) s = .next s1 ∧ s1.task t = some T1 ∧ T1.st = .done ∧ T1.status = stDone ∧
      T1.units = [] ∧ s1.graph T.graph = some G1 ∧ G1.unfinished = G.unfinished - 1 ∧ G1.ndone = G.ndone + 1 ∧
      (G.ending = false → G1.events = G.events ||| T.sigm) ∧
      G1.nlate = (if T.late s.time.toNat then G.nlate + 1 else G.nlate) ∧
      (∀ u ∈ T.units, (s1.unit u).run = .free) := by
  obtain ⟨s2, T1, ev, hT1, hst1, hstatus, hunits, hfree, hdone⟩ := State.endDone_parts hT hst hG
  have run : exec (.taskComplete t) s = .next (s.endDone t T) := by
    have run : exec (.taskComplete t) s = .next (s.completeTask t) := rfl
    rw [run, State.completeTask, hT]
    dsimp only
    rw [if_neg (by rw [hst]; decide), if_neg (by simp [h0]), if_pos ⟨hst, by simpa using hr, by simpa using hrel⟩]
  rw [hdone, State.endIfDone, State.graph_setGraph_same] at run
  dsimp only at run
  rw [if_neg (by omega)] at run
  refine ⟨_, T1, _, run, hT1, hst1, hstatus, hunits, State.graph_setGraph_same .., rfl, rfl, fun he => ?_, rfl, hfree⟩
  simp [he]

/-- A unit that ends keeps its registers. -/
theorem exec_unitEnd_regs {s t : State} {u : Nat} {T : Task} (hu : u < 768) (hh : s.halted u = false)
    (hT : s.task (s.unit u).id.task = some T) (hend : s.endReady u T = true) (h : exec (.unitEnd u) s = .next t) :
    (t.unit u).regs = (s.unit u).regs := by
  have run : exec (.unitEnd u) s = .next (s.endUnit u) := unitEvent_of_live hu hh
  cases run.symm.trans h
  rw [State.endUnit, hT]
  simp only [hend, Bool.not_true, Bool.false_eq_true, if_false, State.setTask_unit, State.unit_setUnit_same]
  exact ((s.recordEnd_same u).unit u).regs

/-- Settles O53: starts, ends, overruns, requests and leases as their events make them. -/
theorem tasksStartEndAndAreAsked : Obligations.TasksStartEndAndAreAsked := by
  unfold Obligations.TasksStartEndAndAreAsked
  refine ⟨⟨?_, ?_, ?_, ?_⟩, ?_, ?_, ?_, ?_⟩
  · intro s t T hT hst hp hc hm h0
    exact exec_taskStart hT hst hp hc hm h0
  · intro s u T hu hh hT hend
    obtain ⟨t, T1, run, hrun, hT1, hended, hmem⟩ := exec_unitEnd hu hT hend
    exact ⟨t, T1, run, hrun, hT1, hended, hmem, exec_unitEnd_regs hu hh hT hend run⟩
  · intro s t T G hT hst h0 hr hrel hG hmore
    exact exec_taskComplete hT hst h0 hr hrel hG hmore
  · intro s t T G hT ha hst ho hlong hG
    exact exec_guaranteedOverrun hT ha hst ho hlong hG
  · intro s t T hT hp hst
    exact exec_preemptRequest hT hp hst
  · intro s t T hT hp htook
    exact exec_preemptWithdraw hT hp htook
  · intro s u hu hh hp hr ht hruns
    have run := exec_forcedSave hu hh hp hr ht hruns
    exact ⟨fun hy => run.trans (by rw [if_neg (by rw [hy]; exact Bool.false_ne_true)]), fun hy => run.trans (by rw [if_pos hy])⟩
  · intro s t q e T hT hl hf he hnow
    exact exec_leaseExpire hT hl hf he hnow

end

end Sys2Proof.Machine
end


section
/-! O54.  The end of a graph by the host fails for a task whose number the hub's list holds twice: the graph's own task goes
  with the
graph, and the second entry of its number, of another graph, is what the number then reads as. -/
namespace Sys2Proof.Machine

/-- A task of graph `g` that stands in a queue and has no unit. -/
def queuedTask (g : Nat) : Task :=
  { Task.ofCard g 0 [] ⟨0, 0, 0, 0, 0, 0, false, [], [], [], [], false, false⟩ [] with st := .queued }

/-- A live graph with one unfinished task. -/
def oneTaskGraph : Graph :=
  { tag := 0, crec := 0, asid := 0, root := 0, peerMask := 0, grants := [], cards := [], events := 0, unfinished := 1,
    ndone := 0
    nlate := 0, failed := none, ending := false, contract := true, saved := [], evKnow := [], since := 0 }

/-- Graph 0 is live with task 5,
  whose number is listed a second time for a task of graph 1; the submission ring holds an END of graph
0. -/
def twiceListedState : State :=
  { State.reset with
    mem := { Mem.reset with bytes := [(keyOf 4 64, 2)] }
    inbox := { Inbox.reset with doorbell := [(0, 1)] }
    hub := { Hub.reset with
      regs := [⟨1, 0, 0, 64, 0, 0, 0, 0, false⟩, ⟨7, 2, 0, 0, 2 ^ 32, 0, 0, 0, false⟩]
      graphs := [(0, some oneTaskGraph)], tasks := [(5, some (queuedTask 0)), (5, some (queuedTask 1))] } }

/-- The entry that the ring holds: an END of the graph with tag 0. -/
def endEntry : List Byte := 2 :: List.replicate 63 0

theorem twiceListed_entry : twiceListedState.nextEntry 0 = some (⟨1, 0, 0, 64, 0, 0, 0, 0, false⟩,
    endEntry) := by decide +kernel

/-- What task 5 reads as after a step. -/
def task5After : Out → Option (Option Task)
  | .next t => some (t.task 5)
  | _ => none

theorem twiceListed_end : task5After (exec (.hostEndGraph 0) twiceListedState) = some (some (queuedTask 1)) := by decide +kernel

/-- Refutes O54: after the END of graph 0, task 5, which was of graph 0 and without units, reads as the task of graph 1,
  which is not
done. -/
theorem not_entriesAreTakenAndTasksDispatched : ¬ Obligations.EntriesAreTakenAndTasksDispatched := by
  unfold Obligations.EntriesAreTakenAndTasksDispatched
  intro h
  obtain ⟨-, ends⟩ := h.1 twiceListedState 0 _ _ twiceListed_entry
  obtain ⟨t, run, -, hdone,
    -⟩ := ends 0 oneTaskGraph (by decide +kernel) (by decide +kernel) (by decide +kernel) (by decide +kernel)
  have after := twiceListed_end
  rw [run] at after
  have h5 : t.task 5 = some (queuedTask 1) := Option.some.inj after
  exact absurd (hdone 5 (queuedTask 0) _ rfl rfl (by decide) rfl h5).1 (by decide)

end Sys2Proof.Machine
end


section
/-! O50.  Links and peers. -/
namespace Sys2Proof.Machine

/-! ### Runs that a link or the time lock ends -/

/-- What a key reads as once every value has changed, where the change keeps the default. -/
theorem SMap.get_mapValues {α : Type} {d : α} {f : α → α} (hf : f d = d) (m : SMap α) (k : Nat) :
    SMap.get d (m.map fun q => (q.1, f q.2)) k = f (SMap.get d m k) := by
  induction m with
  | nil => exact hf.symm
  | cons e m ih =>
    rw [List.map_cons, SMap.get, SMap.get, ih]
    split_ifs <;> rfl

/-- What the end of the runs that meet `p` makes of a unit. -/
def UnitSt.endRunIf (p : Dctx → Bool) (status elink now : Nat) (U : UnitSt) : UnitSt :=
  if p U.dove then { U with dove := U.dove.endRun status elink now } else U

theorem UnitSt.endRunIf_of_not {p : Dctx → Bool} {status elink now : Nat} {U : UnitSt} (h : U.dove.status ≠ 2 ∨ p U.dove =
    false) :
    U.endRunIf p status elink now = U := by
  unfold UnitSt.endRunIf
  split_ifs with hp
  · rw [show U.dove.endRun status elink now = U.dove from if_neg (h.resolve_right (by rw [hp]; decide))]
  · rfl

theorem UnitSt.endRunIf_of_run {p : Dctx → Bool} {status elink now : Nat} {U : UnitSt} (h : U.dove.status = 2) (hp : p U.dove
    = true) :
    U.endRunIf p status elink now = { U with dove := { U.dove with status := status, elink := elink, endTime := now } } := by
  rw [UnitSt.endRunIf, if_pos hp, show U.dove.endRun status elink now = _ from if_pos h]

theorem State.endRuns_unit (s : State) (p : Dctx → Bool) (status elink u : Nat) :
    (s.endRuns p status elink).unit u = (s.unit u).endRunIf p status elink s.time.toNat :=
  SMap.get_mapValues (f := UnitSt.endRunIf p status elink s.time.toNat)
    (UnitSt.endRunIf_of_not (U := UnitSt.reset) (.inl (by decide))) s.units u

theorem Dctx.uses_iff (D : Dctx) (l : Nat) : D.uses l = true ↔ ∃ e ∈ D.ents, e.kind ≠ 4 ∧ e.link = l := by
  simp only [Dctx.uses, DEnt.usesLink, List.any_eq_true, Bool.and_eq_true, decide_eq_true_eq]

@[simp] theorem State.link_setLink_same (s : State) (l : Nat) (L : Link) : (s.setLink l L).link l = L := by
  simp [State.link, State.setLink]

theorem State.link_setLink_other (s : State) {l k : Nat} (L : Link) (h : k ≠ l) : (s.setLink l L).link k = s.link k := by
  simp [State.link, State.setLink, h]

theorem exec_dovetailLinkDown {s : State} {l : Nat} (hl : l < 16) (hup : (s.link l).lanes ≠ 0) :
    ∃ t, exec (.dovetailLinkDown l) s = .next t ∧ (t.link l).lanes = 0 ∧ t.mem = s.mem ∧
      (∀ u, let D := (s.unit u).dove
        (D.status = 2 → (∃ e ∈ D.ents, e.kind ≠ 4 ∧ e.link = l) → (t.unit u).dove.status = 6 ∧
          (t.unit u).dove.elink = l ∧ (t.unit u).dove.endTime = s.time.toNat) ∧
        ((D.status ≠ 2 ∨ ∀ e ∈ D.ents, e.kind = 4 ∨ e.link ≠ l) → t.unit u = s.unit u)) := by
  have run : exec (.dovetailLinkDown l) s = .next _ := congrArg Host.Outcome.next (if_neg (by simp [hup]; omega))
  refine ⟨_, run, congrArg Link.lanes (s.link_setLink_same l { s.link l with lanes := 0 }), rfl,
    fun u => ⟨fun hst huse => ?_, fun hno => ?_⟩⟩
  · have ended := ((s.setLink l { s.link l with lanes := 0 }).endRuns_unit (fun D => D.uses l) 6 l u).trans
      (UnitSt.endRunIf_of_run (U := s.unit u) hst ((Dctx.uses_iff _ l).2 huse))
    exact ⟨congrArg (fun U : UnitSt => U.dove.status) ended, congrArg (fun U : UnitSt => U.dove.elink) ended,
      congrArg (fun U : UnitSt => U.dove.endTime) ended⟩
  · refine ((s.setLink l { s.link l with lanes := 0 }).endRuns_unit (fun D => D.uses l) 6 l u).trans
      (UnitSt.endRunIf_of_not (U := s.unit u) (hno.imp_right fun h => ?_))
    rw [← Bool.not_eq_true, Dctx.uses_iff]
    rintro ⟨e, he, hk, hlink⟩
    exact (h e he).elim hk fun h => h hlink

/-! ### Beacons -/

/-- What a beacon that goes out on link `l` leaves of the links. -/
theorem State.sendOn_beacon (s : State) (l : Nat) (bs : List Byte) (k : Nat) : (s.sendOn l 1 0 bs).link k =
    if k = l ∧ (s.link k).lanes ≠ 0 then { s.link k with out := (s.link k).out ++ [(1, 0, bs)] } else s.link k := by
  unfold State.sendOn
  dsimp only
  obtain rfl | hk := eq_or_ne k l
  · by_cases h0 : (s.link k).lanes = 0 <;> simp [h0]
  · by_cases h0 : (s.link l).lanes = 0
    · simp [h0, hk]
    · simp [h0, hk, State.link_setLink_other]

/-- A beacon of module 0, link by link. -/
theorem beacons_link (time : Nat) (k : Nat) : ∀ (ls : List Nat) (s : State), ls.Nodup →
    (ls.foldl (fun s l => s.sendOn l 1 0 (u64 time)) s).link k =
      if k ∈ ls ∧ (s.link k).lanes ≠ 0 then { s.link k with out := (s.link k).out ++ [(1, 0, u64 time)] } else s.link k := by
  intro ls
  induction ls with
  | nil => intro s _; exact (if_neg (by simp)).symm
  | cons l ls ih =>
    intro s hl
    obtain ⟨hnew, hl⟩ := List.nodup_cons.1 hl
    rw [List.foldl_cons, ih _ hl, State.sendOn_beacon]
    obtain rfl | hk := eq_or_ne k l
    · simp [hnew]
    · simp [hk]

theorem exec_timeBeacon {s : State} {l : Nat} (hl : l < 16) (hm : s.hub.module_ = 0) (hup : (s.link l).lanes ≠ 0) :
    ∃ t, exec .timeBeacon s = .next t ∧
      (t.link l).out = (s.link l).out ++ [(1, 0, toBytes 8 s.time.toNat)] ∧ t.mem = s.mem ∧ t.units = s.units := by
  let sends := fun (s : State) l => s.sendOn l 1 0 (u64 s.time.toNat)
  have kept : ∀ (ls : List Nat) (t : State), t.hub.module_ = 0 → t.time = s.time →
      ls.foldl (fun s l => if s.hub.module_ = 0 ∨ fld s.hub.timePath l 1 = 1 then s.sendOn l 1 0 (u64 s.time.toNat) else s) t =
        ls.foldl (fun t l => t.sendOn l 1 0 (u64 s.time.toNat)) t := by
    intro ls
    induction ls with
    | nil => exact fun _ _ _ => rfl
    | cons k ls ih =>
      intro t h0 ht
      have same : (t.sendOn k 1 0 (u64 s.time.toNat)).hub.module_ = 0 ∧ (t.sendOn k 1 0 (u64 s.time.toNat)).time = s.time := by
        unfold State.sendOn
        dsimp only
        split_ifs <;> exact ⟨h0, ht⟩
      rw [List.foldl_cons, List.foldl_cons, if_pos (.inl h0), ht, ih _ same.1 same.2]
  have run : exec .timeBeacon s = .next _ := congrArg Host.Outcome.next (kept (List.range 16) s hm rfl)
  have rest := foldl_rel (R := fun s t : State => t.mem = s.mem ∧
    t.units = s.units) (f := fun t l => t.sendOn l 1 0 (u64 s.time.toNat))
    (fun _ => ⟨rfl, rfl⟩) (fun h k => ⟨k.1.trans h.1, k.2.trans h.2⟩) (fun t l => by
      unfold State.sendOn
      dsimp only
      split_ifs <;> exact ⟨rfl, rfl⟩) (List.range 16) s
  refine ⟨_, run, ?_, rest.1, rest.2⟩
  exact congrArg Link.out ((beacons_link s.time.toNat l (List.range 16) s List.nodup_range).trans (if_pos ⟨List.mem_range.2
    hl, hup⟩))

/-! ### Training -/

theorem exec_dovetailTrained {s : State} {l : Nat} (hl : l < 16) (hr : s.hub.retrain = 3) :
    ∃ t, exec (.dovetailTrained l) s = .next t ∧ (t.link l).lanes = 8 ∧ t.mem = s.mem := by
  have run : exec (.dovetailTrained l) s = .next _ := congrArg Host.Outcome.next (if_neg (by simp [hr]; omega))
  have lanes : ((s.setLink l { s.link l with lanes := 8 }).link l).lanes = 8 := congrArg Link.lanes (s.link_setLink_same l _)
  refine ⟨_, run, ?_⟩
  dsimp only
  split_ifs <;> exact ⟨lanes, rfl⟩

theorem exec_timeLockLoss {s : State} (h : s.hub.lock = true) : ∃ t, exec .timeLockLoss s = .next t ∧ t.hub.lock = false ∧
    t.mem = s.mem ∧
    ∀ u, (s.unit u).dove.status = 2 → (t.unit u).dove.status = 10 := by
  have run : exec .timeLockLoss s = .next _ := congrArg Host.Outcome.next (if_pos h)
  refine ⟨_, run, rfl, rfl, fun u hu => ?_⟩
  have ended := (s.endRuns_unit (fun _ => true) 10 0 u).trans (UnitSt.endRunIf_of_run hu rfl)
  exact congrArg (fun U : UnitSt => U.dove.status) ended

theorem flushFront_dead (l : List Staged) : ∀ m : Mem, (flushFront l m).dead = m.dead := by
  induction l with
  | nil => exact fun _ => rfl
  | cons w r ih =>
    intro m
    rw [flushFront]
    split_ifs
    · exact (ih _).trans rfl
    · rfl

/-- What every unchecked write and every change of the hub's registrations, waiting records and events leaves alone, a
record in a ring leaves alone. -/
theorem State.ringPut_keeps {α : Type} (f : State → α) (write : ∀ (s : State) k bs, f (s.writeMem 0 4 k bs false) = f s)
    (hub : ∀ (s : State) regs held events,
      f { s with hub := { s.hub with regs := regs, held := held, events := events } } = f s)
    (s : State) (kind : Nat) (rec : List Byte) : f (s.ringPut kind rec) = f s := by
  unfold State.ringPut
  split
  · rfl
  rename_i r _
  dsimp only
  split
  · exact hub s _ _ _
  split
  · rw [← write s (keyOf r.region r.addr + 8) (toBytes 4 (r.drop + 1))]
    generalize s.writeMem 0 4 (keyOf r.region r.addr + 8) (toBytes 4 (r.drop + 1)) false = t
    split
    · exact hub t _ t.hub.held t.hub.events
    · exact (hub _ _ (State.hub _).held _).trans (hub t _ t.hub.held t.hub.events)
  · rw [← write s (keyOf r.region r.addr + 64 + r.prod % r.nent * entrySize kind) rec]
    generalize s.writeMem 0 4 (keyOf r.region r.addr + 64 + r.prod % r.nent * entrySize kind) rec false = t
    rw [← write t (keyOf r.region r.addr) (toBytes 4 ((r.prod + 1) % 2 ^ 32))]
    generalize t.writeMem 0 4 (keyOf r.region r.addr) (toBytes 4 ((r.prod + 1) % 2 ^ 32)) false = t'
    exact hub t' _ t'.hub.held t'.hub.events

/-- A record in a ring, or one that waits, changes no die and no stack out of service. -/
theorem State.ringPut_dead (s : State) (kind : Nat) (rec : List Byte) :
    (s.ringPut kind rec).dies = s.dies ∧ (s.ringPut kind rec).mem.dead = s.mem.dead := by
  refine ⟨State.ringPut_keeps State.dies (fun s k bs => ?_) (fun _ _ _ _ => rfl) s kind rec,
    State.ringPut_keeps (fun s => s.mem.dead) (fun s k bs => flushFront_dead _ _) (fun _ _ _ _ => rfl) s kind rec⟩
  obtain ⟨-, us, m, rc, ts, rs, hot, h⟩ := s.writeMem_written 0 4 k bs false
  rw [h]

theorem exec_hbm4PhyTrained {s : State} {k : Nat} (ok : Bool) (hk : k < 8) (hr : s.hub.retrain = 2) :
    ∃ t, exec (.hbm4PhyTrained k ok) s = .next t ∧ (t.die k).trained = true ∧
      (ok = false → k ∈ t.mem.dead) ∧ (ok = true → s.hub.held = [] → t.mem = s.mem) := by
  let s1 := s.setDie k { s.die k with trained := true }
  let s2 := if ok then s1 else ({ s1 with mem := { s1.mem with dead := s1.mem.dead ++ [k] } } : State).tellHost 19 k 0 0
  have run : exec (.hbm4PhyTrained k ok) s = .next (if (List.range 8).all fun d => (s2.die d).trained then
      s2.hub.held.foldl (fun s q => s.ringPut q.1 q.2) { s2 with hub := { s2.hub with retrain := 3, held := [] } } else s2) :=
    congrArg Host.Outcome.next (if_neg (by simp [hr]; omega))
  have facts : (s2.die k).trained = true ∧ (ok = false → k ∈ s2.mem.dead) ∧ (ok = true → s2.mem = s.mem ∧
    s2.hub.held = s.hub.held) := by
    have mine : (s1.die k).trained = true := congrArg Die.trained (State.die_setDie_same s k _)
    unfold s2
    cases ok
    · exact ⟨mine, fun _ => List.mem_append_right _ (List.mem_singleton.2 rfl), fun h => by cases h⟩
    · exact ⟨mine, (fun h => by cases h), fun _ => ⟨rfl, rfl⟩⟩
  obtain ⟨htr, hdead, hkept⟩ := facts
  refine ⟨_, run, ?_⟩
  split_ifs
  · have rings := foldl_rel (R := fun s t : State => t.dies = s.dies ∧ t.mem.dead = s.mem.dead)
      (f := fun (s : State) (q : Nat × List Byte) => s.ringPut q.1 q.2) (fun _ => ⟨rfl, rfl⟩)
      (fun h k => ⟨k.1.trans h.1, k.2.trans h.2⟩) (fun s q => s.ringPut_dead q.1 q.2) s2.hub.held
      { s2 with hub := { s2.hub with retrain := 3, held := [] } }
    refine ⟨(congrArg (fun m => (SMap.get Die.reset m k).trained) rings.1).trans htr, fun h => ?_, fun h hno => ?_⟩
    · rw [rings.2]
      exact hdead h
    · obtain ⟨hm, hh⟩ := hkept h
      rw [show s2.hub.held = [] from hh.trans hno]
      exact hm
  · exact ⟨htr, hdead, fun h _ => (hkept h).1⟩

/-! ### Peers -/

section
variable {s : State} {id op key n : Nat} {bs : List Byte}

/-- A peer's access of memory of this module. -/
theorem exec_peerAccess (h : s.inbox.peer.find? (fun q => q.1 = id) = some (id, op, key, n, bs)) (hr : s.hub.retrain = 0)
    (hreg : keyRegion key ≤ 1) (hok : physOk (keyRegion key) (keyOff key + n - 1) = true) :
    let s0 : State := { s with inbox := { s.inbox with peer := s.inbox.peer.filter fun q => q.1 ≠ id } }
    exec (.peerAccess id) s = .next (if op ≠ 0 ∧ !s.pinned (keyRegion key) (keyOff key) n then s0.answer 3 id []
      else if op ≠ 1 ∧ s.mem.poisonFor .system key n then s0.answer 4 id []
      else State.answer (match peerNew op n (ofBytes (s.mem.read .system key n)) bs with
        | some w => s0.writeMem 0 4 key w false
        | none => s0.touch key) 2 id (if op = 1 then [] else s.mem.read .system key n)) := by
  intro s0
  have run : exec (.peerAccess id) s = .next (s.peerAccess id) := rfl
  rw [run, State.peerAccess, h]
  dsimp only
  exact congrArg Host.Outcome.next ((if_neg (by simp [hr])).trans (if_neg (by simp [hok]; omega)))

theorem exec_peerRead (h : s.inbox.peer.find? (fun q => q.1 = id) = some (id, 0, key, n, bs)) (hr : s.hub.retrain = 0)
    (hreg : keyRegion key ≤ 1) (hok : physOk (keyRegion key) (keyOff key + n - 1) = true) (hp : s.mem.poisonFor .system key n
      = false) :
    ∃ t, exec (.peerAccess id) s = .next t ∧ t.mem = s.mem ∧
      t.hub.answers = s.hub.answers ++ [(2, id, s.mem.read .system key n)] ∧ (∀ q ∈ t.inbox.peer, q.1 ≠ id) := by
  have run := exec_peerAccess h hr hreg hok
  dsimp only at run
  rw [if_neg (by simp), if_neg (by simp [hp])] at run
  obtain ⟨hot, htouch⟩ := ({ s with inbox := { s.inbox with peer := s.inbox.peer.filter fun q => q.1 ≠ id } } :
    State).touch_same key
  refine ⟨_, run, State.touch_mem .., ?_, ?_⟩
  · change (State.touch _ key).hub.answers ++ [_] = _
    rw [htouch]
    rfl
  · change ∀ q ∈ (State.touch _ key).inbox.peer, q.1 ≠ id
    rw [htouch]
    intro q hq
    simpa using (List.mem_filter.1 hq).2

theorem exec_peerWrite (h : s.inbox.peer.find? (fun q => q.1 = id) = some (id, 1, key, n, bs)) (hr : s.hub.retrain = 0)
    (hreg : keyRegion key ≤ 1) (hok : physOk (keyRegion key) (keyOff key + n - 1) = true)
    (hpin : s.pinned (keyRegion key) (keyOff key) n = true) :
    ∃ t, exec (.peerAccess id) s = .next t ∧
      (∀ v j, j < bs.length → t.mem.byte v (key + j) = bs.getD j 0) ∧
      (∀ v a, (a < key ∨ key + bs.length ≤ a) → t.mem.byte v a = s.mem.byte v a) ∧
      t.hub.answers = s.hub.answers ++ [(2, id, [])] := by
  have run := exec_peerAccess h hr hreg hok
  dsimp only at run
  rw [if_neg (by simp [hpin]), if_neg (by simp)] at run
  refine ⟨_, run, fun v j hj => ?_, fun v a ha => ?_, congrArg (· ++ [_]) (State.writeMem_written ..).answers⟩
  · change (s.mem.writeTag 0 4 key bs false).byte v (key + j) = _
    rw [Mem.byte_writeTag_widest _ _ _ _ _ _ (by omega), Nat.add_sub_cancel_left]
  · exact Mem.byte_writeTag_outside _ _ _ _ _ _ _ ha

theorem exec_peerRefused (h : s.inbox.peer.find? (fun q => q.1 = id) = some (id, op, key, n, bs)) (hr : s.hub.retrain = 0)
    (hreg : keyRegion key ≤ 1) (hok : physOk (keyRegion key) (keyOff key + n - 1) = true) (hop : op ≠ 0)
    (hpin : s.pinned (keyRegion key) (keyOff key) n = false) :
    ∃ t, exec (.peerAccess id) s = .next t ∧ t.mem = s.mem ∧ t.hub.answers = s.hub.answers ++ [(3, id, [])] := by
  have run := exec_peerAccess h hr hreg hok
  dsimp only at run
  rw [if_pos ⟨hop, by simp [hpin]⟩] at run
  exact ⟨_, run, rfl, rfl⟩

end

@[simp] theorem State.quitReplay_hub (s : State) (u id : Nat) : (s.quitReplay u id).hub = s.hub := by
  unfold State.quitReplay
  dsimp only
  split_ifs <;> rfl

theorem exec_peerWriteRefused {s : State} {u id key : Nat} {o : SOp} {before : List SOp} (hu : u < 768) (hh : s.halted u =
    false)
    (hfind : findSop id [] (s.unit u).work.sops = some (o, before)) (hkind : o.kind = .st ∨ o.kind = .strl)
    (hkey : o.place.key = some key) (hreg : keyRegion key = 3) (hready : s.sopReady u o before = true) :
    ∃ t, exec (.peerWriteRefused u id) s = .next t ∧ t.mem = s.mem ∧ (t.unit u).dove.pref = true ∧
      (∀ x ∈ (t.unit u).work.sops, x.id ≠ id) ∧
      t.hub.events = s.hub.events ++ [⟨6, u, fld (keyOff key) 46 6, keyOff key⟩] := by
  have hpeer : o.place.atPeer = true := by simp [Place.atPeer, hkey, hreg]
  have hwrites : o.writes = true := by rcases hkind with h | h <;> simp [SOp.writes, h]
  have run : exec (.peerWriteRefused u id) s = .next (s.peerRefused u id) := unitEvent_of_live hu hh
  have store : (match o.kind with | .amo _ => true | .cas => true | _ => false) = false := by rcases hkind with h | h <;> rw [h]
  have whole : ∃ t : State, s.peerRefused u id = t ∧ t.mem = (s.dropSop u id false).mem ∧
      t.unit u = { (s.dropSop u id false).unit u with dove := { ((s.dropSop u id false).unit u).dove with pref := true } } ∧
      t.hub.events = (s.dropSop u id false).hub.events ++ [⟨6, u, fld (keyOff key) 46 6, keyOff key⟩] := by
    unfold State.peerRefused
    simp only [hfind, hpeer, hwrites, hready, Bool.not_true, Bool.false_eq_true, or_self, if_false, hkey]
    rcases hkind with h | h <;> (simp only [h]; exact ⟨_, rfl, rfl, State.unit_setUnit_same .., rfl⟩)
  obtain ⟨t, ht, hmem, hunit, hev⟩ := whole
  have mine : (s.dropSop u id false).unit u = { s.unit u with work := { (s.unit u).work with
      sops := (s.unit u).work.sops.filter fun o => o.id ≠ id, gone := (s.unit u).work.gone.filter fun f => f.id ≠ id
      stores := (s.unit u).work.stores - 1 } } := State.unit_setUnit_same ..
  refine ⟨t, run.trans (congrArg _ ht), hmem.trans (State.dropSop_mem ..), by rw [hunit], fun x hx => ?_, ?_⟩
  · rw [hunit, mine] at hx
    simpa using (List.mem_filter.1 hx).2
  · rw [hev]
    exact congrArg (· ++ _) (congrArg Hub.events (s.quitReplay_hub u id))

/-- Settles O50: links, the time lock and peers as their events leave them. -/
theorem linksAndPeersAct : Obligations.LinksAndPeersAct := by
  unfold Obligations.LinksAndPeersAct
  refine ⟨fun s => ⟨fun l hl => ⟨fun h8 => ?_, fun hup => exec_dovetailLinkDown hl hup, fun hm hup => exec_timeBeacon hl hm hup,
    fun hr => exec_dovetailTrained hl hr⟩, exec_timeLockLoss, rfl, fun l hl => ⟨fun h => ?_, fun h => ?_, fun h => ?_⟩,
    fun k ok hk hr => exec_hbm4PhyTrained ok hk hr, fun l hl => ?_⟩, ?_, ?_⟩
  · exact congrArg Host.Outcome.next (if_neg (by simp [h8]; omega))
  · have run : exec (.sillaneDegrade l) s = .next _ := congrArg Host.Outcome.next (if_neg (by simp [h]; omega))
    exact ⟨_, run, SMap.get_set_same 16 s.hub.silLanes l 8, rfl⟩
  · have run : exec (.sillaneLinkDown l) s = .next _ := congrArg Host.Outcome.next (if_neg (by simp [h]; omega))
    exact ⟨_, run, SMap.get_set_same 16 s.hub.silLanes l 0, rfl⟩
  · have run : exec (.sillaneTrained l) s = .next _ := congrArg Host.Outcome.next (if_neg (by simp [h]; omega))
    exact ⟨_, run, SMap.get_set_same 16 s.hub.silLanes l 16, Nat.le_max_left ..⟩
  · have run : exec (.cxlLinkDown l) s = .next _ := congrArg Host.Outcome.next (if_neg (by omega))
    refine ⟨_, run, ?_, rfl⟩
    by_cases hc : l ∈ s.hub.cxlDown <;> simp [State.tellHost, hc]
  · intro s id op key n bs h hr hreg hok
    refine ⟨?_, ?_, fun hop hpin => exec_peerRefused h hr hreg hok hop hpin⟩
    · rintro rfl hp
      exact exec_peerRead h hr hreg hok hp
    · rintro rfl hpin
      exact exec_peerWrite h hr hreg hok hpin
  · intro s u id key o before hu hh hfind hkind hkey hreg hready
    exact exec_peerWriteRefused hu hh hfind hkind hkey hreg hready

end Sys2Proof.Machine
end



section
/-! O49. The entries of a Dovetail run. -/
namespace Sys2Proof.Machine

section
variable {s : State} {u i : Nat} {e : DEnt}

theorem Dctx.endRun_of_run {D : Dctx} (status elink now : Nat) (h : D.status = 2) :
    D.endRun status elink now = { D with status := status, elink := elink, endTime := now } := if_pos h

theorem Dctx.endRun_ents (D : Dctx) (status elink now : Nat) : (D.endRun status elink now).ents = D.ents := by
  unfold Dctx.endRun
  split_ifs <;> rfl

theorem Dctx.endRun_donen (D : Dctx) (status elink now : Nat) : (D.endRun status elink now).donen = D.donen := by
  unfold Dctx.endRun
  split_ifs <;> rfl

theorem Dctx.setEnt_get {D : Dctx} (st : Nat) (h : D.ents[i]? = some e) : (D.setEnt i st).ents[i]? = some { e with st := st }
    := by
  simp [Dctx.setEnt, h]

/-- The entry that is performed is done and counted, whether or not the run ends with it. -/
theorem Dctx.performed_get {D : Dctx} (now fl : Nat) (h : D.ents[i]? = some e) :
    (D.performed i now fl).donen = D.donen + 1 ∧ (D.performed i now fl).ents[i]? = some { e with st := 2 } := by
  have done := Dctx.setEnt_get 2 h
  unfold Dctx.performed
  dsimp only
  split
  · exact ⟨Dctx.endRun_donen .., (congrArg (·[i]?) (Dctx.endRun_ents ..)).trans done⟩
  · exact ⟨rfl, done⟩

/-- An entry of a run whose beat has begun may start once the entries before it are performed (R288). -/
theorem Dctx.mayStart_of_done {D : Dctx} (hi : D.ents[i]? = some e) (hrun : D.status = 2) (hst : e.st = 0) (hb : e.beat <
    D.beat)
    (before : ∀ q ∈ D.ents.take i, q.st = 2) : D.mayStart i = true := by
  rw [Dctx.mayStart, hi]
  simp only [hrun, hst, hb, decide_true, Bool.true_and, List.all_eq_true]
  intro q hq
  simp [before q hq]

theorem State.dove_setDove (s : State) (u : Nat) (D : Dctx) : ((s.setDove u D).unit u).dove = D :=
  congrArg UnitSt.dove (State.unit_setUnit_same ..)

theorem State.link_setDove (s : State) (u : Nat) (D : Dctx) (l : Nat) : (s.setDove u D).link l = s.link l := rfl

/-! ### Beats and starts -/

theorem doveStart_of_down (hi : (s.unit u).dove.ents[i]? = some e) (may : (s.unit u).dove.mayStart i = true)
    (hrun : (s.unit u).dove.status = 2) (hk : e.kind ≠ 4) (down : (s.link e.link).lanes = 0) :
    s.doveStart u i = s.setUnit u { s.unit u with
      dove := { (s.unit u).dove with status := 6, elink := e.link, endTime := s.time.toNat } } := by
  simp only [State.doveStart, hi, may, Bool.not_true, Bool.false_eq_true, if_false]
  rw [if_pos ⟨hk, down⟩, Dctx.endRun_of_run _ _ _ hrun]
  rfl

theorem doveStart_of_receiver (hi : (s.unit u).dove.ents[i]? = some e) (may : (s.unit u).dove.mayStart i = true)
    (hk : e.kind ≠ 1) (up : e.kind = 4 ∨ (s.link e.link).lanes ≠ 0) :
    s.doveStart u i = s.setDove u ((s.unit u).dove.setEnt i 1) := by
  simp only [State.doveStart, hi, may, Bool.not_true, Bool.false_eq_true, if_false]
  rw [if_neg (fun h => up.elim h.1 fun k => k h.2), if_pos hk]

theorem doveStart_of_send {l : List (Nat × Nat)} (hi : (s.unit u).dove.ents[i]? = some e)
    (may : (s.unit u).dove.mayStart i = true) (hk : e.kind = 1) (up : (s.link e.link).lanes ≠ 0)
    (keys : s.doveKeys u (s.unit u).dove ⟨e.ka % 4, e.addr, 32 * e.nblk,
      permR⟩ .read = .inr l) (clean : s.dovePoison l = false) :
    s.doveStart u i = ((s.doveTouch l).sendOn e.link 0 ((s.unit u).dove.place i) (s.doveRead l)).setDove u ((s.unit
      u).dove.setEnt i 1) := by
  have ranges : e.ranges.head? = some ⟨e.ka % 4, e.addr, 32 * e.nblk, permR⟩ := by
    rw [DEnt.ranges, hk]
    rfl
  simp only [State.doveStart, hi, may, Bool.not_true, Bool.false_eq_true, if_false]
  rw [if_neg (fun h => up h.2), if_neg (fun h => h hk), ranges]
  simp only [keys, clean, Bool.false_eq_true, if_false]

theorem State.doveTouch_same (s : State) (l : List (Nat × Nat)) : s.SameButHot (s.doveTouch l) := by
  refine foldl_rel (R := State.SameButHot) (fun s => ⟨s.hub.hot, rfl⟩) ?_ (fun s q => s.touchRange_same q.1 q.2) l s
  rintro s _ _ ⟨_, rfl⟩ ⟨hot, rfl⟩
  exact ⟨hot, rfl⟩

/-- Data sent on a link that is up is the last on it. -/
theorem State.sendOn_out (s : State) {k place : Nat} (bs : List Byte) (up : (s.link k).lanes ≠ 0) :
    ((s.sendOn k 0 place bs).link k).out = (s.link k).out ++ [(0, place, bs)] := by
  rw [State.sendOn, if_neg up, if_neg (by decide), State.link_setLink_same]

/-- What a SEND leaves: its data is the last on its link, and no byte of memory has changed. -/
theorem State.doveTouch_sendOn {l : List (Nat × Nat)} {k place : Nat} (bs : List Byte) (up : (s.link k).lanes ≠ 0) :
    ((s.doveTouch l).sendOn k 0 place bs).mem = s.mem ∧
      (((s.doveTouch l).sendOn k 0 place bs).link k).out = (s.link k).out ++ [(0, place, bs)] := by
  obtain ⟨hot, h⟩ := s.doveTouch_same l
  have hmem : (s.doveTouch l).mem = s.mem := by rw [h]
  have hlink : (s.doveTouch l).link k = s.link k := by
    rw [h]
    rfl
  rw [← hlink] at up ⊢
  exact ⟨(State.sendOn_kept ..).2.2.trans hmem, State.sendOn_out _ bs up⟩

/-! ### Entries that are performed -/

theorem dovePerform_of_send (hi : (s.unit u).dove.ents[i]? = some e) (hst : e.st = 1) (hk : e.kind = 1) :
    s.dovePerform u i = s.setDove u ((s.unit u).dove.performed i s.time.toNat 0) := by
  simp only [State.dovePerform, hi, hst, hk, ne_eq, not_true_eq_false, if_false]

theorem Dctx.firstReceiver_of_done {D : Dctx} (l : Nat) (before : ∀ q ∈ D.ents.take i,
    q.st = 2) : D.firstReceiver i l = true := by
  rw [Dctx.firstReceiver, List.all_eq_true]
  intro q hq
  simp [before q hq]

section
variable {b : List Byte} {rest : List (Nat × List Byte)}
  (hi : (s.unit u).dove.ents[i]? = some e) (hst : e.st = 1) (hk : e.kind = 2)
  (before : ∀ q ∈ (s.unit u).dove.ents.take i, q.st = 2) (held : (s.link e.link).held = ((s.unit u).dove.place i, b) :: rest)
  (intime : (s.unit u).dove.status = 2 →
    s.time.toNat ≤ (s.unit u).dove.t0 + (e.beat + (s.unit u).dove.tout) * (s.unit u).dove.beatns)
include hi hst hk before held intime

/-- A WRITE in time, once the entries before it are performed, takes the data of its own place. -/
theorem dovePerform_of_write : s.dovePerform u i =
    let s0 := s.setLink e.link { s.link e.link with held := rest }
    let D := (s.unit u).dove
    if b.length ≠ 32 * e.nblk then s0.setDove u ((D.setEnt i 0).endRun 7 e.link s.time.toNat)
    else match s.doveKeys u D ⟨e.ka % 4, e.addr, 32 * e.nblk, permW⟩ .write with
      | .inl s1 => s1
      | .inr l => (s0.doveWrite u (D.caps.getD (e.ka % 4) Cap.null).space l b).setDove u (D.performed i s.time.toNat 0) := by
  have ranges : e.ranges = [⟨e.ka % 4, e.addr, 32 * e.nblk, permW⟩] := by
    rw [DEnt.ranges, hk]
    rfl
  have first := Dctx.firstReceiver_of_done (D := (s.unit u).dove) e.link before
  simp only [State.dovePerform, hi, hst, ranges, held, ne_eq, not_true_eq_false, if_false]
  rw [hk]
  change (if _ ∨ (s.unit u).dove.place i < _ then s else if (s.unit u).dove.place i < _ then _ else if _ ∧
    _ then _ else if _ then _ else _) = _
  rw [if_neg (by simp [first]), if_neg (Nat.lt_irrefl _), if_neg (fun h => Nat.not_lt.2 (intime h.1) h.2)]
  refine if_congr Iff.rfl rfl ?_
  rw [if_pos rfl]
  cases s.doveKeys u (s.unit u).dove ⟨e.ka % 4, e.addr, 32 * e.nblk, permW⟩ .write <;> rfl

theorem dovePerform_wrong_length (hlen : b.length ≠ 32 * e.nblk) : s.dovePerform u i =
    (s.setLink e.link { s.link e.link with held := rest }).setDove u (((s.unit u).dove.setEnt i 0).endRun 7 e.link
      s.time.toNat) :=
  (dovePerform_of_write hi hst hk before held intime).trans (if_pos hlen)

theorem dovePerform_written {k : Nat} (hlen : b.length = 32 * e.nblk)
    (hsp : ((s.unit u).dove.caps.getD (e.ka % 4) Cap.null).space = 0)
    (keys : s.doveKeys u (s.unit u).dove ⟨e.ka % 4, e.addr, 32 * e.nblk, permW⟩ .write = .inr [(k, 32 * e.nblk)]) :
    s.dovePerform u i = ((s.setLink e.link { s.link e.link with held := rest }).writeMem u 3 k b false).setDove u
      ((s.unit u).dove.performed i s.time.toNat 0) := by
  rw [dovePerform_of_write hi hst hk before held intime]
  dsimp only
  rw [if_neg (fun h => h hlen), keys, hsp]
  dsimp only
  rw [State.doveWrite, ← hlen, List.take_length]
  rfl

end

theorem State.writeMem_links (s : State) (w lvl k : Nat) (bs : List Byte) (tag : Bool) (l : Nat) :
    (s.writeMem w lvl k bs tag).link l = s.link l := by
  obtain ⟨-, us, m, rc, ts, rs, hot, h⟩ := s.writeMem_written w lvl k bs tag
  rw [h]
  rfl

/-- A write at the device's scope is read by every party of the device. -/
theorem Mem.byte_writeTag_device (m : Mem) (u k : Nat) (bs : List Byte) (tag : Bool) {j : Nat} (hj : j < bs.length) :
    (m.writeTag u 3 k bs tag).byte .device (k + j) = bs.getD j 0 := by
  have seen : Staged.seenBy ⟨m.nextId, u, 3, k, bs, tag, 0, []⟩ .device = true := by simp [Staged.seenBy, visible]
  rw [Mem.byte_writeTag, seen, if_pos (by simp [hj]), Nat.add_sub_cancel_left]

theorem doveTimeout_of_bound (hi : (s.unit u).dove.ents[i]? = some e) (hr : e.receives = true) (hst : e.st ≠ 2)
    (late : (s.unit u).dove.t0 + (e.beat + (s.unit u).dove.tout) * (s.unit u).dove.beatns ≤ s.time.toNat) :
    s.doveTimeout u i = s.setDove u (((s.unit u).dove.endRun 5 e.link s.time.toNat).setEnt i 0) := by
  simp only [State.doveTimeout, hi]
  exact if_pos ⟨hr, hst, late⟩

theorem doveReceive_of_room {l : Nat} {b : Nat × List Byte} {rest : List (Nat × List Byte)} (hin : (s.link l).inbox = b :: rest)
    (room : ((s.link l).held.map fun x => x.2.length).sum + b.2.length ≤ 2 ^ 20) :
    s.doveReceive l = s.setLink l { s.link l with held := (s.link l).held ++ [b], inbox := rest } := by
  simp only [State.doveReceive, hin]
  exact if_pos (.inl room)

end

/-- Settles O49: what each event of a run leaves, beat by beat and entry by entry. -/
theorem dovetailRunsPerformTheirEntries : Obligations.DovetailRunsPerformTheirEntries := by
  unfold Obligations.DovetailRunsPerformTheirEntries
  intro s u hu hh
  have live : ∀ t : State, unitEvent u s t = .next t := fun t => unitEvent_of_live hu hh
  refine ⟨fun hrun hbeat => ?_, fun i e hi => ⟨fun hrun hst hb before => ?_, fun hst hk => ?_,
    fun b rest hst hk before held intime =>
    ⟨fun hlen => ?_, fun k hlen hsp keys => ?_⟩, fun hr hst late hrun => ?_⟩, fun l b rest hin room => ?_⟩
  · exact (live _).trans (congrArg Host.Outcome.next (if_pos ⟨hrun, hbeat⟩))
  · have may := Dctx.mayStart_of_done hi hrun hst hb before
    refine ⟨fun hk down => (live _).trans (congrArg _ (doveStart_of_down hi may hrun hk down)), fun hk up => ?_,
      fun l hk up keys clean => ?_⟩
    · refine ⟨_, (live _).trans (congrArg _ (doveStart_of_receiver hi may hk up)), ?_, rfl, rfl⟩
      rw [State.dove_setDove]
      exact Dctx.setEnt_get 1 hi
    · obtain ⟨hmem, hout⟩ := State.doveTouch_sendOn (l := l) (place := (s.unit u).dove.place i) (s.doveRead l) up
      refine ⟨_, (live _).trans (congrArg _ (doveStart_of_send hi may hk up keys clean)), ?_, hmem, hout⟩
      rw [State.dove_setDove]
      exact Dctx.setEnt_get 1 hi
  · refine ⟨_, (live _).trans (congrArg _ (dovePerform_of_send hi hst hk)), ?_⟩
    rw [State.dove_setDove]
    obtain ⟨count, done⟩ := Dctx.performed_get (D := (s.unit u).dove) s.time.toNat 0 hi
    exact ⟨count, done, rfl⟩
  · refine ⟨_, (live _).trans (congrArg _ (dovePerform_wrong_length hi hst hk before held intime hlen)), rfl, ?_,
      fun hrun => ?_⟩
    · rw [State.link_setDove, State.link_setLink_same]
    · rw [State.dove_setDove, Dctx.endRun_of_run _ _ _ (show ((s.unit u).dove.setEnt i 0).status = 2 from hrun)]
      exact ⟨rfl, rfl⟩
  · obtain ⟨count, done⟩ := Dctx.performed_get (D := (s.unit u).dove) s.time.toNat 0 hi
    refine ⟨_, (live _).trans (congrArg _ (dovePerform_written hi hst hk before held intime hlen hsp keys)), ?_,
      fun j hj => Mem.byte_writeTag_device s.mem u k b false hj,
        fun v x hx => Mem.byte_writeTag_outside s.mem u 3 k b false v hx, ?_⟩
    · rw [State.link_setDove, State.writeMem_links, State.link_setLink_same]
    · rw [State.dove_setDove]
      exact ⟨count, done⟩
  · refine ⟨_, (live _).trans (congrArg _ (doveTimeout_of_bound hi hr hst late)), ?_⟩
    rw [State.dove_setDove, Dctx.endRun_of_run _ _ _ hrun]
    exact ⟨rfl, rfl, rfl, rfl⟩
  · refine ⟨_, congrArg Host.Outcome.next (doveReceive_of_room hin room), ?_⟩
    rw [State.link_setLink_same]
    exact ⟨rfl, rfl, rfl⟩

end Sys2Proof.Machine
end



section
/-! O47. Near-memory commands. -/
namespace Sys2Proof.Machine

/-! ### Reads of what has been written at the device's scope -/

/-- Piece `j` of pieces of one length. -/
theorem flatten_piece {α : Type} {n : Nat} {L : List (List α)} (hL : ∀ l ∈ L, l.length = n) {j : Nat} (hj : j < L.length) :
    (L.flatten.drop (n * j)).take n = L[j] := by
  induction L generalizing j with
  | nil => exact absurd hj (Nat.not_lt_zero _)
  | cons a L ih =>
    have ha : a.length = n := hL a (List.mem_cons_self ..)
    rw [List.flatten_cons]
    cases j with
    | zero => simp [← ha]
    | succ j =>
      have skip : n * (j + 1) = a.length + n * j := by rw [ha, Nat.mul_succ, Nat.add_comm]
      rw [skip, List.drop_length_add_append]
      exact ih (fun l hl => hL l (List.mem_cons_of_mem _ hl)) (Nat.lt_of_succ_lt_succ hj)

theorem flatten_length_uniform {α : Type} {n : Nat} {L : List (List α)} (hL : ∀ l ∈ L,
    l.length = n) : L.flatten.length = n * L.length := by
  rw [List.length_flatten, List.map_congr_left hL, List.map_const', List.sum_replicate, smul_eq_mul, Nat.mul_comm]

/-- A part of the bytes just written at the device's scope. -/
theorem Mem.num_writeTag_device (m : Mem) (u k : Nat) (bs : List Byte) (tag : Bool) {o n : Nat} (h : o + n ≤ bs.length) :
    (m.writeTag u 3 k bs tag).num .device (k + o) n = byteField bs o n := by
  rw [Mem.num, byteField]
  congr 1
  apply List.ext_getElem
  · simp [Mem.read]
    omega
  · intro i hi _
    have hi' : i < n := by simpa [Mem.read] using hi
    simp only [Mem.read, List.getElem_map, List.getElem_range, List.getElem_take, List.getElem_drop]
    rw [Nat.add_assoc, Mem.byte_writeTag_device m u k bs tag (by omega), List.getD_eq_getElem _ _ (by omega)]

theorem Mem.renewed_cons (w : Staged) (l : List Staged) (m : Mem) (v : Viewer) (g : Nat) :
    Mem.renewed { m with staged := w :: l } v g =
      ((w.seenBy v && decide (w.key ≤ g * 64) && decide (g * 64 + 64 ≤ w.key + w.bytes.length)) || Mem.renewed
        { m with staged := l } v g) := rfl

/-- No write that reaches its home brings poison with it. -/
theorem flushFront_poisonFor (v : Viewer) (k n : Nat) (l : List Staged) : ∀ m : Mem,
    Mem.poisonFor { m with staged := l } v k n = false → (flushFront l m).poisonFor v k n = false := by
  induction l with
  | nil => exact fun _ h => h
  | cons w r ih =>
    intro m h
    rw [flushFront]
    split_ifs with hw
    · refine ih _ ?_
      simp only [Mem.poisonFor, Bool.and_eq_false_iff, Bool.or_eq_false_iff, List.any_eq_false] at h ⊢
      refine h.imp id fun ⟨hd, hp⟩ => ⟨hd, fun e he hit => ?_⟩
      obtain ⟨hmem, hleft⟩ := List.mem_filter.1 he
      refine hp e hmem ?_
      rw [Mem.renewed_cons]
      simp only [Bool.and_eq_true, Bool.not_eq_true', Bool.or_eq_false_iff] at hit hleft ⊢
      refine ⟨hit.1, ?_, hit.2⟩
      rw [Bool.and_assoc, hleft, Bool.and_false]
    · exact h

theorem Mem.poisonFor_writeTag {m : Mem} {v : Viewer} {k n : Nat} (h : m.poisonFor v k n = false) (u lvl key : Nat) (bs :
    List Byte)
    (tag : Bool) : (m.writeTag u lvl key bs tag).poisonFor v k n = false := by
  refine flushFront_poisonFor v k n _ _ ?_
  simp only [Mem.poisonFor, Bool.and_eq_false_iff, Bool.or_eq_false_iff, List.any_eq_false] at h ⊢
  refine h.imp id fun ⟨hd, hp⟩ => ⟨hd, fun e he hit => hp e he ?_⟩
  simp only [Bool.and_eq_true, Bool.not_eq_true', Mem.renewed, List.any_append, Bool.or_eq_false_iff] at hit ⊢
  exact ⟨hit.1, hit.2.1⟩

/-! ### Granules of a command -/

theorem State.writeMem_dies (s : State) (u lvl k : Nat) (bs : List Byte) (tag : Bool) : (s.writeMem u lvl k bs tag).dies =
    s.dies := by
  obtain ⟨-, us, m, rc, ts, rs, hot, h⟩ := s.writeMem_written u lvl k bs tag
  rw [h]

/-- Only operations 1 and 2 read a source. -/
theorem nmElem_of_no_source {op : Nat} (h : 2 < op) (a b old src src' : Nat) : nmElem op a b old src = nmElem op a b old src'
    := by
  unfold nmElem
  split
  · omega
  · omega
  · rfl
  · rfl

theorem Nmc.granule_length (c : Nmc) (m : Mem) (i : Nat) : (c.granule m i).1.length = 64 := by
  rw [Nmc.granule, flatten_length_uniform (n := 4) (by simp)]
  simp

/-- Element `j` of a granule. -/
theorem Nmc.granule_elem (c : Nmc) (m : Mem) (i : Nat) {j : Nat} (hj : j < 16) : byteField (c.granule m i).1 (4 * j) 4 =
    (nmElem c.op c.alpha.toNat c.beta.toNat (m.num .device (c.dkey + 64 * i + 4 * j) 4)
      (m.num .device (c.skey + 64 * i + 4 * j) 4)).1 % 2 ^ 32 := by
  rw [Nmc.granule, byteField, flatten_piece (by simp) (by simpa using hj)]
  simp only [List.getElem_map, List.getElem_range]
  rw [ofBytes_toBytes]
  norm_num

/-- What `n` granules from granule `i` on leave, in a state reached from `s`: their elements, and nothing else. -/
structure Nmc.Wrote (c : Nmc) (s : State) (i n : Nat) (t : State) : Prop where
  elems : ∀ j, 16 * i ≤ j → j < 16 * (i + n) → t.mem.num .device (c.dkey + 4 * j) 4 =
    (nmElem c.op c.alpha.toNat c.beta.toNat (s.mem.num .device (c.dkey + 4 * j) 4) (s.mem.num .device (c.skey + 4 * j) 4)).1
      % 2 ^ 32
  frame : ∀ v x, (x < c.dkey + 64 * i ∨ c.dkey + 64 * (i + n) ≤ x) → t.mem.byte v x = s.mem.byte v x
  dies : t.dies = s.dies

theorem Mem.num_of_bytes {m m' : Mem} {v : Viewer} {k n : Nat} (h : ∀ x, k ≤ x → x < k + n → m'.byte v x = m.byte v x) :
    m'.num v k n = m.num v k n := by
  rw [Mem.num, Mem.num, Mem.read, Mem.read]
  congr 1
  apply List.map_congr_left
  intro i hi
  exact h _ (Nat.le_add_right ..) (Nat.add_lt_add_left (List.mem_range.1 hi) _)

/-- One granule more, written first. -/
theorem Nmc.Wrote.cons {c : Nmc} {s t : State} {i n fl : Nat}
    (apart : c.op ≤ 2 → c.skey + 64 * (i + (n + 1)) ≤ c.dkey ∨ c.dkey + 64 * (i + (n + 1)) ≤ c.skey)
    (h : Nmc.Wrote { c with flags := fl } (s.writeMem c.u 3 (c.dkey + 64 * i) (c.granule s.mem i).1 false) (i + 1) n t) :
    c.Wrote s i (n + 1) t := by
  obtain ⟨elems, frame, dies⟩ := h
  have len := c.granule_length s.mem i
  refine ⟨fun j hj hj' => ?_, fun v x hx => ?_, dies.trans (State.writeMem_dies ..)⟩
  · by_cases first : j < 16 * (i + 1)
    · have kept : t.mem.num .device (c.dkey + 4 * j) 4 =
          (s.mem.writeTag c.u 3 (c.dkey + 64 * i) (c.granule s.mem i).1 false).num .device (c.dkey + 4 * j) 4 :=
        Mem.num_of_bytes fun x _ hx => frame .device x (.inl (by dsimp only; omega))
      have place : c.dkey + 4 * j = c.dkey + 64 * i + 4 * (j - 16 * i) := by omega
      have splace : c.skey + 64 * i + 4 * (j - 16 * i) = c.skey + 4 * j := by omega
      rw [kept, place, Mem.num_writeTag_device _ _ _ _ _ (by omega), c.granule_elem s.mem i (by omega), splace]
    · rw [elems j (by omega) (by omega)]
      dsimp only
      rw [State.writeMem_mem, Mem.num_writeTag_outside _ _ _ _ _ _ _ (by omega)]
      by_cases two : c.op ≤ 2
      · rw [Mem.num_writeTag_outside _ _ _ _ _ _ _ (by have := apart two; omega)]
      · rw [nmElem_of_no_source (Nat.lt_of_not_le two)]
  · rw [frame v x (by dsimp only; omega)]
    exact Mem.byte_writeTag_outside _ _ _ _ _ _ _ (by omega)

/-- A command that meets no poison, and whose ranges do not overlap, is done granule by granule. -/
theorem Nmc.run_of_clean (n : Nat) : ∀ (c : Nmc) (s : State) (i : Nat),
    (c.op ≤ 2 → c.skey + 64 * (i + n) ≤ c.dkey ∨ c.dkey + 64 * (i + n) ≤ c.skey) →
    (∀ j, i ≤ j → j < i + n → c.meetsPoison s.mem j = false) →
    c.Wrote s i n (c.run s i n).1 ∧ ∃ fl, (c.run s i n).2 = { c with flags := fl, st := 1, first := c.dva + 64 * c.ngran } := by
  induction n with
  | zero => exact fun c s i _ _ => ⟨⟨fun j h h' => by omega, fun _ _ _ => rfl, rfl⟩, c.flags, rfl⟩
  | succ n ih =>
    intro c s i apart clean
    rw [Nmc.run, if_neg (by simp [clean i (Nat.le_refl _) (by omega)])]
    have later := ih { c with flags := c.flags ||| (c.granule s.mem i).2 }
      (s.writeMem c.u 3 (c.dkey + 64 * i) (c.granule s.mem i).1 false) (i + 1) (fun h => by have := apart h; dsimp only; omega)
      fun j hj hj' => ?_
    · obtain ⟨wrote, fl, last⟩ := later
      exact ⟨wrote.cons apart, fl, last⟩
    · have before := clean j (by omega) (by omega)
      simp only [Nmc.meetsPoison, State.writeMem_mem, Bool.or_eq_false_iff, Bool.and_eq_false_iff] at before ⊢
      exact ⟨before.1.imp (fun h => h) fun h => Mem.poisonFor_writeTag h ..,
        before.2.imp (fun h => h) fun h => Mem.poisonFor_writeTag h ..⟩

/-! ### A stack takes up a command -/

section
variable {s : State} {k : Nat} {c : Nmc}

theorem State.nmCommand_of_first (fresh : ∀ x ∈ (s.die k).nm, x.st ≠ 2)
    (first : (s.die k).nm.find? (fun c => c.st = 0 && nmFirst (s.die k).nm c) = some c) :
    s.nmCommand k = (c.judge s).1.setDie k { (c.judge s).1.die k with
      nm := ((c.judge s).1.die k).nm.map fun x => if x.id = c.id then (c.judge s).2 else x } := by
  have none2 : (s.die k).nm.find? (fun c => c.st = 2 && nmFirst (s.die k).nm c) = none := by
    rw [List.find?_eq_none]
    intro x hx
    simp [fresh x hx]
  simp only [State.nmCommand, none2, first]

/-- The command that a stack has taken up stands in its queue as the unit has left it. -/
theorem State.mem_nm_of_judged (first : (s.die k).nm.find? (fun c => c.st = 0 && nmFirst (s.die k).nm c) = some c)
    {r : State} {q : Nmc} (hr : r.dies = s.dies) :
    q ∈ ((r.setDie k { r.die k with nm := (r.die k).nm.map fun x => if x.id = c.id then q else x }).die k).nm := by
  have same : r.die k = s.die k := congrArg (SMap.get Die.reset · k) hr
  rw [State.die_setDie_same, same]
  exact List.mem_map.2 ⟨c, List.mem_of_find?_eq_some first, if_pos rfl⟩

end

/-! ### The end of a command -/

/-- The dies, and what a unit's work holds but its words in flight, are as they were. -/
def State.SameWork (s t : State) : Prop := t.dies = s.dies ∧ ∀ u, (t.unit u).workKept = (s.unit u).workKept

theorem State.SameWork.trans {s t r : State} (h : s.SameWork t) (k : t.SameWork r) : s.SameWork r :=
  ⟨k.1.trans h.1, fun u => (k.2 u).trans (h.2 u)⟩

theorem State.fallIfDue_sameWork (s : State) (u b : Nat) : s.SameWork (s.fallIfDue u 1 b) := by
  have settled : s.SameWork (s.setUnit u (((s.unit u).setBank 1 b ((s.unit u).bank 1 b).fallNow).retire .V)) := by
    refine ⟨rfl, fun v => ?_⟩
    rw [State.unit_setUnit]
    split_ifs with hv
    · rw [hv, UnitSt.retire_workKept, UnitSt.workKept_of_work (UnitSt.setBank_work ..)]
    · rfl
  unfold State.fallIfDue State.fall
  split
  · rw [if_neg (by decide)]
    dsimp only
    split
    · exact settled
    · exact settled
  · exact ⟨rfl, fun _ => rfl⟩

theorem State.fallsIfDue_sameWork (u : Nat) (l : List Nat) (s : State) : s.SameWork (l.foldl (fun s j => s.fallIfDue u 1 j)
    s) :=
  foldl_rel (R := State.SameWork) (fun _ => ⟨rfl, fun _ => rfl⟩) State.SameWork.trans (fun s j => s.fallIfDue_sameWork u j) l s

theorem State.fallsIfDue_of_none {u : Nat} {l : List Nat} {s : State} (h : ∀ j ∈ l, (s.unit u).fallDue 1 j = false) :
    l.foldl (fun s j => s.fallIfDue u 1 j) s = s := by
  induction l with
  | nil => rfl
  | cons j l ih =>
    rw [List.foldl_cons, show s.fallIfDue u 1 j = s from if_neg (by simp [h j (List.mem_cons_self ..)])]
    exact ih fun i hi => h i (List.mem_cons_of_mem _ hi)

theorem UnitSt.wakeSpad_work (U : UnitSt) (off n : Nat) : (U.wakeSpad off n).work = U.work :=
  foldl_keeps UnitSt.work (fun V j => by
    dsimp only
    split_ifs
    · rfl
    · exact UnitSt.setBank_work ..) (spadBanks off n) U

/-- What the end of a command leaves of its unit's work. -/
def Nmc.endWork (c : Nmc) (k : Nat) (W : Work) : Work :=
  let failed := if c.status = 0 then W.nmFail else W.nmFail ++ [c.seq * 2 ^ 32 + c.crec]
  { W with nmcs := W.nmcs.erase (k * 2 ^ 32 + c.id), nmFail := failed }

theorem Nmc.record_length (c : Nmc) : c.record.length = 16 := by
  simp [Nmc.record, u16, u32, u64]

theorem Nmc.record_status (c : Nmc) : byteField c.record 0 2 = c.status % 2 ^ 16 :=
  ofBytes_toBytes 2 c.status

theorem Nmc.record_first (c : Nmc) : byteField c.record 8 8 = c.first % 2 ^ 64 :=
  ofBytes_toBytes 8 c.first

/-- A part of the bytes just written, as the unit that wrote them reads it. -/
theorem Mem.num_writeTag_own (m : Mem) (u lvl k : Nat) (bs : List Byte) (tag : Bool) {o n : Nat} (h : o + n ≤ bs.length) :
    (m.writeTag u lvl k bs tag).num (.unit u) (k + o) n = byteField bs o n := by
  rw [Mem.num, byteField]
  congr 1
  apply List.ext_getElem
  · simp [Mem.read]
    omega
  · intro i hi _
    have hi' : i < n := by simpa [Mem.read] using hi
    simp only [Mem.read, List.getElem_map, List.getElem_range, List.getElem_take, List.getElem_drop]
    rw [Mem.byte_writeTag_self m u lvl k bs tag (by omega), List.getD_eq_getElem _ _ (by omega)]
    congr 1
    omega

section
variable {s : State} {k : Nat} {c : Nmc}

theorem exec_nmCommandEnd (first : (s.die k).nm.find? (fun c => decide (c.st = 1) && !s.stands c.u) = some c)
    (sent : k * 2 ^ 32 + c.id ∈ (s.unit c.u).work.nmcs) :
    let s1 := (spadBanks c.crec 16).foldl (fun s j => s.fallIfDue c.u 1 j) s
    let s2 := s1.setDie k { s1.die k with nm := (s1.die k).nm.filter fun x => x.id ≠ c.id }
    exec (.nmCommandEnd k) s = .next ((s2.setUnit c.u { (s1.unit c.u).wakeSpad c.crec 16 with
      work := c.endWork k ((s1.unit c.u).wakeSpad c.crec 16).work
        }).writeMem c.u 0 (keyOf (16 + c.u) c.crec) c.record false) := by
  intro s1 s2
  have held : k * 2 ^ 32 + c.id ∈ (s1.unit c.u).work.nmcs := by
    have same := (State.fallsIfDue_sameWork c.u (spadBanks c.crec 16) s).2 c.u
    have nmcs : (s1.unit c.u).work.nmcs = (s.unit c.u).work.nmcs := congrArg (fun q => q.2.2.2.2.2.2.2.2.1) same
    rwa [nmcs]
  change execNmCommandEnd k s = _
  rw [execNmCommandEnd, State.nmCommandEnd, first]
  refine congrArg Host.Outcome.next (if_neg ?_)
  simpa using held

end
/-! ### A command is sent -/

theorem le_foldl_max (l : List Nat) : ∀ a, a ≤ l.foldl max a ∧ ∀ x ∈ l, x ≤ l.foldl max a := by
  induction l with
  | nil => exact fun a => ⟨Nat.le_refl a, fun x hx => by cases hx⟩
  | cons b l ih =>
    intro a
    obtain ⟨start, rest⟩ := ih (max a b)
    refine ⟨Nat.le_trans (Nat.le_max_left a b) start, fun x hx => ?_⟩
    rcases List.mem_cons.1 hx with rfl | hx
    · exact Nat.le_trans (Nat.le_max_right a x) start
    · exact rest x hx

/-- The command that a stack holds of an NMC, by what its words and its translations give. -/
def nmcOf (s0 : State) (u seq d da sa dk sk sbits : Nat) (m : XM) : Nmc :=
  let U := s0.unit u
  let w0 := (U.xS d).toNat
  let w1 := (U.xS (d + 1)).toNat
  { id := ((s0.die (fld (keyOff dk) 36 3)).nm.map (·.id)).foldl max 0 + 1
    seq := seq, u := u, op := m.sub, ngran := fld w0 0 32, crec := fld w0 32 32
    alpha := BitVec.ofNat 32 (fld w1 0 32), beta := BitVec.ofNat 32 (fld w1 32 32)
    sva := sa, dva := da, skey := sk, dkey := dk, res := (U.xS (d + 3)).toNat
    leaf := ((s0.leafOf u da).1, sbits), st := 0, status := 0, flags := 0, first := da }

/-- The new number is that of no command in the stack. -/
theorem nmcOf_id (s0 : State) (u seq d da sa dk sk sbits : Nat) (m : XM) :
    ∀ x ∈ (s0.die (fld (keyOff dk) 36 3)).nm, x.id ≠ (nmcOf s0 u seq d da sa dk sk sbits m).id := by
  intro x hx
  have := (le_foldl_max ((s0.die (fld (keyOff dk) 36 3)).nm.map (·.id)) 0).2 x.id (List.mem_map_of_mem hx)
  exact Nat.ne_of_lt (Nat.lt_succ_of_le this)

theorem fld_lt (v lo n : Nat) : fld v lo n < 2 ^ n := Nat.mod_lt _ (Nat.two_pow_pos n)

section
variable {tk : Tok} {d a b : Nat} {m : XM} {s : State} {u : Nat} {r : PassRec} {dk sk : Nat}

/-- The translations of a destination that may be read and written (R182, check 5). -/
theorem State.nmTranslate_both {s : State} {da : Nat} (rd : m.sub ≠ 4 → s.translate u 7 da .read = .ok dk)
    (wr : s.translate u 7 da .write = .ok dk) :
    s.nmTranslate u da (if m.sub = 4 then [.write] else [.read, .write]) = .ok dk (s.leafOf u da).1 false := by
  split_ifs with h
  · simp [State.nmTranslate, wr]
  · simp [State.nmTranslate, wr, rd h]

theorem exec_nmc (h : SReady s u r tk m.grd [32 + a, b, d, d + 1, d + 2, d + 3]) :
    let s0 := s.swordCheck
    let U := s0.unit u
    let c := U.kS a
    let w0 := (U.xS d).toNat
    let n := 64 * fld w0 0 32
    let da := c.base + offsetOf U b m
    let sa := c.base + (U.xS (d + 2)).toNat
    1 ≤ fld w0 0 32 → fld w0 0 32 ≤ 16384 → fld w0 32 32 % 16 = 0 → fld w0 32 32 < 0x100000 →
    c.tag = true → c.grants permN = true → c.space = 7 → offsetOf U b m + n ≤ c.len → da % 64 = 0 →
    ((m.sub = 1 ∨ m.sub = 2) → (U.xS (d + 2)).toNat + n ≤ c.len ∧ sa % 64 = 0 ∧ s0.translate u 7 sa .read = .ok sk) →
    (m.sub ≠ 4 → s0.translate u 7 da .read = .ok dk) → s0.translate u 7 da .write = .ok dk →
    U.acquiring = false → s0.nmBlocked u = false → U.work.nmcs.length < 16 →
    ∃ sa' sk' sbits, ((m.sub = 1 ∨ m.sub = 2) → sa' = sa ∧ sk' = sk) ∧
      let q := nmcOf s0 u (s0.flight u .S r tk).id d da sa' dk sk' sbits m
      let k := fld (keyOff dk) 36 3
      exec (.nmc tk d a b m) s = .next (((s0.setDie k { s0.die k with nm := (s0.die k).nm ++ [q] }).setUnit u { U with
        work := { U.work with nmcs := U.work.nmcs ++ [k * 2 ^ 32 + q.id] } }).leaves u .S r tk (s0.flight u .S r tk)) := by
  intro s0 U c w0 n da sa hn hn' hc hc' htag hgr hsp hlen hal two rd wr hacq hblk hroom
  have hwho : s0.who = (u, .S) := h.who
  have dest : c.check (offsetOf U b m) n permN = .ok da := Cap.check_eq_ok_iff.2 ⟨htag, hgr, hlen, rfl⟩
  have both := State.nmTranslate_both (s := s0) rd wr
  have words : ¬ (fld w0 0 32 < 1 ∨ 16384 < fld w0 0 32 ∨ fld w0 32 32 % 16 ≠ 0 ∨ 0x100000 ≤ fld w0 32 32) := by omega
  have room : ¬ (s0.nmBlocked u = true ∨ 16 ≤ U.work.nmcs.length) := by
    rw [hblk]
    simpa using hroom
  have run : exec (.nmc tk d a b m) s = _ := (State.sWord_of_ready h _ : execNmc tk d a b m s = _)
  change _ = s0.settle u .S r tk ⟨none, []⟩ _ at run
  by_cases op : m.sub = 1 ∨ m.sub = 2
  · obtain ⟨slen, sal, str⟩ := two op
    have src : c.check (U.xS (d + 2)).toNat n permN = .ok sa := Cap.check_eq_ok_iff.2 ⟨htag, hgr, slen, rfl⟩
    have sread : s0.nmTranslate u sa [.read] = .ok sk (s0.leafOf u sa).1 false := by simp [State.nmTranslate, str]
    refine ⟨sa, sk, (s0.leafOf u sa).1, fun _ => ⟨rfl, rfl⟩, run.trans ?_⟩
    simp only [show s.swordCheck = s0 from rfl, show s0.unit u = U from rfl, show U.kS a = c from rfl,
      show (U.xS d).toNat = w0 from rfl, show 64 * fld w0 0 32 = n from rfl, hwho, memOff_eq, words, hacq, dest, src, hsp,
      hal, sal, both, sread, op, room, if_true, if_false, and_false, ne_eq, not_true_eq_false, Bool.false_eq_true]
    rfl
  · refine ⟨0, dk, 64, fun h => absurd h op, run.trans ?_⟩
    simp only [show s.swordCheck = s0 from rfl, show s0.unit u = U from rfl, show U.kS a = c from rfl,
      show (U.xS d).toNat = w0 from rfl, show 64 * fld w0 0 32 = n from rfl, hwho, memOff_eq, words, hacq, dest, hsp, hal,
      both, op, room, if_true, if_false, false_and, ne_eq, not_true_eq_false, Bool.false_eq_true]
    rfl

end

/-- Settles O47: how a near-memory command is sent, is done or refused, and ends. -/
theorem nearMemoryCommandsIssueRunAndEnd : Obligations.NearMemoryCommandsIssueRunAndEnd := by
  unfold Obligations.NearMemoryCommandsIssueRunAndEnd
  refine ⟨fun tk d a b m s u r dk sk h => ?sent, fun s k c fresh first => ?taken, fun s k c first sent => ?ended⟩
  case sent =>
    intro s0 U c w0 w1 n da sa hn hn' hc hc' htag hgr hsp hlen hal two rd wr hacq hblk hroom k
    obtain ⟨sa', sk', sbits, src, run⟩ := exec_nmc h hn hn' hc hc' htag hgr hsp hlen hal two rd wr hacq hblk hroom
    exact ⟨nmcOf s0 u (s0.flight u .S r tk).id d da sa' dk sk' sbits m, rfl, rfl, rfl, rfl,
      Nat.mod_eq_of_lt (fld_lt ..), Nat.mod_eq_of_lt (fld_lt ..), rfl, rfl, src, rfl, rfl,
        fun x hx => nmcOf_id _ _ _ _ _ _ _ _ _ _ x hx, run⟩
  case taken =>
    intro n cross
    have run : exec (.nmCommand k) s = .next _ := congrArg Host.Outcome.next (State.nmCommand_of_first fresh first)
    refine ⟨fun hres => ⟨_, run, ?_⟩, fun hres hcross => ⟨_, run, ?_⟩, fun hres hcross apart clean => ⟨_, run, ?_⟩⟩
    · rw [show c.judge s = (s, { c with st := 1, status := 3 }) from if_pos hres]
      exact ⟨rfl, State.mem_nm_of_judged first rfl⟩
    · rw [show c.judge s = (s, { c with st := 1, status := 2 }) from (if_neg (not_not_intro hres)).trans (if_pos hcross)]
      exact ⟨rfl, State.mem_nm_of_judged first rfl⟩
    · rw [show c.judge s = c.run s 0 c.ngran from
        (if_neg (not_not_intro hres)).trans (if_neg (fun h => Bool.false_ne_true (hcross.symm.trans h)))]
      obtain ⟨⟨elems, frame, dies⟩, fl, last⟩ := Nmc.run_of_clean c.ngran c s 0
        (fun two => by simpa [n] using apart two) fun j _ hj => clean j (by omega)
      refine ⟨fun i hi => elems i (by omega) (by omega), fun v x hx => frame v x (by simpa [n] using hx), ?_⟩
      exact ⟨_, State.mem_nm_of_judged first dies, by rw [last], by rw [last], by rw [last], by rw [last]⟩
  case ended =>
    intro key s1
    have before := (State.fallsIfDue_sameWork c.u (spadBanks c.crec 16) s).2 c.u
    have len := c.record_length
    let s2 := s1.setDie k { s1.die k with nm := (s1.die k).nm.filter fun x => x.id ≠ c.id }
    let s3 := s2.setUnit c.u
      { (s1.unit c.u).wakeSpad c.crec 16 with work := c.endWork k ((s1.unit c.u).wakeSpad c.crec 16).work }
    have run : exec (.nmCommandEnd k) s = .next (s3.writeMem c.u 0 key c.record false) := exec_nmCommandEnd first sent
    clear_value key
    have queue : ((s3.writeMem c.u 0 key c.record false).die k).nm = (s1.die k).nm.filter fun x => x.id ≠ c.id := by
      rw [State.die, State.writeMem_dies]
      exact congrArg Die.nm (State.die_setDie_same s1 k _)
    have work : ((s3.writeMem c.u 0 key c.record false).unit c.u).work = c.endWork k ((s1.unit c.u).wakeSpad c.crec 16).work
      := by
      obtain ⟨T, same⟩ := (s3.writeMem_written c.u 0 key c.record false).unit c.u
      rw [same]
      exact congrArg UnitSt.work (State.unit_setUnit_same ..)
    refine ⟨_, run, ?_, ?_, fun hst => ?_, ?_, ?_, fun v x hx => ?_, fun none => State.fallsIfDue_of_none none⟩
    · rw [queue]
      exact fun x hx => by simpa using (List.mem_filter.1 hx).2
    · rw [work, UnitSt.wakeSpad_work]
      exact congrArg (fun q => q.2.2.2.2.2.2.2.2.1.erase (k * 2 ^ 32 + c.id)) before
    · rw [work, UnitSt.wakeSpad_work]
      refine (if_pos hst).trans ?_
      exact congrArg (fun q => q.2.2.2.2.2.2.2.2.2) before
    · exact (Mem.num_writeTag_own s1.mem c.u 0 key c.record false (o := 0) (n := 2) (by omega)).trans c.record_status
    · exact (Mem.num_writeTag_own s1.mem c.u 0 key c.record false (o := 8) (n := 8) (by omega)).trans c.record_first
    · exact Mem.byte_writeTag_outside s1.mem c.u 0 key c.record false v (by omega)

end Sys2Proof.Machine
end



section
/-! O52, its first half. Walks, and what the hub does with translation commands. -/
namespace Sys2Proof.Machine

/-! ### The end of a walk -/

/-- A cluster's TLB takes an entry. -/
def State.putTlb (ent : TlbEnt) (s : State) (c : Nat) : State :=
  s.setCluster c { s.cluster c with tlb := tlbInsert s.tick (s.cluster c).tlb ent }

theorem mem_tlbInsert (tick : Nat) (t : List TlbEnt) (e : TlbEnt) : e ∈ tlbInsert tick t e := by
  unfold tlbInsert
  dsimp only
  split_ifs <;> exact List.mem_cons_self ..

/-- Every cluster of the list has the entry, and one that has it keeps it. -/
theorem State.mem_putTlb (ent : TlbEnt) (c : Nat) (l : List Nat) : ∀ s : State,
    (c ∈ l ∨ ent ∈ (s.cluster c).tlb) → ent ∈ ((l.foldl (State.putTlb ent) s).cluster c).tlb := by
  induction l with
  | nil => exact fun s h => h.resolve_left List.not_mem_nil
  | cons k l ih =>
    intro s h
    refine ih _ ?_
    by_cases hk : c = k
    · refine .inr ?_
      rw [hk, State.putTlb, State.cluster_setCluster_same]
      exact mem_tlbInsert ..
    · refine h.imp (fun h => (List.mem_cons.1 h).resolve_left hk) fun h => ?_
      rwa [State.putTlb, State.cluster_setCluster_other _ _ hk]

theorem State.putTlbs_kept (ent : TlbEnt) (l : List Nat) (s : State) :
    (l.foldl (State.putTlb ent) s).mem = s.mem ∧ (l.foldl (State.putTlb ent) s).dies = s.dies :=
  ⟨foldl_keeps (f := State.putTlb ent) State.mem (fun _ _ => rfl) l s,
    foldl_keeps (f := State.putTlb ent) State.dies (fun _ _ => rfl) l s⟩

/-- The page of a request, `bits` address bits wide. -/
def WalkReq.sameAs (w : WalkReq) (bits : Nat) (x : WalkReq) : Bool :=
  decide (x.asid = w.asid) && decide (x.vpage * 65536 / 2 ^ bits = w.vpage * 65536 / 2 ^ bits)

/-- The die once the requests of one page have been answered, with what the walk has met in the cache. -/
def Die.answered (D : Die) (tick : Nat) (w : WalkReq) (bits : Nat) (met : List (Nat × Nat × Nat × Nat)) : Die :=
  ({ D with
    walks := D.walks.filter fun x => !w.sameAs bits x, missq := D.missq.filter fun x => !w.sameAs bits x,
    pwc := pwcInsert tick D.pwc met } : Die).refill

/-- No request of the page is left in a walk. -/
theorem Die.answered_walks (D : Die) (tick : Nat) (w : WalkReq) (bits : Nat) (met : List (Nat × Nat × Nat × Nat)) :
    ∀ x ∈ (D.answered tick w bits met).walks, ¬ (x.asid = w.asid ∧
      x.vpage * 65536 / 2 ^ bits = w.vpage * 65536 / 2 ^ bits) := by
  intro x hx same
  have kept : (!w.sameAs bits x) = true := by
    rcases List.mem_append.1 hx with h | h
    · exact (List.mem_filter.1 h).2
    · exact (List.mem_filter.1 (List.mem_of_mem_take h)).2
  simp [WalkReq.sameAs, same.1, same.2] at kept

section
variable {s : State} {die i : Nat} {w : WalkReq} {met : List (Nat × Nat × Nat × Nat)} {l : Nat}

theorem walkDone_of_bad {q : Nat} (hw : (s.die die).walks[i]? = some w)
    (walk : walkCached s.mem (s.die die).pwc w.asid (w.vpage * 65536) 5 0 (pteTier w.root) (pteFrame w.root) [] = (.bad l q,
      met)) :
    s.walkDone die i = s.setDie die { (s.die die).answered s.tick w 16 met with
      wfaults := ((s.die die).answered s.tick w 16 met).wfaults ++ [(w.asid, w.vpage, l, q)] } := by
  simp only [State.walkDone, hw, walk]
  rfl

theorem walkDone_of_mig {p key : Nat} (hw : (s.die die).walks[i]? = some w)
    (walk : walkCached s.mem (s.die die).pwc w.asid (w.vpage * 65536) 5 0 (pteTier w.root) (pteFrame w.root) [] = (.leaf l p
      key, met))
    (mig : pteMig p = true) :
    s.walkDone die i = s.setDie die { (s.die die).answered s.tick w (pageBits l) met with
      wfaults := ((s.die die).answered s.tick w (pageBits l) met).wfaults ++ [(w.asid, w.vpage, l, 8)] } := by
  simp only [State.walkDone, hw, walk, mig, if_true]
  rfl

theorem walkDone_of_leaf {p key : Nat} (hw : (s.die die).walks[i]? = some w)
    (walk : walkCached s.mem (s.die die).pwc w.asid (w.vpage * 65536) 5 0 (pteTier w.root) (pteFrame w.root) [] = (.leaf l p
      key, met))
    (mig : pteMig p = false) :
    s.walkDone die i = ((((s.die die).walks ++ (s.die die).missq).filter (w.sameAs (pageBits l))).map
      (·.clusters)).flatten.foldl
      (State.putTlb ⟨w.asid, w.vpage * 65536 / 2 ^ pageBits l, l,
        p⟩) (s.setDie die ((s.die die).answered s.tick w (pageBits l) met)) := by
  simp only [State.walkDone, hw, walk, mig, Bool.false_eq_true, if_false]
  rfl

end

/-! ### Commands are taken -/

/-- What the taking of a command leaves: the command is the last of the hub's list. -/
structure State.Took (s : State) (c : TCmd) (t : State) : Prop where
  tcmds : t.hub.tcmds = s.hub.tcmds ++ [c]
  clusters : t.clusters = s.clusters
  dies : t.dies = s.dies

theorem State.takeTCmd_took {s : State} {b : List Byte} (h : s.nextTCmd = some b) (c : TCmd) : s.Took c (s.takeTCmd c) := by
  obtain ⟨r, hr⟩ : ∃ r, s.transRing = some r := by
    cases hr : s.transRing with
    | none => simp [State.nextTCmd, hr] at h
    | some r => exact ⟨r, rfl⟩
  obtain ⟨-, us, m, rc, ts, rs, hot, hw⟩ :=
    s.writeMem_written 0 4 (keyOf r.region r.addr + 4) (toBytes 4 ((r.cons + 1) % 2 ^ 32)) false
  rw [State.takeTCmd, hr]
  dsimp only
  rw [hw]
  exact ⟨rfl, rfl, rfl⟩

/-- After an invalidation no TLB holds a translation that the command covers. -/
theorem State.invalidate_tlb (s : State) (c : TCmd) (k : Nat) : ∀ e ∈ ((s.invalidate c).cluster k).tlb,
    c.covers e.asid (e.vpage * 2 ^ pageBits e.level) (2 ^ pageBits e.level) = false := by
  have filtered : (s.invalidate c).cluster k = (fun C : Cluster => { C with
      tlb := C.tlb.filter fun e => !c.covers e.asid (e.vpage * 2 ^ pageBits e.level) (2 ^ pageBits e.level) }) (s.cluster k) :=
    SMap.get_mapValues (d := Cluster.reset) (f := fun C : Cluster => { C with
      tlb := C.tlb.filter fun e => !c.covers e.asid (e.vpage * 2 ^ pageBits e.level) (2 ^ pageBits e.level) }) rfl s.clusters k
  rw [filtered]
  exact fun e he => by simpa using (List.mem_filter.1 he).2

theorem replaceCmd_head (c c' : TCmd) (r : List TCmd) : replaceCmd c c' (c :: r) = c' :: r := if_pos rfl

theorem mem_replaceCmd {c c' : TCmd} {l : List TCmd} (h : c ∈ l) : c' ∈ replaceCmd c c' l := by
  induction l with
  | nil => cases h
  | cons x r ih =>
    rw [replaceCmd]
    split_ifs with hx
    · exact List.mem_cons_self ..
    · exact List.mem_cons_of_mem _ (ih ((List.mem_cons.1 h).resolve_left (Ne.symm hx)))

/-! ### Commands end -/

/-- The completion record of a command. -/
def TCmd.record (c : TCmd) : List Byte := u16 c.status ++ u16 0 ++ u32 0 ++ u64 c.time

/-- The end of the only command whose record does not wait: the list is empty then, and no cluster and no die has changed. -/
theorem State.endTCmd_only {s : State} {c : TCmd} (only : s.hub.tcmds = [c]) (status : Nat) (still : s.caddrTr c ≠ .mig) :
    (s.endTCmd c status).hub.tcmds = [] ∧ (s.endTCmd c status).clusters = s.clusters ∧ (s.endTCmd c status).dies = s.dies := by
  let c' : TCmd := { c with st := 3, status := status, time := s.time.toNat }
  have ended : s.endTCmd c status = State.flushTCmds { s with hub := { s.hub with tcmds := [c'] } } 1 := by
    rw [State.endTCmd, only]
    simp only [replaceCmd_head]
    rfl
  have place : State.caddrTr { s with hub := { s.hub with tcmds := [c'] } } c' = s.caddrTr c := rfl
  rw [ended, State.flushTCmds]
  dsimp only
  rw [if_pos rfl, place]
  cases htr : s.caddrTr c with
  | mig => exact absurd htr still
  | miss | xlat => exact ⟨rfl, rfl, rfl⟩
  | ok key =>
    obtain ⟨-, us, m, rc, ts, rs, hot, hw⟩ :=
      State.writeMem_written { s with hub := { s.hub with tcmds := [] } } 0 4 key c'.record false
    dsimp only
    rw [show u16 c'.status ++ u16 0 ++ u32 0 ++ u64 c'.time = c'.record from rfl, hw]
    exact ⟨rfl, rfl, rfl⟩

theorem State.endTCmd_record {s : State} {c : TCmd} (only : s.hub.tcmds = [c]) (status : Nat) {key : Nat} (place : s.caddrTr
    c = .ok key) :
    (s.endTCmd c status).mem = s.mem.writeTag 0 4 key ({ c with st := 3, status := status, time := s.time.toNat } :
      TCmd).record false := by
  let c' : TCmd := { c with st := 3, status := status, time := s.time.toNat }
  have ended : s.endTCmd c status = State.flushTCmds { s with hub := { s.hub with tcmds := [c'] } } 1 := by
    rw [State.endTCmd, only]
    simp only [replaceCmd_head]
    rfl
  have same : State.caddrTr { s with hub := { s.hub with tcmds := [c'] } } c' = .ok key := place
  rw [ended, State.flushTCmds]
  dsimp only
  rw [if_pos rfl, same]
  rfl

theorem State.caddrTr_of_leaf {s : State} {c : TCmd} {root l p k key : Nat} (hroot : s.rootOf c.asid = some root)
    (leaf : walkVA s.mem root c.caddr = .leaf l p k) (tr : leafTr l p c.caddr 0 .write = .ok key) : s.caddrTr c = .ok key := by
  rw [State.caddrTr, hroot]
  dsimp only
  rw [leaf]
  exact tr

/-- A part of the bytes just written at the widest scope. -/
theorem Mem.num_writeTag_widest (m : Mem) (u k : Nat) (bs : List Byte) (tag : Bool) (v : Viewer) {o n : Nat} (h : o + n ≤
    bs.length) :
    (m.writeTag u 4 k bs tag).num v (k + o) n = byteField bs o n := by
  rw [Mem.num, byteField]
  congr 1
  apply List.ext_getElem
  · simp [Mem.read]
    omega
  · intro i hi _
    have hi' : i < n := by simpa [Mem.read] using hi
    simp only [Mem.read, List.getElem_map, List.getElem_range, List.getElem_take, List.getElem_drop]
    rw [Mem.byte_writeTag_widest m u k bs tag v (by omega), List.getD_eq_getElem _ _ (by omega)]
    congr 1
    omega

/-! ### The epoch of the hot-page tracker -/

theorem State.ringPut_of_none {s : State} {kind : Nat} (h : ∀ r ∈ s.hub.regs,
    r.kind ≠ kind) (rec : List Byte) : s.ringPut kind rec = s := by
  have none : s.hub.regs.find? (fun r => r.kind = kind) = none := List.find?_eq_none.2 fun r hr => by simpa using h r hr
  rw [State.ringPut, none]

theorem State.ringPuts_of_none {α : Type} {kind : Nat} (f : State → α →
    List Byte) (l : List α) {s : State} (h : ∀ r ∈ s.hub.regs, r.kind ≠ kind) :
    l.foldl (fun s q => s.ringPut kind (f s q)) s = s := by
  induction l with
  | nil => rfl
  | cons q l ih => rw [List.foldl_cons, State.ringPut_of_none h, ih]

/-- Every counter of the tracker is halved. -/
def State.halved (s : State) : State :=
  { s with hub := { s.hub with hot := (s.hub.hot.map fun q => (q.1, q.2 / 2)).filter fun q => q.2 ≠ 0 } }

theorem exec_hotPageEpoch {s : State} (due : s.hub.hotAt + 1000000 ≤ s.time.toNat) (h : ∀ r ∈ s.hub.regs, r.kind ≠ 3) :
    exec .hotPageEpoch s = .next (State.halved { s with hub := { s.hub with hotAt := s.hub.hotAt + 1000000 } }) := by
  let s1 : State := { s with hub := { s.hub with hotAt := s.hub.hotAt + 1000000 } }
  have reports : ∃ (f : State → Nat × Nat → List Byte) (l : List (Nat × Nat)),
      s.hotEpoch = State.halved (l.foldl (fun s q => s.ringPut 3 (f s q)) s1) := by
    rw [State.hotEpoch, if_neg (Nat.not_lt.2 due)]
    exact ⟨_, _, rfl⟩
  obtain ⟨f, l, reports⟩ := reports
  refine congrArg Host.Outcome.next ?_
  rw [reports, State.ringPuts_of_none f l (s := s1) h]

end Sys2Proof.Machine
end



section
/-! O52, its second half. Migrations. -/
namespace Sys2Proof.Machine

/-! ### A range moves -/

theorem stagedByte_of_apart (v : Viewer) {a : Nat} {l : List Staged} (h : ∀ w ∈ l, ¬ (w.key ≤ a ∧ a < w.key + w.bytes.length)) :
    ∀ b : Byte, stagedByte v a b l = b := by
  induction l with
  | nil => exact fun b => rfl
  | cons w r ih =>
    intro b
    have miss : ¬ (w.seenBy v && decide (w.key ≤ a) && decide (a < w.key + w.bytes.length)) = true := by
      simp only [Bool.and_eq_true, decide_eq_true_eq]
      exact fun ⟨⟨_, low⟩, high⟩ => h w (List.mem_cons_self ..) ⟨low, high⟩
    rw [stagedByte, if_neg miss]
    exact ih (fun w hw => h w (List.mem_cons_of_mem _ hw)) b

/-- Where no staged write touches a range, every party reads the same there. -/
theorem Mem.byte_of_not_stagedIn {m : Mem} {k n a : Nat} (h : m.stagedIn k n = false) (ha : k ≤ a ∧ a < k + n) (v v' : Viewer) :
    m.byte v a = m.byte v' a := by
  have apart : ∀ w ∈ m.staged, ¬ (w.key ≤ a ∧ a < w.key + w.bytes.length) := by
    intro w hw hit
    have none := List.any_eq_false.1 h w hw
    simp only [Bool.and_eq_true, decide_eq_true_eq] at none
    omega
  rw [Mem.byte, Mem.byte, stagedByte_of_apart v apart, stagedByte_of_apart v' apart]

/-- The bytes of a range stand in another one, and no byte outside that has changed. -/
structure Mem.Copied (m : Mem) (src dst n : Nat) (t : Mem) : Prop where
  bytes : ∀ j, j < n → t.byte .device (dst + j) = m.byte .bank (src + j)
  frame : ∀ v a, (a < dst ∨ dst + n ≤ a) → t.byte v a = m.byte v a

theorem Mem.read_length (m : Mem) (v : Viewer) (k n : Nat) : (m.read v k n).length = n := by simp [Mem.read]

theorem Mem.getD_read (m : Mem) (v : Viewer) (k n : Nat) {i : Nat} (h : i < n) : (m.read v k n).getD i 0 = m.byte v (k + i)
    := by
  rw [List.getD_eq_getElem _ _ (by simpa [Mem.read] using h)]
  simp [Mem.read]

/-- One more part of the range, written with the bytes of the same place. -/
theorem Mem.Copied.part {m t : Mem} {src dst n o len : Nat} (h : m.Copied src dst n t) (hin : o + len ≤ n) (tag : Bool) :
    m.Copied src dst n (t.writeTag 0 4 (dst + o) (m.read .bank (src + o) len) tag) := by
  have hlen := m.read_length .bank (src + o) len
  refine ⟨fun j hj => ?_, fun v a ha => ?_⟩
  · by_cases hit : o ≤ j ∧ j < o + len
    · rw [Mem.byte_writeTag_widest _ _ _ _ _ _ (by omega), show dst + j - (dst + o) = j - o by omega,
        Mem.getD_read _ _ _ _ (by omega)]
      congr 1
      omega
    · rw [Mem.byte_writeTag_outside _ _ _ _ _ _ _ (by omega), h.bytes j hj]
  · rw [Mem.byte_writeTag_outside _ _ _ _ _ _ _ (by omega), h.frame v a ha]

theorem Mem.copyBytes_copied (m : Mem) {src n : Nat} (dst : Nat) (hsrc : src % 16 = 0) (hn : n % 16 = 0) :
    m.Copied src dst n (m.copyBytes src dst n) := by
  have whole : m.Copied src dst n (m.write 0 4 dst (m.read .bank src n)) := by
    have hlen := m.read_length .bank src n
    refine ⟨fun j hj => ?_, fun v a ha => Mem.byte_write_outside _ _ _ _ _ _ (by omega)⟩
    rw [Mem.write, Mem.byte_writeTag_widest _ _ _ _ _ _ (by omega), Nat.add_sub_cancel_left, Mem.getD_read _ _ _ _ hj]
  have fits : ∀ i ∈ List.range (granules 16 src n), 16 * i + 16 ≤ n := by
    intro i hi
    have hi := List.mem_range.1 hi
    unfold granules at hi
    split_ifs at hi <;> omega
  have step : ∀ l : List Nat, (∀ i ∈ l, 16 * i + 16 ≤ n) → ∀ t, m.Copied src dst n t → m.Copied src dst n
      (l.foldl (fun t i => if m.tagAt .bank (src + 16 * i) then
        t.writeTag 0 4 (dst + 16 * i) (m.read .bank (src + 16 * i) 16) true else t) t) := by
    intro l
    induction l with
    | nil => exact fun _ t h => h
    | cons i l ih =>
      intro hl t h
      refine ih (fun i hi => hl i (List.mem_cons_of_mem _ hi)) _ ?_
      dsimp only
      split
      · exact h.part (hl i (List.mem_cons_self ..)) true
      · exact h
  exact step _ fits _ whole

theorem Mem.copyTagged_copied (m : Mem) {src n : Nat} (dst : Nat) (hsrc : src % 16 = 0) (hn : n % 16 = 0) :
    m.Copied src dst n (m.copyTagged src dst n) := by
  obtain ⟨bytes, frame⟩ := m.copyBytes_copied dst hsrc hn
  have same : ∀ v a, (m.copyTagged src dst n).byte v a = (m.copyBytes src dst n).byte v a := by
    intro v a
    unfold Mem.copyTagged
    dsimp only
    split
    · rfl
    · exact stagedByte_map v a _ (fun w => by split <;> rfl) (fun w => by split <;> rfl) (fun w => by split <;> rfl) _ _
  exact ⟨fun j hj => (same ..).trans (bytes j hj), fun v a ha => (same ..).trans (frame v a ha)⟩

theorem keyOf_pteFrame_aligned (t p : Nat) : keyOf t (pteFrame p) % 16 = 0 := by
  unfold keyOf pteFrame
  omega

theorem TCmd.bytes_aligned (c : TCmd) : c.bytes % 16 = 0 := by
  unfold TCmd.bytes
  split_ifs <;> rfl

/-! ### A migration begins, waits or ends -/

section
variable {s : State} {c : TCmd} {l p k : Nat}

theorem State.beginMig_of_pin (leaf : s.migLeaf c = some (l, p, k)) (pin : ptePin p = true) : s.beginMig c = s.endTCmd c 1 := by
  rw [State.beginMig, leaf]
  exact if_pos pin

theorem State.beginMig_of_size (leaf : s.migLeaf c = some (l, p, k)) (pin : ptePin p = false)
    (size : (c.size = 0 ∧ l = 4) ∨ (c.size = 1 ∧ l = 3)) : s.beginMig c =
      if s.held c ∨ s.migBusy k then { s with hub := { s.hub with tcmds := replaceCmd c { c with st := 1 } s.hub.tcmds } }
      else s.startMig c p k := by
  rw [State.beginMig, leaf]
  dsimp only
  rw [if_neg (by simp [pin]), if_neg (by omega)]

theorem State.beginMig_of_busy (leaf : s.migLeaf c = some (l, p, k)) (pin : ptePin p = false)
    (size : (c.size = 0 ∧ l = 4) ∨ (c.size = 1 ∧ l = 3)) (busy : s.held c = true ∨ s.migBusy k = true) :
    s.beginMig c = { s with hub := { s.hub with tcmds := replaceCmd c { c with st := 1 } s.hub.tcmds } } :=
  (State.beginMig_of_size leaf pin size).trans (if_pos busy)

theorem State.beginMig_of_free (leaf : s.migLeaf c = some (l, p, k)) (pin : ptePin p = false)
    (size : (c.size = 0 ∧ l = 4) ∨ (c.size = 1 ∧ l = 3)) (held : s.held c = false) (busy : s.migBusy k = false) :
    s.beginMig c = s.startMig c p k :=
  (State.beginMig_of_size leaf pin size).trans (if_neg (by simp [held, busy]))

/-- A migration that has begun has set MIG in its leaf, and written nothing else. -/
theorem State.startMig_leaf (s : State) (c : TCmd) (k : Nat) (hp : p < 2 ^ 64) :
    (s.startMig c p k).mem.num .device k 8 = p ||| 256 ∧
      ∀ v a, (a < k ∨ k + 8 ≤ a) → (s.startMig c p k).mem.byte v a = s.mem.byte v a := by
  have written : (s.startMig c p k).mem = s.mem.writeTag 0 4 k (toBytes 8 (p ||| 256)) false := rfl
  rw [written]
  refine ⟨?_, fun v a ha => Mem.byte_writeTag_outside _ _ _ _ _ _ _ (by rwa [toBytes_length])⟩
  have leaf := Mem.read_writeTag_widest s.mem 0 k (toBytes 8 (p ||| 256)) false .device
  rw [toBytes_length] at leaf
  rw [Mem.num, leaf, ofBytes_toBytes]
  exact Nat.mod_eq_of_lt (Nat.or_lt_two_pow hp (by norm_num))

/-- The page of a command has moved, with what the race checks know of it. -/
def State.pageMoved (s : State) (c : TCmd) : State :=
  let src := keyOf (pteTier c.oldpte) (pteFrame c.oldpte)
  let dst := keyOf (pteTier c.newpte) (pteFrame c.newpte)
  State.moveHistory { s with mem := s.mem.copyTagged src dst c.bytes } src dst c.bytes

/-- The faults that the command's page has met are forgotten. -/
def State.freeFaults (s : State) (c : TCmd) : State :=
  { s with dies := s.dies.map fun q => (q.1,
    { q.2 with wfaults := q.2.wfaults.filter fun w => !c.covers w.1 (w.2.1 * 65536) 65536 }) }

section
variable (hfind : s.hub.tcmds.find? (fun c => c.opc = 2 ∧ c.st = 2) = some c) (drained : s.drained c = true)
  (hsrc : s.mem.stagedIn (keyOf (pteTier c.oldpte) (pteFrame c.oldpte)) c.bytes = false)
  (hdst : s.mem.stagedIn (keyOf (pteTier c.newpte) (pteFrame c.newpte)) c.bytes = false)
include hfind drained hsrc hdst

theorem State.migDone_clean (clean : s.mem.poisonFor .device (keyOf (pteTier c.oldpte) (pteFrame c.oldpte)) c.bytes = false) :
    s.migDone true = (((s.pageMoved c).writeMem 0 4 c.ptekey (toBytes 8 c.newpte) false).endTCmd c 0).freeFaults c := by
  rw [State.migDone, hfind]
  dsimp only
  rw [if_neg (by simp [drained, hsrc, hdst]), if_neg (by simp [clean])]
  rfl

theorem State.migDone_poisoned (poison : s.mem.poisonFor .device (keyOf (pteTier c.oldpte) (pteFrame c.oldpte)) c.bytes =
    true) :
    s.migDone true = ((s.writeMem 0 4 c.ptekey (toBytes 8 (pteStill c.oldpte)) false).endTCmd c 4).freeFaults c := by
  rw [State.migDone, hfind]
  dsimp only
  rw [if_neg (by simp [drained, hsrc, hdst]), if_pos (by simp [poison])]
  rfl

end

theorem State.moveHistory_kept (s : State) (src dst n : Nat) : (s.moveHistory src dst n).mem = s.mem ∧
    (s.moveHistory src dst n).hub = s.hub := by
  unfold State.moveHistory
  dsimp only
  split_ifs <;> exact ⟨rfl, rfl⟩

end

/-- Settles O52: how walks, translation commands and migrations end. -/
theorem walksInvalidationsAndMigrationsEnd : Obligations.WalksInvalidationsAndMigrationsEnd := by
  unfold Obligations.WalksInvalidationsAndMigrationsEnd
  refine ⟨⟨fun s die i w met hw => ⟨fun l p key walk => ?leaf, fun l q walk => ?bad⟩, fun s b hb => ?commands,
    fun s c root l p k key only _ hst drained hroot walk tr => ?tinvComplete, fun s k => rfl, fun s due none => ?epoch⟩,
    fun s b l p k hb good opc => ?migr, fun s c l p k hfind leaf pin size hp => ?resume, fun s c hfind drained => ?copied⟩
  case leaf =>
    intro page
    cases mig : pteMig p
    · have run : exec (.tlbWalkDone die i) s = .next _ := congrArg Host.Outcome.next (walkDone_of_leaf hw walk mig)
      obtain ⟨hmem, hdies⟩ := State.putTlbs_kept ⟨w.asid, page, l, p⟩
        ((((s.die die).walks ++ (s.die die).missq).filter (w.sameAs (pageBits l))).map (·.clusters)).flatten
        (s.setDie die ((s.die die).answered s.tick w (pageBits l) met))
      refine ⟨_, run, hmem, fun _ x hx hasid hpage c hc => State.mem_putTlb _ _ _ _ (.inl ?_), (fun h => by cases h), ?_⟩
      · refine List.mem_flatten.2 ⟨x.clusters, List.mem_map.2 ⟨x, List.mem_filter.2 ⟨List.mem_append.2 hx, ?_⟩, rfl⟩, hc⟩
        simp [WalkReq.sameAs, hasid, show _ = _ from hpage, page]
      · rw [State.die, hdies]
        have mine := State.die_setDie_same s die ((s.die die).answered s.tick w (pageBits l) met)
        exact fun x hx => Die.answered_walks _ _ _ _ _ x (by rwa [← mine])
    · refine ⟨_, congrArg Host.Outcome.next (walkDone_of_mig hw walk mig), rfl, (fun h => by cases h), fun _ => ⟨rfl, ?_⟩, ?_⟩
      · rw [State.die_setDie_same]
        exact List.mem_append_right _ (List.mem_singleton.2 rfl)
      · rw [State.die_setDie_same]
        exact Die.answered_walks _ _ _ _ _
  case bad =>
    refine ⟨_, congrArg Host.Outcome.next (walkDone_of_bad hw walk), rfl, rfl, ?_⟩
    rw [State.die_setDie_same]
    exact List.mem_append_right _ (List.mem_singleton.2 rfl)
  case commands =>
    intro c
    obtain ⟨tcmds, clusters, dies⟩ := State.takeTCmd_took hb c
    refine ⟨fun good opc => ⟨(s.takeTCmd c).invalidate c, ?_, tcmds, State.invalidate_tlb _ c⟩, fun bad none still => ?_⟩
    · refine congrArg Host.Outcome.next ?_
      rw [hb]
      exact if_pos ⟨by simp [good], opc⟩
    · obtain ⟨none', clusters', dies'⟩ := State.endTCmd_only (tcmds.trans (by rw [none]; rfl)) 5 still
      refine ⟨(s.takeTCmd c).endTCmd c 5, congrArg Host.Outcome.next ?_, none', clusters'.trans clusters, dies'.trans dies⟩
      rw [hb]
      exact if_pos bad
  case tinvComplete =>
    have place := State.caddrTr_of_leaf hroot walk tr
    obtain ⟨none, -, -⟩ := State.endTCmd_only only 0 (by rw [place]; exact Tr.noConfusion)
    have record := State.endTCmd_record only 0 place
    have len : ({ c with st := 3, status := 0, time := s.time.toNat } : TCmd).record.length = 16 := by
      simp [TCmd.record, u16, u32, u64]
    refine ⟨s.endTCmd c 0, congrArg Host.Outcome.next ?_, none, ?_, ?_, fun v a ha => ?_⟩
    · rw [only, List.find?_cons_of_pos (by simp [*])]
      exact if_pos drained
    · rw [record]
      exact (Mem.num_writeTag_widest _ _ _ _ _ _ (o := 0) (n := 2) (by omega)).trans (ofBytes_toBytes 2 0)
    · rw [record, Mem.num_writeTag_widest _ _ _ _ _ _ (by omega)]
      exact (ofBytes_toBytes 8 s.time.toNat).trans (Nat.mod_eq_of_lt s.time.isLt)
    · rw [record]
      exact Mem.byte_writeTag_outside _ _ _ _ _ _ _ (by omega)
  case epoch => exact ⟨_, exec_hotPageEpoch due none, rfl, rfl, rfl⟩
  case migr =>
    intro c s1 leaf
    have run : exec .migr s = .next (s1.beginMig c) := by
      refine congrArg Host.Outcome.next ?_
      rw [hb]
      exact if_pos ⟨by simp [good], opc⟩
    refine ⟨fun pin size held busy hp => ⟨_, run, ?_⟩, fun pin size busy => ⟨_, run, ?_⟩, fun pin => ?_⟩
    · rw [State.beginMig_of_free leaf pin size held busy]
      exact State.startMig_leaf _ _ _ hp
    · rw [State.beginMig_of_busy leaf pin size busy]
      refine ⟨rfl, mem_replaceCmd ?_⟩
      rw [(State.takeTCmd_took hb c).tcmds]
      exact List.mem_append_right _ (List.mem_singleton.2 rfl)
    · rw [run, State.beginMig_of_pin leaf pin]
  case resume =>
    have may := List.find?_some hfind
    simp only [State.mayMig, leaf, decide_eq_true_eq, Bool.and_eq_true, Bool.not_eq_true'] at may
    obtain ⟨-, -, held, busy⟩ := may
    have run : exec .migrResume s = .next (s.beginMig c) := by
      refine congrArg Host.Outcome.next ?_
      rw [hfind]
    refine ⟨_, run, ?_⟩
    rw [State.beginMig_of_free leaf pin size held busy]
    exact State.startMig_leaf _ _ _ hp
  case copied =>
    intro src dst n hsrc hdst
    refine ⟨fun clean => ?_, fun poison =>
      ⟨_, congrArg Host.Outcome.next (State.migDone_poisoned hfind drained hsrc hdst poison), rfl⟩⟩
    obtain ⟨hmem, hhub⟩ := State.moveHistory_kept { s with mem := s.mem.copyTagged src dst n } src dst n
    obtain ⟨bytes, frame⟩ := s.mem.copyTagged_copied (n := n) dst (keyOf_pteFrame_aligned ..) c.bytes_aligned
    refine ⟨s.pageMoved c, _,
      congrArg Host.Outcome.next (State.migDone_clean hfind drained hsrc hdst clean), rfl, hhub, fun j hj => ?_,
        fun v a ha => ?_⟩
    · rw [State.pageMoved, hmem]
      exact (bytes j hj).trans (Mem.byte_of_not_stagedIn hsrc ⟨Nat.le_add_right .., Nat.add_lt_add_left hj _⟩ ..)
    · rw [State.pageMoved, hmem]
      exact frame v a ha

end Sys2Proof.Machine
end



section
/-! O40. Bank words, and the events of the banks. -/
namespace Sys2Proof.Machine

/-! ### The words -/

theorem State.freshen_of_VS (s : State) {e : Eng} (he : e = .V ∨ e = .S) (u : Nat) (tk : Tok) : s.freshen u e tk = s := by
  rcases he with rfl | rfl
  · exact State.freshen_V ..
  · exact State.freshen_S ..

theorem UnitSt.hintOwn_of_own {U : UnitSt} {k d : Nat} (h : k = 0 → U.allocated d = true ∧
    U.inMatrix d = false) : U.hintOwn k d = none := by
  unfold UnitSt.hintOwn
  split_ifs with hk
  · simp [UnitSt.ownChk, h hk]
  · rfl

theorem UnitSt.hintOwn_of_not_own {U : UnitSt} {d : Nat} (h : U.allocated d = false ∨ U.inMatrix d = true) : U.hintOwn 0 d =
    some d := by
  rw [UnitSt.hintOwn, if_pos rfl, UnitSt.ownChk, if_neg]
  rcases h with h | h <;> simp [h]

section
variable {s : State} {u : Nat} {e : Eng} {r : PassRec} {tk : Tok} {g : XP} (he : e = .V ∨ e = .S) (h : Ready s u e r tk g [])
include he h

/-- A word of V, or of S in a handler, that is ready. -/
theorem State.bankWord_of_ready (body : State → UnitSt → PassRec → Flight → Res) :
    s.eWord tk g body = s.settle u e r tk ⟨none, []⟩ (body s (s.unit u) r (s.flight u e r tk)) := by
  rw [State.eWord_of_ready h, State.freshen_of_VS s he]

theorem exec_bhint_of_own {k d : Nat} (fall : Nat) (own : (s.unit u).hintOwn k d = none) :
    exec (.bhint tk d fall k g) s = .next (s.leaves u e r tk { s.flight u e r tk with eff := [.bhint k d (supplyOf fall)] })
      := by
  have run : exec (.bhint tk d fall k g) s = _ := (State.bankWord_of_ready he h _ : execBhint tk d fall k g s = _)
  rw [run, own]
  rfl

theorem exec_bhint_of_not_own {k d b : Nat} (fall : Nat) (own : (s.unit u).hintOwn k d = some b) :
    exec (.bhint tk d fall k g) s = .next (s.takeTrap u ⟨.bankown, e.code, b, r.addr⟩) := by
  have run : exec (.bhint tk d fall k g) s = _ := (State.bankWord_of_ready he h _ : execBhint tk d fall k g s = _)
  rw [run, own]
  rfl

theorem exec_bwake_of_own {k d : Nat} (own : (s.unit u).hintOwn k d = none) :
    exec (.bwake tk d k g) s = .next (s.leaves u e r tk { s.flight u e r tk with eff := [.bwake k d] }) := by
  have run : exec (.bwake tk d k g) s = _ := (State.bankWord_of_ready he h _ : execBwake tk d k g s = _)
  rw [run, own]
  rfl

theorem exec_bwake_of_not_own {k d b : Nat} (own : (s.unit u).hintOwn k d = some b) :
    exec (.bwake tk d k g) s = .next (s.takeTrap u ⟨.bankown, e.code, b, r.addr⟩) := by
  have run : exec (.bwake tk d k g) s = _ := (State.bankWord_of_ready he h _ : execBwake tk d k g s = _)
  rw [run, own]
  rfl

theorem exec_balloc (d take : Nat) : exec (.balloc tk d take g) s = s.settle u e r tk ⟨none, []⟩
    (if take = 0 ∧ (s.unit u).inMatrix d then bankInfo .bankown d r
      else .go s { s.flight u e r tk with eff := [.balloc d (decide (take = 1))] }) :=
  (State.bankWord_of_ready he h _ : execBalloc tk d take g s = _)

theorem exec_bstat (d imm : Nat) (hbank : (s.unit u).bankChk false [(d, false)] = .ok) :
    exec (.bstat tk d imm g) s = .next (s.leaves u e r tk { s.flight u e r tk with
      wr := (if e = .S then [] else [d]),
      eff := [.bank d ((List.range 64).map fun j => (elemKey d imm j, BitVec.ofNat 32
        ([(s.unit u).afterFalls.bankstate % 2 ^ 32, (s.unit u).afterFalls.bankstate / 2 ^ 32, (s.unit u).bind.toNat,
          (s.unit u).afterFalls.bankalloc % 2 ^ 32].getD j 0)))] }) := by
  have run : exec (.bstat tk d imm g) s = _ := (State.bankWord_of_ready he h _ : execBstat tk d imm g s = _)
  have who : s.who.2 = e := congrArg Prod.snd h.who
  rw [run, hbank]
  dsimp only
  rw [who]
  rfl

end

/-! ### The events -/

theorem exec_regBankFall {s : State} {u b : Nat} (hu : u < 768) (hh : s.halted u = false) (hs : s.stands u = false) (hb : b < 8)
    (hint : ((s.unit u).bank 0 b).hint = true) (idle : (s.unit u).regBusy b = false) :
    exec (.regBankFall u b) s = .next (s.setUnit u ((s.unit u).fallReg b)) := by
  change clockEvent u s _ = _
  rw [clockEvent, hs, if_pos hb, unitEvent_of_live hu hh]
  refine congrArg Host.Outcome.next ((if_neg (by decide)).trans ?_)
  exact if_pos (by simp [UnitSt.fallDue, UnitSt.regDue, hint, idle])

theorem UnitSt.bank_of_rb {U V : UnitSt} (h : V.rb = U.rb) (b : Nat) : V.bank 0 b = U.bank 0 b :=
  congrArg (SMap.get Bank.reset · b) h

theorem UnitSt.fallReg_bank (U : UnitSt) (b : Nat) : (U.fallReg b).bank 0 b = (U.bank 0 b).fallNow := by
  have rb : (U.fallReg b).rb = (U.setBank 0 b (U.bank 0 b).fallNow).rb := by
    unfold UnitSt.fallReg
    dsimp only
    split_ifs <;> rfl
  exact (UnitSt.bank_of_rb rb b).trans (U.bank_setBank_same 0 b _)

theorem UnitSt.fallReg_elems (U : UnitSt) (b : Nat) :
    (U.fallReg b).elems = if (U.bank 0 b).fall = .off then U.elems.filter fun e => decide (e.1 / 4096 ≠ b) else U.elems := by
  unfold UnitSt.fallReg
  dsimp only
  rw [UnitSt.fixDup_elems]
  split_ifs
  · exact congrArg (List.filter _) (UnitSt.setBank_elems ..)
  · exact UnitSt.setBank_elems ..

theorem Bank.fallNow_hint (B : Bank) : B.fallNow.hint = false := by
  unfold Bank.fallNow
  split <;> rfl

theorem Bank.fallNow_of_full {B : Bank} (h : B.fall = .full) : B.fallNow.st = B.st := by rw [Bank.fallNow, h]
theorem Bank.fallNow_of_retain {B : Bank} (h : B.fall = .retain) : B.fallNow.st = .retain := by rw [Bank.fallNow, h]
theorem Bank.fallNow_of_off {B : Bank} (h : B.fall = .off) : B.fallNow.st = .off := by rw [Bank.fallNow, h]

/-- An engine whose oldest word is not done retires nothing. -/
theorem UnitSt.retire_of_waiting {U : UnitSt} {e : Eng} (h : ∀ f, U.headOf e = some f → f.wait ≠ .done) : U.retire e = U := by
  rw [UnitSt.retire]
  cases U.work.fl.length with
  | zero => rfl
  | succ n =>
    rw [UnitSt.drain]
    cases hf : U.headOf e with
    | none => rfl
    | some f => exact if_neg (by simp [UnitSt.mayRetire, h f hf])

/-- The state after the fall of a scratchpad bank. -/
def State.spadFallen (s : State) (u b : Nat) : State :=
  let s1 := s.setUnit u ((s.unit u).setBank 1 b ((s.unit u).bank 1 b).fallNow)
  if ((s.unit u).bank 1 b).fall = .off then { s1 with mem := s1.mem.wipe (keyOf (16 + u) (b * 65536)) 65536 } else s1

theorem exec_spadBankFall {s : State} {u b : Nat} (hu : u < 768) (hh : s.halted u = false) (hs : s.stands u = false) (hb : b
    < 16)
    (hint : ((s.unit u).bank 1 b).hint = true) (idle : (s.unit u).spadBusy b = false)
    (waits : ∀ f, (s.unit u).headOf .V = some f → f.wait ≠ .done) :
    exec (.spadBankFall u b) s = .next (s.spadFallen u b) := by
  have still : ((s.unit u).setBank 1 b ((s.unit u).bank 1 b).fallNow).retire .V = (s.unit u).setBank 1 b ((s.unit u).bank 1
    b).fallNow :=
    UnitSt.retire_of_waiting fun f hf => waits f (by rwa [UnitSt.headOf, UnitSt.setBank_work] at hf)
  change clockEvent u s _ = _
  rw [clockEvent, hs, if_pos hb, unitEvent_of_live hu hh]
  refine congrArg Host.Outcome.next ((if_neg (by decide)).trans ((if_pos (by simp [UnitSt.fallDue, hint, idle])).trans ?_))
  rw [State.fall, if_neg (by decide)]
  dsimp only
  rw [still]
  rfl

theorem State.spadFallen_bank (s : State) (u b : Nat) : ((s.spadFallen u b).unit u).bank 1 b = ((s.unit u).bank 1 b).fallNow
    := by
  have unit : (s.spadFallen u b).unit u = (s.unit u).setBank 1 b ((s.unit u).bank 1 b).fallNow := by
    unfold State.spadFallen
    dsimp only
    split_ifs <;> exact State.unit_setUnit_same ..
  rw [unit, UnitSt.bank_setBank_same]

theorem State.spadFallen_mem {s : State} {u b : Nat} (h : ((s.unit u).bank 1 b).fall ≠ .off) : (s.spadFallen u b).mem = s.mem
    := by
  rw [State.spadFallen, if_neg h]
  rfl

/-! ### What a wipe leaves -/

theorem Staged.without_apart {w w' : Staged} {k n : Nat} (h : w' ∈ w.without k n) :
    w'.key + w'.bytes.length ≤ k ∨ k + n ≤ w'.key := by
  unfold Staged.without at h
  split_ifs at h with out low high high
  · rw [List.mem_singleton.1 h]
    omega
  · rcases List.mem_append.1 h with h | h
    · rw [List.mem_singleton.1 h]
      simp only [List.length_take]
      omega
    · rw [List.mem_singleton.1 h]
      exact .inr (Nat.le_refl _)
  · rw [List.append_nil, List.mem_singleton] at h
    rw [h]
    simp only [List.length_take]
    omega
  · rw [List.nil_append, List.mem_singleton] at h
    rw [h]
    exact .inr (Nat.le_refl _)
  · cases h

theorem Mem.wipe_staged {m : Mem} {k n : Nat} {w : Staged} (h : w ∈ (m.wipe k n).staged) :
    w.key + w.bytes.length ≤ k ∨ k + n ≤ w.key := by
  obtain ⟨l, hl, hw⟩ := List.mem_flatten.1 h
  obtain ⟨w', -, rfl⟩ := List.mem_map.1 hl
  exact Staged.without_apart hw

theorem Mem.byte_wipe (m : Mem) {k n a : Nat} (v : Viewer) (ha : k ≤ a ∧ a < k + n) : (m.wipe k n).byte v a = 0 := by
  rw [Mem.byte, stagedByte_of_apart v fun w hw hit => by have := Mem.wipe_staged hw; omega]
  refine (SMap.get_filter 0 m.bytes (fun x => !(decide (k ≤ x) && decide (x < k + n))) a).trans (if_neg ?_)
  simp [ha]

theorem stagedTag_of_apart (v : Viewer) {g : Nat} {l : List Staged} (h : ∀ w ∈ l, touchesGranule w g = false) :
    ∀ b : Bool, stagedTag v g b l = b := by
  induction l with
  | nil => exact fun b => rfl
  | cons w r ih =>
    intro b
    rw [stagedTag, h w (List.mem_cons_self ..), Bool.and_false, if_neg (by decide)]
    exact ih (fun w hw => h w (List.mem_cons_of_mem _ hw)) b

theorem Mem.tagAt_wipe (m : Mem) {k n a : Nat} (v : Viewer) (hk : k % 16 = 0) (hn : n % 16 = 0) (ha : k ≤ a ∧ a < k + n) :
    (m.wipe k n).tagAt v a = false := by
  rw [Mem.tagAt, stagedTag_of_apart v fun w hw => ?_]
  · refine (SMap.get_filter false m.tags (fun x => !(decide (k ≤ x * 16) && decide (x * 16 < k + n))) (a / 16)).trans (if_neg
      ?_)
    simp only [Bool.not_eq_true', Bool.and_eq_false_iff, decide_eq_false_iff_not, not_or, Decidable.not_not]
    omega
  · have apart := Mem.wipe_staged hw
    rcases List.eq_nil_or_concat w.bytes with none | ⟨l, b, some⟩
    · simp [touchesGranule, none]
    · have long : 0 < w.bytes.length := by simp [some]
      simp only [touchesGranule, Bool.and_eq_false_iff, decide_eq_false_iff_not]
      omega

/-! ### Wakes -/

theorem UnitSt.wakeIfDue_of_due {U : UnitSt} {k b : Nat} (waking : (U.bank k b).st = .waking) (due : (U.bank k b).wake = 0) :
    U.wakeIfDue k b = U.setBank k b { U.bank k b with st := .full, wake := 0 } :=
  (if_pos due).trans (if_pos waking)

theorem exec_spadBankWakeDone {s : State} {u b : Nat} (hu : u < 768) (hh : s.halted u = false) (hs : s.stands u = false) (hb
    : b < 16)
    (waking : ((s.unit u).bank 1 b).st = .waking) (due : ((s.unit u).bank 1 b).wake = 0) : exec (.spadBankWakeDone u b) s =
      .next (s.setUnit u ((s.unit u).setBank 1 b { (s.unit u).bank 1 b with st := .full, wake := 0 })) := by
  change clockEvent u s _ = _
  rw [clockEvent, hs, if_pos hb, unitEvent_of_live hu hh, UnitSt.wakeIfDue_of_due waking due]
  rfl

theorem exec_regBankWakeDone {s : State} {u b : Nat} (hu : u < 768) (hh : s.halted u = false) (hs : s.stands u = false) (hb :
    b < 8)
    (waking : ((s.unit u).bank 0 b).st = .waking) (due : ((s.unit u).bank 0 b).wake = 0) : exec (.regBankWakeDone u b) s =
      .next (s.setUnit u ((s.unit u).setBank 0 b { (s.unit u).bank 0 b with st := .full, wake := 0 }).fixDup) := by
  change clockEvent u s _ = _
  rw [clockEvent, hs, if_pos hb, unitEvent_of_live hu hh, UnitSt.wakeIfDue_of_due waking due]
  rfl

/-! ### The copy that makes a duplicate -/

/-- What the elements listed of one bank leave in its partner. -/
theorem get_copied {n m a : Nat} (rest : SMap Word32) (ha : a / 4096 = m) (l : SMap Word32) (hl : ∀ q ∈ l, q.1 / 4096 = n) :
    SMap.get 0 (l.foldr (fun q (t : SMap Word32) => SMap.set 0 t (m * 4096 + q.1 % 4096) q.2) rest) a =
      SMap.get (SMap.get 0 rest a) l (n * 4096 + a % 4096) := by
  induction l with
  | nil => rfl
  | cons q l ih =>
    have hq := hl q (List.mem_cons_self ..)
    rw [List.foldr_cons, SMap.get_set, SMap.get, ih fun q hq => hl q (List.mem_cons_of_mem _ hq)]
    exact if_congr (by omega) rfl rfl

theorem get_copied_other {m a : Nat} (rest : SMap Word32) (ha : a / 4096 ≠ m) (l : SMap Word32) :
    SMap.get 0 (l.foldr (fun q (t : SMap Word32) => SMap.set 0 t (m * 4096 + q.1 % 4096) q.2) rest) a = SMap.get 0 rest a := by
  induction l with
  | nil => rfl
  | cons q l ih => rw [List.foldr_cons, SMap.get_set, if_neg (by omega), ih]

/-- An element of a bank whose parity is right is one that a whole copy takes. -/
def UnitSt.copyTakes (U : UnitSt) (n b k : Nat) : Bool :=
  decide (k / 4096 = b) && decide (0 ≤ k % 4096 / 64) && decide (k % 4096 / 64 < 64) && !SMap.get false U.parity (n * 4096 +
    k % 4096)

theorem UnitSt.copyTakes_of_clean {U : UnitSt} {n : Nat} (clean : ∀ k, k / 4096 = n →
    SMap.get false U.parity k = false) (b k : Nat) :
    U.copyTakes n b k = decide (k / 4096 = b) := by
  have row : k % 4096 / 64 < 64 := by omega
  simp [UnitSt.copyTakes, row, clean (n * 4096 + k % 4096) (by omega)]

theorem UnitSt.dupCopied_elems (U : UnitSt) (n : Nat) : (U.dupCopied n).elems =
    (U.elems.filter fun q => U.copyTakes n n q.1).foldr (fun q (t : SMap Word32) => SMap.set 0 t ((n ^^^ 4) * 4096 + q.1 %
      4096) q.2)
      (U.elems.filter fun q => !U.copyTakes n (n ^^^ 4) q.1) := rfl

section
variable {U : UnitSt} {n : Nat} (clean : ∀ k, k / 4096 = n → SMap.get false U.parity k = false)
include clean

theorem UnitSt.dupCopied_other {a : Nat} (ha : a / 4096 ≠ n ^^^ 4) : SMap.get 0 (U.dupCopied n).elems a = SMap.get 0 U.elems
    a := by
  rw [UnitSt.dupCopied_elems, get_copied_other _ ha]
  refine (SMap.get_filter 0 U.elems (fun k => !U.copyTakes n (n ^^^ 4) k) a).trans (if_pos ?_)
  rw [UnitSt.copyTakes_of_clean clean]
  simp [ha]

theorem UnitSt.dupCopied_partner {j : Nat} (hj : j < 4096) :
    SMap.get 0 (U.dupCopied n).elems ((n ^^^ 4) * 4096 + j) = SMap.get 0 U.elems (n * 4096 + j) := by
  have place : ((n ^^^ 4) * 4096 + j) / 4096 = n ^^^ 4 := by omega
  have off : ((n ^^^ 4) * 4096 + j) % 4096 = j := by omega
  have home : (n * 4096 + j) / 4096 = n := by
    rw [Nat.add_comm, Nat.add_mul_div_right _ _ (by norm_num), Nat.div_eq_of_lt hj, Nat.zero_add]
  have emptied : SMap.get 0 (U.elems.filter fun q => !U.copyTakes n (n ^^^ 4) q.1) ((n ^^^ 4) * 4096 + j) = 0 := by
    refine (SMap.get_filter 0 U.elems (fun k => !U.copyTakes n (n ^^^ 4) k) _).trans (if_neg ?_)
    rw [UnitSt.copyTakes_of_clean clean]
    simp [place]
  rw [UnitSt.dupCopied_elems, get_copied _ place _ fun q hq => ?_, emptied, off]
  · refine (SMap.get_filter 0 U.elems (fun k => U.copyTakes n n k) _).trans (if_pos ?_)
    rw [UnitSt.copyTakes_of_clean clean]
    simp [home]
  · have takes := (List.mem_filter.1 hq).2
    rw [UnitSt.copyTakes_of_clean clean] at takes
    exact of_decide_eq_true takes

end

theorem State.parityChk_of_clean {s : State} {u : Nat} {keys : List Nat} (h : ∀ k ∈ keys,
    SMap.get false (s.unit u).parity k = false) :
    s.parityChk u keys = none := by
  have none : keys.find? (fun k => SMap.get false (s.unit u).parity k) = none := List.find?_eq_none.2 fun k hk => by simp [h
    k hk]
  rw [State.parityChk]
  dsimp only
  split_ifs
  · rfl
  · rw [none]

theorem exec_dupCopyDone {s : State} {u b : Nat} (hu : u < 768) (hh : s.halted u = false) (hs : s.stands u = false) (hb : b < 8)
    (holds : (s.unit u).dupHolds b = true) (not : (s.unit u).dcur.getLsbD b = false)
    (clean : ∀ k, k / 4096 = b → SMap.get false (s.unit u).parity k = false) :
    exec (.dupCopyDone u b) s = .next (s.setUnit u ((s.unit u).dupCopied b)) := by
  have read : s.parityChk u ((s.unit u).badFrom b (SMap.get 0 (s.unit u).dupRows b)) = none :=
    State.parityChk_of_clean fun k hk => by
      have here := (List.mem_filter.1 hk).2
      simp only [Bool.and_eq_true, decide_eq_true_eq] at here
      exact clean k here.1
  change clockEvent u s (s.dupDone u b) = _
  rw [clockEvent, hs, if_neg (by decide), unitEvent_of_live hu hh, State.dupDone, if_pos ⟨hb, holds, by simp [not]⟩, read]
  rfl

/-- Settles O40: what the bank words issue, and what each event of a bank leaves. -/
theorem bankWordsIssueAndBanksChange : Obligations.BankWordsIssueAndBanksChange := by
  unfold Obligations.BankWordsIssueAndBanksChange
  refine ⟨fun tk d k g s u e r he h => ⟨fun own => ?own, fun hk other => ?other, fun take ok => ?take, fun matrix => ?give,
    fun imm hbank => exec_bstat he h d imm hbank⟩, fun s u hu hh hs => ⟨fun b hb hint idle waits => ?spadFall,
    fun b hb hint idle => ?regFall, fun b hb waking due => ?spadWake, fun b hb waking due => ?regWake,
    fun b hb holds not clean => ?dup⟩⟩
  case own =>
    have none := UnitSt.hintOwn_of_own own
    exact ⟨fun fall => exec_bhint_of_own he h fall none, exec_bwake_of_own he h none⟩
  case other =>
    have some := UnitSt.hintOwn_of_not_own other
    rw [hk]
    exact ⟨fun fall => exec_bhint_of_not_own he h fall some, exec_bwake_of_not_own he h some⟩
  case take =>
    rw [exec_balloc he h, if_neg ok]
    rfl
  case give =>
    rw [exec_balloc he h, if_pos ⟨rfl, matrix⟩]
    rfl
  case spadFall =>
    have bank := s.spadFallen_bank u b
    refine ⟨_, exec_spadBankFall hu hh hs hb hint idle waits, ?_, fun hf => ⟨?_, ?_⟩, fun hf => ⟨?_, ?_⟩, fun hf => ⟨?_,
      fun v o low high => ?_⟩⟩
    · rw [bank, Bank.fallNow_hint]
    · rw [bank, Bank.fallNow_of_retain hf]
    · exact State.spadFallen_mem (by rw [hf]; decide)
    · rw [bank, Bank.fallNow_of_full hf]
    · exact State.spadFallen_mem (by rw [hf]; decide)
    · rw [bank, Bank.fallNow_of_off hf]
    · have mem : (s.spadFallen u b).mem = s.mem.wipe (keyOf (16 + u) (b * 65536)) 65536 := by
        rw [State.spadFallen, if_pos hf]
        rfl
      have range : keyOf (16 + u) (b * 65536) ≤ keyOf (16 + u) o ∧ keyOf (16 + u) o < keyOf (16 + u) (b * 65536) + 65536 := by
        unfold keyOf
        omega
      have aligned : keyOf (16 + u) (b * 65536) % 16 = 0 := by
        unfold keyOf
        omega
      rw [mem]
      exact ⟨Mem.byte_wipe _ v range, Mem.tagAt_wipe _ v aligned (by decide) range⟩
  case regFall =>
    refine ⟨_, exec_regBankFall hu hh hs hb hint idle, ?_⟩
    rw [State.unit_setUnit_same, UnitSt.fallReg_bank, UnitSt.fallReg_elems]
    refine ⟨Bank.fallNow_hint _, rfl, fun hf => ⟨Bank.fallNow_of_retain hf, if_neg (by rw [hf]; decide)⟩,
      fun hf => ⟨Bank.fallNow_of_full hf, if_neg (by rw [hf]; decide)⟩, fun hf => ⟨Bank.fallNow_of_off hf, fun n => ?_⟩⟩
    rw [if_pos hf]
    refine (SMap.get_filter 0 (s.unit u).elems (fun k => decide (k / 4096 ≠ b)) n).trans ?_
    by_cases hn : n / 4096 = b <;> simp [hn]
  case spadWake =>
    refine ⟨_, exec_spadBankWakeDone hu hh hs hb waking due, ?_, rfl⟩
    rw [State.unit_setUnit_same, UnitSt.bank_setBank_same]
  case regWake =>
    refine ⟨_, exec_regBankWakeDone hu hh hs hb waking due, ?_, rfl, ?_⟩
    · rw [State.unit_setUnit_same, UnitSt.bank_of_rb (UnitSt.fixDup_rb _), UnitSt.bank_setBank_same]
    · rw [State.unit_setUnit_same, UnitSt.fixDup_elems, UnitSt.setBank_elems]
  case dup =>
    refine ⟨_, exec_dupCopyDone hu hh hs hb holds not clean, ?_⟩
    rw [State.unit_setUnit_same]
    refine ⟨?_, rfl, fun n hn => UnitSt.dupCopied_other clean hn, fun j hj => UnitSt.dupCopied_partner clean hj⟩
    have mine : ((BitVec.ofNat 8 (2 ^ b)).getLsbD b) = true := by
      rw [BitVec.getLsbD_ofNat, Nat.testBit_two_pow_self, decide_eq_true hb, Bool.and_true]
    exact (BitVec.getLsbD_or ..).trans (by rw [mine, Bool.or_true])

end Sys2Proof.Machine
end



section
/-! O43. Shared-B groups. -/
namespace Sys2Proof.Machine

section
variable {tk : Tok} {g : Nat} {s : State} {u : Nat} {r : PassRec} (h : Ready s u .M r tk none [])
include h

/-- The unit that a ready word acts on, as its engine finds it. -/
theorem who_of_ready : (s.freshen u .M tk).who.1 = u := by
  have who : (s.freshen u .M tk).who = s.who := by
    unfold State.freshen
    dsimp only
    split_ifs <;> rfl
  rw [who, h.who]

theorem exec_mjoin_joining {sz src : Nat} (hj : u ∈ ((s.freshen u .M tk).groupOf u g).joining) :
    exec (.mjoin tk sz src g) s = .next (((s.freshen u .M tk).setGroup u g { (s.freshen u .M tk).groupOf u g with
      joining := ((s.freshen u .M tk).groupOf u g).joining.erase u }).leaves u .M r tk (s.flight u .M r tk)) := by
  have run : exec (.mjoin tk sz src g) s = _ := (State.eWord_of_ready h _ : execMjoin tk sz src g s = _)
  rw [run]
  simp only [who_of_ready h]
  rw [if_pos (by simpa using hj)]
  rfl

section
variable {sz src : Nat} (alone : ((s.freshen u .M tk).unit u).group = none) (hj : u ∉ ((s.freshen u .M tk).groupOf u g).joining)
  (one : (s.freshen u .M tk).oneCluster u = true) (new : ∀ m ∈ ((s.freshen u .M tk).groupOf u g).members, m.1 ≠ u)
  (size : ((s.freshen u .M tk).groupOf u g).members ≠ [] → ((s.freshen u .M tk).groupOf u g).size = sz + 1)
  (source : src = 1 → ∀ m ∈ ((s.freshen u .M tk).groupOf u g).members, m.2 = false)
  (room : ((s.freshen u .M tk).groupOf u g).members ≠ [] →
    ((s.freshen u .M tk).groupOf u g).members.length < ((s.freshen u .M tk).groupOf u g).size)
include alone hj one new size source room

/-- An MJOIN that may join: it waits, fails or forms the group by who waits with it. -/
theorem exec_mjoin_joins :
    let s0 := s.freshen u .M tk
    let G := s0.groupOf u g
    let ms := G.members ++ [(u, decide (src = 1))]
    let G1 := { G with size := sz + 1, members := ms }
    exec (.mjoin tk sz src g) s = s0.settle u .M r tk ⟨none, []⟩
      (if ms.length < sz + 1 ∨ !s0.allWait u 4 g ms then .stall ((s0.setGroup u g G1).beginOwn u .M)
      else if !(ms.any fun m => m.2) then
        .trapAt ((s0.setGroup u g { G with size := 0, members := [] }).failJoin (ms.filter fun m => decide (m.1 ≠ u))) .und
          r.addr r.hdr
      else .go (s0.formGroup u g G1) (s.flight u .M r tk)) := by
  intro s0 G ms G1
  have run : exec (.mjoin tk sz src g) s = _ := (State.eWord_of_ready h _ : execMjoin tk sz src g s = _)
  have fresh : (G.members.any fun m => decide (m.1 = u)) = false := by
    rw [List.any_eq_false]
    intro m hm
    simpa using new m hm
  have sources : (decide (src = 1) = true ∧ (G.members.any fun m => m.2) = true) → False := by
    rintro ⟨h1, h2⟩
    obtain ⟨m, hm, h2⟩ := List.any_eq_true.1 h2
    exact absurd h2 (by simp [source (of_decide_eq_true h1) m hm])
  have fits : ¬ ((!(G.members.any fun m => decide (m.1 = u))) = true ∧ G.members ≠ [] ∧
      (G.size ≠ sz + 1 ∨ (decide (src = 1) = true ∧ (G.members.any fun m => m.2) = true) ∨ G.size ≤ G.members.length)) := by
    rintro ⟨-, some, h | h | h⟩
    · exact h (size some)
    · exact sources h
    · exact Nat.not_lt.2 h (room some)
  rw [run]
  simp only [who_of_ready h]
  rw [if_neg (by simpa using hj), if_neg (by simp [alone, one]), if_neg fits, fresh]
  rfl

end

theorem exec_mleave_leaving (alone : ((s.freshen u .M tk).unit u).group = none) (hl : u ∈ ((s.freshen u .M tk).groupOf u
    g).leaving) :
    exec (.mleave tk g) s = .next (((s.freshen u .M tk).setGroup u g { (s.freshen u .M tk).groupOf u g with
      leaving := ((s.freshen u .M tk).groupOf u g).leaving.erase u }).leaves u .M r tk (s.flight u .M r tk)) := by
  have run : exec (.mleave tk g) s = _ := (State.eWord_of_ready h _ : execMleave tk g s = _)
  rw [run]
  simp only [who_of_ready h, alone]
  rw [if_pos (by simpa using hl)]
  rfl

/-- An MLEAVE of a member: it waits until every member has arrived and waits, and the group is free then. -/
theorem exec_mleave_member {role : Bool} (mine : ((s.freshen u .M tk).unit u).group = some (g, role))
    (idle : ∀ o ∈ ((s.freshen u .M tk).unit u).work.mops, o.shr = false) :
    let s0 := s.freshen u .M tk
    let G := s0.groupOf u g
    let l := if u ∈ G.leaving then G.leaving else G.leaving ++ [u]
    exec (.mleave tk g) s = s0.settle u .M r tk ⟨none, []⟩
      (if (G.members.all fun m => l.contains m.1) && s0.allWait u 5 g G.members then
        .go ((G.members.foldl (fun s m => s.setUnit m.1 { s.unit m.1 with group := none }) s0).setGroup u g ⟨0, [], false,
          l.erase u, []⟩)
          (s.flight u .M r tk)
      else .stall ((s0.setGroup u g { G with leaving := l }).beginOwn u .M)) := by
  intro s0 G l
  have run : exec (.mleave tk g) s = _ := (State.eWord_of_ready h _ : execMleave tk g s = _)
  have none : (((s.freshen u .M tk).unit u).work.mops.any fun o => o.shr) = false := by
    rw [List.any_eq_false]
    intro o ho
    simp [idle o ho]
  rw [run]
  simp only [who_of_ready h, mine, none, ne_eq, not_true_eq_false, if_false, Bool.false_eq_true, List.contains_iff_mem]
  rfl

end

/-- A unit that has arrived is one of those that leave; without it they are those that had arrived before. -/
theorem erase_arrived (l : List Nat) (u : Nat) : (if u ∈ l then l else l ++ [u]).erase u = l.erase u := by
  split_ifs with hu
  · rfl
  · rw [List.erase_append_right _ hu, List.erase_of_not_mem hu]
    simp

theorem mem_arrived {l : List Nat} {u v : Nat} : v ∈ (if u ∈ l then l else l ++ [u]) ↔ v = u ∨ v ∈ l := by
  split_ifs with hu
  · exact ⟨.inr, fun h => h.elim (fun h => h ▸ hu) id⟩
  · rw [List.mem_append, List.mem_singleton, or_comm]

/-! ### The forming of a group -/

/-- A member belongs to the group, in its role. -/
def State.enroll (g : Nat) (s : State) (m : Nat × Bool) : State := s.setUnit m.1 { s.unit m.1 with group := some (g, m.2) }

theorem State.enroll_other (g : Nat) {w : Nat} (l : List (Nat × Bool)) (s : State) (h : ∀ m ∈ l, m.1 ≠ w) :
    (l.foldl (State.enroll g) s).unit w = s.unit w := by
  induction l generalizing s with
  | nil => rfl
  | cons m l ih =>
    rw [List.foldl_cons, ih _ fun m hm => h m (List.mem_cons_of_mem _ hm), State.enroll,
      State.unit_setUnit_other _ _ (h m (List.mem_cons_self ..)).symm]

theorem State.enroll_member (g : Nat) (l : List (Nat × Bool)) (s : State) (nd : (l.map (·.1)).Nodup) :
    ∀ m ∈ l, ((l.foldl (State.enroll g) s).unit m.1).group = some (g, m.2) := by
  induction l generalizing s with
  | nil => exact fun m hm => by cases hm
  | cons q l ih =>
    obtain ⟨apart, nd⟩ := List.nodup_cons.1 (by rwa [List.map_cons] at nd)
    intro m hm
    rcases List.mem_cons.1 hm with rfl | hm
    · rw [List.foldl_cons, State.enroll_other g l _ fun q hq he => apart (List.mem_map.2 ⟨q, hq, he⟩), State.enroll,
        State.unit_setUnit_same]
    · exact ih _ nd m hm

theorem State.groupOf_setGroup (s : State) (u g : Nat) (G : Group) : (s.setGroup u g G).groupOf u g = G := by
  rw [State.groupOf, State.setGroup, State.cluster_setCluster_same]
  exact SMap.get_set_same ..

theorem State.formGroup_unit (s : State) (u g : Nat) (G : Group) (v : Nat) :
    (s.formGroup u g G).unit v = (G.members.foldl (State.enroll g) s).unit v := rfl

/-! ### A round of a source and one other member -/

/-- The operation of a member of a round: the operand of the source's word is its own. -/
def MOp.inRound (o so : MOp) (src round : Nat) : MOp :=
    { o with src := src + 1, bword := so.bword, nc := so.nc, round := round }

/-- The unit once its operation has joined the round. -/
def UnitSt.joinRound (V : UnitSt) (o so : MOp) (src round : Nat) : UnitSt :=
  { V with work := { V.work with mops := V.work.mops.map fun x => if x.id = o.id then o.inRound so src round else x } }

theorem UnitSt.mem_joinRound {V : UnitSt} {o : MOp} (h : V.waitingShr = some o) (so : MOp) (src round : Nat) :
    o.inRound so src round ∈ (V.joinRound o so src round).work.mops :=
  List.mem_map.2 ⟨o, List.mem_of_find?_eq_some h, if_pos rfl⟩

theorem roundStart_of_pair {s : State} {c g v w : Nat} {so mo : MOp} (apart : v ≠ w)
    (members : (SMap.get Group.reset (s.cluster c).groups g).members = [(v, true), (w, false)])
    (formed : (SMap.get Group.reset (s.cluster c).groups g).formed = true) (dv : (s.unit v).trap.depth = 0) (dw : (s.unit
      w).trap.depth = 0)
    (lv : (s.unit v).run ≠ .loading) (lw : (s.unit w).run ≠ .loading) (hv : (s.unit v).waitingShr = some so)
    (hw : (s.unit w).waitingShr = some mo) (hk : mo.k = so.k) (hb : mo.bf16 = so.bf16) :
    s.roundStart c g = (s.setUnit v ((s.unit v).joinRound so so v (s.tick + 1))).setUnit w ((s.unit w).joinRound mo so v
      (s.tick + 1)) := by
  have kept : (s.setUnit v ((s.unit v).joinRound so so v (s.tick + 1))).unit w = s.unit w := State.unit_setUnit_other _ _
    apart.symm
  rw [State.roundStart]
  simp only [members, List.map_cons, List.map_nil, hv, hw, List.find?_cons_of_pos]
  rw [if_neg (by simp [formed, dv, dw, lv, lw]), if_neg (by simp [hk, hb])]
  rw [← kept]
  rfl

/-- Settles O43: groups form, fail, leave and round as their members wait. -/
theorem sharedGroupsFormRoundAndDissolve : Obligations.SharedGroupsFormRoundAndDissolve := by
  unfold Obligations.SharedGroupsFormRoundAndDissolve
  refine ⟨fun tk sz src g s u r h => ?join, fun s u g G nd => ?form, fun tk sz src g s u r h => exec_mjoin_joining h,
    fun tk g s u r role h => ?leave, fun tk g s u r h => exec_mleave_leaving h,
    fun s c g v w so mo apart members formed dv dw lv lw hv hw hk hb => ?round⟩
  case join =>
    intro s0 U G ms f G1 alone hj one new size source room
    have run := exec_mjoin_joins h alone hj one new size source room
    dsimp only at run
    refine ⟨fun waits => ?_, fun full all some => ?_, fun full all none => ?_⟩
    · rw [run, if_pos (waits.imp id fun h => by rw [h]; rfl)]
      rfl
    · obtain ⟨m, hm, hsrc⟩ := some
      rw [run, if_neg (fun h => h.elim (Nat.not_lt.2 full) fun h => by rw [show _ = true from all] at h; cases h),
        if_neg (by rw [List.any_eq_true.2 ⟨m, hm, hsrc⟩]; decide)]
      rfl
    · have nosrc : (ms.any fun m => m.2) = false := by
        rw [List.any_eq_false]
        intro m hm
        simp [none m hm]
      rw [run, if_neg (fun h => h.elim (Nat.not_lt.2 full) fun h => by rw [show _ = true from all] at h; cases h),
        if_pos (by rw [nosrc]; rfl)]
      rfl
  case form =>
    intro t
    have group : t.groupOf u g = { G with formed := true, joining := (G.members.map (·.1)).filter fun v => decide (v ≠ u) } :=
      State.groupOf_setGroup ..
    refine ⟨fun m hm => State.enroll_member g G.members s nd m hm, by rw [group], by rw [group], fun v => ?_,
      fun w hw => State.enroll_other g G.members s hw⟩
    rw [group]
    simp [and_comm]
  case leave =>
    intro s0 U G mine idle
    have run := exec_mleave_member h mine idle
    dsimp only at run
    refine ⟨fun all waits => ?_, fun missing => ?_⟩
    · have here : (G.members.all fun m => (if u ∈ G.leaving then G.leaving else G.leaving ++ [u]).contains m.1) = true := by
        rw [List.all_eq_true]
        intro m hm
        rw [List.contains_iff_mem, mem_arrived]
        exact all m hm
      rw [run, if_pos (by rw [show _ = true from here, show _ = true from waits]; rfl), erase_arrived]
      rfl
    · rw [run, if_neg]
      · rfl
      · rw [Bool.and_eq_true, List.all_eq_true]
        rintro ⟨here, waits⟩
        rcases missing with ⟨m, hm, hu, hl⟩ | missing
        · have arrived := here m hm
          rw [List.contains_iff_mem, mem_arrived] at arrived
          exact arrived.elim hu hl
        · exact absurd waits (by rw [show _ = false from missing]; decide)
  case round =>
    refine ⟨_, congrArg Host.Outcome.next (roundStart_of_pair apart members formed dv dw lv lw hv hw hk hb), rfl, ?_, ?_⟩
    · rw [State.unit_setUnit_other _ _ apart, State.unit_setUnit_same]
      exact ⟨_, UnitSt.mem_joinRound hv so v (s.tick + 1), rfl, rfl, rfl, rfl⟩
    · rw [State.unit_setUnit_same]
      exact ⟨_, UnitSt.mem_joinRound hw so v (s.tick + 1), rfl, rfl, rfl, rfl, rfl⟩

end Sys2Proof.Machine
end



section
/-! O34. The load words, and the event that writes their lanes. -/
namespace Sys2Proof.Machine

theorem UnitSt.stream_setStream (U : UnitSt) (i : Nat) (t : Stream) : (U.setStream i t).stream i = t := SMap.get_set_same ..

/-! ### The step of a stream -/

/-- The stream once an L word has taken `n` elements and left `rest` in the buffer. -/
def Stream.taken (t : Stream) (d : Desc) (n : Nat) (rest : List BufStep) : Stream :=
  { t with
    cons := 1, pc := t.pc + n, ps := (if n = 0 then t.ps else max t.ps (t.pc + n)), buf := rest,
    lines := t.lines.filter fun l => decide (d.row (t.pc + n) ≤ l.1) }

section
variable {s : State} {u i : Nat} {r : PassRec} {d : Desc} (kept : (s.unit u).dropping i = false)
  (read : ((s.unit u).stream i).mode = .read) (active : ((s.unit u).stream i).active = some d)
  (cons : ((s.unit u).stream i).cons = 0 ∨ ((s.unit u).stream i).cons = 1)
include kept read active cons

/-- An L word takes what its stream has buffered. -/
theorem State.takeStep_of_buffered {n : Nat} {x y : List Nat} {rest : List BufStep} (plain : n ≠ 0 → d.checked = false)
    (buf : takeBuf n ((s.unit u).stream i).buf = .inl (some (x, y, rest))) : s.takeStep u .L i 1 n r =
      .got (s.setUnit u ((s.unit u).setStream i (((s.unit u).stream i).taken d n rest))) x y := by
  have mine : ¬ (((s.unit u).stream i).cons ≠ 0 ∧ ((s.unit u).stream i).cons ≠ 1) := by omega
  unfold State.takeStep
  dsimp only
  rw [if_neg (by simp [kept]), read, active]
  dsimp only
  rw [if_neg mine]
  by_cases hn : n = 0
  · subst hn
    rw [takeBuf] at buf
    obtain ⟨rfl, rfl, rfl⟩ : [] = x ∧ [] = y ∧ ((s.unit u).stream i).buf = rest := by simpa using buf
    rw [if_pos rfl, Stream.taken, if_pos rfl, read, active]
    rfl
  · rw [if_neg hn, if_neg (by simp [plain hn]), buf, Stream.taken, if_neg hn, read, active]
    rfl

end

/-- A load word whose banks and whose counter let it go on. -/
theorem State.loadGate_of_ok {s : State} {U : UnitSt} {bs : List (Nat × Bool)} (bank : U.bankChk false bs = .ok) (room :
    U.room true = true)
    (r : PassRec) (k : Res) : s.loadGate U bs r k = k := by
  rw [State.loadGate, bank]
  exact if_neg (by simp [room])

theorem who_of_ready_L {tk : Tok} {g : XP} {s : State} {u : Nat} {r : PassRec} (h : Ready s u .L r tk g []) : (s.freshen u .L
    tk).who.1 = u := by
  have who : (s.freshen u .L tk).who = s.who := by
    unfold State.freshen
    dsimp only
    split_ifs <;> rfl
  rw [who, h.who]

section
variable {tk : Tok} {g : XP} {s : State} {u : Nat} {r : PassRec} {i sp : Nat} {d : Desc} {x y : List Nat} {rest : List BufStep}
  (h : Ready s u .L r tk g []) (bank : ((s.freshen u .L tk).unit u).bankChk false [(specBank sp, false)] = .ok)
  (room : ((s.freshen u .L tk).unit u).room true = true) (kept : ((s.freshen u .L tk).unit u).dropping i = false)
  (read : (((s.freshen u .L tk).unit u).stream i).mode = .read) (active : (((s.freshen u .L tk).unit u).stream i).active =
    some d)
  (cons : (((s.freshen u .L tk).unit u).stream i).cons = 0 ∨ (((s.freshen u .L tk).unit u).stream i).cons = 1)
include h bank room kept read active cons

theorem exec_lsv {n : Nat} (hn : n = if d.total ≤ (((s.freshen u .L tk).unit u).stream i).pc then 0
      else d.step (((s.freshen u .L tk).unit u).stream i).pc) (plain : n ≠ 0 → d.checked = false)
    (buf : takeBuf n (((s.freshen u .L tk).unit u).stream i).buf = .inl (some (x, y, rest))) :
    let s0 := s.freshen u .L tk
    let s1 := s0.setUnit u ((s0.unit u).setStream i (((s0.unit u).stream i).taken d n rest))
    exec (.lsv tk i sp g) s = .next ((s1.setUnit u (s1.unit u).moreLoads).leaves u .L r tk
      ((s.flight u .L r tk).lanesTo sp (padLanes ((d.decodeAll x y).map (·.1))) (orFlags ((d.decodeAll x y).map (·.2))))) := by
  intro s0 s1
  have run : exec (.lsv tk i sp g) s = _ := (State.eWord_of_ready h _ : execLsv tk i sp g s = _)
  have next : (((s.freshen u .L tk).unit u).stream i).nextStep = some (d, n) := by rw [Stream.nextStep, active, hn]; rfl
  rw [run, State.loadGate_of_ok bank room, next, who_of_ready_L h]
  dsimp only
  rw [State.takeStep_of_buffered kept read active cons plain buf]
  rfl

theorem exec_lbrd {n : Nat} (hn : n = min (if d.total ≤ (((s.freshen u .L tk).unit u).stream i).pc then 0
      else d.step (((s.freshen u .L tk).unit u).stream i).pc) 1) (plain : n ≠ 0 → d.checked = false)
    (buf : takeBuf n (((s.freshen u .L tk).unit u).stream i).buf = .inl (some (x, y, rest))) :
    let s0 := s.freshen u .L tk
    let s1 := s0.setUnit u ((s0.unit u).setStream i (((s0.unit u).stream i).taken d n rest))
    exec (.lbrd tk i sp g) s = .next ((s1.setUnit u (s1.unit u).moreLoads).leaves u .L r tk
      ((s.flight u .L r tk).lanesTo sp (List.replicate 64 (BitVec.ofNat 32 ((d.decodeAll x y).headD (0, 0)).1))
        (orFlags ((d.decodeAll x y).map (·.2))))) := by
  intro s0 s1
  have run : exec (.lbrd tk i sp g) s = _ := (State.eWord_of_ready h _ : execLbrd tk i sp g s = _)
  have next : (((s.freshen u .L tk).unit u).stream i).nextStep = some (d,
    if d.total ≤ (((s.freshen u .L tk).unit u).stream i).pc then 0
      else d.step (((s.freshen u .L tk).unit u).stream i).pc) := by rw [Stream.nextStep, active]; rfl
  rw [run, State.loadGate_of_ok bank room, next, who_of_ready_L h]
  dsimp only
  rw [← hn, State.takeStep_of_buffered kept read active cons plain buf]
  rfl

end

/-! ### LGATH -/

/-- LGATH leaves its stream past the row that it gathers from. -/
theorem State.takeRow_got {s s1 : State} {u i : Nat} {d : Desc} {t : Stream} {r : PassRec} {c e : List Nat}
    (h : s.takeRow u i d t r = .got s1 c e) :
    ((s1.unit u).stream i).pc = d.row t.pc * d.c 0 + d.c 0 ∧ ((s1.unit u).stream i).cons = 1 := by
  unfold State.takeRow at h
  dsimp only at h
  split at h
  · split at h
    · injection h with h
      rw [← h, State.unit_setUnit_same, UnitSt.stream_setStream]
      exact ⟨rfl, rfl⟩
    · rename_i none
      exact absurd h (none _ _ _)
  · split at h
    · split at h
      · injection h with h
        rw [← h, State.unit_setUnit_same, UnitSt.stream_setStream]
        exact ⟨rfl, rfl⟩
      · rename_i none
        exact absurd h (none _ _ _)
    · rename_i none
      exact absurd h (none _ _ _)

/-- What LGATH picks from the elements of its row. -/
def lgathPicked (d : Desc) (idx : List Nat) (v : List (Nat × Nat)) : List (Nat × Nat) :=
  idx.map fun j => if j < d.c 0 then v.getD j (0, 0) else (0, 0)

theorem lgathPicked_nil (d : Desc) (idx : List Nat) : lgathPicked d idx [] = idx.map fun _ => (0, 0) := by
  simp [lgathPicked]

theorem padLanes_zero (l : List Nat) (h : ∀ v ∈ l, v = 0) : padLanes l = List.replicate 64 0 := by
  refine List.eq_replicate_iff.2 ⟨by simp [padLanes], fun w hw => ?_⟩
  obtain ⟨j, -, rfl⟩ := List.mem_map.1 hw
  have zero : l.getD j 0 = 0 := by
    rw [List.getD_eq_getElem?_getD]
    cases hj : l[j]? with
    | none => rfl
    | some v => exact h v (List.mem_of_getElem? hj)
  rw [zero]
  rfl

theorem orFlags_zero (l : List Nat) (h : ∀ v ∈ l, v = 0) : orFlags l = 0 := by
  unfold orFlags
  induction l with
  | nil => rfl
  | cons v l ih =>
    rw [List.foldl_cons, h v (List.mem_cons_self ..)]
    exact ih fun w hw => h w (List.mem_cons_of_mem _ hw)

section
variable {tk : Tok} {xv : XV} {s : State} {u : Nat} {r : PassRec} {i sp : Nat} {d : Desc} (h : Ready s u .L r tk xv.grd [])
  (free : ∀ q ∈ ((s.freshen u .L tk).unit u).work.fl, q.eng = .L → q.wait ≠ .done → specBank xv.va ∉ q.wr)
  (bank : ((s.freshen u .L tk).unit u).bankChk false [(specBank xv.va, true), (specBank sp, false)] = .ok)
  (room : ((s.freshen u .L tk).unit u).room true = true) (kept : ((s.freshen u .L tk).unit u).dropping i = false)
  (read : (((s.freshen u .L tk).unit u).stream i).mode = .read) (active : (((s.freshen u .L tk).unit u).stream i).active =
    some d)
  (cons : (((s.freshen u .L tk).unit u).stream i).cons = 0 ∨ (((s.freshen u .L tk).unit u).stream i).cons = 1)
  (row : d.c 0 ≤ 512) (parity : (s.freshen u .L tk).parityChk u ((List.range 64).map (specKey xv.va)) = none)
include h free bank room kept read active cons row parity

/-- An LGATH that nothing holds: it gathers nothing at the end of the stream, and from its row before. -/
theorem exec_lgath :
    let s0 := s.freshen u .L tk
    let t := (s0.unit u).stream i
    let idx := (s0.mixed .L (s0.unit u)).laneNats xv.va
    let done := fun (s' : State) (v : List (Nat × Nat)) => Res.go s' { (s.flight u .L r tk).lanesTo sp
      (padLanes ((lgathPicked d idx v).map (·.1))) (orFlags ((lgathPicked d idx v).map (·.2))) with rd := [specBank xv.va] }
    exec (.lgath tk i sp xv) s = s0.settle u .L r tk ⟨none, []⟩
      (if d.total ≤ t.pc then (s0.takeStep u .L i 1 0 r).toRes u fun s1 _ _ => done s1 []
      else (s0.takeRow u i d t r).toRes u fun s1 c e => done s1 (d.decodeAll c e)) := by
  intro s0 t idx done
  have run : exec (.lgath tk i sp xv) s = _ := (State.eWord_of_ready h _ : execLgath tk i sp xv s = _)
  have none : (((s.freshen u .L tk).unit u).work.fl.any fun q =>
      q.eng == .L && decide (q.wait ≠ .done) && q.wr.contains (specBank xv.va)) = false := by
    rw [List.any_eq_false]
    intro q hq hit
    simp only [Bool.and_eq_true, beq_iff_eq, decide_eq_true_eq, List.contains_iff_mem] at hit
    exact free q hq hit.1.1 hit.1.2 hit.2
  rw [run]
  dsimp only
  rw [who_of_ready_L h, none, if_neg Bool.false_ne_true, State.loadGate_of_ok bank room, kept, if_neg Bool.false_ne_true,
    read, active]
  dsimp only
  rw [if_neg (by omega), parity]
  rfl

end

end Sys2Proof.Machine
end



section
/-! O34, the event of the load words. -/
namespace Sys2Proof.Machine

/-! ### What a bank holds after a write -/

/-- One element written, and its place in the duplicate. -/
def writeElem (dup : Option Nat) (m : SMap Word32) (k : Nat) (v : Word32) : SMap Word32 :=
  dup.elim (SMap.set 0 m k v) fun b => SMap.set 0 (SMap.set 0 m k v) (b * 4096 + k % 4096) v

theorem writeElems_cons (dup : Option Nat) (k : Nat) (v : Word32) (l : List (Nat × Word32)) (m : SMap Word32) :
    writeElems dup ((k, v) :: l) m = writeElems dup l (writeElem dup m k v) := by
  cases dup <;> rfl

theorem get_writeElem_other {dup : Option Nat} {k a : Nat} (hk : a ≠ k) (hd : ∀ b, dup = some b → a ≠ b * 4096 + k % 4096)
    (m : SMap Word32) (v : Word32) : SMap.get 0 (writeElem dup m k v) a = SMap.get 0 m a := by
  cases dup with
  | none => rw [writeElem, Option.elim_none, SMap.get_set, if_neg hk]
  | some b => rw [writeElem, Option.elim_some, SMap.get_set, if_neg (hd b rfl), SMap.get_set, if_neg hk]

theorem get_writeElem_same {dup : Option Nat} {k : Nat} (hd : ∀ b, dup = some b → k ≠ b * 4096 + k % 4096)
    (m : SMap Word32) (v : Word32) : SMap.get 0 (writeElem dup m k v) k = v := by
  cases dup with
  | none => rw [writeElem, Option.elim_none, SMap.get_set, if_pos rfl]
  | some b => rw [writeElem, Option.elim_some, SMap.get_set, if_neg (hd b rfl), SMap.get_set, if_pos rfl]

/-- The keys of an operand are apart from one another, and all in its bank. -/
theorem specKey_bank (sp j : Nat) (hj : j < 64) : specKey sp j / 4096 = specBank sp := by
  unfold specKey elemKey specElem fld
  dsimp only
  split <;> dsimp only <;> omega

theorem specKey_inj {sp j j' : Nat} (hj : j < 64) (hj' : j' < 64) (h : specKey sp j = specKey sp j') : j = j' := by
  unfold specKey elemKey specElem fld at h
  dsimp only at h
  split at h <;> dsimp only at h <;> omega

theorem writeElems_other {dup : Option Nat} {a sp : Nat} {v : Nat → Word32} (l : List Nat)
    (h : ∀ j ∈ l, a ≠ specKey sp j ∧ ∀ b, dup = some b → a ≠ b * 4096 + specKey sp j % 4096) :
    ∀ m : SMap Word32, SMap.get 0 (writeElems dup (l.map fun i => (specKey sp i, v i)) m) a = SMap.get 0 m a := by
  induction l with
  | nil => exact fun _ => rfl
  | cons j l ih =>
    intro m
    obtain ⟨hk, hd⟩ := h j (List.mem_cons_self ..)
    rw [List.map_cons, writeElems_cons, ih fun i hi => h i (List.mem_cons_of_mem _ hi), get_writeElem_other hk hd]

/-- The place of an element in another bank is no element of its operand. -/
theorem specKey_ne_dup {sp b j j' : Nat} (hb : b ≠ specBank sp) (hj : j < 64) : specKey sp j ≠ b * 4096 + specKey sp j' %
    4096 := by
  have bank := specKey_bank sp j hj
  intro h
  rw [h] at bank
  omega

theorem writeElems_written {dup : Option Nat} {sp j : Nat} {v : Nat → Word32} (hd : ∀ b, dup = some b →
    b ≠ specBank sp) (hj : j < 64)
    (l : List Nat) (nd : l.Nodup) (hl : ∀ i ∈ l, i < 64) (mem : j ∈ l) :
    ∀ m : SMap Word32, SMap.get 0 (writeElems dup (l.map fun i => (specKey sp i, v i)) m) (specKey sp j) = v j := by
  induction l with
  | nil => cases mem
  | cons i l ih =>
    intro m
    obtain ⟨fresh, nd⟩ := List.nodup_cons.1 nd
    rw [List.map_cons, writeElems_cons]
    by_cases hij : j = i
    · rw [writeElems_other l fun k hk => ⟨fun h => fresh ((hij ▸ specKey_inj hj (hl k (List.mem_cons_of_mem _ hk)) h) ▸ hk),
        fun b hb => specKey_ne_dup (hd b hb) hj⟩, ← hij]
      exact get_writeElem_same (fun b hb => specKey_ne_dup (hd b hb) hj) m (v j)
    · exact ih nd (fun k hk => hl k (List.mem_cons_of_mem _ hk)) ((List.mem_cons.1 mem).resolve_left hij) _

/-- The bank that holds the duplicate of the bank that is written, where there is one. -/
def UnitSt.dupOf (U : UnitSt) (b : Nat) : Option Nat := if U.dcur.getLsbD b then some (b ^^^ 4) else none

theorem UnitSt.dupOf_some {U : UnitSt} {b c : Nat} (h : U.dupOf b = some c) : U.dcur.getLsbD b = true ∧ c = b ^^^ 4 := by
  unfold UnitSt.dupOf at h
  split_ifs at h with hd
  exact ⟨hd, (Option.some.inj h).symm⟩

theorem xor_four_ne (b : Nat) : b ^^^ 4 ≠ b := by
  intro h
  have zero : b ^^^ (b ^^^ 4) = b ^^^ b := by rw [h]
  rw [← Nat.xor_assoc, Nat.xor_self, Nat.zero_xor] at zero
  exact absurd zero (by decide)

theorem UnitSt.laneWrites_elems (U : UnitSt) (sp : Nat) (lanes : List Word32) : (U.applyEff (laneWrites sp lanes)).elems =
    writeElems (U.dupOf (specBank sp)) ((List.range 64).map fun i => (specKey sp i, lanes.getD i 0)) U.elems := by
  simp only [laneWrites, UnitSt.applyEff, UnitSt.writeBank, UnitSt.dupOf]

/-- The lanes of an operand once they have been written. -/
theorem UnitSt.laneWrites_written (U : UnitSt) (sp : Nat) (lanes : List Word32) {j : Nat} (hj : j < 64) :
    SMap.get 0 (U.applyEff (laneWrites sp lanes)).elems (specKey sp j) = lanes.getD j 0 := by
  rw [UnitSt.laneWrites_elems]
  exact writeElems_written (v := fun i => lanes.getD i 0) (fun _ hb => (UnitSt.dupOf_some hb).2 ▸ xor_four_ne _) hj
    (List.range 64) List.nodup_range (fun _ hi => List.mem_range.1 hi) (List.mem_range.2 hj) U.elems

theorem UnitSt.laneWrites_other (U : UnitSt) (sp : Nat) (lanes : List Word32) {k : Nat} (h : ∀ j, j < 64 → k ≠ specKey sp j ∧
    (U.dcur.getLsbD (specBank sp) = true → k ≠ (specBank sp ^^^ 4) * 4096 + specKey sp j % 4096)) :
    SMap.get 0 (U.applyEff (laneWrites sp lanes)).elems k = SMap.get 0 U.elems k := by
  rw [UnitSt.laneWrites_elems]
  refine writeElems_other (v := fun i => lanes.getD i 0) (List.range 64) (fun j hj => ?_) U.elems
  obtain ⟨hk, hd⟩ := h j (List.mem_range.1 hj)
  refine ⟨hk, fun b hb => ?_⟩
  obtain ⟨cur, rfl⟩ := UnitSt.dupOf_some hb
  exact hd cur

/-! ### Retirement of words that write no bank -/

theorem UnitSt.retire_of_stuck {U : UnitSt} {e : Eng} {f : Flight} (head : U.headOf e = some f) (stuck : U.mayRetire f =
    false) :
    U.retire e = U := by
  rw [UnitSt.retire]
  cases U.work.fl.length with
  | zero => rfl
  | succ n =>
    rw [UnitSt.drain, head]
    exact if_neg (by simp [stuck])

theorem UnitSt.tell_elems (U : UnitSt) (f : Flight) : (U.tell f).elems = U.elems := by
  unfold UnitSt.tell
  split_ifs <;> rfl

theorem UnitSt.pushPost_elems (U : UnitSt) (f : Flight) : (U.pushPost f).elems = U.elems := by
  have post : ∀ e p, (U.postKnow e p).elems = U.elems := by
    intro e p
    unfold UnitSt.postKnow
    dsimp only
    split_ifs <;> rfl
  unfold UnitSt.pushPost
  cases f.post with
  | none => rfl
  | some p =>
    refine Eq.trans ?_ (post f.eng p)
    dsimp only
    split_ifs <;> rfl

theorem UnitSt.retireFlight_elems {U : UnitSt} {f : Flight} (eff : f.eff = []) (hints : f.hints = []) : (U.retireFlight
    f).elems = U.elems := by
  rw [UnitSt.retireFlight, UnitSt.pushPost_elems, UnitSt.tell_elems, hints, eff]
  rfl

/-- Words that are done without effects and hints left retire without a change of any bank. -/
theorem UnitSt.retire_elems {U : UnitSt} {e : Eng} (quiet : ∀ q ∈ U.work.fl, q.eng = e → q.wait = .done → q.eff = [] ∧
    q.hints = []) :
    (U.retire e).elems = U.elems := by
  rw [UnitSt.retire]
  generalize U.work.fl.length = n
  induction n generalizing U with
  | zero => rfl
  | succ n ih =>
    rw [UnitSt.drain]
    cases hf : U.headOf e with
    | none => rfl
    | some f =>
      dsimp only
      split_ifs with may
      · have mem : f ∈ U.work.fl := List.mem_of_find?_eq_some hf
        have mine : f.eng = e := by simpa using List.find?_some hf
        have done : f.wait = .done := by
          unfold UnitSt.mayRetire at may
          simp only [Bool.and_eq_true, decide_eq_true_eq] at may
          exact may.1.1.1
        obtain ⟨eff, hints⟩ := quiet f mem mine done
        rw [ih fun q hq => quiet q ((UnitSt.retireFlight_workKept U f).2.subset hq), UnitSt.retireFlight_elems eff hints]
      · rfl

/-! ### The event -/

/-- The unit once its oldest L word has written its bank: before it retires. -/
def UnitSt.loaded (U : UnitSt) (f : Flight) : UnitSt :=
  (UnitSt.writeNow { U with work := { U.work with loads := U.work.loads - 1 } } f).finish f.id []

section
variable {s : State} {u sp : Nat} {f : Flight} {lanes : List Word32} (hu : u < 768) (hh : s.halted u = false) (hs : s.stands
  u = false)
  (head : (s.unit u).headOf .L = some f) (wait : f.wait = .op) (eff : f.eff = [laneWrites sp lanes])
include head wait

include hu hh hs in
theorem exec_loadWordPerformed : exec (.loadWordPerformed u) s = .next (s.setUnit u (((s.unit u).loaded f).retire .L)) := by
  have oldest : (s.unit u).work.fl.find? (fun f => f.eng == .L && decide (f.wait = .op)) = some f := by
    obtain ⟨mine, as, bs, split, before⟩ := List.find?_eq_some_iff_append.1 head
    refine List.find?_eq_some_iff_append.2 ⟨by rw [mine, wait]; rfl, as, bs, split, fun q hq => ?_⟩
    have other := before q hq
    simp only [Bool.not_eq_true'] at other ⊢
    rw [other, Bool.false_and]
  change clockEvent u s (s.loadWordDone u) = _
  rw [clockEvent, hs, if_neg Bool.false_ne_true, unitEvent_of_live hu hh, State.loadWordDone, oldest]
  rfl

omit head wait
include eff

theorem Flight.banks_of_lanes : f.eff.filter Eff.isBank = [laneWrites sp lanes] := by
  rw [eff]
  exact List.filter_eq_self.2 fun e he => by rw [List.mem_singleton.1 he]; rfl

theorem UnitSt.loaded_elems (U : UnitSt) : (U.loaded f).elems = (U.applyEff (laneWrites sp lanes)).elems := by
  have written := UnitSt.laneWrites_elems { U with work := { U.work with loads := U.work.loads - 1 } } sp lanes
  rw [UnitSt.loaded, UnitSt.writeNow, Flight.banks_of_lanes eff, List.foldl_cons, List.foldl_nil, UnitSt.laneWrites_elems U]
  generalize UnitSt.applyEff { U with work := { U.work with loads := U.work.loads - 1 } } (laneWrites sp lanes) = V at written ⊢
  change V.elems = _
  exact written

theorem UnitSt.writeNow_fl (U : UnitSt) : (U.writeNow f).work.fl = U.work.fl.map fun g =>
    if g.id = f.id then { g with eff := g.eff.filter fun e => !e.isBank } else g := by
  have work : (U.applyEff (laneWrites sp lanes)).work = U.work := by
    simp only [laneWrites, UnitSt.applyEff, UnitSt.writeBank_work]
  rw [UnitSt.writeNow, Flight.banks_of_lanes eff, List.foldl_cons, List.foldl_nil]
  dsimp only
  rw [work]

/-- The words in flight once the bank is written: the word has no effect on it left, and is done. -/
theorem UnitSt.loaded_fl (U : UnitSt) : (U.loaded f).work.fl = U.work.fl.map fun g =>
    if g.id = f.id then { g with wait := .done, eff := g.eff.filter fun e => !e.isBank } else g := by
  rw [UnitSt.loaded, UnitSt.finish]
  dsimp only
  rw [UnitSt.writeNow_fl eff, List.map_map]
  refine List.map_congr_left fun g _ => ?_
  by_cases hg : g.id = f.id
  · simp [hg]
  · simp [hg]

theorem UnitSt.loaded_loads (U : UnitSt) : (U.loaded f).work.loads = U.work.loads - 1 := by
  rw [UnitSt.loaded, UnitSt.writeNow, eff]
  rfl

end

theorem takeBuf_zero (l : List BufStep) : takeBuf 0 l = .inl (some ([], [], l)) := by rw [takeBuf]

theorem Stream.taken_zero (t : Stream) (d : Desc) :
    t.taken d 0 t.buf = { t with cons := 1, lines := t.lines.filter fun l => decide (d.row t.pc ≤ l.1) } := by
  rw [Stream.taken, if_pos rfl]
  rfl

/-- The first of a kind is found in its place where a change of the elements keeps their kind. -/
theorem find?_map_kept {α : Type} {p : α → Bool} {c : α → α} {l : List α} {a a' : α} (h : l.find? p = some a) (kept : ∀ x,
    p (c x) = p x)
    (ha : c a = a') : (l.map c).find? p = some a' := by
  rw [List.find?_map, show p ∘ c = p from funext kept, h, Option.map_some, ha]

/-- Settles O34: what the load words take from their streams and write into their banks. -/
theorem loadWordsTakeTheirStep : Obligations.LoadWordsTakeTheirStep := by
  unfold Obligations.LoadWordsTakeTheirStep
  refine ⟨fun tk i sp g s u r d x y rest one h => ?load, fun tk i sp xv s u r d h => ?gather,
    fun s u sp f lanes hu hh hs head wait eff post hints ids others => ?performed,
    fun s u sp f lanes hu hh hs head wait eff room => ?held⟩
  case load =>
    intro s0 U t n0 n f s1 bank room kept read active cons plain buf
    refine ⟨fun one => ?_, fun one => ?_⟩
    · exact exec_lsv h bank room kept read active cons (by simp [n, one]; rfl) plain buf
    · exact exec_lbrd h bank room kept read active cons (by simp [n, one]; rfl) plain buf
  case gather =>
    intro s0 U t f idx free bank room kept read active cons row parity
    have run := exec_lgath h free bank room kept read active cons row parity (sp := sp)
    dsimp only at run
    refine ⟨fun past => ?_, fun more s1 c e got => ?_⟩
    · intro s1
      have zeros : ∀ g : Nat × Nat → Nat, g (0, 0) = 0 → ∀ v ∈ (lgathPicked d idx []).map g, v = 0 := by
        intro g hg v hv
        rw [lgathPicked_nil, List.map_map] at hv
        obtain ⟨_, -, rfl⟩ := List.mem_map.1 hv
        exact hg
      rw [run, if_pos past, State.takeStep_of_buffered kept read active cons (fun h => absurd rfl h) (takeBuf_zero _),
        Stream.taken_zero, padLanes_zero _ (zeros _ rfl), orFlags_zero _ (zeros _ rfl)]
      rfl
    · obtain ⟨pc, mine⟩ := State.takeRow_got got
      refine ⟨pc.trans (Nat.succ_mul ..).symm, mine, ?_⟩
      rw [run, if_neg (Nat.not_le.2 more), got]
      rfl
  case performed =>
    have run := exec_loadWordPerformed hu hh hs head wait
    have fl := UnitSt.loaded_fl eff (s.unit u)
    have elems : (((s.unit u).loaded f).retire .L).elems = ((s.unit u).applyEff (laneWrites sp lanes)).elems := by
      rw [UnitSt.retire_elems, UnitSt.loaded_elems eff]
      intro q hq mine done
      rw [fl] at hq
      obtain ⟨g, hg, rfl⟩ := List.mem_map.1 hq
      split_ifs at mine done ⊢ with hid
      · rw [ids g hg hid, eff]
        exact ⟨rfl, hints⟩
      · exact absurd done (others g hg mine fun h => hid (h ▸ rfl))
    refine ⟨_, run, fun j hj => ?_, fun k hk => ?_, ?_, rfl⟩
    · rw [State.unit_setUnit_same, elems]
      exact UnitSt.laneWrites_written _ sp lanes hj
    · rw [State.unit_setUnit_same, elems]
      exact UnitSt.laneWrites_other _ sp lanes hk
    · rw [State.unit_setUnit_same]
      have kept := UnitSt.retire_workKept ((s.unit u).loaded f) .L
      exact (congrArg (fun q => q.2.2.2.2.1) kept).trans (UnitSt.loaded_loads eff _)
  case held =>
    have run := exec_loadWordPerformed hu hh hs head wait
    have fl := UnitSt.loaded_fl eff (s.unit u)
    let f' : Flight := { f with wait := .done, eff := f.eff.filter fun e => !e.isBank }
    have front : ((s.unit u).loaded f).headOf .L = some f' := by
      rw [UnitSt.headOf, fl]
      exact find?_map_kept head (fun g => by split_ifs <;> rfl) (if_pos rfl)
    have stuck : ((s.unit u).loaded f).retire .L = (s.unit u).loaded f := by
      refine UnitSt.retire_of_stuck front ?_
      have full : ((s.unit u).loaded f).postRoom f' = (s.unit u).postRoom f := by
        rw [UnitSt.loaded, UnitSt.writeNow, Flight.banks_of_lanes eff]
        rfl
      rw [UnitSt.mayRetire, full, room, Bool.and_false, Bool.false_and, Bool.false_and]
    have mem : f ∈ (s.unit u).work.fl := List.mem_of_find?_eq_some head
    refine ⟨_, run, fun j hj => ?_, ?_, ?_, rfl⟩
    · rw [State.unit_setUnit_same, stuck, UnitSt.loaded_elems eff]
      exact UnitSt.laneWrites_written _ sp lanes hj
    · rw [State.unit_setUnit_same, stuck, fl]
      exact ⟨f', List.mem_map.2 ⟨f, mem, if_pos rfl⟩, rfl⟩
    · rw [State.unit_setUnit_same, stuck, UnitSt.loaded_loads eff]

end Sys2Proof.Machine
end



section
/-! O36. The store words, and the event that performs them. -/
namespace Sys2Proof.Machine

/-- The state once a W word's writes wait to be performed and its stream has moved on. -/
def State.storePut (s : State) (u i id : Nat) (ps : List (Place × List Byte)) (o : WOp) (t : Stream) (pc : Nat) : State :=
  let V := s.unit u
  let s2 := s.setUnit u ({ V with work := { V.work with
    wops := V.work.wops ++ [o], stores := V.work.stores + 1 } }.setStream i { t with pc := pc, ps := pc })
  match ps.find? fun p => p.1.key.isNone with
  | some p => s2.joinReplay u id p.1.addr
  | none => s2

theorem State.mixed_work (s : State) (e : Eng) (U : UnitSt) : (s.mixed e U).work = U.work := by
  unfold State.mixed
  dsimp only
  split_ifs <;> rfl

theorem State.mixed_room (s : State) (e : Eng) (U : UnitSt) (b : Bool) : (s.mixed e U).room b = U.room b := by
  rw [UnitSt.room, UnitSt.room, State.mixed_work]

section
variable {s s1 : State} {u : Nat} {r : PassRec} {d : Desc} {ps : List (Place × List Byte)} {tk : Tok} {g : XP}

/-- The bytes that a W word writes, by whether it adds. -/
def Desc.storeBytes (d : Desc) (add : Option (Nat × Nat)) (vals : List Nat) : List (List Byte) :=
  if add.isSome then vals.map (toBytes d.size) else (vals.map d.encode).map fun q => toBytes d.size q.1

/-- A W word whose places are all there leaves its writes to be performed. -/
theorem State.storeIssue_of_places {e : Eng} (who : s.who = (u,
    e)) {U : UnitSt} {i : Nat} {f : Flight} {t : Stream} {es vals : List Nat} {pc : Nat}
    {add : Option (Nat × Nat)} {reads : List Nat} (space : add.isSome = true → d.capD.space ≠ 0) (room : U.room false = true)
    (places : s.storePlaces u d.capD (cutStores d.capD ((es.map fun e => (d.addr e % 2 ^ 64).toNat).zip (d.storeBytes add
      vals))) = .ok ps)
    (races : if checkedCap d.capD then s.storeRaces u ps = .inl s1 else s1 = s) :
    s.storeIssue U i r f d t es vals pc add reads =
      .go (s1.storePut u i f.id ps ⟨f.id, ps, add.map fun q => (q.1, q.2, vals), checkedCap d.capD⟩ t pc)
        { f with
          wait := .op, rd := reads,
          eff := flagEff (if add.isSome then 0 else orFlags ((vals.map d.encode).map (·.2))) } := by
  have checked : (if checkedCap d.capD then s.storeRaces u ps else .inl s) = .inl s1 := by
    split_ifs at races ⊢
    · exact races
    · rw [races]
  unfold State.storeIssue
  dsimp only
  rw [if_neg (fun h => space h.1 h.2), if_neg (by simp [room]), who]
  rw [Desc.storeBytes] at places
  rw [places]
  dsimp only
  rw [checked]
  rfl

/-- A W word on a Write stream with its banks ready goes on to its own part. -/
theorem State.storeWord_of_ready (h : Ready s u .W r tk g []) {i : Nat} {sps : List Nat}
    (bank : (s.unit u).bankChk false (sps.map fun sp => (specBank sp, true)) = .ok) (kept : (s.unit u).dropping i = false)
    (mode : ((s.unit u).stream i).mode = .write) (active : ((s.unit u).stream i).active = some d)
    (parity : s.parityChk u ((sps.map fun sp => (List.range 64).map (specKey sp)).flatten) = none)
    (k : State → UnitSt → PassRec → Flight → Desc → Stream → Res) :
    s.storeWord tk g i sps k = s.settle u .W r tk ⟨none, []⟩
      (k s (s.mixed .W (s.unit u)) r (s.flight u .W r tk) d ((s.unit u).stream i)) := by
  rw [State.storeWord, State.eWord_of_ready h, State.freshen_W]
  dsimp only
  rw [bank]
  dsimp only
  rw [kept, if_neg Bool.false_ne_true, h.who]
  dsimp only
  rw [parity]
  generalize ht : (s.unit u).stream i = t at mode active ⊢
  obtain ⟨shadow, act, popped, m, cons, p0, pc, ps, buf, lines⟩ := t
  obtain rfl : m = .write := mode
  obtain rfl : act = some d := active
  rfl

section
variable {i sp last : Nat} (h : Ready s u .W r tk g [])
  (bank : (s.unit u).bankChk false [(specBank sp,
    true)] = .ok) (room : (s.unit u).room false = true) (kept : (s.unit u).dropping i = false)
  (mode : ((s.unit u).stream i).mode = .write) (active : ((s.unit u).stream i).active = some d)
  (parity : s.parityChk u ((List.range 64).map (specKey sp)) = none)
  (races : if checkedCap d.capD then s.storeRaces u ps = .inl s1 else s1 = s)
include h bank room kept mode active parity races

theorem exec_wsv :
    let t := (s.unit u).stream i
    let es := stepElems d t.pc
    let vals := ((s.mixed .W (s.unit u)).laneNats sp).take es.length
    let f := s.flight u .W r tk
    s.storePlaces u d.capD (cutStores d.capD ((es.map fun e => (d.addr e % 2 ^ 64).toNat).zip
      ((vals.map d.encode).map fun q => toBytes d.size q.1))) = .ok ps →
    exec (.wsv tk i sp last g) s = .next ((s1.storePut u i f.id ps ⟨f.id, ps, none,
      checkedCap d.capD⟩ t (t.pc + es.length)).leaves u .W r tk
      { f with
        wait := .op, rd := [specBank sp],
        eff := flagEff (orFlags ((vals.map d.encode).map (·.2))) }) := by
  intro t es vals f places
  have read : s.parityChk u (([sp].map fun sp => (List.range 64).map (specKey sp)).flatten) = none := by simpa using parity
  have go := State.storeIssue_of_places h.who (U := s.mixed .W (s.unit u)) (i := i) (r := r) (f := f) (t := t) (pc := t.pc +
    es.length)
    (add := none) (reads := [specBank sp]) (fun h => by cases h) ((s.mixed_room ..).trans room) places races
  change execWsv tk i sp last g s = _
  rw [execWsv, State.storeWord_of_ready h (sps := [sp]) bank kept mode active read]
  exact congrArg (s.settle u .W r tk ⟨none, []⟩) go

theorem exec_wacc :
    let t := (s.unit u).stream i
    let es := stepElems d t.pc
    let vals := ((s.mixed .W (s.unit u)).laneNats sp).take es.length
    let f := s.flight u .W r tk
    d.capD.space ≠ 0 →
    s.storePlaces u d.capD (cutStores d.capD ((es.map fun e => (d.addr e % 2 ^ 64).toNat).zip (vals.map (toBytes d.size)))) =
      .ok ps →
    exec (.wacc tk i sp last g) s = .next ((s1.storePut u i f.id ps ⟨f.id, ps, some (d.addFmt, d.rnd, vals), checkedCap d.capD⟩
      t (t.pc + es.length)).leaves u .W r tk { f with wait := .op, rd := [specBank sp] }) := by
  intro t es vals f space places
  have read : s.parityChk u (([sp].map fun sp => (List.range 64).map (specKey sp)).flatten) = none := by simpa using parity
  have go := State.storeIssue_of_places h.who (U := s.mixed .W (s.unit u)) (i := i) (r := r) (f := f) (t := t) (pc := t.pc +
    es.length)
    (add := some (d.addFmt, d.rnd)) (reads := [specBank sp]) (fun _ => space) ((s.mixed_room ..).trans room) places races
  change execWacc tk i sp last g s = _
  rw [execWacc, State.storeWord_of_ready h (sps := [sp]) bank kept mode active read]
  exact congrArg (s.settle u .W r tk ⟨none, []⟩) go

end

theorem exec_wscat {i sp last pc : Nat} {x : XV} {pairs : List (Nat × Nat)} (h : Ready s u .W r tk x.grd [])
    (bank : (s.unit u).bankChk false [(specBank x.va, true), (specBank sp, true)] = .ok) (room : (s.unit u).room false = true)
    (kept : (s.unit u).dropping i = false) (mode : ((s.unit u).stream i).mode = .write) (active : ((s.unit u).stream
      i).active = some d)
    (parity : s.parityChk u ((List.range 64).map (specKey x.va) ++ (List.range 64).map (specKey sp)) = none)
    (races : if checkedCap d.capD then s.storeRaces u ps = .inl s1 else s1 = s)
    (hpairs : pairs = if d.total ≤ ((s.unit u).stream i).pc then [] else
      (((s.mixed .W (s.unit u)).laneNats x.va).zip ((s.mixed .W (s.unit u)).laneNats sp)).filter fun q => decide (q.1 < d.c 0))
    (hpc : pc = if d.total ≤ ((s.unit u).stream i).pc then ((s.unit u).stream i).pc else (d.row ((s.unit u).stream i).pc + 1)
      * d.c 0)
    (places : s.storePlaces u d.capD (cutStores d.capD ((pairs.map fun q =>
      (d.addr (d.row ((s.unit u).stream i).pc * d.c 0 + q.1) % 2 ^ 64).toNat).zip
      ((pairs.map fun q => d.encode q.2).map fun q => toBytes d.size q.1))) = .ok ps) :
    exec (.wscat tk i sp last x) s = .next ((s1.storePut u i (s.flight u .W r tk).id ps
      ⟨(s.flight u .W r tk).id, ps, none, checkedCap d.capD⟩ ((s.unit u).stream i) pc).leaves u .W r tk
      { s.flight u .W r tk with
        wait := .op, rd := [specBank x.va, specBank sp],
        eff := flagEff (orFlags ((pairs.map fun q => d.encode q.2).map (·.2))) }) := by
  have read : s.parityChk u (([x.va,
    sp].map fun sp => (List.range 64).map (specKey sp)).flatten) = none := by simpa using parity
  have encs : (pairs.map (·.2)).map d.encode = pairs.map fun q => d.encode q.2 := List.map_map ..
  have offs : ((pairs.map fun q => d.row ((s.unit u).stream i).pc * d.c 0 + q.1).map fun e => (d.addr e % 2 ^ 64).toNat) =
    pairs.map fun q => (d.addr (d.row ((s.unit u).stream i).pc * d.c 0 + q.1) % 2 ^ 64).toNat := List.map_map ..
  have go := State.storeIssue_of_places h.who (U := s.mixed .W (s.unit u)) (i := i) (r := r) (f := s.flight u .W r tk)
    (t := (s.unit u).stream i) (pc := pc) (es := pairs.map fun q => d.row ((s.unit u).stream i).pc * d.c 0 + q.1)
    (vals := pairs.map (·.2)) (add := none) (reads := [specBank x.va, specBank sp])
    (ps := ps) (fun h => by cases h) ((s.mixed_room ..).trans room) (by rw [offs, Desc.storeBytes, encs]; exact places) races
  rw [encs] at go
  change execWscat tk i sp last x s = _
  rw [execWscat, State.storeWord_of_ready h (sps := [x.va, sp]) bank kept mode active read]
  refine Eq.trans (congrArg (s.settle u .W r tk ⟨none, []⟩) ?_) (congrArg (s.settle u .W r tk ⟨none, []⟩) go)
  dsimp only
  split_ifs at hpairs hpc ⊢
  · rw [hpairs, hpc]
    rfl
  · rw [hpairs, hpc]

theorem exec_wflush (h : Ready s u .W r tk none []) {scope : Nat} (none : (s.unit u).work.wops = []) (made :
    s.mem.madePerformed u 1 scope = true) :
    exec (.wflush tk scope) s = .next (s.leaves u .W r tk (s.flight u .W r tk)) := by
  have run : exec (.wflush tk scope) s = _ := (State.eWord_of_ready h _ : execWflush tk scope s = _)
  rw [run, State.freshen_W, if_neg (by simp [none, h.who, made])]
  rfl

end

/-! ### The writes are made -/

section
variable {u : Nat} {o : WOp} (plain : o.add = none)
include plain

/-- The state once one element is written. -/
def State.storeElem (s : State) (u : Nat) (o : WOp) (k : Nat) (bs : List Byte) : State :=
  { s.store o.chk u 0 k bs false with mem := (s.store o.chk u 0 k bs false).mem.noteBy s.mem.nextId 1 }

theorem State.storeElems_cons (s : State) (k : Nat) (bs : List Byte) (l : List (Nat × List Byte)) (j fl : Nat) :
    s.storeElems u o ((k, bs) :: l) j fl = (s.storeElem u o k bs).storeElems u o l (j + 1) fl := by
  rw [State.storeElems, plain]
  rfl

omit plain in
theorem State.storeElem_byte (s : State) (k : Nat) (bs : List Byte) (v : Viewer) (a : Nat) :
    (s.storeElem u o k bs).mem.byte v a = (s.mem.writeTag u 0 k bs false).byte v a := by
  rw [State.storeElem, Mem.byte_noteBy, State.store_mem]

theorem State.storeElems_outside (v : Viewer) {a : Nat} (l : List (Nat × List Byte)) (h : ∀ p ∈ l,
    a < p.1 ∨ p.1 + p.2.length ≤ a) :
    ∀ (s : State) (j fl : Nat), (s.storeElems u o l j fl).1.mem.byte v a = s.mem.byte v a := by
  induction l with
  | nil => exact fun _ _ _ => rfl
  | cons p l ih =>
    intro s j fl
    obtain ⟨k, bs⟩ := p
    rw [State.storeElems_cons plain, ih fun q hq => h q (List.mem_cons_of_mem _ hq), State.storeElem_byte,
      Mem.byte_writeTag_outside _ _ _ _ _ _ _ (h (k, bs) (List.mem_cons_self ..))]

/-- The last write of a byte remains. -/
theorem State.storeElems_last {p : Nat × List Byte} {after : List (Nat × List Byte)} {x : Nat} (hx : x < p.2.length)
    (last : ∀ q ∈ after, p.1 + x < q.1 ∨ q.1 + q.2.length ≤ p.1 + x) (before : List (Nat × List Byte)) :
    ∀ (s : State) (j fl : Nat),
      (s.storeElems u o (before ++ p :: after) j fl).1.mem.byte (.unit u) (p.1 + x) = p.2.getD x 0 := by
  induction before with
  | nil =>
    intro s j fl
    obtain ⟨k, bs⟩ := p
    rw [List.nil_append, State.storeElems_cons plain, State.storeElems_outside plain _ after last, State.storeElem_byte,
      Mem.byte_writeTag_self _ _ _ _ _ _ ⟨Nat.le_add_right .., Nat.add_lt_add_left hx _⟩, Nat.add_sub_cancel_left]
  | cons q before ih =>
    intro s j fl
    obtain ⟨k, bs⟩ := q
    rw [List.cons_append, State.storeElems_cons plain]
    exact ih ..

theorem State.storeElems_work (v : Nat) (l : List (Nat × List Byte)) :
    ∀ (s : State) (j fl : Nat), ((s.storeElems u o l j fl).1.unit v).work = (s.unit v).work := by
  induction l with
  | nil => exact fun _ _ _ => rfl
  | cons p l ih =>
    intro s j fl
    obtain ⟨k, bs⟩ := p
    rw [State.storeElems_cons plain, ih]
    obtain ⟨T, same⟩ := s.store_unit o.chk u 0 k bs false v
    change ((s.store o.chk u 0 k bs false).unit v).work = _
    rw [same]

end

/-- A W word's writes are performed: the unit whose word waits no more. -/
def UnitSt.wordStored (V : UnitSt) (id fl : Nat) : UnitSt :=
  (UnitSt.finish { V with work := { V.work with
    wops := V.work.wops.filter fun x => x.id ≠ id, stores := V.work.stores - 1 } } id (flagEff fl)).retire .W

theorem exec_storeWordPerformed {s : State} {u id : Nat} {o : WOp} {rest : List WOp} {keys : List Nat} (hu : u < 768)
    (hh : s.halted u = false) (clock : s.wopStands u id = false) (first : (s.unit u).work.wops = o :: rest) (hid : o.id = id)
    (plain : o.add = none) (head : s.replayHead u id = true) (late : s.lateAll u o.stores = .inl keys) :
    let q := s.storeElems u o (keys.zip (o.stores.map (·.2))) 0 0
    exec (.storeWordPerformed u id) s = .next ((q.1.quitReplay u id).setUnit u (((q.1.quitReplay u id).unit u).wordStored id
      q.2)) := by
  intro q
  change unitEvent u s _ = _
  rw [clock, if_neg Bool.false_ne_true, unitEvent_of_live hu hh, State.performW, first, List.find?_cons_of_pos (by simp [hid]),
    List.takeWhile_cons_of_neg (by simp [hid])]
  dsimp only
  rw [if_neg (by simp [head]), late]
  dsimp only
  rw [plain]
  rfl

theorem UnitSt.wordStored_workKept (V : UnitSt) (id fl : Nat) : (V.wordStored id fl).workKept = UnitSt.workKept
    { V with work := { V.work with
    wops := V.work.wops.filter fun x => x.id ≠ id, stores := V.work.stores - 1 } } := by
  rw [UnitSt.wordStored, UnitSt.retire_workKept]
  rfl

/-- Settles O36: what the store words leave to be performed, and what remains when it is. -/
theorem storeWordsIssueAndArePerformed : Obligations.StoreWordsIssueAndArePerformed := by
  unfold Obligations.StoreWordsIssueAndArePerformed
  refine ⟨⟨fun tk i sp last g s s1 u r d ps h => ?_, fun tk i sp last x s s1 u r d ps h => ?_,
    fun tk scope s u r h none made => exec_wflush h none made⟩,
      fun s u id o rest keys hu hh clock first hid plain head late => ?_⟩
  · intro U t es vals enc offs f bank room kept mode active parity races put
    have put_eq : put = fun o => s1.storePut u i f.id ps o t (t.pc + es.length) := rfl
    rw [put_eq]
    exact ⟨fun places => exec_wsv h bank room kept mode active parity races places,
      fun space places => exec_wacc h bank room kept mode active parity races space places⟩
  · intro U W t pairs pc f enc bank room kept mode active parity places races V o s2 s3
    exact exec_wscat h bank room kept mode active parity races rfl rfl places
  · intro l
    have run := exec_storeWordPerformed hu hh clock first hid plain head late
    dsimp only at run
    have work : (((s.storeElems u o l 0 0).1.quitReplay u id).unit u).work = (s.unit u).work := by
      rw [State.quitReplay_unit, State.storeElems_work plain]
    have kept := UnitSt.wordStored_workKept (((s.storeElems u o l 0 0).1.quitReplay u id).unit u) id (s.storeElems u o l 0 0).2
    rw [UnitSt.workKept, UnitSt.workKept, work] at kept
    refine ⟨_, run, fun v a ha => ?_, fun p before after j hl hj hafter => ?_, ?_, ?_⟩
    · rw [State.setUnit_mem, State.quitReplay_mem]
      exact State.storeElems_outside plain v l ha ..
    · rw [State.setUnit_mem, State.quitReplay_mem, show keys.zip (o.stores.map (·.2)) = _ from hl]
      exact State.storeElems_last plain hj hafter before ..
    · rw [State.unit_setUnit_same]
      simp only [Prod.mk.injEq] at kept
      rw [kept.2.2.1]
      exact fun x hx => by simpa using (List.mem_filter.1 hx).2
    · rw [State.unit_setUnit_same]
      simp only [Prod.mk.injEq] at kept
      exact kept.2.2.2.2.2.1

end Sys2Proof.Machine
end



section
/-! O42. Tile operations. -/
namespace Sys2Proof.Machine

/-! ### Elements written where no duplicate is current -/

theorem writeElems_none_cons (k : Nat) (v : Word32) (l : List (Nat × Word32)) (m : SMap Word32) :
    writeElems none ((k, v) :: l) m = writeElems none l (SMap.set 0 m k v) := rfl

/-- A key to which every write of it gives one value holds that value. -/
theorem writeElems_none_written {k : Nat} {v : Word32} (l : List (Nat × Word32)) (one : ∀ q ∈ l, q.1 = k → q.2 = v) :
    ∀ m : SMap Word32, ((∃ q ∈ l, q.1 = k) ∨ SMap.get 0 m k = v) → SMap.get 0 (writeElems none l m) k = v := by
  induction l with
  | nil => exact fun m h => h.resolve_left fun ⟨q, hq, _⟩ => by cases hq
  | cons q l ih =>
    intro m h
    obtain ⟨a, b⟩ := q
    rw [writeElems_none_cons]
    refine ih (fun q hq => one q (List.mem_cons_of_mem _ hq)) _ ?_
    by_cases ha : k = a
    · exact .inr (by rw [SMap.get_set, if_pos ha]; exact one (a, b) (List.mem_cons_self ..) ha.symm)
    · rcases h with ⟨q, hq, hk⟩ | h
      · rcases List.mem_cons.1 hq with rfl | hq
        · exact absurd hk.symm ha
        · exact .inl ⟨q, hq, hk⟩
      · exact .inr (by rw [SMap.get_set, if_neg ha, h])

theorem writeElems_none_other {k : Nat} (l : List (Nat × Word32)) (miss : ∀ q ∈ l, q.1 ≠ k) :
    ∀ m : SMap Word32, SMap.get 0 (writeElems none l m) k = SMap.get 0 m k := by
  induction l with
  | nil => exact fun _ => rfl
  | cons q l ih =>
    intro m
    obtain ⟨a, b⟩ := q
    rw [writeElems_none_cons, ih (fun q hq => miss q (List.mem_cons_of_mem _ hq)), SMap.get_set,
      if_neg (miss (a, b) (List.mem_cons_self ..)).symm]

theorem UnitSt.writeBank_elems {U : UnitSt} (single : U.dcur = 0) (b : Nat) (l : List (Nat × Word32)) :
    (U.writeBank b l).elems = writeElems none l U.elems := by
  simp [UnitSt.writeBank, single]

/-! ### Retirement of words that set flags only -/

theorem UnitSt.applyFlags (l : List Eff) (h : ∀ x ∈ l, ∃ v, x = .vstat v) : ∀ U : UnitSt,
    (l.foldl UnitSt.applyEff U).elems = U.elems ∧ (l.foldl UnitSt.applyEff U).work.mops = U.work.mops := by
  induction l with
  | nil => exact fun U => ⟨rfl, rfl⟩
  | cons x l ih =>
    intro U
    obtain ⟨v, rfl⟩ := h x (List.mem_cons_self ..)
    exact ih (fun y hy => h y (List.mem_cons_of_mem _ hy)) (U.setFlags v)

/-- Words that are done with flags alone left to set retire without a change of any bank or tile operation. -/
theorem UnitSt.retire_of_flags {U : UnitSt} {e : Eng}
    (flags : ∀ q ∈ U.work.fl, q.eng = e → q.wait = .done → (∀ x ∈ q.eff, ∃ v, x = .vstat v) ∧ q.hints = []) :
    (U.retire e).elems = U.elems ∧ (U.retire e).work.mops = U.work.mops := by
  rw [UnitSt.retire]
  generalize U.work.fl.length = n
  induction n generalizing U with
  | zero => exact ⟨rfl, rfl⟩
  | succ n ih =>
    rw [UnitSt.drain]
    cases hf : U.headOf e with
    | none => exact ⟨rfl, rfl⟩
    | some f =>
      dsimp only
      split_ifs with may
      · have mem : f ∈ U.work.fl := List.mem_of_find?_eq_some hf
        have mine : f.eng = e := by simpa using List.find?_some hf
        have done : f.wait = .done := by
          unfold UnitSt.mayRetire at may
          simp only [Bool.and_eq_true, decide_eq_true_eq] at may
          exact may.1.1.1
        obtain ⟨eff, hints⟩ := flags f mem mine done
        obtain ⟨elems, mops⟩ := ih fun q hq => flags q ((UnitSt.retireFlight_workKept U f).2.subset hq)
        rw [elems, mops, UnitSt.retireFlight, UnitSt.pushPost_elems, UnitSt.pushPost_work, UnitSt.tell_elems,
          UnitSt.tell_work, hints]
        exact UnitSt.applyFlags f.eff eff _
      · exact ⟨rfl, rfl⟩

theorem flagEff_vstat (fl : Nat) : ∀ x ∈ flagEff fl, ∃ v, x = .vstat v := by
  intro x hx
  unfold flagEff at hx
  split_ifs at hx
  · cases hx
  · exact ⟨_, List.mem_singleton.1 hx⟩

/-! ### The oldest tile operation is performed -/

/-- The unit whose oldest tile operation is done, before its word retires. -/
def UnitSt.tiled (U : UnitSt) (o : MOp) (rest : List MOp) (q : List (Nat × Word32) × Nat) : UnitSt :=
  UnitSt.finish { (U.writeBank o.bank q.1) with work := { U.work with mops := rest, tiles := U.work.tiles - 1 } } o.id
    (flagEff q.2)

theorem exec_tileOpPerformed {s : State} {u : Nat} {o : MOp} {rest : List MOp} (hu : u < 768) (hh : s.halted u = false)
    (first : (s.unit u).work.mops = o :: rest) (done : o.isMul = true → o.panelsDone = true) (clock : s.relocking u = false)
    (parity : o.isMul = false → s.parityChk u o.readKeys = none) : exec (.tileOpPerformed u) s =
      .next (s.setUnit u (((s.unit u).tiled o rest (if o.isMul then ([], o.flags) else o.whole (s.unit u))).retire .M)) := by
  have read : (if o.isMul then none else s.parityChk u o.readKeys) = none := by
    cases h : o.isMul
    · exact parity h
    · rfl
  have go : ¬ ((o.isMul = true ∧ (!o.panelsDone) = true) ∨ s.relocking u = true) := by
    rintro (⟨mul, not⟩ | h)
    · simp [done mul] at not
    · simp [clock] at h
  have stands : s.stands u = false := clock
  change clockEvent u s (s.tileDone u) = _
  rw [clockEvent, stands, if_neg Bool.false_ne_true, unitEvent_of_live hu hh, State.tileDone, first]
  dsimp only
  rw [if_neg go, read]
  rfl

section
variable {U : UnitSt} {o : MOp} {rest : List MOp} (q : List (Nat × Word32) × Nat)
  (others : ∀ f ∈ U.work.fl, f.eng = .M → f.id = o.id ∨ f.wait ≠ .done)
  (plain : ∀ f ∈ U.work.fl, f.eng = .M → f.id = o.id → f.eff = [] ∧ f.hints = [])
include others plain

/-- The word retires without a change of what the tile operation has left. -/
theorem UnitSt.tiled_retire : ((U.tiled o rest q).retire .M).elems = (U.writeBank o.bank q.1).elems ∧
    ((U.tiled o rest q).retire .M).work.mops = rest ∧ ((U.tiled o rest q).retire .M).work.tiles = U.work.tiles - 1 := by
  have flags : ∀ f ∈ (U.tiled o rest q).work.fl, f.eng = .M → f.wait = .done →
      (∀ x ∈ f.eff, ∃ v, x = .vstat v) ∧ f.hints = [] := by
    intro f hf mine done
    obtain ⟨g, hg, rfl⟩ := List.mem_map.1 (show f ∈ U.work.fl.map _ from hf)
    split_ifs at mine done ⊢ with hid
    · obtain ⟨eff, hints⟩ := plain g hg mine hid
      rw [eff]
      exact ⟨fun x hx => flagEff_vstat q.2 x hx, hints⟩
    · exact absurd done ((others g hg mine).resolve_left hid)
  obtain ⟨elems, mops⟩ := UnitSt.retire_of_flags flags
  have kept := UnitSt.retire_workKept (U.tiled o rest q) .M
  exact ⟨elems, mops, congrArg (fun q => q.2.2.2.2.2.2.2.1) kept⟩

end

/-- What MSCAL and MCLR give an element. -/
def MOp.wholeOf (o : MOp) (e : Word32) : Word32 :=
  o.scal.elim 0 fun f => BitVec.ofNat 32 (scaleBy f.toNat e.toNat).1

theorem MOp.whole_elems (o : MOp) (U : UnitSt) :
    (o.whole U).1 = (List.range 4096).map fun i => (o.bank * 4096 + i, o.wholeOf (SMap.get 0 U.elems (o.bank * 4096 + i))) := by
  rw [MOp.whole]
  dsimp only
  rw [List.map_map]
  refine List.map_congr_left fun i _ => ?_
  rw [MOp.wholeOf, Function.comp]
  cases o.scal <;> rfl

section
variable {U : UnitSt} (single : U.dcur = 0) (o : MOp)
include single

theorem UnitSt.whole_written {j : Nat} (hj : j < 4096) : SMap.get 0 (U.writeBank o.bank (o.whole U).1).elems (o.bank * 4096 +
    j) =
    o.wholeOf (SMap.get 0 U.elems (o.bank * 4096 + j)) := by
  rw [UnitSt.writeBank_elems single, MOp.whole_elems]
  refine writeElems_none_written _ (fun q hq hk => ?_) _ (.inl ⟨_, List.mem_map.2 ⟨j, List.mem_range.2 hj, rfl⟩, rfl⟩)
  obtain ⟨i, -, rfl⟩ := List.mem_map.1 hq
  dsimp only at hk ⊢
  rw [hk]

theorem UnitSt.whole_other {n : Nat} (hn : n / 4096 ≠ o.bank) : SMap.get 0 (U.writeBank o.bank (o.whole U).1).elems n =
    SMap.get 0 U.elems n := by
  rw [UnitSt.writeBank_elems single, MOp.whole_elems]
  refine writeElems_none_other _ (fun q hq hk => ?_) _
  obtain ⟨i, hi, rfl⟩ := List.mem_map.1 hq
  have hi := List.mem_range.1 hi
  dsimp only at hk
  omega

theorem UnitSt.writeBank_nil (b : Nat) : (U.writeBank b []).elems = U.elems := UnitSt.writeBank_elems single b []

end

/-! ### A panel is completed -/

/-- The operation once a panel of it is complete. -/
def MOp.nextPanel (o : MOp) (fl : Nat) : MOp :=
  let o2 := { o with panel := o.panel + 1, steps := [], seen := [], flags := o.flags ||| fl }
  { o2 with bus := o2.bus.filter fun c => o2.linesOn.contains (o2.lineOf c.1) }

theorem State.roundOps_mem (s : State) (u : Nat) (o : MOp) (f : MOp → MOp) : (s.roundOps u o f).mem = s.mem := by
  unfold State.roundOps
  exact foldl_keeps State.mem (by intro t v; exact State.setUnit_mem ..) _ s

theorem State.carry_mem (s : State) (u : Nat) (o : MOp) (m : Mem) : (s.carry u o m).mem = s.mem := by
  unfold State.carry
  split
  · rfl
  · exact State.roundOps_mem ..

section
variable {s : State} {u : Nat} {o : MOp} {rest : List MOp} (hu : u < 768) (hh : s.halted u = false)
  (first : (s.unit u).work.mops = o :: rest) (mul : o.isMul = true) (more : o.panelsDone = false) (src : o.src ≠ 0)
  (shared : o.shr = true → s.roundHeld u = false ∧ s.inLockstep u o = true) (clock : s.relocking u = false)
  (steps : o.mr ≤ o.steps.length) (poison : s.bPoison u o = none) (parity : s.parityChk u o.readKeys = none)
include hu hh first mul more src shared clock steps poison parity

/-- The unit once the panel is written. -/
def UnitSt.paneled (V : UnitSt) (o : MOp) (q : List (Nat × Word32) × Nat) : UnitSt :=
  { (V.writeBank o.bank q.1) with
    work := { V.work with
      mops := V.work.mops.map (fun x => if x.id = o.id then o.nextPanel q.2 else x)
      fl := V.work.fl.map (fun f => if f.id = o.id then { f with progress := (o.nextPanel q.2).panel } else f) } }

theorem exec_mmulPanelComplete : let m := s.mem.overlay (o.bus ++ o.seen)
    exec (.mmulPanelComplete u) s = .next ((s.carry u o m).setUnit u ((s.unit u).paneled o (o.results m (s.unit u)))) := by
  intro m
  have stands : s.stands u = false := clock
  have taken : ∀ r n, s.takeSteps u o r (n + 1) = .inl (s, o) := fun r n => by rw [State.takeSteps, if_pos steps]
  have held : ¬ (o.shr = true ∧ s.roundHeld u = true) := fun h => by simp [(shared h.1).1] at h
  have lockstep : ¬ (o.shr = true ∧ (!s.inLockstep u o) = true) := fun h => by simp [(shared h.1).2] at h
  change clockEvent u s (s.panelComplete u) = _
  rw [clockEvent, stands, if_neg Bool.false_ne_true, unitEvent_of_live hu hh, State.panelComplete, first,
    List.find?_cons_of_pos (by simp [more])]
  dsimp only
  rw [if_neg (by simp [mul, src, clock, held]), taken]
  dsimp only
  rw [if_neg (fun h => h.elim (Nat.not_lt.2 steps) lockstep), poison, parity]
  rfl

end

theorem elemKey_inj {b i j i' j' : Nat} (hi : i < 64) (hj : j < 64) (hi' : i' < 64) (hj' : j' < 64) (h : elemKey b i j =
    elemKey b i' j') :
    i = i' ∧ j = j' := by
  unfold elemKey at h
  omega

theorem mem_results {o : MOp} {m : Mem} {U : UnitSt} {q : Nat × Word32} : q ∈ (o.results m U).1 ↔ ∃ i j, i < o.mr ∧ j < o.nc ∧
    q = (elemKey o.bank i j, BitVec.ofNat 32 (o.panelSum m (o.steps.getD i []) j (o.start (U.elem o.bank i j).toNat)).1) := by
  simp only [MOp.results, List.mem_map, List.mem_flatten, exists_exists_and_eq_and, List.mem_range]
  constructor
  · rintro ⟨_, ⟨i, hi, j, hj, rfl⟩, rfl⟩
    exact ⟨i, j, hi, hj, rfl⟩
  · rintro ⟨i, j, hi, hj, rfl⟩
    exact ⟨_, ⟨i, hi, j, hj, rfl⟩, rfl⟩

/-- Settles O42: what the oldest tile operation, and a panel of it, leave in their bank. -/
theorem tileOperationsWriteTheirBank : Obligations.TileOperationsWriteTheirBank := by
  unfold Obligations.TileOperationsWriteTheirBank
  refine ⟨fun s u o rest hu hh first single others plain done clock parity => ?performed,
    fun s u o rest hu hh first mul more src shared clock steps poison parity single hmr hnc fresh => ?panel⟩
  case performed =>
    have run := exec_tileOpPerformed hu hh first done clock parity
    obtain ⟨elems, mops, tiles⟩ := UnitSt.tiled_retire (rest := rest) (if o.isMul then ([],
      o.flags) else o.whole (s.unit u)) others plain
    refine ⟨_, run, ?_⟩
    rw [State.unit_setUnit_same, mops, tiles, elems]
    refine ⟨rfl, rfl, rfl, fun n hn => ?_, fun mul => ?_, fun mul clear j hj => ?_, fun v mul scale j hj => ?_⟩
    · cases o.isMul
      · exact UnitSt.whole_other single o hn
      · exact congrArg (SMap.get 0 · n) (UnitSt.writeBank_nil single _)
    · rw [mul]
      exact UnitSt.writeBank_nil single _
    · rw [mul]
      exact (UnitSt.whole_written single o hj).trans (by rw [MOp.wholeOf, clear]; rfl)
    · rw [mul]
      exact (UnitSt.whole_written single o hj).trans (by rw [MOp.wholeOf, scale]; rfl)
  case panel =>
    have run := exec_mmulPanelComplete hu hh first mul more src shared clock steps poison parity
    have elems : ∀ q, ((s.unit u).paneled o q).elems = writeElems none q.1 (s.unit u).elems := fun q =>
      UnitSt.writeBank_elems single ..
    refine ⟨_, run, State.carry_mem .., ?_⟩
    rw [State.unit_setUnit_same]
    refine ⟨fun i j hi hj => ?_, fun n hn => ?_, ?_⟩
    · rw [UnitSt.elem, elems]
      refine writeElems_none_written _ (fun q hq hk => ?_) _ (.inl ⟨_, mem_results.2 ⟨i, j, hi, hj, rfl⟩, rfl⟩)
      obtain ⟨i', j', hi', hj', rfl⟩ := mem_results.1 hq
      obtain ⟨rfl, rfl⟩ := elemKey_inj (by omega) (by omega) (by omega) (by omega) hk
      rfl
    · rw [elems]
      refine writeElems_none_other _ (fun q hq hk => ?_) _
      obtain ⟨i, j, hi, hj, rfl⟩ := mem_results.1 hq
      exact hn i j hi hj hk.symm
    · refine ⟨o.nextPanel (o.results (s.mem.overlay (o.bus ++ o.seen)) (s.unit u)).2, ?_, rfl, rfl, rfl, rfl⟩
      change (s.unit u).work.mops.map _ = _
      rw [first, List.map_cons, if_pos rfl]
      exact congrArg _ ((List.map_congr_left fun x hx => if_neg (fresh x hx)).trans (List.map_id _))

end Sys2Proof.Machine
end


section
/-! O28. A trap taken in a handler: what settling the banks before it (R138, R446) leaves as it is, and what entry writes. -/
namespace Sys2Proof.Machine

/-! ### The part of a unit that taking a trap works on -/

/-- All of a unit that the entry of a handler reads or writes. -/
def UnitSt.core (U : UnitSt) : Regs × Csrs × Walk × Ident × TrapSt × Work := (U.regs, U.csr, U.walk, U.id, U.trap, U.work)

@[simp] theorem UnitSt.setBank_core (U : UnitSt) (k b : Nat) (B : Bank) : (U.setBank k b B).core = U.core := by
  unfold UnitSt.setBank
  split_ifs <;> rfl

theorem UnitSt.wakeNow_core (U : UnitSt) (k b : Nat) : (U.wakeNow k b).core = U.core := by
  unfold UnitSt.wakeNow
  dsimp only
  split_ifs
  · exact UnitSt.setBank_core ..
  · rfl

theorem UnitSt.wakeSpad_core (U : UnitSt) (off n : Nat) : (U.wakeSpad off n).core = U.core :=
  foldl_keeps UnitSt.core (fun V j => by
    dsimp only
    split_ifs
    · rfl
    · exact UnitSt.setBank_core ..) (spadBanks off n) U

theorem UnitSt.learn_core (U : UnitSt) (e : Eng) (ids : List Nat) : (U.learn e ids).core = U.core := by
  unfold UnitSt.learn
  split_ifs <;> rfl

theorem UnitSt.enterKnow_core (U : UnitSt) : U.enterKnow.core = U.core := by
  unfold UnitSt.enterKnow
  refine Eq.trans ?_ (UnitSt.learn_core U .S U.hb.done)
  dsimp only
  split_ifs <;> rfl

theorem UnitSt.fallReg_core (U : UnitSt) (b : Nat) : (U.fallReg b).core = U.core := by
  refine Eq.trans ?_ (UnitSt.setBank_core U 0 b (U.bank 0 b).fallNow)
  unfold UnitSt.fallReg UnitSt.fixDup
  dsimp only
  split_ifs <;> rfl

/-! ### What a word of another engine than S leaves as it retires -/

/-- An effect that writes no register, predicate, capability register or system register but VSTAT. -/
def Eff.settles : Eff → Prop
  | .x _ _ => False | .k _ _ => False | .p _ _ => False | .ps _ => False | .csrw _ _ => False | _ => True

/-- What no word whose effects settle changes as it retires. -/
def UnitSt.calm (U : UnitSt) : Regs × Csrs × (SMap Nat × SMap (Option Redirect) × List PassRec × List Eng) × Ident × TrapSt :=
  (U.regs, { U.csr with vstat := 0 }, (U.walk.pc, U.walk.redir, U.walk.passes, U.walk.arrived), U.id, U.trap)

theorem UnitSt.calm_of_core {U V : UnitSt} (h : V.core = U.core) : V.calm = U.calm := by
  simp only [UnitSt.core, Prod.mk.injEq] at h
  obtain ⟨regs, csr, walk, id, trap, -⟩ := h
  rw [UnitSt.calm, regs, csr, walk, id, trap, UnitSt.calm]

theorem UnitSt.fallRegIfDue_core (U : UnitSt) (b : Nat) : (U.fallRegIfDue b).core = U.core := by
  unfold UnitSt.fallRegIfDue
  split_ifs
  · exact UnitSt.fallReg_core ..
  · rfl

theorem UnitSt.applyEff_calm {eff : Eff} (h : eff.settles) (U : UnitSt) : (U.applyEff eff).calm = U.calm := by
  cases eff with
  | x | k | p | ps | csrw => exact h.elim
  | bank | vstat | balloc | csract | tcont => rfl
  | sidle i => simp only [UnitSt.applyEff]; split_ifs <;> rfl
  | bhint k b st =>
    refine UnitSt.calm_of_core ?_
    simp only [UnitSt.applyEff, UnitSt.setBank_core]
    split_ifs
    · exact UnitSt.fallRegIfDue_core ..
    · rfl
  | bwake k b =>
    refine UnitSt.calm_of_core ?_
    simp only [UnitSt.applyEff, UnitSt.setBank_core]
    split_ifs
    · exact UnitSt.fallRegIfDue_core ..
    · rfl
  | mset sel v => simp only [UnitSt.applyEff]; split_ifs <;> rfl
  | sdrop bs => exact UnitSt.calm_of_core (foldl_keeps UnitSt.core (fun V b => UnitSt.setBank_core V 1 b _) bs U)

theorem UnitSt.pushPost_calm (U : UnitSt) (f : Flight) : (U.pushPost f).calm = U.calm := by
  unfold UnitSt.pushPost
  cases f.post with
  | none => rfl
  | some p =>
    have know : (U.postKnow f.eng p).calm = U.calm := by
      unfold UnitSt.postKnow
      dsimp only
      split_ifs <;> rfl
    refine Eq.trans ?_ know
    dsimp only
    split_ifs <;> rfl

theorem UnitSt.retireFlight_calm {f : Flight} (h : ∀ e ∈ f.eff, e.settles) (U : UnitSt) : (U.retireFlight f).calm = U.calm := by
  have tell : ∀ V : UnitSt, (V.tell f).calm = V.calm := fun V => by
    unfold UnitSt.tell
    split_ifs <;> rfl
  have effs : ∀ (l : List Eff), (∀ e ∈ l, e.settles) → ∀ V : UnitSt, (l.foldl UnitSt.applyEff V).calm = V.calm := fun l hl V =>
    List.foldlRecOn (motive := fun W => W.calm = V.calm) l UnitSt.applyEff rfl fun W hW e he =>
      (UnitSt.applyEff_calm (hl e he) W).trans hW
  unfold UnitSt.retireFlight
  rw [UnitSt.pushPost_calm, tell,
    foldl_keeps UnitSt.calm (f := UnitSt.applyHint) fun V b => UnitSt.calm_of_core (UnitSt.setBank_core V 0 b _)]
  exact effs f.eff h _

theorem UnitSt.settled_of_sublist {U V : UnitSt} (h : U.settled) (sub : V.work.fl.Sublist U.work.fl) : V.settled :=
  fun f hf => h f (sub.subset hf)

theorem UnitSt.settles_of_settled {U : UnitSt} (h : U.settled) {f : Flight} (hf : f ∈ U.work.fl) (he : f.eng ≠ .S) :
    ∀ e ∈ f.eff, e.settles := by
  intro e hmem
  have := h f hf he e hmem
  cases e <;> exact this

/-- Where the words of the other engines settle, those of one that can retire leave registers and system registers alone. -/
theorem UnitSt.retire_calm {e : Eng} (he : e ≠ .S) {U : UnitSt} (h : U.settled) : (U.retire e).calm = U.calm := by
  unfold UnitSt.retire
  generalize U.work.fl.length = n
  induction n generalizing U with
  | zero => rfl
  | succ n ih =>
    unfold UnitSt.drain
    cases first : U.headOf e with
    | none => rfl
    | some f =>
      have hmem := List.mem_of_find?_eq_some first
      have heng : f.eng = e := by simpa using List.find?_some first
      dsimp only
      split_ifs
      · rw [ih (UnitSt.settled_of_sublist h (UnitSt.retireFlight_workKept U f).2),
          UnitSt.retireFlight_calm (UnitSt.settles_of_settled h hmem (heng ▸ he))]
      · rfl

/-! ### Settling the banks -/

/-- `t` is `s` with the banks of unit `u` settled, which keeps the unit calm and leaves all but it and memory. -/
structure State.Calmer (u : Nat) (s t : State) : Prop where
  settled : (s.unit u).settled → (t.unit u).settled
  calm : (s.unit u).settled → (t.unit u).calm = (s.unit u).calm
  other : ∀ w, w ≠ u → t.unit w = s.unit w
  hub : t.hub = s.hub
  time : t.time = s.time

namespace State.Calmer
variable {u : Nat} {s t r : State}

theorem refl (s : State) : Calmer u s s := ⟨id, fun _ => rfl, fun _ _ => rfl, rfl, rfl⟩

theorem trans (h : Calmer u s t) (h' : Calmer u t r) : Calmer u s r :=
  ⟨fun q => h'.settled (h.settled q), fun q => (h'.calm (h.settled q)).trans (h.calm q),
    fun w hw => (h'.other w hw).trans (h.other w hw), h'.hub.trans h.hub, h'.time.trans h.time⟩

/-- Memory makes no difference. -/
theorem withMem (h : Calmer u s t) (m : Mem) : Calmer u s { t with mem := m } := ⟨h.settled, h.calm, h.other, h.hub, h.time⟩

/-- A new state of the unit alone. -/
theorem of_setUnit {V : UnitSt} (sub : V.work.fl.Sublist (s.unit u).work.fl) (calm : (s.unit u).settled →
    V.calm = (s.unit u).calm) :
    Calmer u s (s.setUnit u V) where
  settled h := by
    rw [State.unit_setUnit_same]
    exact UnitSt.settled_of_sublist h sub
  calm h := by
    rw [State.unit_setUnit_same]
    exact calm h
  other w hw := State.unit_setUnit_other _ _ hw
  hub := rfl
  time := rfl

/-- A new state of the unit alone, with the same core. -/
theorem of_core {V : UnitSt} (h : V.core = (s.unit u).core) : Calmer u s (s.setUnit u V) := by
  refine of_setUnit ?_ fun _ => UnitSt.calm_of_core h
  simp only [UnitSt.core, Prod.mk.injEq] at h
  obtain ⟨-, -, -, -, -, work⟩ := h
  rw [work]

end State.Calmer

theorem State.fallIfDue_calmer (s : State) (u k b : Nat) : State.Calmer u s (s.fallIfDue u k b) := by
  have spad : State.Calmer u s (s.setUnit u (((s.unit u).setBank 1 b ((s.unit u).bank 1 b).fallNow).retire .V)) := by
    have work := congrArg Work.fl (UnitSt.setBank_work (s.unit u) 1 b ((s.unit u).bank 1 b).fallNow)
    refine .of_setUnit ((UnitSt.retire_fl ..).trans (by rw [work])) fun h => ?_
    rw [UnitSt.retire_calm (by decide) (UnitSt.settled_of_sublist h (by rw [work])),
      UnitSt.calm_of_core (UnitSt.setBank_core ..)]
  unfold State.fallIfDue State.fall
  split_ifs with due reg
  · exact .of_core (UnitSt.fallReg_core ..)
  · revert spad
    dsimp only
    generalize s.setUnit u _ = t
    intro spad
    generalize t.mem.wipe _ _ = m
    split_ifs
    · exact spad.withMem _
    · exact spad
  · exact .refl s

theorem State.settleBanks_calmer (s : State) (u : Nat) : State.Calmer u s (s.settleBanks u) := by
  have falls : State.Calmer u s (s.fallsDue u) := by
    unfold State.fallsDue
    generalize allBanks = l
    exact foldl_rel (R := State.Calmer u) State.Calmer.refl State.Calmer.trans (fun s q => s.fallIfDue_calmer u q.1 q.2) l s
  unfold State.settleBanks
  generalize allBanks = l
  exact falls.trans (.of_core (foldl_keeps UnitSt.core (fun V q => UnitSt.wakeNow_core V q.1 q.2) l _))

/-! ### A trap in a handler -/

theorem State.dropHistory_other (s : State) (k n : Nat) : ∃ l, s.dropHistory k n = { s with races := l } := by
  unfold State.dropHistory
  split_ifs
  · exact ⟨s.races, rfl⟩
  · exact ⟨_, rfl⟩

theorem State.dropFrame_other (s : State) (u : Nat) (U : UnitSt) (l : List (Nat × Nat)) :
    ∃ r, s.dropFrame u U l = { s with races := r } := by
  unfold State.dropFrame
  refine List.foldlRecOn (motive := fun t : State => ∃ r : List Access, t = { s with races := r }) l _ ⟨s.races, rfl⟩ ?_
  rintro t ⟨r, rfl⟩ q -
  obtain ⟨r', h⟩ := State.dropHistory_other { s with races := r } (frameKey u U + q.1) q.2
  exact ⟨r', h⟩

theorem State.failTask_mem (s : State) (t status : Nat) : (s.failTask t status).mem = s.mem := (s.failTask_steers t status).mem

theorem State.failTask_unit_other {s : State} {t status v : Nat} (h : ∀ T, s.task t = some T → v ∉ T.units) :
    (s.failTask t status).unit v = s.unit v := by
  unfold State.failTask
  split
  · rfl
  · rename_i T hT
    change (T.units.foldl _ s).unit v = _
    rw [haltAll_unit, if_neg (h T hT)]

theorem State.takeTrap_nested {s : State} {u : Nat} {t : Trap} (h : (s.unit u).trap.depth = 1) : s.takeTrap u t =
    s.trapNested u t := by
  unfold State.takeTrap
  split
  · omega
  · rfl
  · contradiction

/-- A trap taken at depth 2 ends the task: log entry, halted unit, status FAULT. -/
theorem State.takeTrap_deepest {s : State} {u : Nat} {t : Trap} (h : 2 ≤ (s.unit u).trap.depth) : ∃ H : Hub,
    H.tasks = s.hub.tasks ∧
    s.takeTrap u t = (({ s with hub := H } : State).setUnit u (s.unit u).halt).failTask (s.unit u).id.task stFault := by
  refine ⟨{ s.hub with log := s.hub.log ++ [(⟨1, u, (s.unit u).csr.cause.toNat, t.cause.code⟩ : HostEv)] }, rfl, ?_⟩
  unfold State.takeTrap
  split
  · omega
  · omega
  · rfl

/-- The area of the frame that a nested trap writes at 0x980 (R437). -/
def UnitSt.nestArea (U : UnitSt) (t : Trap) : List Byte :=
  u64 U.csr.cause.toNat ++ u32 (U.pcOf .S) ++ u8 (if U.csr.mode then 1 else 0) ++ pad 3 []
    ++ u64 t.info0 ++ u64 t.info1 ++ ((List.range 8).map fun i => u64 (U.regs.getX (24 + i)).toNat).flatten

theorem byteField_skip {a b : List Byte} {k o n : Nat} (h : a.length = k) : byteField (a ++ b) (k + o) n = byteField b o n := by
  rw [byteField, byteField, List.drop_append, List.drop_eq_nil_of_le (by omega), List.nil_append, h, Nat.add_sub_cancel_left]

theorem byteField_first {n v : Nat} {b : List Byte} : byteField (toBytes n v ++ b) 0 n = v % 256 ^ n := by
  rw [byteField, List.drop_zero, List.take_left' (toBytes_length n v), ofBytes_toBytes]

theorem UnitSt.nestArea_length (U : UnitSt) (t : Trap) : (U.nestArea t).length = 0x60 := by
  simp [UnitSt.nestArea, u64, u32, u8, pad, toBytes_length, List.range, List.range.loop]

theorem UnitSt.nestArea_cause (U : UnitSt) (t : Trap) : byteField (U.nestArea t) 0 8 = U.csr.cause.toNat := by
  simp only [UnitSt.nestArea, List.append_assoc]
  exact byteField_first.trans (Nat.mod_eq_of_lt U.csr.cause.isLt)

theorem UnitSt.nestArea_pc {U : UnitSt} (t : Trap) (h : U.pcOf .S < 2 ^ 32) : byteField (U.nestArea t) 8 4 = U.pcOf .S := by
  simp only [UnitSt.nestArea, List.append_assoc]
  exact ((byteField_skip (o := 0) (toBytes_length ..)).trans byteField_first).trans (Nat.mod_eq_of_lt h)

theorem UnitSt.nestArea_infos (U : UnitSt) {t : Trap} (h0 : t.info0 < 2 ^ 64) (h1 : t.info1 < 2 ^ 64) :
    byteField (U.nestArea t) 16 8 = t.info0 ∧ byteField (U.nestArea t) 24 8 = t.info1 := by
  have lead : (u64 U.csr.cause.toNat ++ u32 (U.pcOf .S) ++ u8 (if U.csr.mode then 1 else 0) ++ pad 3 []).length = 16 := by
    simp [u64, u32, u8, pad, toBytes_length]
  unfold UnitSt.nestArea
  generalize u64 U.csr.cause.toNat ++ u32 (U.pcOf .S) ++ u8 (if U.csr.mode then 1 else 0) ++ pad 3 [] = p at lead ⊢
  simp only [List.append_assoc]
  refine ⟨((byteField_skip (o := 0) lead).trans byteField_first).trans (Nat.mod_eq_of_lt h0), ?_⟩
  exact ((byteField_skip (o := 8) lead).trans ((byteField_skip (o := 0) (toBytes_length ..)).trans byteField_first)).trans
    (Nat.mod_eq_of_lt h1)

/-- Memory once a nested trap has written its area, k14 and the count of the frame's flags. -/
def Mem.nest (m : Mem) (u base : Nat) (area : List Byte) (k : Cap) : Mem :=
  let m2 := (m.write u 4 (base + 0x980) area).writeTag u 4 (base + 0x9E0) k.bytes k.tag
  let flags := m2.num (.unit u) (base + 0x26) 2
  m2.write u 4 (base + 0x26) (u16 (if flags % 2 = 0 then flags + 1 else flags))

/-- The area reads back as it was written. -/
theorem Mem.num_nest (m : Mem) (u base : Nat) {area : List Byte} (k : Cap) (len : area.length = 0x60) {o n : Nat} (h : o + n
    ≤ 0x60) :
    (m.nest u base area k).num (.unit u) (base + (0x980 + o)) n = byteField area o n := by
  have size : ∀ v, (u16 v).length = 2 := fun v => toBytes_length 2 v
  rw [Mem.nest, Mem.write, Mem.num_writeTag_outside _ _ _ _ _ _ _ (by rw [size]; omega),
    Mem.num_writeTag_outside _ _ _ _ _ _ _ (by omega), Mem.write, ← Nat.add_assoc]
  exact Mem.num_writeTag_own _ _ _ _ _ _ (by omega)

/-- The unit at its handler at depth 2, with CAUSE `c`, before it has woken the frame's banks. -/
def UnitSt.nested (U : UnitSt) (t : Trap) (c : Word) : UnitSt :=
  let V : UnitSt :=
    { U with
      work := { U.work with nmFail := if t.cause = .nmerr then [] else U.work.nmFail }
      csr := { U.csr with
        cause := c
        rcstat := if t.cause = .race then bumpRace U.csr.rcstat else U.csr.rcstat }
      trap := { U.trap with
        depth := 2, pend := none, hredir := U.redirOf .S, took := U.trap.took || decide (t.cause = .preempt) } }
  V.setRedir .S none

theorem UnitSt.nested_regs (U : UnitSt) (t : Trap) (c : Word) : (U.nested t c).regs = U.regs := rfl
theorem UnitSt.nested_id (U : UnitSt) (t : Trap) (c : Word) : (U.nested t c).id = U.id := rfl

/-- The unit at its handler at depth 2. -/
def UnitSt.nestedIn (U : UnitSt) (t : Trap) (c : Word) : UnitSt :=
  (((U.nested t c).wakeSpad (U.csr.tframe * 4096) (flen U.csr.slipw)).enterSuper).enterKnow

/-- The task has been told that one of its units took PREEMPT. -/
def State.noteTook (s : State) (t : Nat) : State :=
  match s.task t with
  | some T => s.setTask t { T with took := true }
  | none => s

theorem State.noteTook_hub (s : State) (t : Nat) : ∃ H, s.noteTook t = { s with hub := H } := by
  unfold State.noteTook
  cases s.task t
  · exact ⟨s.hub, rfl⟩
  · exact ⟨_, rfl⟩

theorem State.trapNested_kept (s0 : State) (u : Nat) (t : Trap) :
    let s := s0.settleBanks u
    let U := s.unit u
    (s0.trapNested u t).mem = s.mem.nest u (localKey u 1 (U.csr.tframe * 4096)) (U.nestArea t) (U.regs.getK 14) ∧
    (s0.trapNested u t).unit u = U.nestedIn t (BitVec.ofNat 64 (t.cause.code + t.eng * 2 ^ 11 + 2 ^ 15)) := by
  unfold State.trapNested
  generalize s0.settleBanks u = s
  intro s' U
  dsimp only
  have told : ∀ (X : State) (i : Nat), ∃ H, (match X.task i with
      | some T => X.setTask i { T with took := true }
      | none => X) = { X with hub := H } := State.noteTook_hub
  generalize hX : State.setUnit _ u _ = X
  have mem : X.mem = s.mem.nest u (localKey u 1 (U.csr.tframe * 4096)) (U.nestArea t) (U.regs.getK 14) := by
    rw [← hX]
    rfl
  have unit : X.unit u = U.nestedIn t (BitVec.ofNat 64 (t.cause.code + t.eng * 2 ^ 11 + 2 ^ 15)) := by
    rw [← hX]
    exact State.unit_setUnit_same ..
  obtain ⟨races, dropped⟩ := State.dropFrame_other X u U [(0x26, 2), (0x980, 0x70)]
  clear hX
  rw [dropped]
  split_ifs
  · obtain ⟨H, h⟩ := told { X with races := races } U.id.task
    refine ⟨(congrArg State.mem h).trans mem, (congrArg (State.unit · u) h).trans unit⟩
  · exact ⟨mem, unit⟩

theorem UnitSt.core_eq_iff {U V : UnitSt} : V.core = U.core ↔ V.regs = U.regs ∧ V.csr = U.csr ∧ V.walk = U.walk ∧ V.id = U.id ∧
    V.trap = U.trap ∧ V.work = U.work := by
  simp [UnitSt.core]

/-- What taking a trap reads of a unit is the same in units that are calm alike. -/
theorem UnitSt.of_calm {U V : UnitSt} (h : V.calm = U.calm) : V.regs = U.regs ∧
    (V.csr.cause = U.csr.cause ∧ V.csr.mode = U.csr.mode ∧ V.csr.tframe = U.csr.tframe ∧ V.csr.vecEn = U.csr.vecEn ∧
      V.csr.vecU = U.csr.vecU ∧ V.csr.vecS = U.csr.vecS ∧ V.csr.slipw = U.csr.slipw) ∧
    (V.walk.pc = U.walk.pc ∧ V.walk.passes = U.walk.passes ∧ V.walk.arrived = U.walk.arrived) ∧ V.id = U.id ∧
      V.trap = U.trap := by
  simp only [UnitSt.calm, Prod.mk.injEq, Csrs.mk.injEq] at h
  obtain ⟨regs, ⟨cause, mode, -, -, tframe, vecEn, vecU, vecS, slipw, -⟩, ⟨pc, -, passes, arrived⟩, id, trap⟩ := h
  exact ⟨regs, ⟨cause, mode, tframe, vecEn, vecU, vecS, slipw⟩, ⟨pc, passes, arrived⟩, id, trap⟩

/-- The supervisor is entered (R433). -/
theorem UnitSt.enterSuper_fields (U : UnitSt) : U.enterSuper.csr = { U.csr with mode := true, uh := false } ∧
    U.enterSuper.pcOf .S = U.csr.vecS ∧ U.enterSuper.regs = U.regs.setK 14 U.id.superCap ∧ U.enterSuper.trap = U.trap :=
  ⟨rfl, UnitSt.pcOf_setPc_same .., rfl, rfl⟩

theorem UnitSt.nestedIn_fields (U : UnitSt) (t : Trap) (c : Word) : (U.nestedIn t c).trap.depth = 2 ∧
    (U.nestedIn t c).csr.mode = true ∧
    (U.nestedIn t c).csr.uh = false ∧ (U.nestedIn t c).pcOf .S = U.csr.vecS ∧
    (U.nestedIn t c).csr.cause = c ∧
    (U.nestedIn t c).regs = U.regs.setK 14 U.id.superCap := by
  obtain ⟨regs, csr, -, id, trap,
    -⟩ := UnitSt.core_eq_iff.1 ((U.nested t c).wakeSpad_core (U.csr.tframe * 4096) (flen U.csr.slipw))
  obtain ⟨regsK, csrK, walkK, -, trapK, -⟩ := UnitSt.core_eq_iff.1
    (((U.nested t c).wakeSpad (U.csr.tframe * 4096) (flen U.csr.slipw)).enterSuper.enterKnow_core)
  obtain ⟨csrS, pcS, regsS, trapS⟩ := ((U.nested t c).wakeSpad (U.csr.tframe * 4096) (flen U.csr.slipw)).enterSuper_fields
  rw [csr] at csrS pcS
  rw [regs, id, UnitSt.nested_regs, UnitSt.nested_id] at regsS
  rw [csrS] at csrK
  refine ⟨?_, ?_, ?_, ?_, ?_, regsK.trans regsS⟩
  · exact congrArg TrapSt.depth (trapK.trans (trapS.trans trap))
  · exact congrArg Csrs.mode csrK
  · exact congrArg Csrs.uh csrK
  · exact (congrArg (fun W : Walk => SMap.get 0 W.pc Eng.S.code) walkK).trans pcS
  · exact congrArg Csrs.cause csrK

/-- Settles O28: a handler at depth 1 is interrupted into depth 2, one at depth 2 ends its task. -/
theorem trapsInHandlersNest : Obligations.TrapsInHandlersNest := by
  unfold Obligations.TrapsInHandlersNest
  intro s u t heng h0 h1 U s1 V k
  refine ⟨fun depth settled => ?nested, fun depth => ?deepest⟩
  case nested =>
    have taken : s1 = s.trapNested u t := by
      exact State.takeTrap_nested depth
    have calmer := s.settleBanks_calmer u
    obtain ⟨regs, ⟨cause, -, tframe, -, -, vecS, -⟩, ⟨pc, -⟩, id, -⟩ := UnitSt.of_calm (calmer.calm settled)
    have hpc : ((s.settleBanks u).unit u).pcOf .S = U.pcOf .S := congrArg (fun m : SMap Nat => SMap.get 0 m Eng.S.code) pc
    obtain ⟨mem, unit⟩ := s.trapNested_kept u t
    rw [← taken] at mem unit
    obtain ⟨hdepth, hmode, huh, hS, hcause, hregs⟩ := ((s.settleBanks u).unit u).nestedIn_fields t
      (BitVec.ofNat 64 (t.cause.code + t.eng * 2 ^ 11 + 2 ^ 15))
    rw [← unit] at hdepth hmode huh hS hcause hregs
    rw [regs, id] at hregs
    have num : ∀ o n, o + n ≤ 0x60 → s1.mem.num (.unit u) (k + (0x980 + o)) n =
        byteField (((s.settleBanks u).unit u).nestArea t) o n := fun o n h => by
      rw [mem, tframe]
      exact Mem.num_nest _ _ _ _ (UnitSt.nestArea_length ..) h
    obtain ⟨i0, i1⟩ := ((s.settleBanks u).unit u).nestArea_infos h0 h1
    refine ⟨hdepth, hmode, huh, hS.trans vecS, hcause, ?_, fun n hn => ?_, fun n => ?_, ?_, ?_, ?_, fun hlt => ?_⟩
    · exact (congrArg (Regs.getK · 14) hregs).trans (SMap.get_set_same ..)
    · exact (congrArg (Regs.getK · n) hregs).trans (SMap.get_set_other _ _ _ hn)
    · exact (congrArg (Regs.getX · n) hregs).trans (Regs.getX_setK ..)
    · exact (num 0 8 (by omega)).trans ((UnitSt.nestArea_cause ..).trans (congrArg BitVec.toNat cause))
    · exact (num 16 8 (by omega)).trans i0
    · exact (num 24 8 (by omega)).trans i1
    · exact (num 8 4 (by omega)).trans ((UnitSt.nestArea_pc t (hpc.trans_lt hlt)).trans hpc)
  case deepest =>
    obtain ⟨H, tasks, taken⟩ := State.takeTrap_deepest (t := t) depth
    have task : ∀ i, (({ s with hub := H } : State).setUnit u U.halt).task i = s.task i := fun i =>
      congrArg (fun m : SMap (Option Task) => SMap.get none m i) tasks
    refine ⟨?_, ?_, fun T hT open_ => ?_, fun w hw free => ?_⟩
    · change ((s.takeTrap u t).unit u).run = _
      rw [taken]
      obtain h | h := State.failTask_unit (({ s with hub := H } : State).setUnit u U.halt) U.id.task stFault u
      · rw [h, State.unit_setUnit_same]
        rfl
      · rw [h]
        rfl
    · change (s.takeTrap u t).mem = _
      rw [taken, State.failTask_mem]
      rfl
    · refine ⟨_, (congrArg (State.task · U.id.task) taken).trans (State.failTask_task ((task _).trans hT)), ?_⟩
      rw [open_]
      rfl
    · refine (congrArg (State.unit · w) taken).trans ((State.failTask_unit_other fun T hT => ?_).trans ?_)
      · exact free T ((task _).symm.trans hT)
      · exact State.unit_setUnit_other _ _ hw

end Sys2Proof.Machine
end


section
/-! O27. A trap taken in task code (R433): the frame, the handler's registers, and what stays. -/
namespace Sys2Proof.Machine

/-! ### What comes before the frame is written -/

theorem State.roundStops_calm (s : State) (u w : Nat) :
    ((s.roundStops u).unit w).calm = (s.unit w).calm ∧ (s.roundStops u).time = s.time := by
  unfold State.roundStops
  split
  · exact ⟨rfl, rfl⟩
  · rename_i g _ _
    refine ⟨foldl_keeps (fun r : State => (r.unit w).calm) (by
        intro r m
        dsimp only
        obtain rfl | hw := eq_or_ne w m.1
        · rw [State.unit_setUnit_same]
          rfl
        · rw [State.unit_setUnit_other _ _ hw]) _ s, foldl_keeps State.time (by intro r m; rfl) _ s⟩

theorem State.leaveReplay_kept (s : State) (u : Nat) (ids : List Nat) :
    (∀ w, (s.leaveReplay u ids).unit w = s.unit w) ∧ (s.leaveReplay u ids).time = s.time := by
  unfold State.leaveReplay
  dsimp only
  split_ifs
  · exact ⟨fun _ => rfl, rfl⟩
  · exact ⟨fun _ => rfl, rfl⟩

/-- The state in which unit `u` enters its handler: banks settled, rounds of its group stopped, accesses left for the frame. -/
def State.trapStart (s0 : State) (u : Nat) : State :=
  ((s0.settleBanks u).roundStops u).leaveReplay u (((s0.unit u).work.gone ++ (s0.unit u).work.fl).map (·.id))

theorem State.trapStart_calm {s : State} {u : Nat} (h : (s.unit u).settled) : ((s.trapStart u).unit u).calm = (s.unit u).calm
    := by
  rw [State.trapStart, (State.leaveReplay_kept ..).1, (State.roundStops_calm ..).1, (s.settleBanks_calmer u).calm h]

theorem State.trapStart_regs {s : State} {u w : Nat} (h : w ≠ u) : ((s.trapStart u).unit w).regs = (s.unit w).regs := by
  have other : ((s.trapStart u).unit w).calm = (s.unit w).calm := by
    rw [State.trapStart, (State.leaveReplay_kept ..).1, (State.roundStops_calm ..).1, (s.settleBanks_calmer u).other w h]
  exact (UnitSt.of_calm other).1

theorem State.trapStart_time (s : State) (u : Nat) : (s.trapStart u).time = s.time := by
  rw [State.trapStart, (State.leaveReplay_kept ..).2, (State.roundStops_calm _ u u).2, (s.settleBanks_calmer u).time]

theorem UnitSt.unarrive_calm {U : UnitSt} (hp : U.walk.passes = []) (ha : U.walk.arrived = []) : U.unarrive.calm = U.calm := by
  unfold UnitSt.unarrive
  simp only [hp, List.getLast?_nil]
  simp only [UnitSt.calm, hp, ha]

/-! ### The frame -/

theorem Mem.num_writeParts_before (u base : Nat) {o n : Nat} (ps : List (Nat × List Byte)) (h : ∀ p ∈ ps,
    o + n ≤ p.1) (m : Mem) :
    (writeParts m u base ps).num (.unit u) (base + o) n = m.num (.unit u) (base + o) n := by
  unfold writeParts
  induction ps generalizing m with
  | nil => rfl
  | cons p ps ih =>
    rw [List.foldl_cons, ih fun q hq => h q (List.mem_cons_of_mem _ hq)]
    exact Mem.num_writeTag_outside _ _ _ _ _ _ _ (.inl (by have := h p (List.mem_cons_self ..); omega))

theorem State.takeTrap_task {s : State} {u : Nat} {t : Trap} (h : (s.unit u).trap.depth = 0) : s.takeTrap u t = s.trapTask u
    t := by
  unfold State.takeTrap
  split
  · rfl
  · omega
  · contradiction

/-- The first part of the frame: its header of 64 bytes. -/
def frameHead (s : State) (u : Nat) (t : Trap) : List Byte :=
  let U := s.unit u
  u64 (t.cause.code + t.eng * 2 ^ 11) ++ u64 t.info0 ++ u64 t.info1 ++ u64 s.time.toNat
    ++ u32 (flen U.csr.slipw) ++ u16 U.walk.passes.length ++ u16 (if U.tape.run = 2 then 2 else 0)
    ++ (engs.map fun e => u8 ((U.work.gone ++ U.work.fl).filter fun f => f.eng == e).length).flatten ++ u16 0 ++ u64 U.status
      ++ u64 0

/-- The second: the six PCs. -/
def framePcs (U : UnitSt) : List Byte := pad 64 (engs.map fun e => u32 (U.pcOf e)).flatten

theorem frameParts_offsets (s : State) (u : Nat) (t : Trap) : ((frameParts s u t).drop 2).map Prod.fst =
    [0x80, 0xC0, 0x100, 0x400, 0x600, 0x800, 0x900, 0xA00, 0xA20, 0x1000, 0x4000, 0x10000] := by
  simp only [frameParts, List.drop, List.map_cons, List.map_nil]

theorem frameParts_eq (s : State) (u : Nat) (t : Trap) : ∃ rest, (∀ p ∈ rest, 0x80 ≤ p.1) ∧
    frameParts s u t = (0, frameHead s u t) :: (0x40, framePcs (s.unit u)) :: rest := by
  refine ⟨(frameParts s u t).drop 2, fun p hp => ?_, ?_⟩
  · have offset := List.mem_map_of_mem (f := Prod.fst) hp
    rw [frameParts_offsets] at offset
    revert offset
    generalize p.1 = o
    simp only [List.mem_cons, List.not_mem_nil, or_false]
    omega
  · simp only [frameParts, frameHead, framePcs, List.drop_succ_cons, List.drop_zero]

theorem frameHead_fields (s : State) (u : Nat) {t : Trap} (hc : t.cause.code + t.eng * 2 ^ 11 < 2 ^ 64) (h0 : t.info0 < 2 ^ 64)
    (h1 : t.info1 < 2 ^ 64) : 32 ≤ (frameHead s u t).length ∧
    byteField (frameHead s u t) 0 8 = t.cause.code + t.eng * 2 ^ 11 ∧ byteField (frameHead s u t) 8 8 = t.info0 ∧
    byteField (frameHead s u t) 16 8 = t.info1 ∧ byteField (frameHead s u t) 24 8 = s.time.toNat := by
  have skip : ∀ {v k n : Nat} {b : List Byte},
    byteField (u64 v ++ b) (8 + k) n = byteField b k n := byteField_skip (toBytes_length ..)
  have first : ∀ {v : Nat} {b : List Byte}, v < 2 ^ 64 → byteField (u64 v ++ b) 0 8 = v := fun h =>
    byteField_first.trans (Nat.mod_eq_of_lt h)
  unfold frameHead
  simp only [List.append_assoc]
  refine ⟨?_, first hc, ?_, ?_, ?_⟩
  · simp only [List.length_append, u64, toBytes_length]
    omega
  · exact (skip (k := 0)).trans (first h0)
  · exact (skip (k := 8)).trans ((skip (k := 0)).trans (first h1))
  · exact (skip (k := 16)).trans ((skip (k := 8)).trans ((skip (k := 0)).trans (first s.time.isLt)))

theorem framePcs_length (U : UnitSt) : (framePcs U).length = 64 := by
  simp [framePcs, pad, engs, u32, toBytes_length]

theorem framePcs_field {U : UnitSt} {e : Eng} (h : U.pcOf e < 2 ^ 32) : byteField (framePcs U) (4 * e.code) 4 = U.pcOf e := by
  have skip : ∀ {v k n : Nat} {b : List Byte},
    byteField (u32 v ++ b) (4 + k) n = byteField b k n := byteField_skip (toBytes_length ..)
  have first : ∀ {v : Nat} {b : List Byte}, v < 2 ^ 32 → byteField (u32 v ++ b) 0 4 = v := fun h =>
    byteField_first.trans (Nat.mod_eq_of_lt h)
  simp only [framePcs, pad, engs, List.map_cons, List.map_nil, List.flatten_cons, List.flatten_nil, List.append_assoc]
  cases e with
  | S => exact first h
  | L => exact (skip (k := 0)).trans (first h)
  | V => exact (skip (k := 4)).trans ((skip (k := 0)).trans (first h))
  | W => exact (skip (k := 8)).trans ((skip (k := 4)).trans ((skip (k := 0)).trans (first h)))
  | M => exact (skip (k := 12)).trans ((skip (k := 8)).trans ((skip (k := 4)).trans ((skip (k := 0)).trans (first h))))
  | C =>
    exact (skip (k := 16)).trans ((skip (k := 12)).trans ((skip (k := 8)).trans ((skip (k := 4)).trans ((skip (k := 0)).trans
      (first h)))))

/-- Memory once the frame of unit `u` at `base` of its scratchpad is written. -/
def Mem.framed (m : Mem) (u base : Nat) (ps : List (Nat × List Byte)) (k14 k15 : Cap) : Mem :=
  ((writeParts (m.wipe (localKey u 1 (base + 0xA50)) 0x5B0) u (localKey u 1 base) ps).writeTag u 4 (localKey u 1 (base + 0x940))
    k14.bytes k14.tag).writeTag u 4 (localKey u 1 (base + 0x950)) k15.bytes k15.tag

theorem Mem.num_framed (m : Mem) (u base : Nat) (ps : List (Nat × List Byte)) (k14 k15 : Cap) {o n : Nat} (h : o + n ≤ 0x940) :
    (m.framed u base ps k14 k15).num (.unit u) (localKey u 1 base + o) n =
      (writeParts (m.wipe (localKey u 1 (base + 0xA50)) 0x5B0) u (localKey u 1 base) ps).num (.unit u) (localKey u 1 base +
        o) n := by
  have key : ∀ a, localKey u 1 (base + a) = localKey u 1 base + a := fun a => (Nat.add_assoc ..).symm
  rw [Mem.framed, Mem.num_writeTag_outside _ _ _ _ _ _ _ (.inl (by rw [key]; omega)),
    Mem.num_writeTag_outside _ _ _ _ _ _ _ (.inl (by rw [key]; omega))]

/-- The header of the frame reads back as it was written. -/
theorem Mem.num_frameHead (m : Mem) (s : State) (u base : Nat) (t : Trap) (k14 k15 : Cap) (len : 32 ≤ (frameHead s u t).length)
    {o n : Nat} (h : o + n ≤ 32) :
    (m.framed u base (frameParts s u t) k14 k15).num (.unit u) (localKey u 1 base + o) n = byteField (frameHead s u t) o n := by
  obtain ⟨rest, after, parts⟩ := frameParts_eq s u t
  rw [Mem.num_framed _ _ _ _ _ _ (by omega), parts, writeParts, List.foldl_cons, List.foldl_cons]
  refine (Mem.num_writeParts_before u _ rest (fun p hp => by have := after p hp; omega) _).trans ?_
  rw [Mem.write, Mem.num_writeTag_outside _ _ _ _ _ _ _ (.inl (by omega))]
  simp only [Nat.add_zero]
  exact Mem.num_writeTag_own _ _ _ _ _ _ (by omega)

/-- So do the PCs. -/
theorem Mem.num_framePcs (m : Mem) (s : State) (u base : Nat) (t : Trap) (k14 k15 : Cap) {o n : Nat} (h : o + n ≤ 64) :
    (m.framed u base (frameParts s u t) k14 k15).num (.unit u) (localKey u 1 base + 0x40 + o) n = byteField (framePcs (s.unit
      u)) o n := by
  obtain ⟨rest, after, parts⟩ := frameParts_eq s u t
  rw [Nat.add_assoc (localKey u 1 base) 0x40 o, Mem.num_framed _ _ _ _ _ _ (by omega), parts, writeParts, List.foldl_cons,
    List.foldl_cons]
  refine (Mem.num_writeParts_before u _ rest (fun p hp => by have := after p hp; omega) _).trans ?_
  rw [← Nat.add_assoc (localKey u 1 base) 0x40 o]
  exact Mem.num_writeTag_own _ _ _ _ _ _ (by rw [framePcs_length]; omega)

/-! ### The unit in its handler -/

/-- The capability of the frame that a handler gets in k15 (R433). -/
def UnitSt.frameK (U : UnitSt) : Cap := Cap.mk' 1 (permR + permW + permC) (flen U.csr.slipw) (U.csr.tframe * 4096) true

/-- The system registers after a trap, with CAUSE `c`. -/
def Csrs.trap (C : Csrs) (t : Trap) (c : Word) : Csrs :=
  { C with
    cause := c
    rcstat := if t.cause = .race then bumpRace C.rcstat else C.rcstat }

theorem Csrs.trap_cause (C : Csrs) (t : Trap) (c : Word) : (C.trap t c).cause = c := rfl
theorem Csrs.trap_mode (C : Csrs) (t : Trap) (c : Word) : (C.trap t c).mode = C.mode := rfl
theorem Csrs.trap_vecS (C : Csrs) (t : Trap) (c : Word) : (C.trap t c).vecS = C.vecS := rfl

/-- The unit as it goes to a handler at depth 1, with CAUSE `c`, before it has woken the frame's banks. -/
def UnitSt.trapped (U : UnitSt) (t : Trap) (c : Word) : UnitSt :=
  let V : UnitSt :=
    { U with
      work := { U.work.split.2 with nmFail := if t.cause = .nmerr then [] else U.work.split.2.nmFail }
      regs := U.regs.setK 15 U.frameK
      walk := { U.walk with arrived := [], fresh := [], waits := [], met := none }
      streams := U.streams.map fun e => (e.1, { e.2 with buf := [], lines := [] })
      csr := U.csr.trap t c
      trap := { U.trap with
        depth := 1, pend := none, saved := U.work.split.1, took := U.trap.took || decide (t.cause = .preempt),
          caps := U.keptCaps } }
  V.setRedir .S none

/-- The unit enters the supervisor's handler, or the user's at `vec`. -/
def UnitSt.toHandler (U : UnitSt) (super : Bool) (vec : Nat) : UnitSt :=
  if super then U.enterSuper else ({ U with csr := { U.csr with uh := true } }).setPc .S vec

theorem UnitSt.toHandler_true (U : UnitSt) (vec : Nat) : U.toHandler true vec = U.enterSuper := rfl
theorem UnitSt.toHandler_false (U : UnitSt) (vec : Nat) :
    U.toHandler false vec = ({ U with csr := { U.csr with uh := true } } : UnitSt).setPc .S vec := rfl

/-- The unit at its handler at depth 1. -/
def UnitSt.trappedIn (U : UnitSt) (t : Trap) (c : Word) : UnitSt :=
  (((U.trapped t c).wakeSpad (U.csr.tframe * 4096) (flen U.csr.slipw)).toHandler
    (decide (t.cause = .xlat ∨ t.cause = .preempt ∨ (!U.csr.vecEn) = true)) U.csr.vecU).enterKnow

theorem State.unit_withMem (s : State) (m : Mem) (u : Nat) : ({ s with mem := m } : State).unit u = s.unit u := rfl

theorem State.trapTask_kept (s0 : State) (u : Nat) (t : Trap) :
    let s := s0.trapStart u
    let U := (s.unit u).unarrive
    (s0.trapTask u t).mem = s.mem.framed u (U.csr.tframe * 4096) (frameParts (s.setUnit u U) u t) (U.regs.getK 14)
      (U.regs.getK 15) ∧
    (U.trappedIn t (BitVec.ofNat 64 (t.cause.code + t.eng * 2 ^ 11))).SameButTape ((s0.trapTask u t).unit u) ∧
    ∀ w, w ≠ u → (s.unit w).SameButTape ((s0.trapTask u t).unit w) := by
  unfold State.trapTask
  intro s U
  dsimp only
  change _ ∧ _
  rw [show ((s0.settleBanks u).roundStops u).leaveReplay u (((s0.unit u).work.gone ++ (s0.unit u).work.fl).map (·.id)) = s
    from rfl]
  generalize hX : State.setUnit _ u (UnitSt.enterKnow _) = X
  have mem : X.mem = s.mem.framed u (U.csr.tframe * 4096) (frameParts (s.setUnit u U) u t) (U.regs.getK 14) (U.regs.getK 15)
    := by
    rw [← hX, State.setUnit_mem, Mem.framed]
  have unit : X.unit u = U.trappedIn t (BitVec.ofNat 64 (t.cause.code + t.eng * 2 ^ 11)) := by
    rw [← hX, State.unit_setUnit_same]
    change _ = UnitSt.trappedIn (s.unit u).unarrive t _
    generalize (s.unit u).unarrive = U
    generalize BitVec.ofNat 64 (t.cause.code + t.eng * 2 ^ 11) = c
    unfold UnitSt.trappedIn
    by_cases super : t.cause = .xlat ∨ t.cause = .preempt ∨ (!U.csr.vecEn) = true
    · rw [if_pos super, decide_eq_true super, UnitSt.toHandler_true]
      rfl
    · rw [if_neg super, decide_eq_false super, UnitSt.toHandler_false]
      rfl
  have other : ∀ w, w ≠ u → X.unit w = s.unit w := fun w hw => by
    rw [← hX, State.unit_setUnit_other _ _ hw]
    exact State.unit_withMem ..
  clear_value s
  clear hX
  have told : ∀ (Y : State) (i : Nat), ∃ H, (match Y.task i with
      | some T => Y.setTask i { T with took := true }
      | none => Y) = { Y with hub := H } := State.noteTook_hub
  generalize (_ :: _ :: List.map _ _ : List (Nat × Nat)) = L
  obtain ⟨races, dropped⟩ := State.dropFrame_other X u (s.unit u).unarrive L
  rw [dropped]
  have kept : ∀ (Y : State), (∃ H, Y = { X with races := races, hub := H }) → Y.mem = X.mem ∧ ∀ w, Y.unit w = X.unit w := by
    rintro Y ⟨H, rfl⟩
    exact ⟨rfl, fun _ => rfl⟩
  have same : ∀ (Y : State), (∃ H, Y = { X with races := races, hub := H }) → ∀ (p : Prop) [Decidable p] (i : Nat),
      (if p then Y.abandon i 6 else Y).mem = X.mem ∧ ∀ w, (X.unit w).SameButTape ((if p then Y.abandon i 6 else Y).unit w) := by
    intro Y hY p _ i
    obtain ⟨memY, unitY⟩ := kept Y hY
    split_ifs
    · exact ⟨(State.abandon_mem ..).trans memY, fun w => unitY w ▸ State.abandon_unit ..⟩
    · exact ⟨memY, fun w => unitY w ▸ .refl _⟩
  have result : ∀ (Y : State), (∃ H, Y = { X with races := races, hub := H }) → ∀ (p : Prop) [Decidable p] (i : Nat),
      (if p then Y.abandon i 6 else Y).mem =
        s.mem.framed u (U.csr.tframe * 4096) (frameParts (s.setUnit u U) u t) (U.regs.getK 14) (U.regs.getK 15) ∧
      (U.trappedIn t (BitVec.ofNat 64 (t.cause.code + t.eng * 2 ^ 11))).SameButTape ((if p then Y.abandon i 6 else Y).unit u) ∧
      ∀ w, w ≠ u → (s.unit w).SameButTape ((if p then Y.abandon i 6 else Y).unit w) := by
    intro Y hY p _ i
    obtain ⟨memY, unitY⟩ := same Y hY p i
    exact ⟨memY.trans mem, unit ▸ unitY u, fun w hw => other w hw ▸ unitY w⟩
  refine result _ ?_ _ _
  split_ifs
  · exact told _ _
  · exact ⟨X.hub, rfl⟩

theorem Work.split_live (w : Work) : w.split.2.fl = [] := rfl

section
variable (U : UnitSt) (t : Trap) (c : Word)
theorem UnitSt.trapped_csr : (U.trapped t c).csr = U.csr.trap t c := by
  rw [UnitSt.trapped, UnitSt.setRedir_csr]
theorem UnitSt.trapped_id : (U.trapped t c).id = U.id := by
  rw [UnitSt.trapped, UnitSt.setRedir_id]
theorem UnitSt.trapped_depth : (U.trapped t c).trap.depth = 1 := rfl
theorem UnitSt.trapped_pend : (U.trapped t c).trap.pend = none := rfl
theorem UnitSt.trapped_regs : (U.trapped t c).regs = U.regs.setK 15 U.frameK := rfl
theorem UnitSt.trapped_flights : (U.trapped t c).work.fl = [] := Work.split_live U.work
theorem UnitSt.trapped_redir : (U.trapped t c).redirOf .S = none := UnitSt.redirOf_setRedir_same _ .S none
end

/-- What the unit keeps of the trap in its handler, whichever handler that is. -/
theorem UnitSt.trappedIn_fields (U : UnitSt) (t : Trap) (c : Word) : (U.trappedIn t c).csr.cause = c ∧
    (U.trappedIn t c).trap.depth = 1 ∧
    (U.trappedIn t c).trap.pend = none ∧ (U.trappedIn t c).work.fl = [] ∧ (U.trappedIn t c).redirOf .S = none ∧
    (∀ n, (U.trappedIn t c).regs.getX n = U.regs.getX n) ∧
    (U.trappedIn t c).regs.getK 15 = U.frameK ∧
    (if t.cause = .xlat ∨ t.cause = .preempt ∨ U.csr.vecEn = false then
        (U.trappedIn t c).csr.mode = true ∧ (U.trappedIn t c).csr.uh = false ∧ (U.trappedIn t c).pcOf .S = U.csr.vecS ∧
          (U.trappedIn t c).regs.getK 14 = U.id.superCap
      else (U.trappedIn t c).csr.uh = true ∧ (U.trappedIn t c).csr.mode = U.csr.mode ∧ (U.trappedIn t c).pcOf .S = U.csr.vecU ∧
        (U.trappedIn t c).regs.getK 14 = U.regs.getK 14) := by
  have woken := UnitSt.core_eq_iff.1 ((U.trapped t c).wakeSpad_core (U.csr.tframe * 4096) (flen U.csr.slipw))
  unfold UnitSt.trappedIn
  generalize (U.trapped t c).wakeSpad (U.csr.tframe * 4096) (flen U.csr.slipw) = W at woken ⊢
  obtain ⟨regs, csr, walk, id, trap, work⟩ := woken
  have redir : SMap.get none W.walk.redir Eng.S.code = none := by
    rw [walk]
    exact U.trapped_redir t c
  have k15 : W.regs.getK 15 = U.frameK := by
    rw [regs, UnitSt.trapped_regs]
    exact SMap.get_set_same ..
  have k14 : W.regs.getK 14 = U.regs.getK 14 := by
    rw [regs, UnitSt.trapped_regs]
    exact (Regs.getK_setK U.regs 15 14 _).trans (if_neg (by decide))
  have getX : ∀ n, W.regs.getX n = U.regs.getX n := fun n => by
    rw [regs, UnitSt.trapped_regs, Regs.getX_setK]
  have cause : W.csr.cause = c := by
    rw [csr, UnitSt.trapped_csr, Csrs.trap_cause]
  have mode : W.csr.mode = U.csr.mode := by
    rw [csr, UnitSt.trapped_csr, Csrs.trap_mode]
  have vecS : W.csr.vecS = U.csr.vecS := by
    rw [csr, UnitSt.trapped_csr, Csrs.trap_vecS]
  have superCap : W.id.superCap = U.id.superCap := by
    rw [id, UnitSt.trapped_id]
  have depth : W.trap.depth = 1 := by
    rw [trap, UnitSt.trapped_depth]
  have pend : W.trap.pend = none := by
    rw [trap, UnitSt.trapped_pend]
  have flights : W.work.fl = [] := by
    rw [work]
    exact U.trapped_flights t c
  obtain ⟨regsK, csrK, walkK, -, trapK, workK⟩ := UnitSt.core_eq_iff.1
    (W.toHandler (decide (t.cause = .xlat ∨ t.cause = .preempt ∨ (!U.csr.vecEn) = true)) U.csr.vecU).enterKnow_core
  simp only [UnitSt.redirOf, UnitSt.pcOf]
  rw [regsK, csrK, walkK, trapK, workK]
  have iffs : (t.cause = .xlat ∨ t.cause = .preempt ∨ (!U.csr.vecEn) = true) ↔
      (t.cause = .xlat ∨ t.cause = .preempt ∨ U.csr.vecEn = false) := by rw [Bool.not_eq_true']
  by_cases super : t.cause = .xlat ∨ t.cause = .preempt ∨ U.csr.vecEn = false
  · rw [decide_eq_true (iffs.2 super), UnitSt.toHandler_true, if_pos super]
    refine ⟨cause, depth, pend, flights, redir, getX, ?_, rfl, rfl, ?_, ?_⟩
    · exact ((Regs.getK_setK W.regs 14 15 _).trans (if_neg (by decide))).trans k15
    · exact (SMap.get_set_same ..).trans vecS
    · exact (SMap.get_set_same ..).trans superCap
  · rw [decide_eq_false (fun h => super (iffs.1 h)), UnitSt.toHandler_false, if_neg super]
    exact ⟨cause, depth, pend, flights, redir, getX, k15, rfl, mode, SMap.get_set_same .., k14⟩

theorem Cause.code_lt (c : Cause) : c.code < 64 := by
  cases c <;> decide

/-- Settles O27: the frame and the handler of a trap taken in task code. -/
theorem trapEntryFromTaskCode : Obligations.TrapEntryFromTaskCode := by
  unfold Obligations.TrapEntryFromTaskCode
  intro s u t depth heng h0 h1 arrived passes settled s1 V k
  have code : t.cause.code + t.eng * 2 ^ 11 < 2 ^ 64 := by
    have := Cause.code_lt t.cause
    omega
  have taken : s1 = s.trapTask u t := State.takeTrap_task depth
  obtain ⟨mem, unit, other⟩ := s.trapTask_kept u t
  rw [← taken] at mem unit other
  have calm0 := State.trapStart_calm settled
  obtain ⟨-, -, ⟨-, passes0, arrived0⟩, -⟩ := UnitSt.of_calm calm0
  have calm := (UnitSt.unarrive_calm (passes0.trans passes) (arrived0.trans arrived)).trans calm0
  generalize ((s.trapStart u).unit u).unarrive = U at mem unit calm
  obtain ⟨regs, ⟨-, mode, tframe, vecEn, vecU, vecS, slipw⟩, ⟨pc, -, -⟩, id, -⟩ := UnitSt.of_calm calm
  have pcOf : ∀ e : Eng, U.pcOf e = (s.unit u).pcOf e := fun e => congrArg (fun m : SMap Nat => SMap.get 0 m e.code) pc
  obtain ⟨long, cause0, info0, info1, time0⟩ := frameHead_fields ((s.trapStart u).setUnit u U) u (t := t) code h0 h1
  obtain ⟨hcause, hdepth, hpend, hfl, hredir, hx, hk15, hsuper⟩ :=
    U.trappedIn_fields t (BitVec.ofNat 64 (t.cause.code + t.eng * 2 ^ 11))
  have base : k = localKey u 1 (U.csr.tframe * 4096) := by rw [tframe]; rfl
  have head : ∀ o n, o + n ≤ 32 →
    s1.mem.num (.unit u) (k + o) n = byteField (frameHead ((s.trapStart u).setUnit u U) u t) o n :=
    fun o n h => by
      rw [mem, base]
      exact Mem.num_frameHead _ _ _ _ _ _ _ long h
  have time : ((s.trapStart u).setUnit u U).time = s.time := by rw [State.setUnit_time, State.trapStart_time]
  have first := head 0 8 (by omega)
  rw [Nat.add_zero] at first
  obtain ⟨T, hT⟩ := unit
  have hV : V = { U.trappedIn t (BitVec.ofNat 64 (t.cause.code + t.eng * 2 ^ 11)) with tape := T } := hT
  rw [hV]
  rw [UnitSt.frameK, tframe, slipw] at hk15
  rw [vecEn, vecS, vecU, mode, id, regs] at hsuper
  refine ⟨hcause, hdepth, hpend, hfl, hredir, hsuper, hk15, ?_, ?_, ?_, ?_, fun e he => ?_,
    fun n => (hx n).trans (by rw [regs]),
    fun w hw => ?_⟩
  · exact first.trans cause0
  · exact (head 8 8 (by omega)).trans info0
  · exact (head 16 8 (by omega)).trans info1
  · exact (head 24 8 (by omega)).trans (time0.trans (by rw [time]))
  · have unitU : ((s.trapStart u).setUnit u U).unit u = U := State.unit_setUnit_same ..
    rw [mem, base, Mem.num_framePcs _ _ _ _ _ _ _ (by cases e <;> decide), unitU, framePcs_field ((pcOf e).trans_lt he), pcOf]
  · exact (other w hw).regs.trans (State.trapStart_regs hw)

end Sys2Proof.Machine
end


section
/-! O29. RETI (R442): what the frame gives back. -/
namespace Sys2Proof.Machine

/-- Registers `k`, …, `k + n - 1` written in turn. -/
def Regs.setRun (r : Regs) (k : Nat) (f : Nat →
    Word) (n : Nat) : Regs := (List.range n).foldl (fun r i => Regs.setX r (k + i) (f i)) r

theorem Regs.getX_setRun (r : Regs) {k : Nat} (hk : 0 < k) (f : Nat → Word) (n m : Nat) :
    (r.setRun k f n).getX m = if k ≤ m ∧ m < k + n then f (m - k) else r.getX m := by
  induction n with
  | zero => exact (if_neg (by omega)).symm
  | succ n ih =>
    rw [Regs.setRun, List.range_succ, List.foldl_append, List.foldl_cons, List.foldl_nil, Regs.getX_setX]
    by_cases last : m = k + n
    · rw [if_pos ⟨last, by omega⟩, if_pos (by omega), last, Nat.add_sub_cancel_left]
    · rw [if_neg (fun h => last h.1)]
      refine ih.trans ?_
      by_cases inside : k ≤ m ∧ m < k + n
      · rw [if_pos inside, if_pos (by omega)]
      · rw [if_neg inside, if_neg (by omega)]

theorem Regs.getX_setRun_inside (r : Regs) {k : Nat} (hk : 0 < k) (f : Nat → Word) {n i : Nat} (hi : i < n) :
    (r.setRun k f n).getX (k + i) = f i := by
  rw [Regs.getX_setRun r hk, if_pos (by omega), Nat.add_sub_cancel_left]

/-! ### The parts of the frame -/

/-- The six PCs that the frame holds, as the walking state has them. -/
theorem State.frameWalk_pc (s : State) (u : Nat) (e : Eng) :
    SMap.get 0 (s.frameWalk u).pc e.code = s.frameNum u (0x40 + 4 * e.code) 4 := by
  simp only [State.frameWalk, engs, List.foldl_cons, List.foldl_nil]
  cases e <;> simp [SMap.get_set, Eng.code]

theorem State.frameEntry_kept (s : State) (u o : Nat) (f : Flight) : (s.frameEntry u o f).id = f.id ∧
    (s.frameEntry u o f).eng = f.eng :=
  ⟨rfl, rfl⟩

/-- Every word that RETI re-injects is one of the saved words. -/
theorem State.frameReplay_saved (s : State) (u : Nat) : ∀ f ∈ (s.frameReplay u).fl, ∃ g ∈ (s.unit u).trap.saved.fl,
    f.id = g.id ∧ f.eng = g.eng := by
  intro f hf
  have flights : (s.frameReplay u).fl = (engs.map fun e =>
      let mine := (s.unit u).trap.saved.fl.filter fun f => f.eng == e
      let n := s.frameNum u (0x28 + e.code) 1
      ((mine.take n).zip (List.range n)).map fun q => s.frameEntry u (0x1000 + e.code * 0x800 + 64 * q.2) q.1).flatten := by
    unfold State.frameReplay
    dsimp only
    split_ifs <;> rfl
  rw [flights] at hf
  obtain ⟨l, hl, hfl⟩ := List.mem_flatten.1 hf
  obtain ⟨e, -, rfl⟩ := List.mem_map.1 hl
  obtain ⟨q, hq, rfl⟩ := List.mem_map.1 hfl
  have saved := List.mem_of_mem_filter (List.mem_of_mem_take (List.of_mem_zip hq).1)
  exact ⟨q.1, saved, State.frameEntry_kept ..⟩

theorem UnitSt.afterHandler_core (U : UnitSt) : U.afterHandler.core = U.core := by
  unfold UnitSt.afterHandler UnitSt.learnAll
  split_ifs
  · rfl
  · exact foldl_keeps UnitSt.core (fun V e => V.learn_core e _) _ U

theorem State.waitAgain_mem (s : State) (u : Nat) (w : Work) : (s.waitAgain u w).mem = s.mem := by
  unfold State.waitAgain
  dsimp only
  split_ifs <;> rfl

/-! ### RETI -/

/-- The registers from x24 on that a part of the frame at `o` holds. -/
def State.savedX (s : State) (u o i : Nat) : Word := BitVec.ofNat 64 (s.frameNum u (o + 8 * i) 8)

/-- The unit that RETI at depth 1 leaves, but for what its engines then know. -/
def State.returned (s : State) (u : Nat) : UnitSt :=
  let U := s.unit u
  let regs0 := U.regs.setRun 24 (s.savedX u 0x900) 8
  let streams := (List.range 16).foldl (fun m i =>
    let t := SMap.get Stream.reset m i
    if t.mode = .idle then m
    else
      let pc := s.frameNum u (0x600 + 32 * i) 8
      SMap.set Stream.reset m i { t with pc := pc, ps := pc, buf := [], lines := [] }) U.streams
  let tape := { U.tape with pos := others.foldl (fun m e => SMap.set 0 m e.code (s.frameNum u (0xD0 + 4 * (e.code - 1)) 4)) [] }
  { U with
    regs := (regs0.setK 14 (s.frameCap u 0x940)).setK 15 (s.frameCap u 0x950)
    csr := { U.csr with uh := false, mode := false }
    walk := s.frameWalk u
    work := Work.join (s.frameReplay u) U.work
    streams := streams
    tape := if U.tape.run = 2 then tape else U.tape
    trap := { U.trap with depth := 0, saved := Work.reset, caps := [] } }

theorem State.retiTask_eq (s : State) (u : Nat) :
    s.retiTask u = (s.waitAgain u (s.frameReplay u)).setUnit u (s.returned u).afterHandler := rfl

theorem State.returned_regs (s : State) (u : Nat) : (s.returned u).regs =
    (((s.unit u).regs.setRun 24 (s.savedX u 0x900) 8).setK 14 (s.frameCap u 0x940)).setK 15 (s.frameCap u 0x950) := rfl

theorem State.retiTask_unit (s : State) (u : Nat) : ((s.retiTask u).unit u).core = (s.returned u).core := by
  rw [State.retiTask_eq, State.unit_setUnit_same, UnitSt.afterHandler_core]

/-- The unit that RETI at depth 2 leaves in the interrupted handler. -/
def State.returnedNested (s : State) (u : Nat) : UnitSt :=
  let U := s.unit u
  let super := s.frameNum u 0x98C 1 = 1
  let regs0 := U.regs.setRun 24 (s.savedX u 0x9A0) 8
  let U1 : UnitSt :=
    { U with
      regs := regs0.setK 14 (s.frameCap u 0x9E0)
      csr := { U.csr with cause := BitVec.ofNat 64 (s.frameNum u 0x980 8) &&& 0xF8FF, mode := super, uh := !super }
      trap := { U.trap with depth := 1 } }
  (U1.setRedir .S U.trap.hredir).setPc .S (s.frameNum u 0x988 4)

theorem State.returnedNested_regs (s : State) (u : Nat) : (s.returnedNested u).regs =
    ((s.unit u).regs.setRun 24 (s.savedX u 0x9A0) 8).setK 14 (s.frameCap u 0x9E0) := rfl

theorem State.retiNested_unit (s : State) (u : Nat) : (s.retiNested u).unit u = s.returnedNested u := by
  unfold State.retiNested
  dsimp only
  generalize hX : State.setUnit _ u _ = X
  have unit : X.unit u = s.returnedNested u := by
    rw [← hX]
    exact State.unit_setUnit_same ..
  clear hX
  obtain ⟨r, hr⟩ := State.dropFrame_other X u (s.unit u) [(0x26, 2)]
  rw [hr]
  exact unit

section
variable {s : State} {u : Nat} {r : PassRec} {tk : Tok} (h : SReady s u r tk none []) (idle : (s.swordCheck.unit u).sIdle)
include h idle

theorem exec_reti : exec (.reti tk) s = s.swordCheck.settle u .S r tk ⟨none, []⟩
    (if !(s.swordCheck.unit u).inHandler then r.trapHere .und
    else if !s.swordCheck.frameOk u then r.trapHere .und
    else if (s.swordCheck.unit u).trap.depth = 2 then .jump ((s.swordCheck.retiNested u).heldRequest u)
    else .jump (((s.swordCheck.retiTask u).heldRequest u).afterReti u)) := by
  have who : s.swordCheck.who = (u, .S) := h.who
  change execReti tk s = _
  rw [execReti, State.sSerial_of_ready h idle]
  dsimp only
  rw [who]

theorem exec_reti_refused (bad : (s.swordCheck.unit u).inHandler = false ∨ s.swordCheck.frameOk u = false) :
    exec (.reti tk) s = .next (s.swordCheck.takeTrap u ⟨.und, 0, r.addr, r.hdr⟩) := by
  rw [exec_reti h idle]
  by_cases inside : (s.swordCheck.unit u).inHandler = false
  · rw [inside]
    rfl
  · rw [Bool.eq_true_of_not_eq_false inside, bad.resolve_left inside]
    rfl

end

/-- Settles O29: RETI is refused or gives back what the frame holds. -/
theorem retiRestoresTheFrame : Obligations.RetiRestoresTheFrame := by
  unfold Obligations.RetiRestoresTheFrame
  intro tk s u r h s0 U idle
  refine ⟨fun outside => exec_reti_refused h idle (.inl outside), fun _ bad => exec_reti_refused h idle (.inr bad),
    fun inside ok depth => ⟨?_, ?task⟩, fun inside ok depth => ⟨?_, ?nested⟩⟩
  case task =>
    obtain ⟨regs, csr, walk, -, trap, work⟩ := UnitSt.core_eq_iff.1 (s0.retiTask_unit u)
    intro V
    refine ⟨?_, ?_, ?_, fun i hi => ?_, fun n hn => ?_, ?_, ?_, fun e => ?_, ?_, s0.frameReplay_saved u, ?_⟩
    · rw [csr]
      rfl
    · rw [csr]
      rfl
    · rw [trap]
      rfl
    · rw [regs, State.returned_regs, Regs.getX_setK, Regs.getX_setK, Regs.getX_setRun_inside _ (by decide) _ hi, State.savedX]
    · rw [regs, State.returned_regs, Regs.getX_setK, Regs.getX_setK, Regs.getX_setRun _ (by decide), if_neg (by omega)]
    · rw [regs, State.returned_regs, Regs.getK_setK, if_neg (by decide), Regs.getK_setK, if_pos rfl]
    · rw [regs, State.returned_regs, Regs.getK_setK, if_pos rfl]
    · exact (congrArg (fun W : Walk => SMap.get 0 W.pc e.code) walk).trans (s0.frameWalk_pc u e)
    · rw [work]
      rfl
    · rw [State.retiTask_eq, State.setUnit_mem, State.waitAgain_mem]
  case nested =>
    intro V
    rw [show V = s0.returnedNested u from s0.retiNested_unit u]
    have regs := s0.returnedNested_regs u
    refine ⟨rfl, rfl, rfl, rfl, UnitSt.pcOf_setPc_same .., ?_, fun i hi => ?_⟩
    · rw [regs, Regs.getK_setK, if_pos rfl]
    · rw [regs, Regs.getX_setK, Regs.getX_setRun_inside _ (by decide) _ hi, State.savedX]
  · rw [exec_reti h idle, inside, ok, if_neg (by decide), if_neg (by decide),
      if_neg (fun nested => absurd (depth.symm.trans nested) (by decide))]
    rfl
  · rw [exec_reti h idle, inside, ok, if_neg (by decide), if_neg (by decide), if_pos depth]
    rfl

end Sys2Proof.Machine
end


section
/-! O30.  CTXSAVE settles the falls that are due before it looks at its operands.  A fall of a scratchpad bank lets words of
  V retire; where
such a word carries a write of an x register that S reads, and an older word of another engine one of the same register,
  S reads another
value once the word of V has retired, and the trap's INFO0 is that value. -/
namespace Sys2Proof.Machine

/-- INFO0 of a trap in task code reads back from the frame, whatever else the trap changes. -/
theorem State.trapTask_info0 (s : State) (u : Nat) {t : Trap} (code : t.cause.code + t.eng * 2 ^ 11 < 2 ^ 64) (h0 : t.info0 <
    2 ^ 64)
    (h1 : t.info1 < 2 ^ 64) : (s.trapTask u t).mem.num (.unit u)
      (localKey u 1 (((s.trapStart u).unit u).unarrive.csr.tframe * 4096) + 8) 8 = t.info0 := by
  obtain ⟨mem, -, -⟩ := s.trapTask_kept u t
  obtain ⟨long, -, info0, -,
    -⟩ := frameHead_fields ((s.trapStart u).setUnit u ((s.trapStart u).unit u).unarrive) u (t := t) code h0 h1
  rw [mem]
  exact (Mem.num_frameHead _ _ _ _ _ _ _ long (by decide)).trans info0

/-- A word of engine `e` with number `n` that is done and writes `v` to x5. -/
def strayWrite (n : Nat) (e : Eng) (v : Word) : Flight := ⟨n, e, 0, 0, 0, .done, none, false, [.x 5 v], [], [], [], [], [],
    0, [], []⟩

/-- Unit 0 in user mode at a CTXSAVE through k2 at offset x5,
  with a stray word of L and a later one of V in flight and a fall of scratchpad bank 0 due. -/
def strayState : State :=
  let U : UnitSt :=
    { UnitSt.reset with
      run := .running, work := { Work.reset with fl := [strayWrite 0 .L 9, strayWrite 1 .V 7], nextId := 2 }, sb := [(0,
        ⟨.full, .full, true, 0⟩)]
      walk := { Walk.reset with text := [(0, BitVec.ofNat 32 ((encode (.ctxsave .none 2 5)).headD 0))], textLen := 1 } }
  { State.reset.setUnit 0 U with agenda := [], who := (0, .S) }

/-- The record of that CTXSAVE. -/
def strayRec : PassRec := strayState.swordCheck.hereS 0

theorem stray_ready : SReady strayState 0 strayRec .none none [32 + 2, 5] where
  who := by decide +kernel
  unit := by decide +kernel
  runs := by decide +kernel
  here := by decide +kernel
  handler := by decide +kernel
  free := by decide +kernel
  token := by decide +kernel
  wait := by decide +kernel
  room := by decide +kernel
  slip := by decide +kernel
  regs := by decide +kernel
  guard := by decide +kernel

theorem stray_idle : (strayState.swordCheck.unit 0).sIdle := by decide +kernel

theorem exec_stray : exec (.ctxsave .none 2 5) strayState =
    .next (strayState.swordCheck.takeTrap 0 ⟨.kperm, 0, 9, capInfo 2 ctxLen strayRec.addr⟩) := by
  have who : strayState.swordCheck.who = (0, .S) := by decide +kernel
  have user : ((strayState.swordCheck.fallsDue 0).unit 0).csr.mode = false := by decide +kernel
  have value : (((strayState.swordCheck.fallsDue 0).unit 0).xS 5).toNat = 9 := by decide +kernel
  change execCtxsave .none 2 5 strayState = _
  rw [execCtxsave, State.sSerial_of_ready stray_ready stray_idle]
  unfold State.ctxIssue
  dsimp only
  rw [who, if_pos rfl, user, value]
  rfl

/-- Refutes O30: CTXSAVE in user mode with a fall due reports as INFO0 the x5 of the older word, 9,
  not the 7 that S reads while the
word of V is in flight. -/
theorem not_contextsMoveAndParkedTasksComeBack : ¬ Obligations.ContextsMoveAndParkedTasksComeBack := by
  unfold Obligations.ContextsMoveAndParkedTasksComeBack
  intro h
  obtain ⟨user, -⟩ := h.1 .none 2 5 strayState 0 strayRec stray_ready stray_idle
  obtain ⟨claimed, -⟩ := user (by decide +kernel)
  have value : ((strayState.swordCheck.unit 0).xS 5).toNat = 7 := by decide +kernel
  have depth : (strayState.swordCheck.unit 0).trap.depth = 0 := by decide +kernel
  rw [exec_stray, value] at claimed
  have same := congrArg State.mem (Host.Outcome.next.inj claimed)
  have info : capInfo 2 ctxLen strayRec.addr < 2 ^ 64 := by decide +kernel
  rw [State.takeTrap_task depth, State.takeTrap_task depth] at same
  have nine := strayState.swordCheck.trapTask_info0 0 (t := ⟨.kperm, 0, 9,
    capInfo 2 ctxLen strayRec.addr⟩) (by decide) (by decide) info
  have seven := strayState.swordCheck.trapTask_info0 0 (t := ⟨.kperm, 0, 7,
    capInfo 2 ctxLen strayRec.addr⟩) (by decide) (by decide) info
  rw [same, seven] at nine
  exact absurd nine (by decide)

end Sys2Proof.Machine
end


section
/-! O25. CSRW (R452) and what it sets in motion (R352, R432, R447). -/
namespace Sys2Proof.Machine

/-! ### The word -/

section
variable {s : State} {u : Nat} {r : PassRec} {tk : Tok} {d : Nat}

theorem execCsrw_of_ready (csr : Nat) (h : SReady s u r tk none [d]) (idle : (s.swordCheck.unit u).sIdle) :
    let s0 := s.swordCheck
    let U := s0.unit u
    let v := (U.xS d).toNat
    let f := s0.flight u .S r tk
    (U.csr.mode = false → U.rwsChange csr v = true →
      ∃ i0 i1, execCsrw tk d csr s = .next (s0.takeTrap u ⟨.kperm, 0, i0, i1⟩)) ∧
    (¬ (U.csr.mode = false ∧ U.rwsChange csr v = true) →
      (csr = 0x002 → frameTooLong (fld v 12 8) U.csr.slipw = false) →
      (csr = 0x010 → frameTooLong U.csr.tframe (clampSlip (fld v 0 13)) = false) →
      (U.postRoom f = true → execCsrw tk d csr s = .next ((s0.csrWrite u csr v).leaves u .S r tk f)) ∧
      (U.postRoom f = false →
        execCsrw tk d csr s = .next (s0.leaves u .S r tk { f with eff := [.csrw csr v, .csract csr v] }))) := by
  intro s0 U v f
  have who : s0.who = (u, .S) := h.who
  have run : execCsrw tk d csr s = s0.settle u .S r tk ⟨none, []⟩ (if (!U.csr.mode) = true ∧ U.rwsChange csr v = true then
        .trap .kperm (Config.freeNat s0.tick 820 % 2 ^ 64) (Config.freeNat s0.tick 821 % 2 ^ 16 + r.addr % 65536 * 2 ^ 32)
      else if csr = 0x002 ∧ frameTooLong (fld v 12 8) U.csr.slipw = true then r.trapHere .und
      else if csr = 0x010 ∧ frameTooLong U.csr.tframe (clampSlip (fld v 0 13)) = true then r.trapHere .und
      else if U.postRoom f = true then .go (s0.csrWrite u csr v) f
      else .go s0 { f with eff := [.csrw csr v, .csract csr v] }) := by
    rw [execCsrw, State.sSerial_of_ready h idle]
    dsimp only
    rw [who]
  rw [run]
  refine ⟨fun user change => ⟨Config.freeNat s0.tick 820 % 2 ^ 64,
    Config.freeNat s0.tick 821 % 2 ^ 16 + r.addr % 65536 * 2 ^ 32, ?_⟩, fun allowed frame slip => ⟨fun room => ?_,
      fun full => ?_⟩⟩
  · rw [if_pos ⟨by rw [user]; rfl, change⟩]
    rfl
  · rw [if_neg (by simpa using allowed), if_neg (by simpa using frame), if_neg (by simpa using slip), if_pos room]
    rfl
  · rw [if_neg (by simpa using allowed), if_neg (by simpa using frame), if_neg (by simpa using slip), if_neg (by simp [full])]
    rfl

end

/-! ### What a write leaves in a register -/

section
variable (s : State) (u v : Nat)

/-- A register whose write only holds a value. -/
theorem State.csrWrite_plain {csr : Nat} (h0 : csr ≠ 0x000) (h1 : csr ≠ 0x070) :
    s.csrWrite u csr v = s.setUnit u ((s.unit u).csrSet csr v) := by
  unfold State.csrWrite State.csrActs
  split
  · contradiction
  · contradiction
  · rfl

theorem State.csr_csrWrite {csr : Nat} (h0 : csr ≠ 0x000) (h1 : csr ≠ 0x070) (n : Nat) :
    (s.csrWrite u csr v).csr u n = (s.setUnit u ((s.unit u).csrSet csr v)).csr u n := by
  rw [State.csrWrite_plain s u v h0 h1]

end

theorem fld_pair {a b : Nat} (h : a < 2 ^ 32) : fld (a + b * 2 ^ 32) 0 32 = a := by
  unfold fld
  omega

theorem vstat_write_bit (old : Word) (v i : Nat) (hi : i < 16) :
    (((old &&& ~~~(BitVec.ofNat 64 v &&& vstatFlags) &&& ~~~(0x8000 : Word)) ||| (BitVec.ofNat 64 v &&&
      0x8000)).toNat).testBit i =
      ((old.getLsbD i && !(v.testBit i && vstatFlags.getLsbD i) && !(decide (i = 15))) || (v.testBit i && decide (i = 15)))
        := by
  have top : (0x8000 : Word).getLsbD i = decide (i = 15) := by
    interval_cases i <;> rfl
  rw [BitVec.testBit_toNat]
  simp only [BitVec.getLsbD_or, BitVec.getLsbD_and, BitVec.getLsbD_not, BitVec.getLsbD_ofNat, top]
  simp [show i < 64 by omega]

/-! ### What a write leaves in the other registers -/

/-- A unit with other system registers. -/
def UnitSt.withCsr (U : UnitSt) (c : Csrs) : UnitSt := { U with csr := c }

section
variable (U : UnitSt) (c : Csrs)

theorem UnitSt.setBank_withCsr (k b : Nat) (B : Bank) : (U.withCsr c).setBank k b B = (U.setBank k b B).withCsr c := by
  unfold UnitSt.setBank
  split_ifs <;> rfl

theorem UnitSt.afterFalls_withCsr : (U.withCsr c).afterFalls = U.afterFalls.withCsr c := by
  refine congrArg UnitSt.fixDup (List.foldl_hom (fun V : UnitSt => V.withCsr c) fun (V : UnitSt) (q : Nat × Nat) => ?_)
  rw [show (U.withCsr c).fallDue q.1 q.2 = U.fallDue q.1 q.2 from rfl]
  split_ifs
  · exact UnitSt.setBank_withCsr V c q.1 q.2 (V.bank q.1 q.2).fallNow
  · rfl

end

/-- The numbers of the system registers (R58). -/
def csrNumbers : List Nat := [0x000, 0x001, 0x002, 0x003, 0x004, 0x010, 0x011, 0x012, 0x020, 0x021, 0x030, 0x031, 0x040,
    0x041, 0x042,
  0x050, 0x060, 0x070, 0x071, 0x080]

theorem State.csr_other (s : State) (u : Nat) {n : Nat} (h : n ∉ csrNumbers) : s.csr u n = 0 := by
  unfold State.csr
  dsimp only
  split
  case h_21 => rfl
  all_goals exact absurd (by decide) h

/-- System registers with other values of SLIPW, TFRAME and TOKWD. -/
def Csrs.held (C : Csrs) (slip frame tok : Nat) : Csrs := { C with slipw := slip, tframe := frame, tokwd := tok }

/-- A change of SLIPW, TFRAME and TOKWD alone shows in no other register. -/
theorem State.csr_withCsr {s t : State} {u : Nat} {slip frame tok n : Nat} (hslip : n = 0x010 → slip = (s.unit u).csr.slipw)
    (hframe : n = 0x002 → frame = (s.unit u).csr.tframe) (htok : n = 0x012 → tok = (s.unit u).csr.tokwd)
    (unit : t.unit u = (s.unit u).withCsr ((s.unit u).csr.held slip frame tok))
    (op : t.opstate u = s.opstate u) (time : t.time = s.time) : t.csr u n = s.csr u n := by
  by_cases known : n ∈ csrNumbers
  · simp only [csrNumbers, List.mem_cons, List.not_mem_nil, or_false] at known
    rcases known with rfl | rfl | rfl | rfl | rfl | rfl | rfl | rfl | rfl | rfl | rfl | rfl | rfl | rfl | rfl | rfl | rfl |
      rfl | rfl | rfl
    all_goals simp only [State.csr, unit, op, time, UnitSt.afterFalls_withCsr]
    · rfl
    · rfl
    · exact congrArg (· * 4096) (hframe rfl)
    · rfl
    · rfl
    · exact hslip rfl
    · rfl
    · exact htok rfl
    all_goals rfl
  · rw [State.csr_other _ u known, State.csr_other _ u known]

/-! ### What a write sets in motion -/

section
variable (s : State) (u v : Nat)

theorem State.csrWrite_status : s.csrWrite u 0x000 v =
    if fld v 4 1 = 1 then (s.setUnit u (s.unit u)).abortTask u else if fld v 5 1 = 1 then (s.setUnit u (s.unit u)).parkUnit u
    else s.setUnit u (s.unit u) := rfl

theorem State.parkUnit_unit : ((s.parkUnit u).unit u).run = .parked ∧ ((s.parkUnit u).unit u).csr.preq = false := by
  rw [State.parkUnit, State.unit_setUnit_same]
  exact ⟨rfl, rfl⟩

theorem State.abortTask_unit : ((s.abortTask u).unit u).run = .halted := by
  obtain h | h := State.failTask_unit (s.setUnit u (s.unit u).halt) (s.unit u).id.task stFault u
  · rw [State.abortTask, h, State.unit_setUnit_same]
    rfl
  · rw [State.abortTask, h]
    rfl

theorem State.abortTask_task {T : Task} (h : s.task (s.unit u).id.task = some T) (open_ : T.status = 0) :
    ∃ T1, (s.abortTask u).task (s.unit u).id.task = some T1 ∧ T1.status = stFault :=
  ⟨_, State.failTask_task h, if_pos open_⟩

theorem State.norec_norec : ((s.norec u).unit u).csr.norec = true := by
  have set : ((s.setUnit u { s.unit u with csr := { (s.unit u).csr with norec := true } }).unit u).csr.norec = true := by
    rw [State.unit_setUnit_same]
  unfold State.norec
  dsimp only
  split_ifs
  · obtain ⟨T, h⟩ := State.abandon_unit (s.setUnit u { s.unit u with csr := { (s.unit u).csr with norec := true } }) (s.unit
      u).id.task 7 u
    rw [h]
    exact set
  · exact set

theorem State.csrWrite_norec (drop : fld v 16 1 = 0) (norec : fld v 17 1 = 1) : ((s.csrWrite u 0x070 v).unit u).csr.norec =
    true := by
  have acts : s.csrWrite u 0x070 v = (s.setUnit u ((s.unit u).csrSet 0x070 v)).norec u := by
    rw [State.csrWrite, State.csrActs]
    rw [if_pos norec, if_neg (by simp [drop])]
  rw [acts]
  exact State.norec_norec ..

end

theorem State.lateActs_one {s : State} {u : Nat} {U : UnitSt} {csr v : Nat} (one : s.units = [(u,
    U)]) (runs : s.stands u = false)
    (late : U.work.late = [.csract csr v]) :
    s.lateActs = (s.setUnit u { U with work := { U.work with late := [] } }).csrActs u csr v := by
  have unit : s.unit u = U := by
    rw [State.unit, one]
    exact if_pos rfl
  rw [State.lateActs, one, List.foldl_cons, List.foldl_nil]
  dsimp only
  rw [unit, if_neg (by simp [late, runs]), late]
  rfl

theorem State.runs_of_swordCheck {s : State} {u : Nat} (who : s.who.1 = u) (h : s.swordCheck.runs u = true) : s.runs u = true
    := by
  unfold State.swordCheck at h
  dsimp only at h
  split_ifs at h with c
  · exact who ▸ c.2.2.2
  · exact h

/-- The step that sets a bit of STATUS or TAPECTL is the CSRW that stands before S. -/
theorem State.csrStep_of_here {s : State} {u csr bits d : Nat} {tk : Tok} {r : PassRec} (h : SReady { s with who := (u, .S) }
    u r tk none [d])
    (here : s.csrwHere u csr bits = some (tk, d)) : s.csrStep u csr bits = execCsrw tk d csr { s with who := (u, .S) } := by
  have runs : s.runs u = true := State.runs_of_swordCheck (s := { s with who := (u, .S) }) rfl h.runs
  rw [State.csrStep, if_neg (Nat.not_le.2 h.unit), here]
  exact if_pos runs

/-- What a write leaves in the registers that only hold a value. -/
theorem State.csrWrite_values (s : State) (u v : Nat) :
    (s.csrWrite u 0x010 v).csr u 0x010 = min 4096 (max 16 (fld v 0 13)) ∧
      (s.csrWrite u 0x002 v).csr u 0x002 = fld v 12 8 * 4096 ∧
    (s.csrWrite u 0x012 v).csr u 0x012 = max 256 (fld v 0 32) ∧ (s.csrWrite u 0x004 v).csr u 0x004 = fld v 0 10 ∧
    (s.csrWrite u 0x003 v).csr u 0x003 = fld v 0 14 + fld v 31 1 * 2 ^ 31 ∧
    fld ((s.csrWrite u 0x011 v).csr u 0x011) 0 32 = min 65536 (max 256 (fld v 0 17)) := by
  refine ⟨?_, ?_, ?_, ?_, ?_, ?_⟩
  · rw [State.csr_csrWrite s u v (by decide) (by decide)]
    simp only [State.csr, State.unit_setUnit_same, UnitSt.csrSet, clampSlip]
  · rw [State.csr_csrWrite s u v (by decide) (by decide)]
    simp only [State.csr, State.unit_setUnit_same, UnitSt.csrSet]
  · rw [State.csr_csrWrite s u v (by decide) (by decide)]
    simp only [State.csr, State.unit_setUnit_same, UnitSt.csrSet]
  · rw [State.csr_csrWrite s u v (by decide) (by decide)]
    simp only [State.csr, State.unit_setUnit_same, UnitSt.csrSet]
  · rw [State.csr_csrWrite s u v (by decide) (by decide)]
    simp only [State.csr, State.unit_setUnit_same, UnitSt.csrSet, decide_eq_true_eq]
    have bit : fld v 31 1 < 2 := Nat.mod_lt _ (by decide)
    split_ifs with on
    · omega
    · omega
  · rw [State.csr_csrWrite s u v (by decide) (by decide)]
    simp only [State.csr, State.unit_setUnit_same, UnitSt.csrSet, UnitSt.pdeadline, clampDeadline]
    exact fld_pair (by omega)

theorem State.csrWrite_vstat (s : State) (u v : Nat) :
    (∀ i, i < 16 → i ≠ 15 → vstatFlags.getLsbD i = true →
      ((s.csrWrite u 0x050 v).csr u 0x050).testBit i = ((s.unit u).csr.vstat.getLsbD i && !v.testBit i)) ∧
    ((s.csrWrite u 0x050 v).csr u 0x050).testBit 15 = v.testBit 15 := by
  rw [State.csr_csrWrite s u v (by decide) (by decide)]
  simp only [State.csr, State.unit_setUnit_same, UnitSt.csrSet]
  refine ⟨fun i hi h15 flag => ?_, ?_⟩
  · rw [vstat_write_bit _ _ _ hi, flag, decide_eq_false h15]
    simp
  · rw [vstat_write_bit _ _ _ (by decide)]
    simp

/-- SLIPW, TFRAME and TOKWD show in no other register. -/
theorem State.csrWrite_others (s : State) (u v : Nat) : (∀ n, n ≠ 0x010 → (s.csrWrite u 0x010 v).csr u n = s.csr u n) ∧
    (∀ n, n ≠ 0x002 → (s.csrWrite u 0x002 v).csr u n = s.csr u n) ∧ (∀ n, n ≠ 0x012 →
      (s.csrWrite u 0x012 v).csr u n = s.csr u n) := by
  have op : ∀ (V : UnitSt), V.id = (s.unit u).id → (s.setUnit u V).opstate u = s.opstate u := fun V hV => by
    simp only [State.opstate, State.leaseOf, State.unit_setUnit_same, hV]
    rfl
  refine ⟨fun n hn => ?_, fun n hn => ?_, fun n hn => ?_⟩
  · rw [State.csr_csrWrite s u v (by decide) (by decide)]
    exact State.csr_withCsr (slip := clampSlip (fld v 0 13)) (fun h => absurd h hn) (fun _ => rfl) (fun _ => rfl)
      (State.unit_setUnit_same ..) (op _ rfl) rfl
  · rw [State.csr_csrWrite s u v (by decide) (by decide)]
    exact State.csr_withCsr (frame := fld v 12 8) (fun _ => rfl) (fun h => absurd h hn) (fun _ => rfl)
      (State.unit_setUnit_same ..) (op _ rfl) rfl
  · rw [State.csr_csrWrite s u v (by decide) (by decide)]
    exact State.csr_withCsr (tok := max 256 (fld v 0 32)) (fun _ => rfl) (fun _ => rfl) (fun h => absurd h hn)
      (State.unit_setUnit_same ..) (op _ rfl) rfl

/-- Settles O25: what CSRW writes and sets in motion. -/
theorem systemRegisterWritesTakeEffect : Obligations.SystemRegisterWritesTakeEffect := by
  unfold Obligations.SystemRegisterWritesTakeEffect
  refine ⟨fun tk d csr s u r h idle => execCsrw_of_ready csr h idle, fun s u v hu => ?values,
    fun s u tk d r h idle room => ?steps,
    fun s u hu => ⟨fun v keep park => ?parked, fun v abort => ⟨?_, fun T hT open_ => ?_⟩, fun U csr v => State.lateActs_one,
      fun v drop norec _ => State.csrWrite_norec s u v drop norec⟩⟩
  case values =>
    obtain ⟨slip, frame, tok, vecS, vecU, deadline⟩ := s.csrWrite_values u v
    exact ⟨slip, frame, tok, vecS, vecU, deadline, (s.csrWrite_vstat u v).1, (s.csrWrite_vstat u v).2, s.csrWrite_others u v⟩
  case steps =>
    have written : ∀ csr, csr ≠ 0x002 → csr ≠ 0x010 →
      ¬ (((State.swordCheck { s with who := (u, .S) }).unit u).csr.mode = false ∧
        ((State.swordCheck { s with who := (u, .S) }).unit u).rwsChange csr
          (((State.swordCheck { s with who := (u, .S) }).unit u).xS d).toNat = true) → ∀ bits,
            s.csrwHere u csr bits = some (tk, d) →
        s.csrStep u csr bits = _ := fun csr h2 h10 allowed bits here =>
      (State.csrStep_of_here h here).trans
        (((execCsrw_of_ready csr h idle).2 allowed (fun h => absurd h h2) (fun h => absurd h h10)).1 room)
    refine ⟨fun here super => ?_, fun here super => ?_, fun here allowed => ?_, fun here super => ?_⟩
    · exact written 0x000 (by decide) (by decide) (fun h => by simp [super] at h) 32 here
    · exact written 0x000 (by decide) (by decide) (fun h => by simp [super] at h) 16 here
    · exact written 0x070 (by decide) (by decide) (fun h => by rcases allowed with a | a <;> simp [a] at h) (2 ^ 17) here
    · exact written 0x070 (by decide) (by decide) (fun h => by simp [super] at h) (2 ^ 16) here
  case parked =>
    rw [State.csrWrite_status, if_neg (by omega), if_pos park]
    exact State.parkUnit_unit ..
  · rw [State.csrWrite_status, if_pos abort]
    exact State.abortTask_unit ..
  · have unit : (s.setUnit u (s.unit u)).unit u = s.unit u := State.unit_setUnit_same ..
    rw [State.csrWrite_status, if_pos abort]
    have ended := State.abortTask_task (s.setUnit u (s.unit u)) u (T := T) (by rw [unit]; exact hT) open_
    rw [unit] at ended
    exact ended

end Sys2Proof.Machine
end


section
/-! O35. Stream control (R195 to R199) and read-ahead (R200 to R202, R483). -/
namespace Sys2Proof.Machine

/-- The direction in which engine L, or engine W, moves a stream. -/
def sideMode (w : Bool) : SMode := if w then .write else .read

/-! ### SGO, SSKIP, SREW and SDROP in either engine -/

section
variable {tk : Tok} {g : XP} {s : State} {u : Nat} {e : Eng} {r : PassRec} {i : Nat} {w : Bool}
  (h : Ready s u e r tk g []) {s0 : State} (fresh : s.freshen u e tk = s0) (kept : (s0.unit u).dropping i = false)
include h fresh kept

theorem State.sgo_busy {d : Desc} (desc : sgoDesc (s0.unit u) r i = some d)
    (busy : ((s0.unit u).stream i).mode ≠ .idle) :
    s.sgo tk i g w = .next (s0.takeTrap u ⟨.und, e.code, r.addr, r.hdr⟩) := by
  rw [State.sgo, State.word_of_ready h, fresh]
  dsimp only
  rw [desc]
  dsimp only
  rw [kept, if_neg Bool.false_ne_true, if_pos busy]
  rfl

theorem State.sgo_starts {d : Desc} (desc : sgoDesc (s0.unit u) r i = some d)
    (idle : ((s0.unit u).stream i).mode = .idle) (check : sgoCheck d w r = none) :
    let U := s0.unit u
    let t := U.stream i
    s.sgo tk i g w = .next ((s0.setUnit u (U.setStream i (startStream
      { t with
        shadow := if U.tape.run = 2 ∨ t.popped = true then t.shadow else t.shadow.tail, active := some d,
          popped := true } d w))).issue u e r tk
      (s.flight u e r tk) (sgoRec i s r) none) := by
  intro U t
  have who : s0.who = (u, e) := fresh ▸ (State.freshen_who ..).trans h.who
  rw [State.sgo, State.word_of_ready h, fresh]
  dsimp only
  rw [desc]
  dsimp only
  rw [kept, if_neg Bool.false_ne_true, if_neg (not_not_intro idle), check, who]
  rfl

theorem State.sctl_idle {act : Stream → Desc → Stream} (idle : ((s0.unit u).stream i).mode = .idle) :
    s.sctl tk i g w act = .next (s0.takeTrap u ⟨.und, e.code, r.addr, r.hdr⟩) := by
  rw [State.sctl, State.eWord_of_ready h, fresh]
  dsimp only
  rw [kept, if_neg Bool.false_ne_true, idle]
  rfl

theorem State.sdrop_idle (idle : ((s0.unit u).stream i).mode = .idle) :
    s.sdrop tk i g w = .next (s0.leaves u e r tk (s.flight u e r tk)) := by
  rw [State.sdrop, State.eWord_of_ready h, fresh]
  dsimp only
  rw [kept, if_neg Bool.false_ne_true, idle]
  rfl

variable {d : Desc} (active : ((s0.unit u).stream i).active = some d)
include active

theorem State.sctl_wrong {act : Stream → Desc → Stream} (other : ((s0.unit u).stream i).mode = sideMode !w) :
    s.sctl tk i g w act = .next (s0.takeTrap u ⟨.und, e.code, r.addr, r.hdr⟩) := by
  rw [State.sctl, State.eWord_of_ready h, fresh]
  dsimp only
  rw [kept, if_neg Bool.false_ne_true, active, other]
  cases w <;> rfl

theorem State.sctl_acts {act : Stream → Desc → Stream} (own : ((s0.unit u).stream i).mode = sideMode w) :
    let U := s0.unit u
    s.sctl tk i g w act = .next ((s0.setUnit u (U.setStream i (act (U.stream i) d))).leaves u e r tk
      (s.flight u e r tk)) := by
  intro U
  have who : s0.who = (u, e) := fresh ▸ (State.freshen_who ..).trans h.who
  rw [State.sctl, State.eWord_of_ready h, fresh]
  dsimp only
  rw [kept, if_neg Bool.false_ne_true, active, own, who]
  cases w <;> rfl

theorem State.sdrop_wrong (other : ((s0.unit u).stream i).mode = sideMode !w) :
    s.sdrop tk i g w = .next (s0.takeTrap u ⟨.und, e.code, r.addr, r.hdr⟩) := by
  rw [State.sdrop, State.eWord_of_ready h, fresh]
  dsimp only
  rw [kept, if_neg Bool.false_ne_true, active, other]
  cases w <;> rfl

theorem State.sdrop_acts (own : ((s0.unit u).stream i).mode = sideMode w) :
    s.sdrop tk i g w = .next (s0.leaves u e r tk
      { s.flight u e r tk with eff := [.sidle i, .sdrop d.banks] }) := by
  rw [State.sdrop, State.eWord_of_ready h, fresh]
  dsimp only
  rw [kept, if_neg Bool.false_ne_true, active, own]
  cases w <;> rfl

end

/-! ### What a retiring SDROP leaves -/

theorem UnitSt.hints_bank (l : List Nat) (U : UnitSt) (b : Nat) :
    (((l.foldl (fun V b => V.setBank 1 b { V.bank 1 b with hint := true }) U).bank 1 b).hint = if b ∈ l then true else
      (U.bank 1 b).hint) := by
  induction l generalizing U with
  | nil => rfl
  | cons c l ih =>
    rw [List.foldl_cons, ih]
    obtain rfl | hb := eq_or_ne b c
    · simp [UnitSt.bank, UnitSt.setBank]
    · simp [UnitSt.bank, UnitSt.setBank, hb]

theorem UnitSt.setBank_stream (U : UnitSt) (k b : Nat) (B : Bank) (i : Nat) : (U.setBank k b B).stream i = U.stream i := by
  unfold UnitSt.setBank
  split_ifs <;> rfl

theorem UnitSt.sdrop_left (U : UnitSt) (i : Nat) (bs : List Nat) :
    let t := U.stream i
    let V := (U.applyEff (.sidle i)).applyEff (.sdrop bs)
    (V.stream i).mode = .idle ∧ (V.stream i).cons = 0 ∧ (V.stream i).ps = t.pc ∧ (V.stream i).active = none ∧
      (V.stream i).shadow = t.shadow ∧ (∀ j, j ≠ i → V.stream j = U.stream j) ∧
      (∀ b, (V.bank 1 b).hint = if b ∈ bs then true else (U.bank 1 b).hint) := by
  intro t V
  have streams : ∀ j, V.stream j = (U.applyEff (.sidle i)).stream j := fun j =>
    foldl_keeps (fun W : UnitSt => W.stream j) (fun W b => W.setBank_stream 1 b _ j) bs (U.applyEff (.sidle i))
  have same : (U.applyEff (.sidle i)).stream i =
      { t with mode := .idle, cons := 0, buf := [], lines := [], ps := t.pc, active := none } := SMap.get_set_same ..
  rw [streams i, same]
  refine ⟨rfl, rfl, rfl, rfl, rfl, fun j hj => (streams j).trans (SMap.get_set_other _ _ _ hj), fun b => ?_⟩
  exact UnitSt.hints_bank bs (U.applyEff (.sidle i)) b

/-! ### Read-ahead -/

section
variable {s : State} {u i : Nat} {d : Desc} (hu : u < 768) (live : s.halted u = false) (clock : s.stands u = false)
  (read : ((s.unit u).stream i).mode = .read) (active : ((s.unit u).stream i).active = some d)
include hu live clock read active

theorem exec_streamRequest (task : (s.unit u).inHandler = false) (plain : d.checked = false)
    (near : ((s.unit u).stream i).ps < d.skip ((s.unit u).stream i).pc 32) (clean : ∀ b ∈ ((s.unit u).stream i).buf,
      b.mark = none)
    {l : List (Nat × List (Nat × Nat))}
    (keys : s.elemKeys u d (runFrom ((s.unit u).stream i).ps (d.chunk ((s.unit u).stream i).ps (d.skip ((s.unit u).stream
      i).pc 32)))
      = .inr l) :
    let t := (s.unit u).stream i
    let n := d.chunk t.ps (d.skip t.pc 32)
    exec (.streamRequest u i) s = .next (s.setUnit u ((s.unit u).setStream i { t with
      ps := t.ps + n, buf := t.buf ++ [⟨t.ps, n, none, none⟩] })) := by
  intro t n
  change clockEvent u s (s.streamRequest u i) = _
  rw [clockEvent, clock, if_neg Bool.false_ne_true, unitEvent_of_live hu live, State.streamRequest, read, active]
  dsimp only
  rw [if_neg (by simpa [task, plain, Nat.not_le.2 near] using clean), keys]
  rfl

/-- A line that a request brings is put with the run it belongs to. -/
def Stream.putRun (t : Stream) (b : BufStep) (l : List BufStep) (lines : List (Nat × Nat × List Byte)) : Stream :=
  { t with lines := lines, buf := (t.buf.map fun x => if x.pos = b.pos then l else [x]).flatten }

omit hu live clock read active in
theorem Stream.putRun_one (t : Stream) (b c : BufStep) (lines : List (Nat × Nat × List Byte)) :
    (t.putRun b [c] lines).buf = t.buf.map fun x => if x.pos = b.pos then c else x := by
  change (t.buf.map _).flatten = _
  induction t.buf with
  | nil => rfl
  | cons x l ih =>
    rw [List.map_cons, List.flatten_cons, ih, List.map_cons]
    split_ifs <;> rfl

theorem exec_streamDataReturn {b : BufStep} {keys : List (Nat × List (Nat × Nat))} {p l : Nat}
    (only : (((s.unit u).stream i).buf.filter fun b => b.data.isNone && b.mark.isNone) = [b])
    (found : s.elemKeys u d (runFrom b.pos b.n) = .inr keys) (head : s.replayHead u (streamId i b.pos) = true)
    (next : (keys.findSome? fun q => (q.2.find? fun k => (((s.unit u).stream i).lineBytes (d.row b.pos) k).isNone).map
      fun k => (q.1, k.1 / 64)) = some (p, l)) :
    let t := (s.unit u).stream i
    let lines := t.lines ++ [(d.row b.pos, l, s.mem.read (.unit u) (l * 64) 64)]
    let has := fun k => ({ t with lines := lines } : Stream).lineBytes (d.row b.pos) k
    exec (.streamDataReturn u i) s = .next (if s.mem.poisonFor (.unit u) (l * 64) 64 = true then
        s.setUnit u ((s.unit u).setStream i (t.putRun b (b.markAt p (.poison (l * 64))) t.lines))
      else if (keys.all fun q => q.2.all fun k => (has k).isSome) = true then
        ((s.touch (l * 64)).quitReplay u (streamId i b.pos)).setUnit u
          ((((s.touch (l * 64)).quitReplay u (streamId i b.pos)).unit u).setStream i
            (t.putRun b [{ b with data := some (d.codes keys fun k => (has k).getD []) }] lines))
      else (s.touch (l * 64)).setUnit u (((s.touch (l * 64)).unit u).setStream i (t.putRun b [b] lines))) := by
  intro t lines has
  change clockEvent u s (s.streamReturn u i) = _
  rw [clockEvent, clock, if_neg Bool.false_ne_true, unitEvent_of_live hu live, State.streamReturn, read, active]
  dsimp only
  rw [only]
  dsimp only
  rw [State.bringLine, found]
  dsimp only
  rw [head, next]
  rfl

end

/-- Settles O35: stream control in L and in W, a retiring SDROP, and read-ahead. -/
theorem streamControlAndReadAhead : Obligations.StreamControlAndReadAhead := by
  unfold Obligations.StreamControlAndReadAhead
  refine ⟨fun tk i g s u r h => ?L, fun tk i n s u r d h => ?skipL, fun tk i g s u r h => ?W, fun tk i n s u r d h => ?skipW,
    UnitSt.sdrop_left, fun s u i d hu live clock => ?ahead⟩
  case L =>
    intro s0 U t f und set kept
    exact ⟨fun d desc idle check => State.sgo_starts h rfl kept desc idle check,
      fun d desc busy => State.sgo_busy h rfl kept desc busy,
      fun d own active => ⟨State.sctl_acts h rfl kept active (w := false) own,
        State.sdrop_acts h rfl kept active (w := false) own⟩,
      fun d other active => ⟨State.sctl_wrong h rfl kept active (w := false) other,
        State.sdrop_wrong h rfl kept active (w := false) other⟩,
      fun idle => ⟨State.sctl_idle h rfl kept idle, State.sdrop_idle h rfl kept idle⟩⟩
  case skipL =>
    intro s0 U t kept own active
    exact ⟨rfl, State.sctl_acts h rfl kept active (w := false) own⟩
  case W =>
    intro U t f und set kept
    have same : s.freshen u .W tk = s := State.freshen_W ..
    exact ⟨fun d desc idle check => State.sgo_starts h same kept desc idle check,
      fun d desc busy => State.sgo_busy h same kept desc busy,
      fun d own active => ⟨State.sctl_acts h same kept active (w := true) own,
        State.sdrop_acts h same kept active (w := true) own⟩,
      fun d other active => ⟨State.sctl_wrong h same kept active (w := true) other,
        State.sdrop_wrong h same kept active (w := true) other⟩,
      fun idle => ⟨State.sctl_idle h same kept idle, State.sdrop_idle h same kept idle⟩⟩
  case skipW =>
    intro U t kept own active
    exact State.sctl_acts h (State.freshen_W ..) kept active (w := true) own
  case ahead =>
    intro U t read active
    refine ⟨?request, ?arrive⟩
    case request =>
      intro l task plain near clean n keys
      exact exec_streamRequest hu live clock read active task plain near clean keys
    case arrive =>
      intro b keys p l only found head next
      have run := exec_streamDataReturn hu live clock read active only found head next
      refine ⟨_, run, ?_, fun clean => ?_, fun poison => ?_⟩
      · split_ifs
        · rfl
        · rw [State.setUnit_mem, State.quitReplay_mem, State.touch_mem]
        · rw [State.setUnit_mem, State.touch_mem]
      · intro lines has
        rw [if_neg (by rw [clean]; exact Bool.false_ne_true)]
        refine ⟨?_, fun all => ?_⟩
        · split_ifs <;> rw [State.unit_setUnit_same, UnitSt.stream_setStream] <;> rfl
        · rw [if_pos all, State.unit_setUnit_same, UnitSt.stream_setStream]
          exact Stream.putRun_one ..
      · have inside : b ∈ t.buf := List.mem_of_mem_filter (only ▸ List.mem_singleton_self b)
        rw [if_pos poison, State.unit_setUnit_same, UnitSt.stream_setStream]
        refine ⟨rfl, { b with pos := p, n := b.pos + b.n - p, mark := some (.poison (l * 64)) }, ?_, rfl, rfl⟩
        refine List.mem_flatten.2 ⟨_, List.mem_map.2 ⟨b, inside, if_pos rfl⟩, ?_⟩
        exact List.mem_append_right _ (List.mem_singleton_self _)

end Sys2Proof.Machine
end


section
/-! O7. The memory stays canonical: what each function of the model does to it. -/
namespace Sys2Proof.Machine

/-- The memory of the next state is canonical, where there is one. -/
def OutCanon : Out → Prop
  | .next t => t.mem.wf = true
  | _ => True

@[simp] theorem outCanon_next (t : State) : OutCanon (.next t) ↔ t.mem.wf = true := Iff.rfl
@[simp] theorem outCanon_fault (f : Fault) : OutCanon (.fault f) := trivial
@[simp] theorem outCanon_refused (r : Refusal) : OutCanon (.refused r) := trivial

/-- The state that the body of a word leaves has a canonical memory. -/
def Res.Canon : Res → Prop
  | .trap _ _ _ => True
  | .stall s | .trapAt s _ _ _ | .go s _ | .goTo s _ _ | .jump s => s.mem.wf = true

namespace Res
variable (s : State) (f : Flight) (c : Cause) (a b : Nat)
@[simp] theorem canon_trap : (Res.trap c a b).Canon := trivial
@[simp] theorem canon_stall : (Res.stall s).Canon ↔ s.mem.wf = true := Iff.rfl
@[simp] theorem canon_trapAt : (Res.trapAt s c a b).Canon ↔ s.mem.wf = true := Iff.rfl
@[simp] theorem canon_go : (Res.go s f).Canon ↔ s.mem.wf = true := Iff.rfl
@[simp] theorem canon_goTo : (Res.goTo s f a).Canon ↔ s.mem.wf = true := Iff.rfl
@[simp] theorem canon_jump : (Res.jump s).Canon ↔ s.mem.wf = true := Iff.rfl
end Res

/-- The state that waits at a gate has a canonical memory. -/
def Gate.Canon : Gate → Prop
  | .hold s => s.mem.wf = true
  | .pass => True

/-- The state that an act's plan runs in, or leaves, has a canonical memory. -/
def Plan.Canon : Plan → Prop
  | .run _ s | .done s => s.mem.wf = true
  | .noUnit _ => True

/-- The state that the check of banks leaves has a canonical memory. -/
def SpadChk.Canon : SpadChk → Prop
  | .wait s => s.mem.wf = true
  | _ => True

/-- The states that the checks of an access leave have a canonical memory. -/
def Acc.Canon : Acc → Prop
  | .hold s | .trap s _ _ _ => s.mem.wf = true
  | _ => True

/-- The states that the checks of ranges leave have a canonical memory. -/
def CChk.Canon : CChk → Prop
  | .wait s | .trap s _ _ _ => s.mem.wf = true
  | .ok => True

/-- The states that the checks of a W word's places leave have a canonical memory. -/
def WAcc.Canon : WAcc → Prop
  | .wait s | .trap s _ _ _ => s.mem.wf = true
  | .ok _ => True

/-- The states that the checks of a command's ranges leave have a canonical memory. -/
def NmAcc.Canon : NmAcc → Prop
  | .wait s | .trap s _ _ _ => s.mem.wf = true
  | .ok _ _ _ => True

/-- The state in which a stream's piece waits has a canonical memory. -/
def SAcc.Canon : SAcc → Prop
  | .wait s => s.mem.wf = true
  | _ => True

/-- The states that a consuming word may be left in have a canonical memory. -/
def Took.Canon : Took → Prop
  | .got s _ _ | .stall s | .trap s _ _ _ | .mcheck s => s.mem.wf = true

/-- The state in which a request does not go on has a canonical memory. -/
def CStop.Canon : CStop → Prop
  | .wait s | .race s _ _ => s.mem.wf = true
  | _ => True

/-- A fold of steps that leave the memory as it is leaves it as it is. -/
@[simp] theorem foldl_mem {α : Type} {f : State → α → State} (step : ∀ s a, (f s a).mem = s.mem) (l : List α) (s : State) :
    (l.foldl f s).mem = s.mem := by
  induction l generalizing s with
  | nil => rfl
  | cons a l ih => simp [ih, step]

/-- A fold of steps that keep the memory canonical keeps it canonical. -/
theorem foldl_wf {α : Type} {f : State → α → State} (step : ∀ s a, s.mem.wf = true → (f s a).mem.wf = true) (l : List α) :
    ∀ {s : State}, s.mem.wf = true → (l.foldl f s).mem.wf = true := by
  induction l with
  | nil => exact fun h => h
  | cons a l ih => exact fun h => ih (step _ a h)

/-- A fold of changes of the memory that keep it canonical keeps it canonical. -/
theorem Mem.wf_foldl {α : Type} {f : Mem → α → Mem} (step : ∀ m a, m.wf = true → (f m a).wf = true) (l : List α) :
    ∀ {m : Mem}, m.wf = true → (l.foldl f m).wf = true := by
  induction l with
  | nil => exact fun h => h
  | cons a l ih => exact fun h => ih (step _ a h)

end Sys2Proof.Machine
end


section
/-! O7. Traps, banks, tapes and the passage of words: what each leaves of the memory. -/
namespace Sys2Proof.Machine

@[simp] theorem State.startWalk_mem (s : State) (u addr : Nat) : (s.startWalk u addr).mem = s.mem := by
  fun_cases State.startWalk s u addr <;> simp

@[simp] theorem State.dropFault_mem (s : State) (u addr : Nat) : (s.dropFault u addr).mem = s.mem := rfl

@[simp] theorem State.fall_wf (s : State) (u kind b : Nat) (h : s.mem.wf = true) : (s.fall u kind b).mem.wf = true := by
  unfold State.fall
  dsimp only
  split_ifs
  · exact h
  · exact Mem.wf_wipe h _ _
  · exact h

@[simp] theorem State.fallIfDue_wf (s : State) (u kind b : Nat) (h : s.mem.wf = true) : (s.fallIfDue u kind b).mem.wf = true
  := by
  fun_cases State.fallIfDue s u kind b <;> simp [h]

@[simp] theorem State.fallsDue_wf (s : State) (u : Nat) (h : s.mem.wf = true) : (s.fallsDue u).mem.wf = true := by
  have keep : ∀ (l : List (Nat × Nat)) {s : State}, s.mem.wf = true →
      (l.foldl (fun s q => s.fallIfDue u q.1 q.2) s).mem.wf = true :=
    foldl_wf fun s q => State.fallIfDue_wf s u q.1 q.2
  exact keep _ h

@[simp] theorem State.settleBanks_wf (s : State) (u : Nat) (h : s.mem.wf = true) : (s.settleBanks u).mem.wf = true := by
  rw [State.settleBanks, State.setUnit_mem]
  exact s.fallsDue_wf u h

@[simp] theorem State.failTask_wf (s : State) (t status : Nat) (h : s.mem.wf = true) : (s.failTask t status).mem.wf = true := by
  rwa [State.failTask_mem]

@[simp] theorem State.dropHistory_mem (s : State) (k n : Nat) : (s.dropHistory k n).mem = s.mem := by
  fun_cases State.dropHistory s k n <;> simp

@[simp] theorem State.dropFrame_mem (s : State) (u : Nat) (U : UnitSt) (l : List (Nat × Nat)) : (s.dropFrame u U l).mem =
  s.mem := by
  simp [State.dropFrame]

@[simp] theorem State.leaveReplay_mem (s : State) (u : Nat) (ids : List Nat) : (s.leaveReplay u ids).mem = s.mem := by
  fun_cases State.leaveReplay s u ids <;> simp

@[simp] theorem State.roundStops_mem (s : State) (u : Nat) : (s.roundStops u).mem = s.mem := by
  fun_cases State.roundStops s u
  · rfl
  · rw [foldl_mem]
    exact fun _ _ => rfl

theorem writeParts_wf (u base : Nat) (ps : List (Nat × List Byte)) : ∀ {m : Mem}, m.wf = true →
    (writeParts m u base ps).wf = true := by
  induction ps with
  | nil => exact fun h => h
  | cons p ps ih => exact fun h => ih (Mem.wf_write h _ _ _ _)

@[simp] theorem State.trapTask_wf (s0 : State) (u : Nat) (t : Trap) (h : s0.mem.wf = true) : (s0.trapTask u t).mem.wf = true
  := by
  have start : (s0.trapStart u).mem.wf = true := by simp [State.trapStart, h]
  rw [(s0.trapTask_kept u t).1]
  exact Mem.wf_writeTag (Mem.wf_writeTag (writeParts_wf _ _ _ (Mem.wf_wipe start _ _)) _ _ _ _ _) _ _ _ _ _

@[simp] theorem State.trapNested_wf (s0 : State) (u : Nat) (t : Trap) (h : s0.mem.wf = true) : (s0.trapNested u t).mem.wf =
  true := by
  rw [(s0.trapNested_kept u t).1]
  exact Mem.wf_write (Mem.wf_writeTag (Mem.wf_write (s0.settleBanks_wf u h) _ _ _ _) _ _ _ _ _) _ _ _ _

@[simp] theorem State.takeTrap_wf (s : State) (u : Nat) (t : Trap) (h : s.mem.wf = true) : (s.takeTrap u t).mem.wf = true := by
  fun_cases State.takeTrap s u t
  · simp [h]
  · simp [h]
  · simp +zetaDelta [h, State.failTask_mem]

@[simp] theorem State.waitAgain_wf (s : State) (u : Nat) (w : Work) (h : s.mem.wf = true) : (s.waitAgain u w).mem.wf = true
  := by
  rwa [State.waitAgain_mem]

@[simp] theorem State.retiTask_mem (s : State) (u : Nat) : (s.retiTask u).mem = s.mem := by
  simp [State.retiTask, State.waitAgain_mem]

@[simp] theorem State.retiNested_wf (s : State) (u : Nat) (h : s.mem.wf = true) : (s.retiNested u).mem.wf = true := by
  simp [State.retiNested, h, Mem.wf_write]

@[simp] theorem State.addGuard_mem (s : State) (t off n : Nat) : (s.addGuard t off n).mem = s.mem := by
  unfold State.addGuard
  refine foldl_mem (fun s q => ?_) _ _
  split
  · rfl
  · split_ifs <;> simp

@[simp] theorem State.useMark_mem (s : State) (u : Nat) (o : Origin) : (s.useMark u o).mem = s.mem := by
  unfold State.useMark
  dsimp only
  split
  · rfl
  · split
    · rfl
    · exact State.abandon_mem _ _ _
    · exact foldl_mem (fun s (p : Nat × Nat) => s.addGuard_mem _ p.1 p.2) _ _

@[simp] theorem State.markWord_mem (s : State) (u h e : Nat) : (s.markWord u h e).mem = s.mem := by
  fun_cases State.markWord s u h e <;> simp +zetaDelta

@[simp] theorem State.passMarks_mem (s : State) (u h e : Nat) : (s.passMarks u h e).mem = s.mem := by
  unfold State.passMarks
  extract_lets U op eng isDstart val own s1
  have marked : s1.mem = s.mem := by
    unfold s1
    cases isDstart <;> split <;> exact State.useMark_mem _ _ _
  split
  · exact marked
  · exact marked

@[simp] theorem State.mapTape_mem (s : State) (P : Tape) (f : Tape → Tape) : (s.mapTape P f).mem = s.mem := rfl

@[simp] theorem State.holdTape_mem (s : State) (t used : Nat) (P : Tape) : (s.holdTape t used P).mem = s.mem := rfl

@[simp] theorem State.releaseTapes_mem (s : State) (t : Nat) : (s.releaseTapes t).mem = s.mem := rfl

theorem State.makeRoom_mem {c need : Nat} : ∀ {n : Nat} {s t : State}, s.makeRoom c need n = some t → t.mem = s.mem
  | 0, s, t, e => by
    simp only [State.makeRoom, Option.ite_none_right_eq_some, Option.some.injEq] at e
    rw [e.2]
  | n + 1, s, t, e => by
    rw [State.makeRoom] at e
    split at e
    · simp_all
    · split at e
      · cases e
      · have kept := State.makeRoom_mem e
        exact kept

@[simp] theorem State.tapeAppend_mem (s : State) (u : Nat) (e : Eng) (es : List Word128) : (s.tapeAppend u e es).mem = s.mem
  := by
  fun_cases State.tapeAppend s u e es with
  | case1 => rfl
  | case2 => exact State.abandon_mem _ _ _
  | case3 U _ _ _ s1 room => exact (State.setUnit_mem _ _ _).trans (State.makeRoom_mem room)

@[simp] theorem State.recordCaps_mem (u : Nat) (l : List (Cap × KOrigin)) : ∀ s : State, (s.recordCaps u l).1.mem = s.mem := by
  induction l with
  | nil => exact fun _ => rfl
  | cons p l ih =>
    obtain ⟨c, o⟩ := p
    intro s
    cases o with
    | clean => exact ih s
    | volatile => exact (ih _).trans (State.abandon_mem _ _ _)
    | field off => exact (ih _).trans (State.addGuard_mem _ _ _ _)
    | slot i dl =>
      refine (ih _).trans ?_
      split <;> rfl

@[simp] theorem State.firstIssue_mem (s : State) (u : Nat) : (s.firstIssue u).mem = s.mem := by
  fun_cases State.firstIssue s u <;> simp

@[simp] theorem State.recordIssue_mem (s : State) (u : Nat) (e : Eng) (r : PassRec) (g : Bool) (desc : Option Desc)
    (caps : List (Cap × KOrigin)) : (s.recordIssue u e r g desc caps).mem = s.mem := by
  unfold State.recordIssue
  dsimp only
  split
  · rfl
  · simp

end Sys2Proof.Machine
end


section
/-! O7. Issue and control: a word keeps the memory canonical where its body does. -/
namespace Sys2Proof.Machine

@[simp] theorem State.beginWait_mem (s : State) (u : Nat) (e : Eng) : (s.beginWait u e).mem = s.mem := by
  fun_cases State.beginWait s u e <;> simp

@[simp] theorem State.beginOwn_mem (s : State) (u : Nat) (e : Eng) : (s.beginOwn u e).mem = s.mem := by
  fun_cases State.beginOwn s u e <;> simp

theorem State.gate_canon (s : State) (u : Nat) (e : Eng) (r : PassRec) (tk : Tok) (g : Bool) (regs : List Nat)
    (h : s.mem.wf = true) : (s.gate u e r tk g regs).Canon := by
  fun_cases State.gate s u e r tk g regs <;> simp [Gate.Canon, h]

@[simp] theorem State.barTell_mem (s : State) (u n : Nat) : (s.barTell u n).mem = s.mem := by
  fun_cases State.barTell s u n <;> simp

@[simp] theorem State.orderWord_mem (s : State) (u : Nat) (e : Eng) (r : PassRec) (f0 : Flight) :
    (s.orderWord u e r f0).1.mem = s.mem := by
  simp only [State.orderWord]
  split_ifs <;> simp

@[simp] theorem State.issue_mem (s : State) (u : Nat) (e : Eng) (r : PassRec) (tk : Tok) (f : Flight) (rc : Rec)
    (dst : Option Nat) : (s.issue u e r tk f rc dst).mem = s.mem := by
  unfold State.issue
  simp only [State.setUnit_mem, State.orderWord_mem]
  split_ifs <;> simp

@[simp] theorem PassRec.trapHere_wf (r : PassRec) (c : Cause) : (PassRec.trapHere r c).Canon := by
  simp [PassRec.trapHere]

theorem State.settle_wf (s : State) (u : Nat) (e : Eng) (r : PassRec) (tk : Tok) (rc : Rec) (x : Res) (h : s.mem.wf = true)
    (hx : x.Canon) : OutCanon (s.settle u e r tk rc x) := by
  cases x <;> simp_all [State.settle]

theorem State.word_wf (s : State) (tk : Tok) (g : XP) (regs : List Nat) (rc : State → PassRec → Rec)
    (body : State → UnitSt → PassRec → Flight → Res) (h : s.mem.wf = true)
    (keeps : ∀ s U r f, s.mem.wf = true → (body s U r f).Canon) : OutCanon (s.word tk g regs rc body) := by
  unfold State.word
  dsimp only
  split
  · trivial
  split
  · exact h
  split
  · exact h
  · split
    · exact State.takeTrap_wf _ _ _ h
    split
    · exact h
    split
    next s1 hold =>
      have gate := State.gate_canon s s.who.1 s.who.2 ‹_› tk (s.guardOf s.who.1 s.who.2 ‹_› g) regs h
      rwa [hold] at gate
    next =>
      split
      · exact State.settle_wf _ _ _ _ _ _ _ (by simp [h]) (keeps _ _ _ _ (by simp [h]))
      · simp [h]

@[simp] theorem State.swordCheck_mem (s : State) : (s.swordCheck).mem = s.mem := by
  fun_cases State.swordCheck s <;> simp

theorem State.sWord_wf (s : State) (tk : Tok) (g : XP) (regs : List Nat) (body : State → UnitSt → PassRec → Flight → Res)
    (h : s.mem.wf = true) (keeps : ∀ s U r f, s.mem.wf = true → (body s U r f).Canon) : OutCanon (s.sWord tk g regs body) :=
  State.word_wf _ _ _ _ _ _ (by simp [h]) keeps

theorem State.sSerial_wf (s : State) (tk : Tok) (g : XP) (regs : List Nat) (body : State → UnitSt → PassRec → Flight → Res)
    (h : s.mem.wf = true) (keeps : ∀ s U r f, s.mem.wf = true → (body s U r f).Canon) :
    OutCanon (s.sSerial tk g regs body) := by
  refine State.sWord_wf _ _ _ _ _ h fun s U r f h => ?_
  split
  · exact h
  · exact keeps s U r f h

theorem State.eWord_wf (s : State) (tk : Tok) (g : XP) (body : State → UnitSt → PassRec → Flight → Res)
    (h : s.mem.wf = true) (keeps : ∀ s U r f, s.mem.wf = true → (body s U r f).Canon) : OutCanon (s.eWord tk g body) :=
  State.word_wf _ _ _ _ _ _ h keeps

@[simp] theorem State.sPass_wf (s : State) (u : Nat) (h : s.mem.wf = true) : (s.sPass u).mem.wf = true := by
  fun_cases State.sPass s u <;> simp +zetaDelta [h]

@[simp] theorem State.passOver_mem (u : Nat) (e : Eng) : ∀ (n : Nat) (s : State), (s.passOver u e n).mem = s.mem
  | 0, _ => rfl
  | n + 1, s => by
    rw [State.passOver]
    dsimp only
    split
    · rfl
    · split
      · rfl
      · split <;> simp [State.passOver_mem u e n]

@[simp] theorem State.approach_mem (s : State) (u : Nat) (e : Eng) : (s.approach u e).mem = s.mem := by
  simp only [State.approach, apply_ite State.mem, State.passOver_mem, ite_self]

@[simp] theorem State.xWord_wf (s : State) (tk : Tok) (g : XP) (d : Nat) (rd : List Nat) (v : UnitSt →
  Word) (h : s.mem.wf = true) :
    OutCanon (s.xWord tk g d rd v) := State.sWord_wf _ _ _ _ _ h fun _ _ _ _ h => h

@[simp] theorem State.xLong_wf (s : State) (tk : Tok) (g : XP) (d : Nat) (rd : List Nat) (alone : Bool) (v : UnitSt → Word)
    (h : s.mem.wf = true) : OutCanon (s.xLong tk g d rd alone v) := by
  refine State.sWord_wf _ _ _ _ _ h fun s U r f h => ?_
  split
  · exact h
  · exact h

@[simp] theorem State.pWord_wf (s : State) (tk : Tok) (g : XP) (d : Nat) (rd : List Nat) (v : UnitSt →
  Bool) (h : s.mem.wf = true) :
    OutCanon (s.pWord tk g d rd v) := State.sWord_wf _ _ _ _ _ h fun _ _ _ _ h => h

theorem State.aWord_wf (s : State) (sPart : State → UnitSt → PassRec → Flight → Res)
    (ePart : State → UnitSt → Eng → PassRec → Flight → Res) (h : s.mem.wf = true)
    (atS : ∀ s U r f, s.mem.wf = true → (sPart s U r f).Canon) (atE : ∀ s U e r f, s.mem.wf = true → (ePart s U e r f).Canon) :
    OutCanon (s.aWord sPart ePart) := by
  refine State.word_wf _ _ _ _ _ _ h fun s U r f h => ?_
  split
  · exact atS s U r f h
  · split
    · exact h
    · exact atE s U _ r f h

@[simp] theorem State.popOut_mem (s : State) (u : Nat) (e : Eng) (r : PassRec) (o : Outcome) : (s.popOut u e r o).mem = s.mem
  := by
  fun_cases State.popOut s u e r o <;> simp +zetaDelta

@[simp] theorem State.jumpS_wf (s : State) (U : UnitSt) (r : PassRec) (f : Flight) (taken : Bool) (tgt : Int) (inLoop : Bool)
  (brp : Option Nat) (h : s.mem.wf = true) : (s.jumpS U r f taken tgt inLoop brp).Canon := by
  fun_cases State.jumpS s U r f taken tgt inLoop brp <;> simp +zetaDelta [h]

@[simp] theorem State.jumpE_wf (s : State) (U : UnitSt) (e : Eng) (r : PassRec) (f : Flight) (h : s.mem.wf = true) : (s.jumpE
  U e r f).Canon := by
  fun_cases State.jumpE s U e r f <;> simp +zetaDelta [h]

@[simp] theorem execBr_wf (d sense imm32 : Nat) (s : State) (h : s.mem.wf = true) : OutCanon (execBr d sense imm32 s) :=
  State.aWord_wf _ _ _ h (fun _ _ _ _ h => State.jumpS_wf _ _ _ _ _ _ _ _ h) State.jumpE_wf

@[simp] theorem execJmp_wf (imm32 : Nat) (s : State) (h : s.mem.wf = true) : OutCanon (execJmp imm32 s) :=
  State.aWord_wf _ _ _ h (fun _ _ _ _ h => State.jumpS_wf _ _ _ _ _ _ _ _ h) State.jumpE_wf

@[simp] theorem Res.link_wf (x : Res) (u d : Nat) (v : Word) (hx : x.Canon) : (x.link u d v).Canon := by
  cases x <;> exact hx

@[simp] theorem execCall_wf (d imm32 : Nat) (s : State) (h : s.mem.wf = true) : OutCanon (execCall d imm32 s) :=
  State.aWord_wf _ _ _ h (fun _ _ _ _ h => Res.link_wf _ _ _ _ (State.jumpS_wf _ _ _ _ _ _ _ _ h)) State.jumpE_wf

@[simp] theorem execRet_wf (a : Nat) (s : State) (h : s.mem.wf = true) : OutCanon (execRet a s) :=
  State.aWord_wf _ _ _ h (fun _ _ _ _ h => by split <;> simp [h]) State.jumpE_wf

@[simp] theorem State.enterLoop_wf (s : State) (u : Nat) (e : Eng) (f : Flight) (addr bodyLen n t : Nat) (h : s.mem.wf =
  true) : (s.enterLoop u e f addr bodyLen n t).Canon := by
  fun_cases State.enterLoop s u e f addr bodyLen n t <;> simp [h]

@[simp] theorem State.loopS_wf (s : State) (U : UnitSt) (r : PassRec) (f : Flight) (d : Nat) (l : XL) (h : s.mem.wf = true) :
  (s.loopS U r f d l).Canon := by
  fun_cases State.loopS s U r f d l <;> simp +zetaDelta [h]

@[simp] theorem execLoop_wf (d : Nat) (l : XL) (s : State) (h : s.mem.wf = true) : OutCanon (execLoop d l s) :=
  State.aWord_wf _ _ _ h (fun _ _ _ _ h => State.loopS_wf _ _ _ _ _ _ h) fun _ _ _ _ _ h => by
    split <;> simp [h]

@[simp] theorem execNopA_wf (s : State) (h : s.mem.wf = true) : OutCanon (execNopA s) :=
  State.aWord_wf _ _ _ h (fun _ _ _ _ h => h) fun _ _ _ _ _ h => h

@[simp] theorem State.arrive_mem (s : State) (u : Nat) (e : Eng) (r : PassRec) : (s.arrive u e r).mem = s.mem := by
  fun_cases State.arrive s u e r <;> simp

@[simp] theorem State.meetEntry_mem (s : State) (u : Nat) (e : Eng) (r : PassRec) : (s.meetEntry u e r).mem = s.mem := by
  simp [State.meetEntry]

@[simp] theorem State.meetPast_mem (s : State) (u : Nat) (r : PassRec) (isYield : Bool) : (s.meetPast u r isYield).mem =
  s.mem := by
  unfold State.meetPast
  dsimp only
  rw [State.setUnit_mem, foldl_mem]
  · exact s.firstIssue_mem u
  · intro s e
    simp only [State.setUnit_mem]
    cases isYield <;> simp
    split <;> simp

theorem State.meet_wf (s : State) (r : PassRec) (isYield : Bool) (ready : UnitSt → Bool) (act : State → State ⊕ Trap)
    (h : s.mem.wf = true) (keeps : ∀ {s t}, s.mem.wf = true → act s = .inl t → t.mem.wf = true) :
    (s.meet r isYield ready act).Canon := by
  unfold State.meet
  dsimp only
  split
  · split
    · simp [keeps _ ‹_›, h]
    · simp [h]
  · simp [h]

theorem State.rendezvous_wf (s : State) (ready : UnitSt → Bool) (act : State → PassRec → State ⊕ Trap) (h : s.mem.wf = true)
    (keeps : ∀ {s t} r, s.mem.wf = true → act s r = .inl t → t.mem.wf = true) : OutCanon (s.rendezvous ready act) := by
  refine State.word_wf _ _ _ _ _ _ h fun s U r f h => ?_
  split
  · trivial
  · exact State.meet_wf _ _ _ _ _ h (keeps r)

@[simp] theorem execBlend_wf (d : Nat) (s : State) (h : s.mem.wf = true) : OutCanon (execBlend d s) := by
  refine State.rendezvous_wf _ _ _ h fun r h e => ?_
  dsimp only at e
  split at e
  · cases e
  · cases e
    exact h

@[simp] theorem execBret_wf (d : Nat) (s : State) (h : s.mem.wf = true) : OutCanon (execBret d s) := by
  refine State.rendezvous_wf _ _ _ h fun r h e => ?_
  dsimp only at e
  split at e
  · cases e
  · cases e
    exact h

@[simp] theorem execSync_wf (s : State) (h : s.mem.wf = true) : OutCanon (execSync s) :=
  State.rendezvous_wf _ _ _ h fun r h e => by
    cases e
    exact h

@[simp] theorem execEndW_wf (s : State) (h : s.mem.wf = true) : OutCanon (execEndW s) :=
  State.rendezvous_wf _ _ _ h fun r h e => by
    cases e
    exact h

@[simp] theorem State.yieldMeet_wf (s : State) (r : PassRec) (h : s.mem.wf = true) : (s.yieldMeet r).Canon := by
  fun_cases State.yieldMeet s r <;> simp +zetaDelta [h]

@[simp] theorem execYield_wf (s : State) (h : s.mem.wf = true) : OutCanon (execYield s) := by
  refine State.word_wf _ _ _ _ _ _ h fun s U r f h => ?_
  dsimp only
  repeat' split
  all_goals simp [h]

end Sys2Proof.Machine
end


section
/-! O7. The checks of accesses, and the words and events of scalar memory and of streams. -/
namespace Sys2Proof.Machine

@[simp] theorem State.propagate_wf (s : State) (id : Nat) (h : s.mem.wf = true) : (s.propagate id).mem.wf = true := by
  fun_cases State.propagate s id <;> simp +zetaDelta [h, Mem.wf_propagate]

@[simp] theorem State.noteWrite_mem (s : State) (lvl k n : Nat) : (s.noteWrite lvl k n).mem = s.mem := by
  fun_cases State.noteWrite s lvl k n <;> simp

@[simp] theorem State.wipeAt_wf (s : State) (k n : Nat) (h : s.mem.wf = true) : (s.wipeAt k n).mem.wf = true := by
  simp [State.wipeAt, h, Mem.wf_wipe]

@[simp] theorem State.moveHistory_mem (s : State) (src dst n : Nat) : (s.moveHistory src dst n).mem = s.mem := by
  fun_cases State.moveHistory s src dst n <;> simp

@[simp] theorem State.raceNote_mem (s : State) (u : Nat) (e : Eng) (key n : Nat) (write : Bool) (scope : Option Nat) (fid :
  Option Nat) : (s.raceNote u e key n write scope fid).mem = s.mem := rfl

@[simp] theorem State.raceReport_mem (s : State) (u : Nat) (e : Eng) (write : Bool) (fid : Option Nat) (a : Access) :
  (s.raceReport u e write fid a).mem = s.mem := rfl

theorem State.raceCheck_inl_mem {s t : State} {u key n : Nat} {e : Eng} {write : Bool} {scope fid : Option Nat}
    (e : s.raceCheck u e key n write scope fid = .inl t) : t.mem = s.mem := by
  unfold State.raceCheck at e
  split at e
  · cases e
    rfl
  · cases e

theorem State.raceCheck_inr_mem {s t : State} {u key n : Nat} {e : Eng} {write : Bool} {scope fid : Option Nat} {a : Access}
    (e : s.raceCheck u e key n write scope fid = .inr (t, a)) : t.mem = s.mem := by
  unfold State.raceCheck at e
  split at e
  · cases e
  · cases e
    rfl

theorem State.raceAll_inl_mem {s t : State} {u : Nat} {e : Eng} {write : Bool} {fid : Option Nat} {l : List (Nat × Nat × Nat)}
    (e : s.raceAll u e write fid l = .inl t) : t.mem = s.mem := by
  unfold State.raceAll at e
  split at e
  · cases e
  · cases e
    exact foldl_mem (fun s (p : Nat × Nat × Nat) => s.raceNote_mem _ _ p.1 p.2.1 _ _ _) _ _

theorem State.raceAll_inr_mem {s t : State} {u : Nat} {e : Eng} {write : Bool} {fid : Option Nat} {l : List (Nat × Nat × Nat)}
    {q : Access × Nat × Nat} (e : s.raceAll u e write fid l = .inr (t, q)) : t.mem = s.mem := by
  unfold State.raceAll at e
  split at e
  · cases e
    rfl
  · cases e

theorem State.spadChk_canon (s : State) (u off n : Nat) (read : Bool) (h : s.mem.wf = true) : (s.spadChk u off n read).Canon
    := by
  unfold State.spadChk
  dsimp only
  split
  · exact foldl_wf (fun s j => s.fallIfDue_wf u 1 j) _ h
  · split
    · trivial
    · exact h
    · trivial

theorem State.spadChk_wait {s t : State} {c : Prop} [Decidable c] {u off n : Nat} {read : Bool} (h : s.mem.wf = true)
    (e : (if c then s.spadChk u off n read else .ok) = .wait t) : t.mem.wf = true := by
  have key := s.spadChk_canon u off n read h
  split at e
  · rwa [e] at key
  · cases e

@[simp] theorem State.joinReplay_mem (s : State) (u id addr : Nat) : (s.joinReplay u id addr).mem = s.mem := by
  fun_cases State.joinReplay s u id addr <;> simp

theorem State.access_canon (s : State) (u : Nat) (c : Cap) (k o n perm align text : Nat) (kind : AccKind) (h : s.mem.wf =
    true) :
    (s.access u c k o n perm align text kind).Canon := by
  unfold State.access
  dsimp only
  split
  · exact h
  split
  · exact h
  split
  · exact h
  split
  · exact h
  next banks => exact State.spadChk_wait h banks
  · split
    · trivial
    · split
      · trivial
      · exact h
    · simpa [Acc.Canon] using h
    · simpa [Acc.Canon] using h

@[simp] theorem State.ringPut_wf (s : State) (kind : Nat) (rec : List Byte) (h : s.mem.wf = true) :
    (s.ringPut kind rec).mem.wf = true := by
  fun_cases State.ringPut s kind rec <;> simp +zetaDelta [h, Mem.wf_writeTag]

@[simp] theorem State.mcheck_wf (s : State) (u src bank synd addr : Nat) (h : s.mem.wf = true) :
    (s.mcheck u src bank synd addr).mem.wf = true := by
  unfold State.mcheck
  extract_lets U hour now counted n retire T U1 s1 rec s2 s3
  have told : s3.mem.wf = true := by
    have failed : s2.mem.wf = true := by simp [s2, s1, h]
    unfold s3
    split
    · split
      · exact failed
      · exact failed
    · exact failed
  split
  · exact told
  · exact told

@[simp] theorem State.poisonTrap_wf (s : State) (u k : Nat) (h : s.mem.wf = true) : (s.poisonTrap u k).mem.wf = true := by
  simp [State.poisonTrap, h]

theorem State.poisonCheck_wf {s t : State} {u key n : Nat} (e : s.poisonCheck u key n = some t) (h : s.mem.wf = true) :
    t.mem.wf = true := by
  obtain ⟨k, _, rfl⟩ := Option.map_eq_some_iff.mp e
  exact s.poisonTrap_wf u k h

@[simp] theorem State.countErr_mem (s : State) (region : Nat) : (s.countErr region).mem = s.mem := rfl

theorem State.parityChk_wf {s t : State} {u : Nat} {keys : List Nat} (e : s.parityChk u keys = some t) (h : s.mem.wf = true) :
    t.mem.wf = true := by
  unfold State.parityChk at e
  dsimp only at e
  split at e
  · cases e
  split at e
  · cases e
  split at e
  · cases e
    exact h
  · cases e
    exact s.mcheck_wf _ _ _ _ _ h

@[simp] theorem State.memIssue_wf (s : State) (u : Nat) (r : PassRec) (f : Flight) (q : MemReq) (h : s.mem.wf = true) :
    (s.memIssue u r f q).Canon := by
  have checks := s.access_canon u ((s.unit u).kS q.k) q.k q.o q.n q.perm q.n r.addr q.kind h
  unfold State.memIssue
  dsimp only
  split
  · exact h
  split
  next acc => rwa [acc] at checks
  next acc => rwa [acc] at checks
  · split
    · split
      next race => simp [State.raceCheck_inl_mem race, h]
      next race => simp [State.raceCheck_inr_mem race, h]
    · simp [h]
  · split
    · split
      next race => simp [State.raceCheck_inl_mem race, h]
      next race => simp [State.raceCheck_inr_mem race, h]
    · simp [h]

@[simp] theorem execLd_wf (tk : Tok) (d a b : Nat) (m : XM) (s : State) (h : s.mem.wf = true) : OutCanon (execLd tk d a b m
  s) :=
  State.sWord_wf _ _ _ _ _ h fun s U r f h => by simp [h]

@[simp] theorem execLdaq_wf (tk : Tok) (d a b : Nat) (m : XM) (s : State) (h : s.mem.wf = true) : OutCanon (execLdaq tk d a b
  m s) :=
  State.sWord_wf _ _ _ _ _ h fun s U r f h => by simp [h]

@[simp] theorem execSt_wf (tk : Tok) (d a b : Nat) (m : XM) (s : State) (h : s.mem.wf = true) : OutCanon (execSt tk d a b m
  s) :=
  State.sWord_wf _ _ _ _ _ h fun s U r f h => by simp [h]

@[simp] theorem execStrl_wf (tk : Tok) (d a b : Nat) (m : XM) (s : State) (h : s.mem.wf = true) : OutCanon (execStrl tk d a b
  m s) :=
  State.sWord_wf _ _ _ _ _ h fun s U r f h => by simp [h]

@[simp] theorem execAmo_wf (tk : Tok) (d a b : Nat) (m : XM) (s : State) (h : s.mem.wf = true) : OutCanon (execAmo tk d a b m
  s) :=
  State.sWord_wf _ _ _ _ _ h fun s U r f h => by simp [h]

@[simp] theorem execCas_wf (tk : Tok) (d a b : Nat) (m : XM) (s : State) (h : s.mem.wf = true) : OutCanon (execCas tk d a b m
  s) :=
  State.sWord_wf _ _ _ _ _ h fun s U r f h => by simp [h]

@[simp] theorem execKld_wf (tk : Tok) (d a b : Nat) (m : XM) (s : State) (h : s.mem.wf = true) : OutCanon (execKld tk d a b m
  s) :=
  State.sWord_wf _ _ _ _ _ h fun s U r f h => by simp [h]

@[simp] theorem execKst_wf (tk : Tok) (d a b : Nat) (m : XM) (s : State) (h : s.mem.wf = true) : OutCanon (execKst tk d a b m
  s) := by
  refine State.sWord_wf _ _ _ _ _ h fun s U r f h => ?_
  dsimp only
  split
  · split
    · trivial
    · simp [h]
  · simp [h]

@[simp] theorem execFence_wf (tk : Tok) (kind scope : Nat) (s : State) (h : s.mem.wf = true) : OutCanon (execFence tk kind
  scope s) := by
  refine State.sSerial_wf _ _ _ _ _ h fun s U r f h => ?_
  dsimp only
  split_ifs <;> exact h

@[simp] theorem State.forgetSop_mem (s : State) (u id : Nat) : (s.forgetSop u id).mem = s.mem := rfl

@[simp] theorem State.lateTrap_wf (s : State) (u : Nat) (addr : Nat) (write : Bool) (l r : Nat) (h : s.mem.wf = true) :
  (s.lateTrap u addr write l r).mem.wf = true := by
  simp [State.lateTrap, h]

@[simp] theorem State.performTarg_wf (s : State) (u id : Nat) (o : SOp) (h : s.mem.wf = true) :
    (s.performTarg u id o).mem.wf = true := by
  unfold State.performTarg
  dsimp only
  split
  · simp [h]
  split
  · exact h
  split
  · split
    next poison => exact State.poisonCheck_wf poison h
    next => simp [h]
  · simp [h]
  · exact h

@[simp] theorem State.release_wf (s : State) (u id wid key n : Nat) (old : List Rel) (h : s.mem.wf = true) : (s.release u id
  wid key n old).mem.wf = true := by
  fun_cases State.release s u id wid key n old <;> simp [h]

@[simp] theorem State.enterDesc_mem (s : State) (u id d : Nat) (D : Desc) : (s.enterDesc u id d D).mem = s.mem := by
  simp [State.enterDesc]

@[simp] theorem State.lateSset_wf (s : State) (u id : Nat) (o : SOp) (before : List SOp) (h : s.mem.wf = true) :
    (s.lateSset u id o before).mem.wf = true := by
  unfold State.lateSset
  dsimp only
  split
  · exact h
  split
  · split
    next poison => exact State.poisonCheck_wf poison h
    next => split <;> simp [h]
  · simp [h]
  · exact h

@[simp] theorem State.performLoad_wf (s : State) (u id : Nat) (h : s.mem.wf = true) : (s.performLoad u id).mem.wf = true := by
  unfold State.performLoad
  dsimp only
  split
  · exact h
  split
  case h_1 =>
    split
    · exact h
    · split <;> simp [h]
  case h_2 => simp [h]
  case h_3 => simp [h]
  case h_7 => exact h
  all_goals
    split
    · exact h
    split
    · split
      next poison => exact State.poisonCheck_wf poison h
      next => simp [h]
    · simp [h]
    · exact h

@[simp] theorem State.performStore_wf (s : State) (u id : Nat) (h : s.mem.wf = true) : (s.performStore u id).mem.wf = true := by
  unfold State.performStore
  dsimp only
  split
  · exact h
  split
  · exact h
  split
  case h_1 => simp [h]
  case h_5 => exact h
  all_goals
    split
    · exact h
    split
    · simp [*, Mem.wf_writeTag]
    · simp [h]
    · exact h

@[simp] theorem State.performAtomic_wf (s : State) (u id : Nat) (h : s.mem.wf = true) : (s.performAtomic u id).mem.wf = true
  := by
  unfold State.performAtomic
  dsimp only
  split
  · exact h
  split
  · exact h
  split
  · split
    next poison => exact State.poisonCheck_wf poison h
    next => split <;> simp [h, Mem.wf_writeTag]
  · simp [h]
  · exact h

@[simp] theorem unitEvent_wf (u : Nat) {s t : State} (h : s.mem.wf = true) (ht : t.mem.wf = true) : OutCanon (unitEvent u s
  t) := by
  unfold unitEvent
  split_ifs
  · trivial
  · exact h
  · exact ht

@[simp] theorem clockEvent_wf (u : Nat) {s t : State} (h : s.mem.wf = true) (ht : t.mem.wf = true) : OutCanon (clockEvent u s
  t) := by
  unfold clockEvent
  refine unitEvent_wf u h ?_
  split
  · exact h
  · exact ht

@[simp] theorem execScalarLoadPerformed_wf (u id : Nat) (s : State) (h : s.mem.wf = true) : OutCanon (execScalarLoadPerformed
  u id s) := unitEvent_wf _ h (by split <;> simp [h])

@[simp] theorem execScalarStorePerformed_wf (u id : Nat) (s : State) (h : s.mem.wf = true) : OutCanon
  (execScalarStorePerformed u id s) := unitEvent_wf _ h (by split <;> simp [h])

@[simp] theorem execAtomicPerformed_wf (u id : Nat) (s : State) (h : s.mem.wf = true) : OutCanon (execAtomicPerformed u id s)
  := unitEvent_wf _ h (by split <;> simp [h])

@[simp] theorem execScalarArithRetire_wf (u : Nat) (s : State) (h : s.mem.wf = true) : OutCanon (execScalarArithRetire u s)
  := clockEvent_wf _ h (by split <;> simp [h])

@[simp] theorem execSset_wf (tk : Tok) (d a b : Nat) (m : XM) (s : State) (h : s.mem.wf = true) : OutCanon (execSset tk d a b
  m s) := by
  refine State.sWord_wf _ _ _ _ _ h fun s U r f h => ?_
  have checks := s.access_canon s.who.1 (U.kS a) a (U.memOff b m) 64 permR 64 r.addr .read h
  dsimp only
  split
  · exact h
  split
  next acc => rwa [acc] at checks
  next acc => rwa [acc] at checks
  · split_ifs <;> simp [h]
  · split
    · exact h
    split
    next poison => exact State.poisonCheck_wf poison h
    next => split_ifs <;> simp [h, PassRec.trapHere]

@[simp] theorem execSpos_wf (tk : Tok) (d a : Nat) (g : XP) (s : State) (h : s.mem.wf = true) : OutCanon (execSpos tk d a g
  s) := by
  refine State.sWord_wf _ _ _ _ _ h fun s U r f h => ?_
  dsimp only
  repeat' split
  all_goals simp [h]

@[simp] theorem execSget_wf (tk : Tok) (d a imm : Nat) (g : XP) (s : State) (h : s.mem.wf = true) : OutCanon (execSget tk d a
  imm g s) :=
  State.xWord_wf _ _ _ _ _ _ h

@[simp] theorem State.sgo_wf (s : State) (tk : Tok) (i : Nat) (g : XP) (w : Bool) (h : s.mem.wf = true) : OutCanon (s.sgo tk
  i g w) := by
  refine State.word_wf _ _ _ _ _ _ h fun s U r f h => ?_
  dsimp only
  repeat' split
  all_goals simp [h, PassRec.trapHere]

@[simp] theorem State.sctl_wf (s : State) (tk : Tok) (i : Nat) (g : XP) (w : Bool) (act : Stream → Desc →
  Stream) (h : s.mem.wf = true) :
    OutCanon (s.sctl tk i g w act) := by
  refine State.eWord_wf _ _ _ _ h fun s U r f h => ?_
  dsimp only
  repeat' split
  all_goals simp [h, PassRec.trapHere]

@[simp] theorem State.sdrop_wf (s : State) (tk : Tok) (i : Nat) (g : XP) (w : Bool) (h : s.mem.wf = true) : OutCanon (s.sdrop
  tk i g w) := by
  refine State.eWord_wf _ _ _ _ h fun s U r f h => ?_
  dsimp only
  repeat' split
  all_goals simp [h]

@[simp] theorem execSgoL_wf (tk : Tok) (i : Nat) (g : XP) (s : State) (h : s.mem.wf = true) : OutCanon (execSgoL tk i g s) := by
  simp [execSgoL, h]

@[simp] theorem execSgoW_wf (tk : Tok) (i : Nat) (g : XP) (s : State) (h : s.mem.wf = true) : OutCanon (execSgoW tk i g s) := by
  simp [execSgoW, h]

@[simp] theorem execSskipL_wf (tk : Tok) (i imm32 : Nat) (s : State) (h : s.mem.wf = true) : OutCanon (execSskipL tk i imm32
  s) := by
  simp [execSskipL, h]

@[simp] theorem execSskipW_wf (tk : Tok) (i imm32 : Nat) (s : State) (h : s.mem.wf = true) : OutCanon (execSskipW tk i imm32
  s) := by
  simp [execSskipW, h]

@[simp] theorem execSrewL_wf (tk : Tok) (i : Nat) (g : XP) (s : State) (h : s.mem.wf = true) : OutCanon (execSrewL tk i g s)
  := by
  simp [execSrewL, h]

@[simp] theorem execSrewW_wf (tk : Tok) (i : Nat) (g : XP) (s : State) (h : s.mem.wf = true) : OutCanon (execSrewW tk i g s)
  := by
  simp [execSrewW, h]

@[simp] theorem execSdropL_wf (tk : Tok) (i : Nat) (g : XP) (s : State) (h : s.mem.wf = true) : OutCanon (execSdropL tk i g
  s) := by
  simp [execSdropL, h]

@[simp] theorem execSdropW_wf (tk : Tok) (i : Nat) (g : XP) (s : State) (h : s.mem.wf = true) : OutCanon (execSdropW tk i g
  s) := by
  simp [execSdropW, h]

theorem State.streamAcc_canon (s : State) (u : Nat) (c : Cap) (a n : Nat) (h : s.mem.wf = true) : (s.streamAcc u c a n).Canon
    := by
  unfold State.streamAcc
  split
  · trivial
  next banks => exact State.spadChk_wait h banks
  · split
    · trivial
    · simpa [SAcc.Canon] using h
    · trivial
    · trivial

theorem State.pieceKeys_canon {s : State} {u : Nat} (h : s.mem.wf = true) :
    ∀ {l : List (Cap × Nat × Nat)} {x : SAcc}, s.pieceKeys u l = .inl x → x.Canon
  | [], _, e => by cases e
  | (c, a, n) :: l, x, e => by
    rw [State.pieceKeys] at e
    split at e
    · split at e
      next rest =>
        cases e
        exact State.pieceKeys_canon h rest
      · cases e
    · cases e
      exact s.streamAcc_canon u c a n h

theorem State.elemKeys_canon {s : State} {u : Nat} {d : Desc} (h : s.mem.wf = true) :
    ∀ {l : List Nat} {q : Nat × SAcc}, s.elemKeys u d l = .inl q → q.2.Canon
  | [], _, e => by cases e
  | p :: l, q, e => by
    rw [State.elemKeys] at e
    split at e
    next piece =>
      cases e
      exact State.pieceKeys_canon h piece
    · split at e
      next rest =>
        cases e
        exact State.elemKeys_canon h rest
      · cases e

@[simp] theorem State.streamRequest_wf (s : State) (u i : Nat) (h : s.mem.wf = true) : (s.streamRequest u i).mem.wf = true := by
  unfold State.streamRequest
  dsimp only
  split
  · split
    · exact h
    split
    · simp [h]
    next keys =>
      split
      · simp [h]
      split
      · simp [h]
      · exact State.elemKeys_canon h keys
      · split <;> simp [h]
      · exact h
  · exact h

@[simp] theorem State.bringLine_wf (s : State) (u i : Nat) (d : Desc) (t : Stream) (b : BufStep) (h : s.mem.wf = true) :
    (s.bringLine u i d t b).mem.wf = true := by
  unfold State.bringLine
  dsimp only
  split
  · simp [h]
  next keys => exact State.elemKeys_canon h keys
  · split <;> simp [h]
  · exact h
  · split
    · exact h
    split
    · split <;> simp [h]
    · split
      · simp [h]
      · split <;> simp [h]

@[simp] theorem State.streamReturn_wf (s : State) (u i : Nat) (h : s.mem.wf = true) : (s.streamReturn u i).mem.wf = true := by
  fun_cases State.streamReturn s u i <;> simp [h]

@[simp] theorem execStreamRequest_wf (u i : Nat) (s : State) (h : s.mem.wf = true) : OutCanon (execStreamRequest u i s) := by
  simp [execStreamRequest, h]

@[simp] theorem execStreamDataReturn_wf (u i : Nat) (s : State) (h : s.mem.wf = true) : OutCanon (execStreamDataReturn u i s)
  := by
  simp [execStreamDataReturn, h]

theorem State.streamFault_canon {s : State} {u i : Nat} {r : PassRec} {x : SAcc} {t : Machine.Took} (e : s.streamFault u i r
    x = some t)
    (h : s.mem.wf = true) : t.Canon := by
  unfold State.streamFault at e
  split at e <;> cases e
  · exact h
  · simpa [Took.Canon] using h

theorem State.streamFault_getD_canon (s : State) (u i : Nat) (r : PassRec) (x : SAcc) {t : Machine.Took} (h : s.mem.wf = true)
    (ht : t.Canon) : ((s.streamFault u i r x).getD t).Canon := by
  cases e : s.streamFault u i r x with
  | none => exact ht
  | some t => exact State.streamFault_canon e h

theorem State.stepRaces_inl_mem {s t : State} {u : Nat} {e : Eng} {d : Desc} {es : List Nat} (e : s.stepRaces u e d es = .inl
    t) :
    t.mem = s.mem := by
  unfold State.stepRaces at e
  split at e
  · cases e
    rfl
  · split at e
    next race =>
      cases e
      exact State.raceAll_inl_mem race
    · cases e

theorem State.stepRaces_inr_canon {s : State} {u : Nat} {e : Eng} {d : Desc} {es : List Nat} {t : Machine.Took}
    (e : s.stepRaces u e d es = .inr t) (h : s.mem.wf = true) : t.Canon := by
  unfold State.stepRaces at e
  split at e
  · cases e
  · split at e
    · cases e
    next race =>
      cases e
      simpa [Took.Canon, State.raceAll_inr_mem race] using h

theorem State.readNow_canon (s : State) (u : Nat) (e : Eng) (i : Nat) (r : PassRec) (t : Stream) (d : Desc) (es : List Nat)
    (h : s.mem.wf = true) : (s.readNow u e i r t d es).Canon := by
  unfold State.readNow
  dsimp only
  split
  next keys => exact State.elemKeys_canon h keys
  · show (if _ then _ else s).mem.wf = true
    split <;> simp [h]
  · exact State.streamFault_getD_canon _ _ _ _ _ h h
  · split
    · exact h
    split
    next poison =>
      obtain ⟨k, _, bad⟩ := List.exists_of_findSome?_eq_some poison
      exact State.poisonCheck_wf bad h
    · split
      next races =>
        split at races
        · cases races
        · exact State.stepRaces_inr_canon races h
      next s1 races =>
        have kept : s1.mem = s.mem := by
          split at races
          · cases races
            rfl
          · exact State.stepRaces_inl_mem races
        simp [Took.Canon, kept, h]

theorem State.takeStep_canon (s : State) (u : Nat) (e : Eng) (i mine n : Nat) (r : PassRec) (h : s.mem.wf = true) :
    (s.takeStep u e i mine n r).Canon := by
  unfold State.takeStep
  dsimp only
  split
  · exact h
  split
  · split
    · exact h
    split
    · exact h
    split
    · have now := s.readNow_canon u e i r ((s.unit u).stream i) ‹_› (runFrom ((s.unit u).stream i).pc n) h
      split
      next got =>
        rw [got] at now
        exact now
      · exact now
    · split
      · exact h
      · exact h
      · split
        · exact s.poisonTrap_wf u _ h
        · split
          next keys =>
            have kept := State.pieceKeys_canon h keys
            exact kept
          · exact State.streamFault_getD_canon _ _ _ _ _ h h
          · exact h
  · exact h

end Sys2Proof.Machine
end


section
/-! O7. The words of the vector side, of L and W, of queues and of near memory. -/
namespace Sys2Proof.Machine

@[simp] theorem bankInfo_wf (c : Cause) (b : Nat) (r : PassRec) : (bankInfo c b r).Canon := by
  simp [bankInfo]

@[simp] theorem State.vIssue_wf (s : State) (U : UnitSt) (r : PassRec) (f : Flight) (v : VUse)
    (lanes : UnitSt → List Nat × Nat) (h : s.mem.wf = true) : (s.vIssue U r f v lanes).Canon := by
  unfold State.vIssue
  split
  · exact h
  split
  · trivial
  · exact h
  · split
    next parity => exact State.parityChk_wf parity h
    · exact h

@[simp] theorem State.vWord_wf (s : State) (tk : Tok) (x : XV) (v : VUse) (lanes : UnitSt → PassRec →
  List Nat × Nat) (h : s.mem.wf = true) : OutCanon (s.vWord tk x v lanes) :=
  State.eWord_wf _ _ _ _ h fun s U r f h => by simp [h]

@[simp] theorem State.laneWord_wf (s : State) (tk : Tok) (f : FV) (x : XV) (useB useD : Bool) (g : LMode → Nat → Nat → Nat →
  Nat × Nat) (h : s.mem.wf = true) : OutCanon (s.laneWord tk f x useB useD g) := by
  simp [State.laneWord, h]

@[simp] theorem execVadd_wf (tk : Tok) (f : FV) (x : XV) (s : State) (h : s.mem.wf = true) : OutCanon (execVadd tk f x s) := by
  simp [execVadd, h]

@[simp] theorem execVsub_wf (tk : Tok) (f : FV) (x : XV) (s : State) (h : s.mem.wf = true) : OutCanon (execVsub tk f x s) := by
  simp [execVsub, h]

@[simp] theorem execVmul_wf (tk : Tok) (f : FV) (x : XV) (s : State) (h : s.mem.wf = true) : OutCanon (execVmul tk f x s) := by
  simp [execVmul, h]

@[simp] theorem execVfma_wf (tk : Tok) (f : FV) (x : XV) (s : State) (h : s.mem.wf = true) : OutCanon (execVfma tk f x s) := by
  simp [execVfma, h]

@[simp] theorem execVfms_wf (tk : Tok) (f : FV) (x : XV) (s : State) (h : s.mem.wf = true) : OutCanon (execVfms tk f x s) := by
  simp [execVfms, h]

@[simp] theorem execVfnma_wf (tk : Tok) (f : FV) (x : XV) (s : State) (h : s.mem.wf = true) : OutCanon (execVfnma tk f x s)
  := by
  simp [execVfnma, h]

@[simp] theorem execVdiv_wf (tk : Tok) (f : FV) (x : XV) (s : State) (h : s.mem.wf = true) : OutCanon (execVdiv tk f x s) := by
  simp [execVdiv, h]

@[simp] theorem execVsqrt_wf (tk : Tok) (f : FV) (x : XV) (s : State) (h : s.mem.wf = true) : OutCanon (execVsqrt tk f x s)
  := by
  simp [execVsqrt, h]

@[simp] theorem execVrcp_wf (tk : Tok) (f : FV) (x : XV) (s : State) (h : s.mem.wf = true) : OutCanon (execVrcp tk f x s) := by
  simp [execVrcp, h]

@[simp] theorem execVrsq_wf (tk : Tok) (f : FV) (x : XV) (s : State) (h : s.mem.wf = true) : OutCanon (execVrsq tk f x s) := by
  simp [execVrsq, h]

@[simp] theorem execVexp2_wf (tk : Tok) (f : FV) (x : XV) (s : State) (h : s.mem.wf = true) : OutCanon (execVexp2 tk f x s)
  := by
  simp [execVexp2, h]

@[simp] theorem execVlog2_wf (tk : Tok) (f : FV) (x : XV) (s : State) (h : s.mem.wf = true) : OutCanon (execVlog2 tk f x s)
  := by
  simp [execVlog2, h]

@[simp] theorem execVmin_wf (tk : Tok) (f : FV) (x : XV) (s : State) (h : s.mem.wf = true) : OutCanon (execVmin tk f x s) := by
  simp [execVmin, h]

@[simp] theorem execVmax_wf (tk : Tok) (f : FV) (x : XV) (s : State) (h : s.mem.wf = true) : OutCanon (execVmax tk f x s) := by
  simp [execVmax, h]

@[simp] theorem execVabs_wf (tk : Tok) (f : FV) (x : XV) (s : State) (h : s.mem.wf = true) : OutCanon (execVabs tk f x s) := by
  simp [execVabs, h]

@[simp] theorem execVneg_wf (tk : Tok) (f : FV) (x : XV) (s : State) (h : s.mem.wf = true) : OutCanon (execVneg tk f x s) := by
  simp [execVneg, h]

@[simp] theorem execVand_wf (tk : Tok) (f : FV) (x : XV) (s : State) (h : s.mem.wf = true) : OutCanon (execVand tk f x s) := by
  simp [execVand, h]

@[simp] theorem execVor_wf (tk : Tok) (f : FV) (x : XV) (s : State) (h : s.mem.wf = true) : OutCanon (execVor tk f x s) := by
  simp [execVor, h]

@[simp] theorem execVxor_wf (tk : Tok) (f : FV) (x : XV) (s : State) (h : s.mem.wf = true) : OutCanon (execVxor tk f x s) := by
  simp [execVxor, h]

@[simp] theorem execVnot_wf (tk : Tok) (f : FV) (x : XV) (s : State) (h : s.mem.wf = true) : OutCanon (execVnot tk f x s) := by
  simp [execVnot, h]

@[simp] theorem execVshl_wf (tk : Tok) (f : FV) (x : XV) (s : State) (h : s.mem.wf = true) : OutCanon (execVshl tk f x s) := by
  simp [execVshl, h]

@[simp] theorem execVshr_wf (tk : Tok) (f : FV) (x : XV) (s : State) (h : s.mem.wf = true) : OutCanon (execVshr tk f x s) := by
  simp [execVshr, h]

@[simp] theorem execVsra_wf (tk : Tok) (f : FV) (x : XV) (s : State) (h : s.mem.wf = true) : OutCanon (execVsra tk f x s) := by
  simp [execVsra, h]

@[simp] theorem execVmulh_wf (tk : Tok) (f : FV) (x : XV) (s : State) (h : s.mem.wf = true) : OutCanon (execVmulh tk f x s)
  := by
  simp [execVmulh, h]

@[simp] theorem execVcmp_wf (tk : Tok) (f : FV) (x : XV) (s : State) (h : s.mem.wf = true) : OutCanon (execVcmp tk f x s) := by
  simp [execVcmp, h]

@[simp] theorem execVsel_wf (tk : Tok) (f : FV) (x : XV) (s : State) (h : s.mem.wf = true) : OutCanon (execVsel tk f x s) := by
  simp [execVsel, h]

@[simp] theorem execVmov_wf (tk : Tok) (f : FV) (x : XV) (s : State) (h : s.mem.wf = true) : OutCanon (execVmov tk f x s) := by
  simp [execVmov, h]

@[simp] theorem execVcvt_wf (tk : Tok) (f : FV) (x : XV) (s : State) (h : s.mem.wf = true) : OutCanon (execVcvt tk f x s) := by
  simp [execVcvt, h]

@[simp] theorem execVclass_wf (tk : Tok) (f : FV) (x : XV) (s : State) (h : s.mem.wf = true) : OutCanon (execVclass tk f x s)
  := by
  simp [execVclass, h]

@[simp] theorem execVidx_wf (tk : Tok) (f : FV) (x : XV) (s : State) (h : s.mem.wf = true) : OutCanon (execVidx tk f x s) := by
  simp [execVidx, h]

@[simp] theorem execVbcast_wf (tk : Tok) (f : FV) (x : XV) (s : State) (h : s.mem.wf = true) : OutCanon (execVbcast tk f x s)
  := by
  simp [execVbcast, h]

@[simp] theorem execVextr_wf (tk : Tok) (f : FV) (x : XV) (s : State) (h : s.mem.wf = true) : OutCanon (execVextr tk f x s)
  := by
  simp [execVextr, h]

@[simp] theorem execVred_wf (tk : Tok) (f : FV) (x : XV) (s : State) (h : s.mem.wf = true) : OutCanon (execVred tk f x s) := by
  simp [execVred, h]

@[simp] theorem execVscan_wf (tk : Tok) (f : FV) (x : XV) (s : State) (h : s.mem.wf = true) : OutCanon (execVscan tk f x s)
  := by
  simp [execVscan, h]

@[simp] theorem execVshuf_wf (tk : Tok) (f : FV) (x : XV) (s : State) (h : s.mem.wf = true) : OutCanon (execVshuf tk f x s)
  := by
  simp [execVshuf, h]

@[simp] theorem execVrot_wf (tk : Tok) (f : FV) (x : XV) (s : State) (h : s.mem.wf = true) : OutCanon (execVrot tk f x s) := by
  simp [execVrot, h]

@[simp] theorem State.releaseCq_mem (s : State) (u n k : Nat) : (s.releaseCq u n k).mem = s.mem := by
  fun_cases State.releaseCq s u n k <;> simp

@[simp] theorem State.acquireCq_mem (s : State) (u n k : Nat) : (s.acquireCq u n k).mem = s.mem := by
  fun_cases State.acquireCq s u n k <;> simp

@[simp] theorem execVcpush_wf (tk : Tok) (f : FV) (x : XV) (s : State) (h : s.mem.wf = true) : OutCanon (execVcpush tk f x s)
  := by
  refine State.eWord_wf _ _ _ _ h fun s U r fl h => ?_
  have issued := s.vIssue_wf U r fl ⟨some x.va, some x.vb, none, false⟩ (fun _ => ([], 0)) h
  dsimp only
  split
  · trivial
  split
  next go =>
    rw [go, Res.canon_go] at issued
    split_ifs <;> simp [h, issued]
  · exact issued

@[simp] theorem execVcpop_wf (tk : Tok) (f : FV) (x : XV) (s : State) (h : s.mem.wf = true) : OutCanon (execVcpop tk f x s)
  := by
  refine State.eWord_wf _ _ _ _ h fun s U r fl h => ?_
  have issued := fun lanes => s.vIssue_wf U r fl ⟨none, none, some f.vd, false⟩ lanes h
  dsimp only
  split
  · trivial
  split
  next go =>
    have went := go ▸ issued _
    rw [Res.canon_go] at went
    split_ifs <;> simp [h, went]
  · exact issued _

@[simp] theorem execVccnt_wf (tk : Tok) (f : FV) (x : XV) (s : State) (h : s.mem.wf = true) : OutCanon (execVccnt tk f x s)
  := by
  refine State.eWord_wf _ _ _ _ h fun s U r f h => ?_
  split_ifs <;> simp [h]

@[simp] theorem execVrng_wf (tk : Tok) (f : FV) (x : XV) (s : State) (h : s.mem.wf = true) : OutCanon (execVrng tk f x s) := by
  simp [execVrng, h]

@[simp] theorem execVql6_wf (tk : Tok) (f : FV) (x : XV) (s : State) (h : s.mem.wf = true) : OutCanon (execVql6 tk f x s) := by
  simp [execVql6, h]

@[simp] theorem execVdl6_wf (tk : Tok) (f : FV) (x : XV) (s : State) (h : s.mem.wf = true) : OutCanon (execVdl6 tk f x s) := by
  simp [execVdl6, h]

@[simp] theorem execVpack_wf (tk : Tok) (f : FV) (x : XV) (s : State) (h : s.mem.wf = true) : OutCanon (execVpack tk f x s)
  := by
  simp [execVpack, h]

@[simp] theorem execVunpk_wf (tk : Tok) (f : FV) (x : XV) (s : State) (h : s.mem.wf = true) : OutCanon (execVunpk tk f x s)
  := by
  simp [execVunpk, h]

@[simp] theorem execBhint_wf (tk : Tok) (d fall kind : Nat) (g : XP) (s : State) (h : s.mem.wf = true) : OutCanon (execBhint
  tk d fall kind g s) := by
  refine State.eWord_wf _ _ _ _ h fun s U r f h => ?_
  split <;> simp [h]

@[simp] theorem execBwake_wf (tk : Tok) (d kind : Nat) (g : XP) (s : State) (h : s.mem.wf = true) : OutCanon (execBwake tk d
  kind g s) := by
  refine State.eWord_wf _ _ _ _ h fun s U r f h => ?_
  split <;> simp [h]

@[simp] theorem execBalloc_wf (tk : Tok) (d take : Nat) (g : XP) (s : State) (h : s.mem.wf = true) : OutCanon (execBalloc tk
  d take g s) := by
  refine State.eWord_wf _ _ _ _ h fun s U r f h => ?_
  split_ifs <;> simp [h]

@[simp] theorem execBstat_wf (tk : Tok) (d imm : Nat) (g : XP) (s : State) (h : s.mem.wf = true) : OutCanon (execBstat tk d
  imm g s) := by
  refine State.eWord_wf _ _ _ _ h fun s U r f h => ?_
  split <;> simp [h]

@[simp] theorem execVWordRetire_wf (u : Nat) (s : State) (h : s.mem.wf = true) : OutCanon (execVWordRetire u s) := by
  unfold execVWordRetire
  dsimp only
  split
  · trivial
  · rw [outCanon_next]
    split
    · split <;> simp [h]
    · exact h

theorem Took.toRes_wf {t : Machine.Took} (ht : t.Canon) (u : Nat) {k : State → List Nat → List Nat → Res}
    (keeps : ∀ s x y, s.mem.wf = true → (k s x y).Canon) : (t.toRes u k).Canon := by
  cases t with
  | got s x y => exact keeps _ _ _ ht
  | stall s => exact ht
  | trap s c i0 i1 => exact ht
  | mcheck s => exact ht

@[simp] theorem State.loadGate_wf (s : State) (U : UnitSt) (bs : List (Nat × Bool)) (r : PassRec) (k : Res) (h : s.mem.wf =
  true)
    (hk : k.Canon) : (s.loadGate U bs r k).Canon := by
  fun_cases State.loadGate s U bs r k <;> simp [h, hk, bankInfo]

@[simp] theorem execLsv_wf (tk : Tok) (i sp : Nat) (g : XP) (s : State) (h : s.mem.wf = true) : OutCanon (execLsv tk i sp g
  s) := by
  refine State.eWord_wf _ _ _ _ h fun s U r f h => State.loadGate_wf _ _ _ _ _ h ?_
  split
  · trivial
  · exact Took.toRes_wf (State.takeStep_canon _ _ _ _ _ _ _ h) _ fun s x y h => h

@[simp] theorem execLbrd_wf (tk : Tok) (i sp : Nat) (g : XP) (s : State) (h : s.mem.wf = true) : OutCanon (execLbrd tk i sp g
  s) := by
  refine State.eWord_wf _ _ _ _ h fun s U r f h => State.loadGate_wf _ _ _ _ _ h ?_
  split
  · trivial
  · exact Took.toRes_wf (State.takeStep_canon _ _ _ _ _ _ _ h) _ fun s x y h => h

theorem State.takeRow_canon (s : State) (u i : Nat) (d : Desc) (t : Stream) (r : PassRec) (h : s.mem.wf = true) :
    (s.takeRow u i d t r).Canon := by
  have now := fun es => s.readNow_canon u .L i r t d es h
  unfold State.takeRow
  dsimp only
  split
  · split
    next got =>
      have read := got ▸ now _
      exact read
    · exact now _
  · have took := fun n => s.takeStep_canon u .L i 1 n r h
    split
    · split
      next got =>
        have read := got ▸ now _
        exact read
      · exact now _
    · exact took _

@[simp] theorem execLgath_wf (tk : Tok) (i sp : Nat) (x : XV) (s : State) (h : s.mem.wf = true) : OutCanon (execLgath tk i sp
  x s) := by
  refine State.eWord_wf _ _ _ _ h fun s U r f h => ?_
  dsimp only
  split
  · exact h
  refine State.loadGate_wf _ _ _ _ _ h ?_
  split
  · exact h
  split
  · split
    · trivial
    split
    next parity => exact State.parityChk_wf parity h
    · split
      · exact Took.toRes_wf (State.takeStep_canon _ _ _ _ _ _ _ h) _ fun s x y h => h
      · exact Took.toRes_wf (State.takeRow_canon _ _ _ _ _ _ h) _ fun s x y h => h
  · trivial

@[simp] theorem State.loadWordDone_mem (s : State) (u : Nat) : (s.loadWordDone u).mem = s.mem := by
  fun_cases State.loadWordDone s u <;> simp

@[simp] theorem execLoadWordPerformed_wf (u : Nat) (s : State) (h : s.mem.wf = true) : OutCanon (execLoadWordPerformed u s)
  := by
  simp [execLoadWordPerformed, h]

theorem State.storePlaces_canon {s : State} {u : Nat} {c : Cap} (h : s.mem.wf = true) :
    ∀ l : List (Nat × List Byte), (s.storePlaces u c l).Canon
  | [] => trivial
  | (o, bs) :: l => by
    have rest := State.storePlaces_canon (u := u) (c := c) h l
    rw [State.storePlaces]
    dsimp only
    split
    · exact h
    next banks => exact State.spadChk_wait h banks
    · split
      · split
        · trivial
        · exact rest
      · split
        · split
          · trivial
          · exact rest
        · exact h
      · simpa [WAcc.Canon] using h
      · simpa [WAcc.Canon] using h



@[simp] theorem State.storeIssue_wf (s : State) (U : UnitSt) (i : Nat) (r : PassRec) (f : Flight) (d : Desc) (t : Stream)
    (es vals : List Nat) (pc : Nat) (add : Option (Nat × Nat)) (reads : List Nat) (h : s.mem.wf = true) :
    (s.storeIssue U i r f d t es vals pc add reads).Canon := by
  have places := fun l => State.storePlaces_canon (u := s.who.1) (c := d.capD) h l
  unfold State.storeIssue
  dsimp only
  split
  · trivial
  split
  · exact h
  split
  next stop =>
    have kept := stop ▸ places _
    exact kept
  next stop =>
    have kept := stop ▸ places _
    exact kept
  · split
    next race =>
      split at race
      · simpa [State.raceAll_inr_mem race] using h
      · cases race
    next s1 race =>
      have kept : s1.mem.wf = true := by
        split at race
        · simpa [State.raceAll_inl_mem race] using h
        · cases race
          exact h
      split <;> simpa using kept

theorem State.storeWord_wf (s : State) (tk : Tok) (g : XP) (i : Nat) (sps : List Nat)
    (k : State → UnitSt → PassRec → Flight → Desc → Stream → Res) (h : s.mem.wf = true)
    (keeps : ∀ s U r f d t, s.mem.wf = true → (k s U r f d t).Canon) : OutCanon (s.storeWord tk g i sps k) := by
  refine State.eWord_wf _ _ _ _ h fun s U r f h => ?_
  dsimp only
  split
  · trivial
  · exact h
  · split
    · exact h
    split
    · split
      next parity => exact State.parityChk_wf parity h
      · exact keeps _ _ _ _ _ _ h
    · trivial

@[simp] theorem execWsv_wf (tk : Tok) (i sp last : Nat) (g : XP) (s : State) (h : s.mem.wf = true) : OutCanon (execWsv tk i
  sp last g s) := by
  unfold execWsv
  refine State.storeWord_wf _ _ _ _ _ _ h fun s U r f d t h => ?_
  simp [h]

@[simp] theorem execWscat_wf (tk : Tok) (i sp last : Nat) (x : XV) (s : State) (h : s.mem.wf = true) :
    OutCanon (execWscat tk i sp last x s) := by
  unfold execWscat
  refine State.storeWord_wf _ _ _ _ _ _ h fun s U r f d t h => ?_
  dsimp only
  split <;> simp [h]

@[simp] theorem execWacc_wf (tk : Tok) (i sp last : Nat) (g : XP) (s : State) (h : s.mem.wf = true) : OutCanon (execWacc tk i
  sp last g s) := by
  unfold execWacc
  refine State.storeWord_wf _ _ _ _ _ _ h fun s U r f d t h => ?_
  simp [h]

theorem State.storeElems_wf (u : Nat) (o : WOp) : ∀ (l : List (Nat × List Byte)) (j fl : Nat) {s : State}, s.mem.wf = true →
    (s.storeElems u o l j fl).1.mem.wf = true
  | [], _, _, _, h => h
  | (k, bs) :: l, j, fl, s, h => by
    rw [State.storeElems]
    split
    · exact State.storeElems_wf u o l _ _ (by simp [h, Mem.wf_writeTag])
    · exact State.storeElems_wf u o l _ _ (by simp [h, Mem.wf_writeTag])

@[simp] theorem State.performW_wf (s : State) (u id : Nat) (h : s.mem.wf = true) : (s.performW u id).mem.wf = true := by
  unfold State.performW
  dsimp only
  split
  · exact h
  split
  · exact h
  split
  · simp [h]
  · exact h
  · split
    next poison =>
      split at poison
      · obtain ⟨k, _, bad⟩ := List.exists_of_findSome?_eq_some poison
        exact State.poisonCheck_wf bad h
      · cases poison
    · simp [State.storeElems_wf _ _ _ _ _ h]

@[simp] theorem execStoreWordPerformed_wf (u id : Nat) (s : State) (h : s.mem.wf = true) : OutCanon (execStoreWordPerformed u
  id s) := unitEvent_wf _ h (by split <;> simp [h])

@[simp] theorem execWflush_wf (tk : Tok) (scope : Nat) (s : State) (h : s.mem.wf = true) : OutCanon (execWflush tk scope s)
  := by
  refine State.eWord_wf _ _ _ _ h fun s U r f h => ?_
  split_ifs <;> simp [h]

@[simp] theorem execQpush_wf (tk : Tok) (d stage : Nat) (g : XP) (s : State) (h : s.mem.wf = true) : OutCanon (execQpush tk d
  stage g s) := by
  refine State.sWord_wf _ _ _ _ _ h fun s U r f h => ?_
  dsimp only
  split_ifs <;> simp [h]

@[simp] theorem execQpop_wf (tk : Tok) (d : Nat) (g : XP) (s : State) (h : s.mem.wf = true) : OutCanon (execQpop tk d g s) := by
  refine State.sWord_wf _ _ _ _ _ h fun s U r f h => ?_
  dsimp only
  repeat' split
  all_goals simp [h]

@[simp] theorem State.barArrive_mem (s : State) (u n : Nat) : (s.barArrive u n).mem = s.mem := by
  fun_cases State.barArrive s u n <;> simp

@[simp] theorem execBar_wf (tk : Tok) (num scope : Nat) (s : State) (h : s.mem.wf = true) : OutCanon (execBar tk num scope s)
  := by
  refine State.sWord_wf _ _ _ _ _ h fun s U r f h => ?_
  dsimp only
  split_ifs <;> simp [h]

@[simp] theorem State.barAgain_mem (s : State) (u n : Nat) : (s.barAgain u n).mem = s.mem := by
  fun_cases State.barAgain s u n <;> simp

@[simp] theorem State.barComplete_mem (s0 : State) (t n : Nat) : (s0.barComplete t n).mem = s0.mem := by
  unfold State.barComplete
  extract_lets s
  have again : s.mem = s0.mem := by
    unfold s
    split
    · exact foldl_mem (fun s u => s.barAgain_mem u n) _ _
    · rfl
  split
  · exact again
  · dsimp only
    split
    · rw [foldl_mem]
      · exact again
      · exact fun s u => rfl
    · exact again

@[simp] theorem execBarComplete_wf (t n : Nat) (s : State) (h : s.mem.wf = true) : OutCanon (execBarComplete t n s) := by
  simp [execBarComplete, h]

@[simp] theorem waitBody_wf (x : XW) (s : State) (U : UnitSt) (r : PassRec) (f : Flight) (h : s.mem.wf = true) :
    (waitBody x s U r f).Canon := by
  fun_cases waitBody x s U r f <;> simp [h]

@[simp] theorem execWaitS_wf (tk : Tok) (w : XW) (s : State) (h : s.mem.wf = true) : OutCanon (execWaitS tk w s) :=
  State.sWord_wf _ _ _ _ _ h fun s U r f h => by simp [h]

@[simp] theorem execWaitL_wf (tk : Tok) (w : XW) (s : State) (h : s.mem.wf = true) : OutCanon (execWaitL tk w s) :=
  State.eWord_wf _ _ _ _ h fun s U r f h => by simp [h]

@[simp] theorem execWaitV_wf (tk : Tok) (w : XW) (s : State) (h : s.mem.wf = true) : OutCanon (execWaitV tk w s) :=
  State.eWord_wf _ _ _ _ h fun s U r f h => by simp [h]

@[simp] theorem execWaitW_wf (tk : Tok) (w : XW) (s : State) (h : s.mem.wf = true) : OutCanon (execWaitW tk w s) :=
  State.eWord_wf _ _ _ _ h fun s U r f h => by simp [h]

@[simp] theorem execWaitM_wf (tk : Tok) (w : XW) (s : State) (h : s.mem.wf = true) : OutCanon (execWaitM tk w s) :=
  State.eWord_wf _ _ _ _ h fun s U r f h => by simp [h]

@[simp] theorem execWaitC_wf (tk : Tok) (w : XW) (s : State) (h : s.mem.wf = true) : OutCanon (execWaitC tk w s) :=
  State.eWord_wf _ _ _ _ h fun s U r f h => by simp [h]

@[simp] theorem nopBody_wf (s : State) (U : UnitSt) (r : PassRec) (f : Flight) (h : s.mem.wf = true) :
    (nopBody s U r f).Canon := h

@[simp] theorem execNopS_wf (tk : Tok) (s : State) (h : s.mem.wf = true) : OutCanon (execNopS tk s) := State.sWord_wf _ _ _ _
  _ h fun _ _ _ _ h => h

@[simp] theorem execNopL_wf (tk : Tok) (s : State) (h : s.mem.wf = true) : OutCanon (execNopL tk s) := State.eWord_wf _ _ _ _
  h fun _ _ _ _ h => h

@[simp] theorem execNopV_wf (tk : Tok) (s : State) (h : s.mem.wf = true) : OutCanon (execNopV tk s) := State.eWord_wf _ _ _ _
  h fun _ _ _ _ h => h

@[simp] theorem execNopW_wf (tk : Tok) (s : State) (h : s.mem.wf = true) : OutCanon (execNopW tk s) := State.eWord_wf _ _ _ _
  h fun _ _ _ _ h => h

@[simp] theorem execNopM_wf (tk : Tok) (s : State) (h : s.mem.wf = true) : OutCanon (execNopM tk s) := State.eWord_wf _ _ _ _
  h fun _ _ _ _ h => h

@[simp] theorem execNopC_wf (tk : Tok) (s : State) (h : s.mem.wf = true) : OutCanon (execNopC tk s) := State.eWord_wf _ _ _ _
  h fun _ _ _ _ h => h

theorem State.nmTranslate_canon {s : State} {u a : Nat} (h : s.mem.wf = true) : ∀ l : List AccKind, (s.nmTranslate u a l).Canon
  | [] => h
  | k :: l => by
    rw [State.nmTranslate]
    split
    · split
      · trivial
      · exact State.nmTranslate_canon h l
    · split
      · trivial
      · exact State.nmTranslate_canon h l
    · simpa [NmAcc.Canon] using h
    · simpa [NmAcc.Canon] using h

theorem NmAcc.toRes_canon {x : NmAcc} (hx : x.Canon) {k : Nat → Nat → Bool → Res} (keeps : ∀ a b c, (k a b c).Canon) :
    (match x with
      | .wait s => Res.stall s
      | .trap s c i0 i1 => .trapAt s c i0 i1
      | .ok a b c => k a b c).Canon := by
  cases x with
  | ok a b c => exact keeps a b c
  | wait s => exact hx
  | trap s c i0 i1 => exact hx

@[simp] theorem execNmc_wf (tk : Tok) (d a b : Nat) (m : XM) (s : State) (h : s.mem.wf = true) : OutCanon (execNmc tk d a b m
  s) := by
  refine State.sWord_wf _ _ _ _ _ h fun s U r f h => ?_
  have page := fun a l => State.nmTranslate_canon (u := s.who.1) (a := a) h l
  extract_lets u w0 w1 soff ngran crec op two c o n bad
  split
  · trivial
  split
  · exact h
  split
  · trivial
  split
  · trivial
  split
  · trivial
  split
  · trivial
  split
  · trivial
  refine NmAcc.toRes_canon (page _ _) fun dkey dbits dmig => ?_
  have source : ∀ {a : Nat} {x : NmAcc}, x.Canon → (if two then s.nmTranslate u a [.read] else x).Canon := fun hx => by
    split
    · exact page _ _
    · exact hx
  refine NmAcc.toRes_canon (source (x := .ok dkey 64 false) trivial) fun skey sbits smig => ?_
  split
  · exact h
  · exact h

@[simp] theorem execNmfence_wf (tk : Tok) (s : State) (h : s.mem.wf = true) : OutCanon (execNmfence tk s) := by
  refine State.sSerial_wf _ _ _ _ _ h fun s U r f h => ?_
  repeat' split
  all_goals simp [h]

theorem Nmc.run_wf : ∀ (n : Nat) (c : Nmc) (s : State) (i : Nat), s.mem.wf = true → (c.run s i n).1.mem.wf = true
  | 0, _, _, _, h => h
  | n + 1, c, s, i, h => by
    rw [Nmc.run]
    split
    · exact Mem.wf_setPoison h _
    · exact Nmc.run_wf n _ _ _ (by simp [h, Mem.wf_writeTag])

@[simp] theorem Nmc.judge_wf (c : Nmc) (s : State) (h : s.mem.wf = true) : (c.judge s).1.mem.wf = true := by
  unfold Nmc.judge
  dsimp only
  split_ifs
  · exact h
  · exact h
  · exact c.run_wf _ _ _ h

theorem State.nmLate_canon {s : State} {u a : Nat} (h : s.mem.wf = true) : ∀ l : List AccKind, (s.nmLate u a l).Canon
  | [] => h
  | k :: l => by
    rw [State.nmLate]
    split
    · exact h
    · split
      · split
        · trivial
        · exact State.nmLate_canon h l
      · exact h
      · exact h

@[simp] theorem State.nmRelease_wf (s : State) (k : Nat) (c : Nmc) (h : s.mem.wf = true) : (s.nmRelease k c).mem.wf = true := by
  fun_cases State.nmRelease s k c <;> simp +zetaDelta [h]

@[simp] theorem State.nmCommand_wf (s0 : State) (k : Nat) (h : s0.mem.wf = true) : (s0.nmCommand k).mem.wf = true := by
  unfold State.nmCommand
  extract_lets s
  have released : s.mem.wf = true := by
    unfold s
    split <;> simp [h]
  split
  · exact released
  · simp [released]

@[simp] theorem State.nmCommandEnd_wf (s0 : State) (k : Nat) (h : s0.mem.wf = true) : (s0.nmCommandEnd k).mem.wf = true := by
  unfold State.nmCommandEnd
  split
  · exact h
  · extract_lets s D s1 U V W
    have fallen : s.mem.wf = true := foldl_wf (fun s j => s.fallIfDue_wf _ 1 j) _ h
    split
    · exact fallen
    · simp [s1, fallen, Mem.wf_writeTag]

@[simp] theorem execNmCommand_wf (k : Nat) (s : State) (h : s.mem.wf = true) : OutCanon (execNmCommand k s) := by
  simp [execNmCommand, h]

@[simp] theorem execNmCommandEnd_wf (k : Nat) (s : State) (h : s.mem.wf = true) : OutCanon (execNmCommandEnd k s) := by
  simp [execNmCommandEnd, h]

end Sys2Proof.Machine
end


section
/-! O7. Tile operations, moves, translation and Dovetail. -/
namespace Sys2Proof.Machine

theorem State.firstStep_canon (s : State) (u i : Nat) (d : Desc) (c0 n : Nat) (r : PassRec) (h : s.mem.wf = true) :
    (s.firstStep u i d c0 n r).Canon := by
  have step := s.takeStep_canon u .M i 2 c0 r h
  unfold State.firstStep
  split
  next got =>
    rw [got] at step
    split
    · exact step
    split
    next races => exact State.takeStep_canon _ _ _ _ _ _ _ (by rw [State.stepRaces_inl_mem races]; exact h)
    next races => exact State.stepRaces_inr_canon races h
  · exact step

theorem Res.canon_ite {c : Prop} [Decidable c] {x y : Res} (hx : x.Canon) (hy : y.Canon) : (if c then x else y).Canon := by
  split
  · exact hx
  · exact hy

@[simp] theorem State.mmul_wf (s : State) (tk : Tok) (i bk : Nat) (x : XMM) (bf16 : Bool) (h : s.mem.wf = true) :
    OutCanon (s.mmul tk i bk x bf16) := by
  refine State.eWord_wf _ _ _ _ h fun s U r f h => ?_
  have first := fun d c0 n => s.firstStep_canon s.who.1 i d c0 n r h
  dsimp only
  split
  · refine Res.canon_ite trivial (Res.canon_ite trivial (Res.canon_ite trivial (Res.canon_ite trivial (Res.canon_ite trivial
      ?_))))
    split
    · trivial
    · exact h
    refine Res.canon_ite trivial (Res.canon_ite h ?_)
    split
    next took =>
      have kept := took ▸ first _ _ _
      exact kept
    next took =>
      have kept := took ▸ first _ _ _
      exact kept
    next took =>
      have kept := took ▸ first _ _ _
      exact kept
    next took =>
      have kept := took ▸ first _ _ _
      exact kept
  · trivial

@[simp] theorem execMmul_wf (tk : Tok) (i bk last : Nat) (x : XMM) (s : State) (h : s.mem.wf = true) : OutCanon (execMmul tk
  i bk last x s) := by
  simp [execMmul, h]

@[simp] theorem execMmulb_wf (tk : Tok) (i bk last : Nat) (x : XMM) (s : State) (h : s.mem.wf = true) : OutCanon (execMmulb
  tk i bk last x s) := by
  simp [execMmulb, h]

@[simp] theorem State.wholeBank_wf (s : State) (tk : Tok) (g : XP) (b : Nat) (scal : Option Word32) (h : s.mem.wf = true) :
  OutCanon (s.wholeBank tk g b scal) := by
  refine State.eWord_wf _ _ _ _ h fun s U r f h => ?_
  repeat' split
  all_goals simp [h]

@[simp] theorem execMscal_wf (tk : Tok) (d imm32 : Nat) (s : State) (h : s.mem.wf = true) : OutCanon (execMscal tk d imm32 s)
  := by
  simp [execMscal, h]

@[simp] theorem execMclr_wf (tk : Tok) (d : Nat) (g : XP) (s : State) (h : s.mem.wf = true) : OutCanon (execMclr tk d g s) := by
  simp [execMclr, h]

@[simp] theorem execMbset_wf (tk : Tok) (imm imm32 : Nat) (s : State) (h : s.mem.wf = true) : OutCanon (execMbset tk imm
  imm32 s) := State.eWord_wf _ _ _ _ h fun _ _ _ _ h => h

theorem State.takeSteps_wf (u : Nat) (r : PassRec) : ∀ (n : Nat) (s : State) (o : MOp), s.mem.wf = true →
    (s.takeSteps u o r n).elim (fun q => q.1.mem.wf = true) fun q => q.1.mem.wf = true
  | 0, _, _, h => h
  | n + 1, s, o, h => by
    have took : ∀ {x : Machine.Took}, (match o.rest with
        | none => s.takeStep u .M o.s 2 o.c0 r
        | some (d, p) => s.readNow u .M o.s r Stream.reset d (runFrom p o.c0)) = x → x.Canon := by
      rintro _ rfl
      split
      · exact s.takeStep_canon _ _ _ _ _ _ h
      · exact s.readNow_canon _ _ _ _ _ _ _ h
    rw [State.takeSteps]
    split
    · exact h
    · dsimp only
      split
      next got =>
        have kept := took got
        exact State.takeSteps_wf u r n _ _ kept
      next got =>
        have kept := took got
        exact kept
      next got =>
        have kept := took got
        exact kept
      next got =>
        have kept := took got
        exact kept

@[simp] theorem State.roundOps_wf (s : State) (u : Nat) (o : MOp) (f : MOp → MOp) (h : s.mem.wf = true) :
    (s.roundOps u o f).mem.wf = true := by
  rwa [State.roundOps_mem]

@[simp] theorem State.readBLine_wf (s : State) (u id k : Nat) (h : s.mem.wf = true) : (s.readBLine u id k).mem.wf = true := by
  unfold State.readBLine
  split
  · split
    · exact h
    split
    next poison => exact State.poisonCheck_wf poison h
    · simp [h]
  · exact h

@[simp] theorem State.carry_wf (s : State) (u : Nat) (o : MOp) (m : Mem) (h : s.mem.wf = true) :
    (s.carry u o m).mem.wf = true := by
  rwa [State.carry_mem]

theorem State.bPoison_wf {s t : State} {u : Nat} {o : MOp} (e : s.bPoison u o = some t) (h : s.mem.wf = true) :
    t.mem.wf = true := by
  obtain ⟨k, _, bad⟩ := List.exists_of_findSome?_eq_some e
  exact State.poisonCheck_wf bad h

@[simp] theorem State.panelComplete_wf (s : State) (u : Nat) (h : s.mem.wf = true) : (s.panelComplete u).mem.wf = true := by
  have steps := fun o r => State.takeSteps_wf u r 64 s o h
  unfold State.panelComplete
  dsimp only
  split
  · exact h
  split
  · exact h
  split
  next took =>
    have kept := took ▸ steps _ _
    exact State.takeTrap_wf _ _ _ kept
  next took =>
    have kept := took ▸ steps _ _
    exact kept
  next s1 o1 took =>
    have kept : s1.mem.wf = true := (took ▸ steps _ _ :)
    split
    · exact kept
    split
    next stop =>
      rcases Option.or_eq_some_iff.mp stop with bad | ⟨_, bad⟩
      · exact State.bPoison_wf bad kept
      · exact State.parityChk_wf bad kept
    · simp [kept]

@[simp] theorem execMmulPanelComplete_wf (u : Nat) (s : State) (h : s.mem.wf = true) : OutCanon (execMmulPanelComplete u s)
  := by
  simp [execMmulPanelComplete, h]

@[simp] theorem State.tileDone_wf (s : State) (u : Nat) (h : s.mem.wf = true) : (s.tileDone u).mem.wf = true := by
  unfold State.tileDone
  dsimp only
  split
  · exact h
  split
  · exact h
  split
  next parity =>
    split at parity
    · cases parity
    · exact State.parityChk_wf parity h
  · exact h

@[simp] theorem execTileOpPerformed_wf (u : Nat) (s : State) (h : s.mem.wf = true) : OutCanon (execTileOpPerformed u s) := by
  simp [execTileOpPerformed, h]

@[simp] theorem State.failJoin_wf (s : State) (l : List (Nat × Bool)) (h : s.mem.wf = true) : (s.failJoin l).mem.wf = true := by
  refine foldl_wf (fun s m h => ?_) l h
  split
  · simp [h]
  · exact h

@[simp] theorem State.formGroup_mem (s : State) (u g : Nat) (G : Group) : (s.formGroup u g G).mem = s.mem := by
  rw [State.formGroup, State.setGroup_mem, foldl_mem]
  exact fun _ _ => rfl

@[simp] theorem execMjoin_wf (tk : Tok) (sz src g : Nat) (s : State) (h : s.mem.wf = true) : OutCanon (execMjoin tk sz src g
  s) := by
  refine State.eWord_wf _ _ _ _ h fun s U r f h => ?_
  dsimp only
  split_ifs <;> simp [h]

@[simp] theorem execMleave_wf (tk : Tok) (g : Nat) (s : State) (h : s.mem.wf = true) : OutCanon (execMleave tk g s) := by
  refine State.eWord_wf _ _ _ _ h fun s U r f h => ?_
  dsimp only
  split
  · refine Res.canon_ite trivial (Res.canon_ite (by simp [h]) (Res.canon_ite ?_ (by simp [h])))
    rw [Res.canon_go, State.setGroup_mem, foldl_mem]
    · exact h
    · exact fun _ _ => rfl
  · split <;> simp [h, PassRec.trapHere]

@[simp] theorem State.roundStart_wf (s : State) (c g : Nat) (h : s.mem.wf = true) : (s.roundStart c g).mem.wf = true := by
  unfold State.roundStart
  dsimp only
  split
  · split
    · exact h
    split
    · exact foldl_wf (fun s q h => State.takeTrap_wf _ _ _ h) _ h
    · refine foldl_wf (fun s q h => ?_) _ h
      split <;> exact h
  · exact h

@[simp] theorem execSharedBRound_wf (c g : Nat) (s : State) (h : s.mem.wf = true) : OutCanon (execSharedBRound c g s) := by
  simp [execSharedBRound, h]

theorem State.pieces_canon {s : State} {u space : Nat} {k : AccKind} (h : s.mem.wf = true) :
    ∀ {fuel a n : Nat} {x : CStop}, s.pieces u space k a n fuel = .inl x → x.Canon
  | 0, _, _, _, e => by cases e
  | fuel + 1, a, n, x, e => by
    rw [State.pieces] at e
    split at e
    · cases e
    dsimp only at e
    split at e
    · split at e
      · cases e
      · exact State.pieces_canon h e
    · cases e
      trivial
    · cases e
      simpa [CStop.Canon] using h
    · cases e
      trivial

theorem State.cRead_stop {s : State} {u : Nat} {p : Place} {old : Option Snap} {off n : Nat} {x : CStop} (h : s.mem.wf = true)
    (e : s.cRead u p old off n = .inl x) : x.Canon := by
  unfold State.cRead at e
  split at e
  next stop =>
    cases e
    exact State.pieces_canon h stop
  · split at e
    · cases e
      trivial
    · cases e

theorem State.cRead_mem {s : State} {u : Nat} {p : Place} {old : Option Snap} {off n : Nat} {q : State × List Byte}
    (e : s.cRead u p old off n = .inr q) : q.1.mem = s.mem := by
  unfold State.cRead at e
  split at e
  · cases e
  · split at e
    · cases e
    · cases e
      exact foldl_mem (fun s (q : Nat × Nat) => s.touchRange_mem q.1 q.2) _ _

theorem State.putPieces_wf (chk mix : Bool) (u : Nat) : ∀ (l : List (Nat × Nat)) (bs : List Byte) {s : State}, s.mem.wf = true →
    (s.putPieces chk mix u l bs).mem.wf = true
  | [], _, _, h => h
  | (k, n) :: l, bs, s, h => State.putPieces_wf chk mix u l _ (by simp [h, Mem.wf_writeTag])

theorem State.cWrite_stop {s : State} {u : Nat} {p : Place} {chk mix : Bool} {off : Nat} {bs : List Byte} {x : CStop}
    (h : s.mem.wf = true) (e : s.cWrite u p chk mix off bs = .inl x) : x.Canon := by
  unfold State.cWrite at e
  split at e
  next stop =>
    cases e
    exact State.pieces_canon h stop
  · cases e

theorem State.cWrite_wf {s t : State} {u : Nat} {p : Place} {chk mix : Bool} {off : Nat} {bs : List Byte}
    (h : s.mem.wf = true) (e : s.cWrite u p chk mix off bs = .inr t) : t.mem.wf = true := by
  unfold State.cWrite at e
  split at e
  · cases e
  · cases e
    exact State.putPieces_wf _ _ _ _ _ h

theorem Move.fetch_stop {m : Move} {u : Nat} : ∀ {l : List (Bool × Nat × Nat)} {s : State} {x : CStop}, s.mem.wf = true →
    m.fetch u l s = .inl x → x.Canon
  | [], _, _, _, e => by cases e
  | (k, o, n) :: l, s, x, h, e => by
    rw [Move.fetch] at e
    split at e
    next stop =>
      cases e
      split at stop <;> exact State.cRead_stop h stop
    next s1 bs read =>
      have kept : s1.mem = s.mem := by
        split at read <;> exact State.cRead_mem read
      split at e
      next stop =>
        cases e
        exact Move.fetch_stop (by rw [kept]; exact h) stop
      · cases e

theorem Move.fetch_mem {m : Move} {u : Nat} : ∀ {l : List (Bool × Nat × Nat)} {s : State} {q : State × List (List Byte)},
    m.fetch u l s = .inr q → q.1.mem = s.mem
  | [], _, _, e => by
    cases e
    rfl
  | (k, o, n) :: l, s, q, e => by
    rw [Move.fetch] at e
    split at e
    · cases e
    next s1 bs read =>
      have kept : s1.mem = s.mem := by
        split at read <;> exact State.cRead_mem read
      split at e
      · cases e
      next rest =>
        cases e
        exact (Move.fetch_mem rest).trans kept

theorem Move.put_wf {m : Move} {u : Nat} {mix : Bool} {lost : Bool × Bool} : ∀ {l : List RPart} {s : State}, s.mem.wf = true →
    (m.put u mix lost l s).elim CStop.Canon fun t => t.mem.wf = true
  | [], _, h => h
  | (k, o, bs) :: l, s, h => by
    rw [Move.put]
    by_cases gone : (if k then lost.2 else lost.1) = true
    · rw [if_pos gone]
      exact Move.put_wf h
    rw [if_neg gone]
    split
    next stop => split at stop <;> exact State.cWrite_stop h stop
    next wrote =>
      refine Move.put_wf ?_
      split at wrote <;> exact State.cWrite_wf h wrote

theorem Move.where_stop {m : Move} {s : State} {u : Nat} (h : s.mem.wf = true) : ∀ {l : List RPart} {x : CStop},
    m.where_ s u l = .inl x → x.Canon
  | [], _, e => by cases e
  | q :: l, x, e => by
    rw [Move.where_, List.foldr_cons] at e
    dsimp only at e
    split at e
    next stop =>
      cases e
      exact State.pieces_canon h stop
    · cases e
    · exact Move.where_stop (l := l) h e

theorem Move.request_wf (m : Move) (s : State) (u i : Nat) (mix : Bool) (lost : Bool × Bool) (h : s.mem.wf = true) :
    (m.request s u i mix lost).elim CStop.Canon fun q => q.1.mem.wf = true := by
  unfold Move.request
  split
  next stop => exact Move.fetch_stop h stop
  next s1 bs fetched =>
    have kept : s1.mem.wf = true := by
      rw [show s1.mem = s.mem from Move.fetch_mem fetched]
      exact h
    dsimp only
    split
    next stop => exact Move.where_stop kept stop
    · have put := Move.put_wf (m := m) (u := u) (mix := mix) (lost := lost) (l := (m.result i bs).1) kept
      split
      next stop => rwa [stop] at put
      next stop => rwa [stop] at put

theorem Move.check_wf (m : Move) (s : State) (u i : Nat) (h : s.mem.wf = true) :
    (m.check s u i).elim CStop.Canon fun t => t.mem.wf = true := by
  unfold Move.check
  dsimp only
  split
  next race => simpa [CStop.Canon, State.raceAll_inr_mem race] using h
  next race _ => simpa [CStop.Canon, State.raceAll_inr_mem race] using h
  next reads _ =>
    have kept := State.raceAll_inl_mem reads
    split
    next race => simpa [State.raceAll_inl_mem race, kept] using h
    next race => simpa [CStop.Canon, State.raceAll_inr_mem race, kept] using h

theorem Move.issueTo_wf (u k : Nat) : ∀ (fuel : Nat) (m : Move) (s : State), s.mem.wf = true →
    (m.issueTo u k fuel s).elim (fun q => q.2.Canon) fun q => q.1.mem.wf = true
  | 0, _, _, h => h
  | fuel + 1, m, s, h => by
    have checked := m.check_wf s u m.issued h
    rw [Move.issueTo]
    split
    · exact h
    split
    next stop => rwa [stop] at checked
    next pass =>
      rw [pass] at checked
      exact Move.issueTo_wf u k fuel _ _ checked

theorem Move.perform_wf (m0 : Move) (s : State) (u i : Nat) (lost : Bool × Bool) (h : s.mem.wf = true) :
    (m0.perform s u i lost).elim CStop.Canon fun q => q.1.mem.wf = true := by
  have made := (m0.ready s u).request_wf s u i false lost h
  unfold Move.perform
  dsimp only
  split
  next stop => rwa [stop] at made
  next pass => rwa [pass] at made

theorem Move.scramble_wf (m : Move) (u : Nat) : ∀ (n i : Nat) (s : State), s.mem.wf = true → (m.scramble s u i n).mem.wf = true
  | 0, _, _, h => h
  | n + 1, i, s, h => by
    have made := m.request_wf s u i true (false, false) h
    rw [Move.scramble]
    split
    · exact Move.scramble_wf m u n _ _ h
    split
    next pass =>
      rw [pass] at made
      exact Move.scramble_wf m u n _ _ made
    · exact Move.scramble_wf m u n _ _ h

@[simp] theorem Move.poisoned_wf (m0 : Move) (s : State) (u k : Nat) (h : s.mem.wf = true) : (m0.poisoned s u k).mem.wf =
  true :=
  Move.scramble_wf _ _ _ _ _ h

theorem State.copyStop_wf (s : State) (u id : Nat) (m : Move) (keep : State → State) (x : CStop) (h : s.mem.wf = true)
    (kept : ∀ s, s.mem.wf = true → (keep s).mem.wf = true) (hx : x.Canon) : (s.copyStop u id m keep x).mem.wf = true := by
  unfold State.copyStop
  split
  · exact kept _ hx
  · split <;> simp [kept _ h]
  · split <;> simp [kept _ h]
  · split
    · exact kept _ h
    · exact State.takeTrap_wf _ _ _ (kept _ hx)
  · exact Move.poisoned_wf _ _ _ _ (kept _ h)

@[simp] theorem State.putMove_mem (s : State) (u : Nat) (m : Move) : (s.putMove u m).mem = s.mem := rfl

@[simp] theorem State.copyRequest_wf (s : State) (u id k : Nat) (h : s.mem.wf = true) : (s.copyRequest u id k).mem.wf = true
  := by
  unfold State.copyRequest
  split
  · exact h
  next m _ =>
    have issued := Move.issueTo_wf u k (k + 1) m s h
    split
    · exact h
    split
    next stop =>
      rw [stop] at issued
      split
      · exact State.copyStop_wf _ _ _ _ _ _ h (fun s h => by simp [h]) issued
      · exact h
    next s0 m0 pass =>
      rw [pass] at issued
      have performed := m0.perform_wf s0 u k (false, false) issued
      split
      next done =>
        rw [done] at performed
        simpa using performed
      next stop =>
        rw [stop] at performed
        split
        · exact State.copyStop_wf _ _ _ _ _ _ issued (fun s h => by simp [h]) performed
        · exact h

theorem Move.finish_wf (u : Nat) : ∀ (n : Nat) (m : Move) (s : State), s.mem.wf = true →
    (m.finish s u n).elim (fun q => q.1.Canon ∧ q.2.2.mem.wf = true) fun q => q.1.mem.wf = true
  | 0, _, _, h => h
  | n + 1, m, s, h => by
    have issued := Move.issueTo_wf u m.done (m.done + 1) m s h
    rw [Move.finish]
    split
    · exact h
    split
    next stop =>
      rw [stop] at issued
      exact ⟨issued, h⟩
    next s0 m0 pass =>
      rw [pass] at issued
      have performed := m0.perform_wf s0 u m0.done (false, false) issued
      split
      next done =>
        rw [done] at performed
        exact Move.finish_wf u n _ _ performed
      next stop =>
        rw [stop] at performed
        exact ⟨performed, issued⟩

@[simp] theorem State.copyDone_wf (s : State) (u id : Nat) (h : s.mem.wf = true) : (s.copyDone u id).mem.wf = true := by
  unfold State.copyDone
  split
  · exact h
  next m _ =>
    have finished := Move.finish_wf u (m.total - m.done) m s h
    split
    · exact h
    split
    next stop =>
      rw [stop] at finished
      exact State.copyStop_wf _ _ _ _ _ _ finished.2 (fun s h => by simp [h]) finished.1
    next done =>
      rw [done] at finished
      dsimp only
      split <;> simpa using finished

@[simp] theorem execCopyMovePerformed_wf (u id : Nat) (s : State) (h : s.mem.wf = true) : OutCanon (execCopyMovePerformed u
  id s) := by
  simp [execCopyMovePerformed, h]

theorem State.cWord_wf (s : State) (tk : Tok) (g : XP) (ks : List Nat) (body : State → UnitSt → PassRec → Flight → Res)
    (h : s.mem.wf = true) (keeps : ∀ s U r f, s.mem.wf = true → (body s U r f).Canon) : OutCanon (s.cWord tk g ks body) := by
  refine State.word_wf _ _ _ _ _ _ h fun s U r f h => ?_
  split
  · exact h
  · exact keeps s U r f h

theorem State.rangeBanks_canon {s : State} {u : Nat} {r : PassRec} (h : s.mem.wf = true) : ∀ l : List CRange,
    (s.rangeBanks u r l).Canon
  | [] => trivial
  | q :: l => by
    rw [State.rangeBanks]
    split
    · exact h
    next banks => exact State.spadChk_wait h banks
    · exact State.rangeBanks_canon h l

theorem State.rangePages_canon {s : State} {u : Nat} (h : s.mem.wf = true) : ∀ l : List CRange, (s.rangePages u l).Canon
  | [] => trivial
  | q :: l => by
    rw [State.rangePages]
    split
    · simpa [CChk.Canon] using h
    · simpa [CChk.Canon] using h
    · exact State.rangePages_canon h l

theorem State.rangeChk_canon (s : State) (u : Nat) (r : PassRec) (qs : List CRange) (more : Option (Cause × Nat × Nat))
    (h : s.mem.wf = true) : (s.rangeChk u r qs more).Canon := by
  unfold State.rangeChk
  split
  · exact h
  · split
    · exact State.rangePages_canon h qs
    · exact State.rangeBanks_canon h qs

@[simp] theorem State.moveIssue_wf (s : State) (U : UnitSt) (r : PassRec) (f : Flight) (src dst scale : Option CRange) (m :
  Move)
    (more : Option (Cause × Nat × Nat)) (h : s.mem.wf = true) : (s.moveIssue U r f src dst scale m more).Canon := by
  have checks := s.rangeChk_canon s.who.1 r (src.toList ++ dst.toList ++ scale.toList) more h
  unfold State.moveIssue
  dsimp only
  split
  next stop => rwa [stop] at checks
  next stop => rwa [stop] at checks
  · split
    · exact h
    · exact h

@[simp] theorem execCpy_wf (tk : Tok) (d a b : Nat) (c : XC) (s : State) (h : s.mem.wf = true) : OutCanon (execCpy tk d a b c
  s) := by
  unfold execCpy
  refine State.cWord_wf _ _ _ _ _ h fun s U r f h => ?_
  dsimp only
  split <;> simp [h, PassRec.trapHere]

@[simp] theorem execCfill_wf (tk : Tok) (d a b : Nat) (c : XC) (s : State) (h : s.mem.wf = true) : OutCanon (execCfill tk d a
  b c s) := by
  unfold execCfill
  refine State.cWord_wf _ _ _ _ _ h fun s U r f h => ?_
  dsimp only
  split <;> simp [h, PassRec.trapHere]

@[simp] theorem execCcvt_wf (tk : Tok) (d a b : Nat) (c : XC) (s : State) (h : s.mem.wf = true) : OutCanon (execCcvt tk d a b
  c s) := by
  unfold execCcvt
  refine State.cWord_wf _ _ _ _ _ h fun s U r f h => ?_
  dsimp only
  split
  · trivial
  · exact State.moveIssue_wf _ _ _ _ _ _ _ _ _ h

@[simp] theorem execBload_wf (tk : Tok) (d a b : Nat) (c : XC) (s : State) (h : s.mem.wf = true) : OutCanon (execBload tk d a
  b c s) := by
  unfold execBload
  refine State.cWord_wf _ _ _ _ _ h fun s U r f h => ?_
  dsimp only
  split
  · trivial
  · exact State.moveIssue_wf _ _ _ _ _ _ _ _ _ h

@[simp] theorem State.winIssue_wf (s : State) (U : UnitSt) (w : Nat) (W : Win) (f : Flight) (fills : Bool) (h : s.mem.wf =
  true) : (s.winIssue U w W f fills).Canon := by
  fun_cases State.winIssue s U w W f fills <;> simp [h]

@[simp] theorem execWdef_wf (tk : Tok) (d a b : Nat) (c : XC) (s : State) (h : s.mem.wf = true) : OutCanon (execWdef tk d a b
  c s) := by
  unfold execWdef
  refine State.cWord_wf _ _ _ _ _ h fun s U r f h => ?_
  have checks := fun qs => s.rangeChk_canon s.who.1 r qs none h
  dsimp only
  split
  · trivial
  split
  · trivial
  split
  next stop =>
    have kept := stop ▸ checks _
    exact kept
  next stop =>
    have kept := stop ▸ checks _
    exact kept
  · simp [h]

@[simp] theorem execWadv_wf (tk : Tok) (d a imm : Nat) (g : XP) (s : State) (h : s.mem.wf = true) : OutCanon (execWadv tk d a
  imm g s) := by
  unfold execWadv
  refine State.cWord_wf _ _ _ _ _ h fun s U r f h => ?_
  dsimp only
  split <;> simp [h, PassRec.trapHere]

@[simp] theorem execWrel_wf (tk : Tok) (d : Nat) (g : XP) (s : State) (h : s.mem.wf = true) : OutCanon (execWrel tk d g s) := by
  refine State.cWord_wf _ _ _ _ _ h fun s U r f h => ?_
  dsimp only
  split_ifs <;> simp [h]

@[simp] theorem State.windowRequest_wf (s : State) (u w k : Nat) (h : s.mem.wf = true) : (s.windowRequest u w k).mem.wf =
  true := by
  have performed := (((s.unit u).win w).fill (k / 1024)).perform_wf s u (k % 1024) (false, false) h
  unfold State.windowRequest
  dsimp only
  split
  · exact h
  split
  next done =>
    rw [done] at performed
    simpa using performed
  next stop =>
    rw [stop] at performed
    split
    · exact State.copyStop_wf _ _ _ _ _ _ h (fun _ h => h) performed
    · exact h

@[simp] theorem State.windowFill_wf (s : State) (u w : Nat) (h : s.mem.wf = true) : (s.windowFill u w).mem.wf = true := by
  have finished := fun (m : Move) => Move.finish_wf u m.total m s h
  have settled : ∀ s : State, s.mem.wf = true →
      (if s.mem.performedBy u (copyScope ((s.unit u).win w).ring.space) then s.setUnit u ((s.unit u).winSettle w) else
        s).mem.wf =
        true := fun s h => by split <;> exact h
  unfold State.windowFill
  dsimp only
  split
  · exact h
  split
  · split <;> exact h
  split
  · exact h
  split
  next done =>
    have kept := done ▸ finished _
    split <;> simpa using kept
  next stop =>
    have kept := stop ▸ finished _
    exact State.copyStop_wf _ _ _ _ _ _ kept.2 (fun _ h => h) kept.1

@[simp] theorem State.partRequest_wf (s : State) (u id k : Nat) (h : s.mem.wf = true) : (s.partRequest u id k).mem.wf = true
  := by
  fun_cases State.partRequest s u id k <;> simp [h]

@[simp] theorem execWindowFillPerformed_wf (u w : Nat) (s : State) (h : s.mem.wf = true) : OutCanon (execWindowFillPerformed
  u w s) := by
  simp [execWindowFillPerformed, h]

@[simp] theorem State.walkDone_mem (s : State) (die i : Nat) : (s.walkDone die i).mem = s.mem := by
  unfold State.walkDone
  extract_lets D
  split
  · rfl
  · extract_lets va q bits same who D1 fault
    split
    · rfl
    · split
      · rfl
      · rw [foldl_mem]
        · rfl
        · exact fun _ _ => rfl

@[simp] theorem execTlbWalkDone_wf (die i : Nat) (s : State) (h : s.mem.wf = true) : OutCanon (execTlbWalkDone die i s) := by
  simp [execTlbWalkDone, h]

@[simp] theorem State.takeTCmd_wf (s : State) (c : TCmd) (h : s.mem.wf = true) : (s.takeTCmd c).mem.wf = true := by
  fun_cases State.takeTCmd s c <;> simp +zetaDelta [h, Mem.wf_writeTag]

theorem State.flushTCmds_wf : ∀ (n : Nat) {s : State}, s.mem.wf = true → (s.flushTCmds n).mem.wf = true
  | 0, _, h => h
  | n + 1, s, h => by
    rw [State.flushTCmds]
    split
    · split
      · dsimp only
        split
        · exact State.flushTCmds_wf n (by simp [h, Mem.wf_writeTag])
        · exact h
        · exact State.flushTCmds_wf n h
      · exact h
    · exact h

@[simp] theorem State.endTCmd_wf (s : State) (c : TCmd) (status : Nat) (h : s.mem.wf = true) : (s.endTCmd c status).mem.wf =
  true :=
  State.flushTCmds_wf _ h

@[simp] theorem State.invalidate_mem (s : State) (c : TCmd) : (s.invalidate c).mem = s.mem := rfl

@[simp] theorem execTinv_wf (s : State) (h : s.mem.wf = true) : OutCanon (execTinv s) := by
  unfold execTinv
  rw [outCanon_next]
  split
  · split <;> simp [h]
  · exact h

@[simp] theorem execTinvComplete_wf (s : State) (h : s.mem.wf = true) : OutCanon (execTinvComplete s) := by
  unfold execTinvComplete
  rw [outCanon_next]
  split
  · split <;> simp [h]
  · exact State.flushTCmds_wf _ h

@[simp] theorem execTranslationBadcmd_wf (s : State) (h : s.mem.wf = true) : OutCanon (execTranslationBadcmd s) := by
  unfold execTranslationBadcmd
  rw [outCanon_next]
  split
  · split <;> simp [h]
  · exact h

@[simp] theorem State.startMig_wf (s : State) (c : TCmd) (pte key : Nat) (h : s.mem.wf = true) : (s.startMig c pte
  key).mem.wf = true := by
  simp [State.startMig, h, Mem.wf_writeTag]

@[simp] theorem State.beginMig_wf (s : State) (c : TCmd) (h : s.mem.wf = true) : (s.beginMig c).mem.wf = true := by
  fun_cases State.beginMig s c <;> simp [h]

@[simp] theorem execMigr_wf (s : State) (h : s.mem.wf = true) : OutCanon (execMigr s) := by
  unfold execMigr
  rw [outCanon_next]
  split
  · split <;> simp [h]
  · exact h

@[simp] theorem execMigrResume_wf (s : State) (h : s.mem.wf = true) : OutCanon (execMigrResume s) := by
  unfold execMigrResume
  rw [outCanon_next]
  split <;> simp [h]

@[simp] theorem State.migDone_wf (s : State) (ok : Bool) (h : s.mem.wf = true) : (s.migDone ok).mem.wf = true := by
  unfold State.migDone
  split
  · exact h
  · dsimp only
    split
    · exact h
    split
    · refine State.endTCmd_wf _ _ _ ?_
      split <;> simp [h, Mem.wf_writeTag, Mem.wf_setPoison]
    · refine State.endTCmd_wf _ _ _ ?_
      simp [h, Mem.wf_writeTag, Mem.wf_copyTagged]

@[simp] theorem execMigrCopyDone_wf (ok : Bool) (s : State) (h : s.mem.wf = true) : OutCanon (execMigrCopyDone ok s) := by
  simp [execMigrCopyDone, h]

@[simp] theorem State.hotEpoch_wf (s0 : State) (h : s0.mem.wf = true) : (s0.hotEpoch).mem.wf = true := by
  unfold State.hotEpoch
  dsimp only
  split
  · exact h
  · exact foldl_wf (fun s q h => State.ringPut_wf _ _ _ h) _ h

@[simp] theorem execHotPageEpoch_wf (s : State) (h : s.mem.wf = true) : OutCanon (execHotPageEpoch s) := by
  simp [execHotPageEpoch, h]

@[simp] theorem execSubarrayRefresh_wf (k : Nat) (s : State) (h : s.mem.wf = true) : OutCanon (execSubarrayRefresh k s) := by
  simp [execSubarrayRefresh, h]

@[simp] theorem execCxlLinkDown_wf (l : Nat) (s : State) (h : s.mem.wf = true) : OutCanon (execCxlLinkDown l s) := by
  simp only [execCxlLinkDown]
  split_ifs <;> simp [h]

theorem CStop.toRes_wf {x : CStop} (hx : x.Canon) (s : State) (u : Nat) (h : s.mem.wf = true) : (x.toRes s u).Canon := by
  cases x with
  | wait t => exact hx
  | mig a => exact h
  | xlat a i => simpa [CStop.toRes] using h
  | race t a b => exact hx
  | poison k => exact s.poisonTrap_wf u k h

@[simp] theorem State.doveTake_wf (s : State) (U : UnitSt) (r : PassRec) (f : Flight) (ks : Nat) (h body : List Byte) (hwf :
  s.mem.wf = true) : (s.doveTake U r f ks h body).Canon := by
  fun_cases State.doveTake s U r f ks h body <;> simp [hwf]

@[simp] theorem State.doveLoad_wf (s : State) (U : UnitSt) (r : PassRec) (f : Flight) (a ks : Nat) (h : s.mem.wf = true) :
    (s.doveLoad U r f a ks).Canon := by
  have checks := fun {t : State} (h : t.mem.wf = true) qs => t.rangeChk_canon s.who.1 r qs none h
  unfold State.doveLoad
  dsimp only
  split
  · trivial
  split
  · exact h
  split
  next stop =>
    have kept := stop ▸ checks h _
    exact kept
  next stop =>
    have kept := stop ▸ checks h _
    exact kept
  split
  next stop => exact CStop.toRes_wf (State.cRead_stop h stop) _ _ h
  next s1 head read =>
    have kept : s1.mem.wf = true := by
      rw [show s1.mem = s.mem from State.cRead_mem read]
      exact h
    split
    · trivial
    split
    · trivial
    split
    · trivial
    split
    next stop =>
      have kept := stop ▸ checks kept _
      exact kept
    next stop =>
      have kept := stop ▸ checks kept _
      exact kept
    split
    next stop => exact CStop.toRes_wf (State.cRead_stop kept stop) _ _ kept
    next s2 body read =>
      refine State.doveTake_wf _ _ _ _ _ _ _ ?_
      rw [show s2.mem = s1.mem from State.cRead_mem read]
      exact kept

@[simp] theorem execDload_wf (tk : Tok) (a b ks : Nat) (s : State) (h : s.mem.wf = true) : OutCanon (execDload tk a b ks s)
  := by
  unfold execDload
  refine State.word_wf _ _ _ _ _ _ h fun s U r f h => ?_
  split <;> simp [h]

@[simp] theorem State.doveLoaded_mem (s : State) (u : Nat) : (s.doveLoaded u).mem = s.mem := by
  fun_cases State.doveLoaded s u <;> simp

@[simp] theorem execDloadContextLoaded_wf (u : Nat) (s : State) (h : s.mem.wf = true) : OutCanon (execDloadContextLoaded u s)
  := by
  simp [execDloadContextLoaded, h]

@[simp] theorem execDstart_wf (tk : Tok) (a : Nat) (s : State) (h : s.mem.wf = true) : OutCanon (execDstart tk a s) := by
  unfold execDstart
  refine State.word_wf _ _ _ _ _ _ h fun s U r f h => ?_
  dsimp only
  split
  · exact h
  split
  · trivial
  split
  · exact h
  · exact h

@[simp] theorem execDstop_wf (tk : Tok) (s : State) (h : s.mem.wf = true) : OutCanon (execDstop tk s) := by
  refine State.word_wf _ _ _ _ _ _ h fun s U r f h => ?_
  dsimp only
  split_ifs <;> simp [h]

@[simp] theorem execDstat_wf (tk : Tok) (d wt sel : Nat) (g : XP) (s : State) (h : s.mem.wf = true) : OutCanon (execDstat tk
  d wt sel g s) := by
  refine State.word_wf _ _ _ _ _ _ h fun s U r f h => ?_
  dsimp only
  split_ifs <;> simp [h]

@[simp] theorem State.doveBeat_mem (s : State) (u : Nat) : (s.doveBeat u).mem = s.mem := by
  fun_cases State.doveBeat s u <;> simp

@[simp] theorem execDovetailBeat_wf (u : Nat) (s : State) (h : s.mem.wf = true) : OutCanon (execDovetailBeat u s) := by
  simp [execDovetailBeat, h]

theorem State.doveKeys_wf {s t : State} {u : Nat} {D : Dctx} {q : DRange} {k : AccKind} (h : s.mem.wf = true)
    (e : s.doveKeys u D q k = .inl t) : t.mem.wf = true := by
  unfold State.doveKeys at e
  extract_lets c a U banks cold at e
  split at e
  · cases e
    exact foldl_wf (fun s j => s.fallIfDue_wf u 1 j) _ h
  split at e
  · cases e
    exact h
  split at e
  · cases e
  next stop =>
    cases e
    have kept := State.pieces_canon h stop
    exact kept
  · cases e
    exact h

@[simp] theorem State.doveTouch_mem (s : State) (l : List (Nat × Nat)) : (s.doveTouch l).mem = s.mem := by
  simp [State.doveTouch]

theorem State.doveWrite_wf (u space : Nat) : ∀ (l : List (Nat × Nat)) (bs : List Byte) {s : State}, s.mem.wf = true →
    (s.doveWrite u space l bs).mem.wf = true
  | [], _, _, h => h
  | (k, n) :: l, bs, s, h => State.doveWrite_wf u space l _ (by simp [h, Mem.wf_writeTag])

@[simp] theorem State.sendOn_mem (s : State) (l kind place : Nat) (bs : List Byte) : (s.sendOn l kind place bs).mem = s.mem
  := by
  fun_cases State.sendOn s l kind place bs <;> simp

@[simp] theorem State.doveStart_wf (s : State) (u i : Nat) (h : s.mem.wf = true) : (s.doveStart u i).mem.wf = true := by
  unfold State.doveStart
  dsimp only
  split
  · exact h
  split
  · exact h
  split
  · exact h
  split
  · exact h
  split
  · exact h
  split
  next stop => exact State.doveKeys_wf h stop
  · split <;> simp [h]

@[simp] theorem execDovetailEntryStart_wf (u i : Nat) (s : State) (h : s.mem.wf = true) : OutCanon (execDovetailEntryStart u
  i s) := by
  simp [execDovetailEntryStart, h]

@[simp] theorem State.doveReceive_mem (s : State) (l : Nat) : (s.doveReceive l).mem = s.mem := by
  fun_cases State.doveReceive s l <;> simp

@[simp] theorem execDovetailReceive_wf (l : Nat) (s : State) (h : s.mem.wf = true) : OutCanon (execDovetailReceive l s) := by
  simp [execDovetailReceive, h]

@[simp] theorem State.dovePerform_wf (s : State) (u i : Nat) (h : s.mem.wf = true) : (s.dovePerform u i).mem.wf = true := by
  unfold State.dovePerform
  dsimp only
  split
  · exact h
  split
  · exact h
  split
  · exact h
  · split
    next stop => exact State.doveKeys_wf h stop
    next stop _ => exact State.doveKeys_wf h stop
    · split
      · exact h
      · exact State.doveWrite_wf _ _ _ _ (by simp [h])
  · split
    · exact h
    split
    · exact h
    split
    · exact h
    split
    · exact h
    split
    next stop => exact State.doveKeys_wf h stop
    next stop _ => exact State.doveKeys_wf h stop
    · split
      · exact State.doveWrite_wf _ _ _ _ h
      split
      · exact h
      · exact State.doveWrite_wf _ _ _ _ (by simp [h])
  · exact h

@[simp] theorem execDovetailEntryPerformed_wf (u i : Nat) (s : State) (h : s.mem.wf = true) : OutCanon
  (execDovetailEntryPerformed u i s) := by
  simp [execDovetailEntryPerformed, h]

@[simp] theorem State.doveTimeout_mem (s : State) (u i : Nat) : (s.doveTimeout u i).mem = s.mem := by
  fun_cases State.doveTimeout s u i <;> simp

@[simp] theorem execDovetailTimeout_wf (u i : Nat) (s : State) (h : s.mem.wf = true) : OutCanon (execDovetailTimeout u i s)
  := by
  simp [execDovetailTimeout, h]

@[simp] theorem execDovetailLinkDegrade_wf (l : Nat) (s : State) (h : s.mem.wf = true) : OutCanon (execDovetailLinkDegrade l
  s) := by
  simp only [execDovetailLinkDegrade]
  split_ifs <;> simp [h]

@[simp] theorem State.endRuns_mem (s : State) (p : Dctx →
  Bool) (status elink : Nat) : (s.endRuns p status elink).mem = s.mem := rfl

@[simp] theorem execDovetailLinkDown_wf (l : Nat) (s : State) (h : s.mem.wf = true) : OutCanon (execDovetailLinkDown l s) := by
  simp only [execDovetailLinkDown]
  split_ifs <;> simp [h]

@[simp] theorem execTimeLockLoss_wf (s : State) (h : s.mem.wf = true) : OutCanon (execTimeLockLoss s) := by
  simp only [execTimeLockLoss]
  split_ifs <;> simp [h]

@[simp] theorem execTimeLockRegain_wf (s : State) (h : s.mem.wf = true) : OutCanon (execTimeLockRegain s) := by
  simp [execTimeLockRegain, h]

@[simp] theorem execTimeBeacon_wf (s : State) (h : s.mem.wf = true) : OutCanon (execTimeBeacon s) := by
  unfold execTimeBeacon
  rw [outCanon_next, foldl_mem]
  · exact h
  · intro s l
    split <;> simp

@[simp] theorem State.answer_mem (s : State) (kind id : Nat) (bs : List Byte) : (s.answer kind id bs).mem = s.mem := rfl

@[simp] theorem State.peerAccess_wf (s : State) (id : Nat) (h : s.mem.wf = true) : (s.peerAccess id).mem.wf = true := by
  unfold State.peerAccess
  dsimp only
  split
  · exact h
  split
  · exact h
  split
  · exact h
  split
  · exact h
  split
  · exact h
  · rw [State.answer_mem]
    split <;> simp [h, Mem.wf_writeTag]

@[simp] theorem execPeerAccess_wf (id : Nat) (s : State) (h : s.mem.wf = true) : OutCanon (execPeerAccess id s) := by
  simp [execPeerAccess, h]

@[simp] theorem State.peerRefused_wf (s : State) (u id : Nat) (h : s.mem.wf = true) : (s.peerRefused u id).mem.wf = true := by
  unfold State.peerRefused
  dsimp only
  split
  · split
    · exact h
    · simp only [State.tellHost_mem, State.setUnit_mem, apply_ite State.mem, State.dropSop_mem, ite_self, h]
  · split
    · split <;> exact h
    · split
      · exact h
      next m _ =>
        have issued := Move.issueTo_wf u m.done (m.done + 1) m s h
        split
        · exact h
        split
        · exact h
        next s0 m0 pass =>
          rw [pass] at issued
          have performed := fun lost => m0.perform_wf s0 u m0.done lost issued
          split
          · exact h
          · split
            next done =>
              have kept := done ▸ performed _
              exact kept
            · exact h

@[simp] theorem execPeerWriteRefused_wf (u id : Nat) (s : State) (h : s.mem.wf = true) : OutCanon (execPeerWriteRefused u id
  s) := by
  simp [execPeerWriteRefused, h]

end Sys2Proof.Machine
end


section
/-! O7. Tasks, leases, system registers, context images and submissions. -/
namespace Sys2Proof.Machine

@[simp] theorem State.spillWrite_wf (s : State) (c p i : Nat) (h : s.mem.wf = true) : (s.spillWrite c p i).mem.wf = true := by
  fun_cases State.spillWrite s c p i <;> simp +zetaDelta [h, Mem.wf_writeTag]

theorem State.putQueue_wf {s t : State} {c p n : Nat} (h : s.mem.wf = true) (e : s.putQueue c p n = some t) :
    t.mem.wf = true := by
  unfold State.putQueue at e
  dsimp only at e
  split at e
  · cases e
    exact h
  split at e
  · cases e
    exact State.spillWrite_wf _ _ _ _ h
  · cases e

theorem State.pushQueue_wf {s t : State} {c p n : Nat} (h : s.mem.wf = true) (e : s.pushQueue c p n = some t) :
    t.mem.wf = true := by
  unfold State.pushQueue at e
  split at e
  · cases e
  · exact State.putQueue_wf h e

@[simp] theorem State.enqueueAt_wf (s : State) (t c : Nat) (T : Task) (h : s.mem.wf = true) :
    (s.enqueueAt t c T).mem.wf = true := by
  unfold State.enqueueAt
  split
  · exact h
  split
  next push =>
    have kept := State.pushQueue_wf h push
    exact kept
  · exact h

@[simp] theorem State.releaseHeld_wf (s : State) (h : s.mem.wf = true) : s.releaseHeld.mem.wf = true := by
  refine foldl_wf (fun s q h => ?_) _ h
  split
  · split
    · exact h
    split
    · simp [h]
    split
    next push =>
      have kept := State.pushQueue_wf h push
      exact kept
    · exact h
  · exact h

@[simp] theorem State.settleQueue_wf (s : State) (c p : Nat) (h : s.mem.wf = true) : (s.settleQueue c p).mem.wf = true := by
  simp [State.settleQueue, h]

@[simp] theorem State.unqueue_wf (s : State) (t : Nat) (h : s.mem.wf = true) : (s.unqueue t).mem.wf = true := by
  unfold State.unqueue
  refine State.releaseHeld_wf _ (foldl_wf (fun s q h => ?_) _ h)
  rw [foldl_mem]
  · exact h
  · exact fun _ _ => rfl

@[simp] theorem State.addTask_mem (s : State) (T : Task) : (s.addTask T).1.mem = s.mem := rfl

@[simp] theorem State.newCont_mem (s : State) (g card va : Nat) (payload : List Word) (after : List Nat) :
    (s.newCont g card va payload after).1.mem = s.mem := by
  unfold State.newCont
  split
  · rfl
  · split <;> rfl

@[simp] theorem State.sendCont_mem (s : State) (g n va u : Nat) (payload : List Word) (know : List Nat) :
    (s.sendCont g n va u payload know).mem = s.mem := by
  unfold State.sendCont
  split
  · rfl
  · split
    · rfl
    · exact State.newCont_mem _ _ _ _ _ _

@[simp] theorem execTcont_wf (tk : Tok) (d a b : Nat) (m : XM) (s : State) (h : s.mem.wf = true) : OutCanon (execTcont tk d a
  b m s) := by
  refine State.sSerial_wf _ _ _ _ _ h fun s U r f h => ?_
  dsimp only
  repeat' split
  all_goals simp [h]

@[simp] theorem execTevt_wf (tk : Tok) (d act ev : Nat) (g : XP) (s : State) (h : s.mem.wf = true) : OutCanon (execTevt tk d
  act ev g s) := State.sWord_wf _ _ _ _ _ h fun _ _ _ _ h => h

@[simp] theorem State.performTevt_mem (s : State) (u : Nat) : (s.performTevt u).mem = s.mem := by
  unfold State.performTevt
  extract_lets U isT
  split
  · rfl
  · extract_lets before act ev old bit s1 s2 ids
    split
    · rfl
    · rw [State.setUnit_mem, State.forgetSop_mem]
      unfold s1
      split <;> rfl

@[simp] theorem execTevtPerformed_wf (u : Nat) (s : State) (h : s.mem.wf = true) : OutCanon (execTevtPerformed u s) := by
  simp [execTevtPerformed, h]

@[simp] theorem execTarg_wf (tk : Tok) (d a sx size : Nat) (g : XP) (s : State) (h : s.mem.wf = true) :
    OutCanon (execTarg tk d a sx size g s) := by
  refine State.sWord_wf _ _ _ _ _ h fun s U r f h => ?_
  refine Res.canon_ite trivial (Res.canon_ite trivial (Res.canon_ite h ?_))
  dsimp only
  split
  · simp [h]
  · simp [h]
  · simp [h]
  · split
    next poison => exact State.poisonCheck_wf poison h
    · simp [h]

@[simp] theorem execJguard_wf (tk : Tok) (a size : Nat) (s : State) (h : s.mem.wf = true) : OutCanon (execJguard tk a size s)
  := by
  refine State.sWord_wf _ _ _ _ _ h fun s U r f h => ?_
  dsimp only
  split_ifs <;> simp [h]

@[simp] theorem State.bindSlot_mem (s : State) (u d o : Nat) : (s.bindSlot u d o).mem = s.mem := by
  fun_cases State.bindSlot s u d o <;> simp +zetaDelta

@[simp] theorem execJpatch_wf (tk : Tok) (d a : Nat) (s : State) (h : s.mem.wf = true) : OutCanon (execJpatch tk d a s) := by
  refine State.sWord_wf _ _ _ _ _ h fun s U r f h => ?_
  dsimp only
  split_ifs <;> simp [h]

@[simp] theorem execJmark_wf (tk : Tok) (imm : Nat) (s : State) (h : s.mem.wf = true) : OutCanon (execJmark tk imm s) := by
  refine State.sWord_wf _ _ _ _ _ h fun s U r f h => ?_
  split_ifs <;> simp [h]

@[simp] theorem execJstat_wf (tk : Tok) (d imm : Nat) (s : State) (h : s.mem.wf = true) : OutCanon (execJstat tk d imm s) :=
  State.sWord_wf _ _ _ _ _ h fun _ _ _ _ h => h

@[simp] theorem State.norec_mem (s : State) (u : Nat) : (s.norec u).mem = s.mem := by
  fun_cases State.norec s u <;> simp +zetaDelta

@[simp] theorem State.jdrop_mem (s : State) (u : Nat) : (s.jdrop u).mem = s.mem := by
  simp [State.jdrop]

@[simp] theorem State.clockUnits_mem (s : State) (c : Nat) (stop : Bool) : (s.clockUnits c stop).mem = s.mem := by
  simp [State.clockUnits, apply_ite State.mem]

@[simp] theorem State.aimCluster_mem (s : State) (c q : Nat) : (s.aimCluster c q).mem = s.mem := by
  simp [State.aimCluster]

@[simp] theorem State.aimTask_mem (s : State) (T : Task) (q : Nat) : (s.aimTask T q).mem = s.mem := by
  simp [State.aimTask]

@[simp] theorem State.dropLease_mem (s : State) (t : Nat) : (s.dropLease t).mem = s.mem := by
  fun_cases State.dropLease s t <;> simp

@[simp] theorem State.leaseSettle_mem (s : State) (u : Nat) : (s.leaseSettle u).mem = s.mem := (s.leaseSettle_kept u).2

@[simp] theorem execOpreq_wf (tk : Tok) (d q imm32 : Nat) (s : State) (h : s.mem.wf = true) : OutCanon (execOpreq tk d q
  imm32 s) := by
  refine State.sSerial_wf _ _ _ _ _ h fun s U r f h => ?_
  dsimp only
  repeat' split
  all_goals simp [h]

@[simp] theorem execOprel_wf (tk : Tok) (s : State) (h : s.mem.wf = true) : OutCanon (execOprel tk s) := by
  refine State.sSerial_wf _ _ _ _ _ h fun s U r f h => ?_
  dsimp only
  repeat' split
  all_goals simp [h]

@[simp] theorem execOpget_wf (tk : Tok) (d imm : Nat) (g : XP) (s : State) (h : s.mem.wf = true) : OutCanon (execOpget tk d
  imm g s) := State.sWord_wf _ _ _ _ _ h fun _ _ _ _ h => h

@[simp] theorem State.relocked_mem (s : State) (c : Nat) : (s.relocked c).mem = s.mem := by
  unfold State.relocked
  dsimp only
  split
  · rfl
  · rw [foldl_mem fun s (q : Nat × UnitSt) => s.leaseSettle_mem q.1, foldl_mem, foldl_mem]
    · simp
    · intro s u
      split <;> simp
    · intro s u
      split <;> simp

@[simp] theorem execRelockDone_wf (c : Nat) (s : State) (h : s.mem.wf = true) : OutCanon (execRelockDone c s) := by
  simp [execRelockDone, h]

@[simp] theorem execVoltageRampDone_wf (c : Nat) (s : State) (h : s.mem.wf = true) : OutCanon (execVoltageRampDone c s) := by
  simp [execVoltageRampDone, h]

@[simp] theorem execCsrr_wf (tk : Tok) (d csr : Nat) (s : State) (h : s.mem.wf = true) : OutCanon (execCsrr tk d csr s) :=
  State.sWord_wf _ _ _ _ _ h fun _ _ _ _ h => h

@[simp] theorem State.parkUnit_mem (s : State) (u : Nat) : (s.parkUnit u).mem = s.mem := rfl

@[simp] theorem State.abortTask_wf (s : State) (u : Nat) (h : s.mem.wf = true) : (s.abortTask u).mem.wf = true := by
  simp [State.abortTask, h]

@[simp] theorem State.csrActs_wf (s : State) (u csr v : Nat) (h : s.mem.wf = true) : (s.csrActs u csr v).mem.wf = true := by
  unfold State.csrActs
  split
  · split
    · simp [h]
    · split <;> simp [h]
  · have dropped : (if fld v 16 1 = 1 ∧ (s.unit u).csr.mode then s.jdrop u else s).mem.wf = true := by split <;> simp [h]
    dsimp only
    split
    · simpa using dropped
    · exact dropped
  · exact h

@[simp] theorem State.csrWrite_wf (s : State) (u csr v : Nat) (h : s.mem.wf = true) : (s.csrWrite u csr v).mem.wf = true := by
  simp [State.csrWrite, h]

@[simp] theorem execCsrw_wf (tk : Tok) (d csr : Nat) (s : State) (h : s.mem.wf = true) : OutCanon (execCsrw tk d csr s) := by
  refine State.sSerial_wf _ _ _ _ _ h fun s U r f h => ?_
  dsimp only
  split_ifs <;> simp [h]

@[simp] theorem State.csrStep_wf (s : State) (u csr bits : Nat) (h : s.mem.wf = true) : OutCanon (s.csrStep u csr bits) := by
  fun_cases State.csrStep s u csr bits <;> simp [h]

@[simp] theorem execStatusParkd_wf (u : Nat) (s : State) (h : s.mem.wf = true) : OutCanon (execStatusParkd u s) := by
  simp [execStatusParkd, h]

@[simp] theorem execStatusAbort_wf (u : Nat) (s : State) (h : s.mem.wf = true) : OutCanon (execStatusAbort u s) := by
  simp [execStatusAbort, h]

@[simp] theorem execTapectlNorec_wf (u : Nat) (s : State) (h : s.mem.wf = true) : OutCanon (execTapectlNorec u s) := by
  simp [execTapectlNorec, h]

@[simp] theorem execTapectlJdrop_wf (u : Nat) (s : State) (h : s.mem.wf = true) : OutCanon (execTapectlJdrop u s) := by
  simp [execTapectlJdrop, h]

@[simp] theorem execTrap_wf (tk : Tok) (imm : Nat) (s : State) (h : s.mem.wf = true) : OutCanon (execTrap tk imm s) := by
  refine State.sSerial_wf _ _ _ _ _ h fun s U r f h => ?_
  split_ifs <;> simp [h]

@[simp] theorem State.afterReti_wf (s : State) (u : Nat) (h : s.mem.wf = true) : (s.afterReti u).mem.wf = true := by
  unfold State.afterReti
  dsimp only
  rw [State.leaseSettle_mem, State.setUnit_mem]
  split
  · split
    · simp [h]
    · split
      · simp [h]
      · exact h
  · exact h
  · exact h

@[simp] theorem State.heldRequest_mem (s : State) (u : Nat) : (s.heldRequest u).mem = s.mem := by
  fun_cases State.heldRequest s u <;> simp

@[simp] theorem execReti_wf (tk : Tok) (s : State) (h : s.mem.wf = true) : OutCanon (execReti tk s) := by
  refine State.sSerial_wf _ _ _ _ _ h fun s U r f h => ?_
  dsimp only
  split_ifs <;> simp [h]

@[simp] theorem execDecline_wf (tk : Tok) (s : State) (h : s.mem.wf = true) : OutCanon (execDecline tk s) := by
  refine State.sSerial_wf _ _ _ _ _ h fun s U r f h => ?_
  split_ifs <;> simp [h]

theorem State.ctxPut_wf (u : Nat) : ∀ (l : List (Nat × Nat)) (off : Nat) (bs : List Byte) {s : State}, s.mem.wf = true →
    (s.ctxPut u l off bs).mem.wf = true
  | [], _, _, _, h => h
  | (k, n) :: l, off, bs, s, h => by
    rw [State.ctxPut]
    split
    · exact State.ctxPut_wf u l _ _ h
    · refine State.ctxPut_wf u l _ _ ?_
      split <;> simp [h, Mem.wf_writeTag]

@[simp] theorem State.ctxTag_wf (s : State) (u : Nat) (l : List (Nat × Nat)) (off : Nat) (bs : List Byte) (h : s.mem.wf =
  true) : (s.ctxTag u l off bs).mem.wf = true := by
  simp [State.ctxTag, h, Mem.wf_writeTag]

@[simp] theorem State.ctxCopyOut_wf (s : State) (u : Nat) (l : List (Nat × Nat)) (q : Nat × Nat × Nat) (h : s.mem.wf = true) :
    (s.ctxCopyOut u l q).mem.wf = true := by
  refine foldl_wf (fun s i h => ?_) _ (State.ctxPut_wf _ _ _ _ h)
  split
  · exact State.ctxTag_wf _ _ _ _ _ h
  · exact h

@[simp] theorem State.ctxSave_wf (s : State) (u id retain : Nat) (l : List (Nat × Nat)) (h : s.mem.wf = true) :
    (s.ctxSave u id retain l).mem.wf = true := by
  unfold State.ctxSave
  extract_lets U0 U s0 bytes part s1 s2 s3 s4 s5
  have head : s1.mem.wf = true := foldl_wf (fun s q h => State.ctxPut_wf u l q.1 q.2 h) _ h
  have caps : s2.mem.wf = true := by
    refine foldl_wf (fun s i h => ?_) _ head
    split
    · exact State.ctxTag_wf _ _ _ _ _ h
    · exact h
  have ranges : s3.mem.wf = true := foldl_wf (fun s q h => s.ctxCopyOut_wf u l q h) _ caps
  rw [State.setUnit_mem, State.forgetSop_mem]
  exact ranges

theorem wipeUnsaved_wf {m : Mem} (h : m.wf = true) (u saved : Nat) : (wipeUnsaved m u saved).wf = true :=
  Mem.wf_foldl (fun _ _ h => Mem.wf_wipe h _ _) _ h

@[simp] theorem State.ctxRestore_wf (s : State) (u id : Nat) (l : List (Nat × Nat)) (h : s.mem.wf = true) :
    (s.ctxRestore u id l).mem.wf = true := by
  unfold State.ctxRestore
  extract_lets U num saved x k part elems old csr ba V W s0 s1 s2
  have restored : s1.mem.wf = true := by
    refine foldl_wf (fun s q h => ?_) _ (wipeUnsaved_wf h u saved)
    refine Mem.wf_foldl (fun m i h => ?_) _ (Mem.wf_write (Mem.wf_wipe h _ _) _ _ _ _)
    split
    · exact Mem.wf_writeTag h _ _ _ _ _
    · exact h
  rw [State.setUnit_mem, State.forgetSop_mem]
  exact restored

theorem State.ctxPieces_canon {s : State} {u addr : Nat} {save : Bool} {x : CStop} (h : s.mem.wf = true)
    (e : s.ctxPieces u addr save = .inl x) : x.Canon := State.pieces_canon h e

theorem State.ctxPoison_wf {s t : State} {u : Nat} {save : Bool} {l : List (Nat × Nat)} (h : s.mem.wf = true)
    (e : s.ctxPoison u save l = some t) : t.mem.wf = true := by
  unfold State.ctxPoison at e
  split at e
  · rcases Option.or_eq_some_iff.mp e with bad | ⟨_, bad⟩
    · obtain ⟨q, _, bad⟩ := List.exists_of_findSome?_eq_some bad
      exact State.poisonCheck_wf bad h
    · exact State.parityChk_wf bad h
  · obtain ⟨q, _, bad⟩ := List.exists_of_findSome?_eq_some e
    exact State.poisonCheck_wf bad h

theorem State.ctxHeadPoison_wf {s t : State} {u : Nat} {l : List (Nat × Nat)} (h : s.mem.wf = true)
    (e : s.ctxHeadPoison u l = some t) : t.mem.wf = true := by
  obtain ⟨q, _, bad⟩ := List.exists_of_findSome?_eq_some e
  exact State.poisonCheck_wf bad h

@[simp] theorem State.saveRun_mem (s : State) (u : Nat) : (s.saveRun u).mem = s.mem := by
  fun_cases State.saveRun s u <;> simp

@[simp] theorem State.ctxIssue_wf (s0 : State) (r : PassRec) (f : Flight) (a b : Nat) (save : Bool) (h : s0.mem.wf = true) :
    (s0.ctxIssue r f a b save).Canon := by
  unfold State.ctxIssue
  extract_lets u s U o c info
  have fallen : s.mem.wf = true := by
    unfold s
    split <;> simp [h]
  refine Res.canon_ite trivial ?_
  split
  · trivial
  refine Res.canon_ite trivial (Res.canon_ite trivial (Res.canon_ite (by simpa using fallen) (Res.canon_ite fallen ?_)))
  split
  next stop => exact CStop.toRes_wf (State.ctxPieces_canon fallen stop) _ _ fallen
  · split
    next poison =>
      split at poison
      · cases poison
      · exact State.ctxHeadPoison_wf fallen poison
    · exact Res.canon_ite trivial fallen

@[simp] theorem execCtxsave_wf (tk : Tok) (a b : Nat) (s : State) (h : s.mem.wf = true) : OutCanon (execCtxsave tk a b s) :=
  State.sSerial_wf _ _ _ _ _ h fun s U r f h => by simp [h]

@[simp] theorem execCtxload_wf (tk : Tok) (a b : Nat) (s : State) (h : s.mem.wf = true) : OutCanon (execCtxload tk a b s) :=
  State.sSerial_wf _ _ _ _ _ h fun s U r f h => by simp [h]

@[simp] theorem State.ctxDone_wf (s : State) (u : Nat) (h : s.mem.wf = true) : (s.ctxDone u).mem.wf = true := by
  unfold State.ctxDone
  dsimp only
  split
  · exact h
  split
  · exact h
  split
  next stop =>
    have kept := State.ctxPieces_canon h stop
    exact kept
  · split <;> simp [h]
  · simp [h]
  · exact h
  · split
    next poison => exact State.ctxPoison_wf h poison
    · split
      · simp [h]
      · refine State.ctxRestore_wf _ _ _ _ ?_
        rw [foldl_mem fun s (q : Nat × Nat) => s.touchRange_mem q.1 q.2]
        simp [h]

@[simp] theorem execCtxTransferDone_wf (u : Nat) (s : State) (h : s.mem.wf = true) : OutCanon (execCtxTransferDone u s) := by
  simp [execCtxTransferDone, h]

@[simp] theorem execTrapEntry_wf (u : Nat) (s : State) (h : s.mem.wf = true) : OutCanon (execTrapEntry u s) := clockEvent_wf
  _ h (by split <;> simp [h])

@[simp] theorem execTokenPush_wf (u e : Nat) (s : State) (h : s.mem.wf = true) : OutCanon (execTokenPush u e s) :=
  clockEvent_wf _ h (by split <;> simp [h])

@[simp] theorem State.tokenExpired_mem (s : State) (u e : Nat) : (s.tokenExpired u e).mem = s.mem := by
  fun_cases State.tokenExpired s u e <;> simp

@[simp] theorem execTokenTimeout_wf (u e : Nat) (s : State) (h : s.mem.wf = true) : OutCanon (execTokenTimeout u e s) := by
  simp [execTokenTimeout, h]

@[simp] theorem execSpadBankFall_wf (u b : Nat) (s : State) (h : s.mem.wf = true) : OutCanon (execSpadBankFall u b s) :=
  clockEvent_wf _ h (by split <;> simp [h])

@[simp] theorem execSpadBankWakeDone_wf (u b : Nat) (s : State) (h : s.mem.wf = true) : OutCanon (execSpadBankWakeDone u b s)
  := clockEvent_wf _ h (by split <;> simp [h])

@[simp] theorem execRegBankFall_wf (u b : Nat) (s : State) (h : s.mem.wf = true) : OutCanon (execRegBankFall u b s) :=
  clockEvent_wf _ h (by split <;> simp [h])

@[simp] theorem execRegBankWakeDone_wf (u b : Nat) (s : State) (h : s.mem.wf = true) : OutCanon (execRegBankWakeDone u b s)
  := clockEvent_wf _ h (by split <;> simp [h])

@[simp] theorem State.dupDone_wf (s : State) (u b : Nat) (h : s.mem.wf = true) : (s.dupDone u b).mem.wf = true := by
  unfold State.dupDone
  dsimp only
  split
  · cases parity : s.parityChk u ((s.unit u).badFrom b (SMap.get 0 (s.unit u).dupRows b)) with
    | none => exact h
    | some t => exact State.parityChk_wf parity h
  · exact h

@[simp] theorem execDupCopyDone_wf (u b : Nat) (s : State) (h : s.mem.wf = true) : OutCanon (execDupCopyDone u b s) := by
  simp [execDupCopyDone, h]

@[simp] theorem State.writeCompl_wf (s : State) (crec : Nat) (rec : List Byte) (h : s.mem.wf = true) : (s.writeCompl crec
  rec).mem.wf = true := by
  fun_cases State.writeCompl s crec rec <;> simp +zetaDelta [h, Mem.wf_writeTag]

@[simp] theorem State.freeRegions_wf (s : State) (g : Nat) (h : s.mem.wf = true) : (s.freeRegions g).mem.wf = true := by
  unfold State.freeRegions
  refine foldl_wf (fun s q h => foldl_wf (fun s o h => ?_) _ h) _ (foldl_wf (fun s q h => foldl_wf (fun s o h => ?_) _ h) _ h)
  · exact State.wipeAt_wf _ _ _ h
  · exact State.wipeAt_wf _ _ _ h

@[simp] theorem State.endGraph_wf (s : State) (g : Nat) (h : s.mem.wf = true) : (s.endGraph g).mem.wf = true := by
  fun_cases State.endGraph s g <;> simp +zetaDelta [h]

@[simp] theorem State.endIfDone_wf (s : State) (g : Nat) (h : s.mem.wf = true) : (s.endIfDone g).mem.wf = true := by
  fun_cases State.endIfDone s g <;> simp [h]

@[simp] theorem State.takeEntry_wf (s : State) (r : Reg) (h : s.mem.wf = true) : (s.takeEntry r).mem.wf = true := by
  simp [State.takeEntry, h, Mem.wf_writeTag]

@[simp] theorem State.refuseEntry_wf (s : State) (ring index reason : Nat) (e : List Byte) (h : s.mem.wf = true) :
  (s.refuseEntry ring index reason e).mem.wf = true := by
  fun_cases State.refuseEntry s ring index reason e <;> simp [h]

@[simp] theorem State.acceptCard_wf (s : State) (asid : Nat) (adm : List (Nat × Nat × Nat)) (T : Task) (h : s.mem.wf = true) :
    (s.acceptCard asid adm T).mem.wf = true := State.enqueueAt_wf _ _ _ _ h

@[simp] theorem State.acceptGraph_wf (s : State) (S : Sub) (e : List Byte) (adm : List (Nat × Nat × Nat)) (h : s.mem.wf =
  true) :
    (s.acceptGraph S e adm).mem.wf = true :=
  State.endIfDone_wf _ _ (foldl_wf (fun s T h => s.acceptCard_wf _ _ T h) _ h)

@[simp] theorem State.submitGraph_wf (s : State) (e : List Byte) (h : s.mem.wf = true) : (s.submitGraph e).mem.wf = true := by
  fun_cases State.submitGraph s e <;> simp +zetaDelta [h]

@[simp] theorem execSubmit_wf (r : Nat) (s : State) (h : s.mem.wf = true) : OutCanon (execSubmit r s) := by
  unfold execSubmit
  rw [outCanon_next]
  split
  · exact h
  · split
    · exact h
    · dsimp only
      split <;> simp [h]

@[simp] theorem State.hostEnd_wf (s0 : State) (g : Nat) (h : s0.mem.wf = true) : (s0.hostEnd g).mem.wf = true := by
  unfold State.hostEnd
  split
  · exact h
  next G _ =>
    extract_lets s mine low lost s1 s2 waiting
    have ended : s2.mem.wf = true := by
      refine foldl_wf (fun s t h => ?_) _ (show s1.mem.wf = true by simp [s1, s, h])
      dsimp only
      split
      · split
        · simp [h]
        · simp [h]
      · simp [h]
    split
    · exact State.endIfDone_wf _ _ ended
    · exact ended

@[simp] theorem execHostEndGraph_wf (r : Nat) (s : State) (h : s.mem.wf = true) : OutCanon (execHostEndGraph r s) := by
  unfold execHostEndGraph
  rw [outCanon_next]
  split
  · exact h
  · split
    · exact h
    · dsimp only
      split <;> simp [h]

theorem State.unreadFits_mem {s t : State} {T : Task} {c : Nat} {ranks : List Nat} (e : s.unreadFits T c ranks = some t) :
    t.mem = s.mem := State.makeRoom_mem e

theorem State.moveTracks_mem {t id asid : Nat} : ∀ {l : List (Nat × Nat)} {s s' : State}, s.moveTracks t id asid l = some s' →
    s'.mem = s.mem
  | [], s, s', e => by
    cases e
    rfl
  | (r, c) :: l, s, s', e => by
    rw [State.moveTracks] at e
    split at e
    · cases e
      rfl
    split at e
    · exact State.moveTracks_mem e
    split at e
    · cases e
    next room =>
      have kept := State.moveTracks_mem e
      exact (kept.trans (State.mapTape_mem _ _ _)).trans (State.makeRoom_mem room)

@[simp] theorem State.recordDone_mem (s : State) (t : Nat) (T : Task) : (s.recordDone t T).mem = s.mem := by
  fun_cases State.recordDone s t T <;> simp +zetaDelta

end Sys2Proof.Machine
end


section
/-! O7. The dispatcher, the end of tasks, parking, curves, gated dies and heat. -/
namespace Sys2Proof.Machine

@[simp] theorem State.tapeStart_mem (s : State) (t : Nat) (G : Graph) (T : Task) (o : OpEnt) (clusters : List Nat)
    (caps : List (Nat × Cap)) : (s.tapeStart t G T o clusters caps).1.mem = s.mem := by
  unfold State.tapeStart
  extract_lets live record
  have recorded : ∀ s reason other fault, (record s reason other fault).1.mem = s.mem := by
    intro s reason other fault
    unfold record
    split
    · rfl
    · split <;> rfl
  split
  · split
    · exact State.holdTape_mem _ _ _ _
    · have held : ∀ P : Option Tape, (P.elim s fun P => s.holdTape t P.used P).mem = s.mem := by rintro (_ | P) <;> rfl
      dsimp only
      split <;> rw [recorded] <;> split <;> simp [held]
    · rfl
  · split
    · exact recorded _ _ _ _
    · rfl

@[simp] theorem State.grantRegions_mem (s : State) (g : Nat) (G : Graph) (c : Nat) : (s.grantRegions g G c).mem = s.mem := rfl

@[simp] theorem State.takeCluster_mem (s : State) (g : Nat) (G : Graph) (T : Task) (q c : Nat) : (s.takeCluster g G T q
  c).mem = s.mem := by
  simp [State.takeCluster]

@[simp] theorem State.placeUnit_wf (s : State) (u : Nat) (U : UnitSt) (h : s.mem.wf = true) : (s.placeUnit u U).mem.wf = true
  := by
  simp [State.placeUnit, h]

theorem State.placeFresh_wf {s t : State} {i : Nat} {G : Graph} {T : Task} {ope : Nat} {o : OpEnt} {units : List Nat}
    (h : s.mem.wf = true) (e : s.placeFresh i G T ope o units = some t) : t.mem.wf = true := by
  unfold State.placeFresh at e
  extract_lets ranks clusters caps q at e
  split at e
  · cases e
  next s1 room =>
    have kept : s1.mem = s.mem := by
      split at room
      · exact (State.moveTracks_mem room).trans (State.tapeStart_mem _ _ _ _ _ _ _)
      · cases room
        exact State.tapeStart_mem _ _ _ _ _ _ _
    cases e
    refine foldl_wf (fun s x h => State.placeUnit_wf _ _ _ h) _ ?_
    rw [foldl_mem fun s c => s.takeCluster_mem _ _ _ _ c, kept]
    exact h

@[simp] theorem State.restoreShared_mem (s : State) (T : Task) (units ranks : List Nat) : (s.restoreShared T units ranks).mem
  = s.mem := by
  fun_cases State.restoreShared s T units ranks <;> simp

@[simp] theorem State.restoreRegion_wf (s : State) (g : Nat) (q : Nat × Nat) (region space bits : Nat) (h : s.mem.wf = true) :
    (s.restoreRegion g q region space bits).mem.wf = true := by
  unfold State.restoreRegion
  split
  · exact h
  · dsimp only
    rw [State.setGraph_mem, State.moveHistory_mem]
    exact Mem.wf_foldl (fun m b h => Mem.wf_copyTagged h _ _ _) _ h

@[simp] theorem State.regionBack_wf (s : State) (t g : Nat) (moved : List (Nat × Nat)) (q : Nat × Nat) (h : s.mem.wf = true) :
    (s.regionBack t g moved q).mem.wf = true := by
  unfold State.regionBack
  dsimp only
  split
  · cases (moved.find? fun p => dieOf p.1 = q.1 - 96).map fun p => dieOf p.2 with
    | none => exact h
    | some d => exact State.restoreRegion_wf _ _ _ _ _ _ h
  · split
    · simp [h]
    · split
      · split <;> simp [h]
      · exact h

@[simp] theorem State.restoreRegions_wf (s : State) (t : Nat) (T : Task) (units ranks : List Nat) (h : s.mem.wf = true) :
    (s.restoreRegions t T units ranks).mem.wf = true := by
  unfold State.restoreRegions
  dsimp only
  split
  · exact foldl_wf (fun s q h => s.regionBack_wf _ _ _ q h) _ h
  · exact h

@[simp] theorem State.resumeLease_mem (s : State) (t : Nat) : (s.resumeLease t).mem = s.mem := by
  fun_cases State.resumeLease s t <;> simp

theorem State.unreadFits_getD_mem (s : State) (T : Task) (c : Nat) (ranks : List Nat) :
    ((s.unreadFits T c ranks).getD s).mem = s.mem := by
  cases fits : s.unreadFits T c ranks with
  | none => rfl
  | some t => exact State.unreadFits_mem fits

@[simp] theorem State.placeParked_wf (s : State) (t : Nat) (G : Graph) (T : Task) (o : OpEnt) (units : List Nat)
    (h : s.mem.wf = true) : (s.placeParked t G T o units).mem.wf = true := by
  unfold State.placeParked
  extract_lets ranks s1 text s2 T1
  have clusters : s1.mem = s.mem :=
    foldl_mem (fun s c => (State.takeCluster_mem _ _ _ _ _ _).trans (s.unreadFits_getD_mem _ _ _)) _ _
  have placed : s2.mem.wf = true := foldl_wf (fun s x h => State.placeUnit_wf _ _ _ h) _ (by rw [clusters]; exact h)
  simp [placed]

@[simp] theorem State.askPark_mem (s : State) (units : List Nat) (q : Nat) : (s.askPark units q).mem = s.mem := by
  unfold State.askPark
  rw [foldl_mem]
  intro s x
  split
  · dsimp only
    split <;> rfl
  · rfl

@[simp] theorem State.tryDispatch_wf (s : State) (t : Nat) (T : Task) (G : Graph) (h : s.mem.wf = true) :
    (s.tryDispatch t T G).1.mem.wf = true := by
  unfold State.tryDispatch
  split
  · exact h
  · dsimp only
    split
    · simp [h]
    split
    · simp [h]
    split
    next placed => exact State.placeFresh_wf h placed
    · exact h

theorem State.tickCluster_wf (c : Nat) : ∀ (n : Nat) {s : State}, s.mem.wf = true → (s.tickCluster c n).mem.wf = true
  | 0, _, h => h
  | n + 1, s, h => by
    rw [State.tickCluster]
    split
    · exact h
    split
    · exact h
    split
    · exact h
    split
    · exact h
    · dsimp only
      split
      · exact State.tickCluster_wf c n (by simp [h])
      · simp [h]

@[simp] theorem State.dispatchTick_wf (s : State) (h : s.mem.wf = true) : s.dispatchTick.mem.wf = true := by
  unfold State.dispatchTick
  split
  · exact foldl_wf (fun s c h => State.tickCluster_wf c 5000 h) _ h
  · exact h

@[simp] theorem execDispatchTick_wf (s : State) (h : s.mem.wf = true) : OutCanon (execDispatchTick s) := by
  simp [execDispatchTick, h]

@[simp] theorem State.startTask_mem (s : State) (t : Nat) : (s.startTask t).mem = s.mem := by
  unfold State.startTask
  split
  · rfl
  · split
    · rfl
    · exact foldl_mem (fun s u => State.setUnit_mem _ _ _) _ _

@[simp] theorem execTaskStart_wf (t : Nat) (s : State) (h : s.mem.wf = true) : OutCanon (execTaskStart t s) := by
  simp [execTaskStart, h]

@[simp] theorem State.followRank_mem (s : State) (t rank u : Nat) : (s.followRank t rank u).mem = s.mem := by
  fun_cases State.followRank s t rank u <;> simp +zetaDelta

@[simp] theorem State.resumeUnit_wf (s : State) (u : Nat) (h : s.mem.wf = true) : (s.resumeUnit u).mem.wf = true := by
  fun_cases State.resumeUnit s u <;> simp +zetaDelta [h, Mem.wf_write]

@[simp] theorem execUnitResume_wf (u : Nat) (s : State) (h : s.mem.wf = true) : OutCanon (execUnitResume u s) := by
  simp [execUnitResume, h]

@[simp] theorem State.forwardCont_wf (s : State) (h : s.mem.wf = true) : s.forwardCont.mem.wf = true := by
  unfold State.forwardCont
  split
  next r s1 found =>
    obtain ⟨x, _, chosen⟩ := List.exists_of_findSome?_eq_some found
    obtain ⟨T, _, placed⟩ := Option.bind_eq_some_iff.mp chosen
    refine State.releaseHeld_wf _ ?_
    dsimp only at placed
    split at placed
    · cases placed
      exact State.enqueueAt_wf _ _ _ _ h
    · obtain ⟨_, _, same⟩ := Option.map_eq_some_iff.mp placed
      cases same
      exact State.enqueueAt_wf _ _ _ _ h
  · exact h

@[simp] theorem execContinuationForward_wf (s : State) (h : s.mem.wf = true) : OutCanon (execContinuationForward s) := by
  simp [execContinuationForward, h]

@[simp] theorem State.forwardFallback_wf (s : State) (d : Nat) (h : s.mem.wf = true) : (s.forwardFallback d).mem.wf = true := by
  fun_cases State.forwardFallback s d <;> simp [h]

@[simp] theorem execFallbackForward_wf (die : Nat) (s : State) (h : s.mem.wf = true) : OutCanon (execFallbackForward die s)
  := by
  simp only [execFallbackForward]
  split_ifs <;> simp [h]

@[simp] theorem State.recordEnd_mem (s : State) (u : Nat) : (s.recordEnd u).mem = s.mem := by
  unfold State.recordEnd
  rw [foldl_mem]
  · exact s.firstIssue_mem u
  · intro s e
    split <;> simp

@[simp] theorem State.endUnit_mem (s : State) (u : Nat) : (s.endUnit u).mem = s.mem := by
  fun_cases State.endUnit s u <;> simp +zetaDelta

@[simp] theorem execUnitEnd_wf (u : Nat) (s : State) (h : s.mem.wf = true) : OutCanon (execUnitEnd u s) := by
  simp [execUnitEnd, h]

@[simp] theorem State.freeTask_mem (s : State) (t : Nat) (T : Task) : (s.freeTask t T).mem = s.mem := by
  unfold State.freeTask
  rw [foldl_mem]
  · exact foldl_mem (fun s u => State.setUnit_mem _ _ _) _ _
  · intro s c
    extract_lets C s2
    split <;> simp [s2]

@[simp] theorem State.finishAs_wf (s : State) (status t : Nat) (h : s.mem.wf = true) : (s.finishAs status t).mem.wf = true := by
  fun_cases State.finishAs s status t <;> simp +zetaDelta [h]

@[simp] theorem State.countFailed_mem (s : State) (g : Nat) (ts : List Nat) : (s.countFailed g ts).mem = s.mem := by
  fun_cases State.countFailed s g ts <;> simp

@[simp] theorem State.endFailed_wf (s : State) (t : Nat) (T : Task) (h : s.mem.wf = true) : (s.endFailed t T).mem.wf = true
  := by
  unfold State.endFailed
  refine State.endIfDone_wf _ _ ?_
  rw [State.countFailed_mem]
  refine foldl_wf (fun s x h => State.finishAs_wf _ _ _ h) _ (State.finishAs_wf _ _ _ ?_)
  simp [h]

@[simp] theorem State.coverTask_mem (s : State) (t : Nat) (fin : List Nat) : (s.coverTask t fin).mem = s.mem := by
  fun_cases State.coverTask s t fin <;> simp

@[simp] theorem State.endDone_wf (s : State) (t : Nat) (T : Task) (h : s.mem.wf = true) : (s.endDone t T).mem.wf = true := by
  unfold State.endDone
  extract_lets rec s0 fin s1 s2
  have recorded : s0.mem.wf = true := by
    unfold s0
    split <;> simp [h]
  have done : s2.mem.wf = true := by simp [s2, s1, recorded]
  split
  · exact done
  · simp [done]

@[simp] theorem State.completeTask_wf (s : State) (t : Nat) (h : s.mem.wf = true) : (s.completeTask t).mem.wf = true := by
  fun_cases State.completeTask s t <;> simp [h]

@[simp] theorem execTaskComplete_wf (t : Nat) (s : State) (h : s.mem.wf = true) : OutCanon (execTaskComplete t s) := by
  simp [execTaskComplete, h]

@[simp] theorem State.overran_mem (s : State) (t : Nat) : (s.overran t).mem = s.mem := by
  fun_cases State.overran s t <;> simp +zetaDelta

@[simp] theorem execGuaranteedOverrun_wf (t : Nat) (s : State) (h : s.mem.wf = true) : OutCanon (execGuaranteedOverrun t s)
  := by
  simp [execGuaranteedOverrun, h]

@[simp] theorem State.preemptSet_mem (s : State) (t : Nat) : (s.preemptSet t).mem = s.mem := by
  unfold State.preemptSet
  split
  · rfl
  · split
    · rfl
    · exact foldl_mem (fun s u => State.setUnit_mem _ _ _) _ _

@[simp] theorem execPreemptRequest_wf (t : Nat) (s : State) (h : s.mem.wf = true) : OutCanon (execPreemptRequest t s) := by
  simp [execPreemptRequest, h]

@[simp] theorem State.withdraw_mem (s : State) (t : Nat) : (s.withdraw t).mem = s.mem := by
  unfold State.withdraw
  split
  · rfl
  · split
    · rfl
    · exact foldl_mem (fun s u => State.setUnit_mem _ _ _) _ _

@[simp] theorem execPreemptWithdraw_wf (t : Nat) (s : State) (h : s.mem.wf = true) : OutCanon (execPreemptWithdraw t s) := by
  simp [execPreemptWithdraw, h]

@[simp] theorem State.forceSave_wf (s : State) (u : Nat) (h : s.mem.wf = true) : (s.forceSave u).mem.wf = true := by
  fun_cases State.forceSave s u <;> simp [h]

@[simp] theorem execForcedSave_wf (u : Nat) (s : State) (h : s.mem.wf = true) : OutCanon (execForcedSave u s) := by
  simp [execForcedSave, h]

@[simp] theorem State.writeShare_wf (s : State) (u : Nat) (h : s.mem.wf = true) : (s.writeShare u).mem.wf = true := by
  simp [State.writeShare, h, Mem.wf_writeTag]

@[simp] theorem State.parkTask_wf (s0 : State) (t : Nat) (h : s0.mem.wf = true) : (s0.parkTask t).mem.wf = true := by
  unfold State.parkTask
  split
  · exact h
  · split
    · exact h
    · dsimp only
      rw [State.setTask_mem, State.freeTask_mem]
      exact foldl_wf (fun s q h => State.writeShare_wf _ _ (by simpa using h)) _ h

@[simp] theorem execParkDone_wf (t : Nat) (s : State) (h : s.mem.wf = true) : OutCanon (execParkDone t s) := by
  simp [execParkDone, h]

@[simp] theorem State.requeue_wf (s : State) (t : Nat) (h : s.mem.wf = true) : (s.requeue t).mem.wf = true := by
  unfold State.requeue
  split
  · exact h
  split
  · exact h
  dsimp only
  split
  · simp [h]
  split
  · exact h
  · rw [State.setTask_mem, State.setCluster_mem]
    split <;> simp [h]

@[simp] theorem execParkResume_wf (t : Nat) (s : State) (h : s.mem.wf = true) : OutCanon (execParkResume t s) := by
  simp [execParkResume, h]

@[simp] theorem State.mailAnswer_mem (s : State) (cmd mbst status : Nat) (data : List Byte) : (s.mailAnswer cmd mbst status
  data).mem = s.mem := rfl

theorem State.mailbox_wf (s : State) (cmd : Nat) (always : Bool) (run : List Byte → State × Nat × List Byte)
    (h : s.mem.wf = true) (keeps : ∀ bs, (run bs).1.mem.wf = true) : (s.mailbox cmd always run).mem.wf = true := by
  unfold State.mailbox
  split
  · exact h
  split
  · exact h
  split
  · simp [h]
  · simp [keeps]

@[simp] theorem State.takeCurve_mem (s : State) (b : List Byte) : (s.takeCurve b).1.mem = s.mem := by
  unfold State.takeCurve
  dsimp only
  split
  · rfl
  · split <;> rfl

@[simp] theorem execCurve_wf (ok : Bool) (s : State) (h : s.mem.wf = true) : OutCanon (execCurve ok s) :=
  State.mailbox_wf _ _ _ _ h fun bs => by simp [h]

@[simp] theorem State.lower_mem (s : State) (c q : Nat) : (s.lower c q).mem = s.mem := by
  fun_cases State.lower s c q <;> simp

@[simp] theorem State.returnLeases_mem (s : State) : (s.returnLeases).mem = s.mem := by
  simp [State.returnLeases]

@[simp] theorem State.lowerBest_mem (s : State) (full : Bool) : (s.lowerBest full).mem = s.mem := by
  simp [State.lowerBest, apply_ite State.mem]

@[simp] theorem State.lowerGuar_mem (s : State) : (s.lowerGuar).mem = s.mem := by
  simp [State.lowerGuar, apply_ite State.mem]

@[simp] theorem State.askTask_mem (s : State) (t : Nat) : (s.askTask t).mem = s.mem := by
  fun_cases State.askTask s t <;> simp

@[simp] theorem State.setGrade_mem (s : State) (g : Nat) : (s.setGrade g).mem = s.mem := rfl

@[simp] theorem State.floorPark_mem : ∀ (n : Nat) (s : State) (stage : Nat), (s.floorPark stage n).mem = s.mem
  | 0, _, _ => rfl
  | n + 1, s, stage => by
    rw [State.floorPark]
    split
    · rfl
    · dsimp only
      split
      · simp
      · simp [State.floorPark_mem n]

@[simp] theorem State.floorMeasure_mem (s : State) : s.floorMeasure.mem = s.mem := by
  unfold State.floorMeasure
  dsimp only
  split <;> simp

@[simp] theorem State.measures_mem (s : State) (edge : Nat) (whole : Bool) : (s.measures edge whole).1.mem = s.mem := by
  unfold State.measures
  extract_lets draw s1 s2 order s3
  have lowered : s2.mem = s.mem := by simp [s2, s1]
  split
  · rfl
  split
  · simp [s1]
  split
  · exact lowered
  split
  · exact lowered
  split
  · exact (foldl_mem (fun s (q : Nat × Task) => s.askTask_mem q.1) _ _).trans lowered
  · have shed : s3.mem = s.mem :=
      (foldl_mem (fun s (q : Nat × Task) => State.failTask_mem _ _ _) _ _).trans lowered
    dsimp only
    split
    · rw [State.floorMeasure_mem]
      exact shed
    · exact shed

@[simp] theorem State.judgeCap_mem (s : State) : s.judgeCap.mem = s.mem := by
  unfold State.judgeCap
  dsimp only
  split <;> simp

@[simp] theorem State.setPoint_wf (s : State) (h : s.mem.wf = true) : (s.setPoint).mem.wf = true := by
  fun_cases State.setPoint s <;> simp [h]

@[simp] theorem execCurveEffective_wf (s : State) (h : s.mem.wf = true) : OutCanon (execCurveEffective s) := by
  unfold execCurveEffective
  rw [outCanon_next]
  split <;> simp [h]

@[simp] theorem execCurvePointStart_wf (s : State) (h : s.mem.wf = true) : OutCanon (execCurvePointStart s) := by
  unfold execCurvePointStart
  rw [outCanon_next]
  split
  · exact h
  · split <;> simp [h]

@[simp] theorem State.askSame_mem (s r : State) : (s.askSame r).mem = s.mem := by
  unfold State.askSame
  rw [foldl_mem]
  intro s x
  split
  · split <;> simp
  · rfl

@[simp] theorem execCurvePointLookahead_wf (s : State) (h : s.mem.wf = true) : OutCanon (execCurvePointLookahead s) := by
  unfold execCurvePointLookahead
  rw [outCanon_next]
  split
  · exact h
  · split
    · exact h
    · dsimp only
      split_ifs <;> simp [h]

@[simp] theorem execCurveHorizonEnd_wf (s : State) (h : s.mem.wf = true) : OutCanon (execCurveHorizonEnd s) := by
  unfold execCurveHorizonEnd
  rw [outCanon_next]
  split
  · exact h
  · split <;> simp [h]

@[simp] theorem execUnderdraw_wf (s : State) (h : s.mem.wf = true) : OutCanon (execUnderdraw s) := by
  simp only [execUnderdraw]
  split_ifs <;> simp [h]

@[simp] theorem State.rewriteRemap_mem (s : State) (d : Nat) : (s.rewriteRemap d).mem = s.mem := by
  simp [State.rewriteRemap, apply_ite State.mem]

@[simp] theorem State.moveQueues_wf (s : State) (d : Nat) (h : s.mem.wf = true) : (s.moveQueues d).mem.wf = true := by
  unfold State.moveQueues
  refine State.releaseHeld_wf _ (foldl_wf (fun s c h => ?_) _ h)
  simp [h]

@[simp] theorem State.beginGate_wf (s : State) (d : Nat) (h : s.mem.wf = true) : (s.beginGate d).mem.wf = true := by
  unfold State.beginGate
  extract_lets D old s1 s2
  have asked : s2.mem.wf = true := by
    refine foldl_wf (fun s q h => ?_) _ (show s1.mem.wf = true from h)
    split <;> simp [h]
  simp [asked]

@[simp] theorem State.saveRegion_wf (s : State) (g i region bits : Nat) (owner : SMap Nat) (h : s.mem.wf = true) :
    (s.saveRegion g i region bits owner).mem.wf = true := by
  unfold State.saveRegion
  split
  · exact h
  · dsimp only
    split
    · exact h
    · rw [State.setGraph_mem, foldl_mem fun s b => s.moveHistory_mem _ _ _]
      exact Mem.wf_foldl (fun m b h => Mem.wf_copyTagged h _ _ _) _ h

@[simp] theorem State.saveRegions_wf (s : State) (d : Nat) (h : s.mem.wf = true) : (s.saveRegions d).mem.wf = true := by
  refine foldl_wf (fun s q h => ?_) _ h
  dsimp only
  split
  · exact h
  · exact foldl_wf (fun s c h => State.saveRegion_wf _ _ _ _ _ _ h) _ (State.saveRegion_wf _ _ _ _ _ _ h)

@[simp] theorem State.loseDie_wf (s : State) (d : Nat) (h : s.mem.wf = true) : (s.loseDie d).mem.wf = true := by
  unfold State.loseDie
  dsimp only
  rw [State.invalidTapes_mem, foldl_mem fun s c => State.setCluster_mem _ _ _, foldl_mem fun s u => State.setUnit_mem _ _ _]
  refine State.wipeAt_wf _ _ _ (foldl_wf (fun s c h => State.wipeAt_wf _ _ _ h) _ (foldl_wf (fun s u h => ?_) _ h))
  exact State.wipeAt_wf _ _ _ (State.wipeAt_wf _ _ _ h)

@[simp] theorem State.finishGate_wf (s : State) (d : Nat) (h : s.mem.wf = true) : (s.finishGate d).mem.wf = true := by
  fun_cases State.finishGate s d <;> simp +zetaDelta [h]

@[simp] theorem State.gateDie_wf (s : State) (d : Nat) (h : s.mem.wf = true) : (s.gateDie d).mem.wf = true := by
  simp only [State.gateDie]
  split_ifs <;> simp [h]

@[simp] theorem execDieGate_wf (die : Nat) (s : State) (h : s.mem.wf = true) : OutCanon (execDieGate die s) := by
  simp only [execDieGate]
  split_ifs <;> simp [h]

@[simp] theorem State.ungateDie_mem (s : State) (d : Nat) : (s.ungateDie d).mem = s.mem := by
  fun_cases State.ungateDie s d <;> simp +zetaDelta

@[simp] theorem execDieUngate_wf (die : Nat) (s : State) (h : s.mem.wf = true) : OutCanon (execDieUngate die s) := by
  simp only [execDieUngate]
  split_ifs <;> simp [h]

@[simp] theorem State.ungateReady_mem (s : State) (d : Nat) : (s.ungateReady d).mem = s.mem := by
  unfold State.ungateReady
  dsimp only
  split
  · rfl
  · split
    · rfl
    · exact foldl_mem (fun s h => State.setRemap_mem _ _ _) _ _

@[simp] theorem execDieUngateReady_wf (die : Nat) (s : State) (h : s.mem.wf = true) : OutCanon (execDieUngateReady die s) := by
  simp only [execDieUngateReady]
  split_ifs <;> simp [h]

@[simp] theorem State.leaseOver_mem (s : State) (t : Nat) : (s.leaseOver t).mem = s.mem := by
  fun_cases State.leaseOver s t <;> simp

@[simp] theorem execLeaseExpire_wf (t : Nat) (s : State) (h : s.mem.wf = true) : OutCanon (execLeaseExpire t s) := by
  simp [execLeaseExpire, h]

@[simp] theorem State.throttleTo_mem (s : State) (c n : Nat) : (s.throttleTo c n).mem = s.mem := by
  simp [State.throttleTo]

@[simp] theorem execPairThrottle_wf (p : Nat) (s : State) (h : s.mem.wf = true) : OutCanon (execPairThrottle p s) := by
  simp only [execPairThrottle]
  split_ifs <;> simp [h]

@[simp] theorem execPairThrottleRestore_wf (p : Nat) (s : State) (h : s.mem.wf = true) : OutCanon (execPairThrottleRestore p
  s) := by
  simp only [execPairThrottleRestore]
  split_ifs <;> simp [h]

@[simp] theorem execPairThrottleLower_wf (p : Nat) (s : State) (h : s.mem.wf = true) : OutCanon (execPairThrottleLower p s)
  := by
  simp only [execPairThrottleLower]
  split_ifs <;> simp [h]

@[simp] theorem execBoilingLimitUpdate_wf (die lim : Nat) (s : State) (h : s.mem.wf = true) : OutCanon
  (execBoilingLimitUpdate die lim s) := by
  simp only [execBoilingLimitUpdate]
  split_ifs <;> simp [h]

@[simp] theorem State.sendNotice_mem (s : State) (g p : Nat) (on : Bool) : (s.sendNotice g p on).mem = s.mem := by
  fun_cases State.sendNotice s g p on <;> simp +zetaDelta

@[simp] theorem State.capCluster_mem (s : State) (c p : Nat) : (s.capCluster c p).mem = s.mem := by
  simp [State.capCluster]

@[simp] theorem State.uncapCluster_mem (s : State) (c : Nat) : (s.uncapCluster c).mem = s.mem := by
  fun_cases State.uncapCluster s c <;> simp

@[simp] theorem State.tooHot_mem (s : State) (d : Nat) : (s.tooHot d).mem = s.mem := by
  fun_cases State.tooHot s d <;> simp +zetaDelta [apply_ite State.mem]

@[simp] theorem execThermalEmergency_wf (die : Nat) (s : State) (h : s.mem.wf = true) : OutCanon (execThermalEmergency die s)
  := by
  simp only [execThermalEmergency]
  split_ifs <;> simp [h]

@[simp] theorem execSlowdownNotice_wf (s : State) (h : s.mem.wf = true) : OutCanon (execSlowdownNotice s) := by
  unfold execSlowdownNotice
  rw [outCanon_next]
  split <;> exact h

@[simp] theorem State.capBeat_mem (s : State) (i : Nat) : (s.capBeat i).mem = s.mem := by
  fun_cases State.capBeat s i <;> simp +zetaDelta [apply_ite State.mem]

@[simp] theorem execThermalCapBeat_wf (i : Nat) (s : State) (h : s.mem.wf = true) : OutCanon (execThermalCapBeat i s) := by
  simp [execThermalCapBeat, h]

@[simp] theorem State.coolAgain_mem (s : State) (d : Nat) : (s.coolAgain d).mem = s.mem := by
  fun_cases State.coolAgain s d <;> simp +zetaDelta [apply_ite State.mem]

@[simp] theorem execThermalEmergencyEnd_wf (die : Nat) (s : State) (h : s.mem.wf = true) : OutCanon (execThermalEmergencyEnd
  die s) := by
  simp only [execThermalEmergencyEnd]
  split_ifs <;> simp [h]

@[simp] theorem execThermalSevere_wf (die : Nat) (s : State) (h : s.mem.wf = true) : OutCanon (execThermalSevere die s) := by
  simp only [execThermalSevere]
  split_ifs <;> simp [h]

@[simp] theorem State.powerCap_mem (s : State) (c : Nat) : (s.powerCap c).mem = s.mem := by
  simp [State.powerCap]

@[simp] theorem State.sensorFails_mem (s : State) (c : Nat) : (s.sensorFails c).mem = s.mem := by
  fun_cases State.sensorFails s c <;> simp +zetaDelta

@[simp] theorem execSensorFail_wf (c : Nat) (s : State) (h : s.mem.wf = true) : OutCanon (execSensorFail c s) := by
  simp only [execSensorFail]
  split_ifs <;> simp [h]

end Sys2Proof.Machine
end


section
/-! O7. Resets, the mailbox, the host, time and the plan of an act. -/
namespace Sys2Proof.Machine

@[simp] theorem State.errorMet_wf (s : State) (u src bank synd addr : Nat) (h : s.mem.wf = true) : (s.errorMet u src bank
  synd addr).mem.wf = true := by
  simp only [State.errorMet]
  split_ifs <;> simp [h, Mem.wf_setPoison]

@[simp] theorem execMachineCheck_wf (u src bank synd addr : Nat) (s : State) (h : s.mem.wf = true) : OutCanon
  (execMachineCheck u src bank synd addr s) := unitEvent_wf _ h (by split <;> simp [h])

@[simp] theorem execTelemetryRecord_wf (src : Nat) (s : State) (h : s.mem.wf = true) : OutCanon (execTelemetryRecord src s)
  := by
  simp only [execTelemetryRecord]
  split_ifs <;> simp [h]

@[simp] theorem execSuspectConnection_wf (p : Nat) (s : State) (h : s.mem.wf = true) : OutCanon (execSuspectConnection p s)
  := by
  simp only [execSuspectConnection]
  split_ifs <;> simp [h]

@[simp] theorem execConnectorMargin_wf (s : State) (h : s.mem.wf = true) : OutCanon (execConnectorMargin s) := by
  simp only [execConnectorMargin]
  split_ifs <;> simp [h]

@[simp] theorem execSillaneDegrade_wf (l : Nat) (s : State) (h : s.mem.wf = true) : OutCanon (execSillaneDegrade l s) := by
  simp only [execSillaneDegrade]
  split_ifs <;> simp [h]

@[simp] theorem execSillaneLinkDown_wf (l : Nat) (s : State) (h : s.mem.wf = true) : OutCanon (execSillaneLinkDown l s) := by
  simp only [execSillaneLinkDown]
  split_ifs <;> simp [h]

@[simp] theorem State.registerCmd_mem (s : State) (b : List Byte) : (s.registerCmd b).1.mem = s.mem := by
  unfold State.registerCmd
  extract_lets kind mem nent len
  split
  · rfl
  · by_cases full : (if kind = 1 then 16 else 1) ≤ (s.hub.regs.filter fun r => decide (r.kind = kind)).length
    · rw [if_pos full]
    · rw [if_neg full]
      split <;> rfl

@[simp] theorem execRegister_wf (s : State) (h : s.mem.wf = true) : OutCanon (execRegister s) :=
  State.mailbox_wf _ _ _ _ h fun bs => by simp [h]

@[simp] theorem State.attestCmd_mem (s : State) (b : List Byte) : (s.attestCmd b).1.mem = s.mem := rfl

@[simp] theorem execAttest_wf (s : State) (h : s.mem.wf = true) : OutCanon (execAttest s) :=
  State.mailbox_wf _ _ _ _ h fun bs => by simp [h]

@[simp] theorem State.keysetCmd_mem (s : State) (b : List Byte) : (s.keysetCmd b).1.mem = s.mem := by
  unfold State.keysetCmd
  dsimp only
  split
  · split <;> rfl
  · rfl

@[simp] theorem execKeyset_wf (ok : Bool) (s : State) (h : s.mem.wf = true) : OutCanon (execKeyset ok s) :=
  State.mailbox_wf _ _ _ _ h fun bs => by simp [h]

@[simp] theorem State.domainCmd_mem (s : State) (b : List Byte) : (s.domainCmd b).1.mem = s.mem := rfl

@[simp] theorem execDomain_wf (s : State) (h : s.mem.wf = true) : OutCanon (execDomain s) :=
  State.mailbox_wf _ _ _ _ h fun bs => by simp [h]

@[simp] theorem execMailboxBadcmd_wf (s : State) (h : s.mem.wf = true) : OutCanon (execMailboxBadcmd s) := by
  unfold execMailboxBadcmd
  rw [outCanon_next]
  split
  · exact h
  · split <;> simp [h]

@[simp] theorem State.hostAccess_wf (s : State) (id : Nat) (h : s.mem.wf = true) : (s.hostAccess id).mem.wf = true := by
  fun_cases State.hostAccess s id <;> simp +zetaDelta [h, Mem.wf_writeTag]

@[simp] theorem execHostMemoryAccess_wf (id : Nat) (s : State) (h : s.mem.wf = true) : OutCanon (execHostMemoryAccess id s)
  := by
  simp [execHostMemoryAccess, h]

@[simp] theorem State.coldReset_wf (s : State) (h : s.mem.wf = true) : s.coldReset.mem.wf = true :=
  (Mem.wf_iff _).mpr ⟨SMap.wf_filter 0 _ ((Mem.wf_iff _).mp h).1, rfl, rfl⟩

@[simp] theorem execColdReset_wf (s : State) (h : s.mem.wf = true) : OutCanon (execColdReset s) := by
  simp [execColdReset, h]

theorem State.warmMem_wf (s : State) (h : s.mem.wf = true) : s.warmMem.wf = true := by
  obtain ⟨bytes, tags, poison⟩ := (Mem.wf_iff _).mp h
  refine Mem.wf_foldl (fun m w h => ?_) _
    ((Mem.wf_iff _).mpr ⟨SMap.wf_filter 0 _ bytes, SMap.wf_filter false _ tags, SMap.wf_filter false _ poison⟩)
  split
  · exact Mem.wf_commit h _ _ _
  · exact h

@[simp] theorem State.warmReset_wf (s : State) (h : s.mem.wf = true) : s.warmReset.mem.wf = true := s.warmMem_wf h

@[simp] theorem execWarmReset_wf (s : State) (h : s.mem.wf = true) : OutCanon (execWarmReset s) := by
  simp [execWarmReset, h]

@[simp] theorem execSillaneTrained_wf (l : Nat) (s : State) (h : s.mem.wf = true) : OutCanon (execSillaneTrained l s) := by
  simp only [execSillaneTrained]
  split_ifs <;> simp [h]

@[simp] theorem execHbm4PhyTrained_wf (k : Nat) (ok : Bool) (s : State) (h : s.mem.wf = true) :
    OutCanon (execHbm4PhyTrained k ok s) := by
  unfold execHbm4PhyTrained
  rw [outCanon_next]
  split
  · exact h
  · extract_lets old s1 m s2
    have trained : s2.mem.wf = true := by
      unfold s2
      split
      · exact h
      · exact (Mem.wf_congr rfl rfl rfl).trans h
    split
    · exact foldl_wf (fun s q h => s.ringPut_wf q.1 q.2 h) _ trained
    · exact trained

@[simp] theorem execDovetailTrained_wf (l : Nat) (s : State) (h : s.mem.wf = true) : OutCanon (execDovetailTrained l s) := by
  simp only [execDovetailTrained]
  split_ifs <;> simp [h]

@[simp] theorem State.gradeEnds_mem (s : State) : (s.gradeEnds).mem = s.mem := by
  fun_cases State.gradeEnds s <;> simp

@[simp] theorem State.track_mem (s : State) : (s.track).mem = s.mem := by
  fun_cases State.track s <;> simp

@[simp] theorem State.dieLimit_mem (s : State) (d : Nat) : (s.dieLimit d).mem = s.mem := by
  fun_cases State.dieLimit s d <;> simp

@[simp] theorem State.clusterLimit_mem (s : State) (c : Nat) : (s.clusterLimit c).mem = s.mem := by
  fun_cases State.clusterLimit s c <;> simp

@[simp] theorem State.judgeDraw_mem (s : State) : (s.judgeDraw).mem = s.mem := rfl

@[simp] theorem State.judgeRoom_mem (s : State) : (s.judgeRoom).mem = s.mem := rfl

@[simp] theorem State.judgeHeat_mem (s : State) (d : Nat) : (s.judgeHeat d).mem = s.mem := by
  fun_cases State.judgeHeat s d <;> simp

@[simp] theorem State.elapse_mem (s : State) (ns : Nat) : (s.elapse ns).mem = s.mem := by
  simp [State.elapse]

@[simp] theorem State.receive_wf (s : State) (x : Input) (h : s.mem.wf = true) : (s.receive x).mem.wf = true := by
  fun_cases State.receive s x <;> simp +zetaDelta [h, Mem.wf_writeTag, Mem.wf_setPoison]

theorem State.planEngine_canon (s : State) (u : Nat) (e : Eng) (h : s.mem.wf = true) : (s.planEngine u e).Canon := by
  have near : (s.approach u e).mem.wf = true := by simp [h]
  unfold State.planEngine
  dsimp only
  split
  · trivial
  split
  · exact near
  split
  · exact near
  · exact State.takeTrap_wf _ _ _ near
  · exact State.sPass_wf _ _ near
  · exact near

theorem State.plan_canon (s : State) (a : Act) (h : s.mem.wf = true) : (s.plan a).Canon := by
  cases a with
  | engine u e => exact s.planEngine_canon u e h
  | elapse ns =>
    show (s.elapse ns).mem.wf = true
    simp [h]
  | propagate id => exact s.propagate_wf id h
  | request u id k => exact s.partRequest_wf u id k h
  | outside x => exact s.receive_wf x h
  | ev i =>
    unfold State.plan
    dsimp only
    split <;> exact h

theorem Plan.out_canon {run : Instr → State → Out} (keeps : ∀ i s, s.mem.wf = true → OutCanon (run i s)) {p : Plan}
    (hp : p.Canon) : OutCanon (p.out run) := by
  cases p with
  | run i s => exact keeps i s hp
  | done s => exact hp
  | noUnit u => trivial

theorem State.faultOf_wf {run : Instr → State → Out} (keeps : ∀ i s, s.mem.wf = true → OutCanon (run i s)) {s : State} {u : Nat}
    {e : Eng} {q : Nat × State} (h : s.mem.wf = true) (fault : s.faultOf run u e = some q) : q.2.mem.wf = true := by
  have out := Plan.out_canon keeps (s.planEngine_canon u e h)
  unfold State.faultOf at fault
  split at fault
  next next =>
    rw [next] at out
    split at fault
    · obtain ⟨_, _, rfl⟩ := Option.map_eq_some_iff.mp fault
      exact out
    · cases fault
  · cases fault

theorem foldl_lowest_snd {P : State → Prop} : ∀ (l : List (Nat × State)) (b : Nat × State), P b.2 → (∀ q ∈ l, P q.2) →
    P (l.foldl (fun b q => if q.1 < b.1 then q else b) b).2
  | [], _, hb, _ => hb
  | q :: l, b, hb, hl => by
    refine foldl_lowest_snd l _ ?_ fun x hx => hl x (List.mem_cons_of_mem _ hx)
    dsimp only
    split
    · exact hl q List.mem_cons_self
    · exact hb

theorem State.firstFault_wf {run : Instr → State → Out} (keeps : ∀ i s, s.mem.wf = true → OutCanon (run i s)) {s t : State}
    (u : Nat) (e : Eng) (h : s.mem.wf = true) (ht : t.mem.wf = true) : (s.firstFault run u e t).mem.wf = true := by
  unfold State.firstFault
  split
  · exact ht
  split
  · exact ht
  · refine foldl_lowest_snd (P := fun t => t.mem.wf = true) _ _ ht fun q hq => ?_
    obtain ⟨x, _, fault⟩ := List.mem_filterMap.mp hq
    exact State.faultOf_wf keeps h fault

@[simp] theorem State.lateAct_wf (u : Nat) (s : State) (x : Eff) (h : s.mem.wf = true) : (State.lateAct u s x).mem.wf = true
  := by
  fun_cases State.lateAct u s x <;> simp [h]

@[simp] theorem State.lateActs_wf (s : State) (h : s.mem.wf = true) : s.lateActs.mem.wf = true := by
  refine foldl_wf (fun s q h => ?_) _ h
  dsimp only
  split
  · exact h
  · exact foldl_wf (fun s x h => State.lateAct_wf q.1 s x h) _ h

theorem State.afterAct_wf {run : Instr → State → Out} (keeps : ∀ i s, s.mem.wf = true → OutCanon (run i s)) {s t : State}
    (a : Act) (h : s.mem.wf = true) (ht : t.mem.wf = true) : (s.afterAct run a t).mem.wf = true := by
  unfold State.afterAct
  split
  · exact State.lateActs_wf _ (State.firstFault_wf keeps _ _ h ht)
  · exact State.lateActs_wf _ ht

@[simp] theorem State.nextAct_mem (s : State) : s.nextAct.2.mem = s.mem := by
  unfold State.nextAct
  split <;> rfl

@[simp] theorem State.placeWord_wf (s : State) (nbits w : Nat) (h : s.mem.wf = true) : (s.placeWord nbits w).mem.wf = true := by
  fun_cases State.placeWord s nbits w <;> simp +zetaDelta [h]

end Sys2Proof.Machine
end


section
/-! O7. The meaning of an instruction, a step, and the invariant. -/
namespace Sys2Proof.Machine

@[simp] theorem execKsub_wf (tk : Tok) (d a b imm32 : Nat) (s : State) (h : s.mem.wf = true) : OutCanon (execKsub tk d a b
  imm32 s) := by
  refine State.sWord_wf _ _ _ _ _ h fun s U r f h => ?_
  split <;> simp [h]

@[simp] theorem execKperm_wf (tk : Tok) (d a perm : Nat) (s : State) (h : s.mem.wf = true) : OutCanon (execKperm tk d a perm
  s) := by
  refine State.sWord_wf _ _ _ _ _ h fun s U r f h => ?_
  split_ifs <;> simp [h]

@[simp] theorem execKmov_wf (tk : Tok) (d a : Nat) (g : XP) (s : State) (h : s.mem.wf = true) : OutCanon (execKmov tk d a g
  s) := State.sWord_wf _ _ _ _ _ h fun _ _ _ _ h => h

@[simp] theorem execXtop_wf (tk : Tok) (a : Nat) (g : XP) (s : State) (h : s.mem.wf = true) : OutCanon (execXtop tk a g s) :=
  State.sWord_wf _ _ _ _ _ h fun _ _ _ _ h => h

@[simp] theorem execAdd128_wf (tk : Tok) (d a b : Nat) (g : XP) (s : State) (h : s.mem.wf = true) : OutCanon (execAdd128 tk d
  a b g s) := State.sWord_wf _ _ _ _ _ h fun _ _ _ _ h => h

/-- Every instruction, and every event of the table, keeps the memory canonical. -/
theorem exec_wf (i : Instr) (s : State) (h : s.mem.wf = true) : OutCanon (exec i s) := by
  cases i <;> simp [exec, h, execKget, execKtest, execPcmp, execPset, execPand, execPor, execPxor, execPnot, execPtox,
    execAdd, execSub, execAnd, execOr, execXor, execSll, execSrl, execSra, execMul, execMulh, execMulhu, execDiv, execDivu,
    execRem, execRemu, execMin, execMax, execMinu, execMaxu, execSlt, execSltu, execSeq, execClz, execPopc, execExt,
    execAddi, execLiShort, execLiLong, execAndi, execOri, execXori, execShi]

/-- The act taken from the agenda is planned, carried out by `exec`,
  and followed by `afterAct`: none of the three breaks the form. -/
theorem step_canon (s : State) (h : s.mem.wf = true) : OutCanon (step s) := by
  have next : s.nextAct.2.mem.wf = true := by simp [h]
  have out := Plan.out_canon exec_wf (s.nextAct.2.plan_canon s.nextAct.1 next)
  unfold step
  split
  next t acted =>
    rw [acted] at out
    exact State.afterAct_wf exec_wf s.nextAct.1 next out
  next refused =>
    cases acted : (s.nextAct.2.plan s.nextAct.1).out exec with
    | next t => exact absurd acted (refused t)
    | fault f => trivial
    | refused r => trivial

/-- Settles O7: the form is kept by each function that an act runs, along the plan of the act. -/
theorem everyStepKeepsMemoryCanonical : Obligations.EveryStepKeepsMemoryCanonical := by
  unfold Obligations.EveryStepKeepsMemoryCanonical
  intro s t h taken
  have kept := step_canon s h
  rwa [taken] at kept

end Sys2Proof.Machine
end
